-- ==== Sys2Proof/Word.lean ====
section
/-! DEFINITION. Word.lean: the word types of the QY3640 and their plainest arithmetic.
A register word has 16 bits, bit 15 the most significant (R6). -/
namespace Sys2Proof

/-- A 16-bit register word (R6). -/
abbrev Word := BitVec 16

/-- A byte of a slot payload, a queue block or a flash record. -/
abbrev Byte := BitVec 8

/-- A cell by its place from the bottom: `Cell` n stands for cell n + 1 (R4). -/
abbrev Cell := Fin 36

/-- A sense tap, pins C0 to C36 (R4). -/
abbrev Tap := Fin 37

/-- A coherent converter channel: 0 to 35 the cells, 36 CSA, 37 CSB (R79). -/
abbrev Chan := Fin 38

/-- The number the manual gives a cell, 1 to 36. -/
def cellNo (c : Cell) : Nat := c.val + 1

end Sys2Proof
end

