-- ==== Sys2Proof/Syntax.lean ====
section
/-! DEFINITION. Syntax.lean: the commands and events the QY3640 takes, one constructor per row of
spec/opcode_table.json, with what the outside world brings with each of them. A measured quantity
(a converter's raw output, a pin voltage, the instant of an edge) is an operand: the analogue world is
not part of the device's state. -/
namespace Sys2Proof

/-- The two ports of a device (R314). -/
inductive Port where
  /-- faces the upper landing -/
  | up
  /-- faces the lower landing -/
  | dn
deriving DecidableEq, Repr, Inhabited

/-- The two auxiliary converters (R126). -/
inductive Conv where
  | a
  | b
deriving DecidableEq, Repr, Inhabited

/-- The two lanes a device transmits on: DN-TX carries data down the stair, UP-TX up it (R314). -/
inductive Lane where
  | dnTx
  | upTx
deriving DecidableEq, Repr, Inhabited

/-- The supply supervisors of R57 that switch a fault or the bias source. `vstk`, `vaux` and `vpre` are
given in mV; the rails and the sentinel LDO in 1/1000 of their nominal value. -/
inductive Monitor where
  | vstk
  | vaux
  | vpre
  | v33
  | v18
  | v09
  | senLdo
deriving DecidableEq, Repr, Inhabited

/-- The two conditions of fault 54 (R56). -/
inductive BuckCause where
  /-- the current limit acted in 64 consecutive periods -/
  | limit
  /-- VPRE did not reach 5.0 V within 2.0 ms of a soft start -/
  | softStart
deriving DecidableEq, Repr, Inhabited

/-- The wake sources as sampled at step 3 of a SLEEP entry (R71). -/
structure WakeNow where
  pin : Bool
  toneUp : Bool
  toneDn : Bool
deriving DecidableEq, Repr, Inhabited

/-- The fields of a tread mark (R319). -/
structure Mark where
  stn : BitVec 32
  origin : BitVec 2
  ring : Bool
  bank : Bool
  rate : BitVec 2
  hops : Byte
  rcd : Byte
  rtgt : BitVec 2
  tbank : Bool
  acc : BitVec 32
  reye : BitVec 6
  reyeValid : Bool
deriving DecidableEq, Repr, Inhabited

/-- A slot on a lane (R323, R324): header fields, payload bytes, CRC. -/
structure Slot where
  idle : Bool
  type : BitVec 4
  ver : BitVec 4
  src : BitVec 14
  srcKind : BitVec 2
  slot : Nat
  rate : BitVec 2
  bank : Bool
  dir : Bool
  hop : Byte
  queue : BitVec 6
  first : Bool
  last : Bool
  qseq : Word
  len : Byte
  stnl : Byte
  payload : List Byte
  crc : BitVec 32
deriving DecidableEq, Repr, Inhabited

/-- What an owned slot meets: the STN of its frame's TMK, and whether the block for it shows an uncorrectable error in the
queue RAM (R361, R369). -/
structure OwnedAt where
  stn : BitVec 32
  ecc : Bool
deriving DecidableEq, Repr, Inhabited

/-- The command of a transaction: the port it came on and the slot that carries it (R345, R351); its row is the one that
the payload's OP names. -/
structure Cmd where
  port : Port
  raw : Slot
deriving DecidableEq, Repr, Inhabited

/-- What one group tread of the calibration engine measures on one channel (R158): the reading with the
internal zero, the reading with the standard, the standard's value in the channel's LSB, the deviations of the 18
feedback-DAC unit elements from the standard (tread q = 3), and the residuals with the new coefficients. -/
structure CalMeas where
  ch : Fin 56
  zero : Int
  std : Int
  stdVal : Int
  elems : List Int
  resOfs : Int
  resGain : Int
deriving DecidableEq, Repr, Inhabited

/-- The readings around one switch in a riser (R212, R224, R227): the raw means of the cell's channel, in its LSB, over the
clocks in which the switch conducts and over the last 128 clocks, and the drop-monitor voltage V_sw in µV. -/
structure SwitchMeas where
  cell : Cell
  vS : Rat
  vEnd : Rat
  vSw : Int
deriving DecidableEq, Repr, Inhabited

/-- The three conditions that fail a balance switch (R225). -/
inductive SwitchFault where
  | stuckOn
  | stuckOff
  | path
deriving DecidableEq, Repr, Inhabited

/-- The three risers of a tap test (R237). -/
inductive TapPhase where
  | reference
  | sink
  /-- the source phase lasted `clks` modulator clocks: until cell n read at or above its reference -/
  | source (clks : Fin 257)
deriving DecidableEq, Repr, Inhabited

/-- What a tap-test riser measures for tap n: the raw means of cells n and n + 1 over its last 128 modulator clocks, in µV before
the corrections of R90, and the drop monitor's V_S,n and V_S,n+1 in µV. -/
structure TapMeas where
  vN : Rat
  vN1 : Rat
  sN : Int
  sN1 : Int
deriving DecidableEq, Repr, Inhabited

/-- A sentinel comparator (R256). -/
inductive Sentinel where
  | ov (c : Cell)
  | uv (c : Cell)
  | oc
  | die
deriving DecidableEq, Repr, Inhabited

/-- The three phases' results of one sentinel test item (R270), or of an oscillator check. -/
structure SenTest where
  p1 : Bool
  p2 : Bool
  p3 : Bool
deriving DecidableEq, Repr, Inhabited

/-- The internal conditions the safety processor and the flow monitor report in a tread (R266). -/
structure ProcState where
  romOk : Bool
  ramOk : Bool
  flowOk : Bool
  eccCorrected : Nat
deriving DecidableEq, Repr, Inhabited

/-- A record slot as the flash controller reads it (R405): the header, the payload and the bit errors the
ECC found (more than 8: damaged, R406). -/
structure Record where
  type : Byte
  flags : Byte
  setIdx : Byte
  setLen : Byte
  seq : BitVec 32
  ltc : BitVec 48
  ptSec : BitVec 32
  ptMs : Word
  segment : BitVec 2
  eraseCnt : BitVec 24
  epochNo : BitVec 32
  formatNo : Byte
  cls : BitVec 2
  missEp : Word
  payload : List Byte
  prev : BitVec 256
  hash : BitVec 256
  errs : Nat
deriving DecidableEq, Repr, Inhabited

/-- How an issued flash operation ended (R412, R416). -/
inductive OpEnd where
  /-- verified; `corrected` bits were corrected in the read-back -/
  | ok (corrected : Nat)
  /-- the part reported failure or the read-back mismatched -/
  | failed
deriving DecidableEq, Repr, Inhabited

/-- An anchor (R404): the bitmap as the list of the retired sectors. -/
structure Anchor where
  seq : BitVec 32
  formatNo : Byte
  ringSec : Nat
  head : Nat
  tail : Nat
  retired : Nat
  maxErase : Nat
  map : List Nat
deriving DecidableEq, Repr, Inhabited

/-- What discovery found (R401, R402): the JEDEC ID, what the SFDP table lists of R400's items (density in Mbit, times in µs
and ms where given), the anchors whose CRC is right, and the newest record with its slot, found by reading from HEAD on. -/
structure FlashFind where
  sfdp : Bool
  idBlank : Bool
  jedec : BitVec 24
  density : Nat
  erase4k : Bool
  page256 : Bool
  addr4 : Bool
  progUs : Option Nat
  eraseMs : Option Nat
  dual : Bool
  quad : Bool
  anchorA : Option Anchor
  anchorB : Option Anchor
  ringErased : Bool
  head : Nat
  newest : Option Record
deriving DecidableEq, Repr, Inhabited

/-- A decoded Tipol reply, or its absence: the pulse widths in 1/65.536 µs (R429). -/
structure TipolFrame where
  edge : Bool
  wCal : Nat
  gaps : List Nat
  widths : List Nat
  inTime : Bool
deriving DecidableEq, Repr, Inhabited

/-- Which coefficient item a COEFF_CRC_CHECK finds wrong: the RAM copy and the vault's factory copy. -/
structure CrcState where
  ramOk : Bool
  vaultOk : Bool
deriving DecidableEq, Repr, Inhabited

/-- The Q2 block fields a subscriber copies (R117). -/
structure BlockRx where
  stn : BitVec 32
  srcId : Word
  fineCfg : Byte
  stat : Byte
  fsx : BitVec 32
  n : Nat
  rshA : BitVec 32
  rshB : BitVec 32
  invA : Word
  invB : Word
  fa : List Int
  fb : List Int
deriving DecidableEq, Repr, Inhabited

/-- Why a port leaves link-up (R332): loss of signal, code violations, no TMK. `signal` is the other edge of the detector
of R316: the loss of signal releases. -/
inductive DownCause where
  | los
  | signal
  | violations
  | noMarks
deriving DecidableEq, Repr, Inhabited

/-- The commands and events of the QY3640, one per row of spec/opcode_table.json. (DESIGN CHOICE, log 4; DEDUCED, log 88; DESIGN CHOICE, log 126) -/
inductive Instr where
  -- supply, start, reset and SLEEP (03)
  | powerOnReset
  | brownOutReset
  | pinReset
  | thermalShutdown (die : Int)
  | supplyMonitor (m : Monitor) (v : Nat)
  | suppliesValid (auxSupply : Bool)
  | vaultRead (crcOk sigOk : Bool)
  | strapLatch (safcfg : BitVec 4) (brole : BitVec 2)
  | sentinelArm
  | wakeToneEnd
  | configLoad (regionOk : Bool)
  | buckFault (c : BuckCause)
  | buckRetry
  | swrst (key : Byte)
  | sleep (key : Byte)
  | commLossTimeout
  | sleepEntry
  | sleepFlushDone (w : WakeNow)
  | sleepFlushTimeout (w : WakeNow)
  | wakePin
  | wakeToneDetect (p : Port)
  | rstnWake
  -- treads and time (02)
  | treadStart (cvUp cvDn : Nat)
  | alignmentLost
  | tmkRx (p : Port) (m : Mark) (clean : Bool) (crc : Word) (tArr : Int)
  | slippedTread (cut : Fin 65536)
  | alignSourceChange (p : Port)
  | ltchiWrite (verified : Bool)
  | plantTime (c : Cmd)
  | plantTimeApply
  -- cells, currents and coherence (04, 05)
  | snapshotImage (late : Bool) (samples : List (List Int))
  | fineBoundary (clk : Fin 4096) (samples : List (List Int))
  | restart
  | fineen (on : Bool)
  | overloadAssert (ch : Chan) (high : Bool) (clk : Fin 4096)
  | overloadRelease (ch : Chan) (clk : Fin 4096)
  | broadcastBlockRx (p : Port) (sos : Bool) (s : Slot)
  | gapTread
  -- auxiliary converters (06)
  | auxPowerUp (c : Conv)
  | auxPassStart (c : Conv)
  | quietEntryStart (c : Conv)
  | auxConversionEnd (c : Conv) (samples : List Int) (clk : Fin 4096)
  | sharedStale
  | crossCompare (c : Conv)
  | urgreq (v : Word)
  | urgentConversionEnd (c : Conv) (samples : List Int) (clk : Fin 4096)
  | auxEnableChange (c : Conv)
  -- calibration and ageing (07)
  | run
  | calAbort
  | syszero
  | syszeroTread
  | calGroupTread (meas : List CalMeas)
  | refTrioMeasure (a b c : Int)
  | calAutoStart
  | calOverdue
  | slotCommit (ok : Bool)
  | vaultCommitDeferEnd (ok : Bool)
  | coeffCrcCheck (st : CrcState)
  | guardVaultWrite
  | healthPost
  | userTrimWrite (v : Word)
  -- impedance engine (08)
  | go
  | stop
  | impIntegrationStart (lane : Fin 8)
  | impResults (lane : Fin 8)
  | impResume
  | tofsWrite (v : Word)
  | impwinCursorAdvance
  | impwinFreeze (on : Bool)
  -- balancing (09)
  | balRiserAlloc (r : Fin 16) (meas : List SwitchMeas)
  | dutyWrite (c : Cell) (v : Word)
  | modeStop (c : Cell)
  | switchFail (c : Cell) (k : SwitchFault)
  | stopall
  | relearn
  | balRetest
  | learnBlock (t : Tap)
  -- diagnostics (10)
  | diagTread
  | tapTestPhase (t : Tap) (ph : TapPhase) (m : TapMeas)
  | now
  | spanFallback
  -- safety (11)
  | sentinelAssert (x : Sentinel) (on : Bool)
  | sentinelTrip (x : Sentinel)
  | sentinelRelease (x : Sentinel)
  | safetyEvaluation (p : ProcState)
  | hostWatchdogExpire
  | kick
  | safeTrip (key : Byte)
  | safeRetest (key : Byte)
  | tcommit (v : Word)
  | sentinelSelfTest (r : SenTest)
  -- banister and output (12); instants in ns since supplies valid
  | heartbeatEdge (t : Nat)
  | heartbeatLoss (t : Nat)
  | ackEdge (t : Nat)
  | ackBurstEnd (t : Nat)
  | ackHeld (t : Nat)
  | ackQuiet (t : Nat)
  | ovsChange (mV : Nat)
  | readbackFailure
  | offPulseStart
  | offPulsePass (fall : Fin 101)
  | offPulseFail
  | offPulseReclose
  | recloseCheckEnd (ok : Bool)
  | stageCheckPhase (ph : Fin 3) (ok : Bool)
  -- fault collector (13)
  | faultCollection
  | errPulseEnd
  | stickyClear (w : Fin 4) (v : Word)
  | clrall
  | classWrite (w : Fin 8) (v : Word)
  -- Stairlink physical and link layers (14)
  | listenRateCycle (p : Port)
  | ts1Rx (p : Port) (f : Byte) (complementOk : Bool)
  | trainingDetectDone (p : Port)
  | eyeSweepDone (p : Port) (positions : List Bool)
  | prbRx (p : Port) (id : Byte) (res : Fin 1280)
  | echRx (p : Port) (id : Byte) (res : Fin 1280) (rt : Nat)
  | hopDelayDone (p : Port)
  | trainingReportDone (p : Port) (f : Byte) (eye : Byte) (eyes : List Byte) (d : BitVec 32)
  | linkDown (p : Port) (why : DownCause)
  | retrain (p : Port)
  | fullTraining (p : Port)
  | slotRx (p : Port) (sos : Bool) (s : Slot)
  | ownedSlot (l : Lane) (slot : Nat) (f : OwnedAt)
  | eyeMonitor (p : Port) (positions : List Bool)
  | crcWindowEnd
  | rateChange
  | rateTreadDone (p : Port) (f : Byte)
  | rateTreadTimeout (p : Port)
  | rateSetMissing
  | bankSwitch
  -- transactions, queues and plans (15)
  | read (c : Cmd)
  | write (c : Cmd)
  | writeMask (c : Cmd)
  | bcastWrite (c : Cmd)
  | countOff (c : Cmd)
  | ping (c : Cmd)
  | rateSet (c : Cmd)
  | fsageClose (q : Fin 38)
  | mirrorRead (k : Fin 8)
  | planchk
  | plandataAccess (wr : Option Word)
  | flush
  | clrcache
  | stairidWrite (v : Word)
  -- gallery (16)
  | galleryAccumulate
  | epochFold
  | galleryRestore
  | edgeAdopt
  | galClear (key : Byte)
  | galXfer
  | exportBlockPost
  | galCursorAdvance
  | galFreeze (on : Bool)
  -- flash and vault (17)
  | flashDiscovery
  | flashDiscoveryDone (f : FlashFind)
  | format (key : Byte)
  | flashOpDone (e : OpEnd)
  | tombstoneWrite
  | hourlyRecord
  | dailySeal (verified : Bool)
  | cleanerReclaim
  | scrubSector (errs : List Nat) (chainOk : Bool)
  | scrubnow
  | dump
  | dumpBlockPost
  -- Tipol (18)
  | tipolShortSample (high : Bool)
  | tipolCall (answer highCheck : Bool)
  | tipolReply (f : TipolFrame)
  | search
  | searchTransactionEnd (maps : List Word)
  | pollCycleStart
  | pollnow
  | convtWaitEnd
  | clearreg
  -- configuration and life-cycle (19)
  | cfgArm (key : Byte)
  | cfgOpen (key : Byte)
  | persist (key : Byte)
  | unpersist (key : Byte)
  | cfgGuardCheck
  | tdataAccess (wr : Option Word)
  | tselWrite (v : Word)
  | tableCheck
  | tableDel
  | tableAdopt
  | tableRecheck (bad : List (Fin 7))
  | lifeArm (arm3 : Word)
  | lifeCommit (v : Word)
  | lifeArmExpire
  | certdataRead
  | registerWrite (addr : Fin 2048) (v : Word)
  -- rows added at the table's end
  | trainingDetectTimeout (p : Port)
  | flashBusyTimeout
  | closingFlushTimeout
  | excitationSquareWaveEdge (on : Bool) (clk : Fin 4096)
deriving DecidableEq, Repr, Inhabited

end Sys2Proof
end

