-- ==== Sys2Proof/Decode.lean ====
section
/-! DEFINITION. Decode.lean: the commands that a word of the opcode table spells. No row of spec/opcode_table.json gives
bits: a command reaches the block as a register access, a slot on a link, a pin event or an instant of its own clock, not as
a word that is decoded. -/
namespace Sys2Proof

/-- The command of a word, for the rows that give bits: there is none. (DESIGN CHOICE, log 5) -/
def decodeTableWord (_nbits _w : Nat) : Option Instr := none

end Sys2Proof
end

