-- ==== Sys2Proof/Config.lean ====
section
/-! DEFINITION. Config.lean: what the specification leaves open. Every constant here is opaque: nothing in
Lean can evaluate one, so a statement that mentions it holds for every value it may have. -/
namespace Sys2Proof.Config

/-- Which way R90's "round" takes the value halfway above `n` (the spec names no rule for ties). -/
opaque tieUp : Int → Bool

/-- Which neighbour on a grid of 1/256 LSB the state of a second-order section takes (R82 to R87 fix responses, not word
lengths). (DESIGN CHOICE, log 13) -/
opaque quantUp : Rat → Bool

/-- The order in which equally mismatched feedback-DAC elements are excluded (R158 names none). (DESIGN CHOICE, log 138) -/
opaque dacRank : Nat → Nat

/-- Taps 0 to 10 of the 24-tap compensating FIR, in 2^-24: linear phase and DC gain fix the others, R84 bounds the
response. (DESIGN CHOICE, log 13) -/
opaque firFree : Nat → Int

/-- The angle of a result with RE = IM = 0, in 0.01° (R201). (DEDUCED, log 15) -/
opaque atanOrigin : Int

/-- Values of the lock-in that the rules leave without a number: over no valid sample, by a zero reference, γ² of zero
powers (R185, R189, R191). (DESIGN CHOICE, log 139) -/
opaque lockFree : Nat → Rat

/-- Whether a long auxiliary conversion that an urgent request meets has passed its settling time (R140);
the request carries no clock. (DESIGN CHOICE, log 17) -/
opaque settled : Nat → Bool

/-- The die temperature of an image formed before any conversion of the start has ended (R136). (DESIGN CHOICE, log 18) -/
opaque dieFree : Nat → Nat

/-- How many entries of the vault ring fail their verification before one holds, at the write that the ring's
count of writes names (R41); LTCHI_WRITE reports its own. (DEDUCED, log 47) -/
opaque ringFails : Nat → Nat

/-- The measured time of SYS.STARTUS, in µs (R59, R74). (DESIGN CHOICE, log 19) -/
opaque startUs : Nat → Nat

/-- The forwarding latency L of a lane in UI/128, measured by the part; R325 bounds it by 30 characters. (DESIGN CHOICE, log 20) -/
opaque forwardLatency : Nat → Nat

/-- IDL sets added to (removed from, when negative) the fill of a frame forwarded in holdover (R327). (DESIGN CHOICE, log 146) -/
opaque idlSets : Nat → Int

/-- The oscillator's trim drift applied at a lock, LSB 0.01% (R173): no row reports it. (DESIGN CHOICE, log 21) -/
opaque oscDrift : Nat → Int

/-- RING, RTGT and TBANK of a mark with ORIGIN 11, which R322 does not give (three numbers in one). (DESIGN CHOICE, log 22) -/
opaque markFill : Nat → Nat

/-- The output-stage load voltage of BAN.VLOAD, which no row of the opcode table reports. (DESIGN CHOICE, log 23) -/
opaque vload : Nat → Word

/-- What the gallery window shows at a BIN that its class does not have (R392, R393), and other window words
that no rule gives. (DESIGN CHOICE, log 24) -/
opaque windowFree : Nat → Nat

/-- The SEQ of the first record of a format (R405 gives only that it rises by 1). (DESIGN CHOICE, log 25) -/
opaque firstSeq : Nat → Nat

/-- What a seal names for a class without a record: a digest and a SEQ (R409). (DESIGN CHOICE, log 26) -/
opaque noDigest : Nat → BitVec 256
opaque noSeq : Nat → Nat

/-- Whether the device's signature verified when a closing or monthly seal was made (R409): no row reports it. (DESIGN CHOICE, log 27) -/
opaque sealVerified : Nat → Bool

/-- What a dump finds in slots whose content no rule gives (R420): status, corrected bits and 512 bytes. (DESIGN CHOICE, log 29) -/
opaque dumpByte : Nat → Nat → Byte

end Sys2Proof.Config
end

