-- ==== Sys2Proof/Machine/State.lean ====
section
/-! DEFINITION. State.lean: everything the specification gives the QY3640, as plain data: the register
words, the time base, the result images, the queues, the engines' own state and the vault. -/
namespace Sys2Proof.Machine

/-- A sparse table in one canonical form (`mapWf`): keys strictly rising, and no entry equal to what an
unlisted key reads as. What an unlisted key reads as is given where the table is read. -/
abbrev SMap (α : Type) := List (Nat × α)

/-- A field of a register: page, word within the page, lowest bit and width (R6, R7). A whole word has
lowest bit 0 and width 16. -/
structure Fld where
  page : Nat
  word : Nat
  lo : Nat
  w : Nat
deriving DecidableEq, Repr, Inhabited

/-! ### Power (03) -/

/-- Where the device is in its life of R59, R66 and R69. `starting n` counts the entries of the start
sequence already done: 0 supplies valid, 1 vault read, 2 straps latched. -/
inductive Phase where
  | off
  | starting (n : Nat)
  | active
  | sleep
deriving DecidableEq, Repr, Inhabited

/-- The request behind a SLEEP entry in progress (R68, R69). -/
inductive SleepReq where
  | host
  | commLoss
deriving DecidableEq, Repr, Inhabited

/-- What waits for the closing flush to end (R66, R69, R453). -/
inductive Closing where
  | sleep (r : SleepReq)
  | swrst
  | life
  /-- the slot commit of step 3 of a life-cycle commit runs; the software reset follows (R453) -/
  | wipe
deriving DecidableEq, Repr, Inhabited

/-- How a command ends ACTIVE (R66, R69): a reset with its RSTCAUSE bits, or power-down into SLEEP with the wake sources
present then. -/
inductive Leave where
  | reset (causes : Nat)
  | sleep (wake : Nat)
deriving DecidableEq, Repr, Inhabited

structure Power where
  phase : Phase
  /-- causes collected for the next start, in the bit order of SYS.RSTCAUSE (R67) -/
  causes : Nat
  /-- RSTN is held low (R58) -/
  rstnLow : Bool
  /-- a thermal shutdown is held (R57) -/
  thermHold : Bool
  /-- the device is wired for the auxiliary supply (R52) -/
  auxSupply : Bool
  /-- supervisor outputs (R57); `railBad` bits 0 to 2: V33, V18, V09 outside their window -/
  vstkLow : Bool
  vstkHigh : Bool
  vauxOk : Bool
  vpreLow : Bool
  railBad : Nat
  senLdoBad : Bool
  /-- a buck fault stopped the controller in this start (R56) -/
  buckStopped : Bool
  /-- a SLEEP request and the tread of it (R68) -/
  sleepReq : Option SleepReq
  reqAt : Nat
  /-- the tread of a keyed SLEEP, and a keyed SWRST, that came while a communication-loss entry stood: they act if
  R70 ends that entry -/
  hostWait : Option Nat
  rstWait : Bool
  /-- buck retries of this start (R56, R74) -/
  retries : Nat
  /-- the flush in progress and what follows it (R66, R69) -/
  closing : Option Closing
  /-- this start followed a wake, and a wake event held over the SLEEP entry (R71, R73) -/
  woken : Bool
  wakeHeld : Bool
  /-- a wake tone is being sent on both TX lanes (R73) -/
  toneOut : Bool
  /-- set by the command in progress: it ends ACTIVE (`State.settle`); none between commands -/
  leave : Option Leave
deriving DecidableEq, Repr, Inhabited

/-! ### Treads and time (02) -/

structure Time where
  /-- treads since master clock 0 of tread 0 of this start -/
  tread : Nat
  ltc : Nat
  stn : Nat
  /-- plant time: seconds and milliseconds (R47); stands only while PTVALID = 1 -/
  ptSec : Nat
  ptMs : Nat
  /-- plant time at master clock 0 of the tread; none before the first set (R48, R385) -/
  pt0 : Option (Nat × Nat)
  /-- an accepted mark has arrived in the current tread (R35) -/
  marked : Bool
  /-- consecutive treads without an accepted mark (R35) -/
  misses : Nat
  /-- phase error left to correct, in 1/256 master clock (R34, R36) -/
  phaseLeft : Int
  /-- the change a of riser 15 of the current tread (R34) -/
  adjust : Int
  /-- a step takes effect at the end of the present tread (R37) -/
  slipped : Bool
  /-- a phase step waits for the next tread boundary (R36) -/
  stepPend : Option Int
  /-- the current tread was cut before the end of riser 2 (R37) -/
  noSnap : Bool
  /-- the step at the last boundary lengthened the tread: its idle time runs (R37) -/
  idle : Bool
  /-- plant time of the newest journal record, for TIME_STEP (R49) -/
  stepMark : Bool
  /-- the LTC high bits of the last vault write (R40) -/
  hiWritten : Nat
  /-- latched words of the read latches of R51, by port and address -/
  latch : SMap (Option Word)
deriving DecidableEq, Repr, Inhabited

/-! ### Cells, currents (04, 05) -/

/-- A result (R97, R103): value, flags, tag and uncertainty class. -/
structure Res where
  v : Int
  ovr : Bool
  nbr : Bool
  stale : Bool
  bal : Bool
  pls : Bool
  tag : Nat
  unc : Nat
deriving DecidableEq, Repr, Inhabited

/-- The fine chain of one channel (R82, R89). Clocks are modulator clocks since tread 0. -/
structure Chain where
  /-- the restart from which the chain's history counts -/
  start : Nat
  /-- samples of the sinc3 stage, oldest first -/
  buf : List Int
  /-- samples since the restart -/
  n : Nat
  primed : Bool
  /-- the FIR's 24 inputs, newest first, each R³ times the sinc3 output -/
  hist : List Int
  /-- corner filter state: x1, x2, y1, y2 -/
  corner : List Rat
  /-- the states of the four notches -/
  notch : List (List Rat)
  /-- a result has been posted since the restart -/
  posted : Bool
  /-- the restart ended an overload: its modulator settles first, and NBR repeats the old result (R94, R95) -/
  afterOvr : Bool
  /-- step-6 output of the newest boundary, for the impedance engine (R82) -/
  raw : Int
  /-- modulator clocks of the channel's balance activity during the last 14 output periods (R230) -/
  balUntil : Nat
deriving DecidableEq, Repr, Inhabited

/-- The overload detector of one channel (R93, R110). -/
structure Ovl where
  on : Bool
  high : Bool
  /-- the modulator clock of the last assertion -/
  since : Nat
  /-- the end of the last overload, while its clamp codes last (R94) -/
  tEnd : Option Nat
  /-- asserted in clocks 99 to 507 of the current tread (R96) -/
  win : Bool
deriving DecidableEq, Repr, Inhabited

/-- A fine-stream block being filled (R365). -/
structure OpenBlk where
  fsx : Nat
  samples : List Int
  flags : Nat
  ff : Nat
  fl : Nat
  /-- the tread (since start) of its oldest sample -/
  born : Nat
deriving DecidableEq, Repr, Inhabited

structure Cells where
  /-- the snapshot image (R13), by channel -/
  snap : SMap Res
  snapStn : Nat
  snapTag : Nat
  /-- LTC of the image's aperture tread and the plant time of that tread (R385) -/
  snapLtc : Nat
  snapPtSec : Nat
  snapPtMs : Nat
  sum : Int
  /-- COUNT when the image, and when the fine results, were formed: the cells their SUM and SUMFLAG cover (R103, R104) -/
  snapCount : Nat
  fineCount : Nat
  /-- 251 × 128 × 16 times the raw decimator value of CSA and CSB (R81, R166) -/
  curNum : SMap Int
  /-- die temperature used for the image, LSB 0.0625 °C (R103) -/
  dieTemp : Int
  /-- an image was formed in this tread -/
  fresh : Bool
  /-- the image of this tread was late or the tread was cut (R29, R37) -/
  lateRun : Nat
  /-- the newest fine results and their FSX and tag (R104) -/
  fine : SMap Res
  /-- the fine results of the boundary before, and its modulator clock (R146) -/
  prev : SMap Res
  prevAt : Nat
  fsx : Nat
  fineSum : Int
  fineDie : Int
  fineTag : Nat
  /-- the modulator clock of the newest boundary that posted a result -/
  fineAt : Nat
  /-- the modulator clock of the newest boundary seen, with or without a result (R89) -/
  boundAt : Nat
  chains : SMap Chain
  ovl : SMap Ovl
  /-- the value a channel under calibration holds: snapshot and fine (R162) -/
  holdSnap : SMap Res
  holdFine : SMap Res
  /-- the last raw sample before a calibration group, fed to the fine chain (R162) -/
  holdRaw : SMap Int
  openBlk : SMap (Option OpenBlk)
  /-- tread of a FINE write not yet in effect (R89) -/
  finePend : Option Nat
  /-- latched words B of R101 and R137, by port and address -/
  latch : SMap (Option Word)
deriving DecidableEq, Repr, Inhabited

/-- One accepted broadcast block waiting for pairing, or its absence (R121). -/
structure RxBlk where
  stn : Nat
  blk : BlockRx
deriving DecidableEq, Repr

/-- A pair of fine current results for the own broadcast: boundary clock since tread 0, FSX, validity (R116). -/
structure OwnSample where
  clk : Nat
  fsx : Nat
  a : Res
  b : Res
  okA : Bool
  okB : Bool
deriving DecidableEq, Repr, Inhabited

structure Curr where
  /-- consecutive mismatch and match treads (R115) -/
  mis : Nat
  ok : Nat
  /-- this tread was a mismatch tread -/
  misNow : Bool
  /-- the accepted blocks, newest first -/
  rx : List RxBlk
  /-- consecutive gap treads (R122) -/
  gaps : Nat
  /-- fault 30 was raised in the present run of gap treads -/
  gapRaised : Bool
  /-- refused blocks of the last treads with their cause (R122), newest first -/
  refused : List (Nat × Nat)
  /-- STN of the last tread judged for a gap -/
  judged : Option Nat
  /-- the shunt of the reference's source in nΩ, from the last accepted block (R187) -/
  rsh : Nat
  /-- fine current samples of the last tread for the own broadcast, oldest first (R116) -/
  own : List OwnSample
  /-- treads from the newest sound block of the subscription to the tread it came in (R118) -/
  lag : Nat
deriving DecidableEq, Repr, Inhabited

/-! ### Calibration (07) -/

/-- A pair of coefficients on its way from an old to a new value: offsets in 1/256 of the channel's LSB,
gains in 1/256 of 0.01 ppm (R154, R156, R163). -/
structure Ramp where
  o0 : Int
  o1 : Int
  g0 : Int
  g1 : Int
  j : Nat
  n : Nat
deriving DecidableEq, Repr, Inhabited

/-- The field layer and quality figures of one correctable channel. -/
structure CalChan where
  delta : Ramp
  temp : Option Int
  dacx : Nat
  /-- calibrated since start (R160) -/
  acc : Bool
  resO : Int
  resG : Int
  spread : Nat
  wch : Nat
deriving DecidableEq, Repr, Inhabited

/-- One channel's entry of a calibration slot (R167). -/
structure SlotChan where
  o : Int
  g : Int
  temp : Option Int
  dacx : Nat
  acc : Bool
deriving DecidableEq, Repr, Inhabited

/-- A persisted configuration image (R442): the CFG stream's content, the check word, the SAFE candidates and
the words of the tables present. -/
structure CfgImage where
  words : SMap Word
  depths : SMap Nat
  trims : SMap (Int × Int)
  tofs : SMap (Option Int)
  check : Nat
  arm : Bool
  safe : List Word
  tables : SMap (List Word)
deriving DecidableEq, Repr, Inhabited

/-- A calibration slot (R167). -/
structure CalSlot where
  seq : Nat
  ltc : Nat
  lastLtc : Nat
  lastTemp : Word
  chans : SMap SlotChan
  ouA : Int
  ouB : Int
  szA : Bool
  szB : Bool
  image : Option CfgImage
deriving DecidableEq, Repr, Inhabited

structure CalRun where
  t : Nat
  scope : Nat
  acceptedAny : Bool
  slip : Bool
  /-- a group of the run was discarded -/
  slipped : Bool
  /-- fault 17 was live at the start: no channel is calibrated (R153) -/
  dead : Bool
  /-- a channel of the run's group has passed its tread q = 2: calibration temperatures -/
  temps : SMap Int
  /-- the trio spread measured in tread 0 (R171) -/
  spread : Nat
  /-- the element selections of the group's tread q = 3, and what its tread q = 4 measured: judged when that tread ends -/
  dac : SMap (Option Nat)
  meas : List CalMeas
deriving DecidableEq, Repr, Inhabited

structure SysZ where
  t : Nat
  accA : List Int
  accB : List Int
  rejA : Bool
  rejB : Bool
deriving DecidableEq, Repr, Inhabited

structure Cal where
  run : Option CalRun
  /-- the cell and current channels under calibration in the present tread and in the four before it, newest first (R162) -/
  past : List (List Nat)
  runReq : Bool
  abortReq : Bool
  sz : Option SysZ
  szReq : Bool
  chans : SMap CalChan
  trims : SMap Ramp
  /-- a SYSZERO counts as accepted since start for CSA, CSB (R112) -/
  szAccA : Bool
  szAccB : Bool
  /-- that O_u was set by an accepted SYSZERO (R167) -/
  szFlagA : Bool
  szFlagB : Bool
  dueSince : Option Nat
  fullDone : Bool
  rejEnd : Option Nat
  /-- a commit of the slots is due, and whether one is deferred (R168, R169) -/
  commitDue : Bool
  deferred : Bool
  /-- a coefficient reload is due in the next tread (R170) -/
  reloadDue : Bool
  /-- results carry class 15 until the reload (R170) -/
  suspect : Bool
  vaultBad : Bool
  guard : Nat
  slot : Option CalSlot
  slotVault : Bool
deriving DecidableEq, Repr, Inhabited

/-! ### Balancing (09) -/

/-- A switch's conduction in one interval of modulator clocks, with its current in µA (R212, R230). -/
structure Conduct where
  a : Nat
  b : Nat
  i : Rat
  /-- V_S in µV and R_path in mΩ of the interval -/
  vs : Rat
  rp : Nat
  /-- 1 balancing, 2 excitation, 3 learning pattern -/
  why : Nat
deriving DecidableEq, Repr, Inhabited

/-- Sums of the edge steps of one tap's block (R227). -/
structure EdgeSum where
  n : Nat
  vi : Rat
  ii : Rat
deriving DecidableEq, Repr, Inhabited

structure Bal where
  /-- why a switch conducts now: 0 open, 1 balancing, 2 excitation, 3 learning pattern -/
  on : SMap Nat
  /-- the riser of the last allocation and the readings of that riser -/
  riser : Nat
  meas : List SwitchMeas
  /-- switches opened within the present riser by an event of R220 -/
  cut : SMap Bool
  /-- duty in effect e of the tread and carry A, in 1/256 tread (R215, R216) -/
  eff : SMap Nat
  /-- cells with a non-zero duty in effect at the tread's master clock 0 (R196), and those given to excitation in it (R223) -/
  duty : SMap Bool
  given : SMap Bool
  carry : SMap Nat
  owed : SMap Nat
  served : SMap Nat
  /-- risers owed by all cells at the tread's start -/
  owedSum : Nat
  /-- cells passed over by MAXON or R213 in the tread (R217) -/
  passed : SMap Bool
  timer : SMap Nat
  tgt : SMap Nat
  /-- the pointer of the tie rule, a cell index (R217) -/
  ptr : Nat
  cond : SMap (List Conduct)
  stuckOn : SMap Nat
  stuckOff : SMap Nat
  /-- V_sw in riser 2 of switches commanded off (R225) -/
  sw2 : SMap (Option Int)
  /-- switches commanded on in the tread, and those whose drop was once within its limit -/
  wasOn : SMap Bool
  dropOk : SMap Bool
  ronSum : SMap Rat
  ronCnt : SMap Nat
  ron : SMap (Option Int)
  /-- the mean published last lies outside 0.3 to 1.8 Ω (R225) -/
  pathBad : SMap Bool
  /-- R_w of an inner tap in 10 µΩ (R227) -/
  rw : SMap (Option Rat)
  edge : SMap EdgeSum
  /-- an edge of riser 15 waiting for the next snapshot: observing cell index, W_on in µV, I in µA -/
  edgePend : SMap (Option (Nat × Rat × Rat))
  /-- owed and served risers of the last 1,000 treads, newest first (SERVE) -/
  ring : List (Nat × Nat)
  /-- DUTY writes waiting for master clock 0: 1 mode set, 2 off (R218) -/
  pend : SMap Nat
  stopReq : Bool
  retestReq : Bool
  /-- the active lane's tone phase lies in [0, π) (R194) -/
  phase : Bool
deriving DecidableEq, Repr, Inhabited

/-! ### Queues, transactions and plans (15) -/

/-- A block waiting in a queue (R362, R363). -/
structure Block where
  /-- its QSEQ -/
  seq : Nat
  bytes : List Byte
  /-- payload bytes already sent -/
  sent : Nat
  /-- the lane on which it started, and whether it started in a lean slot -/
  lane : Option Lane
  lean : Bool
  /-- lanes it still has to go out on: a notice's lane set, a response's landing -/
  up : Bool
  dn : Bool
  /-- the lane set is fixed, and a notice has gone out on a lane of it (R363) -/
  fixed : Bool
  gone : Bool
deriving DecidableEq, Repr, Inhabited

structure Queue where
  /-- waiting blocks, oldest first -/
  blocks : List Block
  /-- the QSEQ of the next posted block -/
  next : Nat
deriving DecidableEq, Repr, Inhabited

/-- One command of a duplicate cache (R357); a NORESP broadcast holds no response. -/
structure CacheEnt where
  tid : Nat
  crc : BitVec 32
  resp : Option (List Byte)
deriving DecidableEq, Repr, Inhabited

structure Xact where
  queues : SMap Queue
  /-- written depths and, where a write waits for master clock 0, depths in use (R361) -/
  depth : SMap (Option Nat)
  depthUse : SMap (Option Nat)
  drops : SMap Nat
  /-- the duplicate caches, newest first -/
  cacheUp : List CacheEnt
  cacheDn : List CacheEnt
  /-- plan bank words: bank × 2048 + index (R369) -/
  plan : SMap Word
  /-- consecutive accepted marks that announce another bank (R373) -/
  bankMis : Nat
  /-- the announced bank that takes effect at master clock 0 (R373) -/
  bankNext : Option Nat
  /-- a checked active bank takes effect at master clock 0 (R371) -/
  planWait : Bool
  /-- the active bank has been chosen since the start (R371) -/
  bankChosen : Bool
  /-- the broadcast slot's payload copied last (R119) -/
  rxPort : Option Port
deriving DecidableEq, Repr, Inhabited

/-! ### Configuration, tables, vault (17, 19) -/

/-- The state of a table (R445, R446). -/
inductive TblState where
  | absent
  | valid
  | bad
deriving DecidableEq, Repr, Inhabited

structure Cfg where
  tblState : SMap TblState
  /-- the points of each table in use, x and y as stored, and its 68 words -/
  tblPts : SMap (List (Nat × Nat))
  tblRaw : SMap (List Word)
  /-- the staging buffer: words written for table TSEL, by index (R446) -/
  stage : SMap (Option Word)
  /-- tables that passed their check and wait for master clock 0, and tables to be made absent -/
  adopt : SMap (Option (List Word))
  del : SMap Bool
  /-- the tread of the last CHECK that passed -/
  adoptAt : Nat
  /-- CFGGUARD.CALC as formed at the last master clock 0 (R438) -/
  calcNow : Nat
  /-- a defaulting waits for master clock 0 (R441) -/
  defPend : Bool
  /-- the persisted image read at this start, until it is loaded, and whether its read has completed (R63) -/
  image : Option CfgImage
  imageDone : Bool
  /-- PERSIST or UNPERSIST waits for its slot commit: the image to store (R442) -/
  persist : Option (Option CfgImage)
  /-- the tread of a life-cycle arm (R452) -/
  armAt : Option Nat
  /-- the committed target while its flush runs (R453) -/
  target : Option Nat
deriving DecidableEq, Repr, Inhabited

structure Vault where
  /-- factory coefficients: channel × 5 + set to (offset, gain) (R154) -/
  fac : SMap (Int × Int)
  /-- fallback slots A and B, and the LTC of the last commit to them (R167, R169) -/
  slotA : Option CalSlot
  slotB : Option CalSlot
  commitLtc : Option Nat
  /-- the stored guard band and the LTC of its last write (R175) -/
  guard : Nat
  guardLtc : Nat
  /-- the custom preset: its number, then OV, UV (100 µV), OT (1/16 °C), processor OC, OC sentinel (10 µV), die
  sentinel, processor die limit (1/16 °C) (R2, R253) -/
  custom : Option (List Nat)
  /-- LTCHI and CLOSED in their ring, the ring's writes and its retired entries (R40, R41) -/
  ltchi : Nat
  closed : Bool
  ringWrites : Nat
  ringBad : Nat
  flashSeen : Bool
  /-- the tombstone: failure count, EPOCHNO, LTC and SEQ of the last complete set, LTC of its writing; a failure
  that no recovery has followed (R418) -/
  tombCount : Nat
  tombEpoch : Nat
  tombLtc : Nat
  tombSeq : Nat
  tombAt : Option Nat
  failOpen : Bool
  /-- life-cycle state, segment count, pending-wipe mark, LTC of the last transition and of the last entry into
  COMMISSION (R451, R453, R458) -/
  life : Nat
  segment : Nat
  wipe : Bool
  lifeLtc : Nat
  segLtc : Nat
  /-- a transition was committed before the present start (R453) -/
  lifeDone : Bool
  /-- identity (R449): factory number, die revision, public key words, certificate words and bytes -/
  fnum : Nat
  dieRev : Nat
  pubkey : SMap Word
  /-- the device key, which no register shows (R409, R450) -/
  key : BitVec 256
  cert : SMap Word
  certLen : Nat
deriving DecidableEq, Repr, Inhabited

/-! ### Auxiliary converters (06) -/

/-- An urgent request: requester (1 sentinel, 2 safety processor, 3 host) and entry word; `ov` says for a
sentinel request which comparator of the cell tripped. -/
structure UrgReq where
  who : Nat
  word : Word
  ov : Bool
deriving DecidableEq, Repr, Inhabited

/-- A round-robin result waiting for the fine results around it (R146): cell index, value, end of use in
quarter modulator clocks since tread 0, and the conversion's centre in modulator clocks. -/
structure XWait where
  cell : Nat
  v : Int
  at4 : Nat
  centre : Nat
  bad : Bool
deriving DecidableEq, Repr, Inhabited

structure AuxConv where
  /-- the entries and SETTLE the pass began with (R132, R486) -/
  entries : List Word
  settle : Nat
  /-- items of the pass still to do, the current one first: 0–15 entries, 16 shared, 17 housekeeping -/
  todo : List Nat
  passOn : Bool
  /-- modulator clock since tread 0 at which the pass began -/
  began : Nat
  /-- the current item re-runs after an urgent entry (R137 RSM) -/
  rsm : Bool
  /-- the current item's conversion runs (not waiting for riser 0, an urgent entry or a calibration) -/
  busy : Bool
  /-- die temperature was converted in this pass (R134) -/
  dieDone : Bool
  /-- the tread the PERIOD grid counts from (R134, R485, R486) -/
  base : Option Nat
  /-- a due pass was delayed (R134) -/
  late : Bool
  /-- PERIOD was written: the next pass begins at the next free master clock 0 (R486) -/
  regrid : Bool
  urg : Option UrgReq
  urgPend : Option UrgReq
  waits : List XWait
  /-- the newest shared result: value, tread of its end, not comparable (R143) -/
  shared : Option (Int × Nat × Bool)
  /-- the converter was under calibration in the last tread -/
  wasCal : Bool
  /-- the word of SHARED as the running shared conversion began (R143) -/
  sh : Word
  /-- the cell of the round-robin entry that has begun and not ended, and whether RRPOS was written since (R145) -/
  rr : Option Nat
  rrSet : Bool
deriving DecidableEq, Repr, Inhabited

structure Aux where
  a : AuxConv
  b : AuxConv
  /-- newest die temperature, LSB 0.0625 °C; none before the first since the start (R136) -/
  die : Option Int
  /-- the first value when only clamped ones exist since the start (R136) -/
  dieClamp : Option Int
  /-- cells awaiting a sentinel confirmation, with the comparator that tripped (R139) -/
  latch : List (Nat × Bool)
  /-- consecutive mismatches and matches of the shared comparison and its last tread (R144) -/
  shMis : Nat
  shOk : Nat
  shLast : Nat
  /-- the shared comparison itself has fault 15 live -/
  shBad : Bool
  shStale : Bool
  xMis : SMap Nat
  xOk : SMap Nat
  /-- records of Q42 and Q43 not yet posted (R367) -/
  recA : List (List Byte)
  recB : List (List Byte)
  /-- the new die-temperature result waits for the evaluation of SF5 (R262) -/
  dieNew : Option Int
  /-- the tread of the newest result that ended after riser 2 had begun, with the values that stood at that start: the image's
  (R136) -/
  dieHeld : Option (Nat × Option Int × Option Int)
deriving DecidableEq, Repr, Inhabited

/-! ### Gallery (16) -/

/-- An extreme record (R385, R392). -/
structure Extreme where
  has : Bool
  v : Int
  generic : Bool
  ptinv : Bool
  ltc : Nat
  ptSec : Nat
  ptMs : Nat
deriving DecidableEq, Repr, Inhabited

/-- The objects of a segment (R380): seconds by cell × 64 + bin and cell × 32 + bin; extremes by cell × 3 + kind,
108 largest charge and 109 largest discharge. -/
structure GalObj where
  hv : SMap Nat
  ht : SMap Nat
  hi : SMap Nat
  hd : SMap Nat
  ext : SMap Extreme
  chg : Nat
  dis : Nat
  unV : Nat
  unT : Nat
  epochNo : Nat
  foldLtc : Nat
  clip : Bool
deriving DecidableEq, Repr, Inhabited

/-- An export in progress: its image, stamps, flags and the next block (R395). -/
structure GalExport where
  img : GalObj
  stn : Nat
  ltc : Nat
  flags : Nat
  next : Nat
deriving DecidableEq, Repr, Inhabited

structure Gal where
  img : GalObj
  /-- dwell treads not yet folded, as the histograms; throughput in mA·ms (R384, R389) -/
  rv : SMap Nat
  rt : SMap Nat
  ri : SMap Nat
  rd : SMap Nat
  rUnV : Nat
  rUnT : Nat
  rChg : Rat
  rDis : Rat
  /-- edge lists in use: 0 voltage, 1 temperature, 2 current; none the default (R387) -/
  edges : SMap (Option (List Int))
  /-- changes of edge table 0x03 to 0x05 not yet adopted, oldest first: the tread, and the edges it brings, none the
  default (R388) -/
  edgePend : SMap (List (Nat × Option (List Int)))
  /-- the treads of accepted CLEARs not yet made (R398) -/
  clearAt : List Nat
  /-- epoch length in minutes of the current epoch while a changed one waits for its end (R389) -/
  epochUse : Option Nat
  /-- the image captured at FREEZE, and the device flags captured with it as the export's flags byte (R394) -/
  frozen : Option GalObj
  frozenFlags : Nat
  xport : Option GalExport
  /-- quantities of the hourly record: cell × 3 + 0 max V, 1 min V, 2 max T; 108, 109 currents; 110, 111 die (R410) -/
  hour : SMap (Option Int)
  /-- step 1 of a SLEEP entry has been done (R381) -/
  stopped : Bool
  /-- the totals of the flash have been looked for (R391) -/
  restored : Bool
deriving DecidableEq, Repr, Inhabited

/-- An operation issued to the flash (R412): a page of a record (2, then 1), an anchor, the erase of the tail sector, or a
calibration slot with its read-back, whose CRC will be right or not (R168). -/
inductive FlashOp where
  | page (n : Nat)
  | anchor
  | erase
  | slot (crcOk : Bool)
deriving DecidableEq, Repr, Inhabited

/-- The marks of the next record that the record being written has taken: TIME_STEP, CLEARED, HISTLOST and MISSEP (R411). -/
structure Carry where
  step : Bool
  clear : Bool
  lost : Bool
  miss : Nat
deriving DecidableEq, Repr, Inhabited

/-- A record waiting in RAM: what hand-over fixes of it, its tread and its rank in R411's order. -/
structure Draft where
  type : Nat
  flags : Nat
  setIdx : Nat
  setLen : Nat
  cls : Nat
  epochNo : Nat
  payload : List Byte
  /-- a seal: its message is completed when it is written (R409) -/
  isSeal : Bool
  /-- belongs to a flush; the set it belongs to -/
  closing : Bool
  setId : Nat
  tread : Nat
  rank : Nat
deriving DecidableEq, Repr, Inhabited

/-- A complete set in the flash, by its decoded content (R391, R408). -/
structure GalSet where
  img : GalObj
  edges : SMap (Option (List Int))
  /-- BASE sum, last EPM and count of baseline epochs per cell (R206) -/
  base : SMap (Int × Int × Nat)
  segment : Nat
  /-- SEQ of its first and last record -/
  first : Nat
  last : Nat
  ltc : Nat
  cls : Nat
  segend : Bool
deriving DecidableEq, Repr, Inhabited

structure Flash where
  /-- fitted and in the READY state (R167, R402) -/
  usable : Bool
  slotA : Option CalSlot
  slotB : Option CalSlot
  /-- steps of R401 done in this start -/
  step : Nat
  /-- the newest anchor's sequence number and which anchor is written next -/
  anchSeq : Nat
  anchB : Bool
  /-- the anchors as last written (R404) -/
  anchA : Option Anchor
  anchC : Option Anchor
  anchDue : Bool
  /-- the other anchor is due after the one that is due: a format writes both (R403) -/
  anchMore : Bool
  /-- ring erases since the last anchor write -/
  erases : Nat
  /-- the record slots in the flash, by sector × 8 + index -/
  ring : SMap (Option Record)
  /-- erase count of each sector and the retirement bitmap -/
  wear : SMap Nat
  retired : SMap Bool
  /-- the sector holding the newest record, the slot written next, the tail sector, erased sectors ahead of the head -/
  head : Nat
  next : Nat
  tail : Nat
  erased : Nat
  /-- the newest record and the newest record of each class -/
  newest : Option Record
  newestOf : SMap (Option Record)
  /-- SEQ of the first record of each complete T set and of each retained X and S record, newest first -/
  tSets : List Nat
  xs : List Nat
  ss : List Nat
  /-- monthly and final sets: first SEQ, last SEQ with the seal, final -/
  ms : List (Nat × Nat × Bool)
  /-- LTC of the last monthly set, or of the start of the segment -/
  monthLtc : Nat
  /-- complete sets, newest first -/
  sets : List GalSet
  /-- sets handed over and not yet complete, by their number, and the next number -/
  openSets : SMap (Option GalSet)
  setNo : Nat
  wait : List Draft
  op : Option FlashOp
  /-- the record being programmed with its next page, and its draft, or for a copy the slot it stands in and whether the
  scrub rewrites it; a page of it read back with 3 or more corrected bits -/
  cur : Option Record
  page : Nat
  draft : Option Draft
  copyOf : Option (Nat × Bool)
  weak : Bool
  carry : Carry
  /-- page programs issued in this tread (R412) -/
  progs : Nat
  /-- slots whose record has been copied to the head -/
  moved : SMap Bool
  /-- the cleaner is reclaiming the tail sector; sectors being emptied for their retirement; slots the scrub rewrites -/
  clean : Bool
  evac : List Nat
  fixes : List Nat
  /-- the calibration slot being written, and the PERSIST or UNPERSIST that it carries out (R168, R442) -/
  slotNew : Option (CalSlot × Option (Option CfgImage))
  /-- the anchors hold a valid CRC -/
  anchAok : Bool
  anchBok : Bool
  /-- consecutive operations busy at twice their time (R418), retries of the operation in progress (R416) -/
  late : Nat
  tries : Nat
  /-- closing records still to be written before a flush is complete; 0 with no flush in progress -/
  flush : Nat
  /-- the closing records of the last flush have been written -/
  flushed : Bool
  /-- a tombstone waits for its daily limit, with the failures counted in RAM since the last one (R418) -/
  tombDue : Bool
  failRam : Nat
  /-- the device has been reset since the flash failed (R418) -/
  ramLost : Bool
  /-- MISSEP and HISTLOST of the next record, its CLEARED mark (R398, R411, R418) -/
  missNext : Nat
  lostNext : Bool
  clearNext : Bool
  /-- the next totals head is the first after a recovery (R408) -/
  headNext : Bool
  /-- scrub: LTC of the last sector read, and sectors left of a pass that SCRUBNOW started -/
  scrubAt : Nat
  scrubLeft : Nat
  /-- dump: next slot and slots left -/
  dump : Option (Nat × Nat)
deriving DecidableEq, Repr, Inhabited

/-! ### Impedance (08) -/

/-- One fine sample of an integration (R185): its boundary, the cells' valid values, the clocks each switch
conducted in the sample period, the paired reference code. -/
structure ImpSample where
  b : Nat
  fsx : Nat
  tread : Nat
  aligned : Bool
  vals : SMap (Option Int)
  onClk : SMap Nat
  ref : Option Int
deriving DecidableEq, Repr, Inhabited

/-- One integration (R182, R183). -/
structure Integ where
  startStn : Nat
  startClk : Nat
  /-- the first boundary, from which the lane's time counts (R183) -/
  first : Nat
  /-- H(f) of the fine chain as configured at the start (R188) -/
  h : Rat × Rat
  size : Nat
  n : Nat
  m : Nat
  str : Bool
  whole : Bool
  osr : Nat
  act : Bool
  attn : Bool
  cells : List Nat
  samples : List ImpSample
  balc : SMap Bool
  susp : SMap Bool
  /-- sums of V_S (µV) and R_path (mΩ) over conducted clocks, and those clocks, per cell (R188) -/
  vsSum : SMap Rat
  rpSum : SMap Int
  onSum : SMap Nat
deriving DecidableEq, Repr, Inhabited

/-- What a lane is doing (R183, R184). -/
inductive LaneMode where
  | idle
  /-- armed in the named tread, or for the tread after tread `since` -/
  | armed (named : Option Nat) (since : Nat)
  | running
  | waiting
deriving DecidableEq, Repr, Inhabited

structure ImpLane where
  mode : LaneMode
  cur : Option Integ
  /-- complete integrations whose results are not yet formed -/
  fin : List Integ
  /-- the sequence number of the last result -/
  seq : Nat
  range : Bool
  /-- the boundary of the lane's newest sample -/
  last : Nat
deriving DecidableEq, Repr, Inhabited

/-- A lane result of one cell (R199). -/
structure ImpRec where
  has : Bool
  re : Int
  im : Int
  coh : Nat
  flags : Nat
  cyc : Nat
deriving DecidableEq, Repr, Inhabited

/-- A cell temperature (R201 to R203); `has` is the absence of NONE. -/
structure CellTemp where
  has : Bool
  v : Int
  old : Bool
  clamp : Bool
  x : Nat
  seq : Nat
deriving DecidableEq, Repr, Inhabited

/-- The ageing trend of a cell (R205). -/
structure Trend where
  /-- the sum of the baseline's restored epoch means, and those formed since, oldest first -/
  sumBase : Int
  means : List Int
  cnt : Nat
  epm : Int
  epSum : Int
  epCnt : Nat
  lastCnt : Nat
  noData : Bool
  /-- restored from the flash (R206) -/
  hist : Bool
deriving DecidableEq, Repr, Inhabited

/-- The records a window shows (R209, R210). -/
structure ImpImage where
  recs : SMap ImpRec
  seqs : SMap Nat
  temps : SMap CellTemp
  trend : SMap Trend
  /-- captured with a frozen image: TOFS, the cells measured, and that no trend is formed (R202, R205, R209) -/
  tofs : SMap (Option Int)
  cells : List Nat
  flat : Bool
deriving DecidableEq, Repr, Inhabited

structure Imp where
  lanes : SMap ImpLane
  img : ImpImage
  frozen : Option ImpImage
  /-- TOFS of a cell, none while its TOFSVAL bit is 0 (R202) -/
  tofs : SMap (Option Int)
  /-- modulator clock at which a channel's calibration group reconnected (R192) -/
  reconn : SMap Nat
  /-- LOWCOH of the newest result that counts, by lane × 64 + cell index (R207) -/
  lowCoh : SMap Bool
deriving DecidableEq, Repr, Inhabited


/-! ### Diagnostics (10) -/

/-- One interval of test current at a tap: +1 while it is drawn out of the pin, −1 while it is driven in (R237). -/
structure TapDrive where
  a : Nat
  b : Nat
  out : Bool
deriving DecidableEq, Repr, Inhabited

/-- The corrected readings of a test's reference riser in µV (R237). -/
structure TapRef where
  vN : Int
  vN1 : Int
  sN : Int
  sN1 : Int
deriving DecidableEq, Repr, Inhabited

structure Diag where
  /-- the groups of risers 4–6 and 7–9 of the present tread; none outside a diagnostic tread (R233) -/
  groups : Option (Nat × Nat)
  /-- treads since start that are called out of turn, with their groups (R234, R242) -/
  called : List (Nat × Nat × Nat)
  /-- taps whose test runs in the present group (R236) -/
  testing : List Nat
  /-- the reference readings of a running test and its d of cells n and n + 1 (R237, R244) -/
  ref : SMap TapRef
  /-- taps whose test of the present tread has passed its reference, or was skipped (R235) -/
  began : List Nat
  /-- ΔV_n and ΔV_(n+1) of a test whose group has not ended, in µV (R237) -/
  got : SMap (Option (Int × Int))
  fails : SMap Nat
  passes : SMap Nat
  skipped : SMap Bool
  kind : SMap Nat
  /-- last ΔV_n and ΔV_(n+1) in µV -/
  dv : SMap (Int × Int)
  /-- the last d of a cell in µV (R244) -/
  dev : SMap (Option Int)
  devBad : SMap Nat
  devOk : SMap Nat
  /-- cells failing the d check, and taps whose R_ser mean lies outside the window (R244, R245) -/
  devFail : SMap Bool
  rserFail : SMap Bool
  /-- the last 16 estimates of R_ser in Ω, newest first, and the published mean (R245) -/
  rser : SMap (List Rat)
  rserMean : SMap (Option Rat)
  /-- taps whose span conversion for the verdict is under way (R239) -/
  verdict : List Nat
  /-- taps whose fallback span was requested, and the words of its newest result (R243) -/
  fallback : List Nat
  span : SMap (Option (Nat × Nat))
  drive : SMap (List TapDrive)
deriving DecidableEq, Repr, Inhabited

/-! ### Safety (11) -/

structure Safe where
  /-- comparators: 2c OV and 2c + 1 UV of cell index c, 72 overcurrent, 73 die; asserted, and tripped (R256) -/
  asserted : SMap Bool
  tripped : SMap Bool
  ovn : SMap Nat
  uvn : SMap Nat
  excl : SMap Nat
  /-- cells whose last evaluated snapshot is not yet past the release level of SF1, SF2 (R260) -/
  ovBad : SMap Bool
  uvBad : SMap Bool
  /-- SF3: consecutive results at or above OTLIM, pins above the release level, tread of the last valid result (R264) -/
  otN : SMap Nat
  otBad : SMap Bool
  otLast : SMap (Option Nat)
  /-- SF4 and SF5 of the processor (R265, R260) -/
  ocN : Nat
  ocBad : Bool
  dtN : Nat
  /-- the newest value that SF5 of the processor judged, clamped ones included (R260, R136) -/
  dtLast : Option Int
  /-- consecutive treads with a STALE CSA snapshot, with fault 26 live (R266) -/
  csaStale : Nat
  crcN : Nat
  romBad : Bool
  ramBad : Bool
  flowBad : Bool
  /-- consecutive failures of a sentinel test item 0 to 37, items out of the cycle (R271) -/
  senMiss : SMap Nat
  senOut : SMap Bool
  /-- items to test again in the next tread, first (R270) -/
  senAgain : List Nat
  oscMiss : Nat
  /-- tread starts left before the host watchdog expires: one more than the whole treads that may still pass (R267) -/
  wd : Option Nat
  wdOut : Bool
  /-- both ports silent for LINK.LOSS_TO (R267) -/
  commOut : Bool
  /-- the words of an accepted commit, which take effect at master clock 0 (R258) -/
  commit : Option (List Word)
  /-- the instant in ns since supplies valid at which a cause last arose in this lock-out, and the end of the
  last valid acknowledge burst that met rule 2 of R276 -/
  lockAt : Nat
  ackAt : Option Nat
  /-- tread of SAFE.CTRL.TRIP, whose cause is gone in the tread after (R274) -/
  hostAt : Option Nat
  /-- the instant in ns since supplies valid since which no cause but SF8 is present (R276, R280) -/
  goneAt : Option Nat
  /-- the cause CLASS is present (R306) -/
  classNow : Bool
  /-- the sentinel trip that opened this lock-out: cell 1 to 36, OV (R269) -/
  first : Option (Nat × Bool)
  /-- the sentinels are armed since 1.00 ms of the start (R59) -/
  armed : Bool
  /-- the safety processor has evaluated since the start, so that its channel has reported (R59, R64) -/
  evald : Bool
deriving DecidableEq, Repr, Inhabited

/-! ### Banister and output (12) -/

/-- What the off-pulse test or stage check of the present tread is doing (R296, R300). -/
inductive TestPhase where
  | none
  /-- the switch (true: OLS) is open, no verdict yet -/
  | opening (ls : Bool)
  /-- PASS, the switch still open -/
  | passed (ls : Bool)
  /-- the switch was commanded closed -/
  | reclosing (ls : Bool)
  /-- a stage check is in phase 1 or 2 -/
  | check
deriving DecidableEq, Repr, Inhabited

/-- What the device does at BDOP/BDON (R281, R284, R286). -/
inductive DownPair where
  | quiet
  | generated
  | repeating
deriving DecidableEq, Repr, Inhabited

structure Ban where
  /-- BDOP/BDON, and the newest accepted edge repeated there, in ns since supplies valid (R281, R286) -/
  down : DownPair
  downEdge : Option Nat
  /-- the newest accepted acknowledge edge, repeated at BUOP/BUON (R287) -/
  upEdge : Option Nat
  /-- the last accepted heartbeat edge and the accepted edges since the last loss, in ns (R285) -/
  hbLast : Nat
  hbN : Nat
  /-- first and last accepted edge of the acknowledge burst in progress (R289) -/
  ackFirst : Option Nat
  ackLast : Nat
  ackUnquiet : Bool
  ackHeld : Bool
  /-- end of the last burst, or 1.0 ms after supplies were valid -/
  quietFrom : Nat
  /-- instant at which the switches were last closed, in ns since supplies valid (R295) -/
  closedAt : Option Nat
  test : TestPhase
deriving DecidableEq, Repr, Inhabited

/-! ### Fault collector (13) -/

structure Collector where
  /-- classes in effect (R305); an unlisted source has its reset class -/
  cls : SMap (Option Nat)
  /-- LTC of the collection instant at which the ERR pulse ends (R310) -/
  pulseEnd : Option Nat
  /-- the lowest index refused so far in the write in progress (R304) -/
  clrLow : Option Nat
deriving DecidableEq, Repr, Inhabited

/-! ### Stairlink (14) -/

/-- A port's training and reception (R320, R326, R328 to R332). -/
structure LinkPort where
  /-- the training to come or in progress sweeps all three rates, and the sweeps done (R330) -/
  full : Bool
  sweep : Nat
  /-- T0 was entered from link-up and is bounded by 2 ms (R332) -/
  fromUp : Bool
  /-- SWING and DEEMPH taken at the last start of a training (R344) -/
  drive : Nat
  /-- the rate of the TS1 of the training, to which T2 and T3 return after the sweeps (R330) -/
  base : Nat
  /-- the phase of a rate tread as a code of UPSTAT.STATE: T0, T2, T3, or up when it is complete (R339) -/
  rt : Nat
  /-- F of the TS1 or TS2 received last in the training (R317) -/
  peer : Option Byte
  /-- probes answered, echoes counted, their sum of 2 d_i in UI/128 (R331) -/
  probes : Nat
  echoes : Nat
  dSum : Int
  /-- the ID of the next PRB, and those sent and not yet echoed (R331) -/
  prbNext : Nat
  prbOpen : List Nat
  /-- the last ECH sent: ID and RES (R331) -/
  ech : Option (Nat × Nat)
  /-- repeats of T2 for differing d (R331) -/
  repeats : Nat
  /-- consecutive treads with more than 16 code violations, and without a TMK with a correct CRC (R332) -/
  cvRun : Nat
  noTmk : Nat
  tmk : Bool
  /-- STN of the valid mark of the current tread; a valid mark arrived in the previous one (R363) -/
  mark : Option Nat
  before : Bool
  /-- framing is lost for the rest of the frame arriving here (R326) -/
  lost : Bool
  /-- the arrival of the TMK of that frame in UI/128 against master clock 0 of the present tread, negative where it came before; none
  where the length of a tread between is not known (R326) -/
  tmkAt : Option Int
  /-- the eye width that the training in progress has swept at its rate (R328) -/
  swept : Option Nat
  /-- after link-up: the frame of the own that is being finished, then the wait for a TMK (R322) -/
  own : Bool
  wait : Bool
  /-- slot CRC errors of the open window (R341) -/
  errs : Nat
deriving DecidableEq, Repr, Inhabited

/-- A rate change announced by the marks: tread, rate, bank (R338). -/
structure Announce where
  t : Nat
  rate : Nat
  bank : Bool
deriving DecidableEq, Repr, Inhabited

/-- A tread mark as it left on a lane, with its CRC. -/
structure TxMark where
  mark : Mark
  crc : Word
deriving DecidableEq, Repr, Inhabited

/-- What a port sends (R317, R328): nothing, TS1 with its F, TPAT, PRB and ECH, TS2 with its 11 bytes, or frames. -/
inductive Sends where
  | nothing
  | ts1 (f : Byte)
  | tpat
  | rounds
  | ts2 (d : List Byte)
  | frames
deriving DecidableEq, Repr, Inhabited

structure Link where
  up : LinkPort
  dn : LinkPort
  /-- an accepted mark arrived in step 2 of the communication-loss path (R70) -/
  sleepAbort : Bool
  /-- the line rate in use (R372) -/
  rate : Nat
  /-- consecutive treads without and with a valid mark on the UP port (R336) -/
  upMiss : Nat
  upGood : Nat
  dnMiss : Nat
  /-- consecutive treads without a valid mark on either port (R68, R320), and with marks on exactly one (R341) -/
  loss : Nat
  one : Nat
  /-- RCD of the newest valid mark -/
  rcd : Nat
  ann : Option Announce
  /-- eye widths as read (63 means 63 or 64): from the latest full training at 4 × rate + lane, and at the
  current rate by lane: 0 URX, 1 DRX, 2 UTX, 3 DTX (R329, R340) -/
  eyeFull : SMap (Option Nat)
  eyeNow : SMap (Option Nat)
  /-- the tread of the rate tread in progress (R339) -/
  rateAt : Option Nat
  /-- a whole CRC window has begun (R341) -/
  window : Bool
  /-- the newest mark and slot sent on DN-TX (0) and UP-TX (1) -/
  txMark : SMap (Option TxMark)
  txSlot : SMap (Option Slot)
deriving DecidableEq, Repr, Inhabited


/-! ### Tipol (18) -/

/-- The last read of a node's channel (R437 VALUE). -/
structure TipVal where
  v : Nat
  valid : Bool
  crc : Bool
  norep : Bool
deriving DecidableEq, Repr, Inhabited

/-- A registry entry (R432). -/
structure TipNode where
  num : Nat
  chmap : Nat
  /-- the channel 15 reply, none before a valid one -/
  info : Option Nat
  /-- consecutive reads without a valid reply, saturating at 15 -/
  fails : Nat
  missing : Bool
  /-- last measured tick, 1/32 µs -/
  tick : Nat
  vals : SMap TipVal
deriving DecidableEq, Repr, Inhabited

/-- What the bus is doing (R423): nothing, a SCAN, the channel 15 read of a new entry, a poll cycle's ALL and
LATCH with the wait after it, or the reads of an entry with the channels still to fetch. -/
inductive TipOp where
  | idle
  | scan
  | info (e : Nat)
  | latch
  | fetch (e : Nat) (left : List Nat)
deriving DecidableEq, Repr, Inhabited

/-- A search: branches to visit, newest first, the branch being visited and its tries (R431). -/
structure TipSearch where
  stack : List (Nat × List Nat)
  lv : Nat
  pre : List Nat
  tries : Nat
  first : Bool
deriving DecidableEq, Repr, Inhabited

structure Tip where
  nodes : SMap (Option TipNode)
  op : TipOp
  /-- the transaction's call has been made, and whether a node answered it -/
  called : Bool
  answered : Bool
  /-- the tread in which the next reply, the end of the SCAN or the end of the CONVT wait can come -/
  due : Nat
  /-- the FETCH due is a further one of its entry, which needs no call and no PICK (R427, R433) -/
  further : Bool
  /-- the tread whose window has carried a call, the end of a SCAN or a reply (R423) -/
  winAt : Option Nat
  search : Option TipSearch
  searchReq : Bool
  /-- a poll cycle is in progress, also while a search has the bus; the entries still to read -/
  polling : Bool
  todo : List Nat
  pollReq : Bool
  /-- the tread at which the last poll cycle was due -/
  pollLast : Nat
  /-- consecutive low and high samples (R436) -/
  low : Nat
  high : Nat
  /-- records of the open Q53 block -/
  recs : List (List Byte)
deriving DecidableEq, Repr, Inhabited

/-- Why a command cannot be taken as the command it is said to be. Both raised by `exec` alone, and only for a
command that `Instr.WellFormed` refuses; stopping there is safe: nothing is claimed of such a command. -/
inductive Fault where
  /-- the operands lie outside what the bus or the converters can deliver; raised by `exec`; safe -/
  | malformed (why : String)
deriving DecidableEq, Repr

/-- A refusal of the model. -/
inductive Refusal where
  /-- an instruction whose meaning is not written; raised by an arm of `exec` only; safe -/
  | notModelled (mnemonic : String)
deriving DecidableEq, Repr

/-- The whole machine. -/
structure State where
  /-- the stored register words (R6, R459, R467); an unlisted word reads as its reset value -/
  regs : SMap Word
  /-- words in use while a write to their address waits for its instant -/
  held : SMap (Option Word)
  /-- staged low words of values that span several words (R462) -/
  staged : SMap (Option Word)
  /-- the fault sources' conditions now and their occurrences since the last collection (R302) -/
  condNow : BitVec 64
  occurred : BitVec 64
  /-- events of event sources since the last collection (R303) -/
  evented : BitVec 64
  /-- the model's own counter for free values -/
  free : Nat
  pw : Power
  tm : Time
  cells : Cells
  curr : Curr
  cal : Cal
  bal : Bal
  xact : Xact
  aux : Aux
  imp : Imp
  diag : Diag
  safe : Safe
  ban : Ban
  col : Collector
  link : Link
  gal : Gal
  cfg : Cfg
  fl : Flash
  tip : Tip
  vault : Vault
  /-- commands waiting, first in, first out -/
  pending : List Instr
deriving DecidableEq, Repr

/-- The machine right after a power-on reset (R66), before supplies are valid (R58): phase `off`, every register word
at its reset value (an unlisted word reads as `resetWord`), every queue, image and engine empty or idle, no rate
in use, no command waiting. `default` is zero, empty, none or idle in every field. The vault, which no reset alters,
and the flash part's content stand as this first state names them (DESIGN CHOICE, log 7, 8, 11, 41, 127). -/
def State.reset : State :=
  { regs := [], held := [], staged := [], condNow := 0, occurred := 0, evented := 0, free := 0,
    pw := { (default : Power) with phase := .off, causes := 1 },
    tm := default, cells := default, curr := default, cal := default, bal := default, xact := default, aux := default,
    imp := default, diag := default, safe := default, ban := default, col := default,
    link := { (default : Link) with rate := 3 },
    gal := default, cfg := default, fl := default, tip := default, vault := default, pending := [] }

end Sys2Proof.Machine
end

