-- ==== Sys2Proof/Machine/Registers.lean ====
section
/-! DEFINITION. Registers.lean: the registers of the QY3640 and their fields by the names of the word-map and
field tables of spec/02 to spec/19: page, word, lowest bit, width (R6, R7, R459, R466). -/
namespace Sys2Proof.Machine

/-! Page 0x00, IDENT (R466). -/
abbrev IDENT.STATUS.KEYOK : Fld := ⟨0x00, 0x02, 0, 1⟩
abbrev IDENT.STATUS.VAULTOK : Fld := ⟨0x00, 0x02, 1, 1⟩
abbrev IDENT.FNUM0 : Fld := ⟨0x00, 0x08, 0, 16⟩
abbrev IDENT.FNUM1 : Fld := ⟨0x00, 0x09, 0, 16⟩
abbrev IDENT.FNUM2 : Fld := ⟨0x00, 0x0A, 0, 16⟩
abbrev IDENT.FNUM3 : Fld := ⟨0x00, 0x0B, 0, 16⟩
abbrev IDENT.PART : Fld := ⟨0x00, 0x0C, 0, 16⟩
abbrev IDENT.DIEREV : Fld := ⟨0x00, 0x0D, 0, 16⟩
abbrev IDENT.PRESETNO : Fld := ⟨0x00, 0x0E, 0, 16⟩
abbrev IDENT.CERTLEN : Fld := ⟨0x00, 0x0F, 0, 16⟩
abbrev IDENT.PUBKEY0 : Fld := ⟨0x00, 0x10, 0, 16⟩
abbrev IDENT.PUBKEY1 : Fld := ⟨0x00, 0x11, 0, 16⟩
abbrev IDENT.PUBKEY2 : Fld := ⟨0x00, 0x12, 0, 16⟩
abbrev IDENT.PUBKEY3 : Fld := ⟨0x00, 0x13, 0, 16⟩
abbrev IDENT.PUBKEY4 : Fld := ⟨0x00, 0x14, 0, 16⟩
abbrev IDENT.PUBKEY5 : Fld := ⟨0x00, 0x15, 0, 16⟩
abbrev IDENT.PUBKEY6 : Fld := ⟨0x00, 0x16, 0, 16⟩
abbrev IDENT.PUBKEY7 : Fld := ⟨0x00, 0x17, 0, 16⟩
abbrev IDENT.PUBKEY8 : Fld := ⟨0x00, 0x18, 0, 16⟩
abbrev IDENT.PUBKEY9 : Fld := ⟨0x00, 0x19, 0, 16⟩
abbrev IDENT.PUBKEY10 : Fld := ⟨0x00, 0x1A, 0, 16⟩
abbrev IDENT.PUBKEY11 : Fld := ⟨0x00, 0x1B, 0, 16⟩
abbrev IDENT.PUBKEY12 : Fld := ⟨0x00, 0x1C, 0, 16⟩
abbrev IDENT.PUBKEY13 : Fld := ⟨0x00, 0x1D, 0, 16⟩
abbrev IDENT.PUBKEY14 : Fld := ⟨0x00, 0x1E, 0, 16⟩
abbrev IDENT.PUBKEY15 : Fld := ⟨0x00, 0x1F, 0, 16⟩
abbrev IDENT.PUBKEY16 : Fld := ⟨0x00, 0x20, 0, 16⟩
abbrev IDENT.PUBKEY17 : Fld := ⟨0x00, 0x21, 0, 16⟩
abbrev IDENT.PUBKEY18 : Fld := ⟨0x00, 0x22, 0, 16⟩
abbrev IDENT.PUBKEY19 : Fld := ⟨0x00, 0x23, 0, 16⟩
abbrev IDENT.PUBKEY20 : Fld := ⟨0x00, 0x24, 0, 16⟩
abbrev IDENT.PUBKEY21 : Fld := ⟨0x00, 0x25, 0, 16⟩
abbrev IDENT.PUBKEY22 : Fld := ⟨0x00, 0x26, 0, 16⟩
abbrev IDENT.PUBKEY23 : Fld := ⟨0x00, 0x27, 0, 16⟩
abbrev IDENT.PUBKEY24 : Fld := ⟨0x00, 0x28, 0, 16⟩
abbrev IDENT.PUBKEY25 : Fld := ⟨0x00, 0x29, 0, 16⟩
abbrev IDENT.PUBKEY26 : Fld := ⟨0x00, 0x2A, 0, 16⟩
abbrev IDENT.PUBKEY27 : Fld := ⟨0x00, 0x2B, 0, 16⟩
abbrev IDENT.PUBKEY28 : Fld := ⟨0x00, 0x2C, 0, 16⟩
abbrev IDENT.PUBKEY29 : Fld := ⟨0x00, 0x2D, 0, 16⟩
abbrev IDENT.PUBKEY30 : Fld := ⟨0x00, 0x2E, 0, 16⟩
abbrev IDENT.PUBKEY31 : Fld := ⟨0x00, 0x2F, 0, 16⟩
abbrev IDENT.CERTPTR : Fld := ⟨0x00, 0x30, 0, 16⟩
abbrev IDENT.CERTDATA : Fld := ⟨0x00, 0x31, 0, 16⟩

/-! Page 0x01, SYS (R466). -/
abbrev SYS.CTRL.SWRST : Fld := ⟨0x01, 0x01, 0, 1⟩
abbrev SYS.CTRL.SLEEP : Fld := ⟨0x01, 0x01, 1, 1⟩
abbrev SYS.CTRL.KEY : Fld := ⟨0x01, 0x01, 8, 8⟩
abbrev SYS.STATUS.SENTARM : Fld := ⟨0x01, 0x02, 0, 1⟩
abbrev SYS.STATUS.SNAPVALID : Fld := ⟨0x01, 0x02, 1, 1⟩
abbrev SYS.STATUS.LTCRES : Fld := ⟨0x01, 0x02, 2, 1⟩
abbrev SYS.STATUS.CFGLOAD : Fld := ⟨0x01, 0x02, 3, 1⟩
abbrev SYS.STATUS.STARTLOCK : Fld := ⟨0x01, 0x02, 4, 1⟩
abbrev SYS.STATUS.SLEEPPEND : Fld := ⟨0x01, 0x02, 5, 1⟩
abbrev SYS.EVT.VSTKLO : Fld := ⟨0x01, 0x03, 0, 1⟩
abbrev SYS.EVT.VSTKHI : Fld := ⟨0x01, 0x03, 1, 1⟩
abbrev SYS.EVT.VPREUV : Fld := ⟨0x01, 0x03, 2, 1⟩
abbrev SYS.EVT.BUCK : Fld := ⟨0x01, 0x03, 3, 1⟩
abbrev SYS.EVT.LDO : Fld := ⟨0x01, 0x03, 4, 1⟩
abbrev SYS.EVT.SLEEPABORT : Fld := ⟨0x01, 0x03, 5, 1⟩
abbrev SYS.EVT.WAKEHELD : Fld := ⟨0x01, 0x03, 6, 1⟩
abbrev SYS.EVT.KEYREJ : Fld := ⟨0x01, 0x03, 7, 1⟩
abbrev SYS.SUPPLY.VSTKOK : Fld := ⟨0x01, 0x08, 0, 1⟩
abbrev SYS.SUPPLY.word : Fld := ⟨0x01, 0x08, 0, 16⟩
abbrev SYS.SUPPLY.VAUXOK : Fld := ⟨0x01, 0x08, 1, 1⟩
abbrev SYS.SUPPLY.SRC : Fld := ⟨0x01, 0x08, 2, 1⟩
abbrev SYS.SUPPLY.BUCKRUN : Fld := ⟨0x01, 0x08, 3, 1⟩
abbrev SYS.SUPPLY.BUCKLOCK : Fld := ⟨0x01, 0x08, 4, 1⟩
abbrev SYS.SUPPLY.V33OK : Fld := ⟨0x01, 0x08, 5, 1⟩
abbrev SYS.SUPPLY.V18OK : Fld := ⟨0x01, 0x08, 6, 1⟩
abbrev SYS.SUPPLY.V09OK : Fld := ⟨0x01, 0x08, 7, 1⟩
abbrev SYS.SUPPLY.SENLDOOK : Fld := ⟨0x01, 0x08, 8, 1⟩
abbrev SYS.SUPPLY.REFCOK : Fld := ⟨0x01, 0x08, 9, 1⟩
abbrev SYS.RSTCAUSE.POR : Fld := ⟨0x01, 0x09, 0, 1⟩
abbrev SYS.RSTCAUSE.word : Fld := ⟨0x01, 0x09, 0, 16⟩
abbrev SYS.RSTCAUSE.BOR : Fld := ⟨0x01, 0x09, 1, 1⟩
abbrev SYS.RSTCAUSE.RSTN : Fld := ⟨0x01, 0x09, 2, 1⟩
abbrev SYS.RSTCAUSE.SWRST : Fld := ⟨0x01, 0x09, 3, 1⟩
abbrev SYS.RSTCAUSE.THERM : Fld := ⟨0x01, 0x09, 4, 1⟩
abbrev SYS.RSTCAUSE.WAKEPIN : Fld := ⟨0x01, 0x09, 5, 1⟩
abbrev SYS.RSTCAUSE.TONEUP : Fld := ⟨0x01, 0x09, 6, 1⟩
abbrev SYS.RSTCAUSE.TONEDN : Fld := ⟨0x01, 0x09, 7, 1⟩
abbrev SYS.RSTCAUSE.SLEEP : Fld := ⟨0x01, 0x09, 8, 1⟩
abbrev SYS.SLEEPCAUSE.CAUSE : Fld := ⟨0x01, 0x0A, 0, 2⟩
abbrev SYS.SLEEPCAUSE.word : Fld := ⟨0x01, 0x0A, 0, 16⟩
abbrev SYS.STRAP.SAFCFG : Fld := ⟨0x01, 0x0B, 0, 4⟩
abbrev SYS.STRAP.word : Fld := ⟨0x01, 0x0B, 0, 16⟩
abbrev SYS.STRAP.BROLE : Fld := ⟨0x01, 0x0B, 4, 2⟩
abbrev SYS.WAKECFG.PINEN : Fld := ⟨0x01, 0x0C, 0, 1⟩
abbrev SYS.WAKECFG.word : Fld := ⟨0x01, 0x0C, 0, 16⟩
abbrev SYS.WAKECFG.TONEUPEN : Fld := ⟨0x01, 0x0C, 1, 1⟩
abbrev SYS.WAKECFG.TONEDNEN : Fld := ⟨0x01, 0x0C, 2, 1⟩
abbrev SYS.WAKECFG.RESEND : Fld := ⟨0x01, 0x0C, 3, 1⟩
abbrev SYS.BUCKCFG.ILIM : Fld := ⟨0x01, 0x0D, 0, 2⟩
abbrev SYS.BUCKCFG.word : Fld := ⟨0x01, 0x0D, 0, 16⟩
abbrev SYS.STARTUS : Fld := ⟨0x01, 0x0E, 0, 16⟩
abbrev SYS.RETRYCNT : Fld := ⟨0x01, 0x0F, 0, 16⟩

/-! Page 0x02, CFGGUARD (R466). -/
abbrev CFGGUARD.CTRL.ARM : Fld := ⟨0x02, 0x01, 0, 1⟩
abbrev CFGGUARD.CTRL.OPEN : Fld := ⟨0x02, 0x01, 1, 1⟩
abbrev CFGGUARD.CTRL.PERSIST : Fld := ⟨0x02, 0x01, 2, 1⟩
abbrev CFGGUARD.CTRL.UNPERSIST : Fld := ⟨0x02, 0x01, 3, 1⟩
abbrev CFGGUARD.CTRL.KEY : Fld := ⟨0x02, 0x01, 8, 8⟩
abbrev CFGGUARD.STATUS.STATE : Fld := ⟨0x02, 0x02, 0, 2⟩
abbrev CFGGUARD.STATUS.RWLOCK : Fld := ⟨0x02, 0x02, 2, 1⟩
abbrev CFGGUARD.STATUS.PIMG : Fld := ⟨0x02, 0x02, 3, 1⟩
abbrev CFGGUARD.STATUS.PLOADED : Fld := ⟨0x02, 0x02, 4, 1⟩
abbrev CFGGUARD.EVT.ARMED : Fld := ⟨0x02, 0x03, 0, 1⟩
abbrev CFGGUARD.EVT.DEFAULT : Fld := ⟨0x02, 0x03, 1, 1⟩
abbrev CFGGUARD.EVT.WLOCK : Fld := ⟨0x02, 0x03, 2, 1⟩
abbrev CFGGUARD.EVT.PDONE : Fld := ⟨0x02, 0x03, 3, 1⟩
abbrev CFGGUARD.EVT.PFAIL : Fld := ⟨0x02, 0x03, 4, 1⟩
abbrev CFGGUARD.EVT.KEYREJ : Fld := ⟨0x02, 0x03, 5, 1⟩
abbrev CFGGUARD.CRC0 : Fld := ⟨0x02, 0x08, 0, 16⟩
abbrev CFGGUARD.CRC1 : Fld := ⟨0x02, 0x09, 0, 16⟩
abbrev CFGGUARD.CALC0 : Fld := ⟨0x02, 0x0A, 0, 16⟩
abbrev CFGGUARD.CALC1 : Fld := ⟨0x02, 0x0B, 0, 16⟩
abbrev CFGGUARD.DEFCNT : Fld := ⟨0x02, 0x0C, 0, 16⟩
abbrev CFGGUARD.STREAMLEN : Fld := ⟨0x02, 0x0D, 0, 16⟩

/-! Page 0x03, TIME (R466). -/
abbrev TIME.STATUS.LOCK : Fld := ⟨0x03, 0x02, 0, 1⟩
abbrev TIME.STATUS.ALIGNED : Fld := ⟨0x03, 0x02, 1, 1⟩
abbrev TIME.STATUS.HOLDOVER : Fld := ⟨0x03, 0x02, 2, 1⟩
abbrev TIME.STATUS.STNVALID : Fld := ⟨0x03, 0x02, 3, 1⟩
abbrev TIME.STATUS.PTVALID : Fld := ⟨0x03, 0x02, 4, 1⟩
abbrev TIME.STATUS.PTPEND : Fld := ⟨0x03, 0x02, 5, 1⟩
abbrev TIME.STATUS.SRC : Fld := ⟨0x03, 0x02, 6, 2⟩
abbrev TIME.STATUS.QEXT : Fld := ⟨0x03, 0x02, 8, 1⟩
abbrev TIME.STATUS.LTCEST : Fld := ⟨0x03, 0x02, 9, 1⟩
abbrev TIME.STATUS.VLTWORN : Fld := ⟨0x03, 0x02, 10, 1⟩
abbrev TIME.EVT.SLIP : Fld := ⟨0x03, 0x03, 0, 1⟩
abbrev TIME.EVT.SYNCLOST : Fld := ⟨0x03, 0x03, 1, 1⟩
abbrev TIME.EVT.SYNCGAIN : Fld := ⟨0x03, 0x03, 2, 1⟩
abbrev TIME.EVT.PTSET : Fld := ⟨0x03, 0x03, 3, 1⟩
abbrev TIME.EVT.PTBACK : Fld := ⟨0x03, 0x03, 4, 1⟩
abbrev TIME.EVT.STNJUMP : Fld := ⟨0x03, 0x03, 5, 1⟩
abbrev TIME.EVT.SRCCHG : Fld := ⟨0x03, 0x03, 6, 1⟩
abbrev TIME.LTC0 : Fld := ⟨0x03, 0x08, 0, 16⟩
abbrev TIME.LTC1 : Fld := ⟨0x03, 0x09, 0, 16⟩
abbrev TIME.LTC2 : Fld := ⟨0x03, 0x0A, 0, 16⟩
abbrev TIME.STN0 : Fld := ⟨0x03, 0x0B, 0, 16⟩
abbrev TIME.STN1 : Fld := ⟨0x03, 0x0C, 0, 16⟩
abbrev TIME.PTS0 : Fld := ⟨0x03, 0x0D, 0, 16⟩
abbrev TIME.PTS1 : Fld := ⟨0x03, 0x0E, 0, 16⟩
abbrev TIME.PTMS : Fld := ⟨0x03, 0x0F, 0, 16⟩
abbrev TIME.PEND0 : Fld := ⟨0x03, 0x10, 0, 16⟩
abbrev TIME.PEND1 : Fld := ⟨0x03, 0x11, 0, 16⟩
abbrev TIME.PEND2 : Fld := ⟨0x03, 0x12, 0, 16⟩
abbrev TIME.PENDT0 : Fld := ⟨0x03, 0x13, 0, 16⟩
abbrev TIME.PENDT1 : Fld := ⟨0x03, 0x14, 0, 16⟩
abbrev TIME.PHASE : Fld := ⟨0x03, 0x15, 0, 16⟩
abbrev TIME.STEPCNT : Fld := ⟨0x03, 0x16, 0, 16⟩
abbrev TIME.LASTSTEP : Fld := ⟨0x03, 0x17, 0, 16⟩
abbrev TIME.SLIPCNT : Fld := ⟨0x03, 0x18, 0, 16⟩
abbrev TIME.HOLDCNT : Fld := ⟨0x03, 0x19, 0, 16⟩

/-! Page 0x04, LINK (R466). -/
abbrev LINK.CTRL.RETRAINUP : Fld := ⟨0x04, 0x01, 0, 1⟩
abbrev LINK.CTRL.RETRAINDN : Fld := ⟨0x04, 0x01, 1, 1⟩
abbrev LINK.CTRL.FULL : Fld := ⟨0x04, 0x01, 2, 1⟩
abbrev LINK.STATUS.UPLINK : Fld := ⟨0x04, 0x02, 0, 1⟩
abbrev LINK.STATUS.DNLINK : Fld := ⟨0x04, 0x02, 1, 1⟩
abbrev LINK.STATUS.RING : Fld := ⟨0x04, 0x02, 2, 1⟩
abbrev LINK.STATUS.BROKEN : Fld := ⟨0x04, 0x02, 3, 1⟩
abbrev LINK.STATUS.CRCLIVE : Fld := ⟨0x04, 0x02, 4, 1⟩
abbrev LINK.STATUS.RCHG : Fld := ⟨0x04, 0x02, 5, 1⟩
abbrev LINK.EVT.UPDOWN : Fld := ⟨0x04, 0x03, 0, 1⟩
abbrev LINK.EVT.DNDOWN : Fld := ⟨0x04, 0x03, 1, 1⟩
abbrev LINK.EVT.UPUP : Fld := ⟨0x04, 0x03, 2, 1⟩
abbrev LINK.EVT.DNUP : Fld := ⟨0x04, 0x03, 3, 1⟩
abbrev LINK.EVT.RATECHG : Fld := ⟨0x04, 0x03, 4, 1⟩
abbrev LINK.EVT.CRCLIM : Fld := ⟨0x04, 0x03, 5, 1⟩
abbrev LINK.EVT.FRAMING : Fld := ⟨0x04, 0x03, 6, 1⟩
abbrev LINK.EVT.CFGREJ : Fld := ⟨0x04, 0x03, 7, 1⟩
abbrev LINK.EVT.HOPMIS : Fld := ⟨0x04, 0x03, 8, 1⟩
abbrev LINK.CFG.UPEN : Fld := ⟨0x04, 0x08, 0, 1⟩
abbrev LINK.CFG.word : Fld := ⟨0x04, 0x08, 0, 16⟩
abbrev LINK.CFG.DNEN : Fld := ⟨0x04, 0x08, 1, 1⟩
abbrev LINK.CFG.SWING : Fld := ⟨0x04, 0x08, 2, 2⟩
abbrev LINK.CFG.DEEMPH : Fld := ⟨0x04, 0x08, 4, 2⟩
abbrev LINK.LOSS_TO : Fld := ⟨0x04, 0x09, 0, 16⟩
abbrev LINK.CRCLIM : Fld := ⟨0x04, 0x0A, 0, 16⟩
abbrev LINK.RATE : Fld := ⟨0x04, 0x0B, 0, 16⟩
abbrev LINK.UPSTAT.STATE : Fld := ⟨0x04, 0x0C, 0, 3⟩
abbrev LINK.UPSTAT.word : Fld := ⟨0x04, 0x0C, 0, 16⟩
abbrev LINK.UPSTAT.RATE : Fld := ⟨0x04, 0x0C, 3, 2⟩
abbrev LINK.UPSTAT.LOS : Fld := ⟨0x04, 0x0C, 5, 1⟩
abbrev LINK.UPSTAT.MARK : Fld := ⟨0x04, 0x0C, 6, 1⟩
abbrev LINK.UPSTAT.ORIG : Fld := ⟨0x04, 0x0C, 7, 1⟩
abbrev LINK.UPSTAT.LORIG : Fld := ⟨0x04, 0x0C, 8, 2⟩
abbrev LINK.UPSTAT.TRIES : Fld := ⟨0x04, 0x0C, 10, 6⟩
abbrev LINK.DNSTAT.STATE : Fld := ⟨0x04, 0x0D, 0, 3⟩
abbrev LINK.DNSTAT.word : Fld := ⟨0x04, 0x0D, 0, 16⟩
abbrev LINK.DNSTAT.RATE : Fld := ⟨0x04, 0x0D, 3, 2⟩
abbrev LINK.DNSTAT.LOS : Fld := ⟨0x04, 0x0D, 5, 1⟩
abbrev LINK.DNSTAT.MARK : Fld := ⟨0x04, 0x0D, 6, 1⟩
abbrev LINK.DNSTAT.ORIG : Fld := ⟨0x04, 0x0D, 7, 1⟩
abbrev LINK.DNSTAT.LORIG : Fld := ⟨0x04, 0x0D, 8, 2⟩
abbrev LINK.DNSTAT.TRIES : Fld := ⟨0x04, 0x0D, 10, 6⟩
abbrev LINK.UPHOP0 : Fld := ⟨0x04, 0x0E, 0, 16⟩
abbrev LINK.UPHOP1 : Fld := ⟨0x04, 0x0F, 0, 16⟩
abbrev LINK.DNHOP0 : Fld := ⟨0x04, 0x10, 0, 16⟩
abbrev LINK.DNHOP1 : Fld := ⟨0x04, 0x11, 0, 16⟩
abbrev LINK.FWDDN : Fld := ⟨0x04, 0x12, 0, 16⟩
abbrev LINK.FWDUP : Fld := ⟨0x04, 0x13, 0, 16⟩
abbrev LINK.ACCUP0 : Fld := ⟨0x04, 0x14, 0, 16⟩
abbrev LINK.ACCUP1 : Fld := ⟨0x04, 0x15, 0, 16⟩
abbrev LINK.ACCDN0 : Fld := ⟨0x04, 0x16, 0, 16⟩
abbrev LINK.ACCDN1 : Fld := ⟨0x04, 0x17, 0, 16⟩
abbrev LINK.CRCUP : Fld := ⟨0x04, 0x18, 0, 16⟩
abbrev LINK.CRCDN : Fld := ⟨0x04, 0x19, 0, 16⟩
abbrev LINK.CVUP : Fld := ⟨0x04, 0x1A, 0, 16⟩
abbrev LINK.CVDN : Fld := ⟨0x04, 0x1B, 0, 16⟩
abbrev LINK.FRMERR : Fld := ⟨0x04, 0x1C, 0, 16⟩
abbrev LINK.DOWNCNT : Fld := ⟨0x04, 0x1D, 0, 16⟩
abbrev LINK.STNMIS : Fld := ⟨0x04, 0x1E, 0, 16⟩
abbrev LINK.EYESEL : Fld := ⟨0x04, 0x1F, 0, 16⟩
abbrev LINK.EYER0 : Fld := ⟨0x04, 0x20, 0, 16⟩
abbrev LINK.EYER1 : Fld := ⟨0x04, 0x21, 0, 16⟩
abbrev LINK.EYER2 : Fld := ⟨0x04, 0x22, 0, 16⟩
abbrev LINK.EYER3 : Fld := ⟨0x04, 0x23, 0, 16⟩

/-! Page 0x05, XACT (R466). -/
abbrev XACT.CTRL.CLRCACHE : Fld := ⟨0x05, 0x01, 0, 1⟩
abbrev XACT.STATUS.SIDSET : Fld := ⟨0x05, 0x02, 0, 1⟩
abbrev XACT.STATUS.POSUPV : Fld := ⟨0x05, 0x02, 1, 1⟩
abbrev XACT.STATUS.POSDNV : Fld := ⟨0x05, 0x02, 2, 1⟩
abbrev XACT.STATUS.LENV : Fld := ⟨0x05, 0x02, 3, 1⟩
abbrev XACT.STATUS.RSARMED : Fld := ⟨0x05, 0x02, 4, 1⟩
abbrev XACT.EVT.REJECT : Fld := ⟨0x05, 0x03, 0, 1⟩
abbrev XACT.EVT.DUP : Fld := ⟨0x05, 0x03, 1, 1⟩
abbrev XACT.EVT.Q3FULL : Fld := ⟨0x05, 0x03, 2, 1⟩
abbrev XACT.EVT.COUNTOFF : Fld := ⟨0x05, 0x03, 3, 1⟩
abbrev XACT.EVT.RSMIS : Fld := ⟨0x05, 0x03, 4, 1⟩
abbrev XACT.EVT.CRCCMD : Fld := ⟨0x05, 0x03, 5, 1⟩
abbrev XACT.STAIRID : Fld := ⟨0x05, 0x08, 0, 16⟩
abbrev XACT.POSUP : Fld := ⟨0x05, 0x09, 0, 16⟩
abbrev XACT.POSDN : Fld := ⟨0x05, 0x0A, 0, 16⟩
abbrev XACT.STAIRLEN : Fld := ⟨0x05, 0x0B, 0, 16⟩
abbrev XACT.DEVID : Fld := ⟨0x05, 0x0C, 0, 16⟩
abbrev XACT.CMDCNT : Fld := ⟨0x05, 0x0D, 0, 16⟩
abbrev XACT.DUPCNT : Fld := ⟨0x05, 0x0E, 0, 16⟩
abbrev XACT.REJCNT : Fld := ⟨0x05, 0x0F, 0, 16⟩
abbrev XACT.Q3FULL : Fld := ⟨0x05, 0x10, 0, 16⟩
abbrev XACT.LASTREJ : Fld := ⟨0x05, 0x11, 0, 16⟩
abbrev XACT.LASTREJTID : Fld := ⟨0x05, 0x12, 0, 16⟩
abbrev XACT.RSARM : Fld := ⟨0x05, 0x13, 0, 16⟩
abbrev XACT.RSTN0 : Fld := ⟨0x05, 0x14, 0, 16⟩
abbrev XACT.RSTN1 : Fld := ⟨0x05, 0x15, 0, 16⟩
abbrev XACT.CRCCMD : Fld := ⟨0x05, 0x16, 0, 16⟩

/-! Page 0x06, QUEUE (R466). -/
abbrev QUEUE.CTRL.FLUSH : Fld := ⟨0x06, 0x01, 0, 1⟩
abbrev QUEUE.STATUS.LEAN : Fld := ⟨0x06, 0x02, 0, 1⟩
abbrev QUEUE.STATUS.PLANLIVE : Fld := ⟨0x06, 0x02, 1, 1⟩
abbrev QUEUE.STATUS.BANKLIVE : Fld := ⟨0x06, 0x02, 2, 1⟩
abbrev QUEUE.EVT.DROP : Fld := ⟨0x06, 0x03, 0, 1⟩
abbrev QUEUE.EVT.PLANOK : Fld := ⟨0x06, 0x03, 1, 1⟩
abbrev QUEUE.EVT.PLANBAD : Fld := ⟨0x06, 0x03, 2, 1⟩
abbrev QUEUE.EVT.BANKSW : Fld := ⟨0x06, 0x03, 3, 1⟩
abbrev QUEUE.EVT.MISS : Fld := ⟨0x06, 0x03, 4, 1⟩
abbrev QUEUE.EVT.CFGREJ : Fld := ⟨0x06, 0x03, 5, 1⟩
abbrev QUEUE.EVT.ECC : Fld := ⟨0x06, 0x03, 6, 1⟩
abbrev QUEUE.QEN0 : Fld := ⟨0x06, 0x08, 0, 16⟩
abbrev QUEUE.QEN1 : Fld := ⟨0x06, 0x09, 0, 16⟩
abbrev QUEUE.QEN2 : Fld := ⟨0x06, 0x0A, 0, 16⟩
abbrev QUEUE.QEN3 : Fld := ⟨0x06, 0x0B, 0, 16⟩
abbrev QUEUE.QSEL : Fld := ⟨0x06, 0x0C, 0, 16⟩
abbrev QUEUE.QDEPTH : Fld := ⟨0x06, 0x0D, 0, 16⟩
abbrev QUEUE.QFILL : Fld := ⟨0x06, 0x0E, 0, 16⟩
abbrev QUEUE.QBLK : Fld := ⟨0x06, 0x0F, 0, 16⟩
abbrev QUEUE.QDROP : Fld := ⟨0x06, 0x10, 0, 16⟩
abbrev QUEUE.QNEXT : Fld := ⟨0x06, 0x11, 0, 16⟩
abbrev QUEUE.QINFO : Fld := ⟨0x06, 0x12, 0, 16⟩
abbrev QUEUE.DEPTHSUM : Fld := ⟨0x06, 0x13, 0, 16⟩
abbrev QUEUE.FSAGE : Fld := ⟨0x06, 0x14, 0, 16⟩
abbrev QUEUE.DROPMAP0 : Fld := ⟨0x06, 0x15, 0, 16⟩
abbrev QUEUE.DROPMAP1 : Fld := ⟨0x06, 0x16, 0, 16⟩
abbrev QUEUE.DROPMAP2 : Fld := ⟨0x06, 0x17, 0, 16⟩
abbrev QUEUE.DROPMAP3 : Fld := ⟨0x06, 0x18, 0, 16⟩
abbrev QUEUE.MISSCNT : Fld := ⟨0x06, 0x19, 0, 16⟩
abbrev QUEUE.LEANCNT : Fld := ⟨0x06, 0x1A, 0, 16⟩
abbrev QUEUE.MIRkA : Fld := ⟨0x06, 0x20, 0, 16⟩
abbrev QUEUE.MIRkB : Fld := ⟨0x06, 0x21, 0, 16⟩
abbrev QUEUE.PLANSEL : Fld := ⟨0x06, 0x30, 0, 16⟩
abbrev QUEUE.PLANPTR : Fld := ⟨0x06, 0x31, 0, 16⟩
abbrev QUEUE.PLANDATA : Fld := ⟨0x06, 0x32, 0, 16⟩
abbrev QUEUE.PLANCHK : Fld := ⟨0x06, 0x33, 0, 16⟩
abbrev QUEUE.PLANSTAT.STATEA : Fld := ⟨0x06, 0x34, 0, 2⟩
abbrev QUEUE.PLANSTAT.word : Fld := ⟨0x06, 0x34, 0, 16⟩
abbrev QUEUE.PLANSTAT.STATEB : Fld := ⟨0x06, 0x34, 2, 2⟩
abbrev QUEUE.PLANSTAT.ACTIVE : Fld := ⟨0x06, 0x34, 4, 1⟩
abbrev QUEUE.PLANSTAT.LEAN : Fld := ⟨0x06, 0x34, 5, 1⟩
abbrev QUEUE.PLANSTAT.LEANWHY : Fld := ⟨0x06, 0x34, 6, 3⟩
abbrev QUEUE.PLANSTAT.FIRSTERR : Fld := ⟨0x06, 0x34, 9, 3⟩
abbrev QUEUE.PLANIDA0 : Fld := ⟨0x06, 0x35, 0, 16⟩
abbrev QUEUE.PLANIDA1 : Fld := ⟨0x06, 0x36, 0, 16⟩
abbrev QUEUE.PLANIDB0 : Fld := ⟨0x06, 0x37, 0, 16⟩
abbrev QUEUE.PLANIDB1 : Fld := ⟨0x06, 0x38, 0, 16⟩

/-! Page 0x07, CELLCFG (R466). -/
abbrev CELLCFG.CTRL.FINEEN : Fld := ⟨0x07, 0x01, 0, 1⟩
abbrev CELLCFG.CTRL.RESTART : Fld := ⟨0x07, 0x01, 1, 1⟩
abbrev CELLCFG.STATUS.FINEVALID : Fld := ⟨0x07, 0x02, 0, 1⟩
abbrev CELLCFG.STATUS.CORNBYP : Fld := ⟨0x07, 0x02, 1, 1⟩
abbrev CELLCFG.STATUS.NOTCHSKIP : Fld := ⟨0x07, 0x02, 2, 1⟩
abbrev CELLCFG.STATUS.NOTCHTBL : Fld := ⟨0x07, 0x02, 3, 1⟩
abbrev CELLCFG.STATUS.ANYOVR : Fld := ⟨0x07, 0x02, 4, 1⟩
abbrev CELLCFG.STATUS.ANYNBR : Fld := ⟨0x07, 0x02, 5, 1⟩
abbrev CELLCFG.EVT.UNPAIRED : Fld := ⟨0x07, 0x03, 0, 1⟩
abbrev CELLCFG.EVT.CFGREJ : Fld := ⟨0x07, 0x03, 1, 1⟩
abbrev CELLCFG.EVT.OVR : Fld := ⟨0x07, 0x03, 2, 1⟩
abbrev CELLCFG.EVT.RESTART : Fld := ⟨0x07, 0x03, 3, 1⟩
abbrev CELLCFG.COUNT.COUNT : Fld := ⟨0x07, 0x08, 0, 6⟩
abbrev CELLCFG.COUNT.word : Fld := ⟨0x07, 0x08, 0, 16⟩
abbrev CELLCFG.FINE.OSR : Fld := ⟨0x07, 0x09, 0, 3⟩
abbrev CELLCFG.FINE.word : Fld := ⟨0x07, 0x09, 0, 16⟩
abbrev CELLCFG.FINE.CORNER : Fld := ⟨0x07, 0x09, 4, 3⟩
abbrev CELLCFG.FINE.CORNEN : Fld := ⟨0x07, 0x09, 7, 1⟩
abbrev CELLCFG.FINE.NOTCHEN : Fld := ⟨0x07, 0x09, 8, 1⟩
abbrev CELLCFG.GDLY0 : Fld := ⟨0x07, 0x0A, 0, 16⟩
abbrev CELLCFG.GDLY1 : Fld := ⟨0x07, 0x0B, 0, 16⟩
abbrev CELLCFG.OVRLIVE0 : Fld := ⟨0x07, 0x0C, 0, 16⟩
abbrev CELLCFG.OVRLIVE1 : Fld := ⟨0x07, 0x0D, 0, 16⟩
abbrev CELLCFG.OVRLIVE2 : Fld := ⟨0x07, 0x0E, 0, 16⟩
abbrev CELLCFG.OVRSTK0 : Fld := ⟨0x07, 0x0F, 0, 16⟩
abbrev CELLCFG.OVRSTK1 : Fld := ⟨0x07, 0x10, 0, 16⟩
abbrev CELLCFG.OVRSTK2 : Fld := ⟨0x07, 0x11, 0, 16⟩
abbrev CELLCFG.NBRLIVE0 : Fld := ⟨0x07, 0x12, 0, 16⟩
abbrev CELLCFG.NBRLIVE1 : Fld := ⟨0x07, 0x13, 0, 16⟩
abbrev CELLCFG.NBRLIVE2 : Fld := ⟨0x07, 0x14, 0, 16⟩
abbrev CELLCFG.UNPCELL.CELL : Fld := ⟨0x07, 0x15, 0, 6⟩
abbrev CELLCFG.UNPCELL.word : Fld := ⟨0x07, 0x15, 0, 16⟩
abbrev CELLCFG.UNPCELL.PAGE : Fld := ⟨0x07, 0x15, 6, 2⟩
abbrev CELLCFG.UNPCELL.PORT : Fld := ⟨0x07, 0x15, 8, 1⟩

/-! Page 0x08, SNAPA (R466). -/
abbrev SNAPA.UNCA0 : Fld := ⟨0x08, 0x38, 0, 16⟩
abbrev SNAPA.UNCA1 : Fld := ⟨0x08, 0x39, 0, 16⟩
abbrev SNAPA.UNCA2 : Fld := ⟨0x08, 0x3A, 0, 16⟩
abbrev SNAPA.UNCA3 : Fld := ⟨0x08, 0x3B, 0, 16⟩
abbrev SNAPA.UNCA4 : Fld := ⟨0x08, 0x3C, 0, 16⟩
abbrev SNAPA.UNCA5 : Fld := ⟨0x08, 0x3D, 0, 16⟩
abbrev SNAPA.STN0 : Fld := ⟨0x08, 0x3E, 0, 16⟩
abbrev SNAPA.STN1 : Fld := ⟨0x08, 0x3F, 0, 16⟩

/-! Page 0x09, SNAPB (R466). -/
abbrev SNAPB.CSAA : Fld := ⟨0x09, 0x20, 0, 16⟩
abbrev SNAPB.CSAB : Fld := ⟨0x09, 0x21, 0, 16⟩
abbrev SNAPB.CSBA : Fld := ⟨0x09, 0x22, 0, 16⟩
abbrev SNAPB.CSBB : Fld := ⟨0x09, 0x23, 0, 16⟩
abbrev SNAPB.SUM0 : Fld := ⟨0x09, 0x24, 0, 16⟩
abbrev SNAPB.SUM1 : Fld := ⟨0x09, 0x25, 0, 16⟩
abbrev SNAPB.SUMFLAG : Fld := ⟨0x09, 0x26, 0, 16⟩
abbrev SNAPB.DIETEMP : Fld := ⟨0x09, 0x27, 0, 16⟩
abbrev SNAPB.UNCB0 : Fld := ⟨0x09, 0x28, 0, 16⟩
abbrev SNAPB.UNCB1 : Fld := ⟨0x09, 0x29, 0, 16⟩
abbrev SNAPB.UNCB2 : Fld := ⟨0x09, 0x2A, 0, 16⟩
abbrev SNAPB.UNCC : Fld := ⟨0x09, 0x2B, 0, 16⟩
abbrev SNAPB.STN0 : Fld := ⟨0x09, 0x2C, 0, 16⟩
abbrev SNAPB.STN1 : Fld := ⟨0x09, 0x2D, 0, 16⟩

/-! Page 0x0C, CURR (R466). -/
abbrev CURR.CTRL.CSAEN : Fld := ⟨0x0C, 0x01, 0, 1⟩
abbrev CURR.CTRL.CSBEN : Fld := ⟨0x0C, 0x01, 1, 1⟩
abbrev CURR.STATUS.SRCDEV : Fld := ⟨0x0C, 0x02, 0, 1⟩
abbrev CURR.STATUS.NORSH : Fld := ⟨0x0C, 0x02, 1, 1⟩
abbrev CURR.STATUS.PLSLIVE : Fld := ⟨0x0C, 0x02, 2, 1⟩
abbrev CURR.STATUS.REFLIVE : Fld := ⟨0x0C, 0x02, 3, 1⟩
abbrev CURR.STATUS.AOVR : Fld := ⟨0x0C, 0x02, 4, 1⟩
abbrev CURR.STATUS.BOVR : Fld := ⟨0x0C, 0x02, 5, 1⟩
abbrev CURR.EVT.CFGREJ : Fld := ⟨0x0C, 0x03, 0, 1⟩
abbrev CURR.EVT.GAP : Fld := ⟨0x0C, 0x03, 1, 1⟩
abbrev CURR.EVT.PLS : Fld := ⟨0x0C, 0x03, 2, 1⟩
abbrev CURR.EVT.REFLOST : Fld := ⟨0x0C, 0x03, 3, 1⟩
abbrev CURR.EVT.REFBACK : Fld := ⟨0x0C, 0x03, 4, 1⟩
abbrev CURR.EVT.LATE : Fld := ⟨0x0C, 0x03, 5, 1⟩
abbrev CURR.BCAST.BCAST : Fld := ⟨0x0C, 0x08, 0, 1⟩
abbrev CURR.BCAST.word : Fld := ⟨0x0C, 0x08, 0, 16⟩
abbrev CURR.CSCFG.GAINA : Fld := ⟨0x0C, 0x09, 0, 3⟩
abbrev CURR.CSCFG.word : Fld := ⟨0x0C, 0x09, 0, 16⟩
abbrev CURR.CSCFG.GAINB : Fld := ⟨0x0C, 0x09, 4, 3⟩
abbrev CURR.RSHUNT0 : Fld := ⟨0x0C, 0x0A, 0, 16⟩
abbrev CURR.RSHUNT1 : Fld := ⟨0x0C, 0x0B, 0, 16⟩
abbrev CURR.RSHUNTB0 : Fld := ⟨0x0C, 0x0C, 0, 16⟩
abbrev CURR.RSHUNTB1 : Fld := ⟨0x0C, 0x0D, 0, 16⟩
abbrev CURR.PLSCFG.EN : Fld := ⟨0x0C, 0x0E, 0, 1⟩
abbrev CURR.PLSCFG.word : Fld := ⟨0x0C, 0x0E, 0, 16⟩
abbrev CURR.PLSCFG.INV : Fld := ⟨0x0C, 0x0E, 1, 1⟩
abbrev CURR.PLSCFG.N : Fld := ⟨0x0C, 0x0E, 4, 4⟩
abbrev CURR.PLSCFG.REL : Fld := ⟨0x0C, 0x0E, 8, 8⟩
abbrev CURR.PLSABS : Fld := ⟨0x0C, 0x0F, 0, 16⟩
abbrev CURR.SUB.STEP : Fld := ⟨0x0C, 0x10, 0, 8⟩
abbrev CURR.SUB.word : Fld := ⟨0x0C, 0x10, 0, 16⟩
abbrev CURR.SUB.EN : Fld := ⟨0x0C, 0x10, 8, 1⟩
abbrev CURR.SUB.CH : Fld := ⟨0x0C, 0x10, 9, 1⟩
abbrev CURR.SUB.GAPLIM : Fld := ⟨0x0C, 0x10, 10, 4⟩
abbrev CURR.REFDLY : Fld := ⟨0x0C, 0x11, 0, 16⟩
abbrev CURR.SUBSTAT.PAIRED : Fld := ⟨0x0C, 0x12, 0, 1⟩
abbrev CURR.SUBSTAT.word : Fld := ⟨0x0C, 0x12, 0, 16⟩
abbrev CURR.SUBSTAT.LOCAL : Fld := ⟨0x0C, 0x12, 1, 1⟩
abbrev CURR.SUBSTAT.PORT : Fld := ⟨0x0C, 0x12, 2, 1⟩
abbrev CURR.SUBSTAT.CAUSE : Fld := ⟨0x0C, 0x12, 4, 3⟩
abbrev CURR.GAPCNT : Fld := ⟨0x0C, 0x13, 0, 16⟩
abbrev CURR.LATECNT : Fld := ⟨0x0C, 0x14, 0, 16⟩
abbrev CURR.PLSCNT : Fld := ⟨0x0C, 0x15, 0, 16⟩
abbrev CURR.LASTSTN0 : Fld := ⟨0x0C, 0x16, 0, 16⟩
abbrev CURR.LASTSTN1 : Fld := ⟨0x0C, 0x17, 0, 16⟩
abbrev CURR.IA0 : Fld := ⟨0x0C, 0x18, 0, 16⟩
abbrev CURR.IA1 : Fld := ⟨0x0C, 0x19, 0, 16⟩
abbrev CURR.IB0 : Fld := ⟨0x0C, 0x1A, 0, 16⟩
abbrev CURR.IB1 : Fld := ⟨0x0C, 0x1B, 0, 16⟩

/-! Page 0x0D, AUXA (R466). -/
abbrev AUXA.CTRL.EN : Fld := ⟨0x0D, 0x01, 0, 1⟩
abbrev AUXA.STATUS.PWR : Fld := ⟨0x0D, 0x02, 0, 1⟩
abbrev AUXA.STATUS.PASS : Fld := ⟨0x0D, 0x02, 1, 1⟩
abbrev AUXA.STATUS.URG : Fld := ⟨0x0D, 0x02, 2, 1⟩
abbrev AUXA.STATUS.QWAIT : Fld := ⟨0x0D, 0x02, 3, 1⟩
abbrev AUXA.STATUS.ENTRY : Fld := ⟨0x0D, 0x02, 4, 4⟩
abbrev AUXA.STATUS.CAL : Fld := ⟨0x0D, 0x02, 8, 1⟩
abbrev AUXA.EVT.PASSEND : Fld := ⟨0x0D, 0x03, 0, 1⟩
abbrev AUXA.EVT.OVERRUN : Fld := ⟨0x0D, 0x03, 1, 1⟩
abbrev AUXA.EVT.ABANDON : Fld := ⟨0x0D, 0x03, 2, 1⟩
abbrev AUXA.EVT.CFGREJ : Fld := ⟨0x0D, 0x03, 3, 1⟩
abbrev AUXA.EVT.OVR : Fld := ⟨0x0D, 0x03, 4, 1⟩
abbrev AUXA.ENTRY0 : Fld := ⟨0x0D, 0x08, 0, 16⟩
abbrev AUXA.ENTRY1 : Fld := ⟨0x0D, 0x09, 0, 16⟩
abbrev AUXA.ENTRY2 : Fld := ⟨0x0D, 0x0A, 0, 16⟩
abbrev AUXA.ENTRY3 : Fld := ⟨0x0D, 0x0B, 0, 16⟩
abbrev AUXA.ENTRY4 : Fld := ⟨0x0D, 0x0C, 0, 16⟩
abbrev AUXA.ENTRY5 : Fld := ⟨0x0D, 0x0D, 0, 16⟩
abbrev AUXA.ENTRY6 : Fld := ⟨0x0D, 0x0E, 0, 16⟩
abbrev AUXA.ENTRY7 : Fld := ⟨0x0D, 0x0F, 0, 16⟩
abbrev AUXA.ENTRY8 : Fld := ⟨0x0D, 0x10, 0, 16⟩
abbrev AUXA.ENTRY9 : Fld := ⟨0x0D, 0x11, 0, 16⟩
abbrev AUXA.ENTRY10 : Fld := ⟨0x0D, 0x12, 0, 16⟩
abbrev AUXA.ENTRY11 : Fld := ⟨0x0D, 0x13, 0, 16⟩
abbrev AUXA.ENTRY12 : Fld := ⟨0x0D, 0x14, 0, 16⟩
abbrev AUXA.ENTRY13 : Fld := ⟨0x0D, 0x15, 0, 16⟩
abbrev AUXA.ENTRY14 : Fld := ⟨0x0D, 0x16, 0, 16⟩
abbrev AUXA.ENTRY15 : Fld := ⟨0x0D, 0x17, 0, 16⟩
abbrev AUXA.RES0A : Fld := ⟨0x0D, 0x18, 0, 16⟩
abbrev AUXA.PERIOD : Fld := ⟨0x0D, 0x38, 0, 16⟩
abbrev AUXA.SETTLE : Fld := ⟨0x0D, 0x39, 0, 16⟩
abbrev AUXA.RRPOS : Fld := ⟨0x0D, 0x3A, 0, 16⟩
abbrev AUXA.PASSCNT : Fld := ⟨0x0D, 0x3B, 0, 16⟩
abbrev AUXA.PASSTIME : Fld := ⟨0x0D, 0x3C, 0, 16⟩
abbrev AUXA.SHRES0 : Fld := ⟨0x0D, 0x3D, 0, 16⟩
abbrev AUXA.SHRES1 : Fld := ⟨0x0D, 0x3E, 0, 16⟩
abbrev AUXA.ABNCNT : Fld := ⟨0x0D, 0x3F, 0, 16⟩

/-! Page 0x0E, AUXB (R466). -/
abbrev AUXB.CTRL.EN : Fld := ⟨0x0E, 0x01, 0, 1⟩
abbrev AUXB.STATUS.PWR : Fld := ⟨0x0E, 0x02, 0, 1⟩
abbrev AUXB.STATUS.PASS : Fld := ⟨0x0E, 0x02, 1, 1⟩
abbrev AUXB.STATUS.URG : Fld := ⟨0x0E, 0x02, 2, 1⟩
abbrev AUXB.STATUS.QWAIT : Fld := ⟨0x0E, 0x02, 3, 1⟩
abbrev AUXB.STATUS.ENTRY : Fld := ⟨0x0E, 0x02, 4, 4⟩
abbrev AUXB.STATUS.CAL : Fld := ⟨0x0E, 0x02, 8, 1⟩
abbrev AUXB.EVT.PASSEND : Fld := ⟨0x0E, 0x03, 0, 1⟩
abbrev AUXB.EVT.OVERRUN : Fld := ⟨0x0E, 0x03, 1, 1⟩
abbrev AUXB.EVT.ABANDON : Fld := ⟨0x0E, 0x03, 2, 1⟩
abbrev AUXB.EVT.CFGREJ : Fld := ⟨0x0E, 0x03, 3, 1⟩
abbrev AUXB.EVT.OVR : Fld := ⟨0x0E, 0x03, 4, 1⟩
abbrev AUXB.ENTRY0 : Fld := ⟨0x0E, 0x08, 0, 16⟩
abbrev AUXB.ENTRY1 : Fld := ⟨0x0E, 0x09, 0, 16⟩
abbrev AUXB.ENTRY2 : Fld := ⟨0x0E, 0x0A, 0, 16⟩
abbrev AUXB.ENTRY3 : Fld := ⟨0x0E, 0x0B, 0, 16⟩
abbrev AUXB.ENTRY4 : Fld := ⟨0x0E, 0x0C, 0, 16⟩
abbrev AUXB.ENTRY5 : Fld := ⟨0x0E, 0x0D, 0, 16⟩
abbrev AUXB.ENTRY6 : Fld := ⟨0x0E, 0x0E, 0, 16⟩
abbrev AUXB.ENTRY7 : Fld := ⟨0x0E, 0x0F, 0, 16⟩
abbrev AUXB.ENTRY8 : Fld := ⟨0x0E, 0x10, 0, 16⟩
abbrev AUXB.ENTRY9 : Fld := ⟨0x0E, 0x11, 0, 16⟩
abbrev AUXB.ENTRY10 : Fld := ⟨0x0E, 0x12, 0, 16⟩
abbrev AUXB.ENTRY11 : Fld := ⟨0x0E, 0x13, 0, 16⟩
abbrev AUXB.ENTRY12 : Fld := ⟨0x0E, 0x14, 0, 16⟩
abbrev AUXB.ENTRY13 : Fld := ⟨0x0E, 0x15, 0, 16⟩
abbrev AUXB.ENTRY14 : Fld := ⟨0x0E, 0x16, 0, 16⟩
abbrev AUXB.ENTRY15 : Fld := ⟨0x0E, 0x17, 0, 16⟩
abbrev AUXB.RES0A : Fld := ⟨0x0E, 0x18, 0, 16⟩
abbrev AUXB.PERIOD : Fld := ⟨0x0E, 0x38, 0, 16⟩
abbrev AUXB.SETTLE : Fld := ⟨0x0E, 0x39, 0, 16⟩
abbrev AUXB.RRPOS : Fld := ⟨0x0E, 0x3A, 0, 16⟩
abbrev AUXB.PASSCNT : Fld := ⟨0x0E, 0x3B, 0, 16⟩
abbrev AUXB.PASSTIME : Fld := ⟨0x0E, 0x3C, 0, 16⟩
abbrev AUXB.SHRES0 : Fld := ⟨0x0E, 0x3D, 0, 16⟩
abbrev AUXB.SHRES1 : Fld := ⟨0x0E, 0x3E, 0, 16⟩
abbrev AUXB.ABNCNT : Fld := ⟨0x0E, 0x3F, 0, 16⟩

/-! Page 0x0F, AUXCTL (R466). -/
abbrev AUXCTL.STATUS.SHLIVE : Fld := ⟨0x0F, 0x02, 0, 1⟩
abbrev AUXCTL.STATUS.XLIVE : Fld := ⟨0x0F, 0x02, 1, 1⟩
abbrev AUXCTL.EVT.SHMIS : Fld := ⟨0x0F, 0x03, 0, 1⟩
abbrev AUXCTL.EVT.XMIS : Fld := ⟨0x0F, 0x03, 1, 1⟩
abbrev AUXCTL.EVT.URGREJ : Fld := ⟨0x0F, 0x03, 2, 1⟩
abbrev AUXCTL.EVT.URGDISP : Fld := ⟨0x0F, 0x03, 3, 1⟩
abbrev AUXCTL.EVT.XDROP : Fld := ⟨0x0F, 0x03, 4, 1⟩
abbrev AUXCTL.EVT.CFGREJ : Fld := ⟨0x0F, 0x03, 5, 1⟩
abbrev AUXCTL.SHARED : Fld := ⟨0x0F, 0x08, 0, 16⟩
abbrev AUXCTL.SHLIM : Fld := ⟨0x0F, 0x09, 0, 16⟩
abbrev AUXCTL.SHCFG.N : Fld := ⟨0x0F, 0x0A, 0, 4⟩
abbrev AUXCTL.SHCFG.word : Fld := ⟨0x0F, 0x0A, 0, 16⟩
abbrev AUXCTL.SHCFG.WIN : Fld := ⟨0x0F, 0x0A, 4, 8⟩
abbrev AUXCTL.XCFG.EN : Fld := ⟨0x0F, 0x0B, 0, 1⟩
abbrev AUXCTL.XCFG.word : Fld := ⟨0x0F, 0x0B, 0, 16⟩
abbrev AUXCTL.XCFG.N : Fld := ⟨0x0F, 0x0B, 4, 4⟩
abbrev AUXCTL.XCFG.CONFOSR : Fld := ⟨0x0F, 0x0B, 8, 3⟩
abbrev AUXCTL.XLIM : Fld := ⟨0x0F, 0x0C, 0, 16⟩
abbrev AUXCTL.URGA : Fld := ⟨0x0F, 0x0D, 0, 16⟩
abbrev AUXCTL.URGB : Fld := ⟨0x0F, 0x0E, 0, 16⟩
abbrev AUXCTL.URGREQ : Fld := ⟨0x0F, 0x0F, 0, 16⟩
abbrev AUXCTL.URGSTAT : Fld := ⟨0x0F, 0x10, 0, 16⟩
abbrev AUXCTL.URGRESA0 : Fld := ⟨0x0F, 0x11, 0, 16⟩
abbrev AUXCTL.URGRESA1 : Fld := ⟨0x0F, 0x12, 0, 16⟩
abbrev AUXCTL.URGINFOA : Fld := ⟨0x0F, 0x13, 0, 16⟩
abbrev AUXCTL.URGRESB0 : Fld := ⟨0x0F, 0x14, 0, 16⟩
abbrev AUXCTL.URGRESB1 : Fld := ⟨0x0F, 0x15, 0, 16⟩
abbrev AUXCTL.URGINFOB : Fld := ⟨0x0F, 0x16, 0, 16⟩
abbrev AUXCTL.SHDIFF0 : Fld := ⟨0x0F, 0x17, 0, 16⟩
abbrev AUXCTL.SHDIFF1 : Fld := ⟨0x0F, 0x18, 0, 16⟩
abbrev AUXCTL.XFAIL0 : Fld := ⟨0x0F, 0x19, 0, 16⟩
abbrev AUXCTL.XFAIL1 : Fld := ⟨0x0F, 0x1A, 0, 16⟩
abbrev AUXCTL.XFAIL2 : Fld := ⟨0x0F, 0x1B, 0, 16⟩
abbrev AUXCTL.XLAST : Fld := ⟨0x0F, 0x1C, 0, 16⟩
abbrev AUXCTL.XLASTD : Fld := ⟨0x0F, 0x1D, 0, 16⟩
abbrev AUXCTL.XCNT : Fld := ⟨0x0F, 0x1E, 0, 16⟩
abbrev AUXCTL.XMISCNT : Fld := ⟨0x0F, 0x1F, 0, 16⟩
abbrev AUXCTL.AXOFS0 : Fld := ⟨0x0F, 0x20, 0, 16⟩
abbrev AUXCTL.AXOFS1 : Fld := ⟨0x0F, 0x21, 0, 16⟩
abbrev AUXCTL.AXOFS2 : Fld := ⟨0x0F, 0x22, 0, 16⟩
abbrev AUXCTL.AXOFS3 : Fld := ⟨0x0F, 0x23, 0, 16⟩
abbrev AUXCTL.AXOFS4 : Fld := ⟨0x0F, 0x24, 0, 16⟩
abbrev AUXCTL.AXOFS5 : Fld := ⟨0x0F, 0x25, 0, 16⟩
abbrev AUXCTL.AXOFS6 : Fld := ⟨0x0F, 0x26, 0, 16⟩
abbrev AUXCTL.AXOFS7 : Fld := ⟨0x0F, 0x27, 0, 16⟩
abbrev AUXCTL.AXOFS8 : Fld := ⟨0x0F, 0x28, 0, 16⟩
abbrev AUXCTL.AXOFS9 : Fld := ⟨0x0F, 0x29, 0, 16⟩
abbrev AUXCTL.AXOFS10 : Fld := ⟨0x0F, 0x2A, 0, 16⟩
abbrev AUXCTL.AXOFS11 : Fld := ⟨0x0F, 0x2B, 0, 16⟩
abbrev AUXCTL.AXGAIN0 : Fld := ⟨0x0F, 0x2C, 0, 16⟩
abbrev AUXCTL.AXGAIN1 : Fld := ⟨0x0F, 0x2D, 0, 16⟩
abbrev AUXCTL.AXGAIN2 : Fld := ⟨0x0F, 0x2E, 0, 16⟩
abbrev AUXCTL.AXGAIN3 : Fld := ⟨0x0F, 0x2F, 0, 16⟩
abbrev AUXCTL.AXGAIN4 : Fld := ⟨0x0F, 0x30, 0, 16⟩
abbrev AUXCTL.AXGAIN5 : Fld := ⟨0x0F, 0x31, 0, 16⟩
abbrev AUXCTL.AXGAIN6 : Fld := ⟨0x0F, 0x32, 0, 16⟩
abbrev AUXCTL.AXGAIN7 : Fld := ⟨0x0F, 0x33, 0, 16⟩
abbrev AUXCTL.AXGAIN8 : Fld := ⟨0x0F, 0x34, 0, 16⟩
abbrev AUXCTL.AXGAIN9 : Fld := ⟨0x0F, 0x35, 0, 16⟩
abbrev AUXCTL.AXGAIN10 : Fld := ⟨0x0F, 0x36, 0, 16⟩
abbrev AUXCTL.AXGAIN11 : Fld := ⟨0x0F, 0x37, 0, 16⟩

/-! Page 0x10, CAL (R466). -/
abbrev CAL.CTRL.RUN : Fld := ⟨0x10, 0x01, 0, 1⟩
abbrev CAL.CTRL.ABORT : Fld := ⟨0x10, 0x01, 1, 1⟩
abbrev CAL.CTRL.SYSZERO : Fld := ⟨0x10, 0x01, 2, 1⟩
abbrev CAL.CTRL.HOLD : Fld := ⟨0x10, 0x01, 3, 1⟩
abbrev CAL.STATUS.BUSY : Fld := ⟨0x10, 0x02, 0, 1⟩
abbrev CAL.STATUS.SZBUSY : Fld := ⟨0x10, 0x02, 1, 1⟩
abbrev CAL.STATUS.DUE : Fld := ⟨0x10, 0x02, 2, 1⟩
abbrev CAL.STATUS.RAMP : Fld := ⟨0x10, 0x02, 3, 1⟩
abbrev CAL.STATUS.GROUP : Fld := ⟨0x10, 0x02, 4, 4⟩
abbrev CAL.STATUS.SLOTSRC : Fld := ⟨0x10, 0x02, 8, 1⟩
abbrev CAL.STATUS.NOSLOT : Fld := ⟨0x10, 0x02, 9, 1⟩
abbrev CAL.STATUS.VDEFER : Fld := ⟨0x10, 0x02, 10, 1⟩
abbrev CAL.EVT.DONE : Fld := ⟨0x10, 0x03, 0, 1⟩
abbrev CAL.EVT.REJECT : Fld := ⟨0x10, 0x03, 1, 1⟩
abbrev CAL.EVT.ABORTED : Fld := ⟨0x10, 0x03, 2, 1⟩
abbrev CAL.EVT.GRPSKIP : Fld := ⟨0x10, 0x03, 3, 1⟩
abbrev CAL.EVT.SZDONE : Fld := ⟨0x10, 0x03, 4, 1⟩
abbrev CAL.EVT.SZREJ : Fld := ⟨0x10, 0x03, 5, 1⟩
abbrev CAL.EVT.COMMIT : Fld := ⟨0x10, 0x03, 6, 1⟩
abbrev CAL.EVT.COMMITFAIL : Fld := ⟨0x10, 0x03, 7, 1⟩
abbrev CAL.EVT.REFUSED : Fld := ⟨0x10, 0x03, 8, 1⟩
abbrev CAL.EVT.CFGREJ : Fld := ⟨0x10, 0x03, 9, 1⟩
abbrev CAL.AUTO : Fld := ⟨0x10, 0x08, 0, 16⟩
abbrev CAL.AUTO_DT : Fld := ⟨0x10, 0x09, 0, 16⟩
abbrev CAL.INTERVAL : Fld := ⟨0x10, 0x0A, 0, 16⟩
abbrev CAL.RAMP : Fld := ⟨0x10, 0x0B, 0, 16⟩
abbrev CAL.SCOPE : Fld := ⟨0x10, 0x0C, 0, 16⟩
abbrev CAL.SYSZERO_LIM : Fld := ⟨0x10, 0x0D, 0, 16⟩
abbrev CAL.REFPAIR : Fld := ⟨0x10, 0x0E, 0, 16⟩
abbrev CAL.LASTLTC0 : Fld := ⟨0x10, 0x0F, 0, 16⟩
abbrev CAL.LASTLTC1 : Fld := ⟨0x10, 0x10, 0, 16⟩
abbrev CAL.LASTLTC2 : Fld := ⟨0x10, 0x11, 0, 16⟩
abbrev CAL.LASTTEMP : Fld := ⟨0x10, 0x12, 0, 16⟩
abbrev CAL.SPREAD : Fld := ⟨0x10, 0x13, 0, 16⟩
abbrev CAL.PAIR : Fld := ⟨0x10, 0x14, 0, 16⟩
abbrev CAL.REFCDEV : Fld := ⟨0x10, 0x15, 0, 16⟩
abbrev CAL.REJMAP0 : Fld := ⟨0x10, 0x16, 0, 16⟩
abbrev CAL.REJMAP1 : Fld := ⟨0x10, 0x17, 0, 16⟩
abbrev CAL.REJMAP2 : Fld := ⟨0x10, 0x18, 0, 16⟩
abbrev CAL.REJMAP3 : Fld := ⟨0x10, 0x19, 0, 16⟩
abbrev CAL.RUNCNT : Fld := ⟨0x10, 0x1A, 0, 16⟩
abbrev CAL.REJCNT : Fld := ⟨0x10, 0x1B, 0, 16⟩
abbrev CAL.SLOTSEQ0 : Fld := ⟨0x10, 0x1C, 0, 16⟩
abbrev CAL.SLOTSEQ1 : Fld := ⟨0x10, 0x1D, 0, 16⟩

/-! Page 0x11, CALWIN (R466). -/
abbrev CALWIN.SEL : Fld := ⟨0x11, 0x08, 0, 16⟩
abbrev CALWIN.OFS0 : Fld := ⟨0x11, 0x09, 0, 16⟩
abbrev CALWIN.OFS1 : Fld := ⟨0x11, 0x0A, 0, 16⟩
abbrev CALWIN.GAIN0 : Fld := ⟨0x11, 0x0B, 0, 16⟩
abbrev CALWIN.GAIN1 : Fld := ⟨0x11, 0x0C, 0, 16⟩
abbrev CALWIN.TEMP : Fld := ⟨0x11, 0x0D, 0, 16⟩
abbrev CALWIN.DACX : Fld := ⟨0x11, 0x0E, 0, 16⟩
abbrev CALWIN.INFO : Fld := ⟨0x11, 0x0F, 0, 16⟩

/-! Page 0x12, BAL (R466). -/
abbrev BAL.CTRL.STOPALL : Fld := ⟨0x12, 0x01, 0, 1⟩
abbrev BAL.CTRL.RELEARN : Fld := ⟨0x12, 0x01, 1, 1⟩
abbrev BAL.CTRL.RETEST : Fld := ⟨0x12, 0x01, 2, 1⟩
abbrev BAL.STATUS.ANYON : Fld := ⟨0x12, 0x02, 0, 1⟩
abbrev BAL.STATUS.DERATING : Fld := ⟨0x12, 0x02, 1, 1⟩
abbrev BAL.STATUS.THERMSTOP : Fld := ⟨0x12, 0x02, 2, 1⟩
abbrev BAL.STATUS.SWLIVE : Fld := ⟨0x12, 0x02, 3, 1⟩
abbrev BAL.STATUS.WLIVE : Fld := ⟨0x12, 0x02, 4, 1⟩
abbrev BAL.STATUS.CAPPED : Fld := ⟨0x12, 0x02, 5, 1⟩
abbrev BAL.STATUS.LEARNED : Fld := ⟨0x12, 0x02, 6, 1⟩
abbrev BAL.STATUS.TBLDEF : Fld := ⟨0x12, 0x02, 7, 1⟩
abbrev BAL.EVT.DONE : Fld := ⟨0x12, 0x03, 0, 1⟩
abbrev BAL.EVT.CFGREJ : Fld := ⟨0x12, 0x03, 1, 1⟩
abbrev BAL.EVT.SWFAULT : Fld := ⟨0x12, 0x03, 2, 1⟩
abbrev BAL.EVT.WFAULT : Fld := ⟨0x12, 0x03, 3, 1⟩
abbrev BAL.EVT.CAP : Fld := ⟨0x12, 0x03, 4, 1⟩
abbrev BAL.MAXON : Fld := ⟨0x12, 0x08, 0, 16⟩
abbrev BAL.DUTY01 : Fld := ⟨0x12, 0x09, 0, 16⟩
abbrev BAL.DUTY02 : Fld := ⟨0x12, 0x0A, 0, 16⟩
abbrev BAL.DUTY03 : Fld := ⟨0x12, 0x0B, 0, 16⟩
abbrev BAL.DUTY04 : Fld := ⟨0x12, 0x0C, 0, 16⟩
abbrev BAL.DUTY05 : Fld := ⟨0x12, 0x0D, 0, 16⟩
abbrev BAL.DUTY06 : Fld := ⟨0x12, 0x0E, 0, 16⟩
abbrev BAL.DUTY07 : Fld := ⟨0x12, 0x0F, 0, 16⟩
abbrev BAL.DUTY08 : Fld := ⟨0x12, 0x10, 0, 16⟩
abbrev BAL.DUTY09 : Fld := ⟨0x12, 0x11, 0, 16⟩
abbrev BAL.DUTY10 : Fld := ⟨0x12, 0x12, 0, 16⟩
abbrev BAL.DUTY11 : Fld := ⟨0x12, 0x13, 0, 16⟩
abbrev BAL.DUTY12 : Fld := ⟨0x12, 0x14, 0, 16⟩
abbrev BAL.DUTY13 : Fld := ⟨0x12, 0x15, 0, 16⟩
abbrev BAL.DUTY14 : Fld := ⟨0x12, 0x16, 0, 16⟩
abbrev BAL.DUTY15 : Fld := ⟨0x12, 0x17, 0, 16⟩
abbrev BAL.DUTY16 : Fld := ⟨0x12, 0x18, 0, 16⟩
abbrev BAL.DUTY17 : Fld := ⟨0x12, 0x19, 0, 16⟩
abbrev BAL.DUTY18 : Fld := ⟨0x12, 0x1A, 0, 16⟩
abbrev BAL.DUTY19 : Fld := ⟨0x12, 0x1B, 0, 16⟩
abbrev BAL.DUTY20 : Fld := ⟨0x12, 0x1C, 0, 16⟩
abbrev BAL.DUTY21 : Fld := ⟨0x12, 0x1D, 0, 16⟩
abbrev BAL.DUTY22 : Fld := ⟨0x12, 0x1E, 0, 16⟩
abbrev BAL.DUTY23 : Fld := ⟨0x12, 0x1F, 0, 16⟩
abbrev BAL.DUTY24 : Fld := ⟨0x12, 0x20, 0, 16⟩
abbrev BAL.DUTY25 : Fld := ⟨0x12, 0x21, 0, 16⟩
abbrev BAL.DUTY26 : Fld := ⟨0x12, 0x22, 0, 16⟩
abbrev BAL.DUTY27 : Fld := ⟨0x12, 0x23, 0, 16⟩
abbrev BAL.DUTY28 : Fld := ⟨0x12, 0x24, 0, 16⟩
abbrev BAL.DUTY29 : Fld := ⟨0x12, 0x25, 0, 16⟩
abbrev BAL.DUTY30 : Fld := ⟨0x12, 0x26, 0, 16⟩
abbrev BAL.DUTY31 : Fld := ⟨0x12, 0x27, 0, 16⟩
abbrev BAL.DUTY32 : Fld := ⟨0x12, 0x28, 0, 16⟩
abbrev BAL.DUTY33 : Fld := ⟨0x12, 0x29, 0, 16⟩
abbrev BAL.DUTY34 : Fld := ⟨0x12, 0x2A, 0, 16⟩
abbrev BAL.DUTY35 : Fld := ⟨0x12, 0x2B, 0, 16⟩
abbrev BAL.DUTY36 : Fld := ⟨0x12, 0x2C, 0, 16⟩
abbrev BAL.QUIET_EXT : Fld := ⟨0x12, 0x2D, 0, 16⟩
abbrev BAL.CFG.EXTFET : Fld := ⟨0x12, 0x2E, 0, 1⟩
abbrev BAL.CFG.word : Fld := ⟨0x12, 0x2E, 0, 16⟩
abbrev BAL.CFG.NBR : Fld := ⟨0x12, 0x2E, 1, 1⟩
abbrev BAL.CFG.LEARN : Fld := ⟨0x12, 0x2E, 2, 1⟩
abbrev BAL.CFG.TGTSRC : Fld := ⟨0x12, 0x2E, 3, 1⟩
abbrev BAL.TIME : Fld := ⟨0x12, 0x2F, 0, 16⟩
abbrev BAL.TARGET0 : Fld := ⟨0x12, 0x30, 0, 16⟩
abbrev BAL.TARGET1 : Fld := ⟨0x12, 0x31, 0, 16⟩
abbrev BAL.RBAL : Fld := ⟨0x12, 0x32, 0, 16⟩
abbrev BAL.RWMAX : Fld := ⟨0x12, 0x33, 0, 16⟩
abbrev BAL.RWEND : Fld := ⟨0x12, 0x34, 0, 16⟩
abbrev BAL.SWFAIL0 : Fld := ⟨0x12, 0x35, 0, 16⟩
abbrev BAL.SWFAIL1 : Fld := ⟨0x12, 0x36, 0, 16⟩
abbrev BAL.SWFAIL2 : Fld := ⟨0x12, 0x37, 0, 16⟩
abbrev BAL.WFAIL0 : Fld := ⟨0x12, 0x38, 0, 16⟩
abbrev BAL.WFAIL1 : Fld := ⟨0x12, 0x39, 0, 16⟩
abbrev BAL.WFAIL2 : Fld := ⟨0x12, 0x3A, 0, 16⟩
abbrev BAL.WSEL : Fld := ⟨0x12, 0x3B, 0, 16⟩
abbrev BAL.RWIRE : Fld := ⟨0x12, 0x3C, 0, 16⟩
abbrev BAL.RON : Fld := ⟨0x12, 0x3D, 0, 16⟩
abbrev BAL.DERATE : Fld := ⟨0x12, 0x3E, 0, 16⟩
abbrev BAL.SERVE : Fld := ⟨0x12, 0x3F, 0, 16⟩

/-! Page 0x13, IMP (R466). -/
abbrev IMP.CTRL.GO : Fld := ⟨0x13, 0x01, 0, 1⟩
abbrev IMP.CTRL.STOP : Fld := ⟨0x13, 0x01, 1, 1⟩
abbrev IMP.CTRL.STARTAT : Fld := ⟨0x13, 0x01, 2, 1⟩
abbrev IMP.STATUS.ANYRUN : Fld := ⟨0x13, 0x02, 0, 1⟩
abbrev IMP.STATUS.EXC : Fld := ⟨0x13, 0x02, 1, 1⟩
abbrev IMP.STATUS.TBLOK : Fld := ⟨0x13, 0x02, 2, 1⟩
abbrev IMP.STATUS.COHLIVE : Fld := ⟨0x13, 0x02, 3, 1⟩
abbrev IMP.STATUS.EXCLIVE : Fld := ⟨0x13, 0x02, 4, 1⟩
abbrev IMP.STATUS.TBLLIVE : Fld := ⟨0x13, 0x02, 5, 1⟩
abbrev IMP.STATUS.BASELINE : Fld := ⟨0x13, 0x02, 6, 1⟩
abbrev IMP.EVT.RESULT : Fld := ⟨0x13, 0x03, 0, 1⟩
abbrev IMP.EVT.ABORT : Fld := ⟨0x13, 0x03, 1, 1⟩
abbrev IMP.EVT.CFGREJ : Fld := ⟨0x13, 0x03, 2, 1⟩
abbrev IMP.EVT.LOWCOH : Fld := ⟨0x13, 0x03, 3, 1⟩
abbrev IMP.EVT.EXCSUSP : Fld := ⟨0x13, 0x03, 4, 1⟩
abbrev IMP.EVT.TEMPUPD : Fld := ⟨0x13, 0x03, 5, 1⟩
abbrev IMP.LANEkNLO : Fld := ⟨0x13, 0x08, 0, 16⟩
abbrev IMP.LANEkCFG.EN : Fld := ⟨0x13, 0x09, 0, 1⟩
abbrev IMP.LANEkCFG.word : Fld := ⟨0x13, 0x09, 0, 16⟩
abbrev IMP.LANEkCFG.STR : Fld := ⟨0x13, 0x09, 1, 1⟩
abbrev IMP.LANEkCFG.ONESHOT : Fld := ⟨0x13, 0x09, 2, 1⟩
abbrev IMP.LANEkCFG.NHI : Fld := ⟨0x13, 0x09, 8, 2⟩
abbrev IMP.LANEkM : Fld := ⟨0x13, 0x0A, 0, 16⟩
abbrev IMP.LANEkSTAT.RUN : Fld := ⟨0x13, 0x0B, 0, 1⟩
abbrev IMP.LANEkSTAT.word : Fld := ⟨0x13, 0x0B, 0, 16⟩
abbrev IMP.LANEkSTAT.WAIT : Fld := ⟨0x13, 0x0B, 1, 1⟩
abbrev IMP.LANEkSTAT.EXACT : Fld := ⟨0x13, 0x0B, 2, 1⟩
abbrev IMP.LANEkSTAT.RANGE : Fld := ⟨0x13, 0x0B, 3, 1⟩
abbrev IMP.LANEkSTAT.ATTN : Fld := ⟨0x13, 0x0B, 4, 1⟩
abbrev IMP.LANEkSTAT.ACT : Fld := ⟨0x13, 0x0B, 5, 1⟩
abbrev IMP.LANEkSTAT.PROG : Fld := ⟨0x13, 0x0B, 8, 8⟩
abbrev IMP.CELLMAP0 : Fld := ⟨0x13, 0x28, 0, 16⟩
abbrev IMP.CELLMAP1 : Fld := ⟨0x13, 0x29, 0, 16⟩
abbrev IMP.CELLMAP2 : Fld := ⟨0x13, 0x2A, 0, 16⟩
abbrev IMP.EXCMAP0 : Fld := ⟨0x13, 0x2B, 0, 16⟩
abbrev IMP.EXCMAP1 : Fld := ⟨0x13, 0x2C, 0, 16⟩
abbrev IMP.EXCMAP2 : Fld := ⟨0x13, 0x2D, 0, 16⟩
abbrev IMP.EXCCFG.ACTLANE : Fld := ⟨0x13, 0x2E, 0, 3⟩
abbrev IMP.EXCCFG.word : Fld := ⟨0x13, 0x2E, 0, 16⟩
abbrev IMP.EXCCFG.ACTEN : Fld := ⟨0x13, 0x2E, 3, 1⟩
abbrev IMP.EXCCFG.EXCPRIO : Fld := ⟨0x13, 0x2E, 4, 1⟩
abbrev IMP.EXCDLY : Fld := ⟨0x13, 0x2F, 0, 16⟩
abbrev IMP.COHMIN : Fld := ⟨0x13, 0x30, 0, 16⟩
abbrev IMP.IMIN : Fld := ⟨0x13, 0x31, 0, 16⟩
abbrev IMP.TCFG.TLANE : Fld := ⟨0x13, 0x32, 0, 3⟩
abbrev IMP.TCFG.word : Fld := ⟨0x13, 0x32, 0, 16⟩
abbrev IMP.TCFG.QTY : Fld := ⟨0x13, 0x32, 3, 1⟩
abbrev IMP.TCFG.XSHIFT : Fld := ⟨0x13, 0x32, 4, 4⟩
abbrev IMP.TCFG.TEN : Fld := ⟨0x13, 0x32, 8, 1⟩
abbrev IMP.TCFG.TRLANE : Fld := ⟨0x13, 0x32, 9, 3⟩
abbrev IMP.TCFG.TREN : Fld := ⟨0x13, 0x32, 12, 1⟩
abbrev IMP.TREF : Fld := ⟨0x13, 0x33, 0, 16⟩
abbrev IMP.STARTSTN0 : Fld := ⟨0x13, 0x34, 0, 16⟩
abbrev IMP.STARTSTN1 : Fld := ⟨0x13, 0x35, 0, 16⟩
abbrev IMP.COHFAIL0 : Fld := ⟨0x13, 0x36, 0, 16⟩
abbrev IMP.COHFAIL1 : Fld := ⟨0x13, 0x37, 0, 16⟩
abbrev IMP.COHFAIL2 : Fld := ⟨0x13, 0x38, 0, 16⟩
abbrev IMP.EXCFAIL0 : Fld := ⟨0x13, 0x39, 0, 16⟩
abbrev IMP.EXCFAIL1 : Fld := ⟨0x13, 0x3A, 0, 16⟩
abbrev IMP.EXCFAIL2 : Fld := ⟨0x13, 0x3B, 0, 16⟩
abbrev IMP.ABORTCNT : Fld := ⟨0x13, 0x3C, 0, 16⟩

/-! Page 0x14, IMPWIN (R466). -/
abbrev IMPWIN.SEL.CLASS : Fld := ⟨0x14, 0x08, 0, 3⟩
abbrev IMPWIN.SEL.word : Fld := ⟨0x14, 0x08, 0, 16⟩
abbrev IMPWIN.SEL.LANE : Fld := ⟨0x14, 0x08, 4, 3⟩
abbrev IMPWIN.SEL.FREEZE : Fld := ⟨0x14, 0x08, 15, 1⟩
abbrev IMPWIN.CELL : Fld := ⟨0x14, 0x09, 0, 16⟩
abbrev IMPWIN.DATA0 : Fld := ⟨0x14, 0x0A, 0, 16⟩
abbrev IMPWIN.DATA1 : Fld := ⟨0x14, 0x0B, 0, 16⟩
abbrev IMPWIN.DATA2 : Fld := ⟨0x14, 0x0C, 0, 16⟩
abbrev IMPWIN.DATA3 : Fld := ⟨0x14, 0x0D, 0, 16⟩
abbrev IMPWIN.DATA4 : Fld := ⟨0x14, 0x0E, 0, 16⟩
abbrev IMPWIN.DATA5 : Fld := ⟨0x14, 0x0F, 0, 16⟩
abbrev IMPWIN.DATA6 : Fld := ⟨0x14, 0x10, 0, 16⟩
abbrev IMPWIN.DATA7 : Fld := ⟨0x14, 0x11, 0, 16⟩
abbrev IMPWIN.TOFSVAL0 : Fld := ⟨0x14, 0x12, 0, 16⟩
abbrev IMPWIN.TOFSVAL1 : Fld := ⟨0x14, 0x13, 0, 16⟩
abbrev IMPWIN.TOFSVAL2 : Fld := ⟨0x14, 0x14, 0, 16⟩

/-! Page 0x15, SAFE (R466). -/
abbrev SAFE.CTRL.TRIP : Fld := ⟨0x15, 0x01, 0, 1⟩
abbrev SAFE.CTRL.RETEST : Fld := ⟨0x15, 0x01, 1, 1⟩
abbrev SAFE.CTRL.KEY : Fld := ⟨0x15, 0x01, 8, 8⟩
abbrev SAFE.STATUS.LOCKOUT : Fld := ⟨0x15, 0x02, 0, 1⟩
abbrev SAFE.STATUS.PROCOK : Fld := ⟨0x15, 0x02, 1, 1⟩
abbrev SAFE.STATUS.SENOK : Fld := ⟨0x15, 0x02, 2, 1⟩
abbrev SAFE.STATUS.HBFWD : Fld := ⟨0x15, 0x02, 3, 1⟩
abbrev SAFE.STATUS.HBIN : Fld := ⟨0x15, 0x02, 4, 1⟩
abbrev SAFE.STATUS.TIGHT : Fld := ⟨0x15, 0x02, 5, 1⟩
abbrev SAFE.STATUS.RELPEND : Fld := ⟨0x15, 0x02, 6, 1⟩
abbrev SAFE.STATUS.SENARM : Fld := ⟨0x15, 0x02, 7, 1⟩
abbrev SAFE.STATUS.STRAPBAD : Fld := ⟨0x15, 0x02, 8, 1⟩
abbrev SAFE.EVT.TRIP : Fld := ⟨0x15, 0x03, 0, 1⟩
abbrev SAFE.EVT.RELEASE : Fld := ⟨0x15, 0x03, 1, 1⟩
abbrev SAFE.EVT.TACC : Fld := ⟨0x15, 0x03, 2, 1⟩
abbrev SAFE.EVT.TREJ : Fld := ⟨0x15, 0x03, 3, 1⟩
abbrev SAFE.EVT.SENFAIL : Fld := ⟨0x15, 0x03, 4, 1⟩
abbrev SAFE.EVT.UNCONF : Fld := ⟨0x15, 0x03, 5, 1⟩
abbrev SAFE.EVT.KEYREJ : Fld := ⟨0x15, 0x03, 6, 1⟩
abbrev SAFE.EVT.WDEXP : Fld := ⟨0x15, 0x03, 7, 1⟩
abbrev SAFE.EVT.ACKEARLY : Fld := ⟨0x15, 0x03, 8, 1⟩
abbrev SAFE.PRESET : Fld := ⟨0x15, 0x08, 0, 16⟩
abbrev SAFE.SENOV : Fld := ⟨0x15, 0x09, 0, 16⟩
abbrev SAFE.SENUV : Fld := ⟨0x15, 0x0A, 0, 16⟩
abbrev SAFE.SENOC : Fld := ⟨0x15, 0x0B, 0, 16⟩
abbrev SAFE.SENDT : Fld := ⟨0x15, 0x0C, 0, 16⟩
abbrev SAFE.OVLIM : Fld := ⟨0x15, 0x0D, 0, 16⟩
abbrev SAFE.UVLIM : Fld := ⟨0x15, 0x0E, 0, 16⟩
abbrev SAFE.OTLIM : Fld := ⟨0x15, 0x0F, 0, 16⟩
abbrev SAFE.OCCHG : Fld := ⟨0x15, 0x10, 0, 16⟩
abbrev SAFE.OCDIS : Fld := ⟨0x15, 0x11, 0, 16⟩
abbrev SAFE.DTLIM : Fld := ⟨0x15, 0x12, 0, 16⟩
abbrev SAFE.DEB : Fld := ⟨0x15, 0x13, 0, 16⟩
abbrev SAFE.OTMAP : Fld := ⟨0x15, 0x14, 0, 16⟩
abbrev SAFE.ARM : Fld := ⟨0x15, 0x15, 0, 16⟩
abbrev SAFE.HOSTWD : Fld := ⟨0x15, 0x16, 0, 16⟩
abbrev SAFE.NEWOVLIM : Fld := ⟨0x15, 0x18, 0, 16⟩
abbrev SAFE.NEWUVLIM : Fld := ⟨0x15, 0x19, 0, 16⟩
abbrev SAFE.NEWOTLIM : Fld := ⟨0x15, 0x1A, 0, 16⟩
abbrev SAFE.NEWOCCHG : Fld := ⟨0x15, 0x1B, 0, 16⟩
abbrev SAFE.NEWOCDIS : Fld := ⟨0x15, 0x1C, 0, 16⟩
abbrev SAFE.NEWDTLIM : Fld := ⟨0x15, 0x1D, 0, 16⟩
abbrev SAFE.NEWDEB : Fld := ⟨0x15, 0x1E, 0, 16⟩
abbrev SAFE.NEWOTMAP : Fld := ⟨0x15, 0x1F, 0, 16⟩
abbrev SAFE.NEWARM : Fld := ⟨0x15, 0x20, 0, 16⟩
abbrev SAFE.NEWHOSTWD : Fld := ⟨0x15, 0x21, 0, 16⟩
abbrev SAFE.TCRC0 : Fld := ⟨0x15, 0x22, 0, 16⟩
abbrev SAFE.TCRC1 : Fld := ⟨0x15, 0x23, 0, 16⟩
abbrev SAFE.TCOMMIT : Fld := ⟨0x15, 0x24, 0, 16⟩
abbrev SAFE.TRESULT.ACC : Fld := ⟨0x15, 0x25, 0, 1⟩
abbrev SAFE.TRESULT.word : Fld := ⟨0x15, 0x25, 0, 16⟩
abbrev SAFE.TRESULT.CRCERR : Fld := ⟨0x15, 0x25, 1, 1⟩
abbrev SAFE.TRESULT.LOOSER : Fld := ⟨0x15, 0x25, 2, 1⟩
abbrev SAFE.TRESULT.RANGE : Fld := ⟨0x15, 0x25, 3, 1⟩
abbrev SAFE.TRESULT.WORD : Fld := ⟨0x15, 0x25, 8, 4⟩
abbrev SAFE.KICK : Fld := ⟨0x15, 0x26, 0, 16⟩
abbrev SAFE.LOCKCAUSE.START : Fld := ⟨0x15, 0x27, 0, 1⟩
abbrev SAFE.LOCKCAUSE.word : Fld := ⟨0x15, 0x27, 0, 16⟩
abbrev SAFE.LOCKCAUSE.SF : Fld := ⟨0x15, 0x27, 1, 8⟩
abbrev SAFE.LOCKCAUSE.OUTPUT : Fld := ⟨0x15, 0x27, 9, 1⟩
abbrev SAFE.LOCKCAUSE.STRAP : Fld := ⟨0x15, 0x27, 10, 1⟩
abbrev SAFE.LOCKCAUSE.CLASS : Fld := ⟨0x15, 0x27, 11, 1⟩
abbrev SAFE.LOCKCAUSE.HOST : Fld := ⟨0x15, 0x27, 12, 1⟩
abbrev SAFE.LIVECAUSE : Fld := ⟨0x15, 0x28, 0, 16⟩
abbrev SAFE.LASTCAUSE : Fld := ⟨0x15, 0x29, 0, 16⟩
abbrev SAFE.GONEMS : Fld := ⟨0x15, 0x2A, 0, 16⟩
abbrev SAFE.TRIPINFO.SF : Fld := ⟨0x15, 0x2B, 0, 4⟩
abbrev SAFE.TRIPINFO.word : Fld := ⟨0x15, 0x2B, 0, 16⟩
abbrev SAFE.TRIPINFO.CH : Fld := ⟨0x15, 0x2B, 4, 1⟩
abbrev SAFE.TRIPINFO.INDEX : Fld := ⟨0x15, 0x2B, 5, 6⟩
abbrev SAFE.TRIPINFO.CONF : Fld := ⟨0x15, 0x2B, 11, 1⟩
abbrev SAFE.TRIPINFO.UNCONF : Fld := ⟨0x15, 0x2B, 12, 1⟩
abbrev SAFE.TRIPINFO.FAST : Fld := ⟨0x15, 0x2B, 13, 1⟩
abbrev SAFE.TRIPLTC0 : Fld := ⟨0x15, 0x2C, 0, 16⟩
abbrev SAFE.TRIPLTC1 : Fld := ⟨0x15, 0x2D, 0, 16⟩
abbrev SAFE.TRIPLTC2 : Fld := ⟨0x15, 0x2E, 0, 16⟩
abbrev SAFE.CONF0 : Fld := ⟨0x15, 0x2F, 0, 16⟩
abbrev SAFE.CONF1 : Fld := ⟨0x15, 0x30, 0, 16⟩
abbrev SAFE.OVTRIP0 : Fld := ⟨0x15, 0x31, 0, 16⟩
abbrev SAFE.OVTRIP1 : Fld := ⟨0x15, 0x32, 0, 16⟩
abbrev SAFE.OVTRIP2 : Fld := ⟨0x15, 0x33, 0, 16⟩
abbrev SAFE.UVTRIP0 : Fld := ⟨0x15, 0x34, 0, 16⟩
abbrev SAFE.UVTRIP1 : Fld := ⟨0x15, 0x35, 0, 16⟩
abbrev SAFE.UVTRIP2 : Fld := ⟨0x15, 0x36, 0, 16⟩
abbrev SAFE.SENFAIL0 : Fld := ⟨0x15, 0x37, 0, 16⟩
abbrev SAFE.SENFAIL1 : Fld := ⟨0x15, 0x38, 0, 16⟩
abbrev SAFE.SENFAIL2 : Fld := ⟨0x15, 0x39, 0, 16⟩
abbrev SAFE.SENTST : Fld := ⟨0x15, 0x3A, 0, 16⟩
abbrev SAFE.PROCST : Fld := ⟨0x15, 0x3B, 0, 16⟩
abbrev SAFE.LOCKCNT : Fld := ⟨0x15, 0x3C, 0, 16⟩
abbrev SAFE.ACKCNT : Fld := ⟨0x15, 0x3D, 0, 16⟩
abbrev SAFE.UNCONFCNT : Fld := ⟨0x15, 0x3E, 0, 16⟩

/-! Page 0x16, BAN (R466). -/
abbrev BAN.STATUS.HBPRES : Fld := ⟨0x16, 0x02, 0, 1⟩
abbrev BAN.STATUS.HBSTABLE : Fld := ⟨0x16, 0x02, 1, 1⟩
abbrev BAN.STATUS.HBOUT : Fld := ⟨0x16, 0x02, 2, 1⟩
abbrev BAN.STATUS.ACKIN : Fld := ⟨0x16, 0x02, 3, 1⟩
abbrev BAN.STATUS.ACKQUIET : Fld := ⟨0x16, 0x02, 4, 1⟩
abbrev BAN.STATUS.PERMIT : Fld := ⟨0x16, 0x02, 5, 1⟩
abbrev BAN.STATUS.HSCMD : Fld := ⟨0x16, 0x02, 6, 1⟩
abbrev BAN.STATUS.LSCMD : Fld := ⟨0x16, 0x02, 7, 1⟩
abbrev BAN.STATUS.OVSOK : Fld := ⟨0x16, 0x02, 8, 1⟩
abbrev BAN.STATUS.OUTLIVE : Fld := ⟨0x16, 0x02, 9, 1⟩
abbrev BAN.STATUS.HELDLIVE : Fld := ⟨0x16, 0x02, 10, 1⟩
abbrev BAN.STATUS.NEXTSW : Fld := ⟨0x16, 0x02, 11, 1⟩
abbrev BAN.EVT.HBLOST : Fld := ⟨0x16, 0x03, 0, 1⟩
abbrev BAN.EVT.HBBACK : Fld := ⟨0x16, 0x03, 1, 1⟩
abbrev BAN.EVT.ACKVALID : Fld := ⟨0x16, 0x03, 2, 1⟩
abbrev BAN.EVT.ACKSHORT : Fld := ⟨0x16, 0x03, 3, 1⟩
abbrev BAN.EVT.ACKHELD : Fld := ⟨0x16, 0x03, 4, 1⟩
abbrev BAN.EVT.TESTFAIL : Fld := ⟨0x16, 0x03, 5, 1⟩
abbrev BAN.EVT.TESTDISC : Fld := ⟨0x16, 0x03, 6, 1⟩
abbrev BAN.EVT.OVSLOW : Fld := ⟨0x16, 0x03, 7, 1⟩
abbrev BAN.EVT.CFGREJ : Fld := ⟨0x16, 0x03, 8, 1⟩
abbrev BAN.EVT.ACKNOTQUIET : Fld := ⟨0x16, 0x03, 9, 1⟩
abbrev BAN.ROLE.BROLE : Fld := ⟨0x16, 0x08, 0, 2⟩
abbrev BAN.ROLE.word : Fld := ⟨0x16, 0x08, 0, 16⟩
abbrev BAN.ROLE.MODE : Fld := ⟨0x16, 0x08, 2, 2⟩
abbrev BAN.ROLE.USED : Fld := ⟨0x16, 0x08, 4, 1⟩
abbrev BAN.TESTTREAD : Fld := ⟨0x16, 0x09, 0, 16⟩
abbrev BAN.HBPER : Fld := ⟨0x16, 0x0A, 0, 16⟩
abbrev BAN.ACKDUR : Fld := ⟨0x16, 0x0B, 0, 16⟩
abbrev BAN.ACKQMS : Fld := ⟨0x16, 0x0C, 0, 16⟩
abbrev BAN.VOVS : Fld := ⟨0x16, 0x0D, 0, 16⟩
abbrev BAN.VLOAD : Fld := ⟨0x16, 0x0E, 0, 16⟩
abbrev BAN.TESTRES.SW : Fld := ⟨0x16, 0x0F, 0, 1⟩
abbrev BAN.TESTRES.word : Fld := ⟨0x16, 0x0F, 0, 16⟩
abbrev BAN.TESTRES.PASS : Fld := ⟨0x16, 0x0F, 1, 1⟩
abbrev BAN.TESTRES.FAIL : Fld := ⟨0x16, 0x0F, 2, 1⟩
abbrev BAN.TESTRES.DISC : Fld := ⟨0x16, 0x0F, 3, 1⟩
abbrev BAN.TESTRES.SKIP : Fld := ⟨0x16, 0x0F, 4, 1⟩
abbrev BAN.TESTRES.CHECK : Fld := ⟨0x16, 0x0F, 5, 1⟩
abbrev BAN.TESTRES.FALL : Fld := ⟨0x16, 0x0F, 8, 8⟩
abbrev BAN.FALLMAX : Fld := ⟨0x16, 0x10, 0, 16⟩
abbrev BAN.TESTSTN0 : Fld := ⟨0x16, 0x11, 0, 16⟩
abbrev BAN.TESTSTN1 : Fld := ⟨0x16, 0x12, 0, 16⟩
abbrev BAN.TESTCNT : Fld := ⟨0x16, 0x13, 0, 16⟩
abbrev BAN.DISCCNT : Fld := ⟨0x16, 0x14, 0, 16⟩
abbrev BAN.HBLOSSCNT : Fld := ⟨0x16, 0x15, 0, 16⟩
abbrev BAN.ACKVCNT : Fld := ⟨0x16, 0x16, 0, 16⟩
abbrev BAN.ACKREJCNT : Fld := ⟨0x16, 0x17, 0, 16⟩

/-! Page 0x17, FAULT (R466). -/
abbrev FAULT.CTRL.CLRALL : Fld := ⟨0x17, 0x01, 0, 1⟩
abbrev FAULT.STATUS.ERRLOW : Fld := ⟨0x17, 0x02, 0, 1⟩
abbrev FAULT.STATUS.PULSE : Fld := ⟨0x17, 0x02, 1, 1⟩
abbrev FAULT.STATUS.ANYLIVE : Fld := ⟨0x17, 0x02, 2, 1⟩
abbrev FAULT.STATUS.ANYSTICKY : Fld := ⟨0x17, 0x02, 3, 1⟩
abbrev FAULT.STATUS.CLASSCAUSE : Fld := ⟨0x17, 0x02, 4, 1⟩
abbrev FAULT.EVT.NEW : Fld := ⟨0x17, 0x03, 0, 1⟩
abbrev FAULT.EVT.CLRREJ : Fld := ⟨0x17, 0x03, 1, 1⟩
abbrev FAULT.EVT.CFGREJ : Fld := ⟨0x17, 0x03, 2, 1⟩
abbrev FAULT.EVT.MERGE : Fld := ⟨0x17, 0x03, 3, 1⟩
abbrev FAULT.STICKY0 : Fld := ⟨0x17, 0x08, 0, 16⟩
abbrev FAULT.STICKY1 : Fld := ⟨0x17, 0x09, 0, 16⟩
abbrev FAULT.STICKY2 : Fld := ⟨0x17, 0x0A, 0, 16⟩
abbrev FAULT.STICKY3 : Fld := ⟨0x17, 0x0B, 0, 16⟩
abbrev FAULT.LIVE0 : Fld := ⟨0x17, 0x0C, 0, 16⟩
abbrev FAULT.LIVE1 : Fld := ⟨0x17, 0x0D, 0, 16⟩
abbrev FAULT.LIVE2 : Fld := ⟨0x17, 0x0E, 0, 16⟩
abbrev FAULT.LIVE3 : Fld := ⟨0x17, 0x0F, 0, 16⟩
abbrev FAULT.MASK0 : Fld := ⟨0x17, 0x10, 0, 16⟩
abbrev FAULT.MASK1 : Fld := ⟨0x17, 0x11, 0, 16⟩
abbrev FAULT.MASK2 : Fld := ⟨0x17, 0x12, 0, 16⟩
abbrev FAULT.MASK3 : Fld := ⟨0x17, 0x13, 0, 16⟩
abbrev FAULT.CLASS0 : Fld := ⟨0x17, 0x14, 0, 16⟩
abbrev FAULT.CLASS1 : Fld := ⟨0x17, 0x15, 0, 16⟩
abbrev FAULT.CLASS2 : Fld := ⟨0x17, 0x16, 0, 16⟩
abbrev FAULT.CLASS3 : Fld := ⟨0x17, 0x17, 0, 16⟩
abbrev FAULT.CLASS4 : Fld := ⟨0x17, 0x18, 0, 16⟩
abbrev FAULT.CLASS5 : Fld := ⟨0x17, 0x19, 0, 16⟩
abbrev FAULT.CLASS6 : Fld := ⟨0x17, 0x1A, 0, 16⟩
abbrev FAULT.CLASS7 : Fld := ⟨0x17, 0x1B, 0, 16⟩
abbrev FAULT.ERRCTL.MINW : Fld := ⟨0x17, 0x1C, 0, 8⟩
abbrev FAULT.ERRCTL.word : Fld := ⟨0x17, 0x1C, 0, 16⟩
abbrev FAULT.ERRCTL.SWLEVEL : Fld := ⟨0x17, 0x1C, 8, 1⟩
abbrev FAULT.ERRCTL.LATCH : Fld := ⟨0x17, 0x1C, 9, 1⟩
abbrev FAULT.NSEQ : Fld := ⟨0x17, 0x1D, 0, 16⟩
abbrev FAULT.CLRREJIDX : Fld := ⟨0x17, 0x1E, 0, 16⟩
abbrev FAULT.FIRST : Fld := ⟨0x17, 0x1F, 0, 16⟩
abbrev FAULT.NOTECNT : Fld := ⟨0x17, 0x20, 0, 16⟩
abbrev FAULT.MERGECNT : Fld := ⟨0x17, 0x21, 0, 16⟩

/-! Page 0x18, GAL (R466). -/
abbrev GAL.CTRL.CLEAR : Fld := ⟨0x18, 0x01, 0, 1⟩
abbrev GAL.CTRL.XFER : Fld := ⟨0x18, 0x01, 1, 1⟩
abbrev GAL.CTRL.KEY : Fld := ⟨0x18, 0x01, 8, 8⟩
abbrev GAL.STATUS.NOHIST : Fld := ⟨0x18, 0x02, 0, 1⟩
abbrev GAL.STATUS.RESTORED : Fld := ⟨0x18, 0x02, 1, 1⟩
abbrev GAL.STATUS.FROZEN : Fld := ⟨0x18, 0x02, 2, 1⟩
abbrev GAL.STATUS.NEWER : Fld := ⟨0x18, 0x02, 3, 1⟩
abbrev GAL.STATUS.SEALED : Fld := ⟨0x18, 0x02, 4, 1⟩
abbrev GAL.STATUS.DEFV : Fld := ⟨0x18, 0x02, 5, 1⟩
abbrev GAL.STATUS.DEFT : Fld := ⟨0x18, 0x02, 6, 1⟩
abbrev GAL.STATUS.DEFI : Fld := ⟨0x18, 0x02, 7, 1⟩
abbrev GAL.STATUS.EDGEMIS : Fld := ⟨0x18, 0x02, 8, 1⟩
abbrev GAL.STATUS.XBUSY : Fld := ⟨0x18, 0x02, 9, 1⟩
abbrev GAL.STATUS.IREC : Fld := ⟨0x18, 0x02, 10, 1⟩
abbrev GAL.EVT.FOLD : Fld := ⟨0x18, 0x03, 0, 1⟩
abbrev GAL.EVT.CLEARED : Fld := ⟨0x18, 0x03, 1, 1⟩
abbrev GAL.EVT.CLRREJ : Fld := ⟨0x18, 0x03, 2, 1⟩
abbrev GAL.EVT.XSKIP : Fld := ⟨0x18, 0x03, 3, 1⟩
abbrev GAL.EVT.CFGREJ : Fld := ⟨0x18, 0x03, 4, 1⟩
abbrev GAL.EVT.EXTREME : Fld := ⟨0x18, 0x03, 5, 1⟩
abbrev GAL.EVT.EDGEADOPT : Fld := ⟨0x18, 0x03, 6, 1⟩
abbrev GAL.EPOCH : Fld := ⟨0x18, 0x08, 0, 16⟩
abbrev GAL.CURSOR : Fld := ⟨0x18, 0x09, 0, 16⟩
abbrev GAL.INDEX : Fld := ⟨0x18, 0x0A, 0, 16⟩
abbrev GAL.BIN : Fld := ⟨0x18, 0x0B, 0, 16⟩
abbrev GAL.DATA0 : Fld := ⟨0x18, 0x0C, 0, 16⟩
abbrev GAL.DATA1 : Fld := ⟨0x18, 0x0D, 0, 16⟩
abbrev GAL.DATA2 : Fld := ⟨0x18, 0x0E, 0, 16⟩
abbrev GAL.DATA3 : Fld := ⟨0x18, 0x0F, 0, 16⟩
abbrev GAL.DATA4 : Fld := ⟨0x18, 0x10, 0, 16⟩
abbrev GAL.DATA5 : Fld := ⟨0x18, 0x11, 0, 16⟩
abbrev GAL.DATA6 : Fld := ⟨0x18, 0x12, 0, 16⟩
abbrev GAL.DATA7 : Fld := ⟨0x18, 0x13, 0, 16⟩
abbrev GAL.EPOCHNO0 : Fld := ⟨0x18, 0x14, 0, 16⟩
abbrev GAL.EPOCHNO1 : Fld := ⟨0x18, 0x15, 0, 16⟩
abbrev GAL.FOLDLTC0 : Fld := ⟨0x18, 0x16, 0, 16⟩
abbrev GAL.FOLDLTC1 : Fld := ⟨0x18, 0x17, 0, 16⟩
abbrev GAL.FOLDLTC2 : Fld := ⟨0x18, 0x18, 0, 16⟩
abbrev GAL.SEGMENT : Fld := ⟨0x18, 0x19, 0, 16⟩
abbrev GAL.EDGECRCV0 : Fld := ⟨0x18, 0x1A, 0, 16⟩
abbrev GAL.EDGECRCV1 : Fld := ⟨0x18, 0x1B, 0, 16⟩
abbrev GAL.EDGECRCT0 : Fld := ⟨0x18, 0x1C, 0, 16⟩
abbrev GAL.EDGECRCT1 : Fld := ⟨0x18, 0x1D, 0, 16⟩
abbrev GAL.EDGECRCI0 : Fld := ⟨0x18, 0x1E, 0, 16⟩
abbrev GAL.EDGECRCI1 : Fld := ⟨0x18, 0x1F, 0, 16⟩
abbrev GAL.XFER : Fld := ⟨0x18, 0x20, 0, 16⟩
abbrev GAL.XSKIPCNT : Fld := ⟨0x18, 0x21, 0, 16⟩

/-! Page 0x19, FLASH (R466). -/
abbrev FLASH.CTRL.FORMAT : Fld := ⟨0x19, 0x01, 0, 1⟩
abbrev FLASH.CTRL.DUMP : Fld := ⟨0x19, 0x01, 1, 1⟩
abbrev FLASH.CTRL.SCRUBNOW : Fld := ⟨0x19, 0x01, 2, 1⟩
abbrev FLASH.CTRL.KEY : Fld := ⟨0x19, 0x01, 8, 8⟩
abbrev FLASH.STATUS.STATE : Fld := ⟨0x19, 0x02, 0, 2⟩
abbrev FLASH.STATUS.BUSY : Fld := ⟨0x19, 0x02, 2, 1⟩
abbrev FLASH.STATUS.DUMPBUSY : Fld := ⟨0x19, 0x02, 3, 1⟩
abbrev FLASH.STATUS.SEEN : Fld := ⟨0x19, 0x02, 4, 1⟩
abbrev FLASH.STATUS.RESLOW : Fld := ⟨0x19, 0x02, 5, 1⟩
abbrev FLASH.EVT.RETIRE : Fld := ⟨0x19, 0x03, 0, 1⟩
abbrev FLASH.EVT.FIX : Fld := ⟨0x19, 0x03, 1, 1⟩
abbrev FLASH.EVT.DAMAGE : Fld := ⟨0x19, 0x03, 2, 1⟩
abbrev FLASH.EVT.FAIL : Fld := ⟨0x19, 0x03, 3, 1⟩
abbrev FLASH.EVT.RECOVER : Fld := ⟨0x19, 0x03, 4, 1⟩
abbrev FLASH.EVT.MDROP : Fld := ⟨0x19, 0x03, 5, 1⟩
abbrev FLASH.EVT.SEAL : Fld := ⟨0x19, 0x03, 6, 1⟩
abbrev FLASH.EVT.DUMPCUT : Fld := ⟨0x19, 0x03, 7, 1⟩
abbrev FLASH.EVT.KEYREJ : Fld := ⟨0x19, 0x03, 8, 1⟩
abbrev FLASH.EVT.CFGREJ : Fld := ⟨0x19, 0x03, 9, 1⟩
abbrev FLASH.CFG.EN : Fld := ⟨0x19, 0x08, 0, 1⟩
abbrev FLASH.CFG.word : Fld := ⟨0x19, 0x08, 0, 16⟩
abbrev FLASH.CFG.QUADEN : Fld := ⟨0x19, 0x08, 1, 1⟩
abbrev FLASH.CFG.FSCK : Fld := ⟨0x19, 0x08, 2, 2⟩
abbrev FLASH.ENDUR : Fld := ⟨0x19, 0x09, 0, 16⟩
abbrev FLASH.JEDECID0 : Fld := ⟨0x19, 0x0A, 0, 16⟩
abbrev FLASH.JEDECID1 : Fld := ⟨0x19, 0x0B, 0, 16⟩
abbrev FLASH.RINGSEC : Fld := ⟨0x19, 0x0C, 0, 16⟩
abbrev FLASH.MODE : Fld := ⟨0x19, 0x0D, 0, 16⟩
abbrev FLASH.HEADSEQ0 : Fld := ⟨0x19, 0x0E, 0, 16⟩
abbrev FLASH.HEADSEQ1 : Fld := ⟨0x19, 0x0F, 0, 16⟩
abbrev FLASH.RETIRED : Fld := ⟨0x19, 0x10, 0, 16⟩
abbrev FLASH.MAXERASE0 : Fld := ⟨0x19, 0x11, 0, 16⟩
abbrev FLASH.MAXERASE1 : Fld := ⟨0x19, 0x12, 0, 16⟩
abbrev FLASH.MONTHS : Fld := ⟨0x19, 0x13, 0, 16⟩
abbrev FLASH.MDROPCNT : Fld := ⟨0x19, 0x14, 0, 16⟩
abbrev FLASH.SCRUBPOS : Fld := ⟨0x19, 0x15, 0, 16⟩
abbrev FLASH.FIXCNT : Fld := ⟨0x19, 0x16, 0, 16⟩
abbrev FLASH.DMGCNT : Fld := ⟨0x19, 0x17, 0, 16⟩
abbrev FLASH.TOMBCNT : Fld := ⟨0x19, 0x18, 0, 16⟩
abbrev FLASH.LASTGOOD0 : Fld := ⟨0x19, 0x19, 0, 16⟩
abbrev FLASH.LASTGOOD1 : Fld := ⟨0x19, 0x1A, 0, 16⟩
abbrev FLASH.MISSEP : Fld := ⟨0x19, 0x1B, 0, 16⟩
abbrev FLASH.DUMPSTART0 : Fld := ⟨0x19, 0x1C, 0, 16⟩
abbrev FLASH.DUMPSTART1 : Fld := ⟨0x19, 0x1D, 0, 16⟩
abbrev FLASH.DUMPCNT : Fld := ⟨0x19, 0x1E, 0, 16⟩
abbrev FLASH.FORMATNO : Fld := ⟨0x19, 0x1F, 0, 16⟩
abbrev FLASH.SEALCNT : Fld := ⟨0x19, 0x20, 0, 16⟩

/-! Page 0x1A, TIPOL (R466). -/
abbrev TIPOL.CTRL.SEARCH : Fld := ⟨0x1A, 0x01, 0, 1⟩
abbrev TIPOL.CTRL.POLLNOW : Fld := ⟨0x1A, 0x01, 1, 1⟩
abbrev TIPOL.CTRL.CLEARREG : Fld := ⟨0x1A, 0x01, 2, 1⟩
abbrev TIPOL.STATUS.SHORTLIVE : Fld := ⟨0x1A, 0x02, 0, 1⟩
abbrev TIPOL.STATUS.SEARCHING : Fld := ⟨0x1A, 0x02, 1, 1⟩
abbrev TIPOL.STATUS.POLLING : Fld := ⟨0x1A, 0x02, 2, 1⟩
abbrev TIPOL.STATUS.MISSLIVE : Fld := ⟨0x1A, 0x02, 3, 1⟩
abbrev TIPOL.STATUS.FULL : Fld := ⟨0x1A, 0x02, 4, 1⟩
abbrev TIPOL.EVT.FOUND : Fld := ⟨0x1A, 0x03, 0, 1⟩
abbrev TIPOL.EVT.SRCHDONE : Fld := ⟨0x1A, 0x03, 1, 1⟩
abbrev TIPOL.EVT.SRCHFAIL : Fld := ⟨0x1A, 0x03, 2, 1⟩
abbrev TIPOL.EVT.CRC : Fld := ⟨0x1A, 0x03, 3, 1⟩
abbrev TIPOL.EVT.MISSING : Fld := ⟨0x1A, 0x03, 4, 1⟩
abbrev TIPOL.EVT.SHORT : Fld := ⟨0x1A, 0x03, 5, 1⟩
abbrev TIPOL.EVT.FULL : Fld := ⟨0x1A, 0x03, 6, 1⟩
abbrev TIPOL.EVT.CFGREJ : Fld := ⟨0x1A, 0x03, 7, 1⟩
abbrev TIPOL.CFG.EN : Fld := ⟨0x1A, 0x08, 0, 1⟩
abbrev TIPOL.CFG.word : Fld := ⟨0x1A, 0x08, 0, 16⟩
abbrev TIPOL.CFG.PULLUP : Fld := ⟨0x1A, 0x08, 1, 2⟩
abbrev TIPOL.CFG.AUTOSEARCH : Fld := ⟨0x1A, 0x08, 3, 1⟩
abbrev TIPOL.CFG.POLLEN : Fld := ⟨0x1A, 0x08, 4, 1⟩
abbrev TIPOL.PERIOD : Fld := ⟨0x1A, 0x09, 0, 16⟩
abbrev TIPOL.CONVT : Fld := ⟨0x1A, 0x0A, 0, 16⟩
abbrev TIPOL.NMISS : Fld := ⟨0x1A, 0x0B, 0, 16⟩
abbrev TIPOL.NODES : Fld := ⟨0x1A, 0x0C, 0, 16⟩
abbrev TIPOL.SEL : Fld := ⟨0x1A, 0x0D, 0, 16⟩
abbrev TIPOL.NUM0 : Fld := ⟨0x1A, 0x0E, 0, 16⟩
abbrev TIPOL.NUM1 : Fld := ⟨0x1A, 0x0F, 0, 16⟩
abbrev TIPOL.NUM2 : Fld := ⟨0x1A, 0x10, 0, 16⟩
abbrev TIPOL.NUM3 : Fld := ⟨0x1A, 0x11, 0, 16⟩
abbrev TIPOL.CHMAP : Fld := ⟨0x1A, 0x12, 0, 16⟩
abbrev TIPOL.INFO : Fld := ⟨0x1A, 0x13, 0, 16⟩
abbrev TIPOL.NSTAT : Fld := ⟨0x1A, 0x14, 0, 16⟩
abbrev TIPOL.CHSEL : Fld := ⟨0x1A, 0x15, 0, 16⟩
abbrev TIPOL.VALUE : Fld := ⟨0x1A, 0x16, 0, 16⟩
abbrev TIPOL.TICK : Fld := ⟨0x1A, 0x17, 0, 16⟩
abbrev TIPOL.SRCHCNT : Fld := ⟨0x1A, 0x18, 0, 16⟩
abbrev TIPOL.RETRYCNT : Fld := ⟨0x1A, 0x19, 0, 16⟩
abbrev TIPOL.CRCCNT : Fld := ⟨0x1A, 0x1A, 0, 16⟩
abbrev TIPOL.NOREPCNT : Fld := ⟨0x1A, 0x1B, 0, 16⟩
abbrev TIPOL.MISSMAP0 : Fld := ⟨0x1A, 0x1C, 0, 16⟩
abbrev TIPOL.MISSMAP1 : Fld := ⟨0x1A, 0x1D, 0, 16⟩

/-! Page 0x1B, HEALTH (R466). -/
abbrev HEALTH.WREF : Fld := ⟨0x1B, 0x08, 0, 16⟩
abbrev HEALTH.SPREAD : Fld := ⟨0x1B, 0x09, 0, 16⟩
abbrev HEALTH.GUARD : Fld := ⟨0x1B, 0x0A, 0, 16⟩
abbrev HEALTH.OSCDRIFT : Fld := ⟨0x1B, 0x0B, 0, 16⟩
abbrev HEALTH.EYEURX : Fld := ⟨0x1B, 0x0C, 0, 16⟩
abbrev HEALTH.EYEDRX : Fld := ⟨0x1B, 0x0D, 0, 16⟩
abbrev HEALTH.EYEUTX : Fld := ⟨0x1B, 0x0E, 0, 16⟩
abbrev HEALTH.EYEDTX : Fld := ⟨0x1B, 0x0F, 0, 16⟩
abbrev HEALTH.RATEREC : Fld := ⟨0x1B, 0x10, 0, 16⟩
abbrev HEALTH.FLWEAR : Fld := ⟨0x1B, 0x11, 0, 16⟩
abbrev HEALTH.RONMAX : Fld := ⟨0x1B, 0x12, 0, 16⟩
abbrev HEALTH.RONCELL : Fld := ⟨0x1B, 0x13, 0, 16⟩
abbrev HEALTH.DRIFTCH : Fld := ⟨0x1B, 0x14, 0, 16⟩
abbrev HEALTH.WCH0 : Fld := ⟨0x1B, 0x15, 0, 16⟩
abbrev HEALTH.WCH1 : Fld := ⟨0x1B, 0x16, 0, 16⟩
abbrev HEALTH.WCH2 : Fld := ⟨0x1B, 0x17, 0, 16⟩
abbrev HEALTH.WCH3 : Fld := ⟨0x1B, 0x18, 0, 16⟩
abbrev HEALTH.WCH4 : Fld := ⟨0x1B, 0x19, 0, 16⟩
abbrev HEALTH.WCH5 : Fld := ⟨0x1B, 0x1A, 0, 16⟩
abbrev HEALTH.WCH6 : Fld := ⟨0x1B, 0x1B, 0, 16⟩
abbrev HEALTH.WCH7 : Fld := ⟨0x1B, 0x1C, 0, 16⟩
abbrev HEALTH.WCH8 : Fld := ⟨0x1B, 0x1D, 0, 16⟩
abbrev HEALTH.WCH9 : Fld := ⟨0x1B, 0x1E, 0, 16⟩
abbrev HEALTH.WCH10 : Fld := ⟨0x1B, 0x1F, 0, 16⟩
abbrev HEALTH.WCH11 : Fld := ⟨0x1B, 0x20, 0, 16⟩
abbrev HEALTH.WCH12 : Fld := ⟨0x1B, 0x21, 0, 16⟩
abbrev HEALTH.WCH13 : Fld := ⟨0x1B, 0x22, 0, 16⟩
abbrev HEALTH.LTC0 : Fld := ⟨0x1B, 0x23, 0, 16⟩
abbrev HEALTH.LTC1 : Fld := ⟨0x1B, 0x24, 0, 16⟩
abbrev HEALTH.LTC2 : Fld := ⟨0x1B, 0x25, 0, 16⟩

/-! Page 0x1C, TABLE (R466). -/
abbrev TABLE.CTRL.CHECK : Fld := ⟨0x1C, 0x01, 0, 1⟩
abbrev TABLE.CTRL.DEL : Fld := ⟨0x1C, 0x01, 1, 1⟩
abbrev TABLE.STATUS.STAGED : Fld := ⟨0x1C, 0x02, 0, 1⟩
abbrev TABLE.STATUS.ADOPTPEND : Fld := ⟨0x1C, 0x02, 1, 1⟩
abbrev TABLE.EVT.ADOPT : Fld := ⟨0x1C, 0x03, 0, 1⟩
abbrev TABLE.EVT.REFUSE : Fld := ⟨0x1C, 0x03, 1, 1⟩
abbrev TABLE.EVT.BAD : Fld := ⟨0x1C, 0x03, 2, 1⟩
abbrev TABLE.EVT.CFGREJ : Fld := ⟨0x1C, 0x03, 3, 1⟩
abbrev TABLE.TSEL : Fld := ⟨0x1C, 0x08, 0, 16⟩
abbrev TABLE.TPTR : Fld := ⟨0x1C, 0x09, 0, 16⟩
abbrev TABLE.TDATA : Fld := ⟨0x1C, 0x0A, 0, 16⟩
abbrev TABLE.TSTATE : Fld := ⟨0x1C, 0x0B, 0, 16⟩
abbrev TABLE.TCRC0 : Fld := ⟨0x1C, 0x0C, 0, 16⟩
abbrev TABLE.TCRC1 : Fld := ⟨0x1C, 0x0D, 0, 16⟩

/-! Page 0x1D, DIAG (R466). -/
abbrev DIAG.CTRL.NOW : Fld := ⟨0x1D, 0x01, 0, 1⟩
abbrev DIAG.STATUS.OWLIVE : Fld := ⟨0x1D, 0x02, 0, 1⟩
abbrev DIAG.STATUS.PINLIVE : Fld := ⟨0x1D, 0x02, 1, 1⟩
abbrev DIAG.STATUS.FALLBACK : Fld := ⟨0x1D, 0x02, 2, 1⟩
abbrev DIAG.STATUS.SF6IN : Fld := ⟨0x1D, 0x02, 3, 1⟩
abbrev DIAG.STATUS.DTREAD : Fld := ⟨0x1D, 0x02, 4, 1⟩
abbrev DIAG.EVT.OPEN : Fld := ⟨0x1D, 0x03, 0, 1⟩
abbrev DIAG.EVT.CLOSED : Fld := ⟨0x1D, 0x03, 1, 1⟩
abbrev DIAG.EVT.PINFAIL : Fld := ⟨0x1D, 0x03, 2, 1⟩
abbrev DIAG.EVT.ZSUSP : Fld := ⟨0x1D, 0x03, 3, 1⟩
abbrev DIAG.EVT.SKIP : Fld := ⟨0x1D, 0x03, 4, 1⟩
abbrev DIAG.EVT.CFGREJ : Fld := ⟨0x1D, 0x03, 5, 1⟩
abbrev DIAG.CFG.EN : Fld := ⟨0x1D, 0x08, 0, 1⟩
abbrev DIAG.CFG.word : Fld := ⟨0x1D, 0x08, 0, 16⟩
abbrev DIAG.CFG.ZEN : Fld := ⟨0x1D, 0x08, 1, 1⟩
abbrev DIAG.CFG.OWN : Fld := ⟨0x1D, 0x08, 4, 4⟩
abbrev DIAG.CFG.ZRATIO : Fld := ⟨0x1D, 0x08, 8, 8⟩
abbrev DIAG.OWPER : Fld := ⟨0x1D, 0x09, 0, 16⟩
abbrev DIAG.OWTHR : Fld := ⟨0x1D, 0x0A, 0, 16⟩
abbrev DIAG.SPANLIM : Fld := ⟨0x1D, 0x0B, 0, 16⟩
abbrev DIAG.SPANMARG : Fld := ⟨0x1D, 0x0C, 0, 16⟩
abbrev DIAG.DLIM : Fld := ⟨0x1D, 0x0D, 0, 16⟩
abbrev DIAG.RSERWIN : Fld := ⟨0x1D, 0x0E, 0, 16⟩
abbrev DIAG.OPEN0 : Fld := ⟨0x1D, 0x0F, 0, 16⟩
abbrev DIAG.OPEN1 : Fld := ⟨0x1D, 0x10, 0, 16⟩
abbrev DIAG.OPEN2 : Fld := ⟨0x1D, 0x11, 0, 16⟩
abbrev DIAG.PINFAIL0 : Fld := ⟨0x1D, 0x12, 0, 16⟩
abbrev DIAG.PINFAIL1 : Fld := ⟨0x1D, 0x13, 0, 16⟩
abbrev DIAG.PINFAIL2 : Fld := ⟨0x1D, 0x14, 0, 16⟩
abbrev DIAG.ZSUSP0 : Fld := ⟨0x1D, 0x15, 0, 16⟩
abbrev DIAG.ZSUSP1 : Fld := ⟨0x1D, 0x16, 0, 16⟩
abbrev DIAG.ZSUSP2 : Fld := ⟨0x1D, 0x17, 0, 16⟩
abbrev DIAG.TSEL : Fld := ⟨0x1D, 0x18, 0, 16⟩
abbrev DIAG.TKIND : Fld := ⟨0x1D, 0x19, 0, 16⟩
abbrev DIAG.TDV0 : Fld := ⟨0x1D, 0x1A, 0, 16⟩
abbrev DIAG.TDV1 : Fld := ⟨0x1D, 0x1B, 0, 16⟩
abbrev DIAG.TRSER : Fld := ⟨0x1D, 0x1C, 0, 16⟩
abbrev DIAG.TDEV : Fld := ⟨0x1D, 0x1D, 0, 16⟩
abbrev DIAG.DTCNT : Fld := ⟨0x1D, 0x1E, 0, 16⟩
abbrev DIAG.SKIPCNT : Fld := ⟨0x1D, 0x1F, 0, 16⟩
abbrev DIAG.SPAN0 : Fld := ⟨0x1D, 0x20, 0, 16⟩
abbrev DIAG.SPAN1 : Fld := ⟨0x1D, 0x21, 0, 16⟩

/-! Page 0x1E, LIFE (R466). -/
abbrev LIFE.STATUS.ARMED : Fld := ⟨0x1E, 0x02, 0, 1⟩
abbrev LIFE.STATUS.BUSY : Fld := ⟨0x1E, 0x02, 1, 1⟩
abbrev LIFE.EVT.ARM : Fld := ⟨0x1E, 0x03, 0, 1⟩
abbrev LIFE.EVT.REJ : Fld := ⟨0x1E, 0x03, 1, 1⟩
abbrev LIFE.STATE : Fld := ⟨0x1E, 0x08, 0, 16⟩
abbrev LIFE.TARGET : Fld := ⟨0x1E, 0x09, 0, 16⟩
abbrev LIFE.ARM0 : Fld := ⟨0x1E, 0x0A, 0, 16⟩
abbrev LIFE.ARM1 : Fld := ⟨0x1E, 0x0B, 0, 16⟩
abbrev LIFE.ARM2 : Fld := ⟨0x1E, 0x0C, 0, 16⟩
abbrev LIFE.ARM3 : Fld := ⟨0x1E, 0x0D, 0, 16⟩
abbrev LIFE.COMMIT : Fld := ⟨0x1E, 0x0E, 0, 16⟩
abbrev LIFE.RESULT : Fld := ⟨0x1E, 0x0F, 0, 16⟩
abbrev LIFE.LASTLTC0 : Fld := ⟨0x1E, 0x10, 0, 16⟩
abbrev LIFE.LASTLTC1 : Fld := ⟨0x1E, 0x11, 0, 16⟩
abbrev LIFE.LASTLTC2 : Fld := ⟨0x1E, 0x12, 0, 16⟩

end Sys2Proof.Machine
end

