-- ==== Sys2Proof/Machine/Ops.lean ====
section
/-! DEFINITION. Ops.lean: the named operations over the state that every family uses: sparse tables,
register words and their fields, values in use, the gate on power, events and faults. -/
namespace Sys2Proof.Machine

/-! ### Sparse tables -/

/-- The value of key `k`; `d` says what an unlisted key reads as. -/
def mapGet {α : Type} (d : Nat → α) : SMap α → Nat → α
  | [], k => d k
  | (k', v) :: m, k => if k' = k then v else mapGet d m k

/-- The table without key `k`. -/
def mapDrop {α : Type} : SMap α → Nat → SMap α
  | [], _ => []
  | (k', v') :: m, k => if k' = k then mapDrop m k else (k', v') :: mapDrop m k

/-- A table that has no key `k`, with `(k, v)` before the first greater key. -/
def mapIns {α : Type} : SMap α → Nat → α → SMap α
  | [], k, v => [(k, v)]
  | (k', v') :: m, k, v => if k < k' then (k, v) :: (k', v') :: m else (k', v') :: mapIns m k v

/-- The table with `v` at `k`, in canonical form: an entry equal to the default is dropped. -/
def mapSet {α : Type} [DecidableEq α] (d : Nat → α) (m : SMap α) (k : Nat) (v : α) : SMap α :=
  if v = d k then mapDrop m k else mapIns (mapDrop m k) k v

/-- Every key of the table is above `b`, keys rise strictly, and no entry equals the default. -/
def mapWfFrom {α : Type} [DecidableEq α] (d : Nat → α) : Option Nat → SMap α → Bool
  | _, [] => true
  | b, (k, v) :: m => (match b with | none => true | some b => decide (b < k)) && decide (v ≠ d k) &&
      mapWfFrom d (some k) m

/-- The canonical form of a table. -/
def mapWf {α : Type} [DecidableEq α] (d : Nat → α) (m : SMap α) : Bool := mapWfFrom d none m

/-- A table whose unlisted keys read as the type's default. -/
def look {α : Type} [Inhabited α] (m : SMap α) (k : Nat) : α := mapGet (fun _ => default) m k

/-- `look`'s write. -/
def put {α : Type} [Inhabited α] [DecidableEq α] (m : SMap α) (k : Nat) (v : α) : SMap α :=
  mapSet (fun _ => default) m k v

/-- Change one entry by a function. -/
def adj {α : Type} [Inhabited α] [DecidableEq α] (m : SMap α) (k : Nat) (f : α → α) : SMap α :=
  put m k (f (look m k))

/-- Fold an update over a list of keys, in order. -/
def forEach {α σ : Type} (l : List α) (f : α → σ → σ) (s : σ) : σ := l.foldl (fun s a => f a s) s

/-! ### Register words -/

/-- The linear address page × 64 + word (R352). -/
def linear (page word : Nat) : Nat := page * 64 + word

/-- The address of a field's word. -/
def Fld.addr (f : Fld) : Nat := linear f.page f.word

/-- The same field, `n` words further on. -/
def Fld.plus (f : Fld) (n : Nat) : Fld := { f with word := f.word + n }

/-- Where the reset column of R467 gives a word from 0x08 upward (or a header word) a value other than
0x0000: (page, first word, values). Values that lie in named state (tables, results, vault) are formed
there. (DEDUCED, log 9) -/
def resetRows : Nat → List (Nat × List Nat)
  | 0x00 => [(0x0C, [0x3640])]
  | 0x01 => [(0x0C, [0x000F, 0x0001])]
  | 0x04 => [(0x08, [0x0003, 0x07D0, 0x0010, 0x0003]), (0x0E, [0xFFFF, 0xFFFF, 0xFFFF, 0xFFFF])]
  | 0x06 => [(0x02, [0x0001]), (0x08, [0xFFFF, 0xFFFF, 0xFFFF, 0x807F]), (0x14, [0x0004]),
      (0x20, [0, 0x0101, 0, 0x0101, 0, 0x0101, 0, 0x0101, 0, 0x0101, 0, 0x0101, 0, 0x0101, 0, 0x0101]),
      (0x34, [0x0060])]
  | 0x07 => [(0x01, [0x0001]), (0x08, [0x0024, 0x0004, 0xA000, 0x0001])]
  | 0x0C => [(0x01, [0x0003]), (0x0E, [0x1440, 0x0032, 0x0800]), (0x18, [0, 0x8000, 0, 0x8000])]
  | 0x0D => [(0x01, [0x0001]), (0x08, List.replicate 16 0x0400), (0x38, [0x000A, 0x0020, 0x0001])]
  | 0x0E => [(0x01, [0x0001]), (0x08, List.replicate 16 0x0400), (0x38, [0x000A, 0x0020, 0x0001])]
  | 0x0F => [(0x08, [0x04CC, 0x0258, 0x0202, 0x0221, 0x07D0])]
  | 0x10 => [(0x08, [0x0001, 0x0008, 0x0018, 0x0040, 0x000F, 0x09C4, 0x00C8]), (0x12, [0x8000])]
  | 0x12 => [(0x08, [0x0012]), (0x2E, [0x0004, 0x0E10, 0x5AA0, 0x0032, 0x02EE, 0x0FA0]),
      (0x3C, [0xFFFF, 0xFFFF, 0x0100, 0x0100])]
  | 0x13 => [(0x08, (List.replicate 8 [0x1900, 0x0002, 0x0064, 0x0000]).flatten), (0x28, [0xFFFF, 0xFFFF, 0x000F]),
      (0x2F, [0x125C, 0x00E5, 0x0032, 0x0000, 0x0190])]
  | 0x14 => [(0x09, [0x0001])]
  | 0x15 => [(0x09, [0x9470, 0x4E20, 0x1F40, 0x0820, 0x9470, 0x4E20, 0x0410, 0x1F40, 0x1F40, 0x07D0, 0x0022]),
      (0x18, [0x9470, 0x4E20, 0x0410, 0x1F40, 0x1F40, 0x07D0, 0x0022]), (0x27, [0x0001, 0x0001])]
  | 0x16 => [(0x0A, [0xFFFF]), (0x0F, [0xFF00])]
  | 0x17 => [(0x14, [0xAAAA, 0x51A4, 0x5455, 0x5115, 0x1415, 0x4154, 0x5515, 0x1145, 0x0202])]
  | 0x18 => [(0x08, [0x003C]), (0x0A, [0x0001])]
  | 0x19 => [(0x08, [0x0003, 0x0064]), (0x1E, [0x0001])]
  | 0x1A => [(0x08, [0x001D, 0x03E8, 0x0064, 0x0003])]
  | 0x1B => [(0x10, [0x0003])]
  | 0x1C => [(0x08, [0x0001])]
  | 0x1D => [(0x08, [0x0423, 0x0032, 0x0028, 0x012C, 0x0064, 0x0032, 0x9632]), (0x18, [0x0001]),
      (0x1C, [0xFFFF, 0x8000])]
  | _ => []

/-- The value of word `w` in rows of `resetRows`' form. -/
def rowVal : List (Nat × List Nat) → Nat → Option Nat
  | [], _ => none
  | (b, l) :: r, w => if b ≤ w ∧ w < b + l.length then l[w - b]? else rowVal r w

/-- The reset value of a register word (R459, R467). -/
def resetWord (a : Nat) : Word :=
  if 2048 ≤ a then 0
  else if a % 64 = 0 then BitVec.ofNat 16 (a / 64 * 0x100 + 1)
  else BitVec.ofNat 16 ((rowVal (resetRows (a / 64)) (a % 64)).getD 0)

/-- The stored word at a linear address. -/
def State.reg (s : State) (a : Nat) : Word := mapGet resetWord s.regs a

/-- Store a word. -/
def State.setReg (s : State) (a : Nat) (w : Word) : State := { s with regs := mapSet resetWord s.regs a w }

/-- Bits lo to lo + w − 1 of a word. -/
def fieldOf (x : Word) (lo w : Nat) : Nat := x.toNat / 2 ^ lo % 2 ^ w

/-- A word with bits lo to lo + w − 1 replaced by `v` modulo 2^w. -/
def withField (x : Word) (lo w v : Nat) : Word :=
  BitVec.ofNat 16 (x.toNat - fieldOf x lo w * 2 ^ lo + v % 2 ^ w * 2 ^ lo)

/-- A field's stored value. -/
def State.get (s : State) (f : Fld) : Nat := fieldOf (s.reg f.addr) f.lo f.w

/-- Store a field. -/
def State.set (s : State) (f : Fld) (v : Nat) : State :=
  s.setReg f.addr (withField (s.reg f.addr) f.lo f.w v)

/-- Store a single-bit field. -/
def State.setB (s : State) (f : Fld) (b : Bool) : State := s.set f (if b then 1 else 0)

/-- A single-bit field as a truth value. -/
def State.bit (s : State) (f : Fld) : Bool := s.get f == 1

/-- Two words as one value, low word first (R6). -/
def State.get2 (s : State) (f : Fld) : Nat := s.get f + 65536 * s.get (f.plus 1)

/-- Three words as one value, low word first (R6). -/
def State.get3 (s : State) (f : Fld) : Nat := s.get2 f + 4294967296 * s.get (f.plus 2)

/-- Store a 32-bit value, low word first. -/
def State.set2 (s : State) (f : Fld) (v : Nat) : State := (s.set f v).set (f.plus 1) (v / 65536)

/-- Store a 48-bit value, low word first. -/
def State.set3 (s : State) (f : Fld) (v : Nat) : State := (s.set2 f v).set (f.plus 2) (v / 4294967296)

/-- Add one, saturating at the field's greatest value. -/
def State.inc (s : State) (f : Fld) : State := s.set f (min (s.get f + 1) (2 ^ f.w - 1))

/-- Bit `i` of a vector of words that begins at `f`. -/
def State.vbit (s : State) (f : Fld) (i : Nat) : Bool := s.bit { f with word := f.word + i / 16, lo := i % 16, w := 1 }

/-- Store bit `i` of a vector of words that begins at `f`. -/
def State.setV (s : State) (f : Fld) (i : Nat) (b : Bool) : State :=
  s.setB { f with word := f.word + i / 16, lo := i % 16, w := 1 } b

/-- Some of the first `n` bits of a vector is 1. -/
def State.anyV (s : State) (f : Fld) (n : Nat) : Bool := (List.range n).any (s.vbit f)

/-- All of the first `n` bits of a vector, cleared. -/
def State.clearV (s : State) (f : Fld) (n : Nat) : State :=
  forEach (List.range n) (fun i s => s.setV f i false) s

/-! ### Values in use: a write whose effect waits (R461, R462) -/

/-- The word in use at an address: the old one while a write still waits for its instant. -/
def State.useReg (s : State) (a : Nat) : Word := (look s.held a).getD (s.reg a)

/-- A field's value in use. -/
def State.used (s : State) (f : Fld) : Nat := fieldOf (s.useReg f.addr) f.lo f.w

/-- A single-bit field in use. -/
def State.usedB (s : State) (f : Fld) : Bool := s.used f == 1

/-- Bit `i` in use of a vector of words that begins at `f`. -/
def State.usedV (s : State) (f : Fld) (i : Nat) : Bool :=
  s.usedB { f with word := f.word + i / 16, lo := i % 16, w := 1 }

/-- Store a word and keep the old one in use. -/
def State.holdReg (s : State) (a : Nat) (w : Word) : State :=
  ({ s with held := put s.held a (some (s.useReg a)) }).setReg a w

/-- Bring into use what was written to the addresses that `p` names. -/
def State.release (s : State) (p : Nat → Bool) : State :=
  { s with held := s.held.filter (fun e => !p e.1) }

/-! ### Free values -/

/-- A number no earlier free value of this run was applied to. -/
def State.tick (s : State) : State := { s with free := s.free + 1 }

/-! ### Events and faults -/

/-- Bit `b` of a page's EVT sets (R460). -/
def State.evt (s : State) (f : Fld) : State := s.set f 1

/-- The condition of source `i` now (R303); a condition that holds is also an occurrence (R302). -/
def State.cond (s : State) (i : Nat) (b : Bool) : State :=
  if b then { s with condNow := s.condNow ||| (1#64 <<< i), occurred := s.occurred ||| (1#64 <<< i) }
  else { s with condNow := s.condNow &&& ~~~(1#64 <<< i) }

/-- An event source had an event (R302, R303). -/
def State.occur (s : State) (i : Nat) : State :=
  { s with occurred := s.occurred ||| (1#64 <<< i), evented := s.evented ||| (1#64 <<< i) }

/-- The condition of a source holds now. -/
def State.holds (s : State) (i : Nat) : Bool := s.condNow.getLsbD i

/-! ### Resets and the power gate (R66 to R72) -/

/-- What a reset leaves of the flash: the part's content; its RAM side is lost. (DESIGN CHOICE, log 105) -/
def Flash.kept (f : Flash) : Flash :=
  { (default : Flash) with slotA := f.slotA, slotB := f.slotB, anchSeq := f.anchSeq, anchB := f.anchB, anchA := f.anchA, anchC := f.anchC, anchAok := f.anchAok, anchBok := f.anchBok, erases := f.erases, ring := f.ring, moved := f.moved, wear := f.wear, retired := f.retired, head := f.head, next := f.next, tail := f.tail, erased := f.erased, newest := f.newest, newestOf := f.newestOf, tSets := f.tSets, xs := f.xs, ss := f.ss, ms := f.ms, monthLtc := f.monthLtc, sets := f.sets, scrubAt := f.scrubAt }

/-- A reset: every register but the always-on domain returns to its reset value; the vault and the flash stay (R66).
`causes` are the RSTCAUSE bits of the start to come; RETRYCNT counts since power-on. (DEDUCED, log 10) -/
def State.afterReset (s : State) (por : Bool) (causes : Nat) : State :=
  let p : Power := { (default : Power) with phase := .off, causes := if por then causes else s.pw.causes ||| causes, rstnLow := s.pw.rstnLow, thermHold := s.pw.thermHold, auxSupply := s.pw.auxSupply, vauxOk := s.pw.vauxOk }
  let r : State := { State.reset with pw := p, vault := s.vault, fl := s.fl.kept, free := s.free, pending := s.pending }
  if por then r
  else (((r.setReg SYS.RSTCAUSE.POR.addr (s.reg SYS.RSTCAUSE.POR.addr)).setReg SYS.SLEEPCAUSE.CAUSE.addr (s.reg SYS.SLEEPCAUSE.CAUSE.addr)).setReg
    SYS.WAKECFG.PINEN.addr (s.reg SYS.WAKECFG.PINEN.addr)).setReg SYS.RETRYCNT.addr (s.reg SYS.RETRYCNT.addr)

/-- The command in progress ends ACTIVE; the first cause stands. -/
def State.leave (s : State) (l : Leave) : State :=
  if s.pw.leave.isSome then s else { s with pw := { s.pw with leave := some l } }

/-- Leave ACTIVE: through a reset, or into SLEEP, where a wake present starts the device again at once (R66, R69, R71). -/
def State.left (s : State) (l : Leave) : State :=
  match l with
  | .reset c => s.afterReset false c
  | .sleep b =>
    let t := s.afterReset false 0
    if b = 0 then { t with pw := { t.pw with phase := .sleep } }
    else { t with pw := { t.pw with causes := t.pw.causes ||| b ||| 256, woken := true, wakeHeld := true } }

/-- What no command alters: the queue of commands, and what the factory wrote into the vault (R2, R154, R449). -/
def State.keep (s t : State) : State :=
  { t with pending := s.pending,
           vault := { t.vault with fac := s.vault.fac, custom := s.vault.custom, fnum := s.vault.fnum, dieRev := s.vault.dieRev, key := s.vault.key,
                                   pubkey := s.vault.pubkey, cert := s.vault.cert, certLen := s.vault.certLen } }

/-- The state after a command that took `s` to `t`: it stays in its power phase, or leaves ACTIVE where the command says
so. (DEDUCED, log 31) -/
def State.settle (s t : State) : State :=
  match t.pw.leave with
  | some l => s.keep (t.left l)
  | none => s.keep { t with pw := { t.pw with phase := s.pw.phase } }

/-- The parts of the state a command may change beside the register words, the fault conditions and the counter of free
values; `vault` is what the device itself writes there. -/
inductive Part where
  | held
  | staged
  | tm
  | cells
  | curr
  | cal
  | bal
  | xact
  | aux
  | imp
  | diag
  | safe
  | ban
  | col
  | link
  | gal
  | cfg
  | fl
  | tip
  | vault
deriving DecidableEq, Repr

/-- The state `t` that a command formed from `s`, taken in the parts `c` the command acts on; a command so gated changes
neither the power state nor the queue nor what the factory wrote into the vault. (DESIGN CHOICE, log 32) -/
def State.only (s t : State) (c : List Part) : State :=
  { regs := t.regs, condNow := t.condNow, occurred := t.occurred, evented := t.evented, free := t.free,
    pw := s.pw, pending := s.pending,
    held := if c.contains .held then t.held else s.held,
    staged := if c.contains .staged then t.staged else s.staged,
    tm := if c.contains .tm then t.tm else s.tm,
    cells := if c.contains .cells then t.cells else s.cells,
    curr := if c.contains .curr then t.curr else s.curr,
    cal := if c.contains .cal then t.cal else s.cal,
    bal := if c.contains .bal then t.bal else s.bal,
    xact := if c.contains .xact then t.xact else s.xact,
    aux := if c.contains .aux then t.aux else s.aux,
    imp := if c.contains .imp then t.imp else s.imp,
    diag := if c.contains .diag then t.diag else s.diag,
    safe := if c.contains .safe then t.safe else s.safe,
    ban := if c.contains .ban then t.ban else s.ban,
    col := if c.contains .col then t.col else s.col,
    link := if c.contains .link then t.link else s.link,
    gal := if c.contains .gal then t.gal else s.gal,
    cfg := if c.contains .cfg then t.cfg else s.cfg,
    fl := if c.contains .fl then t.fl else s.fl,
    tip := if c.contains .tip then t.tip else s.tip,
    vault := if c.contains .vault then (s.keep t).vault else s.vault }

/-- A command of a running device, which acts on the parts `c` and leaves ACTIVE never; a device that is not ACTIVE takes
nothing but the events of chapter 03. -/
def whenActive (c : List Part) (s : State) (k : State → State) : Host.Outcome State Fault Refusal :=
  if s.pw.phase = .active then .next (s.only (k s) c) else .next s

/-- A command of a running device that may act on everything, its power state included. -/
def whenActing (s : State) (k : State → State) : Host.Outcome State Fault Refusal :=
  if s.pw.phase = .active then .next (s.settle (k s)) else .next s

/-- The device runs or starts: its rails are up. -/
def State.powered (s : State) : Bool := match s.pw.phase with | .active => true | .starting _ => true | _ => false

/-- What acts on a device that runs or starts, and on no other. -/
def whenPowered (s : State) (k : State → State) : Host.Outcome State Fault Refusal :=
  if s.powered then .next (s.settle (k s)) else .next s

/-- What the banister's receivers and repeat logic take at instant `t` ns: they work from 0.15 ms after supplies are valid
until SLEEP (R283). -/
def whenReceiving (c : List Part) (t : Nat) (s : State) (k : State → State) : Host.Outcome State Fault Refusal :=
  if s.powered && (decide (s.pw.phase = .active) || decide (150000 ≤ t)) then .next (s.only (k s) c) else .next s

/-- Apply `k` where a condition of the step holds, else leave the state as it is. (DESIGN CHOICE, log 3) -/
def State.when (s : State) (b : Bool) (k : State → State) : State := if b then k s else s

/-! ### Numbers -/

/-- Low `n` bits of an integer as a natural number (two's complement). -/
def twos (n : Nat) (v : Int) : Nat := (v % (2 ^ n : Int)).toNat

/-- The signed value of `n` bits. -/
def signed (n : Nat) (v : Nat) : Int :=
  let u := v % 2 ^ n
  if u < 2 ^ (n - 1) then u else (u : Int) - 2 ^ n

/-- `v` limited to lo … hi. -/
def clampI (lo hi v : Int) : Int := if v < lo then lo else if hi < v then hi else v

/-- Store a signed value in a 16-bit word, saturating. -/
def State.setS (s : State) (f : Fld) (v : Int) : State :=
  s.set f (twos 16 (clampI (-32768) 32767 v))

/-- A 16-bit word as a signed value. -/
def State.sget (s : State) (f : Fld) : Int := signed 16 (s.get f)

/-- The nearest integer; which way an exact half goes is free (R90 says only "round"). (DESIGN CHOICE, log 12) -/
def roundRat (q : Rat) : Int :=
  let f := q.floor
  let d := q - (f : Rat)
  if d < 1 / 2 then f else if 1 / 2 < d then f + 1 else if Config.tieUp f then f + 1 else f

/-- The little-endian bytes of a number (R362, R365: least significant byte first). -/
def leBytes : Nat → Nat → List Byte
  | 0, _ => []
  | n + 1, v => BitVec.ofNat 8 v :: leBytes n (v / 256)

/-- The number little-endian bytes spell. -/
def leNat : List Byte → Nat
  | [] => 0
  | b :: l => b.toNat + 256 * leNat l

/-- The little-endian bytes of a signed value of `n` bytes. -/
def leInt (n : Nat) (v : Int) : List Byte := leBytes n (twos (8 * n) v)

/-- Replace `l` from index `i` on by the entries of `r`, as far as `l` reaches. -/
def patch (l : List Byte) (i : Nat) (r : List Byte) : List Byte :=
  (l.take i ++ r ++ l.drop (i + r.length)).take l.length

/-! ### CRC-32 (R257): IEEE 802.3, initial value and final inversion 0xFFFFFFFF -/

/-- One bit step of the reflected CRC-32 register. -/
def crcBit (c : BitVec 32) : BitVec 32 :=
  if c.getLsbD 0 then (c >>> 1) ^^^ 0xEDB88320#32 else c >>> 1

/-- One byte into the CRC-32 register. -/
def crcByte (c : BitVec 32) (b : Byte) : BitVec 32 :=
  let c := c ^^^ b.zeroExtend 32
  crcBit (crcBit (crcBit (crcBit (crcBit (crcBit (crcBit (crcBit c)))))))

/-- The CRC-32 of a list of bytes. -/
def crc32 (l : List Byte) : BitVec 32 := l.foldl crcByte 0xFFFFFFFF#32 ^^^ 0xFFFFFFFF#32

/-- The bytes of words, each low byte first. -/
def wordBytes (l : List Word) : List Byte := l.flatMap (fun w => leBytes 2 w.toNat)

end Sys2Proof.Machine
end

