-- ==== Sys2Proof/Machine/Frames.lean ====
section
/-! DEFINITION. Frames.lean: the bytes of tread marks and slots, their CRCs (R319, R323, R324), the command and the
broadcast block that a slot carries (R117, R351). -/
namespace Sys2Proof.Machine

/-- The receiver of a port has framing (R326). -/
def State.framed (s : State) (p : Port) : Bool := !(match p with | .up => s.link.up.lost | .dn => s.link.dn.lost)

/-! ### Marks (R319) -/

/-- One bit of a byte, most significant first, into the CRC-16 register of polynomial 0x1021. -/
def crc16Bit (c : BitVec 16) (b : Bool) : BitVec 16 := if c.msb != b then (c <<< 1) ^^^ 0x1021#16 else c <<< 1

/-- The CRC-16 of R319: initial value 0xFFFF, no reflection, no final inversion. -/
def crc16 (l : List Byte) : BitVec 16 :=
  l.foldl (fun c b => (List.range 8).foldl (fun c i => crc16Bit c (b.getMsbD i)) c) 0xFFFF#16

/-- D0 to D13 of a tread mark. -/
def markBytes (m : Mark) : List Byte :=
  leBytes 4 m.stn.toNat ++
  leBytes 1 (m.origin.toNat + 4 * m.ring.toNat + 8 * m.bank.toNat + 16 * m.rate.toNat) ++ [m.hops, m.rcd] ++
  leBytes 1 (m.rtgt.toNat + 4 * m.tbank.toNat) ++ leBytes 4 m.acc.toNat ++ leBytes 1 (m.reye.toNat + 64 * m.reyeValid.toNat) ++ [0]

/-- The CRC a mark must carry. -/
def markCrc (m : Mark) : Word := crc16 (markBytes m)

/-! ### Slots (R323 to R325) -/

/-- Bytes 1 to 139 of a slot. -/
def slotBytes (x : Slot) : List Byte :=
  leBytes 1 (x.type.toNat + 16 * x.ver.toNat) ++ leBytes 2 (x.src.toNat + 16384 * x.srcKind.toNat) ++
  leBytes 2 (x.slot % 2048 + 2048 * x.rate.toNat + 8192 * x.bank.toNat + 16384 * x.dir.toNat) ++ [x.hop] ++
  leBytes 1 (x.queue.toNat + 64 * x.first.toNat + 128 * x.last.toNat) ++ leBytes 2 x.qseq.toNat ++ [x.len, x.stnl] ++
  (x.payload ++ List.replicate 128 0).take 128

/-- The CRC a slot must carry. -/
def slotCrc (x : Slot) : BitVec 32 := crc32 (slotBytes x)

/-- The slot with its CRC. -/
def slotSeal (x : Slot) : Slot := { x with crc := slotCrc x }

/-- The CRC-32 of the difference of two byte strings of one length, with initial value 0 and no inversion (R325). -/
def crcDiff (a b : List Byte) : BitVec 32 := (List.zipWith (· ^^^ ·) a b).foldl crcByte 0

/-- TYPE and LEN are not reserved: a slot of a reserved TYPE or LEN is no command and no block (R323). -/
def slotUsable (x : Slot) : Bool := !x.idle && decide (x.type.toNat ≤ 2) && decide (x.len.toNat ≤ 128)

/-- A command slot (R345). -/
def slotCommand (x : Slot) : Bool := slotUsable x && decide (x.type = 2) && decide (x.slot < 64)

/-- A command slot leaves with HOP one lower modulo 256 and its CRC changed by the CRC of the difference, right or wrong
as it came (R325, R346); every other slot leaves unchanged. -/
def forwarded (x : Slot) : Slot :=
  if slotCommand x then
    let y := { x with hop := x.hop - 1 }
    { y with crc := x.crc ^^^ crcDiff (slotBytes x) (slotBytes y) }
  else x

/-- Slots in a frame at a rate (R318); none for the reserved code. -/
def slotCount (rate : Nat) : Nat := ([2048, 1024, 512] : List Nat).getD rate 0

/-! ### Payloads -/

/-- The number in `k` payload bytes from byte `i` on. -/
def slotNum (x : Slot) (i k : Nat) : Nat := leNat ((x.payload.drop i).take k)

/-- The opcode in the payload of a slot (R351). -/
def slotOp (x : Slot) : Nat := (x.payload.getD 0 0#8).toNat

/-- The broadcast block in a slot's payload (R117). -/
def blockOf (x : Slot) : BlockRx :=
  let v := fun (i : Nat) => (List.range 16).map (fun k => signed 24 (slotNum x (i + 3 * k) 3))
  { stn := BitVec.ofNat 32 (slotNum x 0 4), srcId := BitVec.ofNat 16 (slotNum x 4 2), fineCfg := BitVec.ofNat 8 (slotNum x 6 1),
    stat := BitVec.ofNat 8 (slotNum x 7 1), fsx := BitVec.ofNat 32 (slotNum x 8 4), n := slotNum x 12 1,
    rshA := BitVec.ofNat 32 (slotNum x 20 4), rshB := BitVec.ofNat 32 (slotNum x 24 4), invA := BitVec.ofNat 16 (slotNum x 28 2),
    invB := BitVec.ofNat 16 (slotNum x 30 2), fa := v 32, fb := v 80 }

end Sys2Proof.Machine

namespace Sys2Proof

/-- The CRC received with a slot is right. -/
def Slot.crcOk (x : Slot) : Bool := x.crc == Machine.slotCrc x

/-! The fields of a command (R323, R351). -/

/-- The slot's number. -/
def Cmd.slot (c : Cmd) : Nat := c.raw.slot
/-- HOP as received. -/
def Cmd.hop (c : Cmd) : Byte := c.raw.hop
/-- VER of the slot. -/
def Cmd.ver (c : Cmd) : BitVec 4 := c.raw.ver
/-- The slot's CRC is right. -/
def Cmd.crcOk (c : Cmd) : Bool := c.raw.crcOk
/-- FLAGS. -/
def Cmd.flags (c : Cmd) : Byte := BitVec.ofNat 8 (Machine.slotNum c.raw 1 1)
/-- TID. -/
def Cmd.tid (c : Cmd) : Word := BitVec.ofNat 16 (Machine.slotNum c.raw 2 2)
/-- SID. -/
def Cmd.sid (c : Cmd) : Byte := BitVec.ofNat 8 (Machine.slotNum c.raw 4 1)
/-- COUNT. -/
def Cmd.count (c : Cmd) : Byte := BitVec.ofNat 8 (Machine.slotNum c.raw 5 1)
/-- ADDR. -/
def Cmd.addr (c : Cmd) : Word := BitVec.ofNat 16 (Machine.slotNum c.raw 6 2)

end Sys2Proof
end

