-- ==== Sys2Proof/Machine/Filter.lean ====
section
/-! DEFINITION. Filter.lean: the real functions the rules name, as fixed-point sums of their series, complex numbers,
second-order sections and the step response of the sense network (R82, R84, R86, R87, R185, R188, R201, R230). The
device's own word lengths are not given (log 13, 15). -/
namespace Sys2Proof.Machine

/-! ### Cosine, exponential, arc tangent -/

/-- 2^96: one in the fixed-point numbers of this file. -/
def fixOne : Int := 79228162514264337593543950336

/-- π in 2^-96. -/
def fixPi : Int := 248902613312231085230521944622

/-- √2 (R86: Butterworth), to 2^-96. -/
def root2 : Rat := 112045541949572279837463876454 / 79228162514264337593543950336

/-- `n` more terms of an alternating power series: `t` is the last term, of power `k`, `q` the squared argument. -/
def alternating : Nat → Int → Int → Nat → Int
  | 0, _, _, _ => 0
  | n + 1, q, t, k =>
    let t := -(t * q / fixOne) / ((k + 1) * (k + 2) : Nat)
    t + alternating n q t (k + 2)

/-- cos 2πx, x in turns (R185). (DEDUCED, log 15) -/
def cosTurn (x : Rat) : Rat :=
  if (4 * x).den = 1 then ([1, 0, -1, 0] : List Rat).getD ((4 * x).floor % 4).toNat 0
  else
    let a := (2 * (fixPi : Rat) * (x - (x + 1 / 2).floor)).floor
    ((fixOne + alternating 26 (a * a / fixOne) fixOne 0 : Int) : Rat) / (fixOne : Rat)

/-- sin 2πx, x in turns (R185). -/
def sinTurn (x : Rat) : Rat := cosTurn (x - 1 / 4)

/-- tan 2πx, x in turns (R86). -/
def tanTurn (x : Rat) : Rat := sinTurn x / cosTurn x

/-- The greatest `n` up to `m` whose `p (n − 1)` holds, for a `p` that holds up to some number: `k` bits, from `a` on. -/
def reach (p : Nat → Bool) (m : Nat) : Nat → Nat → Nat
  | 0, a => a
  | k + 1, a => reach p m k (if a + 2 ^ k ≤ m && p (a + 2 ^ k - 1) then a + 2 ^ k else a)

/-- The angle of (x, y), y not negative, to the nearest 0.01°: as many half-unit steps lie at or below it. -/
def upperAngle (y x : Int) : Nat :=
  reach (fun j => let t : Rat := ((2 * j + 1 : Nat) : Rat) / 72000; decide (0 ≤ cosTurn t * y - sinTurn t * x)) 18000 15 0

/-- atan2(y, x) in units of 0.01°, rounded; R201 gives no angle of (0, 0). (DEDUCED, log 15) -/
def atan2c (y x : Int) : Int :=
  if y = 0 ∧ x = 0 then Config.atanOrigin
  else if y < 0 then -(upperAngle (-y) x : Int) else upperAngle y x

/-! ### Complex numbers -/

/-- A complex number with rational parts. -/
structure Cx where
  re : Rat
  im : Rat
deriving DecidableEq, Repr, Inhabited

def Cx.add (a b : Cx) : Cx := ⟨a.re + b.re, a.im + b.im⟩
def Cx.sub (a b : Cx) : Cx := ⟨a.re - b.re, a.im - b.im⟩
def Cx.mul (a b : Cx) : Cx := ⟨a.re * b.re - a.im * b.im, a.re * b.im + a.im * b.re⟩
def Cx.scale (k : Rat) (a : Cx) : Cx := ⟨k * a.re, k * a.im⟩
def Cx.conj (a : Cx) : Cx := ⟨a.re, -a.im⟩
def Cx.abs2 (a : Cx) : Rat := a.re * a.re + a.im * a.im
def Cx.div (a b : Cx) : Cx := Cx.scale (1 / b.abs2) (a.mul b.conj)

/-- exp(−i 2πx), x in turns (R185). -/
def Cx.turn (x : Rat) : Cx := ⟨cosTurn x, -(sinTurn x)⟩

/-! ### Second-order sections (R86, R87) -/

/-- A second-order section: numerator b0 + b1 z⁻¹ + b2 z⁻², feedback 1 + a1 z⁻¹ + a2 z⁻². -/
structure Biquad where
  b0 : Rat
  b1 : Rat
  b2 : Rat
  a1 : Rat
  a2 : Rat
deriving DecidableEq, Repr, Inhabited

/-- The Butterworth low-pass of corner `fc` by the bilinear transform at `fs`, prewarped (R86). -/
def cornerQ (fs fc : Nat) : Biquad :=
  let k := tanTurn ((fc : Rat) / (2 * fs))
  let n := 1 + root2 * k + k * k
  { b0 := k * k / n, b1 := 2 * k * k / n, b2 := k * k / n, a1 := 2 * (k * k - 1) / n, a2 := (1 - root2 * k + k * k) / n }

/-- A notch with unity gain at DC: centre x and −3 dB width y in 1/16 Hz; its zeros lie on the unit circle and its gain at
f_s/2 is 1 (R87). (DESIGN CHOICE, log 13) At x = 0, and at a width of f_s/2 or more, no such section exists; the formulas are taken as
they stand, 1/0 being 0. (DESIGN CHOICE, log 156) -/
def notchQ (fs x y : Nat) : Biquad :=
  let c := cosTurn ((x : Rat) / (16 * fs))
  let g := 1 / (1 + tanTurn ((y : Rat) / (32 * fs)))
  { b0 := g, b1 := -2 * g * c, b2 := g, a1 := -2 * g * c, a2 := 2 * g - 1 }

/-- The group delay at DC in samples, for a section of unity gain there (R88). -/
def Biquad.delay (q : Biquad) : Rat := ((q.b1 + 2 * q.b2) - (q.a1 + 2 * q.a2)) / (1 + q.a1 + q.a2)

/-- The response at `x` turns per sample (R188). -/
def Biquad.resp (q : Biquad) (x : Rat) : Cx :=
  let e := Cx.turn x
  let f := Cx.turn (2 * x)
  ((Cx.mk q.b0 0).add ((e.scale q.b1).add (f.scale q.b2))).div ((Cx.mk 1 0).add ((e.scale q.a1).add (f.scale q.a2)))

/-- A number on a grid of 1/256 LSB: one of the two neighbours, itself where it lies on the grid. -/
def onGrid (q : Rat) : Rat :=
  if (256 * q).den = 1 then q else (((256 * q).floor : Rat) + (if Config.quantUp q then 1 else 0)) / 256

/-- One sample through a section; the state holds x1, x2, y1, y2. The word length of the state is free within 1/256 LSB,
and a settled section stays settled. (DESIGN CHOICE, log 13) -/
def Biquad.step (q : Biquad) (st : List Rat) (x : Rat) : Rat × List Rat :=
  let y := q.b0 * x + q.b1 * st.getD 0 0 + q.b2 * st.getD 1 0 - q.a1 * st.getD 2 0 - q.a2 * st.getD 3 0
  let y := x + onGrid (y - x)
  (y, [x, st.getD 0 0, y, st.getD 2 0])

/-! ### The linear-phase stages (R82, R84) -/

/-- Tap `k` of a linear-phase FIR of 24 taps with DC gain 1, in 2^-24, from its taps 0 to 10. -/
def firOf (free : Nat → Int) (k : Nat) : Int :=
  let j := if k < 12 then k else 23 - k
  if j < 11 then free j else 8388608 - ((List.range 11).map free).sum

/-- Amplitude of stages 1 and 2 at `x` turns per modulator clock: the sinc3 of R84 and the FIR. -/
def stageAmp (free : Nat → Int) (osr : Nat) (x : Rat) : Rat :=
  let r := osr / 2
  let s : Rat := sinTurn (r * x / 2) / (r * sinTurn (x / 2))
  s * s * s * (((List.range 24).map (fun k => (firOf free k : Rat) * cosTurn (r * x * ((k : Rat) - 23 / 2)))).sum / 16777216)

/-- The amplitude lies between two bounds, in 10^-6. -/
def ampIn (a : Rat) (lo hi : Int) : Bool := decide ((lo : Rat) ≤ 1000000 * a) && decide (1000000 * a ≤ (hi : Rat))

/-- The limits of R84, at steps of f_s/256: 0.005 dB to 0.25 f_s, -0.1 dB at 0.33 f_s, -3 dB at 0.40 f_s, and 80 dB in the bands about
the odd multiples of f_s; about the even ones the sinc3 that R84 gives does not reach 80 dB. (DESIGN CHOICE, log 13) -/
def firMeets (free : Nat → Int) : Bool :=
  (List.range 7).all (fun e =>
    let osr := 256 * 2 ^ e
    let amp := fun (y : Rat) => stageAmp free osr (y / (osr : Rat))
    (List.range 64).all (fun i => ampIn (amp (((i : Rat) + 1) / 256)) 999425 1000575) &&
      ampIn (amp (33 / 100)) 982879 994260 && ampIn (amp (2 / 5)) 691831 724435 &&
      (List.range (osr / 4)).all (fun m => (List.range 129).all (fun i => ampIn (amp (2 * (m : Rat) + 3 / 4 + (i : Rat) / 256)) (-100) 100)))

/-- Taps 0 to 10 of one FIR that keeps the limits of R84, for a free choice that does not. -/
def firSample : List Int :=
  [-43773, 12726, 236051, -50265, -693015, 111488, 1460693, -82265, -2504361, -572895, 4024117]

/-- The eleven free taps. -/
def firFreeTap (j : Nat) : Int := if firMeets Config.firFree then Config.firFree j else firSample.getD j 0

/-- Tap `k` of the compensating FIR in 2^-24: 24 taps, linear phase, DC gain 1; eleven are free within the limits of R84.
(DESIGN CHOICE, log 13) -/
def firTap (k : Nat) : Int := firOf firFreeTap k

/-- Amplitude and delay of stages 1 and 2 at `x` turns per modulator clock, with the group delay of exactly 6.5 × OSR modulator
clocks (R84). -/
def linearResp (osr : Nat) (x : Rat) : Cx :=
  Cx.scale (stageAmp firFreeTap osr x) (Cx.turn (x * 13 * osr / 2))

/-- A(f) of R188, the response of the sample-period mean, at y = f × T_s. -/
def meanResp (y : Rat) : Cx := Cx.scale (sinTurn (y / 2) * (fixOne : Rat) / ((fixPi : Rat) * y)) (Cx.turn (y / 2))

/-! ### The replica of R230 -/

/-- exp(−T/τ) in 2^-96, for a modulator clock T of 1/4.096 MHz and τ = 4.7 µs (R75). -/
def netD : Int := 75217732605769266869777771414

/-- `netD` to the power `n`, in 2^-96. -/
def netPow : Nat → Nat → Int
  | 0, _ => fixOne
  | k + 1, n =>
    if n = 0 then fixOne
    else
      let h := netPow k (n / 2)
      let h := h * h / fixOne
      if n % 2 = 1 then h * netD / fixOne else h

/-- The network's response to a unit step, 1 − exp(−kT/τ), summed three times over clocks 0 to `m`, in 2^-96. -/
def netSum (m : Int) : Int :=
  if m < 0 then 0
  else
    let n := m + 1
    let u := fixOne - netD
    let a1 := (fixOne - netPow 40 n.toNat) * fixOne / u
    let a2 := (n * fixOne - netD * a1 / fixOne) * fixOne / u
    let a3 := (n * (n + 1) / 2 * fixOne - netD * a2 / fixOne) * fixOne / u
    n * (n + 1) * (n + 2) / 6 * fixOne - a3

/-- The sinc3 output, `t` clocks after the step (R82); its newest sample is one clock old (log 154). -/
def sincStep (r : Nat) (t : Int) : Rat :=
  ((netSum (t - 2) - 3 * netSum (t - 2 - r) + 3 * netSum (t - 2 - 2 * r) - netSum (t - 2 - 3 * r) : Int) : Rat) / ((r ^ 3 : Nat) * fixOne : Int)

/-- The step response of the input network and stages 1 and 2 of R82, `tau` modulator clocks after the step (R230); its
support ends after 14 output periods (R97). (DEDUCED, log 16) -/
def stepResp (osr : Nat) (tau : Int) : Rat :=
  if tau ≤ 0 then 0 else if 14 * (osr : Int) ≤ tau then 1
  else ((List.range 24).map (fun k => (firTap k : Rat) * sincStep (osr / 2) (tau - (k * (osr / 2) : Nat)))).sum / 16777216

end Sys2Proof.Machine
end

