-- ==== Sys2Proof/Machine/Queue.lean ====
section
/-! DEFINITION. Queue.lean: posting to the 64 hardware queues (R360 to R363): room, drops, block numbers. -/
namespace Sys2Proof.Machine

/-- Queue `q` is enabled (R361): Q0, Q2 and Q3 always. -/
def State.qEnabled (s : State) (q : Nat) : Bool :=
  q = 0 || q = 2 || q = 3 || s.vbit QUEUE.QEN0 q

/-- The depth at reset in units of 256 bytes (R360). -/
def resetDepth (q : Nat) : Nat := if q = 2 then 1 else 4

/-- The written depth of a queue (R361). -/
def State.qDepth (s : State) (q : Nat) : Nat := (look s.xact.depth q).getD (resetDepth q)

/-- The depth in use: the old one until a write takes effect at master clock 0 (R361). -/
def State.qDepthUsed (s : State) (q : Nat) : Nat := (look s.xact.depthUse q).getD (s.qDepth q)

/-- QUEUE.DEPTHSUM: the sum of all depths (R379). -/
def State.depthSum (s : State) : Nat := ((List.range 64).map s.qDepth).sum

/-- The largest block of a queue in bytes (R360). -/
def qLargest (q : Nat) : Nat :=
  if q = 0 then 40 else if q = 1 then 176 else if q = 2 then 128
  else if q = 42 ∨ q = 43 then 120 else if 44 ≤ q ∧ q ≤ 51 then 520
  else if q = 52 then 448 else if q = 54 then 64 else if q = 63 then 528 else 128

/-- The smallest permitted depth (R361, QUEUE.QINFO). -/
def qMinDepth (q : Nat) : Nat := (qLargest q + 255) / 256

/-- Bytes waiting (QUEUE.QFILL). A started block occupies its place until it has been sent. -/
def State.qFill (s : State) (q : Nat) : Nat :=
  ((look s.xact.queues q).blocks.map (fun b => b.bytes.length)).sum

/-- The bytes of depth in use. -/
def State.qCap (s : State) (q : Nat) : Nat := s.qDepthUsed q * 256

/-- `n` more bytes fit. -/
def State.qRoom (s : State) (q n : Nat) : Bool := decide (s.qFill q + n ≤ s.qCap q)

/-- A block of which a slot has gone out; it is never dropped or discarded (R361, R362). -/
def Block.started (b : Block) : Bool := b.sent ≠ 0

/-- Take the oldest block that has not been started out of a list. -/
def dropOldest : List Block → List Block
  | [] => []
  | b :: l => if b.started then b :: dropOldest l else l

/-- A block was dropped: QDROP, DROPMAP, EVT.DROP and fault 40 (R361). -/
def State.noteDrop (s : State) (q : Nat) : State :=
  (({ s with xact := { s.xact with drops := put s.xact.drops q (min (look s.xact.drops q + 1) 65535) } }).setV
    QUEUE.DROPMAP0 q true).evt QUEUE.EVT.DROP |>.occur 40

/-- Store a queue's contents. -/
def State.setQueue (s : State) (q : Nat) (x : Queue) : State :=
  { s with xact := { s.xact with queues := put s.xact.queues q x } }

/-- Drop the oldest block that may be dropped, and count it. -/
def State.dropOne (s : State) (q : Nat) : State :=
  let x := look s.xact.queues q
  if x.blocks.all Block.started then s
  else (s.setQueue q { x with blocks := dropOldest x.blocks }).noteDrop q

/-- Drop oldest blocks until `n` more bytes fit, at most `fuel` of them. -/
def State.makeRoom : Nat → State → Nat → Nat → State
  | 0, s, _, _ => s
  | fuel + 1, s, q, n => if s.qRoom q n then s else State.makeRoom fuel (s.dropOne q) q n

/-- A block that finds no room, because only blocks already started wait, is the oldest that may be dropped: its number is spent and
the drop counts (R360 to R362). (DEDUCED, log 169) -/
def State.dropNew (s : State) (q : Nat) : State :=
  let x := look s.xact.queues q
  (s.setQueue q { x with next := (x.next + 1) % 65536 }).noteDrop q

/-- Append a block with the queue's next number (R362). -/
def State.append (s : State) (q : Nat) (bytes : List Byte) (up dn fixed : Bool) : State :=
  let x := look s.xact.queues q
  s.setQueue q { blocks := x.blocks ++ [{ seq := x.next, bytes := bytes, sent := 0, lane := none, lean := false, up := up, dn := dn, fixed := fixed, gone := false }], next := (x.next + 1) % 65536 }

/-- Keep only blocks already started (QEN = 0, FLUSH, Q1 in lean operation): not a drop (R361). -/
def State.discardWaiting (s : State) (q : Nat) : State :=
  let x := look s.xact.queues q
  s.setQueue q { x with blocks := x.blocks.filter Block.started }

/-- A queue whose depth in use was reduced drops its oldest blocks to fit (R361). -/
def State.qFit (s : State) (q : Nat) : State := State.makeRoom (look s.xact.queues q).blocks.length s q 0

/-- Lean operation: QUEUE.STATUS.LEAN (R372). -/
def State.leanOp (s : State) : Bool := s.bit QUEUE.STATUS.LEAN

/-- Post a block to a queue that drops its oldest when full (R360, R361). In tread 0 nothing is posted
(R60). In lean operation Q1 keeps only its newest block (R375). Q2 holds at most two blocks (R118). -/
def State.post (s : State) (q : Nat) (bytes : List Byte) : State :=
  if s.tm.tread = 0 ∨ s.qEnabled q = false then s
  else
    let s := if q = 1 ∧ s.leanOp = true then
        (if ((look s.xact.queues 1).blocks.all Block.started) then s else State.dropOne s 1) else s
    let s := if q = 2 then s.setQueue 2 { look s.xact.queues 2 with blocks := (look s.xact.queues 2).blocks.filter (fun b => b.up || b.dn) } else s
    let s := if q = 2 then (if 2 ≤ (look s.xact.queues 2).blocks.length then s.dropOne 2 else s)
      else State.makeRoom (look s.xact.queues q).blocks.length s q bytes.length
    if q ≠ 2 ∧ s.qRoom q bytes.length = false then s.dropNew q else s.append q bytes true true true

end Sys2Proof.Machine
end

