-- ==== Sys2Proof/Machine/Cells.lean ====
section
/-! DEFINITION. Cells.lean: correction of results, uncertainty classes, the snapshot decimator, the fine
chains, overloads and their rows (04, R105 to R113, R154, R163). -/
namespace Sys2Proof.Machine

/-! ### Settings in use -/

/-- `CELLCFG.COUNT` in use (R80, R102). -/
def State.count (s : State) : Nat := s.used CELLCFG.COUNT.COUNT

/-- The oversampling ratio of an OSR field (R83). -/
def osrOf (field : Nat) : Nat := 256 * 2 ^ field

/-- The oversampling ratio in use. -/
def State.osr (s : State) : Nat := osrOf (s.used CELLCFG.FINE.OSR)

/-- Channel `ch` (0–35 cells, 36 CSA, 37 CSB) is powered (R80, R113). -/
def State.chanOn (s : State) (ch : Nat) : Bool :=
  if ch < 36 then decide (ch < s.count)
  else if ch = 36 then s.usedB CURR.CTRL.CSAEN else s.usedB CURR.CTRL.CSBEN

/-- The modulator clock since tread 0 of clock `c` of the present tread (R25). -/
def State.absClk (s : State) (c : Nat) : Nat := s.tm.tread * 4096 + c

/-- LTC[3:0], the tag of the present tread (R42). -/
def State.tagNow (s : State) : Nat := s.tm.ltc % 16

/-- Some chain neighbour relation of R94: the cells beside cell index `c` that lie in 1 to COUNT. -/
def State.beside (s : State) (c : Nat) : List Nat :=
  (if 0 < c ∧ c < 36 then [c - 1] else []) ++ (if c < 35 ∧ c + 1 < s.count then [c + 1] else [])

/-! ### Coefficients (R90, R154, R163) -/

/-- The set temperatures T_0 to T_4, LSB 0.0625 °C (R154). -/
def setTemp (i : Nat) : Int := ([-640, 0, 400, 960, 1680] : List Int).getD i 0

/-- Index of the lower of the two set temperatures around `t`. -/
def setBelow (t : Int) : Nat := if t < 0 then 0 else if t < 400 then 1 else if t < 960 then 2 else 3

/-- A ramp's value in use: offset and gain (R163). -/
def Ramp.now (r : Ramp) : Int × Int :=
  if r.n ≤ r.j then (r.o1, r.g1)
  else (roundRat ((r.o0 : Rat) + ((r.o1 - r.o0 : Int) : Rat) * r.j / r.n),
        roundRat ((r.g0 : Rat) + ((r.g1 - r.g0 : Int) : Rat) * r.j / r.n))

/-- A new ramp from the value in use to a target over `n` treads; its first step comes at the next
master clock 0 (R163). CAL.RAMP written later does not change it (DEDUCED, log 178). -/
def Ramp.to (r : Ramp) (o g : Int) (n : Nat) : Ramp :=
  { o0 := r.now.1, g0 := r.now.2, o1 := o, g1 := g, j := 0, n := if n = 0 then 1 else n }

/-- A value in use at once, without a ramp. -/
def Ramp.at (o g : Int) : Ramp := { o0 := o, g0 := g, o1 := o, g1 := g, j := 0, n := 0 }

/-- One step at master clock 0 (R163). -/
def Ramp.step (r : Ramp) : Ramp := if r.j < r.n then { r with j := r.j + 1 } else r

/-- The factory offset (1/256 LSB) and gain (1/256 of 0.01 ppm) of a channel at die temperature `t`,
interpolated and clamped (R154). -/
def State.factory (s : State) (ch : Nat) (t : Int) : Int × Int :=
  let t := clampI (-640) 1680 t
  let i := setBelow t
  let a := look s.vault.fac (ch * 5 + i)
  let b := look s.vault.fac (ch * 5 + i + 1)
  let w : Rat := ((t - setTemp i : Int) : Rat) / ((setTemp (i + 1) - setTemp i : Int) : Rat)
  (roundRat (256 * ((a.1 : Rat) + ((b.1 - a.1 : Int) : Rat) * w)),
   roundRat (256 * ((a.2 : Rat) + ((b.2 - a.2 : Int) : Rat) * w)))

/-- O in the channel's LSB and G as a fraction, at die temperature `t` (R90); `user` says whether the user
term counts (SYSZERO takes x with O_u = 0, R166). (DESIGN CHOICE, log 65) -/
def State.coeffs (s : State) (ch : Nat) (t : Int) (user : Bool) : Rat × Rat :=
  let f := s.factory ch t
  let d := (look s.cal.chans ch).delta.now
  let u := if user then (look s.cal.trims ch).now else (0, (look s.cal.trims ch).now.2)
  (((f.1 + d.1 + u.1 : Int) : Rat) / 256, ((f.2 + d.2 + u.2 : Int) : Rat) / 25600000000)

/-- V = (D − O) × (1 + G) before rounding (R90). -/
def State.corrected (s : State) (ch : Nat) (t : Int) (d : Rat) : Rat :=
  let c := s.coeffs ch t true
  (d - c.1) * (1 + c.2)

/-! ### Ranges and classes -/

/-- The range of a channel's corrected result: R92 for cells, the gain's input range for currents (R107,
R110). -/
def State.rangeOf (s : State) (ch : Nat) : Int × Int :=
  if ch < 36 then (-300000, 5300000)
  else
    let g := if ch = 36 then s.used CURR.CSCFG.GAINA else s.used CURR.CSCFG.GAINB
    (-(5000000 / 2 ^ g), 5000000 / 2 ^ g)

/-- The clamp code of a direction (R92). -/
def clampCode (high : Bool) : Int := if high then 8388607 else -8388608

/-- W_ref by trio spread (R174). -/
def wRefOf (spread : Nat) : Nat := if spread ≤ 150 then 0 else if spread ≤ 300 then 1 else if spread ≤ 600 then 2 else 3

/-- A die temperature within 15 °C to 35 °C and ±4 °C of a calibration temperature (R98, R112). -/
def nearCal (t : Int) (tc : Option Int) : Bool :=
  decide (240 ≤ t ∧ t ≤ 560) && (match tc with | some c => decide (-64 ≤ t - c ∧ t - c ≤ 64) | none => false)

/-- The uncertainty class of a cell result (R98); `bal` is the BAL widening of R231. -/
def State.cellClass (s : State) (ch : Nat) (v : Int) (bad : Bool) (bal : Nat) : Nat :=
  if bad || s.cal.suspect then 15
  else
    let c := look s.cal.chans ch
    let base := if c.acc && nearCal s.cells.dieTemp c.temp then 0 else 2
    min 14 (base + (if v < 1500000 ∨ 4500000 < v then 1 else 0) + (if s.holds 27 then 1 else 0) +
      wRefOf (s.get CAL.SPREAD) + c.wch + bal)

/-- The uncertainty class of a current result (R112). -/
def State.currClass (s : State) (ch : Nat) (bad : Bool) : Nat :=
  if bad || s.cal.suspect || !s.chanOn ch then 15
  else
    let c := look s.cal.chans ch
    let sz := if ch = 36 then s.cal.szAccA else s.cal.szAccB
    let base := if !sz then 4 else if !c.acc then 2 else if nearCal s.cells.dieTemp c.temp then 0 else 1
    min 14 (base + (if s.holds 27 then 1 else 0) + wRefOf (s.get CAL.SPREAD) + c.wch)

/-! ### Decimators -/

/-- Sums of `n` consecutive entries: one rectangular window (R81, R82). -/
def movSum (n : Nat) : List Int → List Int
  | [] => []
  | x :: l => if (x :: l).length < n then [] else ((x :: l).take n).sum :: movSum n l

/-- The snapshot decimator: windows of 251, 128 and 16 clocks over the 393 samples of the aperture,
DC gain 1 (R26, R81). -/
def snapD (samples : List Int) : Rat :=
  ((movSum 251 (movSum 128 (movSum 16 samples))).headD 0 : Rat) / (251 * 128 * 16)

/-- R³ times the sinc3 output after the last of `l`, whose newest sample it does not take yet: the delay of the chain is then
exactly 13 R clocks (R82, R84). (DEDUCED, log 154) -/
def sinc3 (r : Nat) (l : List Int) : Int :=
  (movSum r (movSum r (movSum r ((l.drop (l.length - (3 * r - 1))).take (3 * r - 2))))).headD 0

/-- The FIR's output from its 24 newest inputs, newest first (R82, R84). -/
def firD (r : Nat) (hist : List Int) : Rat :=
  (((List.range 24).map (fun k => firTap k * hist.getD k 0)).sum : Rat) / ((r ^ 3 * 16777216 : Nat) : Rat)

/-- Feed `l` samples of one sub-block to a chain and, at its end, run the sinc3 output. `settle` is what the
later stages load when the chain is primed (R89). -/
def Chain.feed (c : Chain) (r : Nat) (l : List Int) (settle : Rat → Rat) : Chain :=
  let n := c.n + l.length
  let buf := c.buf ++ l
  let c := { c with n := n, buf := buf }
  let c := if c.primed = false ∧ 3 * r ≤ n then
      let x := sinc3 r ((buf.drop (buf.length - n)).take (3 * r))
      let v := settle ((x : Rat) / ((r ^ 3 : Nat) : Rat))
      { c with primed := true, hist := List.replicate 24 x, corner := [v, v, v, v], notch := List.replicate 4 [v, v, v, v] }
    else c
  let c := if c.primed then { c with hist := (sinc3 r c.buf :: c.hist).take 24 } else c
  if c.primed then { c with buf := c.buf.drop (c.buf.length - (3 * r)) } else c

/-- f_s in S/s at an OSR field (R83). -/
def fsOf (osrF : Nat) : Nat := 16000 / 2 ^ osrF

/-- Corner frequencies in Hz (R86). -/
def cornerHz (c : Nat) : Nat := ([5000, 2000, 800, 320, 125, 50, 20, 8] : List Nat).getD c 0

/-- The corner filter is bypassed: f_c is f_s/3 or higher (R86). The table's column "Usable at OSR" leaves out two pairs
that this test does not bypass. (DEDUCED, log 136) -/
def cornerBypassed (osrF c : Nat) : Bool := decide (fsOf osrF ≤ 3 * cornerHz c)

/-- A notch of table 0x07 is applied: centre below 0.45 f_s and width not 0, LSB 1/16 Hz (R87). -/
def notchApplied (osrF x y : Nat) : Bool := decide (x * 100 < 45 * 16 * fsOf osrF) && decide (y ≠ 0)

/-- The points of a table in use: x and y as stored, in order; none while absent or invalid (R445). -/
def State.points (s : State) (t : Nat) : List (Nat × Nat) :=
  if look s.cfg.tblState t = .valid then look s.cfg.tblPts t else []

/-- The first four points of table 0x07 as notches (R87). -/
def State.notches (s : State) : List (Nat × Nat) :=
  if s.used CELLCFG.FINE.NOTCHEN = 1 then (s.points 7).take 4 else []

/-- The corner filter in use, where it is enabled and not bypassed (R86). -/
def State.cornerUse (s : State) : Option Biquad :=
  let f := s.used CELLCFG.FINE.OSR
  let k := s.used CELLCFG.FINE.CORNER
  if s.used CELLCFG.FINE.CORNEN = 1 ∧ cornerBypassed f k = false then some (cornerQ (fsOf f) (cornerHz k)) else none

/-- The notches in use, with their places among the first four points (R87). -/
def State.notchUse (s : State) : List (Nat × Biquad) :=
  let f := s.used CELLCFG.FINE.OSR
  (s.notches.zipIdx).filterMap (fun n => if notchApplied f n.1.1 n.1.2 then some (n.2, notchQ (fsOf f) n.1.1 n.1.2) else none)

/-- Steps 5 and 6 of R82. A notch whose coefficients change without a restart goes on from its stored state (DESIGN CHOICE, log 172). -/
def State.filters (s : State) (c : Chain) (x : Rat) : Rat × Chain :=
  let (x, c) := match s.cornerUse with
    | some q => ((q.step c.corner x).1, { c with corner := (q.step c.corner x).2 })
    | none => (x, c)
  s.notchUse.foldl (fun (p : Rat × Chain) n =>
    let r := n.2.step (p.2.notch.getD n.1 []) p.1
    (r.1, { p.2 with notch := p.2.notch.set n.1 r.2 })) (x, c)

/-- H(f) of the fine chain in use, `x` in turns per modulator clock (R84, R86 to R88). -/
def State.fineResp (s : State) (x : Rat) : Cx :=
  let y := x * s.osr
  ((s.cornerUse.toList ++ s.notchUse.map (·.2)).map (·.resp y)).foldl Cx.mul (linearResp s.osr x)

/-- STATUS and GDLY of CELLCFG as the settings in use give them (R86, R87, R88). -/
def State.fineStatus (s : State) : State :=
  let f := s.used CELLCFG.FINE.OSR
  let k := s.used CELLCFG.FINE.CORNER
  let cen := s.used CELLCFG.FINE.CORNEN = 1
  let ns := s.notches
  let d := 26 * osrOf f + (roundRat (4 * (osrOf f : Rat) * ((s.cornerUse.toList ++ s.notchUse.map (·.2)).map Biquad.delay).sum)).toNat
  (((s.setB CELLCFG.STATUS.CORNBYP (decide cen && cornerBypassed f k)).setB CELLCFG.STATUS.NOTCHSKIP
    (ns.any (fun n => !notchApplied f n.1 n.2))).setB CELLCFG.STATUS.NOTCHTBL
    (s.used CELLCFG.FINE.NOTCHEN == 1 && (s.points 7).isEmpty)).set2 CELLCFG.GDLY0 d

/-! ### Balance paths (R211, R212) -/

/-- External-FET mode (R214). -/
def State.extFet (s : State) : Bool := s.usedB BAL.CFG.EXTFET

/-- R_on of switch n in mΩ: the published mean, 0.95 Ω before the first, 0 in external-FET mode (R212, R224). -/
def State.ronOf (s : State) (n : Nat) : Nat := if s.extFet then 0 else ((look s.bal.ron n).getD 950).toNat

/-- R_path of switch n in mΩ (R212). -/
def State.rPath (s : State) (n : Nat) : Nat := (if s.extFet then 10 * s.used BAL.RBAL else 20 * s.used BAL.RBAL) + s.ronOf n

/-- The riser's readings around switch n. -/
def measOf (meas : List SwitchMeas) (n : Nat) : Option SwitchMeas := meas.find? (fun m => m.cell.val + 1 == n)

/-- V_S of switch n in the riser's readings, in µV: corrected, without IR correction (R212). -/
def State.vsOf (s : State) (meas : List SwitchMeas) (n : Nat) : Rat :=
  match measOf meas n with | some m => s.corrected (n - 1) s.cells.dieTemp m.vS | none => 0

/-- I_n of a conducting switch in µA, its neighbours taken from `k` (R212). With R213 a switch has at most one
conducting neighbour where R_B is shared. -/
def State.swI (s : State) (meas : List SwitchMeas) (k : List Nat) (n : Nat) : Rat :=
  let a : Rat := (s.rPath n : Nat)
  let v : Rat := s.vsOf meas n
  if a = 0 then 0
  else
    let pair := fun (m : Nat) =>
      let b : Rat := (s.rPath m : Nat)
      let r : Rat := (10 * s.used BAL.RBAL : Nat)
      let d := a * b - r * r
      if d = 0 then 0 else 1000 * (v * b + r * s.vsOf meas m) / d
    if s.extFet then 1000 * v / a
    else if k.contains (n + 1) then pair (n + 1)
    else if decide (1 ≤ n) && k.contains (n - 1) then pair (n - 1)
    else 1000 * v / a

/-- The currents from clock `t` on, after the set of conducting switches has changed there (R212). -/
def State.resolveSw (s : State) (t : Nat) : State :=
  let k := (List.range 37).filter (fun n => look s.bal.on n != 0)
  forEach k (fun (n : Nat) (s : State) =>
    let i := s.swI s.bal.meas k n
    { s with bal := { s.bal with cond := adj s.bal.cond n (fun l => l.flatMap (fun (c : Conduct) =>
        if c.i = i ∨ t < c.a ∨ c.b ≤ t then [c] else if c.a = t then [{ c with i := i }] else [{ c with b := t }, { c with a := t, i := i }])) } }) s

/-- Modulator clocks from `a` to `b` in which a switch conducts. -/
def onClks (l : List Conduct) (a b : Nat) : Nat := (l.map (fun (c : Conduct) => min c.b b - max c.a a)).sum

/-! ### The IR correction (R226, R230, R231) -/

/-- R_w of tap `n` in 10 µΩ: learned for inner taps, `BAL.RWEND` for the two end taps, 0 while unlearned. -/
def State.rwOf (s : State) (n : Nat) : Rat :=
  if n = 0 ∨ n = s.count then (s.used BAL.RWEND : Nat) else (look s.bal.rw n).getD 0

/-- Tap `n` has a learned or host-set R_w and no WFAIL bit (R231). -/
def State.rwKnown (s : State) (n : Nat) : Bool :=
  (decide (n = 0 ∨ n = s.count) || (look s.bal.rw n).isSome) && !s.vbit BAL.WFAIL0 n

/-- u_k at boundary `b`: the filtered current of switch k (1 to 36) in µA (R230). -/
def State.swCurrent (s : State) (k b : Nat) : Rat :=
  ((look s.bal.cond k).map (fun c => c.i * (stepResp s.osr ((b : Int) - c.a) - stepResp s.osr ((b : Int) - c.b)))).sum

/-- The drop in µV that the test current at tap `n` causes at boundary `b`: 100 µA through R_ser + R_w, with
100 Ω before the first mean (R238). -/
def State.testDrop (s : State) (n b : Nat) : Rat :=
  let u : Rat := ((look s.diag.drive n).map (fun (d : TapDrive) =>
    (if d.out then 100 else -100) * (stepResp s.osr ((b : Int) - d.a) - stepResp s.osr ((b : Int) - d.b)))).sum
  if (look s.diag.drive n).isEmpty then 0 else u * ((look s.diag.rserMean n).getD 100 + s.rwOf n / 100000)

/-- What step 4 adds to the fine result of cell n (1 to 36), in µV (R230, R238): drawing current out of Cn
lowers cell n and raises cell n + 1. -/
def State.irTerm (s : State) (n b : Nat) : Rat :=
  let u := fun k => if 1 ≤ k ∧ k ≤ s.count then s.swCurrent k b else 0
  (s.rwOf n * (u n - u (n + 1)) - s.rwOf (n - 1) * (u (n - 1) - u n)) / 100000 + s.testDrop n b - s.testDrop (n - 1) b

/-- The BAL flag of cell n's fine result: a switch conducted in the 14 output periods that end at boundary `b` (R97). -/
def State.balFlag (s : State) (n b : Nat) : Bool :=
  [n - 1, n, n + 1].any (fun k => (look s.bal.cond k).any (fun c => decide (c.a < b ∧ b < c.b + 14 * s.osr)))

/-- The BAL widening (R231). -/
def State.balWiden (s : State) (n : Nat) (bal : Bool) : Nat :=
  if !bal then 0 else if s.rwKnown n && s.rwKnown (n - 1) then 1 else 5

/-! ### Calibration groups seen by the channels (R157, R158, R162) -/

/-- The group (0 to 11) of a correctable channel: cells nine apart, then currents, AUX-A, AUX-B. -/
def groupOf (ch : Nat) : Nat := if ch < 36 then ch % 9 else if ch < 38 then 9 else if ch < 47 then 10 else 11

/-- The scope bit that covers a group (R177). -/
def scopeBit (g : Nat) : Nat := if g < 9 then 0 else g - 8

/-- Channel `ch` is under calibration in the present tread. -/
def State.calNow (s : State) (ch : Nat) : Bool :=
  match s.cal.run with
  | none => false
  | some r => decide (r.t / 4 = groupOf ch) && r.scope.testBit (scopeBit (groupOf ch)) && !r.dead &&
      (decide (36 ≤ ch) || decide (ch < s.count)) && (decide (ch < 36 ∨ 38 ≤ ch) || s.chanOn ch)

/-- A cell or current channel was under calibration `back` treads ago, 0 being the present tread (R162). -/
def State.calAt (s : State) (back ch : Nat) : Bool := (s.cal.past.getD back []).contains ch

/-! ### Restarts (R89) -/

/-- Restart the chain of one channel at modulator clock `t` since tread 0. (DEDUCED, log 14) -/
def State.restartChain (s : State) (ch t : Nat) (afterOvr : Bool) : State :=
  let c := look s.cells.chains ch
  (({ s with cells := { s.cells with chains := put s.cells.chains ch { c with start := t, buf := [], n := 0, primed := false, hist := [], corner := [], notch := [], posted := false, afterOvr := afterOvr } } }).evt
    CELLCFG.EVT.RESTART).set CELLCFG.STATUS.FINEVALID 0

/-- Restart every chain at modulator clock `t` since tread 0 (R89). -/
def State.restartAll (s : State) (t : Nat) : State :=
  forEach (List.range 38) (fun ch s => s.restartChain ch t false) s

/-! ### Fine results (R82 to R95, R104) -/

/-- Clock `clk` of the present tread is a result boundary of OSR field `f` (R85). -/
def State.isBoundary (s : State) (f clk : Nat) : Bool :=
  if f ≤ 4 then decide (clk % osrOf f = 0) else decide (clk = 0) && decide (s.tm.stn % (osrOf f / 4096) = 0)

/-- FSX of a boundary at clock `clk` of tread `stn` (R85). -/
def fsxOf (stn osr clk : Nat) : Nat := (stn % 4294967296 * 4096 / osr + clk / osr) % 4294967296

/-- The detector of channel `ch` asserts now, or its overload ended less than 3T before `b` (R94). -/
def State.inOverload (s : State) (ch b : Nat) : Bool :=
  let o := look s.cells.ovl ch
  o.on || (match o.tEnd with | some e => decide (b < e + 3 * s.osr) | none => false)

/-- The modulator samples a chain takes for the period that ends at `b`: the held raw value in the treads of its
calibration group (R162). -/
def State.fed (s : State) (ch b : Nat) (samples : List Int) : List Int :=
  if s.cal.past.any (·.contains ch) then
    (samples.zipIdx).map (fun p => if s.calAt (s.tm.tread - (b - s.osr + p.2) / 4096) ch then look s.cells.holdRaw ch else p.1)
  else samples

/-- Run one chain up to boundary `b` on the modulator samples of the period that ends there. After an overload the
modulator settles for 16 clocks before the chain counts its samples (R94). Before the first image of a start the die temperature of
the correction is that of reset (DESIGN CHOICE, log 155). -/
def State.runChain (s : State) (ch b : Nat) (samples : List Int) : Chain :=
  let c := look s.cells.chains ch
  let osr := s.osr
  let l := s.fed ch b samples
  let skip := c.start + (if c.afterOvr then 16 else 0) + osr - b
  let r := osr / 2
  let t := s.cells.dieTemp
  let ir : Rat := if ch < 36 then s.irTerm (ch + 1) b else 0
  let v := fun x => (roundRat (s.corrected ch t x) : Rat) + ir
  let c := c.feed r ((l.take r).drop skip) v
  let c := c.feed r ((l.drop r).drop (skip - r)) v
  if c.primed then
    let (y, c) := s.filters c (v (firD r c.hist))
    { c with raw := roundRat y }
  else c

/-- The chain of `ch` has a result of its own at boundary `b` (R89): primed, at least 3 output periods after
the restart, and after modulator clock 0 of tread 1 (R60). -/
def State.chainReady (s : State) (c : Chain) (b : Nat) : Bool :=
  c.primed && decide (c.start + 3 * s.osr ≤ b) && decide (4096 < b)

/-- How many treads before the present one the last input sample of a boundary at clock `clk` was taken (R42). -/
def lastBack (clk : Nat) : Nat := if clk = 0 then 1 else 0

/-- The fine result channel `ch` shows at boundary `b`, and whether it is posted: nothing is before tread 1 (R60, R94, R95,
R104, R162). A result with STALE and NBR has class 15 (DEDUCED, log 173). -/
def State.fineRes (s : State) (ch b tag : Nat) (c : Chain) : Res × Bool :=
  let old := look s.cells.fine ch
  let now := s.tagNow
  let cal := s.calAt (lastBack (b % 4096)) ch
  let held := look s.cells.holdFine ch
  let nbrs := if ch < 36 then (s.beside ch).filter (fun k => s.inOverload k b) else []
  let bal := decide (ch < 36) && s.balFlag (ch + 1) b
  let pls := decide (36 ≤ ch) && s.holds 16
  if s.chanOn ch = false then ({ (default : Res) with tag := 0, unc := 15 }, false)
  else if b ≤ 4096 then (old, false)
  else if s.inOverload ch b then
    ({ v := clampCode (look s.cells.ovl ch).high, ovr := true, nbr := !nbrs.isEmpty, stale := cal, bal := bal, pls := pls, tag := if cal then now else tag, unc := 15 }, true)
  else if cal && s.chainReady c b then
    ({ held with stale := true, nbr := held.nbr || !nbrs.isEmpty, pls := pls, tag := now, unc := if nbrs.isEmpty then held.unc else 15 }, true)
  else if !nbrs.isEmpty && c.afterOvr && !s.chainReady c b then
    ({ old with nbr := true, stale := cal, tag := now, unc := 15 }, true)
  else if s.chainReady c b then
    let (lo, hi) := s.rangeOf ch
    let out := decide (c.raw < lo ∨ hi < c.raw)
    let v := if out then clampCode (decide (hi < c.raw)) else c.raw
    let nbr := !nbrs.isEmpty
    ({ v := v, ovr := out, nbr := nbr, stale := false, bal := bal, pls := pls, tag := tag, unc := if ch < 36 then s.cellClass ch v (out || nbr) (s.balWiden (ch + 1) bal) else s.currClass ch out }, true)
  else ({ old with stale := cal, tag := if cal then now else tag, unc := 15 }, false)

/-- The four flags of a fine sample in block order OVR, NBR, STALE, BAL (R365). -/
def Res.flags (r : Res) : Nat :=
  (if r.ovr then 1 else 0) + (if r.nbr then 2 else 0) + (if r.stale then 4 else 0) + (if r.bal then 8 else 0)

/-- The bytes of a fine-stream block (R365). -/
def OpenBlk.bytes (o : OpenBlk) : List Byte :=
  leBytes 3 o.fsx ++ leBytes 2 (if o.flags = 0 then 0 else o.flags + 16 * o.ff + 1024 * o.fl) ++ o.samples.flatMap (leInt 3)

/-- Close the open fine-stream block of a channel and post it to Q4 + ch (R365). -/
def State.closeFine (s : State) (ch : Nat) : State :=
  match look s.cells.openBlk ch with
  | none => s
  | some o => ({ s with cells := { s.cells with openBlk := put s.cells.openBlk ch none } }).post (4 + ch) o.bytes

/-- Append a fine result to its channel's block, closing it at 41 samples and before a gap (R365). -/
def State.addFine (s : State) (ch fsx : Nat) (r : Res) : State :=
  if s.qEnabled (4 + ch) = false then s
  else
    let s := match look s.cells.openBlk ch with
      | some o => if (o.fsx + o.samples.length) % 4294967296 = fsx then s else s.closeFine ch
      | none => s
    let o := (look s.cells.openBlk ch).getD { fsx := fsx, samples := [], flags := 0, ff := 0, fl := 0, born := s.tm.tread }
    let i := o.samples.length
    let f := r.flags
    let o := { o with samples := o.samples ++ [r.v], flags := o.flags ||| f, ff := if o.flags = 0 ∧ f ≠ 0 then i else o.ff, fl := if f ≠ 0 then i else o.fl }
    let s := { s with cells := { s.cells with openBlk := put s.cells.openBlk ch (some o) } }
    if o.samples.length = 41 then s.closeFine ch else s

/-- Fault 13, NBRLIVE and ANYNBR from the newest fine results (R95). -/
def State.nbrLive (s : State) : State :=
  let s := forEach (List.range 36) (fun c s => s.setV CELLCFG.NBRLIVE0 c (look s.cells.fine c).nbr) s
  let any := (List.range 36).any (fun c => (look s.cells.fine c).nbr)
  (s.setB CELLCFG.STATUS.ANYNBR any).cond 13 any

/-- A channel's held fine result and raw value are those of the boundary at master clock 0 of its group's first tread,
whose samples lie before the group (R162). -/
def State.holdLast (s : State) (clk ch : Nat) : State :=
  if clk = 0 ∧ s.calAt 0 ch = true ∧ s.calAt 1 ch = false ∧ (look s.cells.chains ch).primed = true then
    let r := s.osr / 2
    { s with cells := { s.cells with holdFine := put s.cells.holdFine ch (look s.cells.fine ch), holdRaw := put s.cells.holdRaw ch (roundRat (((look s.cells.chains ch).hist.getD 0 0 : Rat) / ((r ^ 3 : Nat) : Rat))) } }
  else s

/-- A boundary at clock `clk` of the present tread with the settings in use: every chain runs, results are
issued and posted, the fine pages update together (R85, R99, R104). FINEVALID waits for a result of each primed chain: a
clamp code is none. (DEDUCED, log 137) -/
def State.fineRun (s : State) (clk : Nat) (samples : List (List Int)) : State :=
  let b := s.absClk clk
  let tag := if clk = 0 then (s.tm.ltc + 15) % 16 else s.tagNow
  let fsx := fsxOf s.tm.stn s.osr clk
  let cs : List (Nat × Chain) := (List.range 38).map (fun ch => (ch, s.runChain ch b (samples.getD ch [])))
  let rs : List (Nat × Chain × Res × Bool) := cs.map (fun p => (p.1, p.2, s.fineRes p.1 b tag p.2))
  let s := { s with cells := { s.cells with chains := rs.foldl (fun (m : SMap Chain) p => put m p.1 { p.2.1 with posted := p.2.1.posted || (p.2.2.2 && (s.chainReady p.2.1 b || s.calAt (lastBack clk) p.1)) }) s.cells.chains } }
  if rs.all (fun p => !p.2.2.2) then s
  else
    let fine : SMap Res := rs.foldl (fun (m : SMap Res) (p : Nat × Chain × Res × Bool) => put m p.1 p.2.2.1) s.cells.fine
    let sum := ((List.range s.count).map (fun c => (look fine c).v)).sum
    let s := { s with cells := { s.cells with prev := s.cells.fine, prevAt := s.cells.fineAt, fine := fine, fsx := fsx, fineTag := tag, fineDie := s.cells.dieTemp, fineAt := b, fineSum := sum, fineCount := s.count } }
    let s := forEach rs (fun p s => if p.2.2.2 then s.addFine p.1 fsx p.2.2.1 else s) s
    let s := if (List.range 38).all (fun ch => !s.chanOn ch || (look s.cells.chains ch).posted) then
        s.set CELLCFG.STATUS.FINEVALID 1 else s
    let s := { s with cells := { s.cells with ovl := (List.range 38).foldl (fun (m : SMap Ovl) ch => adj m ch (fun o =>
        match o.tEnd with | some e => if e + 3 * s.osr ≤ b then { o with tEnd := none } else o | none => o)) s.cells.ovl } }
    forEach (List.range 38) (fun (ch : Nat) (s : State) => s.holdLast clk ch) s.nbrLive

/-- A FINE write takes effect at the first boundary of the new OSR in a later tread (R89). (DEDUCED, log 53) -/
def State.fineAdopt (s : State) (clk : Nat) : State :=
  match s.cells.finePend with
  | none => s
  | some t =>
    if t < s.tm.tread ∧ s.isBoundary (s.get CELLCFG.FINE.OSR) clk = true then
      let s := s.release (· == CELLCFG.FINE.OSR.addr)
      (({ s with cells := { s.cells with finePend := none } }).restartAll (s.absClk clk)).fineStatus
    else s

/-- A boundary at clock `clk` has passed (R89). -/
def State.boundarySeen (s : State) (clk : Nat) : State := { s with cells := { s.cells with boundAt := s.absClk clk } }

/-- The waiting comparisons get no verdict: the fine chains restarted between their conversion and the later boundary
(R146). -/
def State.waitsStale (s : State) : State :=
  let f := fun (x : AuxConv) => { x with waits := x.waits.map (fun w => { w with bad := true }) }
  { s with aux := { s.aux with a := f s.aux.a, b := f s.aux.b } }

/-- A write of 1 to CELLCFG.CTRL.RESTART (R89). A command carries no clock: its restart counts from the clock
after the newest boundary seen (DEDUCED, log 14), and comes after every conversion that waits for its comparison
(R146). -/
def State.restartNow (s : State) : State := (s.restartAll (max s.cells.boundAt (s.absClk 0) + 1)).waitsStale

/-- A write of CELLCFG.CTRL.FINEEN (R89, R102). -/
def State.writeFineen (s : State) (on : Bool) : State :=
  let was := s.bit CELLCFG.CTRL.FINEEN
  let s := s.setB CELLCFG.CTRL.FINEEN on
  if on && !was then s.restartNow else s

/-- Fault 12, OVRLIVE, ANYOVR, AOVR and BOVR as the detectors stand (R93, R110). The detector of a channel that is disabled while it
asserts stays so until OVERLOAD_RELEASE (DESIGN CHOICE, log 175). -/
def State.ovlLive (s : State) : State :=
  let s := forEach (List.range 36) (fun c s => s.setV CELLCFG.OVRLIVE0 c (look s.cells.ovl c).on) s
  let any := (List.range 36).any (fun c => (look s.cells.ovl c).on)
  (((s.setB CELLCFG.STATUS.ANYOVR any).cond 12 any).setB CURR.STATUS.AOVR (look s.cells.ovl 36).on).setB
    CURR.STATUS.BOVR (look s.cells.ovl 37).on

/-- The detector of a powered channel asserts at clock `clk` (R93, R96). -/
def State.overloadOn (s : State) (ch : Nat) (high : Bool) (clk : Nat) : State :=
  let o := look s.cells.ovl ch
  if s.chanOn ch = false ∨ o.on = true then s
  else
    let s := { s with cells := { s.cells with ovl := put s.cells.ovl ch { on := true, high := high, since := s.absClk clk, tEnd := none, win := o.win || (decide (99 ≤ clk ∧ clk ≤ 507)) } } }
    let s := if ch < 36 then (s.setV CELLCFG.OVRSTK0 ch true).evt CELLCFG.EVT.OVR else s
    s.ovlLive

/-- The detector releases at clock `clk`: the chains of the channel and of its neighbours restart (R94). That clock is the last asserted
one (DEDUCED, log 174). -/
def State.overloadOff (s : State) (ch clk : Nat) : State :=
  let o := look s.cells.ovl ch
  if o.on = false then s
  else
    let hit := decide (99 ≤ clk) && decide (o.since ≤ s.absClk 507)
    let t := s.absClk clk
    let s := { s with cells := { s.cells with ovl := put s.cells.ovl ch { o with on := false, tEnd := some t, win := o.win || hit } } }
    let s := forEach (ch :: (if ch < 36 then s.beside ch else [])) (fun k s => s.restartChain k t true) s
    s.ovlLive

/-- The detector of `ch` asserted in clocks 99 to 507 of the present tread (R96), seen at the snapshot. -/
def State.winHit (s : State) (ch : Nat) : Bool :=
  let o := look s.cells.ovl ch
  o.win || (o.on && decide (o.since ≤ s.absClk 507))

/-! ### Rows of chapter 04 -/

/-- FINEEN: the bit is stored; a return from 0 to 1 restarts every chain (R89, R102). -/
def execFineen (on : Bool) (s : State) : Host.Outcome State Fault Refusal :=
  whenActive [.cells, .aux] s fun s => s.writeFineen on

/-- OVERLOAD_ASSERT (R93, R94, R96, R110): the detector of a channel asserts at clock `clk`. -/
def execOverloadAssert (ch : Chan) (high : Bool) (clk : Fin 4096) (s : State) : Host.Outcome State Fault Refusal :=
  whenActive [.cells] s fun s => s.overloadOn ch.val high clk.val

/-- OVERLOAD_RELEASE (R94, R95, R96, R110). -/
def execOverloadRelease (ch : Chan) (clk : Fin 4096) (s : State) : Host.Outcome State Fault Refusal :=
  whenActive [.cells] s fun s => s.overloadOff ch.val clk.val

end Sys2Proof.Machine
end

