-- ==== Sys2Proof/Machine/Preset.lean ====
section
/-! DEFINITION. Preset.lean: chemistry presets and the effective sentinel thresholds (R253 to R255). -/
namespace Sys2Proof.Machine

/-- The values of the LFP preset: OV, UV (100 µV), OT (1/16 °C), processor OC, OC sentinel (10 µV), die
sentinel, processor die limit (1/16 °C) (R253). -/
def presetLfp : List Nat := [38000, 20000, 1040, 8000, 8000, 2080, 2000]
def presetNmc : List Nat := [43500, 25000, 1040, 8000, 8000, 2080, 2000]
def presetLto : List Nat := [29000, 14000, 1040, 8000, 8000, 2080, 2000]

/-- SAFCFG is invalid on this part (R254). (DESIGN CHOICE, log 41) -/
def State.strapBad (s : State) : Bool :=
  (decide (s.get SYS.STRAP.SAFCFG % 4 = 3) && s.vault.custom.isNone) || decide (s.get SYS.STRAP.SAFCFG / 4 = 3)

/-- The values of the latched preset; LFP while the straps are invalid (R253, R254). -/
def State.presetVals (s : State) : List Nat :=
  if s.strapBad then presetLfp
  else match s.get SYS.STRAP.SAFCFG % 4 with
    | 0 => presetLfp
    | 1 => presetNmc
    | 2 => presetLto
    | _ => match s.vault.custom with | some (_ :: l) => l | _ => presetLfp

/-- OV_eff in 100 µV: rounded down to a multiple of 0.5 mV (R255). -/
def ovEff (ov g : Nat) : Nat := ov * (1000000 - g) / 5000000 * 5

/-- UV_eff in 100 µV: rounded up to a multiple of 0.5 mV (R255). -/
def uvEff (uv g : Nat) : Nat := (uv * (1000000 + g) + 4999999) / 5000000 * 5

/-- SENOV and SENUV with the guard band in force (R255). -/
def State.senThresholds (s : State) : State :=
  let p := s.presetVals
  (((s.set SAFE.SENOV (ovEff (p.getD 0 0) s.cal.guard)).set SAFE.SENUV (uvEff (p.getD 1 0) s.cal.guard)).set SAFE.SENOC (p.getD 4 0)).set
    SAFE.SENDT (p.getD 5 0)

end Sys2Proof.Machine
end

