-- ==== Sys2Proof/Machine/Auxil.lean ====
section
/-! DEFINITION. Auxil.lean: the auxiliary converters: channels, passes, urgent entries, shared and
round-robin comparisons (06). -/
namespace Sys2Proof

/-- The page of a converter. -/
def Conv.page : Conv → Nat
  | .a => 0x0D
  | .b => 0x0E

/-- A field of AUXA on the converter's own page (R150). -/
def Conv.fld (c : Conv) (f : Machine.Fld) : Machine.Fld := { f with page := c.page }

/-- The other converter. -/
def Conv.other : Conv → Conv
  | .a => .b
  | .b => .a

/-- The first correctable index of a converter (R155). -/
def Conv.calBase : Conv → Nat
  | .a => 38
  | .b => 47

end Sys2Proof

namespace Sys2Proof.Machine

/-! ### Tables (R447) -/

/-- Nearest integer, halves away from zero (R447). -/
def roundAway (q : Rat) : Int := if 0 ≤ q then (q + 1 / 2).floor else -((-q + 1 / 2).floor)

/-- Interpolation between consecutive points (R447). -/
def interp : List (Int × Int) → Int → Int
  | [], _ => 0
  | [p], _ => p.2
  | p :: q :: l, x =>
    if x ≤ p.1 then p.2
    else if x < q.1 then roundAway ((p.2 : Rat) + ((q.2 - p.2 : Int) : Rat) * ((x - p.1 : Int) : Rat) / ((q.1 - p.1 : Int) : Rat))
    else interp (q :: l) x

/-- A lookup in table `t` with x and y of the given signedness; none while absent or invalid (R445). -/
def State.lookup (s : State) (t : Nat) (sx sy : Bool) (x : Int) : Option Int :=
  let f := fun (b : Bool) (v : Nat) => if b then signed 16 v else (v : Int)
  if (s.points t).isEmpty then none
  else some (interp ((s.points t).map (fun p => (f sx p.1, f sy p.2))) x)

/-! ### Entry words (R127, R128, R131) -/

/-- TYPE, SEL, OSR field and gain field of an entry word. -/
def eType (w : Word) : Nat := fieldOf w 0 2
def eSel (w : Word) : Nat := fieldOf w 2 6
def eOsr (w : Word) : Nat := fieldOf w 8 3
def eGain (w : Word) : Nat := fieldOf w 11 2
def eQuiet (w : Word) : Bool := w.getLsbD 13 || eType w == 3
def eEn (w : Word) : Bool := w.getLsbD 15

/-- The auxiliary oversampling ratio of a field (Table — Auxiliary noise by OSR). -/
def auxOsr (f : Nat) : Nat := 64 * 2 ^ f

/-- The selector is listed for its type (R127). -/
def selOk (ty sel : Nat) : Bool :=
  match ty with
  | 0 => decide (sel ≤ 0x0B) || decide (0x10 ≤ sel ∧ sel ≤ 0x1B) || decide (0x20 ≤ sel ∧ sel ≤ 0x2B) || decide (0x30 ≤ sel ∧ sel ≤ 0x39)
  | 1 => decide (1 ≤ sel ∧ sel ≤ 36)
  | 2 => decide (1 ≤ sel ∧ sel ≤ 35)
  | _ => decide (sel = 0)

/-- Gain 1, or a channel that takes other gains (R128). -/
def gainOk (w : Word) : Bool := eGain w == 0 || (eType w == 0 && decide (eSel w ≤ 0x1B))

/-- An entry word may be written (R131). -/
def entryOk (w : Word) : Bool :=
  eOsr w != 7 && selOk (eType w) (eSel w) && gainOk w && !((w.getLsbD 13 || eType w == 3) && decide (2 < eOsr w))

/-- An urgent entry word may be written: EN and QUIET ignored, TYPE 11 refused (R151). -/
def urgOk (w : Word) : Bool := eOsr w != 7 && selOk (eType w) (eSel w) && gainOk w && eType w != 3

/-- The shared channel may be written: only TYPE 00 (R143), and no reserved OSR or selector. (DEDUCED, log 150) -/
def sharedOk (w : Word) : Bool := eType w == 0 && eOsr w != 7 && selOk 0 (eSel w)

/-! ### The two converters -/

/-- A converter's state. -/
def State.conv (s : State) (c : Conv) : AuxConv := match c with | .a => s.aux.a | .b => s.aux.b

/-- Store a converter's state. -/
def State.setConv (s : State) (c : Conv) (x : AuxConv) : State :=
  match c with
  | .a => { s with aux := { s.aux with a := x } }
  | .b => { s with aux := { s.aux with b := x } }

/-- CTRL.EN in use (R150). -/
def State.auxOn (s : State) (c : Conv) : Bool := s.usedB (c.fld AUXA.CTRL.EN)

/-- The converter is under calibration in the present tread (R149). -/
def State.auxCal (s : State) (c : Conv) : Bool := s.calNow (match c with | .a => 38 | .b => 47)

/-! ### Results (R127, R129, R137) -/

/-- An auxiliary result: value and flags. -/
structure AuxRes where
  v : Int
  ovr : Bool
  na : Bool
deriving DecidableEq, Repr, Inhabited

/-- `v` within lo … hi as a result, else the clamp code with OVR (R127). -/
def ranged (lo hi v : Int) : AuxRes :=
  if v < lo then ⟨-8388608, true, false⟩ else if hi < v then ⟨8388607, true, false⟩ else ⟨v, false, false⟩

/-- The mean of a conversion's modulator samples, weighted by a triangle centred on the conversion, with a DC gain of 1 (R126).
(DEDUCED, log 141) -/
def triMean (l : List Int) : Rat :=
  let w := fun (j : Nat) => 2 * min j (l.length - 1 - j) + 1
  ((l.zipIdx.map (fun p => p.1 * (w p.2 : Int))).sum : Rat) / (((List.range l.length).map w).sum : Nat)

/-- The corrected value of a raw conversion: channel kind `k`, user offset (µV) and gain (ppm) (R148). A written
AXOFS or AXGAIN counts at once, without a ramp (DEDUCED, log 176). -/
def State.auxCorr (s : State) (c : Conv) (k : Nat) (d : Rat) (uo ug : Int) : Int :=
  let t := s.cells.dieTemp
  let ch := c.calBase + k
  let f := s.factory ch t
  let e := (look s.cal.chans ch).delta.now
  let o : Rat := ((f.1 + e.1 : Int) : Rat) / 256 + (uo : Rat)
  let g : Rat := ((f.2 + e.2 : Int) : Rat) / 25600000000 + (ug : Rat) / 1000000
  roundRat ((d - o) * (1 + g))

/-- The result of converting the channel of an entry word whose decimator delivered `d` (R127 to R129). -/
def State.auxConvert (s : State) (c : Conv) (w : Word) (d : Rat) : AuxRes :=
  let g := 2 ^ eGain w
  match eType w with
  | 0 =>
    let sel := eSel w
    if sel ≤ 0x0B then
      ranged (-100000 / (g : Int)) (3200000 / (g : Int)) (s.auxCorr c (2 + eGain w) d (signed 16 (s.get (AUXCTL.AXOFS0.plus sel))) (signed 16 (s.get (AUXCTL.AXGAIN0.plus sel))))
    else if sel ≤ 0x1B then ranged 0 (4194304 / (g : Int)) (s.auxCorr c 6 d 0 0)
    else if sel ≤ 0x2B then
      let r := s.auxCorr c 6 d 0 0
      match s.lookup 1 false true (min (max r 0 / 64) 65535) with
      | some y => ⟨y, false, false⟩
      | none => ⟨0, false, true⟩
    else if sel = 0x30 then ranged (-880) 2560 (roundRat d)
    else if sel ≤ 0x33 then ranged 0 3200000 (s.auxCorr c 7 d 0 0)
    else if sel = 0x34 then ranged 0 2300000 (s.auxCorr c 8 d 0 0)
    else ranged 0 6500000 (s.auxCorr c 7 d 0 0)
  | 2 => ranged (-300000) 5300000 (s.auxCorr c 1 d 0 0)
  | _ => ranged (-300000) 5300000 (s.auxCorr c 0 d 0 0)

/-- Word B of a result (R137). -/
def auxWordB (r : AuxRes) (stale rsm : Bool) (tag : Nat) : Nat :=
  twos 24 r.v / 65536 + (if r.ovr then 0x100 else 0) + (if r.na then 0x200 else 0) + (if stale then 0x400 else 0) + (if rsm then 0x800 else 0) + 0x1000 * (tag % 16)

/-- Store a result pair. -/
def State.setPair (s : State) (f : Fld) (r : AuxRes) (stale rsm : Bool) : State :=
  (s.set f (twos 16 r.v)).set (f.plus 1) (auxWordB r stale rsm s.tagNow)

/-- The 12-byte record of R138. -/
def auxRecord (stn clk index : Nat) (w : Word) (r : AuxRes) (stale rsm : Bool) (tag : Nat) : List Byte :=
  leBytes 4 stn ++ leBytes 2 clk ++ leBytes 1 index ++ leBytes 1 (w.toNat % 256) ++ leInt 3 r.v ++
  leBytes 1 ((if r.ovr then 1 else 0) + (if r.na then 2 else 0) + (if stale then 4 else 0) + (if rsm then 8 else 0) + 16 * (tag % 16))

/-- Post records in blocks of at most 10 (R367). -/
def State.postTens (s : State) (q : Nat) (l : List (List Byte)) : State :=
  forEach (List.range ((l.length + 9) / 10)) (fun (k : Nat) (s : State) => s.post q ((l.drop (10 * k)).take 10).flatten) s

/-- Post the waiting records of a converter (R367). -/
def State.closeAux (s : State) (c : Conv) : State :=
  match c with
  | .a => ({ s with aux := { s.aux with recA := [] } }).postTens 42 s.aux.recA
  | .b => ({ s with aux := { s.aux with recB := [] } }).postTens 43 s.aux.recB

/-- Append a record; a block closes at 10 records (R138, R367). Tread 0 gives no queue block (R60), so its
blocks are posted in tread 1 (DEDUCED, log 61) -/
def State.addAux (s : State) (c : Conv) (r : List Byte) : State :=
  let s := match c with
    | .a => { s with aux := { s.aux with recA := s.aux.recA ++ [r] } }
    | .b => { s with aux := { s.aux with recB := s.aux.recB ++ [r] } }
  if s.tm.tread ≠ 0 ∧ 10 ≤ (match c with | .a => s.aux.recA.length | .b => s.aux.recB.length) then s.closeAux c else s

/-! ### What a conversion meets at the pins (R142, R220, R235, R236) -/

/-- The taps at the ends of the channel of an entry word (R235, R236). -/
def tapEnds (w : Word) : List Nat :=
  match eType w with
  | 1 => [eSel w - 1, eSel w]
  | 2 => [eSel w - 1, eSel w + 1]
  | _ => []

/-- The balance switches an urgent conversion holds off (R142). -/
def urgSwitches (w : Word) : List Nat :=
  match eType w with
  | 1 => (List.range 3).map (fun k => eSel w - 1 + k) |>.filter (fun n => 1 ≤ n ∧ n ≤ 36)
  | 2 => (List.range 4).map (fun k => eSel w - 1 + k) |>.filter (fun n => 1 ≤ n ∧ n ≤ 36)
  | _ => []

/-- The newest instant the model knows in the present tread, in modulator clocks since tread 0: commands and
trips carry no clock (DEDUCED, log 79) -/
def State.newestClk (s : State) : Nat := max s.cells.boundAt (s.absClk (256 * s.bal.riser))

/-- Open switch `n` within a riser (R220): its interval of conduction ends, and the others' currents follow (R212). -/
def State.cutSwitch (s : State) (n t : Nat) : State :=
  if look s.bal.on n = 0 then s
  else
    let f := fun (c : Conduct) => if t < c.b then { c with b := max c.a t } else c
    ({ s with bal := { s.bal with on := put s.bal.on n 0, cut := put s.bal.cut n true, cond := adj s.bal.cond n (fun l => l.map f) } }).resolveSw t

/-- Open several switches at the newest known instant. -/
def State.cutSwitches (s : State) (l : List Nat) : State :=
  forEach l (fun n s => s.cutSwitch n s.newestClk) s

/-- Lane `k` is the active lane (R194). -/
def State.isActive (s : State) (k : Nat) : Bool := s.bit IMP.EXCCFG.ACTEN && s.get IMP.EXCCFG.ACTLANE == k

/-- The lane is integrating. -/
def State.laneRuns (s : State) (k : Nat) : Bool := match (look s.imp.lanes k).mode with | .running => true | _ => false

/-- Some active lane is running (R194, R228). -/
def State.excRuns (s : State) : Bool := (List.range 8).any (fun k => s.isActive k && s.laneRuns k)

/-- Group g's taps (R233). -/
def State.groupTaps (s : State) (g : Nat) : List Nat :=
  (List.range 37).filter (fun n => (decide (1 ≤ n ∧ n + 1 ≤ s.count) || decide (n = 36 ∧ s.count = 36)) && decide (n % 4 = g))

/-- The tap is tested at all (R233). -/
def State.tapTested (s : State) (n : Nat) : Bool := (s.groupTaps (n % 4)).contains n

/-- The first riser of the group that holds tap `n` in the present tread (R233). -/
def State.tapRiser? (s : State) (n : Nat) : Option Nat :=
  match s.diag.groups with
  | none => none
  | some (a, b) => if s.tapTested n = false then none else if n % 4 = a then some 4 else if n % 4 = b then some 7 else none

/-- The test of tap `n` is skipped at its start (R235). -/
def State.diagSkip (s : State) (n : Nat) : Bool :=
  s.calNow (n - 1) || (decide (n < 36) && s.calNow n) ||
  (s.excRuns && ((List.range 36).any (fun c => s.vbit IMP.EXCMAP0 c && decide (n ≤ c + 2 ∧ c ≤ n + 1)))) ||
  decide ((look s.cells.snap (n - 1)).v ≤ 100 * (s.get SAFE.SENUV : Int) + 150000) ||
  (decide (n < s.count) && decide (100 * (s.get SAFE.SENOV : Int) - 150000 ≤ (look s.cells.snap n).v))

/-- The test of tap `n` runs in riser `r` (R236): it stands between its reference and its group's end, or riser `r` is its
first, its reference is not taken yet and nothing skips it. (DEDUCED, log 143) -/
def State.tapBusy (s : State) (r n : Nat) : Bool :=
  match s.tapRiser? n with
  | none => false
  | some r0 => decide (r0 ≤ r ∧ r < r0 + 3) &&
      (s.diag.testing.contains n || (decide (r = r0) && !s.diag.began.contains n && !s.diagSkip n))

/-- A tap test is skipped or abandoned: SKIP, SKIPCNT, TKIND[6] (R235). What it measured is discarded. -/
def State.tapSkip (s : State) (n : Nat) : State :=
  let f := fun (d : TapDrive) => if s.newestClk < d.b then { d with b := max d.a s.newestClk } else d
  (({ s with diag := { s.diag with testing := s.diag.testing.filter (· ≠ n), began := s.diag.began.filter (· ≠ n) ++ [n], got := put s.diag.got n none, skipped := put s.diag.skipped n true, drive := adj s.diag.drive n (fun l => l.map f) } }).inc DIAG.SKIPCNT).evt DIAG.EVT.SKIP

/-- An urgent conversion begins on the channel of `w`: tests at its ends are abandoned, its switches open. -/
def State.urgMeets (s : State) (w : Word) : State :=
  let s := forEach ((tapEnds w).filter (fun n => s.tapBusy s.bal.riser n)) (fun n s => s.tapSkip n) s
  s.cutSwitches (urgSwitches w)

/-! ### The order of a pass (R133, R134, R135) -/

/-- The word an item of a pass converts: an entry, the shared channel as it stood when its conversion began, or die temperature
at OSR 256. (DEDUCED, log 142) -/
def State.itemWord (s : State) (x : AuxConv) (i : Nat) : Word :=
  if i < 16 then x.entries.getD i 0 else if i = 16 then (if x.busy then x.sh else s.used AUXCTL.SHARED) else 0x02C0#16

/-- An entry that names a cell above COUNT is passed over (R133); an urgent one gives the same result (DEDUCED, log 149). -/
def State.passedOver (s : State) (w : Word) : Bool :=
  (eType w == 1 && decide (s.count < eSel w)) || (eType w == 2 && decide (s.count < eSel w + 1))

/-- Bits of STATUS as the converter stands (R150). -/
def State.auxStatus (s : State) (c : Conv) (qwait pwr : Bool) : State :=
  let x := s.conv c
  (((s.setB (c.fld AUXA.STATUS.PASS) x.passOn).setB (c.fld AUXA.STATUS.URG) x.urg.isSome).setB
    (c.fld AUXA.STATUS.QWAIT) qwait).setB (c.fld AUXA.STATUS.PWR) pwr

/-- AUXCTL.URGSTAT: each converter's pending and running urgent entry, as they stand (R151). -/
def State.urgStat (s : State) : Nat :=
  (if s.aux.a.urgPend.isSome then 1 else 0) + (if s.aux.a.urg.isSome then 2 else 0) +
  (if s.aux.b.urgPend.isSome then 4 else 0) + (if s.aux.b.urg.isSome then 8 else 0)

/-- A pass starts now with the entries, SETTLE and items of the present settings (R132, R134, R485). -/
def State.passBegin (s : State) (c : Conv) (first : Bool) (clk : Nat) : State :=
  let x := s.conv c
  let es := (List.range 16).map (fun i => s.reg ((c.fld AUXA.ENTRY0).plus i).addr)
  let s := s.release (fun a => decide ((c.fld AUXA.ENTRY0).addr ≤ a ∧ a ≤ (c.fld AUXA.ENTRY15).addr ∨ a = (c.fld AUXA.SETTLE).addr))
  let ens := (List.range 16).filter (fun i => eEn (es.getD i 0))
  let hk := match c with | .a => true | .b => !s.auxOn .a
  let die := ens.any (fun i => (es.getD i 0).toNat % 256 == 0xC0)
  let todo := if first && hk then 17 :: ens ++ [16] else ens ++ [16] ++ (if hk && !die then [17] else [])
  s.setConv c { x with entries := es, settle := s.get (c.fld AUXA.SETTLE), todo := todo, passOn := true, began := s.absClk clk, rsm := false, busy := false, dieDone := false, late := false, regrid := false, rr := none }

/-- The pass ends: PASSCNT, PASSTIME (to the nearest µs; DESIGN CHOICE, log 164), PASSEND; with PERIOD = 0 the next begins at once (R134). -/
def State.passEnd (s : State) (c : Conv) (clk : Nat) : State :=
  let x := s.conv c
  let us := ((s.absClk clk - x.began) * 1000 + 2048) / 4096
  let cnt := s.get (c.fld AUXA.PASSCNT)
  let s := (((s.set (c.fld AUXA.PASSCNT) (cnt + 1)).set (c.fld AUXA.PASSTIME) (min us 65535)).evt (c.fld AUXA.EVT.PASSEND)).setConv c { x with passOn := false, busy := false, todo := [] }
  if s.get (c.fld AUXA.PERIOD) = 0 ∧ (s.conv c).regrid = false ∧ s.auxOn c = true then s.passBegin c false clk else s

/-- The cell a round-robin entry converts (R145). -/
def State.rrCell (s : State) (c : Conv) : Nat :=
  let p := s.get (c.fld AUXA.RRPOS) % 64
  if s.count < p ∨ p = 0 then 1 else p

/-- The item of word `w` begins: SHARED and, unless the entry only runs again, RRPOS are taken (R140, R143, R145). -/
def State.itemBegin (s : State) (c : Conv) (x : AuxConv) (w : Word) : AuxConv :=
  let x := { x with busy := true, sh := s.used AUXCTL.SHARED }
  if eType w = 3 ∧ x.rr = none then { x with rr := some (s.rrCell c), rrSet := false } else x

/-- Take up the next item at clock `clk`: nothing under calibration (R149); pass over, wait for riser 0 or
for the end of a tap-test group, or begin to settle (R133, R135, R236). A quiet entry is passed over at the master clock 0 at which it
would have begun (DEDUCED, log 148). The lone die-temperature conversion of R136
belongs to no pass. -/
def State.advance : Nat → State → Conv → Nat → State
  | 0, s, _, _ => s
  | fuel + 1, s, c, clk =>
    let x := s.conv c
    if s.auxCal c then (s.setConv c { x with busy := false }).auxStatus c (s.bit (c.fld AUXA.STATUS.QWAIT)) (s.bit (c.fld AUXA.STATUS.PWR))
    else if x.passOn = false then (s.setConv c { x with busy := !x.todo.isEmpty && x.urg.isNone }).auxStatus c false (x.urg.isSome || !x.todo.isEmpty)
    else match x.todo with
      | [] =>
        let s := s.passEnd c clk
        if (s.conv c).passOn then State.advance fuel s c clk else s.auxStatus c false ((s.conv c).urg.isSome)
      | i :: l =>
        let w := s.itemWord x i
        if i < 16 ∧ eQuiet w = true ∧ clk ≠ 0 then (s.setConv c { x with busy := false }).auxStatus c true true
        else if i < 16 ∧ s.passedOver w = true then
          let r : AuxRes := ⟨0, false, true⟩
          let s := (s.setPair ((c.fld AUXA.RES0A).plus (2 * i)) r false false).set (c.fld AUXA.STATUS.ENTRY) i
          let s := s.addAux c (auxRecord s.tm.stn clk i w r false false s.tagNow)
          State.advance fuel (s.setConv c { x with todo := l, rsm := false }) c clk
        else
          let s := if i < 16 then s.set (c.fld AUXA.STATUS.ENTRY) i else s
          let wait := (tapEnds w).any (fun n => s.tapBusy (clk / 256) n)
          (s.setConv c (if wait then { x with busy := false } else s.itemBegin c x w)).auxStatus c false true

/-! ### Shared channel (R143, R144) -/

/-- Fault 15 and SHLIVE from its three conditions (R144). -/
def State.fault15 (s : State) : State :=
  let b := s.aux.shBad || s.aux.shStale || !s.auxOn .a || !s.auxOn .b
  (s.cond 15 b).setB AUXCTL.STATUS.SHLIVE b

/-- A shared conversion of converter `c` ended with `r` (R143). -/
def State.sharedEnd (s : State) (c : Conv) (r : AuxRes) : State :=
  let bad := r.ovr || r.na || s.auxCal c
  let s := s.setConv c { s.conv c with shared := some (r.v, s.tm.tread, bad) }
  match (s.conv c.other).shared with
  | none => s
  | some (v', t', bad') =>
    if bad || bad' || s.auxCal c.other || decide (s.used AUXCTL.SHCFG.WIN < s.tm.tread - t') then s
    else
      let d := match c with | .a => r.v - v' | .b => v' - r.v
      let mis := decide ((s.used AUXCTL.SHLIM : Int) < d.natAbs)
      let n := s.used AUXCTL.SHCFG.N
      let m := if mis then s.aux.shMis + 1 else 0
      let o := if mis then 0 else s.aux.shOk + 1
      let live := if n ≤ m then true else if n ≤ o then false else s.aux.shBad
      let s := { s with aux := { s.aux with shMis := m, shOk := o, shLast := s.tm.tread, shBad := live, shStale := false } }
      let s := s.set2 AUXCTL.SHDIFF0 (twos 32 d)
      (if mis then s.evt AUXCTL.EVT.SHMIS else s).fault15

/-! ### Die temperature (R136) -/

/-- A die temperature: the newest result, else the clamp value; before any conversion it is a free value (R136, R59). -/
def State.dieOf (s : State) (die clamp : Option Int) : Int :=
  match die with
  | some t => t
  | none => match clamp with | some t => t | none => signed 16 (Config.dieFree s.free)

/-- The die temperature in use. -/
def State.dieNow (s : State) : Int := s.dieOf s.aux.die s.aux.dieClamp

/-- The die temperature of the image: the newest at the start of riser 2 of the present tread (R136). -/
def State.dieImage (s : State) : Int :=
  match s.aux.dieHeld with
  | some (t, die, clamp) => if t = s.tm.tread then s.dieOf die clamp else s.dieNow
  | none => s.dieNow

/-- A result that ends after riser 2 of the tread has begun leaves the image its value; one that ends at its first clock does not
(R136). (DEDUCED, log 182) -/
def State.dieHold (s : State) (clk : Nat) : State :=
  if 512 < clk ∧ s.aux.dieHeld.map (·.1) ≠ some s.tm.tread then
    { s with aux := { s.aux with dieHeld := some (s.tm.tread, s.aux.die, s.aux.dieClamp) } }
  else s

/-- Fault 27: the die temperature left the range of the calibration sets, and came back by 2 °C (R155). -/
def State.fault27 (s : State) : State :=
  let t := s.dieNow
  if t < -640 ∨ 1680 < t then s.cond 27 true else if -608 ≤ t ∧ t ≤ 1648 then s.cond 27 false else s

/-- A new die-temperature result (R136); it is also taken by the evaluation of SF5, and moves
fault 27 (R155). -/
def State.dieEnd (s : State) (r : AuxRes) (d : Rat) (clk : Nat) : State :=
  let s := s.dieHold clk
  if r.ovr then
    let v : Int := if d < 0 then -880 else 2560
    State.fault27 { s with aux := { s.aux with dieClamp := some v, dieNew := some v } }
  else State.fault27 { s with aux := { s.aux with die := some r.v, dieNew := some r.v } }

/-! ### The end of a sequence conversion (R137, R138) -/

/-- XLAST shows a result that gets no comparison (R146). -/
def State.xNone (s : State) (c : Conv) (cell : Nat) : State := s.set AUXCTL.XLAST (cell + 1 + (match c with | .a => 0 | .b => 128) + 256)

/-- Hold a round-robin result for its comparison, at most 16 (R146). -/
def State.xHold (s : State) (c : Conv) (cell clk osr : Nat) (r : AuxRes) : State :=
  if s.usedB AUXCTL.XCFG.EN = false then s
  else if r.ovr || r.na || !s.bit CELLCFG.CTRL.FINEEN then s.xNone c (cell - 1)
  else
    let x := s.conv c
    let centre := s.absClk clk - osr / 2
    let w : XWait := { cell := cell - 1, v := r.v, at4 := 4 * centre + s.get2 CELLCFG.GDLY0, centre := centre, bad := false }
    let l := x.waits ++ [w]
    let s := if 16 < l.length then s.evt AUXCTL.EVT.XDROP else s
    s.setConv c { x with waits := if 16 < l.length then l.drop 1 else l }

/-! ### Urgent entries (R139 to R142) -/

/-- The urgent entry begins: a running sequence conversion is abandoned (R140). -/
def State.urgStart (s : State) (c : Conv) (q : UrgReq) : State :=
  let x := s.conv c
  let ab := x.busy
  let s := if ab then (s.evt (c.fld AUXA.EVT.ABANDON)).inc (c.fld AUXA.ABNCNT) else s
  let s := s.urgMeets q.word
  (s.setConv c { x with urg := some q, busy := false, rsm := x.rsm || ab }).auxStatus c (s.bit (c.fld AUXA.STATUS.QWAIT)) true

/-- The running sequence conversion finishes before an urgent entry: OSR 2,048 or 4,096, past its settling
time (R140). Whether it is past is free: the request carries no clock. -/
def State.longRun (s : State) (c : Conv) : Bool :=
  let x := s.conv c
  x.busy && (match x.todo with | i :: _ => decide (5 ≤ eOsr (s.itemWord x i)) | [] => false) && Config.settled s.free

/-- A request reaches converter `c` (R139): it starts, waits, displaces, or is not accepted. -/
def State.urgRequest (s : State) (c : Conv) (q : UrgReq) : State :=
  let x := s.conv c
  match x.urgPend with
  | some p =>
    if q.who < p.who ∧ q.who ≠ 3 then ((s.setConv c { x with urgPend := some q }).evt AUXCTL.EVT.URGDISP).auxStatus c (s.bit (c.fld AUXA.STATUS.QWAIT)) true
    else if q.who = 3 then s.evt AUXCTL.EVT.URGREJ else s
  | none =>
    if x.urg.isSome || s.longRun c then (s.tick.setConv c { x with urgPend := some q }).auxStatus c (s.bit (c.fld AUXA.STATUS.QWAIT)) true
    else s.tick.urgStart c q

/-- The converter that runs a sentinel confirmation, none while it must wait (R139). -/
def State.confConv (s : State) : Option Conv :=
  if s.auxOn .a && !s.auxCal .a then some .a
  else if s.auxOn .b && !s.auxCal .b then some .b
  else if s.auxCal .a then none else some .a

/-- Move the lowest waiting cells of the sentinel latch to a converter while its urgent entry has room (R139). -/
def State.confFeedN : Nat → State → State
  | 0, s => s
  | fuel + 1, s =>
    match s.confConv, s.aux.latch with
    | some c, (cell, ov) :: l =>
      let w : Word := BitVec.ofNat 16 (1 + 4 * cell + 256 * s.used AUXCTL.XCFG.CONFOSR)
      let free := match (s.conv c).urgPend with | some p => decide (p.who ≠ 1) | none => true
      if free then State.confFeedN fuel (({ s with aux := { s.aux with latch := l } }).urgRequest c ⟨1, w, ov⟩) else s
    | _, _ => s

/-- As many as the converter takes: one running, one pending. -/
def State.confFeed (s : State) : State := State.confFeedN 2 s

/-- Insert a tripped cell (1 to 36) into the sentinel latch in ascending cell order (R139). -/
def insLatch (p : Nat × Bool) : List (Nat × Bool) → List (Nat × Bool)
  | [] => [p]
  | q :: l => if p.1 < q.1 then p :: q :: l else q :: insLatch p l

/-- A sentinel trip of cell `cell` requests its confirmation (R139). -/
def State.confRequest (s : State) (cell : Nat) (ov : Bool) : State :=
  ({ s with aux := { s.aux with latch := insLatch (cell, ov) s.aux.latch } }).confFeed

/-- A converter under calibration sends its requests to the other (R149). -/
def State.urgRoute (s : State) (c : Conv) : Conv := if s.auxCal c then c.other else c

/-- The safety processor's request (R139, R263): single cell or span, OSR 256. -/
def State.procRequest (s : State) (c : Conv) (ty sel : Nat) : State :=
  s.urgRequest (s.urgRoute c) ⟨2, BitVec.ofNat 16 (ty + 4 * sel + 512), false⟩

/-- The bound of R141 on an urgent conversion at OSR 256 of converter `c`, in modulator clocks: start-up, the running sequence
conversion, the requests ahead, settling with the SETTLE in effect (R486) and conversion. A pending host request is not ahead of
the processor's, which displaces it (R139). -/
def State.urgBound (s : State) (c : Conv) : Nat :=
  let x := s.conv c
  let settle := if x.passOn then x.settle else s.used (c.fld AUXA.SETTLE)
  let one := fun (q : Option UrgReq) => match q with | some q => settle + auxOsr (eOsr q.word) | none => 0
  let seq := if s.longRun c then (match x.todo with | i :: _ => auxOsr (eOsr (s.itemWord x i)) | [] => 0) else if x.busy then 2 else 0
  (if s.bit (c.fld AUXA.STATUS.PWR) then 0 else 99) + seq + one x.urg + one (x.urgPend.filter (fun q => q.who != 3)) + settle + 256

/-- The converter for a processor confirmation: AUX-B unless it is disabled, under calibration or has the longer bound (R263). -/
def State.procConv (s : State) : Conv :=
  if !s.auxOn .b || s.auxCal .b then .a
  else if s.auxOn .a && !s.auxCal .a && decide (s.urgBound .a < s.urgBound .b) then .a else .b

/-- After a conversion: a pending urgent entry follows at once, then the sentinel latch is served, else the sequence goes on
(R139, R140). -/
def State.auxNext (s : State) (c : Conv) (clk : Nat) : State :=
  let x := s.conv c
  let s := match x.urgPend with | some p => (s.setConv c { x with urgPend := none }).urgStart c p | none => s
  let s := s.confFeed
  if (s.conv c).urg.isSome then s else State.advance 40 s c clk

/-- The running item of converter `c` ends at clock `clk` with decimator value `d`: result, record, and what
the channel feeds (R137, R138, R143, R145). Its tag is that of the present LTC, 0 in tread 0 before the LTC is resumed (DESIGN CHOICE,
log 165). The sequence then moves on; RRPOS advances unless it was written meanwhile. -/
def State.seqEnd (s : State) (c : Conv) (d : Rat) (clk : Nat) : State :=
  let x := s.conv c
  match x.todo with
  | [] => s
  | i :: l =>
    let w := s.itemWord x i
    let r := s.auxConvert c w d
    let s := if i < 16 then s.setPair ((c.fld AUXA.RES0A).plus (2 * i)) r false x.rsm
      else if i = 16 then s.setPair (c.fld AUXA.SHRES0) r false x.rsm else s
    let s := if r.ovr then s.evt (c.fld AUXA.EVT.OVR) else s
    let s := s.addAux c (auxRecord s.tm.stn clk i w r false x.rsm s.tagNow)
    let s := if w.toNat % 256 = 0xC0 then s.dieEnd r d clk else s
    let s := if i = 16 then s.sharedEnd c r else s
    let s := if eType w = 3 then
        let n := x.rr.getD (s.rrCell c)
        (if x.rrSet then s else s.set (c.fld AUXA.RRPOS) (if s.count ≤ n then 1 else n + 1)).xHold c n clk (auxOsr (eOsr w)) r
      else s
    let s := s.setConv c { s.conv c with todo := l, rsm := false, busy := false, rr := none }
    (if x.passOn && l.isEmpty then s.passEnd c clk else s).auxNext c clk

/-- Switch `n` is held off by a running urgent conversion of either converter (R142). -/
def State.urgHolds (s : State) (n : Nat) : Bool :=
  [s.aux.a, s.aux.b].any (fun x => match x.urg with | some q => (urgSwitches q.word).contains n | none => false)

/-- The urgent conversion of `c` ends at clock `clk`: URGRES, URGINFO, the record; then the next request or
the sequence (R140, R142). Answers the request and its result for the safety processor. -/
def State.urgEnd (s : State) (c : Conv) (d : Rat) (clk : Nat) : State × Option (UrgReq × AuxRes) :=
  let x := s.conv c
  match x.urg with
  | none => (s, none)
  | some q =>
    let r := s.auxConvert c q.word d
    let na : AuxRes := if s.passedOver q.word then ⟨0, false, true⟩ else r
    let s := (s.setPair (match c with | .a => AUXCTL.URGRESA0 | .b => AUXCTL.URGRESB0) na (s.auxCal c) false).set
      (match c with | .a => AUXCTL.URGINFOA | .b => AUXCTL.URGINFOB) (q.who + 4 * (q.word.toNat % 256))
    let s := if na.ovr then s.evt (c.fld AUXA.EVT.OVR) else s
    let s := s.addAux c (auxRecord s.tm.stn clk 18 q.word na (s.auxCal c) false s.tagNow)
    let s := if q.word.toNat % 256 = 0xC0 then s.dieEnd na d clk else s
    ((s.setConv c { s.conv c with urg := none }).auxNext c clk, some (q, na))

/-! ### Cross-comparison (R146, R147) -/

/-- Fault 18, XLIVE from XFAIL (R147). -/
def State.fault18 (s : State) : State :=
  let b := s.anyV AUXCTL.XFAIL0 36
  (s.cond 18 b).setB AUXCTL.STATUS.XLIVE b

/-- The oldest waiting comparison of converter `c`, once the later fine result around it is posted. -/
def State.crossCompare (s : State) (c : Conv) : State :=
  let x := s.conv c
  match x.waits with
  | [] => s
  | w :: l =>
    if s.bit CELLCFG.CTRL.FINEEN = false then (s.setConv c { x with waits := l }).xNone c w.cell
    else if 4 * s.cells.fineAt < w.at4 then s
    else
      let s := s.setConv c { x with waits := l }
      let p0 := look s.cells.prev w.cell
      let p1 := look s.cells.fine w.cell
      let bad := fun (r : Res) => r.ovr || r.nbr || r.stale || decide (r.unc = 15)
      let restarted := decide (w.centre < (look s.cells.chains w.cell).start)
      let side := match c with | .a => 0 | .b => 128
      if w.bad || bad p0 || bad p1 || restarted || decide (w.at4 < 4 * s.cells.prevAt) || decide (s.cells.fineAt ≤ s.cells.prevAt) then
        s.xNone c w.cell
      else
        let fr : Rat := ((w.at4 - 4 * s.cells.prevAt : Nat) : Rat) / ((4 * (s.cells.fineAt - s.cells.prevAt) : Nat) : Rat)
        let p : Rat := (p0.v : Rat) + ((p1.v - p0.v : Int) : Rat) * fr
        let d : Rat := (w.v : Rat) - p
        let k := min 14 (max p0.unc p1.unc)
        let lim : Rat := ((s.used AUXCTL.XLIM + 150 * 2 ^ k : Nat) : Rat)
        let mis := decide (lim < d) || decide (d < -lim)
        let n := s.used AUXCTL.XCFG.N
        let m := if mis then look s.aux.xMis w.cell + 1 else 0
        let o := if mis then 0 else look s.aux.xOk w.cell + 1
        let s := { s with aux := { s.aux with xMis := put s.aux.xMis w.cell m, xOk := put s.aux.xOk w.cell o } }
        let s := if n ≤ m then s.setV AUXCTL.XFAIL0 w.cell true else if n ≤ o then s.setV AUXCTL.XFAIL0 w.cell false else s
        let s := (s.set AUXCTL.XLAST (w.cell + 1 + (if mis then 64 else 0) + side)).setS AUXCTL.XLASTD (roundRat d)
        let s := s.inc AUXCTL.XCNT
        (if mis then (s.inc AUXCTL.XMISCNT).evt AUXCTL.EVT.XMIS else s).fault18

end Sys2Proof.Machine
end

