-- ==== Sys2Proof/Machine/Calib.lean ====
section
/-! DEFINITION. Calib.lean: the calibration run, SYSZERO, the reference trio, coefficient slots, the
coefficient check and the ageing monitor (07). -/
namespace Sys2Proof.Machine

/-! ### Health (R173, R174, R179) -/

/-- The faults shown in HEALTH.STATUS (R179). -/
def State.healthStatus (s : State) : State :=
  s.set ⟨0x1B, 0x02, 0, 4⟩ ((if s.holds 17 then 1 else 0) + (if s.holds 60 then 2 else 0) + (if s.holds 61 then 4 else 0) + (if s.holds 62 then 8 else 0))

/-- HEALTH.EVT bits WIDEN, GUARD, RATEREC (R179). -/
def hWIDEN : Fld := ⟨0x1B, 0x03, 0, 1⟩
def hGUARD : Fld := ⟨0x1B, 0x03, 1, 1⟩
def hRATEREC : Fld := ⟨0x1B, 0x03, 2, 1⟩

/-- Store a HEALTH value with its event on a change, and the LTC of the update (R179). -/
def State.healthSet (s : State) (f : Fld) (v : Nat) (ev : Option Fld) : State :=
  let old := s.get f
  let s := (s.set f v).set3 HEALTH.LTC0 s.tm.ltc
  match ev with
  | some e => if old = s.get f then s else s.evt e
  | none => s

/-- R159's limits of a channel: offset in its LSB, gain in 0.01 ppm. -/
def fieldLimit (ch : Nat) : Int × Int :=
  if ch < 36 then (500, 100000)
  else if ch < 38 then (1250, 100000)
  else
    let k := (ch - 38) % 9
    if k = 1 then (1000, 200000) else if k = 6 then (1398, 200000) else if k = 8 then (100, 200000) else (1000, 200000)

/-- W_ch of field deltas in LSB and 0.01 ppm (R174). -/
def wChOf (ch : Nat) (o g : Int) : Nat :=
  let l := fieldLimit ch
  let le := fun (p : Nat) => decide ((o.natAbs : Int) * 100 ≤ l.1 * p ∧ (g.natAbs : Int) * 100 ≤ l.2 * p)
  if le 30 then 0 else if le 60 then 1 else 2

/-- Publish the W_ch of every channel (HEALTH.WCH0–13, DRIFTCH); of several with the largest, DRIFTCH shows the lowest index
(DESIGN CHOICE, log 158). -/
def State.publishWch (s : State) : State :=
  let w := fun ch => (look s.cal.chans ch).wch
  let s := forEach (List.range 56) (fun ch s => s.healthSet { HEALTH.WCH0 with word := 0x15 + ch / 4, lo := ch % 4 * 4, w := 4 } (w ch) (some hWIDEN)) s
  let best := (List.range 56).foldl (fun b ch => if w b < w ch then ch else b) 0
  s.set HEALTH.DRIFTCH best

/-! ### Slots (R167, R168, R169) -/

/-- The newer of two slots; of equal numbers, slot A. (DESIGN CHOICE, log 157) -/
def newerSlot (a b : Option CalSlot) : Option CalSlot :=
  match a, b with
  | some x, some y => if x.seq < y.seq then some y else some x
  | some x, none => some x
  | none, y => y

/-- The newest valid slot of the vault and of the flash, and whether it lies in the vault; a flash slot counts before a vault slot only
with a higher number (R167). (DESIGN CHOICE, log 157) -/
def State.newestSlot (s : State) : Option (CalSlot × Bool) :=
  let v := newerSlot s.vault.slotA s.vault.slotB
  let f := if s.fl.usable then newerSlot s.fl.slotA s.fl.slotB else none
  match v, f with
  | some x, some y => if x.seq < y.seq then some (y, false) else some (x, true)
  | some x, none => some (x, true)
  | none, some y => some (y, false)
  | none, none => none

/-- The content a commit writes: the coefficients' targets with sequence number `n` (R167). -/
def State.slotContent (s : State) (n : Nat) (image : Option CfgImage) : CalSlot :=
  { seq := n, ltc := s.tm.ltc, lastLtc := s.get3 CAL.LASTLTC0, lastTemp := s.reg CAL.LASTTEMP.addr,
    chans := (List.range 56).foldl (fun (m : SMap SlotChan) ch =>
      let c := look s.cal.chans ch
      put m ch { o := c.delta.o1 / 256, g := c.delta.g1 / 256, temp := c.temp, dacx := c.dacx, acc := c.acc }) [],
    ouA := (look s.cal.trims 36).o1 / 256, ouB := (look s.cal.trims 37).o1 / 256,
    szA := s.cal.szFlagA, szB := s.cal.szFlagB, image := image }

/-- The image a commit carries on: that of the slot in use (R442). -/
def State.keptImage (s : State) : Option CfgImage := match s.cal.slot with | some sl => sl.image | none => none

/-- The image the next commit writes: that of a PERSIST or UNPERSIST in wait, else the kept one (R442). The vault slots
hold none. -/
def State.commitImage (s : State) (toVault : Bool) : Option CfgImage :=
  if toVault then none else match s.cfg.persist with | some i => i | none => if s.vault.wipe then none else s.keptImage

/-- STATUS.PIMG: the slot in use holds an image (R456). -/
def State.pimg (s : State) : State := s.setB CFGGUARD.STATUS.PIMG s.keptImage.isSome

/-- A commit that a PERSIST or UNPERSIST waited for has ended (R442); an image that found no flash is not stored. -/
def State.persistDone (s : State) (toVault ok : Bool) : State :=
  match s.cfg.persist with
  | none => s
  | some i =>
    let s := { s with cfg := { s.cfg with persist := none } }
    if ok && !(toVault && i.isSome) then s.evt CFGGUARD.EVT.PDONE else s.evt CFGGUARD.EVT.PFAIL

/-- Apply a slot's content; with `ramp` its deltas come in by R163 (R167). -/
def State.applySlot (s : State) (sl : CalSlot) (fromVault ramp : Bool) : State :=
  let n := s.get CAL.RAMP
  let mv := fun (r : Ramp) (o g : Int) => if ramp then r.to (256 * o) (256 * g) n else Ramp.at (256 * o) (256 * g)
  let chans := (List.range 56).foldl (fun (m : SMap CalChan) ch =>
    let e := look sl.chans ch
    let c := look s.cal.chans ch
    put m ch { c with delta := mv c.delta e.o e.g, temp := e.temp, dacx := e.dacx, wch := wChOf ch e.o e.g }) s.cal.chans
  let ou := fun (ch : Nat) (v : Int) => mv (look s.cal.trims ch) v ((look s.cal.trims ch).g1 / 256)
  let trims := put (put s.cal.trims 36 (ou 36 sl.ouA)) 37 (ou 37 sl.ouB)
  let s := { s with cal := { s.cal with chans := chans, trims := trims, szAccA := sl.szA, szAccB := sl.szB, szFlagA := sl.szA, szFlagB := sl.szB, slot := some sl, slotVault := fromVault } }
  (((((s.set3 CAL.LASTLTC0 sl.lastLtc).set CAL.LASTTEMP sl.lastTemp.toNat).set2 CAL.SLOTSEQ0 sl.seq).setB CAL.STATUS.SLOTSRC fromVault).set CAL.STATUS.NOSLOT 0).publishWch.pimg

/-- Write slot content to the slot that does not hold the newest sequence number (R168); a failed write
leaves that slot without a valid CRC. `toVault` says where. -/
def State.writeSlot (s : State) (sl : CalSlot) (toVault ok : Bool) : State :=
  let newA := fun (a b : Option CalSlot) => match a, b with | some x, some y => decide (y.seq ≤ x.seq) | some _, none => true | none, _ => false
  let v := if ok then some sl else none
  if toVault then
    if newA s.vault.slotA s.vault.slotB then { s with vault := { s.vault with slotB := v } }
    else { s with vault := { s.vault with slotA := v } }
  else
    if newA s.fl.slotA s.fl.slotB then { s with fl := { s.fl with slotB := v } }
    else { s with fl := { s.fl with slotA := v } }

/-- The sequence number that the next commit takes. -/
def State.slotSeq (s : State) : Nat := (match s.newestSlot with | some (x, _) => x.seq | none => 0) + 1

/-- A slot has been written and read back: on success it is the slot in use (R168). -/
def State.slotWritten (s : State) (sl : CalSlot) (toVault ok : Bool) : State :=
  if ok then
    let s := { s with cal := { s.cal with slot := some sl, slotVault := toVault } }
    let s := if toVault then { s with vault := { s.vault with commitLtc := some s.tm.ltc } } else s
    ((((s.set2 CAL.SLOTSEQ0 sl.seq).setB CAL.STATUS.SLOTSRC toVault).evt CAL.EVT.COMMIT).pimg).persistDone toVault true
  else (s.evt CAL.EVT.COMMITFAIL).persistDone toVault false

/-- One commit (R168): content with sequence number n + 1. -/
def State.commitSlot (s : State) (image : Option CfgImage) (toVault ok : Bool) : State :=
  let sl := s.slotContent s.slotSeq image
  (s.writeSlot sl toVault ok).slotWritten sl toVault ok

/-- The flash has something to do that comes before a calibration commit (R412): an operation or a record in progress, an
anchor, or a record that may be written. -/
def Flash.busy (f : Flash) : Bool :=
  f.op.isSome || f.cur.isSome || f.anchDue || (match f.wait with | [] => false | d :: _ => d.closing || decide (2 ≤ f.erased))

/-- A commit to the flash begins: the older slot is erased, and the new content waits for its read-back (R168). -/
def State.slotBegin (s : State) (crcOk : Bool) : State :=
  let sl := s.slotContent s.slotSeq (s.commitImage false)
  let s := s.writeSlot sl false false
  { s with fl := { s.fl with op := some (.slot crcOk), slotNew := some (sl, s.cfg.persist) },
           cfg := { s.cfg with persist := none }, cal := { s.cal with commitDue := false } }

/-- The commit in the flash has ended (R168); one that succeeds leaves no image of before a life-cycle commit, which ends the pending
wipe (R453, R454). -/
def State.slotDone (s : State) (ok : Bool) : State :=
  match s.fl.slotNew with
  | none => s
  | some (sl, p) =>
    let later := s.cfg.persist
    let s := { s with fl := { s.fl with slotNew := none }, cfg := { s.cfg with persist := p } }
    let s := (s.writeSlot sl false ok).slotWritten sl false ok
    { s with cfg := { s.cfg with persist := later }, vault := { s.vault with wipe := s.vault.wipe && !ok } }

/-- A vault commit is allowed: 604,800,000 treads since the last (R169). -/
def State.vaultFree (s : State) : Bool :=
  match s.vault.commitLtc with | some t => decide (t + 604800000 ≤ s.tm.ltc) | none => true

/-! ### The run (R157 to R163) -/

/-- The correctable channels of group `g` (R157). -/
def groupChans (g : Nat) : List Nat :=
  if g < 9 then [g, g + 9, g + 18, g + 27] else if g = 9 then [36, 37]
  else (List.range 9).map (fun k => 38 + 9 * (g - 10) + k)

/-- Fault 24 from REJMAP (R159). -/
def State.fault24 (s : State) : State := s.cond 24 (s.anyV CAL.REJMAP0 56)

/-- Of feedback-DAC elements `i` and `j`, `i` is excluded before `j`: the larger deviation first (R158). (DESIGN CHOICE, log 138) -/
def dacBefore (m : List Int) (i j : Nat) : Bool :=
  let a := (m.getD i 0).natAbs
  let b := (m.getD j 0).natAbs
  decide (b < a) || (decide (a = b) && (decide (Config.dacRank i < Config.dacRank j) || (decide (Config.dacRank i = Config.dacRank j) && decide (i < j))))

/-- DACX of the two elements, 0 to 17, with the largest mismatch, the larger in [4:0] (R158, R178). (DESIGN CHOICE, log 138) -/
def dacPick (m : List Int) : Nat :=
  let best := fun (l : List Nat) => l.foldl (fun b i => if dacBefore m i b then i else b) (l.headD 0)
  let x := best (List.range 18)
  x + 32 * best ((List.range 18).filter (· ≠ x))

/-- The standard of tread q = 2 in the channel's LSB: 4.000 V for a cell, 80 mV for a current, each 4,000,000 LSB; the kind's span, as
measured, for an auxiliary kind (R158). -/
def CalMeas.standard (m : CalMeas) : Int := if m.ch.val < 38 then 4000000 else m.stdVal

/-- Judge one channel's measurements of q = 4 (R159, R160, R171); `dac` is the selection of its tread q = 3. -/
def State.judgeChan (s : State) (m : CalMeas) (tc : Int) (dac : Option Nat) (spread : Nat) : State :=
  let ch := m.ch.val
  let f := s.factory ch tc
  let den := m.std - m.zero
  let o := roundRat ((m.zero : Rat) - (f.1 : Rat) / 256)
  let g := roundRat ((((CalMeas.standard m : Int) : Rat) / (den : Rat) - 1) * 100000000 - (f.2 : Rat) / 256)
  let l := fieldLimit ch
  let c := look s.cal.chans ch
  if den ≠ 0 ∧ (o.natAbs : Int) ≤ l.1 ∧ (g.natAbs : Int) ≤ l.2 then
    let d := if ch < 38 then dac.getD c.dacx else 0
    let c := { c with delta := c.delta.to (256 * o) (256 * g) (s.get CAL.RAMP), temp := some tc, dacx := d, acc := true, resO := m.resOfs, resG := m.resGain, spread := spread, wch := wChOf ch o g }
    let s := { s with cal := { s.cal with chans := put s.cal.chans ch c } }
    let s := match s.cal.run with | some r => { s with cal := { s.cal with run := some { r with acceptedAny := true } } } | none => s
    ((s.setV CAL.REJMAP0 ch false).fault24).publishWch
  else
    let c := { c with resO := m.resOfs, resG := m.resGain, spread := spread }
    let s := { s with cal := { s.cal with chans := put s.cal.chans ch c } }
    (((s.inc CAL.REJCNT).setV CAL.REJMAP0 ch true).evt CAL.EVT.REJECT).fault24

/-- The engine's work in the present tread of a run (R158): q = 2 records the calibration temperature, q = 3 chooses the
elements, q = 4 brings the measurements that are judged when the tread has ended unslipped (R160). (DEDUCED, log 62) -/
def State.groupTread (s : State) (meas : List CalMeas) : State :=
  match s.cal.run with
  | none => s
  | some r =>
    if r.dead || r.slip then s
    else
      let g := r.t / 4
      let mine := meas.filter (fun m => decide (m.ch.val ∈ groupChans g) && s.calNow m.ch.val)
      let r := match r.t % 4 with
        | 1 => { r with temps := (groupChans g).foldl (fun (m : SMap Int) ch => put m ch s.cells.dieTemp) r.temps }
        | 2 => { r with dac := mine.foldl (fun (d : SMap (Option Nat)) m => if m.ch.val < 38 then put d m.ch.val (some (dacPick m.elems)) else d) r.dac }
        | 3 => { r with meas := mine }
        | _ => r
      { s with cal := { s.cal with run := some r } }

/-- A group whose tread q = 4 ends here is judged, unless it was discarded or the run is aborted (R159 to R161, R163). -/
def State.groupEnd (s : State) : State :=
  match s.cal.run with
  | none => s
  | some r =>
    if r.t % 4 ≠ 3 ∨ r.slip = true ∨ r.dead = true ∨ s.cal.abortReq = true then s
    else
      let s := forEach r.meas (fun m s => s.judgeChan m (look r.temps m.ch.val) (look r.dac m.ch.val) r.spread) s
      match s.cal.run with
      | some r => { s with cal := { s.cal with run := some { r with meas := [] } } }
      | none => s

/-- The channel values held over a group (R162), taken before its first tread: the raw value from the chain, or from the
snapshot while the chain is not yet settled after a restart. (DEDUCED, log 51) -/
def State.takeHold (s : State) (ch : Nat) : State :=
  let r := s.osr / 2
  let c := look s.cells.chains ch
  let k := s.coeffs ch s.cells.dieTemp true
  let raw : Rat := if c.primed then (c.hist.getD 0 0 : Rat) / ((r ^ 3 : Nat) : Rat) else ((look s.cells.snap ch).v : Rat) / (1 + k.2) + k.1
  { s with cells := { s.cells with holdSnap := put s.cells.holdSnap ch (look s.cells.snap ch), holdFine := put s.cells.holdFine ch (look s.cells.fine ch), holdRaw := put s.cells.holdRaw ch (roundRat raw) } }

/-- STALE on every result of a converter whose calibration begins; the running conversion is dropped, and a pending urgent
request goes to the other converter, a sentinel's back to the latch (R139, R149). STATUS.PWR stays as it stood (DESIGN CHOICE, log
177). -/
def State.auxHalt (s : State) (c : Conv) : State :=
  let st := fun (f : Fld) (s : State) => s.set { f with lo := 10, w := 1 } 1
  let s := forEach (List.range 16) (fun i s => st ((c.fld AUXA.RES0A).plus (2 * i + 1)) s) s
  let s := st ((match c with | .a => AUXCTL.URGRESA0 | .b => AUXCTL.URGRESB0).plus 1) (st (c.fld AUXA.SHRES1) s)
  let x := s.conv c
  let sh := match x.shared with | some p => some (p.1, p.2.1, true) | none => none
  let s := (s.setConv c { x with busy := false, wasCal := true, urgPend := none, shared := sh }).set (c.fld AUXA.STATUS.CAL) 1
  match x.urgPend with
  | none => s
  | some q => if q.who = 1 then s.confRequest (eSel q.word) q.ov else s.urgRequest c.other q

/-- The end of a converter's calibration: the confirmations that waited run first, and the sequence resumes (R139, R149). -/
def State.auxResume (s : State) (c : Conv) : State :=
  let x := s.conv c
  let s := (s.setConv c { x with wasCal := false }).set (c.fld AUXA.STATUS.CAL) 0
  let s := s.confFeed
  if (s.conv c).urg.isSome then s else State.advance 40 s c 0

/-- A run's end (R161): a completed full-scope run loads LASTLTC and LASTTEMP, `ltc` being that of its last tread; the tread
after that one is the end R164 counts from. -/
def State.runEnd (s : State) (r : CalRun) (completed : Bool) (ltc : Nat) : State :=
  let s := { s with cal := { s.cal with run := none, commitDue := s.cal.commitDue || r.acceptedAny, rejEnd := if s.anyV CAL.REJMAP0 56 then some (ltc + 1) else s.cal.rejEnd } }
  if !completed then s
  else
    let s := (s.inc CAL.RUNCNT).evt CAL.EVT.DONE
    if r.scope = 15 then
      let s := (s.set3 CAL.LASTLTC0 ltc).set CAL.LASTTEMP (twos 16 s.cells.dieTemp)
      ({ s with cal := { s.cal with fullDone := true, dueSince := none } }).cond 25 false
    else s

/-- Calibration is due (R164). -/
def State.calDue (s : State) : Bool :=
  let lt := s.get CAL.LASTTEMP
  !s.cal.fullDone ||
  (decide (lt ≠ 0x8000) && decide ((16 * s.get CAL.AUTO_DT : Int) < (s.cells.dieTemp - signed 16 lt).natAbs)) ||
  decide (s.get CAL.INTERVAL * 3600000 ≤ s.tm.ltc - s.get3 CAL.LASTLTC0)

/-- STATUS of the CAL page as the engine stands; a group outside SCOPE is skipped and is no group in progress (R157,
R177). -/
def State.calStatus (s : State) : State :=
  let rp := (List.range 56).any (fun ch => decide ((look s.cal.chans ch).delta.j < (look s.cal.chans ch).delta.n)) ||
    (List.range 38).any (fun ch => decide ((look s.cal.trims ch).j < (look s.cal.trims ch).n))
  ((((s.setB CAL.STATUS.BUSY s.cal.run.isSome).setB CAL.STATUS.SZBUSY s.cal.sz.isSome).setB CAL.STATUS.RAMP rp).set
    CAL.STATUS.GROUP (match s.cal.run with | some r => if r.scope.testBit (scopeBit (r.t / 4)) then r.t / 4 + 1 else 0 | none => 0)).setB CAL.STATUS.VDEFER s.cal.deferred

/-- The values held over a group were formed before a reload: they carry class 15 (R170). (DEDUCED, log 63) -/
def State.heldUnsure (s : State) : State :=
  let f := fun (m : SMap Res) => (List.range 38).foldl (fun (m : SMap Res) ch => adj m ch (fun r => { r with unc := 15 })) m
  { s with cells := { s.cells with holdSnap := f s.cells.holdSnap, holdFine := f s.cells.holdFine } }

/-- The factory and slot reload of R170, within the tread after the mismatch; a commit deferred or due is lost with its values, a
PERSIST in wait is not. (DEDUCED, log 63) -/
def State.reload (s : State) : State :=
  if s.cal.vaultBad then s
  else
    let s := { s with cal := { s.cal with chans := (List.range 56).foldl (fun (m : SMap CalChan) ch => adj m ch (fun c => { c with delta := Ramp.at 0 0, temp := none, dacx := 0, acc := false, wch := 0 })) s.cal.chans, trims := [], reloadDue := false, suspect := false, fullDone := false, deferred := false, commitDue := s.cfg.persist.isSome, szAccA := false, szAccB := false, szFlagA := false, szFlagB := false } }
    let s := match s.newestSlot with | some (sl, v) => s.applySlot sl v false | none => s.set CAL.STATUS.NOSLOT 1 |>.publishWch
    (s.cond 26 false).calStatus

/-- Advance the run at master clock 0: abort, next tread, end, start (R157, R161); `ltc` is that of the tread
that has just ended. -/
def State.runTread (s : State) (ltc : Nat) : State :=
  let s := match s.cal.run with
    | none => s
    | some r =>
      if s.cal.abortReq then (s.runEnd r false ltc).evt CAL.EVT.ABORTED
      else if r.dead then (s.runEnd r false ltc).occur 24
      else if r.t = 47 then s.runEnd r (!r.slipped && !r.slip) ltc
      else
        let r' := { r with t := r.t + 1, slip := if (r.t + 1) % 4 = 0 then false else r.slip, slipped := r.slipped || r.slip, meas := [] }
        { s with cal := { s.cal with run := some r' } }
  let s := if s.cal.runReq ∧ s.cal.run = none ∧ s.cal.sz = none then
      { s with cal := { s.cal with run := some { t := 0, scope := s.get CAL.SCOPE, acceptedAny := false, slip := false, slipped := false, dead := false, temps := [], spread := 0, dac := [], meas := [] } } }
    else s
  { s with cal := { s.cal with runReq := false, abortReq := false } }

/-- A SYSZERO at master clock 0: its next tread, or its start (R166). -/
def State.szTread (s : State) : State :=
  let s := match s.cal.sz with
    | some z => { s with cal := { s.cal with sz := if z.t = 255 then none else some { z with t := z.t + 1 } } }
    | none => s
  if s.cal.szReq then { s with cal := { s.cal with szReq := false, sz := if s.cal.run.isSome then none else some { t := 0, accA := [], accB := [], rejA := false, rejB := false } } }
  else s

/-- The calibration engine at master clock 0 of a tread: reload, run, group changes, ramps, due state
(R149, R157, R161 to R164). -/
def State.calTread (s : State) : State :=
  let prev := s.tm.ltc - 1
  let before := s.cal.reloadDue
  let s := if before then s.reload else s
  let s := s.groupEnd
  let s := { s with cal := { s.cal with chans := (List.range 56).foldl (fun (m : SMap CalChan) ch => adj m ch (fun c => { c with delta := c.delta.step })) s.cal.chans, trims := (List.range 38).foldl (fun (m : SMap Ramp) ch => adj m ch Ramp.step) s.cal.trims } }
  let s := s.szTread.runTread prev
  let now := (List.range 38).filter s.calNow
  let s := { s with cal := { s.cal with past := (now :: s.cal.past).take 5 },
                    imp := { s.imp with reconn := now.foldl (fun (m : SMap Nat) ch => put m ch ((s.tm.tread + 1) * 4096)) s.imp.reconn } }
  let s := match s.cal.run with
    | some r => if r.t % 4 = 0 then forEach ((groupChans (r.t / 4)).filter (fun ch => decide (ch < 38) && s.calNow ch)) (fun (ch : Nat) (s : State) => s.takeHold ch) s else s
    | none => s
  let s := if before then s.heldUnsure else s
  let s := forEach [Conv.a, Conv.b] (fun c s =>
    if s.auxCal c ∧ (s.conv c).wasCal = false then s.auxHalt c
    else if s.auxCal c = false ∧ (s.conv c).wasCal = true then s.auxResume c else s) s
  let due := s.calDue
  let s := { s with cal := { s.cal with dueSince := if due then some (s.cal.dueSince.getD s.tm.ltc) else none } }
  (s.setB CAL.STATUS.DUE due).calStatus

/-! ### Rows -/

/-- A write of 1 to CAL.CTRL.RUN (R157). (DEDUCED, log 62) -/
def State.calRun (s : State) : State :=
  if s.cal.run.isSome || s.cal.sz.isSome || s.cal.runReq || s.cal.szReq then s.evt CAL.EVT.REFUSED
  else { s with cal := { s.cal with runReq := true } }

/-- A write of 1 to CAL.CTRL.ABORT: no effect when idle (R161, R177). -/
def State.calAbort (s : State) : State :=
  if s.cal.run.isSome then { s with cal := { s.cal with abortReq := true } } else s

/-- A write of 1 to CAL.CTRL.SYSZERO (R166). -/
def State.sysZero (s : State) : State :=
  if s.cal.run.isSome || s.cal.sz.isSome || s.cal.runReq || s.cal.szReq then s.evt CAL.EVT.REFUSED
  else { s with cal := { s.cal with szReq := true } }

/-- RUN (R157). -/
def execRun (s : State) : Host.Outcome State Fault Refusal := whenActive [.cal] s fun s => s.calRun

/-- CAL_ABORT (R161). -/
def execCalAbort (s : State) : Host.Outcome State Fault Refusal := whenActive [.cal] s fun s => s.calAbort

/-- SYSZERO (R166). -/
def execSyszero (s : State) : Host.Outcome State Fault Refusal := whenActive [.cal] s fun s => s.sysZero

/-- Add a tread's value to the 16 sums of 16 treads (R166). -/
def szAdd (acc : List Int) (t : Nat) (x : Int) : List Int :=
  let acc := if acc.length ≤ t / 16 then acc ++ [0] else acc
  acc.set (t / 16) (acc.getD (t / 16) 0 + x)

/-- x of one channel in a SYSZERO tread: the corrected snapshot with O_u = 0, and whether it rejects (R166). -/
def State.szX (s : State) (ch : Nat) : Int × Bool :=
  let r := look s.cells.snap ch
  let c := s.coeffs ch s.cells.dieTemp false
  let x := roundRat (((((look s.cells.curNum ch : Int)) : Rat) / (251 * 128 * 16) - c.1) * (1 + c.2))
  (x, r.ovr || r.stale || decide ((s.get CAL.SYSZERO_LIM : Int) < x.natAbs))

/-- Accept or reject one channel's 16 means after the last SYSZERO tread (R166). -/
def State.szJudge (s : State) (ch : Nat) (acc : List Int) (rej : Bool) : State :=
  let hi := acc.foldl max (acc.headD 0)
  let lo := acc.foldl min (acc.headD 0)
  if rej || decide ((s.get CAL.SYSZERO_LIM : Int) * 16 < (hi - lo) * 4) then (s.evt CAL.EVT.SZREJ).occur 24
  else
    let m := roundRat ((acc.sum : Rat) / 256)
    let t := look s.cal.trims ch
    let s := { s with cal := { s.cal with trims := put s.cal.trims ch (t.to (256 * m) t.g1 (s.get CAL.RAMP)), commitDue := true } }
    let s := if ch = 36 then { s with cal := { s.cal with szAccA := true, szFlagA := true } } else { s with cal := { s.cal with szAccB := true, szFlagB := true } }
    s.evt CAL.EVT.SZDONE

/-- One SYSZERO tread, after the snapshot image of that tread (R166). -/
def State.sysZeroTread (s : State) : State :=
  match s.cal.sz with
  | none => s
  | some z =>
    let a := s.szX 36
    let b := s.szX 37
    let z := { z with accA := szAdd z.accA z.t a.1, accB := szAdd z.accB z.t b.1, rejA := z.rejA || a.2, rejB := z.rejB || b.2 }
    let s := { s with cal := { s.cal with sz := some z } }
    if z.t = 255 then
      let s := if s.chanOn 36 then s.szJudge 36 z.accA z.rejA else s
      if s.chanOn 37 then s.szJudge 37 z.accB z.rejB else s
    else s

/-- SYSZERO_TREAD (R166). -/
def execSyszeroTread (s : State) : Host.Outcome State Fault Refusal := whenActive [.cal] s fun s => s.sysZeroTread

/-- CAL_GROUP_TREAD (R158 to R162). -/
def execCalGroupTread (meas : List CalMeas) (s : State) : Host.Outcome State Fault Refusal :=
  whenActive [.cal] s fun s => s.groupTread meas

/-- The guard band G of a spread, in ppm, at most 16,000 (R175). -/
def guardOf (spread : Nat) : Nat := min 16000 ((800 * spread + 999) / 1000)

/-- The trio measurement (R152, R153, R174, R175). Whether a run begins with fault 17 live is judged on the measurement of its own
tread 0. (DESIGN CHOICE, log 159) -/
def State.trio (s : State) (a b c : Int) : State :=
  let ab := (a - b).natAbs
  let ac := (a - c).natAbs
  let bc := (b - c).natAbs
  let m := min ab (min ac bc)
  let old := s.get CAL.PAIR
  let d := fun p => if p = 0 then ab else if p = 1 then ac else bc
  let p := if old ≤ 2 ∧ d old = m then old else if ab = m then 0 else if ac = m then 1 else 2
  let std2 := if p = 0 then a + b else if p = 1 then a + c else b + c
  let dev2 := 2 * c - std2
  let spread := min (max ab (max ac bc)) 65535
  let s := ((s.set CAL.SPREAD spread).set CAL.PAIR p).set CAL.REFCDEV (twos 16 (clampI (-32767) 32767 (roundRat ((dev2 : Rat) / 2))))
  let s := (s.cond 17 (decide (s.get CAL.REFPAIR < m))).cond 60 (decide (2500 < dev2.natAbs))
  let s := (s.healthSet HEALTH.SPREAD spread none).healthSet HEALTH.WREF (wRefOf spread) (some hWIDEN)
  let g := max s.cal.guard (guardOf (max ab (max ac bc)))
  let s := (({ s with cal := { s.cal with guard := g } }).healthSet HEALTH.GUARD g (some hGUARD)).senThresholds
  let s := match s.cal.run with
    | some r =>
      if r.t ≠ 0 then s
      else if s.holds 17 then { s with cal := { s.cal with run := some { r with spread := spread, dead := true }, past := s.cal.past.set 0 [] },
                                               imp := { s.imp with reconn := s.imp.reconn.filter (fun e => decide (e.2 ≠ (s.tm.tread + 1) * 4096)) } }
      else { s with cal := { s.cal with run := some { r with spread := spread } } }
    | none => s
  s.healthStatus

/-- The trio is measured in tread 0 of a run and where LTC is a multiple of 1,024 (R153). -/
def State.trioDue (s : State) : Bool :=
  decide (s.tm.ltc % 1024 = 0) || (match s.cal.run with | some r => r.t == 0 | none => false)

/-- CAL_AUTO_START: a due run starts at the next tread when its conditions hold (R164). -/
def execCalAutoStart (s : State) : Host.Outcome State Fault Refusal :=
  whenActive [.cal] s fun s => s.when (s.get CAL.AUTO == 1 && s.calDue && s.cal.run.isNone && s.cal.sz.isNone && !s.cal.szReq && !s.bit CAL.CTRL.HOLD && decide (48 ≤ s.tm.tread) && (match s.cal.rejEnd with | some t => decide (t + 60000 ≤ s.tm.ltc) | none => true)) fun s => { s with cal := { s.cal with runReq := true } }

/-- CAL_OVERDUE (R165). -/
def execCalOverdue (s : State) : Host.Outcome State Fault Refusal :=
  whenActive [] s fun s => s.when (match s.cal.dueSince with | some t => decide (t + 3600000 ≤ s.tm.ltc) | none => false) fun s => s.cond 25 true

/-- SLOT_COMMIT: the commit due begins in the flash when its turn has come (R412), and FLASH_OP_DONE ends it; without a usable flash
it goes to the vault slots, or is deferred by R169. -/
def execSlotCommit (ok : Bool) (s : State) : Host.Outcome State Fault Refusal :=
  whenActive [.cal, .safe, .cfg, .fl, .vault] s fun s => s.when s.cal.commitDue fun s =>
    if s.fl.usable then s.when (!s.fl.busy) fun s => (s.slotBegin ok).setB FLASH.STATUS.BUSY true
    else
      let s := { s with cal := { s.cal with commitDue := false } }
      if s.vaultFree then s.commitSlot none true ok else ({ s with cal := { s.cal with deferred := true } }).calStatus

/-- VAULT_COMMIT_DEFER_END: the deferred commit is performed at the end of the interval (R169), or falls due in a flash that has become
usable. -/
def execVaultCommitDeferEnd (ok : Bool) (s : State) : Host.Outcome State Fault Refusal :=
  whenActive [.cal, .safe, .cfg, .fl, .vault] s fun s => s.when (s.cal.deferred && s.vaultFree) fun s =>
    let s := { s with cal := { s.cal with deferred := false } }
    (if s.fl.usable then { s with cal := { s.cal with commitDue := true } } else s.commitSlot none true ok).calStatus

/-- COEFF_CRC_CHECK: every 16 treads (DESIGN CHOICE, log 133); a mismatch sets fault 26 and reloads within the next tread (R170). -/
def execCoeffCrcCheck (st : CrcState) (s : State) : Host.Outcome State Fault Refusal :=
  whenActive [.cells, .cal, .diag] s fun s => s.when (decide (s.tm.ltc % 16 = 0)) fun s =>
    let s := { s with cal := { s.cal with vaultBad := !st.vaultOk } }
    if st.ramOk then s
    else (({ s with cal := { s.cal with reloadDue := true, suspect := true } }).heldUnsure).cond 26 true

/-- GUARD_VAULT_WRITE (R175). -/
def execGuardVaultWrite (s : State) : Host.Outcome State Fault Refusal :=
  whenActive [.vault] s fun s => s.when (decide (s.vault.guard + 100 ≤ s.cal.guard) || (decide (s.vault.guard < s.cal.guard) && decide (s.vault.guardLtc + 604800000 ≤ s.tm.ltc))) fun s =>
    { s with vault := { s.vault with guard := s.cal.guard, guardLtc := s.tm.ltc } }

/-- HEALTH_POST: STN and HEALTH words 0x08 to 0x25 to Q54 where LTC is a multiple of 1,000 (R173). -/
def execHealthPost (s : State) : Host.Outcome State Fault Refusal :=
  whenActive [.xact] s fun s => s.when (decide (s.tm.ltc % 1000 = 0)) fun s =>
    s.post 54 (leBytes 4 s.tm.stn ++ wordBytes ((List.range 30).map (fun i => s.reg (HEALTH.WREF.plus i).addr)))

/-- A user trim gets a new target by the ramp of R163; an O_u of CSA or CSB that it replaces was not set by SYSZERO (R167). -/
def State.trimTo (s : State) (ch : Nat) (o g : Int) : State :=
  let t := look s.cal.trims ch
  let c := { s.cal with trims := put s.cal.trims ch (t.to o g (s.get CAL.RAMP)) }
  { s with cal := { c with szFlagA := c.szFlagA && !(decide (ch = 36) && decide (t.o1 ≠ o)), szFlagB := c.szFlagB && !(decide (ch = 37) && decide (t.o1 ≠ o)) } }

/-- A write of CALWIN word 0x0C with SET 0x7: the new user trim of the selected channel (R171, R172). -/
def State.trimWrite (s : State) (v : Word) : State :=
  let ch := s.get { CALWIN.SEL with w := 6 }
  if s.get { CALWIN.SEL with lo := 8, w := 4 } ≠ 7 ∨ 37 < ch then s
  else
    let t := look s.cal.trims ch
    let st := fun (i d : Nat) => match look s.staged (CALWIN.OFS0.plus i).addr with | some w => w.toNat | none => d
    let uo := twos 24 (t.o1 / 256)
    let ug := twos 24 (t.g1 / 256)
    let o := signed 24 (st 0 (uo % 65536) + 65536 * (st 1 (uo / 65536) % 256))
    let g := signed 24 (st 2 (ug % 65536) + 65536 * (v.toNat % 256))
    let s := { s with staged := s.staged.filter (fun e => !decide (CALWIN.OFS0.addr ≤ e.1 ∧ e.1 ≤ CALWIN.GAIN0.addr)) }
    if 32767 < o.natAbs ∨ 1000000 < g.natAbs then s.set ⟨0x11, 0x03, 0, 1⟩ 1
    else (s.trimTo ch (256 * o) (256 * g)).calStatus

end Sys2Proof.Machine
end

