-- ==== Sys2Proof/Machine/Imp.lean ====
section
/-! DEFINITION. Imp.lean: the impedance engine: lanes, integrations, the lock-in, temperatures, trends and
the IMPWIN window (08). -/
namespace Sys2Proof.Machine

/-! ### Demodulation -/

/-- The detrended demodulation D_J of samples (index, turns, value): the least-squares line is removed
(R185). Over no sample it has no stated value. -/
def demod (l : List (Nat × Rat × Rat)) : Cx :=
  if l.isEmpty then ⟨Config.lockFree 0, Config.lockFree 1⟩
  else
    let n : Rat := l.length
    let sj : Rat := (l.map (fun p => (p.1 : Rat))).sum
    let sjj : Rat := (l.map (fun p => (p.1 : Rat) * p.1)).sum
    let sx : Rat := (l.map (fun p => p.2.2)).sum
    let sjx : Rat := (l.map (fun p => (p.1 : Rat) * p.2.2)).sum
    let b : Rat := if l.length = 1 then 0 else (n * sjx - sj * sx) / (n * sjj - sj * sj)
    let a : Rat := (sx - b * sj) / n
    Cx.scale (2 / n) (l.foldl (fun acc p => acc.add (Cx.scale (p.2.2 - a - b * p.1) (Cx.turn p.2.1))) ⟨0, 0⟩)

/-- ⌊√n⌋ by digits of two bits, `k` of them. -/
def isqrt : Nat → Nat → Nat
  | 0, _ => 0
  | k + 1, n =>
    let r := 2 * isqrt k (n / 4)
    if (r + 1) * (r + 1) ≤ n then r + 1 else r

/-! ### Lane settings -/

/-- A register of lane `k` (R208). -/
def laneFld (f : Fld) (k : Nat) : Fld := f.plus (4 * k)

/-- N of lane `k` as stored: NLO in use with NHI of CFG (R180, R208). -/
def State.laneN (s : State) (k : Nat) : Nat :=
  s.get (laneFld IMP.LANEkNLO k) + 65536 * s.get (laneFld IMP.LANEkCFG.NHI k)

/-- Lane `k` is enabled. -/
def State.laneEn (s : State) (k : Nat) : Bool := s.bit (laneFld IMP.LANEkCFG.EN k)

/-- The lane's tone is too high for the fine stream (R181). -/
def State.outOfRange (s : State) (k : Nat) : Bool := decide (16 * fsOf (s.used CELLCFG.FINE.OSR) < s.laneN k)

/-- H(f) of the fine chain in use at lane tone `n`, in 1/64 Hz (R188, R190). -/
def State.chainH (s : State) (n : Nat) : Cx := s.fineResp ((n : Rat) / (64 * 4096000))

/-- |H(f)| below 0.01 (R190). -/
def State.attenuated (s : State) (n : Nat) : Bool := decide ((s.chainH n).abs2 < 1 / 10000)

/-- S of R182: nearest whole number, halves up. -/
def samplesOf (m fs n : Nat) : Nat := (2 * (64 * m * fs) + n) / (2 * n)

/-- The own step and whether it is known (R350). -/
def State.step? (s : State) : Option Nat :=
  let u := s.get XACT.POSUP
  let d := s.get XACT.POSDN
  let l := s.get XACT.STAIRLEN
  if 32768 ≤ u then some (u % 256)
  else if 32768 ≤ d ∧ 32768 ≤ l ∧ d % 256 + 1 ≤ l % 512 then some (l % 512 - 1 - d % 256) else none

/-- The device uses its own current channel as reference (R119). -/
def State.localRef (s : State) : Bool := s.step? == some (s.used CURR.SUB.STEP)

/-- Cells a lane measures: those of CELLMAP within COUNT (R180). -/
def State.mapCells (s : State) : List Nat := (List.range 36).filter (fun c => s.vbit IMP.CELLMAP0 c && decide (c < s.count))

/-- Cells the active lane excites (R194): those of EXCMAP that its integration measures, a new CELLMAP acting from the next
integration on (R184). -/
def State.excCells (s : State) : List Nat :=
  let l := look s.imp.lanes (s.get IMP.EXCCFG.ACTLANE)
  (match l.cur with | some i => i.cells | none => s.mapCells).filter (fun c => s.vbit IMP.EXCMAP0 c && decide (c < s.count))

/-- Excitation is suspended for the tread: L below 128 (R197). -/
def State.excOff (s : State) : Bool := decide (s.get { BAL.DERATE with w := 9 } < 128)

/-- The switch of cell n (1 to 36) follows balancing in the present tread (R196). -/
def State.followsBal (s : State) (n : Nat) : Bool := look s.bal.duty n && !s.bit IMP.EXCCFG.EXCPRIO

/-- Excitation is being driven (R208). -/
def State.excDriven (s : State) : Bool := s.excRuns && !s.excOff && s.excCells.any (fun c => !s.followsBal (c + 1))

/-- Switches that no running active lane drives open; excitation starts and stops with the lane's integrations (R194). -/
def State.excTrim (s : State) (t : Nat) : State :=
  let live := if s.excRuns then s.excCells.map (· + 1) else []
  forEach ((List.range 37).filter (fun n => look s.bal.on n == 2 && !live.contains n)) (fun (n : Nat) (s : State) => s.cutSwitch n t) s

/-- Store a lane. -/
def State.setLane (s : State) (k : Nat) (x : ImpLane) : State := { s with imp := { s.imp with lanes := put s.imp.lanes k x } }

/-- LANEkSTAT and STATUS of the IMP page as the engine stands (R208). -/
def State.impStatus (s : State) : State :=
  let s := forEach (List.range 8) (fun k s =>
    let l := look s.imp.lanes k
    let w : Bool := match l.mode with | .armed _ _ => true | .waiting => true | _ => false
    let p : Nat := match l.cur with | some i => if i.size = 0 then 0 else min 255 (256 * i.samples.length / i.size) | none => 0
    let e : Bool := match l.cur with | some i => i.whole | none => s.bit (laneFld IMP.LANEkSTAT.EXACT k)
    let a : Bool := match l.cur with | some i => i.attn | none => s.bit (laneFld IMP.LANEkSTAT.ATTN k)
    s.set (laneFld IMP.LANEkSTAT.word k) ((if s.laneRuns k then 1 else 0) + (if w then 2 else 0) + (if e then 4 else 0) + (if l.range then 8 else 0) + (if a then 16 else 0) + (if s.isActive k then 32 else 0) + 256 * p)) s
  (((((s.setB IMP.STATUS.ANYRUN ((List.range 8).any s.laneRuns)).setB IMP.STATUS.EXC s.excDriven).setB IMP.STATUS.COHLIVE (s.holds 29)).setB IMP.STATUS.EXCLIVE (s.holds 28)).setB IMP.STATUS.TBLLIVE (s.holds 31)).setB IMP.STATUS.BASELINE
    (s.mapCells.any (fun c => decide ((look s.imp.img.trend c).cnt < 64)))

/-- An update behind a frozen window (R210). -/
def State.impNewer (s : State) : State := if s.imp.frozen.isSome then s.set ⟨0x14, 0x02, 1, 1⟩ 1 else s

/-- Every cell's temperature carries NONE until its next update (R203). -/
def State.tempsNone (s : State) : State :=
  if s.imp.img.temps = [] then s else ({ s with imp := { s.imp with img := { s.imp.img with temps := [] } } }).impNewer

/-- Table 0x06 serves (R204), and fault 31. -/
def State.fault31 (s : State) : State :=
  let ok := decide (2 ≤ (s.points 6).length)
  let live := s.bit IMP.TCFG.TEN && !ok
  let s := ((s.cond 31 live).setB IMP.STATUS.TBLOK (!(s.points 6).isEmpty)).setB IMP.STATUS.TBLLIVE live
  if live then s.tempsNone else s

/-- Fault 28 from EXCFAIL; a cell that left EXCMAP has its bit cleared (R198). -/
def State.fault28 (s : State) : State :=
  let s := forEach (List.range 36) (fun c s => if s.vbit IMP.EXCMAP0 c then s else s.setV IMP.EXCFAIL0 c false) s
  let b := s.anyV IMP.EXCFAIL0 36
  (s.cond 28 b).setB IMP.STATUS.EXCLIVE b

/-! ### Starting and aborting (R183, R184) -/

/-- The first fine boundary after clock `c` since tread 0 (R85). -/
def State.nextBoundary (s : State) (c : Nat) : Nat :=
  if s.osr ≤ 4096 then (c / s.osr + 1) * s.osr
  else
    let k := s.osr / 4096
    let t := c / 4096 + 1
    let stn := (s.tm.stn + 4294967296 * k + t - s.tm.tread) % k
    (t + (k - stn) % k) * 4096

/-- A new integration of lane `k` begins; its samples lie after clock `c` since tread 0. A lane whose tone is out of range
stays armed for the next tread (R181). (DEDUCED, log 68) -/
def State.beginInteg (s : State) (k c : Nat) : State :=
  let n := s.laneN k
  let m := s.get (laneFld IMP.LANEkM k)
  let fs := fsOf (s.used CELLCFG.FINE.OSR)
  let h := s.chainH n
  let act := s.isActive k
  let ex := if act then s.mapCells.filter (fun c => s.vbit IMP.EXCMAP0 c) else []
  let mark := fun (p : Nat → Bool) => ex.foldl (fun (x : SMap Bool) c => if p c then put x c true else x) []
  let i : Integ :=
    { startStn := s.tm.stn, startClk := c, first := s.nextBoundary c, h := (h.re, h.im), size := samplesOf m fs n, n := n, m := m,
      str := s.bit (laneFld IMP.LANEkCFG.STR k) && s.usedB CURR.SUB.EN, whole := decide (64 * m * fs % n = 0), osr := s.used CELLCFG.FINE.OSR,
      act := act, attn := s.attenuated n, cells := s.mapCells, samples := [], balc := mark (fun c => s.followsBal (c + 1)), susp := mark (fun _ => s.excOff), vsSum := [], rpSum := [], onSum := [] }
  let l := look s.imp.lanes k
  if s.outOfRange k then
    (s.setLane k { l with range := true, mode := (match l.mode with | .waiting => .waiting | _ => .armed none s.tm.tread) }).excTrim (s.absClk 0)
  else
    let s := s.setLane k { l with range := false, mode := .running, cur := some i }
    if s.excOff && !ex.isEmpty then s.evt IMP.EVT.EXCSUSP else s

/-- IMP_INTEGRATION_START's condition: an armed lane at its tread, or a lane running back to back. -/
def State.startDue (s : State) (k : Nat) : Bool :=
  let l := look s.imp.lanes k
  match l.mode with
  | .idle => false
  | .armed (some t) _ => decide (s.tm.stn = t)
  | .armed none t => decide (t < s.tm.tread)
  | .running => l.cur.isNone
  | .waiting => false

/-- An armed lane begins at master clock 0 of the present tread, a running one after its last sample (R183). -/
def State.integBegin (s : State) (k : Nat) : State :=
  let c := match (look s.imp.lanes k).mode with | .running => (look s.imp.lanes k).last | _ => s.absClk 0
  (s.beginInteg k c).impStatus

/-- A lane whose start is due begins (R183). -/
def State.integStart (s : State) (k : Nat) : State :=
  if s.startDue k = false ∨ s.laneEn k = false then s else s.integBegin k

/-- Arm every enabled lane that is not running (R183). -/
def State.impGo (s : State) : State :=
  let at' := s.get2 IMP.STARTSTN0
  let d := (at' + 4294967296 - s.tm.stn) % 4294967296
  if s.bit IMP.CTRL.STARTAT && !(s.bit TIME.STATUS.STNVALID && decide (2 ≤ d ∧ d ≤ 65535)) then s.evt IMP.EVT.CFGREJ
  else
    let m := LaneMode.armed (if s.bit IMP.CTRL.STARTAT then some at' else none) s.tm.tread
    (forEach (List.range 8) (fun k s => if s.laneEn k && !s.laneRuns k then s.setLane k { look s.imp.lanes k with mode := m } else s) s).impStatus

/-- Abort every running integration (R184); `stop` stops the lanes, other causes let them restart. -/
def State.impAbort (s : State) (stop : Bool) : State :=
  let any := (List.range 8).any s.laneRuns
  let s := forEach (List.range 8) (fun k s =>
    let l := look s.imp.lanes k
    if s.laneRuns k then s.setLane k { l with cur := none, mode := if stop then .idle else .waiting }
    else if stop then s.setLane k { l with mode := .idle } else s) s
  ((if any then (s.inc IMP.ABORTCNT).evt IMP.EVT.ABORT else s).excTrim s.newestClk).impStatus

/-- Aborted lanes restart at the first tread whose STN is divisible by 1,024 with FINEVALID = 1 (R184). -/
def State.impResume (s : State) : State :=
  if s.tm.stn % 1024 = 0 ∧ s.bit CELLCFG.STATUS.FINEVALID = true then
    (forEach (List.range 8) (fun k s => match (look s.imp.lanes k).mode with
      | .waiting => if s.laneEn k then s.beginInteg k (s.absClk 0) else s
      | _ => s) s).impStatus
  else s

/-- EN = 0 stops a lane at once, without a result (R184). -/
def State.laneOff (s : State) (k : Nat) : State :=
  ((s.setLane k { look s.imp.lanes k with mode := .idle, cur := none }).excTrim s.newestClk).impStatus

/-! ### Samples (R185, R188, R192) -/

/-- Clocks of the sample period ending at `b` in which switch `n` (1 to 36) conducted, with the sums of V_S
and R_path over them. -/
def State.conducted (s : State) (n b : Nat) : Nat × Rat × Int :=
  (look s.bal.cond n).foldl (fun (p : Nat × Rat × Int) c =>
    let t := min c.b b - max c.a (b - s.osr)
    (p.1 + t, p.2.1 + c.vs * (t : Rat), p.2.2 + (c.rp : Int) * t)) (0, 0, 0)

/-- Balancing current drove switch `n` in the sample period ending at `b` (R199). -/
def State.balDrove (s : State) (n b : Nat) : Bool := decide (0 < onClks ((look s.bal.cond n).filter (fun c => c.why == 1)) (b - s.osr) b)

/-- A cell's fine result at boundary `b` is a valid sample (R192). -/
def State.sampleOk (s : State) (c b : Nat) : Bool :=
  let r := look s.cells.fine c
  !(r.ovr || r.nbr || r.stale || decide (r.unc = 15)) && s.chainReady (look s.cells.chains c) b &&
  (decide (look s.imp.reconn c = 0) || decide (look s.imp.reconn c + s.get2 CELLCFG.GDLY0 / 4 + 3 * s.osr < b))

/-- The own current sample of boundary `b` serves as reference (R119, R192); a chain that posts none gives none. -/
def State.ownRef (s : State) (b : Nat) : Option Int :=
  if s.localRef then
    let ch := 36 + s.used CURR.SUB.CH
    let r := look s.cells.fine ch
    if r.ovr || r.stale || r.pls || !s.chanOn ch || !s.chainReady (look s.cells.chains ch) b then none else some (look s.cells.chains ch).raw
  else none

/-- Take the boundary at clock `b` with its FSX into every running integration; a full one waits for its results. A chain
that posts nothing there gives no valid sample (R192). -/
def State.impSample (s : State) (b fsx : Nat) : State :=
  let s := forEach (List.range 8) (fun k s =>
    let l := look s.imp.lanes k
    match l.cur with
    | none => s
    | some i =>
      if b ≤ i.startClk then s
      else
        let cd := i.cells.map (fun c => (c, s.conducted (c + 1) b))
        let x : ImpSample :=
          { b := b, fsx := fsx, tread := s.tm.tread, aligned := s.bit TIME.STATUS.ALIGNED,
            vals := i.cells.foldl (fun (m : SMap (Option Int)) c => put m c (if s.sampleOk c b then some (look s.cells.chains c).raw else none)) [],
            onClk := cd.foldl (fun (m : SMap Nat) p => put m p.1 p.2.1) [], ref := s.ownRef b }
        let i : Integ := { i with
          samples := i.samples ++ [x],
          balc := i.cells.foldl (fun (m : SMap Bool) c => if s.balDrove (c + 1) b then put m c true else m) i.balc,
          vsSum := cd.foldl (fun (m : SMap Rat) p => adj m p.1 (· + p.2.2.1)) i.vsSum,
          rpSum := cd.foldl (fun (m : SMap Int) p => adj m p.1 (· + p.2.2.2)) i.rpSum,
          onSum := cd.foldl (fun (m : SMap Nat) p => adj m p.1 (· + p.2.1)) i.onSum }
        if i.size ≤ i.samples.length then
          s.setLane k { l with cur := none, fin := l.fin ++ [i], last := b, mode := if s.bit (laneFld IMP.LANEkCFG.ONESHOT k) then .idle else .running }
        else s.setLane k { l with cur := some i }) s
  (s.excTrim b).impStatus

/-- Pair the samples of an accepted block with every integration's samples of the same FSX (R121). -/
def State.impPair (s : State) (refs : List (Nat × Int)) : State :=
  let f := fun (x : ImpSample) => match refs.find? (fun r => r.1 == x.fsx) with | some r => { x with ref := some r.2 } | none => x
  forEach (List.range 8) (fun k s =>
    let l := look s.imp.lanes k
    let g := fun (i : Integ) => { i with samples := i.samples.map f }
    s.setLane k { l with cur := l.cur.map g, fin := l.fin.map g }) s

/-! ### Results (R186 to R192) -/

/-- Time of sample `x` from the first boundary, in turns of tone `n`: N (b − b0) / (64 f_m). -/
def turnsOf (n b0 b : Nat) : Rat := (n : Rat) * ((b - b0 : Nat) : Rat) / (64 * 4096000)

/-- Mean of V_S / R_path over the integration, in A (R188). -/
def Integ.current (i : Integ) (c : Nat) : Rat :=
  let r := look i.rpSum c
  if r = 0 then 0 else look i.vsSum c / (r : Rat) / 1000

/-- The valid samples of a cell with their indices (R192). -/
def Integ.valid (i : Integ) (c : Nat) : List (Nat × ImpSample × Int) :=
  (i.samples.zipIdx).filterMap (fun p => match look p.1.vals c with
    | some v => if i.str && (p.1.ref.isNone || !p.1.aligned) then none else some (p.2, p.1, v)
    | none => none)

/-- The phasor of the cell voltage over samples `l`, in µV (R189). -/
def Integ.volt (i : Integ) (b0 : Nat) (l : List (Nat × ImpSample × Int)) : Cx :=
  demod (l.map (fun p => (p.1, turnsOf i.n b0 p.2.1.b, (p.2.2 : Rat))))

/-- The reference current I_c over samples `l`, in A (R186 to R188). -/
def State.refCurrent (s : State) (i : Integ) (c b0 : Nat) (l : List (Nat × ImpSample × Int)) : Cx :=
  let f : Rat := (i.n : Rat) / 64
  let str : Cx := if i.str then
      let rsh := if s.localRef then (if s.used CURR.SUB.CH = 0 then s.get2 CURR.RSHUNT0 else s.get2 CURR.RSHUNTB0) else s.curr.rsh
      (Cx.scale (20 / (rsh : Rat)) (demod (l.map (fun p => (p.1, turnsOf i.n b0 p.2.1.b, ((p.2.1.ref.getD 0 : Int) : Rat)))))).mul
        (Cx.turn (f * ((s.sget CURR.REFDLY : Int) : Rat) / 1000000000))
    else ⟨0, 0⟩
  let osr := osrOf i.osr
  let cur := i.current c
  let u := demod (l.map (fun p => (p.1, turnsOf i.n b0 p.2.1.b, cur * ((look p.2.1.onClk c : Nat) : Rat) / (osr : Rat))))
  let sw := if (look i.onSum c) = 0 then ⟨0, 0⟩ else
    ((u.mul ⟨i.h.1, i.h.2⟩).div (meanResp (f * osr / 4096000))).mul (Cx.turn (f * ((s.sget IMP.EXCDLY : Int) : Rat) / 1000000000))
  str.sub sw

/-- Whole cycles whose samples were all valid (R192); a cycle that the S samples do not cover to its end is not whole (R182). -/
def Integ.cycles (i : Integ) (c b0 : Nat) : Nat :=
  let ok := (i.samples.map (fun x => ((turnsOf i.n b0 x.b).floor.toNat, (look x.vals c).isSome && !(i.str && (x.ref.isNone || !x.aligned)))))
  let whole := (List.range (min i.m (i.size * i.n * i.osr / 262144000))).filter (fun t => ok.all (fun p => decide (p.1 ≠ t) || p.2))
  min 65535 whole.length

/-- γ² over min(8, M) sub-blocks, as COH (R191). -/
def State.coherence (s : State) (i : Integ) (c b0 : Nat) (l : List (Nat × ImpSample × Int)) : Nat :=
  let nb := min 8 i.m
  if nb = 1 then 255
  else
    let bl := (List.range nb).map (fun b =>
      let lb := l.filter (fun p => decide (b * i.size / nb ≤ p.1 ∧ p.1 < (b + 1) * i.size / nb))
      (i.volt b0 lb, s.refCurrent i c b0 lb))
    let x := bl.foldl (fun a p => Cx.add a (p.1.mul p.2.conj)) ⟨0, 0⟩
    let vv := (bl.map (fun p => p.1.abs2)).sum
    let ii := (bl.map (fun p => p.2.abs2)).sum
    if vv * ii = 0 then min 254 (roundRat (254 * Config.lockFree 4)).toNat else min 254 (roundRat (254 * x.abs2 / (vv * ii))).toNat

/-- One cell's result (R189 to R192). -/
def State.impCell (s : State) (i : Integ) (c : Nat) : ImpRec :=
  let b0 := (i.samples.headD default).b
  let l := i.valid c
  let gap := decide (l.length < i.samples.length)
  let few := decide (4 * l.length < 3 * i.size)
  let noSh := i.str && (if s.localRef then (if s.used CURR.SUB.CH = 0 then s.get2 CURR.RSHUNT0 else s.get2 CURR.RSHUNTB0) else s.curr.rsh) == 0
  let ref := s.refCurrent i c b0 l
  let lim : Rat := (s.get IMP.IMIN : Rat) / 1000
  let noref := noSh || decide (ref.abs2 < lim * lim)
  let inval := few || noref || i.attn
  let z := if ref.abs2 = 0 then ⟨Config.lockFree 2, Config.lockFree 3⟩ else (i.volt b0 l).div ref
  let re := roundRat (10 * z.re)
  let im := roundRat (10 * z.im)
  let clip := !inval && (decide (2147483647 < re.natAbs) || decide (2147483647 < im.natAbs))
  let coh := s.coherence i c b0 l
  let low := decide (coh < s.get IMP.COHMIN % 256)
  let flags := (if inval then 1 else 0) + (if gap then 2 else 0) + (if low then 4 else 0) + (if look i.balc c then 8 else 0) +
    (if look i.susp c then 16 else 0) + (if noref then 32 else 0) + (if clip then 64 else 0) + (if i.attn then 128 else 0)
  if inval then { has := true, re := -2147483648, im := -2147483648, coh := coh, flags := flags, cyc := i.cycles c b0 }
  else { has := true, re := clampI (-2147483647) 2147483647 re, im := clampI (-2147483647) 2147483647 im, coh := coh, flags := flags, cyc := i.cycles c b0 }

/-- A flag bit of a result (R199). -/
def ImpRec.flag (r : ImpRec) (b : Nat) : Bool := r.flags.testBit b

/-- The x of a result (R201). -/
def State.tempX (s : State) (r : ImpRec) : Nat :=
  if s.get IMP.TCFG.QTY = 0 then min (isqrt 33 (r.re.natAbs ^ 2 + r.im.natAbs ^ 2) / 2 ^ s.get IMP.TCFG.XSHIFT) 65535
  else twos 16 (atan2c r.im r.re + 32768)

/-- TEN = 1 with a usable table 0x06 (R201, R204). -/
def State.tempsOn (s : State) : Bool := s.bit IMP.TCFG.TEN && decide (2 ≤ (s.points 6).length)

/-- Update one cell's temperature from a TLANE result (R201 to R203). -/
def State.tempUpdate (s : State) (c : Nat) (r : ImpRec) (seq : Nat) : State :=
  let old := look s.imp.img.temps c
  if r.flag 0 || r.flag 2 then
    { s with imp := { s.imp with img := { s.imp.img with temps := put s.imp.img.temps c { old with old := true } } } }
  else
    let x := s.tempX r
    let pts := s.points 6
    let y := (s.lookup 6 false true x).getD 0
    let v := clampI (-32767) 32767 (y + (look s.imp.tofs c).getD 0)
    let cl := decide (x < (pts.headD (0, 0)).1) || decide ((pts.getLastD (0, 0)).1 < x)
    ({ s with imp := { s.imp with img := { s.imp.img with temps := put s.imp.img.temps c { has := true, v := v, old := false, clamp := cl, x := x, seq := seq } } } }).evt IMP.EVT.TEMPUPD

/-- Count a TRLANE result toward the epoch mean (R205). -/
def State.trendCount (s : State) (c : Nat) (r : ImpRec) : State :=
  let t := look s.imp.img.temps c
  let d := t.v - s.sget IMP.TREF
  if r.flag 0 || r.flag 2 || !t.has || t.old || decide (32 < d.natAbs) then s
  else { s with imp := { s.imp with img := { s.imp.img with trend := adj s.imp.img.trend c (fun e => { e with epSum := e.epSum + r.re, epCnt := e.epCnt + 1 }) } } }

/-- An epoch's counting results end with it, those of a cell that forms no mean too (R205). -/
def State.trendClear (s : State) : State :=
  { s with imp := { s.imp with img := { s.imp.img with trend := (List.range 36).foldl (fun (m : SMap Trend) c => adj m c (fun e => { e with epSum := 0, epCnt := 0 })) s.imp.img.trend } } }

/-- The epoch end of every cell's trend (R205). -/
def State.trendEpoch (s : State) : State :=
  if s.bit IMP.TCFG.TREN = false then s.trendClear
  else
    let form := s.get IMP.TCFG.TRLANE != s.get IMP.TCFG.TLANE
    ({ s with imp := { s.imp with img := { s.imp.img with trend := s.mapCells.foldl (fun (m : SMap Trend) c => adj m c (fun e =>
      if !form || e.epCnt == 0 then { e with noData := true, lastCnt := 0, epSum := 0, epCnt := 0 }
      else
        let m := roundRat ((e.epSum : Rat) / (e.epCnt : Rat))
        { e with epm := m, means := if e.cnt < 64 then e.means ++ [m] else e.means, cnt := min 64 (e.cnt + 1), lastCnt := e.epCnt, noData := false, epSum := 0, epCnt := 0 })) s.imp.img.trend } } }).trendClear.impNewer.impStatus

/-- BASE: the mean of the epoch means of the baseline (R205). -/
def Trend.base (t : Trend) : Int := if t.cnt = 0 then 0 else roundRat (((t.sumBase + t.means.sum : Int) : Rat) / (t.cnt : Rat))

/-- TREND in 0.01 %, 0 while BASELINE (R205). -/
def Trend.trend (t : Trend) : Int :=
  if t.cnt < 64 ∨ t.base = 0 then 0 else clampI (-32768) 32767 (roundRat (10000 * ((t.epm - t.base : Int) : Rat) / (t.base : Rat)))

/-- Check the excited cells at the end of an integration of the active lane (R198). A cell whose switch never conducted fails, and no
valid fine result counts as mean 0 (DESIGN CHOICE, log 179). -/
def State.excCheck (s : State) (i : Integ) : State :=
  if !i.act then s
  else
    let s := forEach (i.cells.filter (fun c => s.vbit IMP.EXCMAP0 c)) (fun c s =>
      let on := look i.onSum c
      let vals : List Int := i.samples.filterMap (fun x => look x.vals c)
      let mean : Rat := if vals.isEmpty then 0 else (vals.sum : Rat) / (vals.length : Rat)
      let vs : Rat := if on = 0 then 0 else look i.vsSum c / (on : Rat)
      let ok := decide (on ≠ 0) && decide (mean * 8 / 10 ≤ vs) && decide ((s.get IMP.IMIN : Rat) ≤ i.current c * 1000)
      s.setV IMP.EXCFAIL0 c (!ok)) s
    s.fault28

/-- LOWCOH of the results of lane `k` just formed; one that is INVAL with NOREF or ATTN does not count (R207). -/
def State.cohNote (s : State) (k : Nat) (rs : List (Nat × ImpRec)) : State :=
  { s with imp := { s.imp with lowCoh := rs.foldl (fun (m : SMap Bool) (r : Nat × ImpRec) =>
      if r.2.flag 0 && (r.2.flag 5 || r.2.flag 7) then m else put m (k * 64 + r.1) (r.2.flag 2)) s.imp.lowCoh } }

/-- COHFAIL and fault 29 from the newest counting results of the enabled lanes (R207). -/
def State.cohUpdate (s : State) : State :=
  let low := fun c => (List.range 8).any (fun k => s.laneEn k && look s.imp.lowCoh (k * 64 + c))
  let s := forEach (List.range 36) (fun c s => s.setV IMP.COHFAIL0 c (low c)) s
  let b := (List.range 36).any low
  (s.cond 29 b).setB IMP.STATUS.COHLIVE b

/-- The results may be formed: every sample paired, or the pairing deadline of the last sample's tread has
come; without a broadcast reference, at once (R199). -/
def State.resultsDue (s : State) (i : Integ) : Bool :=
  !i.str || s.localRef || i.samples.all (fun x => x.ref.isSome) ||
    decide ((i.samples.getLastD default).tread + 4 ≤ s.tm.tread)

/-- The queue block of a lane (R200). -/
def State.impBlock (s : State) (k : Nat) (i : Integ) (seq : Nat) (rs : List (Nat × ImpRec)) : List Byte :=
  let trail := s.tempsOn && s.get IMP.TCFG.TLANE == k
  leBytes 4 seq ++ leBytes 4 i.startStn ++ leBytes 3 i.n ++
  leBytes 1 (k + (if i.act then 8 else 0) + (if i.str then 16 else 0) + (if i.whole then 32 else 0) + (if trail then 64 else 0)) ++
  leBytes 2 i.m ++ leBytes 1 rs.length ++ leBytes 1 i.osr ++
  rs.flatMap (fun r => leInt 4 r.2.re ++ leInt 4 r.2.im ++ leBytes 1 r.2.coh ++ leBytes 1 r.2.flags ++ leBytes 2 r.2.cyc) ++
  (if trail then rs.flatMap (fun r => leInt 2 (if (look s.imp.img.temps r.1).has then (look s.imp.img.temps r.1).v else -32768)) else [])

/-- Form the results of the oldest complete integration of lane `k` (R199 to R207). -/
def State.impResults (s : State) (k : Nat) : State :=
  let l := look s.imp.lanes k
  match l.fin with
  | [] => s
  | i :: fin =>
    if s.resultsDue i = false then s
    else
      let seq := (l.seq + 1) % 4294967296
      let rs := i.cells.map (fun c => (c, s.impCell i c))
      let s := s.setLane k { l with fin := fin, seq := seq }
      let s := { s with imp := { s.imp with img := { s.imp.img with recs := rs.foldl (fun (m : SMap ImpRec) (r : Nat × ImpRec) => put m (k * 64 + r.1) r.2) s.imp.img.recs, seqs := put s.imp.img.seqs k seq } } }
      let s := s.evt IMP.EVT.RESULT
      let s := if rs.any (fun r => r.2.flag 2) then s.evt IMP.EVT.LOWCOH else s
      let s := if s.tempsOn ∧ s.get IMP.TCFG.TLANE = k then forEach rs (fun (r : Nat × ImpRec) (s : State) => s.tempUpdate r.1 r.2 seq) s else s
      let s := if s.bit IMP.TCFG.TREN = true ∧ s.get IMP.TCFG.TRLANE = k ∧ s.get IMP.TCFG.TLANE ≠ k then forEach rs (fun (r : Nat × ImpRec) (s : State) => s.trendCount r.1 r.2) s else s
      let s := ((s.excCheck i).cohNote k rs).cohUpdate
      (s.post (44 + k) (s.impBlock k i seq rs)).impNewer.impStatus

/-! ### The window (R209, R210) -/

/-- The newest records, with what else a window record shows. -/
def State.impLive (s : State) : ImpImage :=
  { s.imp.img with tofs := s.imp.tofs, cells := s.mapCells, flat := s.get IMP.TCFG.TRLANE == s.get IMP.TCFG.TLANE }

/-- The records the window shows. -/
def State.impShown (s : State) : ImpImage := s.imp.frozen.getD s.impLive

/-- DATA0 to DATA7 of the selected record. -/
def State.impwinData (s : State) : List Nat :=
  let im := s.impShown
  let c := s.get IMPWIN.CELL - 1
  match s.get IMPWIN.SEL.CLASS with
  | 0 =>
    let k := s.get IMPWIN.SEL.LANE
    let r := look im.recs (k * 64 + c)
    let r := if r.has && im.cells.contains c then r else { r with re := -2147483648, im := -2147483648, coh := 0, flags := 1, cyc := 0 }
    let q := look im.seqs k
    [twos 16 r.re, twos 32 r.re / 65536, twos 16 r.im, twos 32 r.im / 65536, r.coh + 256 * r.flags, r.cyc, q % 65536, q / 65536]
  | 1 =>
    let t := look im.temps c
    let o := look im.tofs c
    [twos 16 (if t.has then t.v else -32768), (if o.isNone then 1 else 0) + (if t.old then 2 else 0) + (if t.clamp then 4 else 0) + (if t.has then 0 else 8), twos 16 (o.getD 0), t.x, t.seq % 65536, t.seq / 65536, 0, 0]
  | _ =>
    let t := look im.trend c
    let nd := t.noData || im.flat
    [twos 16 t.base, twos 32 t.base / 65536, twos 16 t.epm, twos 32 t.epm / 65536, twos 16 t.trend, t.cnt, min t.lastCnt 65535, (if t.cnt < 64 then 1 else 0) + (if nd then 2 else 0) + (if t.hist then 0 else 4)]

/-- The next cell of a cyclic list after `c`. -/
def nextIn (l : List Nat) (c : Nat) : Nat :=
  match l.filter (fun x => decide (c < x)) with | x :: _ => x | [] => l.headD c

/-- A READ that covers DATA7 advances CELL when it ends (R209). -/
def State.impAdvance (s : State) : State :=
  let c := s.get IMPWIN.CELL - 1
  let l := if s.get IMPWIN.SEL.CLASS = 0 then (List.range 36).filter (fun c => s.vbit IMP.CELLMAP0 c) else List.range s.count
  s.set IMPWIN.CELL (nextIn l c + 1)

/-- Capture or release the image (R210). -/
def State.impFreeze (s : State) (on : Bool) : State :=
  if on then
    (((({ s with imp := { s.imp with frozen := if s.bit IMPWIN.SEL.FREEZE then s.imp.frozen else some s.impLive } }).set IMPWIN.SEL.FREEZE 1).set ⟨0x14, 0x02, 0, 1⟩ 1))
  else ((({ s with imp := { s.imp with frozen := none } }).set IMPWIN.SEL.FREEZE 0).set ⟨0x14, 0x02, 0, 2⟩ 0)

/-- Load TOFS of the selected cell (R202, R210). -/
def State.tofsLoad (s : State) (v : Word) : State :=
  let c := s.get IMPWIN.CELL - 1
  if s.get IMPWIN.SEL.CLASS = 1 then
    ({ s with imp := { s.imp with tofs := put s.imp.tofs c (some (signed 16 v.toNat)) } }).impNewer
  else s.set ⟨0x14, 0x03, 0, 1⟩ 1

/-! ### Rows -/

/-- GO (R183). -/
def execGo (s : State) : Host.Outcome State Fault Refusal := whenActive [.imp] s fun s => s.impGo

/-- STOP (R184). -/
def execStop (s : State) : Host.Outcome State Fault Refusal := whenActive [.bal, .imp] s fun s => s.impAbort true

/-- IMP_INTEGRATION_START (R180 to R183). -/
def execImpIntegrationStart (k : Fin 8) (s : State) : Host.Outcome State Fault Refusal := whenActive [.cells, .bal, .imp] s fun s => s.integStart k.val

/-- IMP_RESUME (R184). -/
def execImpResume (s : State) : Host.Outcome State Fault Refusal := whenActive [.cells, .bal, .imp] s fun s => s.impResume

/-- IMPWIN_CURSOR_ADVANCE (R209). -/
def execImpwinCursorAdvance (s : State) : Host.Outcome State Fault Refusal := whenActive [] s fun s => s.impAdvance

/-- IMPWIN_FREEZE (R210). -/
def execImpwinFreeze (on : Bool) (s : State) : Host.Outcome State Fault Refusal := whenActive [.imp] s fun s => s.impFreeze on

end Sys2Proof.Machine
end

