-- ==== Sys2Proof/Machine/Curr.lean ====
section
/-! DEFINITION. Curr.lean: the current channels' plausibility, the Q2 broadcast, subscription and pairing (05). -/
namespace Sys2Proof.Machine

/-! ### Status -/

/-- The current objects of the gallery are recorded (R380). -/
def State.irec (s : State) : Bool := s.bit CURR.BCAST.BCAST && decide (s.get2 CURR.RSHUNT0 ≠ 0)

/-- CURR.STATUS, the LOCAL and PORT bits of SUBSTAT and GAL.STATUS.IREC as the settings stand (R114, R116, R119, R125, R380). -/
def State.currStatus (s : State) : State :=
  let norsh := s.bit CURR.PLSCFG.EN && (s.get2 CURR.RSHUNT0 == 0 || s.get2 CURR.RSHUNTB0 == 0)
  let loc := s.usedB CURR.SUB.EN && s.localRef
  let dn := !loc && (match s.step? with | some k => decide (k < s.used CURR.SUB.STEP) | none => false)
  ((((((s.setB CURR.STATUS.SRCDEV (s.bit CURR.BCAST.BCAST)).setB CURR.STATUS.NORSH norsh).setB CURR.STATUS.PLSLIVE (s.holds 16)).setB
    CURR.STATUS.REFLIVE (s.holds 30)).setB CURR.SUBSTAT.LOCAL loc).setB CURR.SUBSTAT.PORT dn).setB GAL.STATUS.IREC s.irec

/-! ### Plausibility (R114, R115) -/

/-- Current in mA of a code over a shunt in nΩ (R114). -/
def currMa (code : Int) (shunt : Nat) : Rat := ((code * 20000 : Int) : Rat) / (shunt : Rat)

/-- The tread is compared: check enabled, both channels powered, neither result OVR or STALE, both shunts
set (R113, R114). -/
def State.plsCompared (s : State) (a b : Res) : Bool :=
  s.bit CURR.PLSCFG.EN && s.chanOn 36 && s.chanOn 37 && !a.ovr && !a.stale && !b.ovr && !b.stale &&
    s.get2 CURR.RSHUNT0 != 0 && s.get2 CURR.RSHUNTB0 != 0

/-- A compared tread is a mismatch (R114). -/
def State.plsMismatch (s : State) (a b : Res) : Bool :=
  let ia := currMa a.v (s.get2 CURR.RSHUNT0)
  let ib := (if s.bit CURR.PLSCFG.INV then -1 else 1) * currMa b.v (s.get2 CURR.RSHUNTB0)
  let mag := fun (q : Rat) => if q < 0 then -q else q
  decide ((100 * s.get CURR.PLSABS : Nat) + max (mag ia) (mag ib) * (s.get CURR.PLSCFG.REL : Nat) / 1024 < mag (ia - ib))

/-- The plausibility check of one tread on its two snapshot results: counts, fault 16, `misNow` (R115). (DEDUCED, log 57) -/
def State.plausibility (s : State) (a b : Res) : State :=
  if s.plsCompared a b = false then { s with curr := { s.curr with misNow := false } }
  else
    let mis := s.plsMismatch a b
    let n := s.get CURR.PLSCFG.N
    let m := if mis then s.curr.mis + 1 else 0
    let o := if mis then 0 else s.curr.ok + 1
    let was := s.holds 16
    let live := if n ≤ m then true else if n ≤ o then false else was
    let s := { s with curr := { s.curr with mis := m, ok := o, misNow := mis } }
    let s := if mis then s.inc CURR.PLSCNT else s
    let s := s.cond 16 live
    (if live && !was then s.evt CURR.EVT.PLS else s).setB CURR.STATUS.PLSLIVE live

/-! ### Currents in mA -/

/-- The 32-bit IA or IB of a snapshot result: floor, saturated; 0x80000000 with no shunt or OVR (R125). -/
def currWord (r : Res) (shunt : Nat) : Nat :=
  if shunt = 0 ∨ r.ovr = true then 2147483648
  else twos 32 (clampI (-2147483647) 2147483647 (r.v * 20000 / (shunt : Int)))

/-- Store IA and IB of the image (R125). -/
def State.currWords (s : State) : State :=
  (s.set2 CURR.IA0 (currWord (look s.cells.snap 36) (s.get2 CURR.RSHUNT0))).set2 CURR.IB0 (currWord (look s.cells.snap 37) (s.get2 CURR.RSHUNTB0))

/-! ### The broadcast (R116 to R118) -/

/-- Keep the current results at a boundary for the own broadcast, those of the last two treads; a chain that posts none
there leaves an invalid sample with the channel's last value, 0 before any (DESIGN CHOICE, log 140). -/
def State.ownSample (s : State) (b fsx : Nat) : State :=
  let ok := fun (ch : Nat) => s.chanOn ch && s.chainReady (look s.cells.chains ch) b &&
    !(look s.cells.fine ch).ovr && !(look s.cells.fine ch).pls && !(look s.cells.fine ch).stale
  let x : OwnSample := ⟨b, fsx, look s.cells.fine 36, look s.cells.fine 37, ok 36, ok 37⟩
  { s with curr := { s.curr with own := (s.curr.own.filter (fun o => decide (s.absClk 0 ≤ o.clk + 4096 ∧ o.clk < b))) ++ [x] } }

/-- The samples of the block of the present tread (R116): one for each boundary of the preceding tread, with its FSX by the
present tread number, also after a jump; a boundary whose results the device does not hold gives an invalid sample of 0. (DESIGN CHOICE, log 140) -/
def State.ownBlock (s : State) : List OwnSample :=
  let hi := s.absClk 0
  let at' := fun (clk fsx : Nat) => (s.curr.own.find? (fun o => o.clk == clk)).elim ⟨clk, fsx, default, default, false, false⟩ (fun (o : OwnSample) => { o with fsx := fsx })
  if s.bit CELLCFG.CTRL.FINEEN = false then []
  else if s.osr ≤ 4096 then
    (List.range (4096 / s.osr)).map (fun i => at' (hi - 4096 + (i + 1) * s.osr) (fsxOf (s.tm.stn + 4294967295) s.osr ((i + 1) * s.osr)))
  else if s.isBoundary (s.used CELLCFG.FINE.OSR) 0 then [at' hi (fsxOf s.tm.stn s.osr 0)] else []

/-- One bit per index where a test fails, as a number. -/
def invBits {α : Type} (f : α → Bool) : List α → Nat
  | [] => 0
  | x :: l => (if f x then 0 else 1) + 2 * invBits f l

/-- The 128-byte block of R117; SRCID has step 0 while the step is unknown. (DESIGN CHOICE, log 147) -/
def State.bcastBlock (s : State) : List Byte :=
  let l := s.ownBlock
  let sa := look s.cells.snap 36
  let sb := look s.cells.snap 37
  let v := fun (ch : Nat) => s.chanOn ch && (look s.cells.chains ch).posted
  let cfg := s.used { CELLCFG.FINE.OSR with lo := 0, w := 9 }
  let stat := (if v 36 then 1 else 0) + (if v 37 then 2 else 0) + (if s.bit TIME.STATUS.ALIGNED then 4 else 0) +
    (if s.bit TIME.STATUS.HOLDOVER then 8 else 0) + (if s.holds 16 then 16 else 0) + (if cfg.testBit 8 then 32 else 0)
  let flg := fun (r : Res) => (if r.ovr then 1 else 0) + (if r.pls then 2 else 0) + (if r.stale then 4 else 0)
  let pad := fun (f : OwnSample → Res) => (l.flatMap (fun o => leInt 3 (f o).v)) ++ List.replicate (48 - 3 * l.length) 0
  leBytes 4 s.tm.stn ++ leBytes 2 (s.get XACT.STAIRID % 64 * 256 + (s.step?.getD 0) % 256) ++ leBytes 1 (cfg % 256) ++ leBytes 1 stat ++
  leBytes 4 (match l with | o :: _ => o.fsx | [] => 0) ++ leBytes 1 l.length ++ leBytes 1 (flg sa + 8 * flg sb) ++
  leInt 3 sa.v ++ leInt 3 sb.v ++ leBytes 4 (s.get2 CURR.RSHUNT0) ++ leBytes 4 (s.get2 CURR.RSHUNTB0) ++
  leBytes 2 (invBits OwnSample.okA l) ++ leBytes 2 (invBits OwnSample.okB l) ++ pad OwnSample.a ++ pad OwnSample.b

/-- A current source device posts its block after the image of the tread (R116). -/
def State.bcastPost (s : State) : State := if s.bit CURR.BCAST.BCAST then s.post 2 s.bcastBlock else s

/-! ### Subscription and pairing (R119 to R122) -/

/-- Tread numbers modulo 2^32: `a` lies at least `n` treads before `b`. -/
def stnBefore (a b n : Nat) : Bool :=
  let d := (b + 4294967296 - a) % 4294967296
  decide (n ≤ d ∧ d < 2147483648)

/-- The cause of a block's refusal, 0 when it is accepted; the first failing check of R120 in its order. (DEDUCED, log 54) -/
def State.rxCause (s : State) (crcOk : Bool) (b : BlockRx) : Nat :=
  let own := s.used { CELLCFG.FINE.OSR with lo := 0, w := 9 }
  let id := s.get XACT.STAIRID % 64 * 256 + s.used CURR.SUB.STEP
  let st := b.stat.toNat
  if crcOk = false ∨ b.srcId.toNat ≠ id then 2
  else if st.testBit (s.used CURR.SUB.CH) = false then 7
  else if st.testBit 2 = false then 5
  else if b.fineCfg.toNat ≠ own % 256 ∨ st.testBit 5 ≠ own.testBit 8 then 4
  else if s.bit TIME.STATUS.ALIGNED = false then 6
  else 0

/-- The port a block arrives on, by the step of its source (R119); none while the own step is unknown. (DEDUCED, log 56) -/
def State.rxPort? (s : State) : Option Port :=
  match s.step? with
  | none => none
  | some k => if s.used CURR.SUB.STEP < k then some .up else some .dn

/-- The samples of an accepted block for pairing: FSX and value of those not marked invalid (R121). -/
def blockRefs (b : BlockRx) (chB : Bool) : List (Nat × Int) :=
  let l := if chB then b.fa.zip b.fb |>.map Prod.snd else b.fa
  let inv := if chB then b.invB else b.invA
  ((l.take b.n).zipIdx).filterMap (fun p => if inv.getLsbD p.2 then none else some ((b.fsx.toNat + p.2) % 4294967296, p.1))

/-- The STN of the frame a slot lies in: its STNL; where its CRC is wrong, that of the tread which its place gives by the newest
sound block (R323, R369). (DEDUCED, log 163) -/
def State.slotStn (s : State) (x : Slot) : Nat := if x.crcOk then x.stnl.toNat else s.tm.stn + 4294967296 - s.curr.lag

/-- The plan in use subscribes to a slot that arrives on port `p`: an entry for the source step with that slot, lane and
frame (R119, R323, R369, R372). -/
def State.planSubscribes (s : State) (p : Port) (x : Slot) : Bool :=
  let w := fun (i : Nat) => look s.xact.plan (2048 * s.get QUEUE.PLANSTAT.ACTIVE + i)
  !s.leanOp && (List.range (fieldOf (w 1) 0 9)).any (fun e =>
    let w0 := w (8 + 4 * e)
    let w3 := w (11 + 4 * e)
    fieldOf w0 12 2 == 2 && fieldOf w0 0 11 == x.slot && fieldOf w0 11 1 == (if p = .up then 0 else 1) &&
      fieldOf (w (9 + 4 * e)) 0 8 == s.used CURR.SUB.STEP && s.slotStn x % 2 ^ fieldOf w3 0 3 == fieldOf w3 3 6)

/-- A slot carries a block of Q2 (R323, R360, R362). -/
def slotBlock (x : Slot) : Bool := slotUsable x && decide (x.type = 1) && decide (x.queue = 2)

/-- The device copies a slot that comes past on port `p` for its subscription (R119, R120, R369). Nothing in a slot whose CRC is
wrong is asked: it is the subscribed block refused (R122). -/
def State.subscribes (s : State) (p : Port) (x : Slot) : Bool :=
  s.usedB CURR.SUB.EN && !s.localRef && decide (s.rxPort? = some p) && s.planSubscribes p x && (slotBlock x || (!x.idle && !x.crcOk))

/-- The tread a block of the subscribed slot belongs to: the STN it carries; where its CRC is wrong, the tread that the slot's place
gives by the newest sound block (R118). (DEDUCED, log 163) -/
def State.rxTread (s : State) (crcOk : Bool) (b : BlockRx) : Nat :=
  if crcOk then b.stn.toNat else (s.tm.stn + 4294967296 - s.curr.lag) % 4294967296

/-- A block taken from the subscribed broadcast slot (R120, R121, R122). -/
def State.bcastRx (s : State) (p : Port) (x : Slot) : State :=
  let b := blockOf x
  if s.subscribes p x = false then s
  else
    let c := s.rxCause x.crcOk b
    let t := s.rxTread x.crcOk b
    let d := (s.tm.stn + 4294967296 - t) % 4294967296
    let s := if x.crcOk && decide (d ≤ 3) then { s with curr := { s.curr with lag := d } } else s
    if c ≠ 0 then { s with curr := { s.curr with refused := ((t, c) :: s.curr.refused).take 8 } }
    else if stnBefore t s.tm.stn 4 then
      ((s.inc CURR.LATECNT).evt CURR.EVT.LATE).set CURR.SUBSTAT.CAUSE 3
    else
      let chB := s.used CURR.SUB.CH == 1
      let was := s.holds 30
      let s := { s with curr := { s.curr with rx := (RxBlk.mk t b :: s.curr.rx).take 8, rsh := if chB then b.rshB.toNat else b.rshA.toNat } }
      let s := (s.set2 CURR.LASTSTN0 t).impPair (blockRefs b chB)
      let s := if (blockRefs b chB).length < min b.n b.fa.length then s.set CURR.SUBSTAT.CAUSE 7 else s
      if was then ((s.cond 30 false).evt CURR.EVT.REFBACK).setB CURR.STATUS.REFLIVE false else s

/-- The tread whose pairing ends at the present master clock 0 (R121). -/
def State.gapStn (s : State) : Nat := (s.tm.stn + 4294967292) % 4294967296

/-- Its block was accepted. -/
def State.gapPaired (s : State) : Bool := s.curr.rx.any (fun x => x.stn == s.gapStn)

/-- A device with a subscription to another device. -/
def State.subscribed (s : State) : Bool := s.usedB CURR.SUB.EN && !s.localRef

/-- Report the tread whose pairing ends now as a gap tread when no block was accepted (R121, R122). (DEDUCED, log 55) -/
def State.gapReport (s : State) : State :=
  if s.subscribed = false ∨ s.gapPaired = true ∨ s.curr.judged = some s.gapStn then s
  else
    let t := s.gapStn
    let c := match s.curr.refused.find? (fun p => p.1 == t) with | some p => p.2 | none => 1
    let n := s.curr.gaps + 1
    let raise := decide (s.used CURR.SUB.GAPLIM ≤ n) && !s.curr.gapRaised
    let s := { s with curr := { s.curr with gaps := n, judged := some t, gapRaised := s.curr.gapRaised || raise } }
    let s := (((s.inc CURR.GAPCNT).evt CURR.EVT.GAP).set CURR.SUBSTAT.CAUSE c).set CURR.SUBSTAT.PAIRED 0
    if raise then (s.cond 30 true).evt CURR.EVT.REFLOST |>.setB CURR.STATUS.REFLIVE true else s

/-- With SUB.EN = 0 fault 30 is never live (R122). -/
def State.subEnd (s : State) : State := if s.usedB CURR.SUB.EN || !s.holds 30 then s else (s.cond 30 false).evt CURR.EVT.REFBACK

/-- Master clock 0: gain and enable changes restart their chain (R108, R113); a paired tread ends a run of
gaps; without a subscription fault 30 is not live (R122). Runs before the held words come into use. Without another device to
pair with PAIRED stays as it was (DESIGN CHOICE, log 161), and fault 30 stays live where STEP now names the own step (DESIGN CHOICE,
log 162). -/
def State.currTread (s : State) : State :=
  let ch := fun (f : Fld) => decide (s.used f ≠ s.get f)
  let s1 := if ch CURR.CSCFG.GAINA || ch CURR.CTRL.CSAEN then s.restartChain 36 (s.absClk 0) false else s
  let s2 := if ch CURR.CSCFG.GAINB || ch CURR.CTRL.CSBEN then s1.restartChain 37 (s.absClk 0) false else s1
  let s := s2.release (fun a => a == CURR.CTRL.CSAEN.addr || a == CURR.CSCFG.GAINA.addr || a == CURR.SUB.STEP.addr)
  let s := if s.subscribed then
      (if s.gapPaired then ({ s with curr := { s.curr with gaps := 0, gapRaised := false } }).set CURR.SUBSTAT.PAIRED 1
       else s.set CURR.SUBSTAT.PAIRED 0)
    else { s with curr := { s.curr with gaps := 0, gapRaised := false } }
  s.subEnd.currStatus

/-! ### Rows -/

/-- BROADCAST_BLOCK_RX (R119 to R122); without its SOS or after a loss of framing no slot is found (R326). -/
def execBroadcastBlockRx (p : Port) (sos : Bool) (x : Slot) (s : State) : Host.Outcome State Fault Refusal :=
  whenActive [.curr, .imp] s fun s => if sos && s.framed p then s.bcastRx p x else s

/-- GAP_TREAD (R121, R122). -/
def execGapTread (s : State) : Host.Outcome State Fault Refusal := whenActive [.curr] s fun s => s.gapReport

end Sys2Proof.Machine
end

