-- ==== Sys2Proof/Machine/Diag.lean ====
section
/-! DEFINITION. Diag.lean: sense-wire and input diagnostics: diagnostic treads, tap tests, open-tap verdicts,
pin checks, impedance suspicion and the span fallback (10). -/
namespace Sys2Proof.Machine

/-! ### Groups and treads (R233, R234) -/

/-- Call a tread out of turn for a pair of groups; a tread already called for the other pair passes it on to the
next (R234, R242; DEDUCED, log 72) -/
def addCall : Nat → List (Nat × Nat × Nat) → Nat → Nat × Nat → List (Nat × Nat × Nat)
  | 0, l, _, _ => l
  | fuel + 1, l, t, p =>
    match l.find? (fun c => c.1 == t) with
    | some c => if c.2 = p then l else addCall fuel l (t + 1) p
    | none => l ++ [(t, p)]

/-- The pair of groups that share a diagnostic tread. -/
def groupPair (g : Nat) : Nat × Nat := if g < 2 then (0, 1) else (2, 3)

/-- A write of 1 to DIAG.CTRL.NOW (R234). -/
def State.diagNow (s : State) : State :=
  if s.usedB DIAG.CFG.EN then
    let t := s.tm.tread
    let l := s.diag.called.filter (fun c => decide (c.1 ≠ t + 1 ∧ c.1 ≠ t + 2))
    { s with diag := { s.diag with called := l ++ [(t + 1, 0, 1), (t + 2, 2, 3)] } }
  else s

/-- The groups the present tread tests, if it is a diagnostic tread (R233, R234). -/
def State.diagGroups (s : State) : Option (Nat × Nat) :=
  if s.usedB DIAG.CFG.EN = false ∨ s.tm.tread = 0 then none
  else match s.diag.called.find? (fun c => c.1 == s.tm.tread) with
    | some c => some c.2
    | none =>
      let p := s.used DIAG.OWPER
      if p ≠ 0 ∧ s.tm.ltc % p = 0 then some (if s.tm.ltc / p % 2 = 0 then (0, 1) else (2, 3)) else none

/-- A diagnostic tread begins (R233). -/
def State.diagBegin (s : State) : State :=
  match s.diagGroups with
  | none => s
  | some p => (({ s with diag := { s.diag with groups := some p, called := s.diag.called.filter (fun c => decide (s.tm.tread < c.1)) } }).setB DIAG.STATUS.DTREAD true).inc DIAG.DTCNT

/-- Master clock 0: no diagnostic tread until one begins. -/
def State.diagTreadEnd (s : State) : State :=
  ({ s with diag := { s.diag with groups := none, testing := [], began := [], got := [], drive := (s.diag.drive.map (fun (e : Nat × List TapDrive) => (e.1, e.2.filter (fun (d : TapDrive) => decide (s.absClk 0 ≤ d.b + 16 * s.osr))))).filter (fun (e : Nat × List TapDrive) => !e.2.isEmpty) } }).setB DIAG.STATUS.DTREAD false

/-! ### Skips and holds (R235, R236) -/

/-- Balance switch `k` is held off in riser `r` by a tap test (R236). -/
def State.diagHolds (s : State) (r k : Nat) : Bool :=
  (List.range 37).any (fun n => decide (n ≤ k + 1 ∧ k ≤ n + 2) && s.tapBusy r n)

/-! ### Status, faults, SF6 inputs -/

/-- OPEN bit of tap `n`. -/
def State.tapOpen (s : State) (n : Nat) : Bool := decide (n < 37) && s.vbit DIAG.OPEN0 n

/-- Taps served by the span fallback (R243). -/
def State.fallTaps (s : State) : List Nat :=
  (((List.range 36).filter (fun n => s.tapOpen n && decide (1 ≤ n) && decide (look s.diag.kind n = 1 ∨ look s.diag.kind n = 2) &&
    !s.tapOpen (n - 1) && !s.tapOpen (n + 1))).take 4)

/-- Span fallback covers cell index `c` (R262). -/
def State.fallCovers (s : State) (c : Nat) : Bool := s.fallTaps.contains c || s.fallTaps.contains (c + 1)

/-- The SF6 inputs of R243 and R246. -/
def State.diagSf6 (s : State) : Bool :=
  let open' := (List.range 37).filter s.tapOpen
  decide (4 < open'.length) || open'.any (fun n => s.tapOpen (n + 1)) || open'.any (fun n => look s.diag.kind n == 3) ||
    s.tapOpen 36 || s.anyV DIAG.PINFAIL0 36

/-- Fault 19 and DIAG.STATUS (R240, R248). -/
def State.diagStatus (s : State) : State :=
  let b := s.anyV DIAG.OPEN0 37
  ((((s.cond 19 b).setB DIAG.STATUS.OWLIVE b).setB DIAG.STATUS.PINLIVE (s.anyV DIAG.PINFAIL0 36)).setB DIAG.STATUS.FALLBACK (!s.fallTaps.isEmpty)).setB
    DIAG.STATUS.SF6IN s.diagSf6

/-- PINFAIL of cell index `c` from its two conditions (R244, R245). -/
def State.pinUpdate (s : State) (c : Nat) : State :=
  if 36 ≤ c then s
  else
    let b := look s.diag.devFail c || look s.diag.rserFail c || look s.diag.rserFail (c + 1)
    let was := s.vbit DIAG.PINFAIL0 c
    let s := s.setV DIAG.PINFAIL0 c b
    (if b && !was then s.evt DIAG.EVT.PINFAIL else s).diagStatus

/-- One observation d of cell index `c`, in µV (R244). -/
def State.pinObserve (s : State) (c : Nat) (d : Int) : State :=
  if s.count ≤ c then s
  else
    let bad := decide (100 * s.used DIAG.DLIM < d.natAbs)
    let nb := if bad then look s.diag.devBad c + 1 else 0
    let no := if bad then 0 else look s.diag.devOk c + 1
    let f := if 4 ≤ nb then true else if 4 ≤ no then false else look s.diag.devFail c
    ({ s with diag := { s.diag with dev := put s.diag.dev c (some d), devBad := put s.diag.devBad c nb, devOk := put s.diag.devOk c no, devFail := put s.diag.devFail c f } }).pinUpdate c

/-! ### Span conversions (R239, R243) -/

/-- A span conversion of tap `n` for the safety processor is running or pending. -/
def State.spanInFlight (s : State) (n : Nat) : Bool :=
  [s.aux.a.urg, s.aux.a.urgPend, s.aux.b.urg, s.aux.b.urgPend].any (fun q => match q with
    | some q => q.who == 2 && eType q.word == 2 && eSel q.word == n
    | none => false)

/-- Request the waiting span conversions, as far as a converter takes one (a host request that waits there is displaced, R139),
those of a verdict from riser 10
on: AUX-B, or AUX-A when AUX-B is
disabled or under calibration. -/
def State.spanFeed (s : State) : State :=
  forEach ((if 10 ≤ s.bal.riser then s.diag.verdict else []) ++ s.diag.fallback) (fun (n : Nat) (s : State) =>
    let c : Conv := if !s.auxOn .b || s.auxCal .b then .a else .b
    let full := match (s.conv c).urgPend with | some p => decide (p.who ≤ 2) | none => false
    if s.spanInFlight n || full then s else s.procRequest c 2 n) s

/-- Set a tap open with its kind (R240). -/
def State.tapClassify (s : State) (n kind : Nat) : State :=
  let was := s.tapOpen n
  let s := ({ s with diag := { s.diag with kind := put s.diag.kind n kind, verdict := s.diag.verdict.filter (· ≠ n) } }).setV DIAG.OPEN0 n true
  (if was then s else s.evt DIAG.EVT.OPEN).diagStatus

/-- d of the cells beside tap `n` within DLIM (R240). -/
def State.devWithin (s : State) (n : Nat) : Bool :=
  let ok := fun (d : Int) => decide (d.natAbs ≤ 100 * s.used DIAG.DLIM)
  let m := look s.diag.ref n
  ok (m.vN - m.sN) && (decide (n = 36) || ok (m.vN1 - m.sN1))

/-- The span result of a verdict (R240); a result with OVR or NA conserves nothing (DEDUCED, log 73) -/
def State.spanVerdict (s : State) (n : Nat) (r : AuxRes) : State :=
  if s.diag.verdict.contains n then
    let d := (look s.cells.snap (n - 1)).v + (look s.cells.snap n).v - 2 * r.v
    let kept := !r.ovr && !r.na && decide (d.natAbs ≤ 10 * s.used DIAG.SPANLIM)
    s.tapClassify n (if !kept then 3 else if s.devWithin n then 1 else 2)
  else s

/-! ### The tap test (R237 to R240, R245) -/

/-- The mean of the last 16 estimates of R_ser and its window (R245). (DEDUCED, log 71) -/
def State.rserAdd (s : State) (n : Nat) (e : Rat) : State :=
  let l := (e :: look s.diag.rser n).take 16
  let s := { s with diag := { s.diag with rser := put s.diag.rser n l } }
  if l.length < 16 then s
  else
    let m : Rat := l.sum / 16
    let bad := decide (m < (s.used { DIAG.RSERWIN with w := 8 } : Nat)) || decide (((s.used { DIAG.RSERWIN with lo := 8, w := 8 } : Nat) : Rat) < m)
    (({ s with diag := { s.diag with rserMean := put s.diag.rserMean n (some m), rserFail := put s.diag.rserFail n bad } }).pinUpdate (n - 1)).pinUpdate n

/-- A passing test (R240, R242, R245). -/
def State.tapPass (s : State) (n : Nat) (d0 d1 : Int) : State :=
  let p := look s.diag.passes n + 1
  let s := { s with diag := { s.diag with passes := put s.diag.passes n p, fails := put s.diag.fails n 0 } }
  let s := s.setV DIAG.ZSUSP0 n false
  let s := if s.tapOpen n ∧ s.used DIAG.CFG.OWN ≤ p then
      ((({ s with diag := { s.diag with kind := put s.diag.kind n 0 } }).setV DIAG.OPEN0 n false).evt DIAG.EVT.CLOSED).diagStatus
    else s
  let a : Rat := if n = 36 then (d0.natAbs : Rat) / 100 else ((d0.natAbs + d1.natAbs : Nat) : Rat) / 200
  s.rserAdd n (a - s.rwOf n / 100000)

/-- A failing test (R239): the OWN-th in a row asks for the verdict; a tap that is not open asks again at each later one.
(DEDUCED, log 143) -/
def State.tapFail (s : State) (n : Nat) : State :=
  let f := look s.diag.fails n + 1
  let s := { s with diag := { s.diag with fails := put s.diag.fails n f, passes := put s.diag.passes n 0 } }
  if f < s.used DIAG.CFG.OWN ∨ (s.tapOpen n = true ∧ f ≠ s.used DIAG.CFG.OWN) then s
  else if n = 36 then s.tapClassify 36 (if s.devWithin 36 then 1 else 2)
  else { s with diag := { s.diag with verdict := s.diag.verdict.filter (· ≠ n) ++ [n] } }

/-- The corrected means of a test riser in µV (R237, R90); tap 36 has no cell above it. -/
def State.tapRef (s : State) (n : Nat) (m : TapMeas) : TapRef :=
  { vN := roundRat (s.corrected (n - 1) s.cells.dieTemp m.vN)
    vN1 := if n = 36 then 0 else roundRat (s.corrected n s.cells.dieTemp m.vN1)
    sN := m.sN, sN1 := m.sN1 }

/-- One riser of the test of tap `n` (R235, R237, R244). -/
def State.tapPhase (s : State) (n : Nat) (ph : TapPhase) (m : TapMeas) : State :=
  match s.tapRiser? n with
  | none => s
  | some r0 =>
    match ph with
    | .reference =>
      if s.diag.began.contains n then s
      else if s.diagSkip n then s.tapSkip n
      else
        let m := s.tapRef n m
        { s with diag := { s.diag with began := s.diag.began ++ [n], testing := s.diag.testing.filter (· ≠ n) ++ [n], ref := put s.diag.ref n m, got := put s.diag.got n none, skipped := put s.diag.skipped n false } }
    | .sink =>
      if s.diag.testing.contains n = false then s
      else
        let b := look s.diag.ref n
        let m := s.tapRef n m
        let t := s.absClk (256 * (r0 + 1))
        { s with diag := { s.diag with got := put s.diag.got n (some (m.vN - b.vN, m.vN1 - b.vN1)), drive := adj s.diag.drive n (fun l => l ++ [TapDrive.mk t (t + 256) true]) } }
    | .source clks =>
      if s.diag.testing.contains n = false then s
      else
        let t := s.absClk (256 * (r0 + 2))
        { s with diag := { s.diag with drive := adj s.diag.drive n (fun l => l ++ [TapDrive.mk t (t + clks.val) false]) } }

/-- The observations of riser r, which an abandoned test discards and an open tap does not make (R235, R244). -/
def State.tapObserve (s : State) (n : Nat) : State :=
  let m := look s.diag.ref n
  if s.tapOpen n then s
  else
    let s := s.pinObserve (n - 1) (m.vN - m.sN)
    if n = 36 then s else s.pinObserve n (m.vN1 - m.sN1)

/-- The observations and the verdict on the ΔV of tap `n`'s finished test (R239, R240, R244). (DEDUCED, log 143) -/
def State.tapJudge (s : State) (n : Nat) : State :=
  let s := s.tapObserve n
  match look s.diag.got n with
  | none => s
  | some (d0, d1) =>
    let s := { s with diag := { s.diag with got := put s.diag.got n none, dv := put s.diag.dv n (d0, d1) } }
    let thr : Int := 1000 * s.used { DIAG.OWTHR with w := 8 }
    if d0 < -thr ∧ (n = 36 ∨ thr < d1) then s.tapFail n else s.tapPass n d0 d1

/-- The group before riser `r` has ended: its tests are judged and release what they hold (R236, R239). -/
def State.diagGroupEnd (s : State) (r : Nat) : State :=
  if r = 7 ∨ r = 10 then
    let done := s.diag.testing.filter (fun n => match s.tapRiser? n with | some r0 => decide (r0 + 3 ≤ r) | none => true)
    let s := { s with diag := { s.diag with testing := s.diag.testing.filter (fun n => !done.contains n) } }
    let s := forEach done (fun n s => s.tapJudge n) s
    forEach [Conv.a, Conv.b] (fun (c : Conv) (s : State) =>
      if (s.conv c).passOn && !(s.conv c).busy && (s.conv c).urg.isNone && !s.auxCal c then State.advance 40 s c (256 * r) else s) s
  else s

/-! ### Impedance suspicion (R242) -/

/-- Magnitudes of results, sorted. -/
def insSorted (x : Nat) : List Nat → List Nat
  | [] => [x]
  | y :: l => if x ≤ y then x :: y :: l else y :: insSorted x l

/-- The two middle values of a list, one of them twice where its length is odd. -/
def midPair (l : List Nat) : Nat × Nat :=
  let m := l.foldl (fun a x => insSorted x a) []
  let h := m.length / 2
  (m.getD (if m.length % 2 = 1 then h else h - 1) 0, m.getD h 0)

/-- √x exceeds k times the mean of √a and √b, in whole numbers: 2 k² √(a b) < 4 x − k² (a + b). The median of an even number of values
is the mean of the two middle ones (DEDUCED, log 67) -/
def overMedian (k : Nat) (m : Nat × Nat) (x : Nat) : Bool :=
  let r := 4 * x - k ^ 2 * (m.1 + m.2)
  decide (k ^ 2 * (m.1 + m.2) < 4 * x) && decide (4 * k ^ 4 * (m.1 * m.2) < r ^ 2)

/-- Mark tap `n` suspect; a newly suspect tap calls the next tread for its groups (R242). Tap 0, which cell 1 alone can make suspect, is
never tested and keeps its bit (R233). -/
def State.suspect (s : State) (n : Nat) : State :=
  if s.count < n ∨ s.vbit DIAG.ZSUSP0 n = true then s
  else
    let s := (s.setV DIAG.ZSUSP0 n true).evt DIAG.EVT.ZSUSP
    if s.usedB DIAG.CFG.EN then
      { s with diag := { s.diag with called := addCall 8 s.diag.called (s.tm.tread + 1) (groupPair (n % 4)) } }
    else s

/-- Check the results a lane has just formed (R242). -/
def State.zCheck (s : State) (rs : List (Nat × ImpRec)) : State :=
  if s.usedB DIAG.CFG.ZEN = false then s
  else
    let mag2 := fun (r : ImpRec) => r.re.natAbs ^ 2 + r.im.natAbs ^ 2
    let m := midPair ((rs.filter (fun r => !r.2.flag 0)).map (fun r => mag2 r.2))
    forEach (rs.filter (fun r => !r.2.flag 0 && !r.2.flag 2)) (fun (r : Nat × ImpRec) (s : State) =>
      let big := overMedian (s.used DIAG.CFG.ZRATIO) m (mag2 r.2)
      let s := if r.2.re < 0 || big then s.suspect (r.1 + 1) else s
      if big then s.suspect r.1 else s) s

/-! ### Rows -/

/-- DIAG_TREAD (R233, R234, R242). -/
def execDiagTread (s : State) : Host.Outcome State Fault Refusal := whenActive [.diag] s fun s => s.diagBegin

/-- TAP_TEST_PHASE (R235 to R240, R244, R245). -/
def execTapTestPhase (t : Tap) (ph : TapPhase) (m : TapMeas) (s : State) : Host.Outcome State Fault Refusal :=
  whenActive [.diag] s fun s => s.tapPhase t.val ph m

/-- NOW (R234). -/
def execNow (s : State) : Host.Outcome State Fault Refusal := whenActive [.diag] s fun s => s.diagNow

/-- SPAN_FALLBACK: the fallback taps' span conversions of the tread are requested (R243). -/
def execSpanFallback (s : State) : Host.Outcome State Fault Refusal :=
  whenActive [.bal, .aux, .diag] s fun s => (({ s with diag := { s.diag with fallback := s.fallTaps } }).spanFeed).diagStatus

/-- IMP_RESULTS: the lane's results are formed and checked (R199 to R207, R242). -/
def execImpResults (k : Fin 8) (s : State) : Host.Outcome State Fault Refusal :=
  whenActive [.xact, .imp, .diag] s fun s =>
    let due := (look s.imp.lanes k.val).fin.head?
    let s' := s.impResults k.val
    match due with
    | some i => if s.resultsDue i then s'.zCheck (i.cells.map (fun c => (c, look s'.imp.img.recs (k.val * 64 + c)))) else s'
    | none => s'

end Sys2Proof.Machine
end

