-- ==== Sys2Proof/Machine/Balance.lean ====
section
/-! DEFINITION. Balance.lean: cell balancing: duty, allocation of risers, modes, derating, switch monitoring,
wire-resistance learning, active excitation's switches (09, R194 to R197). -/
namespace Sys2Proof.Machine

/-! ### Settings in use -/

/-- The first riser of the balancing window (R220). -/
def State.balFirst (s : State) : Nat := if s.used { BAL.QUIET_EXT with w := 1 } = 1 then 3 else 2

/-- W of R215. -/
def State.balW (s : State) : Nat := (16 - s.balFirst) * 16

/-- The duty word of switch n, 1 to 36. -/
def dutyFld (n lo w : Nat) : Fld := { page := 0x12, word := 0x08 + n, lo := lo, w := w }

def State.dutyValue (s : State) (n : Nat) : Nat := s.used (dutyFld n 0 8)
def State.dutyMode (s : State) (n : Nat) : Nat := s.used (dutyFld n 8 2)
def State.dutyRun (s : State) (n : Nat) : Bool := s.bit (dutyFld n 10 1)

/-- All switches of cells within COUNT. -/
def State.switches (s : State) : List Nat := (List.range 36).map (· + 1) |>.filter (fun n => decide (n ≤ s.count))

/-! ### Derating (R221, R222) -/

/-- The default curve (R221). -/
def derateDefault : List (Int × Int) := [(0x550, 256), (0x5F0, 128), (0x690, 64), (0x730, 0)]

/-- L at the die temperature of the newest image (R221). -/
def State.derateL (s : State) : Nat :=
  let y := match s.lookup 2 true false s.cells.dieTemp with
    | some y => y
    | none => interp derateDefault s.cells.dieTemp
  (clampI 0 256 y).toNat

/-- Faults 20 and 21 with the limit in use and the cells that run (R222). -/
def State.derateJudge (s : State) : State :=
  let l := s.get { BAL.DERATE with w := 9 }
  let run := s.switches.filter s.dutyRun
  let f20 := decide (l < s.balW) && run.any (fun n => decide (l < s.dutyValue n))
  let f21 := decide (l = 0) && !run.isEmpty
  (((s.cond 20 f20).cond 21 f21).setB BAL.STATUS.DERATING f20).setB BAL.STATUS.THERMSTOP f21

/-- Evaluate L at master clock 0: DERATE, TBLDEF, faults 20 and 21 (R221, R222). -/
def State.derate (s : State) : State :=
  ((s.set { BAL.DERATE with w := 9 } s.derateL).setB BAL.STATUS.TBLDEF (s.points 2).isEmpty).derateJudge

/-! ### What holds a switch off (R220) -/

/-- Switch n is held open in riser `r`. -/
def State.balHeld (s : State) (r n : Nat) : Bool :=
  s.vbit BAL.SWFAIL0 (n - 1) || look s.safe.tripped (2 * (n - 1)) || look s.safe.tripped (2 * (n - 1) + 1) ||
  look s.safe.tripped 73 || s.urgHolds n || s.diagHolds r n ||
  (match s.pw.closing with | some (.sleep _) => true | _ => false)

/-! ### Active excitation (R194 to R197) -/

/-- Switches the active lane may drive in the present tread. -/
def State.excSwitches (s : State) : List Nat :=
  if s.excRuns then (s.excCells.map (· + 1)).filter (fun n => !s.followsBal n) else []

/-- The active lane's phase 2π f t lies in [0, π) modulo 2π at clock `t` since tread 0, time counting from the first boundary of
the lane's integration (R183, R194). -/
def State.tonePhase (s : State) (t : Nat) : Bool :=
  match (look s.imp.lanes (s.get IMP.EXCCFG.ACTLANE)).cur with
  | some i =>
    let x : Rat := (i.n : Rat) * (((t : Int) - (i.first : Int) : Int) : Rat) / (64 * 4096000)
    decide (x - x.floor < 1 / 2)
  | none => s.bal.phase

/-- The commanded square wave of switch n: θ is 0 for odd and π for even n (R194). -/
def State.excWave (s : State) (n : Nat) : Bool := if n % 2 = 1 then s.bal.phase else !s.bal.phase

/-- Mark a flag of the running active integration of cell index `c`: BALC, or EXCSUSP with its event (R197, R208). (DEDUCED, log 66) -/
def State.markInteg (s : State) (c : Nat) (susp : Bool) : State :=
  forEach (List.range 8) (fun (k : Nat) (s : State) =>
    let l := look s.imp.lanes k
    match l.cur with
    | some i => if s.isActive k then s.setLane k { l with cur := some (if susp then { i with susp := put i.susp c true } else { i with balc := put i.balc c true }) } else s
    | none => s) (if susp then s.evt IMP.EVT.EXCSUSP else s)

/-! ### R213 -/

/-- Taking `n` beside the switches `k` keeps R213. -/
def State.nbrOk (s : State) (k : List Nat) (n : Nat) : Bool :=
  s.extFet ||
  (if s.usedB BAL.CFG.NBR then
    !((k.contains (n + 1) && k.contains (n + 2)) || (decide (1 ≤ n) && k.contains (n - 1) && k.contains (n + 1)) ||
      (decide (2 ≤ n) && k.contains (n - 1) && k.contains (n - 2)))
   else !(k.contains (n + 1) || (decide (1 ≤ n) && k.contains (n - 1))))

/-- Another internal switch fits under MAXON (R217). -/
def State.roomOn (s : State) (k : List Nat) : Bool := s.extFet || decide (k.length < s.used { BAL.MAXON with w := 6 })

/-! ### Allocation (R217, R228) -/

/-- Distance of a cell from the pointer, counting upward and wrapping at COUNT. -/
def State.ptrDist (s : State) (n : Nat) : Nat := (n - 1 + s.count - s.bal.ptr % max s.count 1) % max s.count 1

/-- Insert a candidate: more owed risers first, then nearer to the pointer (R217). -/
def State.insCand (s : State) (n : Nat) : List Nat → List Nat
  | [] => [n]
  | m :: l =>
    if look s.bal.owed m < look s.bal.owed n ∨ (look s.bal.owed n = look s.bal.owed m ∧ s.ptrDist n < s.ptrDist m) then n :: m :: l
    else m :: s.insCand n l

/-- Insert a cell of the learning pattern by its distance from the pointer (R228). -/
def State.insRot (s : State) (n : Nat) : List Nat → List Nat
  | [] => [n]
  | m :: l => if s.ptrDist n < s.ptrDist m then n :: m :: l else m :: s.insRot n l

/-- Take candidates in order; answers those taken and those passed over (R217). -/
def State.takeCands (s : State) : List Nat → List Nat → List Nat → List Nat × List Nat
  | [], k, p => (k, p)
  | n :: l, k, p => if s.roomOn k && s.nbrOk k n then s.takeCands l (k ++ [n]) p else s.takeCands l k (p ++ [n])

/-- A learning tread (R228). -/
def State.learnTread (s : State) : Bool := s.usedB BAL.CFG.LEARN && decide (s.tm.ltc % 16 = 0) && !s.excRuns

/-- The learning pattern of riser 15: at most MAXON, with the rotation of R217 (R228). -/
def State.learnSet (s : State) : List Nat :=
  let l := s.switches.filter (fun n => decide (n % 4 = s.tm.ltc / 16 % 4) && !s.balHeld 15 n)
  let l := l.foldl (fun (a : List Nat) n => s.insRot n a) []
  if s.extFet then l else l.take (s.used { BAL.MAXON with w := 6 })

/-! ### Currents (R212) -/

/-- Close switch n for clocks a to b of the clock since tread 0. -/
def State.closeSw (s : State) (k : List Nat) (n why a b : Nat) : State :=
  let c : Conduct := { a := a, b := b, i := s.swI s.bal.meas k n, vs := s.vsOf s.bal.meas n, rp := s.rPath n, why := why }
  { s with bal := { s.bal with on := put s.bal.on n why, cond := adj s.bal.cond n (fun l => l ++ [c]) } }

/-! ### Monitoring (R224, R225) -/

/-- Publish a mean of 1,024 values: RON, HEALTH.RONMAX and RONCELL (R224). -/
def State.ronPublish (s : State) (n : Nat) (v : Int) : State :=
  let s := { s with bal := { s.bal with ron := put s.bal.ron n (some v), ronSum := put s.bal.ronSum n 0, ronCnt := put s.bal.ronCnt n 0, pathBad := put s.bal.pathBad n (decide (v < 300 ∨ 1800 < v)) } }
  let r : Nat → Int := fun k => (look s.bal.ron k).getD 0
  let best := ((List.range 36).map (· + 1)).foldl (fun (b k : Nat) => if r b < r k then k else b) 1
  (s.healthSet HEALTH.RONMAX (min (r best).toNat 65534) none).healthSet HEALTH.RONCELL best none

/-- One value of R_on for switch n conducting alone (R224). -/
def State.ronValue (s : State) (n : Nat) (vS vSw : Rat) : State :=
  if s.extFet || vS = vSw then s
  else
    let x : Rat := vSw * (20 * s.used BAL.RBAL : Nat) / (vS - vSw)
    let sum := look s.bal.ronSum n + x
    let cnt := look s.bal.ronCnt n + 1
    if cnt = 1024 then s.ronPublish n (roundRat (sum / 1024))
    else { s with bal := { s.bal with ronSum := put s.bal.ronSum n sum, ronCnt := put s.bal.ronCnt n cnt } }

/-- Switch `n` conducts through all clocks from `a` to `b`, or through none of them. -/
def State.swAll (s : State) (n a b : Nat) : Bool := onClks (look s.bal.cond n) a b == b - a
def State.swNone (s : State) (n a b : Nat) : Bool := onClks (look s.bal.cond n) a b == 0

/-- The drop monitors' readings of a riser that has ended, `r` its number and `a` its first clock (R224, R225): the last 128
clocks of a switch that conducts there, the whole of riser 2 of one commanded off. -/
def State.monitor (s : State) (r a : Nat) : State :=
  forEach s.bal.meas (fun (m : SwitchMeas) (s : State) =>
    let n := m.cell.val + 1
    let vS := s.vsOf s.bal.meas n
    if s.swAll n (a + 128) (a + 256) then
      let lim : Rat := if s.extFet then 200000 else 1800 * vS / (max (s.rPath n) 1 : Nat)
      let s := { s with bal := { s.bal with wasOn := put s.bal.wasOn n true } }
      let s := if (m.vSw : Rat) ≤ lim then { s with bal := { s.bal with dropOk := put s.bal.dropOk n true } } else s
      if s.swNone (n + 1) (a + 128) (a + 256) && s.swNone (n - 1) (a + 128) (a + 256) then s.ronValue n vS m.vSw else s
    else if r = 2 ∧ s.swNone n a (a + 256) = true then { s with bal := { s.bal with sw2 := put s.bal.sw2 n (some m.vSw) } }
    else s) s

/-! ### Edges (R227) -/

/-- The edges of riser 15, which began at clock `a` and has ended, awaiting the next snapshot. -/
def State.edges (s : State) (a : Nat) : State :=
  let taps := (List.range s.count).filter (fun n => decide (1 ≤ n))
  let all := fun n => s.swAll n a (a + 256)
  let off := fun n => s.swNone n a (a + 256)
  let edge := fun (obs n : Nat) => (measOf s.bal.meas obs).map (fun m => (obs - 1, s.corrected (obs - 1) s.cells.dieTemp m.vEnd, s.swI s.bal.meas [n] n))
  let es := taps.foldl (fun (m : SMap (Option (Nat × Rat × Rat))) n =>
    if !off (n - 1) || !off (n + 2) then m
    else if all n && off (n + 1) then put m n (edge (n + 1) n)
    else if all (n + 1) && off n then put m n (edge n (n + 1))
    else m) []
  { s with bal := { s.bal with edgePend := es } }

/-- The edge steps of the last tread, formed with the image just made (R227): the observing cell must be clean. -/
def State.learnEdges (s : State) : State :=
  let s' := forEach s.bal.edgePend (fun (e : Nat × Option (Nat × Rat × Rat)) (s : State) =>
    match e.2 with
    | none => s
    | some (c, w, i) =>
      let r := look s.cells.snap c
      let x := look s.bal.edge e.1
      if r.ovr || r.nbr || r.stale || r.bal || r.pls || decide (r.unc = 15) || decide (1024 ≤ x.n) then s
      else
        let d : Rat := w - r.v
        { s with bal := { s.bal with edge := put s.bal.edge e.1 { n := x.n + 1, vi := x.vi + d * i, ii := x.ii + i * i } } }) s
  { s' with bal := { s'.bal with edgePend := [] } }

/-! ### The riser (R212 to R217, R224, R228) -/

/-- Place of the riser's switches: those balancing or learning, then the excited ones (R217); one cell never does both in a tread, even
when its lane starts or ends within it (R223). Answers the balancing set, the passed-over candidates and the excited set. -/
def State.allocate (s : State) (r : Nat) : List Nat × List Nat × List Nat :=
  if r < s.balFirst then ([], [], [])
  else if r = 15 ∧ s.learnTread = true then (s.learnSet, [], [])
  else
    let cands := s.switches.filter (fun n => s.dutyRun n && decide (0 < look s.bal.owed n) && !look s.bal.given n && !s.excSwitches.contains n && !s.balHeld r n)
    let ordered := cands.foldl (fun (a : List Nat) n => s.insCand n a) []
    let (k, p) := s.takeCands ordered [] []
    let ex := if s.excOff then [] else (s.excSwitches.filter (fun n => !s.balHeld r n && !k.contains n && s.excWave n && look s.bal.served n == 0))
    let (kx, _) := s.takeCands ex k []
    (k, p, kx.filter (fun n => !k.contains n))

/-- A riser boundary of the balancing window: the switches of riser `r`, with the readings of that riser. -/
def State.riserAlloc (s : State) (r : Nat) (meas : List SwitchMeas) : State :=
  let s := s.diagGroupEnd r
  let s := s.monitor s.bal.riser (s.absClk (256 * s.bal.riser))
  let s := { s with bal := { s.bal with phase := s.tonePhase (s.absClk (256 * r)) } }
  let (k, p, x) := s.allocate r
  let learn := decide (r = 15) && s.learnTread && decide (s.balFirst ≤ r)
  let all := k ++ x
  let a := s.absClk (256 * r)
  let wanted := if r < s.balFirst then [] else s.excSwitches.filter (fun n => s.excWave n)
  let s := { s with bal := { s.bal with riser := r, given := if r < s.balFirst then s.bal.given else s.excSwitches.foldl (fun (m : SMap Bool) n => put m n true) s.bal.given, meas := meas, on := [], cut := [], ptr := if s.count = 0 then 0 else (s.bal.ptr + 1) % s.count } }
  let s := forEach k (fun (n : Nat) (s : State) => s.closeSw all n (if learn then 3 else 1) a (a + 256)) s
  let s := forEach x (fun (n : Nat) (s : State) => s.closeSw all n 2 a (a + 256)) s
  let s := if learn then s else
    forEach k (fun (n : Nat) (s : State) => { s with bal := { s.bal with owed := adj s.bal.owed n (· - 1), served := adj s.bal.served n (· + 1) } }) s
  let s := forEach p (fun (n : Nat) (s : State) => { s with bal := { s.bal with passed := put s.bal.passed n true } }) s
  let s := forEach (wanted.filter (fun n => !x.contains n && !s.balHeld r n)) (fun (n : Nat) (s : State) => s.markInteg (n - 1) true) s
  if 10 ≤ r then s.spanFeed else s

/-- A phase edge of the active lane at clock `clk` of the present tread, `on` where the phase enters [0, π) (R194, R195). -/
def State.excEdge (s : State) (on : Bool) (clk : Nat) : State :=
  let t := s.absClk clk
  let r := clk / 256
  if s.excRuns = false ∨ s.tonePhase t ≠ on then s
  else
    let s := { s with bal := { s.bal with phase := on } }
    let off := (List.range 37).filter (fun n => look s.bal.on n == 2 && !s.excWave n)
    let s := forEach off (fun (n : Nat) (s : State) => s.cutSwitch n t) s
    if r < s.balFirst ∨ s.excOff = true ∨ s.tm.idle = true ∨ (r = 15 ∧ s.learnTread = true) then s
    else
      let k := (List.range 37).filter (fun n => look s.bal.on n != 0)
      let want := s.excSwitches.filter (fun n => s.excWave n && !k.contains n)
      let ex := want.filter (fun n => !s.balHeld r n && look s.bal.served n == 0)
      let (kx, p) := s.takeCands ex k (want.filter (fun n => !s.balHeld r n && look s.bal.served n != 0))
      let s := { s with bal := { s.bal with given := s.excSwitches.foldl (fun (m : SMap Bool) n => put m n true) s.bal.given } }
      let s := forEach (kx.filter (fun n => !k.contains n)) (fun (n : Nat) (s : State) => s.closeSw kx n 2 t (s.absClk (256 * (r + 1)))) s
      (forEach p (fun (n : Nat) (s : State) => s.markInteg (n - 1) true) s).resolveSw t

/-! ### Modes (R218, R219) -/

/-- A write of DUTYnn of switch n (R218): MODE and VALUE are stored, and take effect at the next tread. (DEDUCED, log 70) -/
def State.dutySet (s : State) (n : Nat) (v : Word) : State :=
  let a := (dutyFld n 0 16).addr
  let mode := fieldOf v 8 2
  let plain := s.dutyRun n && decide (mode = fieldOf (s.reg a) 8 2)
  let w := withField (s.reg a) 0 10 (v.toNat % 1024)
  let s := s.holdReg a w
  if mode = 0 then { s with bal := { s.bal with pend := put s.bal.pend n 2 } }
  else if plain then s
  else { s with bal := { s.bal with pend := put s.bal.pend n 1 } }

/-- Turn a cell off (R218). -/
def State.balOff (s : State) (n : Nat) : State := (s.set (dutyFld n 8 2) 0).set (dutyFld n 10 1) 0

/-- The mode of switch n stops by its condition (R219). -/
def State.stopDue (s : State) (n : Nat) : Bool :=
  let t := decide (1000 * s.used BAL.TIME ≤ look s.bal.timer n)
  s.dutyRun n && (match s.dutyMode n with | 2 => t | 3 => t || decide (16 ≤ look s.bal.tgt n) | _ => false)

/-- MODE_STOP (R219): a stopped cell is owed nothing more. -/
def State.modeStop (s : State) (n : Nat) : State :=
  if s.stopDue n then
    let tout := decide (s.dutyMode n = 3) && decide (look s.bal.tgt n < 16)
    let s := (((s.set (dutyFld n 10 1) 0).set (dutyFld n 11 1) 1).setB (dutyFld n 13 1) tout).evt BAL.EVT.DONE
    ({ s with bal := { s.bal with eff := put s.bal.eff n 0, owed := put s.bal.owed n 0, owedSum := s.bal.owedSum - look s.bal.owed n } }).derateJudge
  else s

/-- Compare a running target-mode cell with its target (R219). -/
def State.targetJudge (s : State) (n : Nat) (r : Res) : State :=
  if s.dutyRun n = false ∨ s.dutyMode n ≠ 3 then s
  else
    let bad := r.ovr || r.nbr || r.stale || decide (r.unc = 15)
    let c := if bad then 0 else if r.v ≤ (s.used BAL.TARGET0 + 65536 * s.used { BAL.TARGET1 with w := 8 } : Nat) then look s.bal.tgt n + 1 else 0
    { s with bal := { s.bal with tgt := put s.bal.tgt n c } }

/-- The snapshot references of the tread, TGTSRC = 1 (R219). -/
def State.targetSnap (s : State) : State :=
  if s.usedB BAL.CFG.TGTSRC then forEach s.switches (fun (n : Nat) (s : State) => s.targetJudge n (look s.cells.snap (n - 1))) s else s

/-! ### The tread boundary -/

/-- Excitation on-time of switch n in the tread before the present master clock 0, in 1/256 tread, whole units
(R216, R196). -/
def State.excTime (s : State) (n : Nat) : Nat :=
  let t := s.absClk 0
  ((look s.bal.cond n).map (fun c => if c.why = 2 then min c.b t - max c.a (t - 4096) else 0)).sum / 16

/-- The ended tread's service: carry (R216), SERVE, ANYON, CAPPED, switch counts (R225). (DEDUCED, log 69) -/
def State.balTreadEnd (s : State) : State :=
  let a := s.absClk 0 - 4096 + 256 * s.bal.riser
  let s := s.monitor s.bal.riser a
  let s := if s.bal.riser = 15 then s.edges a else { s with bal := { s.bal with edgePend := [] } }
  let carry := s.switches.foldl (fun (m : SMap Nat) n =>
    put m n (min (look s.bal.eff n + look s.bal.carry n - 16 * look s.bal.served n - s.excTime n) 31)) s.bal.carry
  let on := s.switches.any (fun n => decide (0 < look s.bal.served n))
  let cap := s.switches.any (fun n => look s.bal.passed n && decide (0 < look s.bal.owed n))
  let srv := (s.switches.map (fun n => look s.bal.served n)).sum
  let ring := ((s.bal.owedSum, srv) :: s.bal.ring).take 1000
  let o := (ring.map Prod.fst).sum
  let stuckOn := s.switches.foldl (fun (m : SMap Nat) n =>
    put m n (match look s.bal.sw2 n with | some v => if 2 * v < (look s.cells.snap (n - 1)).v then look s.bal.stuckOn n + 1 else 0 | none => 0)) s.bal.stuckOn
  let stuckOff := s.switches.foldl (fun (m : SMap Nat) n =>
    put m n (if look s.bal.wasOn n && !look s.bal.dropOk n then look s.bal.stuckOff n + 1 else 0)) s.bal.stuckOff
  let was := s.bit BAL.STATUS.CAPPED
  let keep := (s.bal.cond.map (fun (e : Nat × List Conduct) => (e.1, e.2.filter (fun c => decide (s.absClk 0 < c.b + 16 * s.osr))))).filter (fun e => !e.2.isEmpty)
  let s := { s with bal := { s.bal with carry := carry, ring := ring, stuckOn := stuckOn, stuckOff := stuckOff, cond := keep, sw2 := [], wasOn := [], dropOk := [], passed := [], served := [], on := [], riser := 0, meas := [], cut := [] } }
  let s := ((s.setB BAL.STATUS.ANYON on).setB BAL.STATUS.CAPPED cap).set { BAL.SERVE with w := 9 } (if o = 0 then 256 else 256 * (ring.map Prod.snd).sum / o)
  if cap && !was then s.evt BAL.EVT.CAP else s

/-- Fault 22, SWLIVE, fault 23, WLIVE, LEARNED. -/
def State.balStatus (s : State) : State :=
  let f := s.anyV BAL.SWFAIL0 36
  let w := s.anyV BAL.WFAIL0 37
  ((((s.cond 22 f).setB BAL.STATUS.SWLIVE f).cond 23 w).setB BAL.STATUS.WLIVE w).setB BAL.STATUS.LEARNED
    (((List.range s.count).filter (fun n => decide (1 ≤ n))).all (fun n => (look s.bal.rw n).isSome))

/-- Writes and requests of the last tread take effect (R218, R225, R232). -/
def State.balAdopt (s : State) : State :=
  let ext := s.usedB BAL.CFG.EXTFET != s.bit BAL.CFG.EXTFET
  let s := s.release (fun a => decide (0x12 * 64 + 8 ≤ a ∧ a < 0x12 * 64 + 0x35))
  let s := forEach s.bal.pend (fun (e : Nat × Nat) (s : State) =>
    if e.2 = 2 then s.balOff e.1
    else
      let s := (((s.set (dutyFld e.1 11 1) 0).set (dutyFld e.1 13 1) 0).set (dutyFld e.1 10 1) 1)
      { s with bal := { s.bal with timer := put s.bal.timer e.1 0, tgt := put s.bal.tgt e.1 0, carry := put s.bal.carry e.1 0 } }) s
  let s := if s.bal.stopReq || ext then forEach ((List.range 36).map (· + 1)) (fun (n : Nat) (s : State) => s.balOff n) s else s
  let s := if s.bal.retestReq then { s.clearV BAL.SWFAIL0 36 with bal := { s.bal with retestReq := false, stuckOn := [], stuckOff := [], pathBad := [] } } else s
  ({ s with bal := { s.bal with pend := [], stopReq := false, retestReq := false } }).balStatus

/-- The duties of a tread under its limit L, as long as none of its risers has begun: e, k, CLIP and what an excitation loses
(R215, R219, R232). -/
def State.dutyLimit (s : State) : State :=
  if s.bal.riser ≠ 0 then s
  else
  let w := s.balW
  let l := s.get { BAL.DERATE with w := 9 }
  let e := fun (n : Nat) => if s.dutyRun n then min (s.dutyValue n) (min w l) else 0
  let eff := s.switches.foldl (fun (m : SMap Nat) n => put m n (e n)) ([] : SMap Nat)
  let owed := s.switches.foldl (fun (m : SMap Nat) n => put m n (if s.dutyRun n then min ((e n + look s.bal.carry n) / 16) (w / 16) else 0)) ([] : SMap Nat)
  let s := { s with bal := { s.bal with eff := eff, duty := s.switches.foldl (fun (m : SMap Bool) n => put m n (decide (0 < e n))) ([] : SMap Bool), given := [], owed := owed, owedSum := (s.switches.map (fun n => look owed n)).sum } }
  let s := forEach ((List.range 36).map (· + 1)) (fun (n : Nat) (s : State) => s.setB (dutyFld n 12 1) (decide (min w l < s.dutyValue n))) s
  let s := if s.excRuns then forEach (s.excCells) (fun (c : Nat) (s : State) =>
      let s := if s.followsBal (c + 1) then s.markInteg c false else s
      if s.excOff then s.markInteg c true else s) s else s
  s.impStatus

/-- Duty of the new tread: timers, target references, L, e, k, CLIP (R215, R216, R219). -/
def State.balTread (s : State) : State :=
  let s := s.balTreadEnd
  let s := { s with bal := { s.bal with timer := s.switches.foldl (fun (m : SMap Nat) n => if s.dutyRun n then put m n (look m n + 1) else m) s.bal.timer } }
  let s := s.balAdopt.derate
  let s := if s.usedB BAL.CFG.TGTSRC then s else forEach s.switches (fun (n : Nat) (s : State) => s.targetJudge n (look s.cells.fine (n - 1))) s
  s.dutyLimit

/-! ### Failures and learning (R225, R227, R229) -/

/-- The condition of a switch fault holds (R225). -/
def State.swBad (s : State) (n : Nat) (k : SwitchFault) : Bool :=
  match k with
  | .stuckOn => decide (4 ≤ look s.bal.stuckOn n)
  | .stuckOff => decide (4 ≤ look s.bal.stuckOff n)
  | .path => !s.extFet && look s.bal.pathBad n

/-- SWITCH_FAIL (R225): the bit sets, the switch is held open, RUN clears. -/
def State.switchFail (s : State) (n : Nat) (k : SwitchFault) : State :=
  if s.swBad n k = false ∨ s.vbit BAL.SWFAIL0 (n - 1) = true then s
  else (((s.setV BAL.SWFAIL0 (n - 1) true).evt BAL.EVT.SWFAULT).set (dutyFld n 10 1) 0).cutSwitches [n] |>.balStatus.derateJudge

/-- A block of 1,024 edges of tap `n` is complete (R227, R229). -/
def State.learnBlock (s : State) (n : Nat) : State :=
  let x := look s.bal.edge n
  if x.n < 1024 ∨ x.ii = 0 then s
  else
    let r : Rat := 100000 * x.vi / x.ii
    let s := { s with bal := { s.bal with edge := put s.bal.edge n { n := 0, vi := 0, ii := 0 } } }
    if r < 0 ∨ ((s.used BAL.RWMAX : Nat) : Rat) < r then ((s.setV BAL.WFAIL0 n true).evt BAL.EVT.WFAULT).balStatus
    else
      let v := match look s.bal.rw n with | none => r | some o => o + (r - o) / 4
      (({ s with bal := { s.bal with rw := put s.bal.rw n (some v) } }).setV BAL.WFAIL0 n false).balStatus

/-- A write of 1 to BAL.CTRL.RELEARN: every learned value, with the edges gathered, is discarded (R227). -/
def State.relearn (s : State) : State := ({ s with bal := { s.bal with rw := [], edge := [], edgePend := [] } }).balStatus

/-! ### Rows -/

/-- BAL_RISER_ALLOC (R212 to R217, R220, R224, R228, R194 to R197). -/
def execBalRiserAlloc (r : Fin 16) (meas : List SwitchMeas) (s : State) : Host.Outcome State Fault Refusal :=
  whenActive [.held, .bal, .xact, .aux, .imp, .diag] s fun s => s.riserAlloc r.val meas

/-- DUTY_WRITE (R218). -/
def execDutyWrite (c : Cell) (v : Word) (s : State) : Host.Outcome State Fault Refusal := whenActive [.held, .bal] s fun s => s.dutySet (c.val + 1) v

/-- MODE_STOP (R219). -/
def execModeStop (c : Cell) (s : State) : Host.Outcome State Fault Refusal := whenActive [.bal] s fun s => s.modeStop (c.val + 1)

/-- SWITCH_FAIL (R225). -/
def execSwitchFail (c : Cell) (k : SwitchFault) (s : State) : Host.Outcome State Fault Refusal :=
  whenActive [.bal] s fun s => s.switchFail (c.val + 1) k

/-- STOPALL (R232): every MODE becomes 00 at the next tread. -/
def execStopall (s : State) : Host.Outcome State Fault Refusal :=
  whenActive [.bal] s fun s => { s with bal := { s.bal with stopReq := true } }

/-- RELEARN (R227). -/
def execRelearn (s : State) : Host.Outcome State Fault Refusal := whenActive [.bal] s fun s => s.relearn

/-- BAL_RETEST (R225): every SWFAIL bit clears at the next tread. -/
def execBalRetest (s : State) : Host.Outcome State Fault Refusal :=
  whenActive [.bal] s fun s => { s with bal := { s.bal with retestReq := true } }

/-- LEARN_BLOCK (R227, R229). -/
def execLearnBlock (t : Tap) (s : State) : Host.Outcome State Fault Refusal := whenActive [.bal] s fun s => s.learnBlock t.val

/-- EXCITATION_SQUARE_WAVE_EDGE (R194, R195, R197). -/
def execExcitationSquareWaveEdge (on : Bool) (clk : Fin 4096) (s : State) : Host.Outcome State Fault Refusal :=
  whenActive [.bal, .imp] s fun s => s.excEdge on clk.val

end Sys2Proof.Machine
end

