-- ==== Sys2Proof/Machine/Output.lean ====
section
/-! DEFINITION. Output.lean: the heartbeat gate, the output permit and the switches it commands, and what the
end of a permit does to a test (R284, R286, R291 to R298). -/
namespace Sys2Proof.Machine

/-- Master clock 0 of the present tread in ns since supplies valid: tread 0 begins at 1.00 ms (R59). -/
def State.nowNs (s : State) : Nat := (s.tm.tread + 1) * 1000000

/-- The end of the riser in progress: an event that carries no clock lies no later. (DEDUCED, log 79) -/
def State.eventNs (s : State) : Nat := s.nowNs + 62500 * (s.bal.riser + 1)

/-- Both safety channels are healthy (R266). -/
def State.healthy (s : State) : Bool := s.bit SAFE.STATUS.PROCOK && s.bit SAFE.STATUS.SENOK

/-- In lock-out (R274). -/
def State.locked (s : State) : Bool := s.bit SAFE.STATUS.LOCKOUT

/-- The role is head or single-device stair (R281). -/
def State.isHead (s : State) : Bool := s.get BAN.ROLE.BROLE % 2 == 1

/-- HBFWD, HBOUT, HBIN and BDOP/BDON: the gate on the heartbeat (R284, R286); a foot passes nothing on, a single device
drives nothing out (R281). -/
def State.hbGate (s : State) : State :=
  let ok := !s.locked && s.healthy
  let out := ok && (s.isHead || (s.get BAN.ROLE.BROLE == 0 && s.bit BAN.STATUS.HBPRES))
  let role := s.get BAN.ROLE.BROLE
  let s := { s with ban := { s.ban with down := if out && role == 1 then .generated else if out && role == 0 then .repeating else .quiet } }
  ((s.setB SAFE.STATUS.HBFWD out).setB BAN.STATUS.HBOUT out).setB SAFE.STATUS.HBIN (s.bit BAN.STATUS.HBPRES)

/-- The output permit (R292). -/
def State.permitNow (s : State) : Bool :=
  s.bit BAN.ROLE.USED && s.get BAN.ROLE.MODE != 3 && !s.locked && s.healthy && (s.bit BAN.STATUS.HBSTABLE || s.isHead)

/-- Open every switch. -/
def State.openAll (s : State) : State :=
  let s := (s.setB BAN.STATUS.HSCMD false).setB BAN.STATUS.LSCMD false
  { s with ban := { s.ban with closedAt := none } }

/-- Close the switches of the mode at instant `t` (R291, R292). -/
def State.closeAll (s : State) (t : Nat) : State :=
  let s := (s.setB BAN.STATUS.HSCMD true).setB BAN.STATUS.LSCMD (s.get BAN.ROLE.MODE != 2)
  { s with ban := { s.ban with closedAt := some t } }

/-- The next switch under test, after a verdict, in mode 01 (R295). -/
def State.nextSw (s : State) : State :=
  if s.get BAN.ROLE.MODE = 1 then s.setB BAN.STATUS.NEXTSW (!s.bit BAN.STATUS.NEXTSW) else s

/-- The result of the test in progress is discarded (R298). -/
def State.testDiscard (s : State) : State :=
  (({ s with ban := { s.ban with test := .none } }).set BAN.TESTRES.DISC 1).inc BAN.DISCCNT |>.evt BAN.EVT.TESTDISC

/-- The test was not run (R295, R298). -/
def State.testSkip (s : State) : State :=
  (s.set BAN.TESTRES.SKIP 1).inc BAN.DISCCNT |>.evt BAN.EVT.TESTDISC

/-- A demand ends the test of the tread as R298 says. -/
def State.testDemand (s : State) : State :=
  match s.ban.test with
  | .none => s
  | .opening _ => s.testDiscard
  | .passed _ => ({ s with ban := { s.ban with test := .none } }).nextSw
  | .reclosing _ => ({ s with ban := { s.ban with test := .none } }).nextSw
  | .check => s

/-- Bring PERMIT and the switches to the present condition at instant `t` (R292, R298). -/
def State.permitUpdate (s : State) (t : Nat) : State :=
  let p := s.permitNow
  let was := s.bit BAN.STATUS.PERMIT
  let s := s.hbGate.setB BAN.STATUS.PERMIT p
  if p && !was then ({ s with ban := { s.ban with test := .none } }).closeAll t
  else if !p && was then s.testDemand.openAll
  else s

end Sys2Proof.Machine
end

