-- ==== Sys2Proof/Machine/Safety.lean ====
section
/-! DEFINITION. Safety.lean: trips and lock-out, channel health, the processor's evaluation, sentinels and
their test, confirmations, tightening the limits (11). -/
namespace Sys2Proof.Machine

/-! ### Causes (R274, R276) -/

/-- Fault 26 and the other inputs that make the processor channel unhealthy (R266). -/
def State.csaInput (s : State) : Bool :=
  s.bit { SAFE.ARM with w := 1 } && (s.holds 16 || !s.usedB CURR.CTRL.CSAEN || decide (8 ≤ s.safe.csaStale))

/-- A converter carries AX pin `k` as an enabled NTC entry (R264). -/
def State.ntcCarried (s : State) (c : Conv) (k : Nat) : Bool :=
  (List.range 16).any (fun i => let w := s.reg ((c.fld AUXA.ENTRY0).plus i).addr; eEn w && decide (w.toNat % 256 = 4 * (0x20 + k)))

/-- 4 × PERIOD treads, or 64 with PERIOD = 0 (R264). -/
def State.ntcWindow (s : State) (c : Conv) : Nat :=
  let p := s.get (c.fld AUXA.PERIOD) % 256
  if p = 0 then 64 else 4 * p

/-- The temperature inputs of SF6 (R264). -/
def State.ntcInput (s : State) : Bool :=
  (List.range 12).any (fun k => s.vbit SAFE.OTMAP k &&
    (let cs := [Conv.a, Conv.b].filter (fun c => s.ntcCarried c k)
     cs.isEmpty || cs.all (fun c => decide (s.ntcWindow c < s.tm.tread - (look s.safe.otLast k).getD 0))))

/-- The processor channel has an input (R266). -/
def State.procInput (s : State) : Bool :=
  s.safe.romBad || s.safe.ramBad || s.safe.flowBad || decide (3 ≤ s.cells.lateRun) ||
  (List.range s.count).any (fun c => decide (8 ≤ look s.safe.excl c)) || decide (2 ≤ s.safe.crcN) || s.holds 15 || s.holds 18 ||
  s.csaInput || s.ntcInput || s.diagSf6 || decide (s.pw.railBad ≠ 0)

/-- The sentinel channel has an input (R266). -/
def State.senInput (s : State) : Bool :=
  s.holds 17 || s.holds 60 || (List.range 38).any (fun i => decide (2 ≤ look s.safe.senMiss i)) || decide (2 ≤ s.safe.oscMiss) ||
  s.pw.senLdoBad

/-- Which collected causes are still present (R274), as LIVECAUSE shows them. -/
def State.liveNow (s : State) : Nat :=
  let old := s.get SAFE.LIVECAUSE
  let b := fun (i : Nat) (p : Bool) => if p && (s.get SAFE.LOCKCAUSE.word).testBit i then 2 ^ i else 0
  b 0 (old.testBit 0 && !s.healthy) + ((List.range 8).map (fun k => b (k + 1) (s.holds k))).sum + b 9 (s.holds 10) + b 10 (s.bit SAFE.STATUS.STRAPBAD) +
    b 11 s.safe.classNow + b 12 s.safe.hostAt.isSome

/-- LIVECAUSE, STARTLOCK, RELPEND and the instant by which the last cause but SF8 had gone; GONEMS is 0 while one is present
(R64, R274, R276, R280). -/
def State.causes (s : State) : State :=
  let v := s.liveNow
  let other := decide (v - (if v.testBit 8 then 256 else 0) = 0)
  let s := ((s.set SAFE.LIVECAUSE v).setB SYS.STATUS.STARTLOCK (v.testBit 0)).setB SAFE.STATUS.RELPEND (s.locked && other)
  let s := if other then s else s.set SAFE.GONEMS 0
  { s with safe := { s.safe with goneAt := if other then some (s.safe.goneAt.getD s.eventNs) else none } }

/-- No trip has arisen in the present lock-out, or there is none: START and STRAP open a lock-out and are no trips
(R64, R254, R274). (DEDUCED, log 77) -/
def State.untripped (s : State) : Bool := !s.locked || decide (s.get SAFE.LOCKCAUSE.word ∈ [1, 1024, 1025])

/-- A cause arises at instant `t`: lock-out begins, or the cause is added; heartbeat and output follow (R261,
R274). `info` is TRIPINFO should this cause, a trip where `ev` holds, be the first trip of the lock-out. (DEDUCED,
log 77) -/
def State.lockCause (s : State) (bit info t : Nat) (ev : Bool) : State :=
  let s := if ev then s.evt SAFE.EVT.TRIP else s
  let s := if bit = 8 then s else { s with safe := { s.safe with ackAt := none, goneAt := none } }
  let s := if s.locked then
      let s := if ev && s.untripped then (s.set SAFE.TRIPINFO.word info).set3 SAFE.TRIPLTC0 s.tm.ltc else s
      s.set { SAFE.LOCKCAUSE.word with lo := bit, w := 1 } 1
    else
      let s := ((((s.set SAFE.LOCKCAUSE.word (2 ^ bit)).setB SAFE.STATUS.LOCKOUT true).inc SAFE.LOCKCNT).set SAFE.TRIPINFO.word info).set3 SAFE.TRIPLTC0 s.tm.ltc
      let s := ((s.set2 SAFE.CONF0 0).clearV SAFE.OVTRIP0 48).clearV SAFE.UVTRIP0 48
      ({ s with safe := { s.safe with lockAt := t, ackAt := none, first := none } }).cond 8 true
  let s := if bit = 0 then s.set { SAFE.LIVECAUSE with w := 1 } 1 else s
  s.causes.permitUpdate t

/-- SF(k + 1) trips (R260, R261): `sen` by the sentinel channel, `index` as TRIPINFO.INDEX, `fast` by a
processor confirmation. -/
def State.trip (s : State) (k : Nat) (sen : Bool) (index : Nat) (fast : Bool) (t : Nat) : State :=
  (s.cond k true).lockCause (k + 1) (k + 1 + (if sen then 16 else 0) + 32 * index + (if fast then 8192 else 0)) t true

/-- SF1 to SF5 and SF7 whose cause has gone stop being present (R260); sentinels above COUNT do not count (R80). -/
def State.sfGone (s : State) : State :=
  let tr := fun (l : List Nat) => l.any (fun i => look s.safe.tripped i)
  let ov := tr ((List.range s.count).map (2 * ·)) || (List.range s.count).any (fun c => look s.safe.ovBad c)
  let uv := tr ((List.range s.count).map (2 * · + 1)) || (List.range s.count).any (fun c => look s.safe.uvBad c)
  let ot := (List.range 12).any (fun k => s.vbit SAFE.OTMAP k && look s.safe.otBad k)
  let oc := tr [72] || s.safe.ocBad
  let dt := tr [73] || decide (signed 16 (s.get SAFE.DTLIM) - 80 < s.safe.dtLast.getD s.dieNow)
  let f := fun (s : State) (k : Nat) (b : Bool) => if s.holds k && !b then s.cond k false else s
  (f (f (f (f (f (f s 0 ov) 1 uv) 2 ot) 3 oc) 4 dt) 6 (s.safe.commOut || s.safe.wdOut)).causes

/-- Channel health and SF6 from the inputs as they stand (R266); an input that appears trips SF6. The sentinel channel reports
from its arming on, the processor channel with its first evaluation. (DEDUCED, log 168) -/
def State.sf6Update (s : State) : State :=
  if s.safe.armed = false then s
  else
    let p := s.procInput
    let n := s.senInput
    let s := (s.setB SAFE.STATUS.PROCOK (s.safe.evald && !p)).setB SAFE.STATUS.SENOK (!n)
    let s := if (p || n) && !s.holds 5 then s.trip 5 false 0 false s.nowNs
      else if (p || n) then s else s.cond 5 false
    s.causes.permitUpdate s.eventNs

/-! ### Sentinels (R256, R260, R269) -/

/-- The comparator's number: 2c OV and 2c + 1 UV of cell index c, 72 overcurrent, 73 die. -/
def senNo (x : Sentinel) : Nat :=
  match x with | .ov c => 2 * c.val | .uv c => 2 * c.val + 1 | .oc => 72 | .die => 73

/-- The comparator acts: sentinels armed, and its cell within COUNT (R260). -/
def State.senActs (s : State) (x : Sentinel) : Bool :=
  s.safe.armed && (match x with | .ov c => decide (c.val < s.count) | .uv c => decide (c.val < s.count) | _ => true)

/-- A comparator asserts or deasserts; its deglitch count starts from 0 (R256). -/
def State.senAssert (s : State) (x : Sentinel) (on : Bool) : State :=
  if s.senActs x then { s with safe := { s.safe with asserted := put s.safe.asserted (senNo x) on } } else s

/-- A deglitch count completes (R256, R260, R261): trip, confirmation request, switches held off (R220). -/
def State.senTrip (s : State) (x : Sentinel) : State :=
  let i := senNo x
  if s.senActs x = false ∨ look s.safe.asserted i = false ∨ look s.safe.tripped i = true then s
  else
    let was := !s.untripped
    let s := { s with safe := { s.safe with tripped := put s.safe.tripped i true } }
    match x with
    | .ov c =>
      let s := (s.trip 0 true (c.val + 1) false s.nowNs).setV SAFE.OVTRIP0 c.val true
      let s := if was then s else { s with safe := { s.safe with first := some (c.val + 1, true) } }
      (s.cutSwitches [c.val + 1]).confRequest (c.val + 1) true
    | .uv c =>
      let s := (s.trip 1 true (c.val + 1) false s.nowNs).setV SAFE.UVTRIP0 c.val true
      let s := if was then s else { s with safe := { s.safe with first := some (c.val + 1, false) } }
      (s.cutSwitches [c.val + 1]).confRequest (c.val + 1) false
    | .oc => s.trip 3 true 0 false s.nowNs
    | .die => (s.trip 4 true 0 false s.nowNs).cutSwitches ((List.range 36).map (· + 1))

/-- A tripped sentinel's input came back past the release level (R256). -/
def State.senRelease (s : State) (x : Sentinel) : State :=
  if look s.safe.tripped (senNo x) then
    ({ s with safe := { s.safe with tripped := put s.safe.tripped (senNo x) false, asserted := put s.safe.asserted (senNo x) false } }).sfGone
  else s

/-- The confirmation of a sentinel trip of cell `c` (1 to 36) arrived (R269). A result with NA confirms nothing. -/
def State.confJudge (s : State) (c : Nat) (ov : Bool) (r : AuxRes) : State :=
  let yes := !r.na && (if ov then decide (100 * (s.get SAFE.SENOV : Int) - 50000 < r.v) else decide (r.v < 100 * (s.get SAFE.SENUV : Int) + 50000))
  let s := if s.safe.first = some (c, ov) then
      let s := s.setPair SAFE.CONF0 r false false
      { (if yes then s.set SAFE.TRIPINFO.CONF 1 else s.set SAFE.TRIPINFO.UNCONF 1) with safe := { s.safe with first := none } }
    else s
  if yes then s else (s.evt SAFE.EVT.UNCONF).inc SAFE.UNCONFCNT

/-! ### The processor's evaluation (R262 to R266) -/

/-- DEB and OTDEB in use. -/
def State.deb (s : State) : Nat := s.get { SAFE.DEB with w := 4 }
def State.otDeb (s : State) : Nat := s.get { SAFE.DEB with lo := 4, w := 4 }

/-- A confirmation request of the processor for cell index `c` (R263). -/
def State.procConfirm (s : State) (c : Nat) (ov : Bool) : State :=
  s.urgRequest (s.urgRoute s.procConv) ⟨2, BitVec.ofNat 16 (1 + 4 * (c + 1) + 512), ov⟩

/-- Judge a value of cell index `c` against limits `hi` and `lo` in µV (R262); `conf` allows a confirmation, `n` is 1 for a new
value and 0 for one that has been counted before (R29). (DEDUCED, log 75) -/
def State.cellJudge (s : State) (c : Nat) (v hi lo : Int) (conf : Bool) (n : Nat) : State :=
  let o := if hi < v then look s.safe.ovn c + n else 0
  let u := if v < lo then look s.safe.uvn c + n else 0
  let s := { s with safe := { s.safe with excl := put s.safe.excl c 0, ovn := put s.safe.ovn c o, uvn := put s.safe.uvn c u, ovBad := put s.safe.ovBad c (decide (hi - 20000 < v)), uvBad := put s.safe.uvBad c (decide (v < lo + 20000)) } }
  if s.deb ≤ o then (if s.holds 0 then s else s.trip 0 false (c + 1) false s.nowNs)
  else if s.deb ≤ u then (if s.holds 1 then s else s.trip 1 false (c + 1) false s.nowNs)
  else if conf && (o == 1 || u == 1) && decide (2 ≤ s.deb) then s.procConfirm c (o == 1) else s

/-- One cell of R262's loop; `n` as for `State.cellJudge`. -/
def State.cellEval (s : State) (c n : Nat) : State :=
  let r := look s.cells.snap c
  if s.fallCovers c then s
  else if r.ovr || r.nbr || r.stale || decide (r.unc = 15) then { s with safe := { s.safe with excl := adj s.safe.excl c (· + n) } }
  else s.cellJudge c r.v (100 * s.get SAFE.OVLIM) (100 * s.get SAFE.UVLIM) true n

/-- SF4 of the processor (R265, R260); `k` as the `n` of `State.cellJudge`. -/
def State.ocEval (s : State) (k : Nat) : State :=
  let r := look s.cells.snap 36
  let hi : Int := 500 * s.get SAFE.OCCHG
  let lo : Int := 500 * s.get SAFE.OCDIS
  let s := { s with safe := { s.safe with csaStale := if r.stale then s.safe.csaStale + k else 0 } }
  if r.stale then s
  else
    let s := { s with safe := { s.safe with ocBad := r.ovr || decide (95 * hi < 100 * r.v) || decide (100 * r.v < -(95 * lo)) } }
    if s.bit { SAFE.ARM with w := 1 } then
      let n := if r.ovr || decide (hi < r.v) || decide (r.v < -lo) then s.safe.ocN + k else 0
      let s := { s with safe := { s.safe with ocN := n } }
      if s.deb ≤ n ∧ s.holds 3 = false then s.trip 3 false 0 false s.nowNs else s
    else { s with safe := { s.safe with ocN := 0 } }

/-- The internal conditions of a tread (R266) and PROCST. -/
def State.procState (s : State) (p : ProcState) : State :=
  let n := min (s.get { SAFE.PROCST with lo := 8, w := 8 } + p.eccCorrected) 255
  let s := { s with safe := { s.safe with romBad := !p.romOk, ramBad := s.safe.ramBad || !p.ramOk, flowBad := !p.flowOk } }
  s.set SAFE.PROCST ((if p.romOk then 1 else 0) + (if s.safe.ramBad then 0 else 2) + (if p.flowOk then 4 else 0) + 256 * n)

/-- SAFETY_EVALUATION (R262 to R266): a tread without a new image evaluates the image before, where there is one, and advances
no counter by it (R29, R262). The first evaluation of a start is in tread 1: tread 0 has none (R59). -/
def State.safetyEval (s : State) (p : ProcState) : State :=
  if s.safe.armed = false ∨ s.tm.tread = 0 then s
  else
    let s := s.procState p
    let s := { s with safe := { s.safe with evald := true, crcN := if s.holds 26 then s.safe.crcN + 1 else 0 } }
    let n := if s.cells.fresh then 1 else 0
    let s := if s.cells.snapCount = 0 then s else (forEach (List.range s.count) (fun (c : Nat) (s : State) => s.cellEval c n) s).ocEval n
    s.sfGone.sf6Update

/-! ### Results for the processor (R260, R263, R264) -/

/-- A processor confirmation's result for cell index `c` (R263): OVR and NA count as exceeding. -/
def State.procResult (s : State) (c : Nat) (ov : Bool) (r : AuxRes) : State :=
  let past := r.ovr || r.na || (if ov then decide (100 * (s.get SAFE.OVLIM : Int) < r.v) else decide (r.v < 100 * (s.get SAFE.UVLIM : Int)))
  let k := if ov then 0 else 1
  if past ∧ s.holds k = false then s.trip k false (c + 1) true s.nowNs else s

/-- A fallback span result of tap `n` (R243): half of it stands for cells n and n + 1 in R262, with the margins. A
result with OVR or NA leaves both cells not evaluated (DEDUCED, log 74) -/
def State.fallJudge (s : State) (n : Nat) (r : AuxRes) : State :=
  if s.diag.fallback.contains n = false then s
  else
    let s := { s with diag := { s.diag with fallback := s.diag.fallback.filter (· ≠ n), span := put s.diag.span n (some (twos 16 r.v, auxWordB r false false s.tagNow)) } }
    let m : Int := 1000 * s.used DIAG.SPANMARG
    forEach [n - 1, n] (fun (c : Nat) (s : State) =>
      if r.ovr || r.na then { s with safe := { s.safe with excl := adj s.safe.excl c (· + 1) } }
      else s.cellJudge c r.v (100 * s.get SAFE.OVLIM - m) (100 * s.get SAFE.UVLIM + m) false 1) s

/-- A die-temperature result for SF5 (R260, R136). -/
def State.dieEval (s : State) : State :=
  match s.aux.dieNew with
  | none => s
  | some t =>
    let n := if signed 16 (s.get SAFE.DTLIM) < t then s.safe.dtN + 1 else 0
    let s := { s with safe := { s.safe with dtN := n, dtLast := some t }, aux := { s.aux with dieNew := none } }
    let s := if 2 ≤ n ∧ s.holds 4 = false then s.trip 4 false 0 false s.nowNs else s
    s.sfGone

/-- A result of NTC pin `k` for SF3 (R264): `code` is the corrected ratio in 2^-22. (DEDUCED, log 60) -/
def State.ntcEval (s : State) (k : Nat) (r : AuxRes) (code : Int) (stale : Bool) : State :=
  if s.vbit SAFE.OTMAP k = false then s
  else if r.ovr || r.na || stale || decide (50 * code < 4194304) || decide (98 * 4194304 < 100 * code) then
    { s with safe := { s.safe with otN := put s.safe.otN k 0 } }
  else
    let lim := signed 16 (s.get SAFE.OTLIM)
    let n := if lim ≤ r.v then look s.safe.otN k + 1 else 0
    let s := { s with safe := { s.safe with otN := put s.safe.otN k n, otLast := put s.safe.otLast k (some s.tm.tread), otBad := put s.safe.otBad k (decide (lim - 32 < r.v)) } }
    let s := if s.otDeb ≤ n ∧ s.holds 2 = false then s.trip 2 false k false s.nowNs else s
    s.sfGone

/-! ### Tightening (R257 to R259) -/

/-- The in-use words 0x0D to 0x16 and the candidates 0x18 to 0x21. -/
def State.limWords (s : State) : List Word := (List.range 10).map (fun i => s.reg (SAFE.OVLIM.plus i).addr)
def State.candWords (s : State) : List Word := (List.range 10).map (fun i => s.reg (SAFE.NEWOVLIM.plus i).addr)

/-- Candidate `i` is looser than the word in use (R257). -/
def looser (i : Nat) (use new : Word) : Bool :=
  let u := use.toNat
  let n := new.toNat
  match i with
  | 0 | 3 | 4 => decide (u < n)
  | 1 => decide (n < u)
  | 2 | 5 => decide (signed 16 u < signed 16 n)
  | 6 => decide (u % 16 < n % 16) || decide (u / 16 % 16 < n / 16 % 16)
  | 7 => decide (use &&& ~~~new ≠ 0)
  | 8 => decide (n % 2 < u % 2)
  | _ => decide (u ≠ 0) && (decide (u < n) || decide (n = 0))

/-- Candidate `i` breaks its "also required" rule (R257); `uv` is NEWUVLIM. -/
def outRange (i : Nat) (new uv : Word) : Bool :=
  let n := new.toNat
  match i with
  | 0 => decide (n < uv.toNat + 1000)
  | 2 => decide (signed 16 n < 0)
  | 3 | 4 => decide (n < 100)
  | 5 => decide (signed 16 n < 960)
  | 6 => decide (n % 16 = 0) || decide (n / 16 % 16 = 0)
  | 9 => decide (n ≠ 0) && (decide (n < 10) || decide (60000 < n))
  | _ => false

/-- The preset's in-use words (R253, R280). -/
def State.presetWords (s : State) : List Word :=
  let p := s.presetVals
  [p.getD 0 0, p.getD 1 0, p.getD 2 0, p.getD 3 0, p.getD 3 0, p.getD 6 0, 0x22, 0, 0, 0].map (BitVec.ofNat 16 ·)

/-- Copy the in-use words into the candidates (R258). -/
def State.copyCands (s : State) : State :=
  forEach (s.limWords.zipIdx) (fun (p : Word × Nat) (s : State) => s.setReg (SAFE.NEWOVLIM.plus p.2).addr p.1) s

/-- Store the in-use words; TIGHT, the watchdog and newly mapped pins follow; a smaller HOSTWD
keeps the treads already passed (R258, R259, R264, R267; DEDUCED, log 130). -/
def State.setLimits (s : State) (l : List Word) : State :=
  let old := s.limWords
  let s := forEach (l.zipIdx) (fun (p : Word × Nat) (s : State) => s.setReg (SAFE.OVLIM.plus p.2).addr p.1) s
  let s := s.setB SAFE.STATUS.TIGHT (decide (s.limWords ≠ s.presetWords))
  let wd := s.get SAFE.HOSTWD
  let was := (old.getD 9 0).toNat
  let left := match s.safe.wd with | some n => if was = 0 then wd + 1 else wd + 1 - (was + 1 - n) | none => wd + 1
  let ot := (List.range 12).foldl (fun (m : SMap (Option Nat)) k =>
    if s.vbit SAFE.OTMAP k && !(old.getD 7 0).getLsbD k then put m k (some s.tm.tread) else m) s.safe.otLast
  ({ s with safe := { s.safe with wd := if wd = 0 then none else some left, otLast := ot } }).copyCands

/-- The word of offence, its kind and the result of a commit (R258). -/
def State.tightResult (s : State) : Bool × Nat :=
  let c := s.candWords
  let crc := crc32 (wordBytes c) != BitVec.ofNat 32 (s.get2 SAFE.TCRC0)
  let us := s.limWords
  let lo := (List.range 10).filter (fun i => looser i (us.getD i 0) (c.getD i 0))
  let rg := (List.range 10).filter (fun i => outRange i (c.getD i 0) (c.getD 1 0))
  let ok := !crc && lo.isEmpty && rg.isEmpty
  let bad := ((List.range 10).filter (fun i => lo.contains i || rg.contains i)).headD 0
  (ok, (if ok then 1 else 0) + (if crc then 2 else 0) + (if lo.isEmpty then 0 else 4) + (if rg.isEmpty then 0 else 8) + 256 * bad)

/-- A write of SAFE.TCOMMIT (R258). -/
def State.tightCommit (s : State) (v : Word) : State :=
  if v ≠ 0xC35A#16 then s.evt SAFE.EVT.KEYREJ
  else
    let r := s.tightResult
    let s := s.set SAFE.TRESULT.word r.2
    if r.1 then ({ s with safe := { s.safe with commit := some s.candWords } }).evt SAFE.EVT.TACC
    else s.copyCands.evt SAFE.EVT.TREJ

/-- Master clock 0: an accepted commit takes effect; the watchdog, HOST cause and GONEMS advance (R258, R267,
R274). The cause HOST of a sleep request stays until the device sleeps (R69). -/
def State.safeTread (s : State) : State :=
  let s := match s.safe.commit with
    | some l => ({ s with safe := { s.safe with commit := none } }).setLimits l
    | none => s
  let s := { s with safe := { s.safe with wd := s.safe.wd.map (· - 1), hostAt := match s.safe.hostAt with | some t => if t < s.tm.tread ∧ s.pw.sleepReq ≠ some SleepReq.host then none else some t | none => none } }
  let s := s.causes
  s.set SAFE.GONEMS (match s.safe.goneAt with | some t => min ((s.nowNs - t) / 1000000) 65535 | none => 0)

/-! ### Lock-out exit (R276, R277) -/

/-- Rule 2 of R276 at the end `ta` of a valid burst: every collected cause other than SF8 has been gone for at least
100 ms. -/
def State.ruleTwo (s : State) (ta : Nat) : Bool :=
  let l := s.get SAFE.LOCKCAUSE.word
  let other := l - (if l.testBit 8 then 256 else 0)
  decide (other = 0) || (match s.safe.goneAt with | some t => decide (t + 100000000 ≤ ta) | none => false)

/-- Leave lock-out at instant `t` when R276 allows it (R277). (DEDUCED, log 76) -/
def State.lockExit (s : State) (t : Nat) : State :=
  match s.safe.ackAt with
  | none => s
  | some ta =>
    if s.locked && decide (t ≤ ta + 20000000) && !s.holds 7 then
      let s := (((s.set SAFE.LASTCAUSE (s.get SAFE.LOCKCAUSE.word)).set SAFE.LOCKCAUSE.word 0).set SAFE.LIVECAUSE 0).setB SAFE.STATUS.LOCKOUT false
      let s := (((s.evt SAFE.EVT.RELEASE).inc SAFE.ACKCNT).setB SAFE.STATUS.RELPEND false).cond 8 false
      ({ s with safe := { s.safe with ackAt := none, first := none } }).permitUpdate t
    else s

/-! ### The sentinel test (R270, R271) -/

/-- The comparators of item `i` are tripped, or its cell is not in use: not tested (R270). -/
def State.senSkip (s : State) (i : Nat) : Bool :=
  if i < 36 then decide (s.count ≤ i) || look s.safe.tripped (2 * i) || look s.safe.tripped (2 * i + 1)
  else look s.safe.tripped (i + 36)

/-- One test of an item 0 to 37 or an oscillator check 38 to 39. (DEDUCED, log 80) -/
def State.senItem (s : State) (i : Nat) (ok : Bool) : State :=
  let s := s.set { SAFE.SENTST with w := 7 } (i + (if ok then 0 else 64))
  let s := if ok then s else s.evt SAFE.EVT.SENFAIL
  if 38 ≤ i then
    let s := { s with safe := { s.safe with oscMiss := if ok then 0 else s.safe.oscMiss + 1 } }
    if ok then s else s.set { SAFE.SENTST with lo := 9, w := 1 } 1
  else if ok then { s with safe := { s.safe with senMiss := put s.safe.senMiss i 0 } }
  else
    let n := look s.safe.senMiss i + 1
    let s := if i < 36 then s.setV SAFE.SENFAIL0 i true else s.set { SAFE.SENTST with lo := i - 29, w := 1 } 1
    { s with safe := { s.safe with senMiss := put s.safe.senMiss i n, senOut := put s.safe.senOut i (decide (2 ≤ n)), senAgain := if n = 1 then s.safe.senAgain ++ [i] else s.safe.senAgain } }

/-- SENTINEL_SELF_TEST: a failed item is tested again first, then the tread's scheduled item; an item
that is not tested leaves SENTST as it was (R270; DEDUCED, log 80). -/
def State.senTest (s : State) (r : SenTest) : State :=
  if s.safe.armed = false then s
  else
    let ok := r.p1 && r.p2 && r.p3
    match s.safe.senAgain with
    | i :: l =>
      let s := { s with safe := { s.safe with senAgain := l } }
      (if s.senSkip i then s else s.senItem i ok).sf6Update
    | [] =>
      let i := s.tm.ltc % 40
      if i < 38 ∧ (s.senSkip i = true ∨ look s.safe.senOut i = true) then s
      else (s.senItem i ok).sf6Update

/-! ### Rows -/

/-- SENTINEL_ASSERT (R256). -/
def execSentinelAssert (x : Sentinel) (on : Bool) (s : State) : Host.Outcome State Fault Refusal := whenActive [.safe] s fun s => s.senAssert x on

/-- SENTINEL_TRIP (R256, R260, R261, R139). -/
def execSentinelTrip (x : Sentinel) (s : State) : Host.Outcome State Fault Refusal := whenActive [.bal, .aux, .diag, .safe, .ban] s fun s => s.senTrip x

/-- SENTINEL_RELEASE (R256). -/
def execSentinelRelease (x : Sentinel) (s : State) : Host.Outcome State Fault Refusal := whenActive [.safe] s fun s => s.senRelease x

/-- SAFETY_EVALUATION (R262 to R266). -/
def execSafetyEvaluation (p : ProcState) (s : State) : Host.Outcome State Fault Refusal := whenActive [.bal, .aux, .diag, .safe, .ban] s fun s => s.safetyEval p

/-- HOST_WATCHDOG_EXPIRE: HOSTWD treads have passed without a KICK (R267). -/
def execHostWatchdogExpire (s : State) : Host.Outcome State Fault Refusal :=
  whenActive [.safe, .ban] s fun s => s.when (s.safe.wd == some 0 && !s.safe.wdOut) fun s =>
    (({ s with safe := { s.safe with wdOut := true } }).evt SAFE.EVT.WDEXP).trip 6 false 0 false s.nowNs

/-- A write of SAFE.KICK: HOSTWD treads after this one may pass (R267; DEDUCED, log 130). -/
def State.kick (s : State) : State :=
  let wd := s.get SAFE.HOSTWD
  ({ s with safe := { s.safe with wd := if wd = 0 then none else some (wd + 1), wdOut := false } }).sfGone

/-- KICK (R267). -/
def execKick (s : State) : Host.Outcome State Fault Refusal := whenActive [.safe] s fun s => s.kick

/-- A keyed write of SAFE.CTRL.TRIP (R274). -/
def State.safeTrip (s : State) (key : Byte) : State :=
  if key = 0xA5#8 then ({ s with safe := { s.safe with hostAt := some s.tm.tread } }).lockCause 12 0 s.nowNs true
  else s.evt SAFE.EVT.KEYREJ

/-- A keyed write of SAFE.CTRL.RETEST (R271). -/
def State.safeRetest (s : State) (key : Byte) : State :=
  if key = 0xA5#8 then
    { (s.clearV SAFE.SENFAIL0 36).set { SAFE.SENTST with lo := 7, w := 3 } 0 with safe := { s.safe with senOut := [] } }
  else s.evt SAFE.EVT.KEYREJ

/-- SAFE_TRIP (R274). -/
def execSafeTrip (key : Byte) (s : State) : Host.Outcome State Fault Refusal := whenActive [.safe, .ban] s fun s => s.safeTrip key

/-- SAFE_RETEST (R271). -/
def execSafeRetest (key : Byte) (s : State) : Host.Outcome State Fault Refusal := whenActive [.safe] s fun s => s.safeRetest key

/-- TCOMMIT (R257, R258). -/
def execTcommit (v : Word) (s : State) : Host.Outcome State Fault Refusal := whenActive [.safe] s fun s => s.tightCommit v

/-- SENTINEL_SELF_TEST (R270, R271). -/
def execSentinelSelfTest (r : SenTest) (s : State) : Host.Outcome State Fault Refusal := whenActive [.safe, .ban] s fun s => s.senTest r

/-- REF_TRIO_MEASURE (R152, R153, R255, R266). -/
def execRefTrioMeasure (a b c : Int) (s : State) : Host.Outcome State Fault Refusal :=
  whenActive [.cal, .imp, .safe, .ban] s fun s => s.when s.trioDue fun s => (s.trio a b c).sf6Update

end Sys2Proof.Machine
end

