-- ==== Sys2Proof/Machine/Banister.lean ====
section
/-! DEFINITION. Banister.lean: heartbeat and acknowledge edges, the output stage's tests and failures (12).
Instants are in ns since supplies valid. -/
namespace Sys2Proof.Machine

/-! ### Heartbeat (R284 to R286) -/

/-- The device has an SF8 (R268). -/
def State.hasSf8 (s : State) : Bool := !s.isHead

/-- The heartbeat is lost at instant `t`: 16 µs without an accepted edge (R285, R260). SF8 trips from 1.00 ms of the start
on. (DEDUCED, log 144) -/
def State.hbLoss (s : State) (t : Nat) : State :=
  if t < s.ban.hbLast + 16000 then s
  else
    let s := if s.bit BAN.STATUS.HBPRES then
        ((((s.setB BAN.STATUS.HBPRES false).setB BAN.STATUS.HBSTABLE false).inc BAN.HBLOSSCNT).evt BAN.EVT.HBLOST)
      else s
    let s := { s with ban := { s.ban with hbN := 0 } }
    let s := if s.safe.armed && s.hasSf8 && !s.holds 7 then s.trip 7 false 0 false t else s
    s.permitUpdate t

/-- An accepted edge at `t` (R285). -/
def State.hbAccept (s : State) (t : Nat) : State :=
  let n := s.ban.hbN + 1
  let s := { s with ban := { s.ban with hbLast := t, hbN := n } }
  (if 8 ≤ n then s.setB BAN.STATUS.HBSTABLE true else s).permitUpdate t

/-- The first edge while the heartbeat is not present: present from that edge; SF8 is gone and a waiting release
completes (R285, R276). -/
def State.hbFirst (s : State) (t : Nat) : State :=
  let s := ((s.setB BAN.STATUS.HBPRES true).evt BAN.EVT.HBBACK).setB SAFE.STATUS.HBIN true
  let s := { s with ban := { s.ban with hbN := 0 } }
  let s := (if s.holds 7 then s.cond 7 false else s).causes
  (s.hbAccept t).lockExit t

/-- The edge accepted at `t` is repeated at BDOP/BDON while the gate of a middle device is open (R286). -/
def State.hbRepeat (s : State) (t : Nat) : State :=
  if s.ban.down = .repeating then { s with ban := { s.ban with downEdge := some t } } else s

/-- A rising edge at BDIP/BDIN (R285, R286). -/
def State.hbEdge (s : State) (t : Nat) : State :=
  let s := if s.bit BAN.STATUS.HBPRES && decide (s.ban.hbLast + 16000 ≤ t) then s.hbLoss t else s
  if s.bit BAN.STATUS.HBPRES then
    let d := t - s.ban.hbLast
    if 3000 ≤ d ∧ d ≤ 5000 then ((s.set BAN.HBPER (d / 100)).hbAccept t).hbRepeat t else s
  else (s.hbFirst t).hbRepeat t

/-- HEARTBEAT_EDGE (R285, R286, R276, R277). -/
def execHeartbeatEdge (t : Nat) (s : State) : Host.Outcome State Fault Refusal := whenReceiving [.safe, .ban] t s fun s => s.hbEdge t

/-- HEARTBEAT_LOSS (R285, R260). (DEDUCED, log 78) -/
def execHeartbeatLoss (t : Nat) (s : State) : Host.Outcome State Fault Refusal := whenReceiving [.safe, .ban] t s fun s => s.hbLoss t

/-! ### Acknowledge (R287 to R290) -/

/-- Present quiet time in ns at `t`; 0 while a burst is in progress (R289). -/
def State.quietNs (s : State) (t : Nat) : Nat := if s.ban.ackFirst.isSome then 0 else t - s.ban.quietFrom

/-- ACKQMS and ACKQUIET at instant `t`. -/
def State.ackStatus (s : State) (t : Nat) : State :=
  let q := s.quietNs t
  ((s.set BAN.ACKQMS (min (q / 1000000) 65535)).setB BAN.STATUS.ACKQUIET (decide (1000000000 ≤ q))).setB BAN.STATUS.ACKIN s.ban.ackFirst.isSome

/-- A valid burst ended at `ta` (R276, R289). -/
def State.ackValid (s : State) (ta : Nat) : State :=
  let s := (s.evt BAN.EVT.ACKVALID).inc BAN.ACKVCNT
  if s.locked = false ∨ ta ≤ s.safe.lockAt then s
  else if s.ruleTwo ta then ({ s with safe := { s.safe with ackAt := some ta } }).lockExit ta
  else s.evt SAFE.EVT.ACKEARLY

/-- The burst in progress ends: 64 µs have passed without an accepted edge (R289, R290). -/
def State.ackEnd (s : State) (t : Nat) : State :=
  match s.ban.ackFirst with
  | none => s
  | some f =>
    let ta := s.ban.ackLast + 64000
    if t < ta then s
    else
      let dur := ta - f
      let unq := s.ban.ackUnquiet
      let held := s.ban.ackHeld
      let s := { s with ban := { s.ban with ackFirst := none, ackUnquiet := false, ackHeld := false, quietFrom := ta } }
      let s := (s.set BAN.ACKDUR (min (dur / 1000000) 65535)).ackStatus ta
      if held then s
      else if 3000000000 ≤ dur then s.inc BAN.ACKREJCNT
      else if dur < 200000000 then (s.evt BAN.EVT.ACKSHORT).inc BAN.ACKREJCNT
      else if unq then s.inc BAN.ACKREJCNT
      else s.ackValid ta

/-- An edge at BUIP/BUIN (R287, R289): every accepted edge is repeated at BUOP/BUON, whatever the device does. -/
def State.ackEdge (s : State) (t : Nat) : State :=
  let s := s.ackEnd t
  match s.ban.ackFirst with
  | none =>
    let unq := decide (s.quietNs t < 1000000000)
    let s := ({ s with ban := { s.ban with ackFirst := some t, ackLast := t, upEdge := some t, ackUnquiet := unq, ackHeld := false } }).ackStatus t
    if unq then s.evt BAN.EVT.ACKNOTQUIET else s
  | some _ =>
    let d := t - s.ban.ackLast
    if 12000 ≤ d ∧ d ≤ 20000 then { s with ban := { s.ban with ackLast := t, upEdge := some t } } else s

/-- The burst in progress reaches 3.0 s (R290). -/
def State.ackHold (s : State) (t : Nat) : State :=
  match s.ban.ackFirst with
  | none => s
  | some f =>
    if t < f + 3000000000 ∨ s.ban.ackHeld = true then s
    else ((({ s with ban := { s.ban with ackHeld := true } }).cond 9 true).setB BAN.STATUS.HELDLIVE true).evt BAN.EVT.ACKHELD |>.inc BAN.ACKREJCNT

/-- The line has been quiet for 1.0 s (R290). -/
def State.ackQuiet (s : State) (t : Nat) : State :=
  if s.ban.ackFirst.isSome ∨ s.quietNs t < 1000000000 then s
  else ((s.cond 9 false).setB BAN.STATUS.HELDLIVE false).ackStatus t

/-- ACK_EDGE (R287, R289). -/
def execAckEdge (t : Nat) (s : State) : Host.Outcome State Fault Refusal := whenReceiving [.safe, .ban] t s fun s => s.ackEdge t

/-- ACK_BURST_END (R276, R277, R289). -/
def execAckBurstEnd (t : Nat) (s : State) : Host.Outcome State Fault Refusal := whenReceiving [.safe, .ban] t s fun s => s.ackEnd t

/-- ACK_HELD (R290). -/
def execAckHeld (t : Nat) (s : State) : Host.Outcome State Fault Refusal := whenReceiving [.ban] t s fun s => s.ackHold t

/-- ACK_QUIET (R290). -/
def execAckQuiet (t : Nat) (s : State) : Host.Outcome State Fault Refusal := whenReceiving [] t s fun s => s.ackQuiet t

/-! ### Output stage (R293 to R300) -/

/-- The checks of R294 to R299 run: stage in use, OVS not below 16 V. -/
def State.stageChecks (s : State) : Bool := s.bit BAN.ROLE.USED && s.bit BAN.STATUS.OVSOK

/-- A readback failure (R299). One that ends a test of mode 01 is its verdict: the next test opens the other switch (R295). -/
def State.outFail (s : State) : State :=
  let t := s.nowNs
  let inTest := decide (s.ban.test ≠ .none)
  let s := ((s.cond 10 true).setB BAN.STATUS.OUTLIVE true).evt BAN.EVT.TESTFAIL
  let s := if inTest then s.set BAN.TESTRES.FAIL 1 else s
  let s := match s.ban.test with | .opening _ => s.nextSw | .passed _ => s.nextSw | .reclosing _ => s.nextSw | _ => s
  (({ s with ban := { s.ban with test := .none } }).openAll).lockCause 9 0 t true

/-- OVS crosses a threshold (R293, R298): each fall below 16 V of a stage in use is reported, also one from between 16 V and
17 V. -/
def State.ovs (s : State) (mV : Nat) : State :=
  let high := decide (1600 ≤ s.get BAN.VOVS)
  let s := s.set BAN.VOVS (min (mV / 10) 65535)
  if 17000 < mV then ((s.setB BAN.STATUS.OVSOK true).setB BAN.ROLE.USED true).permitUpdate s.eventNs
  else if mV < 16000 then
    let low := s.stageChecks || (s.bit BAN.ROLE.USED && high)
    let s := if low then s.evt BAN.EVT.OVSLOW else s
    let s := match s.ban.test with
      | .none => s
      | .check => (s.testDiscard).openAll
      | _ => let s := s.testDiscard; if s.bit BAN.STATUS.PERMIT then s.closeAll s.eventNs else s
    s.setB BAN.STATUS.OVSOK false
  else s

/-- OVS_CHANGE (R293, R298). -/
def execOvsChange (mV : Nat) (s : State) : Host.Outcome State Fault Refusal := whenActive [.ban] s fun s => s.ovs mV

/-- READBACK_FAILURE (R294, R299). -/
def execReadbackFailure (s : State) : Host.Outcome State Fault Refusal :=
  whenActive [.safe, .ban] s fun s => s.when s.stageChecks fun s => s.outFail

/-- The present tread is the assigned test tread (R295). -/
def State.testTread (s : State) : Bool := s.tm.stn % 1000 == s.used { BAN.TESTTREAD with w := 10 }

/-- TESTRES and TESTSTN of a test or check that begins. -/
def State.testBegin (s : State) (res : Nat) : State := (s.set BAN.TESTRES.word res).set2 BAN.TESTSTN0 s.tm.stn

/-- 750 µs of the assigned tread: a test, or SKIP without one, the stage unused included (R295, R298). -/
def State.pulseStart (s : State) : State :=
  let m := s.get BAN.ROLE.MODE
  if s.testTread = false ∨ (m ≠ 1 ∧ m ≠ 2) then s
  else
    let sw := decide (m = 1) && s.bit BAN.STATUS.NEXTSW
    let ready := s.bit BAN.STATUS.PERMIT && s.bit BAN.STATUS.OVSOK &&
      (match s.ban.closedAt with | some t => decide (t + 1000000 ≤ s.nowNs + 750000) | none => false)
    let s := s.testBegin ((if sw then 1 else 0) + 0xFF00)
    if ready then ({ s with ban := { s.ban with test := .opening sw } }).setB (if sw then BAN.STATUS.LSCMD else BAN.STATUS.HSCMD) false
    else s.testSkip

/-- OFF_PULSE_START (R295, R296). -/
def execOffPulseStart (s : State) : Host.Outcome State Fault Refusal := whenActive [.ban] s fun s => s.pulseStart

/-- The first sample below 2 V, `fall` µs after 750 µs (R296). -/
def State.pulsePass (s : State) (fall : Nat) : State :=
  match s.ban.test with
  | .opening sw =>
    let s := ((s.set BAN.TESTRES.PASS 1).set BAN.TESTRES.FALL fall).inc BAN.TESTCNT
    let s := s.set BAN.FALLMAX (max (s.get BAN.FALLMAX) fall)
    { s with ban := { s.ban with test := .passed sw } }
  | _ => s

/-- OFF_PULSE_PASS (R296). -/
def execOffPulsePass (fall : Fin 101) (s : State) : Host.Outcome State Fault Refusal := whenActive [.ban] s fun s => s.pulsePass fall.val

/-- 850 µs without a sample below 2 V: FAIL (R296, R299). -/
def execOffPulseFail (s : State) : Host.Outcome State Fault Refusal :=
  whenActive [.safe, .ban] s fun s => match s.ban.test with
    | .opening _ => (s.inc BAN.TESTCNT).outFail
    | _ => s

/-- 900 µs after PASS: the switch under test is commanded closed, which energises the output again (R295, R296). -/
def execOffPulseReclose (s : State) : Host.Outcome State Fault Refusal :=
  whenActive [.ban] s fun s => match s.ban.test with
    | .passed sw => ({ s with ban := { s.ban with test := .reclosing sw, closedAt := some (s.nowNs + 900000) } }).setB (if sw then BAN.STATUS.LSCMD else BAN.STATUS.HSCMD) true
    | _ => s

/-- The reclose check ends (R295, R296, R299). -/
def execRecloseCheckEnd (ok : Bool) (s : State) : Host.Outcome State Fault Refusal :=
  whenActive [.safe, .ban] s fun s => match s.ban.test with
    | .reclosing _ => if ok then ({ s with ban := { s.ban with test := .none } }).nextSw else s.outFail
    | _ => s

/-- The stage check has passed: PASS, and fault 10 stops being live (R299 to R301). -/
def State.checkPassed (s : State) : State :=
  ((({ s with ban := { s.ban with test := .none } }).set BAN.TESTRES.PASS 1).cond 10 false).setB BAN.STATUS.OUTLIVE false |>.causes

/-- The stage check may run: stage in use, OVS at least 16 V (R300). -/
def State.stageMay (s : State) : Bool := s.bit BAN.ROLE.USED && decide (1600 ≤ s.get BAN.VOVS)

/-- One phase of the stage check (R300): `ok` says that the phase's readback requirement was met. (DEDUCED, log 81) -/
def State.stageCheck (s : State) (ph : Nat) (ok : Bool) : State :=
  let m := s.get BAN.ROLE.MODE
  if s.testTread = false ∨ s.stageMay = false ∨ s.bit BAN.STATUS.PERMIT = true ∨ m = 3 then s
  else match ph with
    | 0 =>
      let s := s.testBegin 0xFF20
      let s := ({ s with ban := { s.ban with test := .check } }).setB BAN.STATUS.HSCMD (m != 2)
      if !ok then s.outFail else if m = 2 then s.checkPassed else s
    | 1 =>
      if s.ban.test ≠ .check then s
      else
        let s := (s.setB BAN.STATUS.HSCMD false).setB BAN.STATUS.LSCMD true
        if ok then s else s.outFail
    | _ =>
      if s.ban.test ≠ .check then s else s.openAll.checkPassed

/-- STAGE_CHECK_PHASE (R299, R300). -/
def execStageCheckPhase (ph : Fin 3) (ok : Bool) (s : State) : Host.Outcome State Fault Refusal :=
  whenActive [.safe, .ban] s fun s => s.stageCheck ph.val ok

/-- A phase step ends the tread during the opening: the switch recloses, the result is discarded (R298). -/
def State.testSlip (s : State) : State :=
  match s.ban.test with
  | .none => s
  | .check => s.testDiscard.openAll
  | .opening _ => s.testDiscard.closeAll (s.nowNs + 1000000)
  | .passed _ => s.testDiscard.closeAll (s.nowNs + 1000000)
  | .reclosing _ => s.testDiscard

end Sys2Proof.Machine
end

