-- ==== Sys2Proof/Machine/Lanes.lean ====
section
/-! DEFINITION. Lanes.lean: what the queues and the plans need of the ports: which lane qualifies for a
landing, the line rate, the state of the plan banks and lean operation, the lane sets of notices (R320,
R350, R361 to R363, R369 to R375). -/
namespace Sys2Proof

/-- A lane's number: DN-TX 0, UP-TX 1. -/
def Lane.no : Lane → Nat
  | .dnTx => 0
  | .upTx => 1

/-- The port whose TX pins drive a lane. -/
def Lane.port : Lane → Port
  | .dnTx => .dn
  | .upTx => .up

/-- The other port. -/
def Port.other : Port → Port
  | .up => .dn
  | .dn => .up

/-- The lane that a port drives. -/
def Port.lane : Port → Lane
  | .up => .upTx
  | .dn => .dnTx

/-- A port's number, UP 0 and DN 1. -/
def Port.no : Port → Nat
  | .up => 0
  | .dn => 1

end Sys2Proof

namespace Sys2Proof.Machine

/-! ### Ports -/

/-- A port's record. -/
def State.port (s : State) (p : Port) : LinkPort := match p with | .up => s.link.up | .dn => s.link.dn

/-- Store a port's record. -/
def State.setPort (s : State) (p : Port) (x : LinkPort) : State :=
  match p with
  | .up => { s with link := { s.link with up := x } }
  | .dn => { s with link := { s.link with dn := x } }

/-- A field of UPSTAT, or the same field of DNSTAT. -/
def pstat (p : Port) (f : Fld) : Fld := match p with | .up => f | .dn => f.plus 1

/-- The codes of UPSTAT.STATE (R344). -/
def pOff : Nat := 0
def pListen : Nat := 1
def pT0 : Nat := 2
def pT1 : Nat := 3
def pT2 : Nat := 4
def pT3 : Nat := 5
def pUp : Nat := 6
def pRate : Nat := 7

/-- A port's state. -/
def State.pState (s : State) (p : Port) : Nat := s.get (pstat p LINK.UPSTAT.STATE)

/-- A port is in link-up. -/
def State.linkUp (s : State) (p : Port) : Bool := s.pState p == pUp

/-- A port's enable bit in effect (R328, R344). -/
def State.portOn (s : State) (p : Port) : Bool :=
  match p with | .up => s.usedB LINK.CFG.UPEN | .dn => s.usedB LINK.CFG.DNEN

/-- A port's rate. -/
def State.pRateOf (s : State) (p : Port) : Nat := s.get (pstat p LINK.UPSTAT.RATE)

/-- The port whose arriving frames a lane would carry on is not up, or is switched off (R322). -/
def State.originates (s : State) (l : Lane) : Bool :=
  s.linkUp l.port && (!s.linkUp l.port.other || (l == .upTx && !s.portOn .dn))

/-- The frame on a lane is the device's own: it originates the lane's frames, or finishes one (R322). -/
def State.makesFrame (s : State) (l : Lane) : Bool := s.originates l || (s.linkUp l.port && (s.port l.port.other).own)

/-- A lane qualifies for the landing it leads to (R363). -/
def State.qualifies (s : State) (l : Lane) : Bool :=
  let x := s.port l.port
  x.mark.isSome || x.before

/-- The alignment source port: none until the first choice after a reset (R336). -/
def State.source? (s : State) : Option Port :=
  match s.get TIME.STATUS.SRC with | 1 => some .up | 2 => some .dn | _ => none

/-- STATUS [1:0], faults 32, 33 (R341) and the ORIG bits (R322). -/
def State.linkStatus (s : State) : State :=
  let u := s.linkUp .up
  let d := s.linkUp .dn
  let s := (s.setB LINK.STATUS.UPLINK u).setB LINK.STATUS.DNLINK d
  let s := (s.cond 32 (s.portOn .up && !u)).cond 33 (s.portOn .dn && !d)
  let run := decide (s.pw.phase = .active)
  (s.setB LINK.DNSTAT.ORIG (run && (!u || s.link.up.own))).setB LINK.UPSTAT.ORIG
    (run && (!d || !s.portOn .dn || s.link.dn.own))

/-! ### Position, identity -/

/-- XACT.DEVID (R350): the stair ID and the step as far as they are known; bit 15 says whether both are. -/
def State.devId (s : State) : Nat :=
  (if s.bit XACT.STATUS.SIDSET && s.step?.isSome then 32768 else 0) + s.get { XACT.STAIRID with w := 6 } * 256 + (s.step?.getD 0) % 256

/-- The device's position from the landing a lane leads to, if known (R374). -/
def State.lanePos (s : State) (l : Lane) : Option Nat :=
  let v := s.get (match l with | .upTx => XACT.POSUP | .dnTx => XACT.POSDN)
  if 32768 ≤ v then some (v % 256) else none

/-- G of R374. -/
def State.leanG (s : State) : Nat :=
  let l := s.get XACT.STAIRLEN
  if 32768 ≤ l then (l % 512 + 63) / 64 else 4

/-- The device owns the lean slot `slot` of a lane in the frame of tread `stn` (R374). -/
def State.leanSlot (s : State) (l : Lane) (slot stn : Nat) : Bool :=
  match s.lanePos l with
  | some p => slot == 64 + p % 64 && stn % s.leanG == p / 64
  | none => false

/-! ### Plan banks (R369 to R373) -/

/-- Word `i` of bank `b`. -/
def State.planWord (s : State) (b i : Nat) : Word := look s.xact.plan (2048 * b + i)

/-- The state field of a bank: 0 EMPTY, 1 LOADING, 2 VALID, 3 BAD. -/
def planState (b : Nat) : Fld := if b = 0 then QUEUE.PLANSTAT.STATEA else QUEUE.PLANSTAT.STATEB

/-- The active bank. -/
def State.activeBank (s : State) : Nat := s.get QUEUE.PLANSTAT.ACTIVE

/-- Why a bank would leave the device in lean operation at line rate `rate`; 0 for a usable bank (R372). -/
def State.leanWhy (s : State) (b rate : Nat) : Nat :=
  match s.get (planState b) with
  | 0 => 1
  | 1 => 2
  | 3 => 3
  | _ =>
    if fieldOf (s.planWord b 0) 8 2 ≠ rate then 4
    else if s.step? ≠ some (fieldOf (s.planWord b 3) 0 8) then 5 else 0

/-- Q1 keeps only its newest block in lean operation (R375). -/
def State.leanQ1 (s : State) : State :=
  let l := (look s.xact.queues 1).blocks.filter (fun b => !b.started)
  forEach (List.range (l.length - 1)) (fun (_ : Nat) (s : State) => s.dropOne 1) s

/-- LEAN and LEANWHY by the active bank (R372). A bank that a check has just made VALID keeps its earlier
reason until it takes effect (R371). -/
def State.planEval (s : State) : State :=
  let why := if s.xact.planWait then (if s.get QUEUE.PLANSTAT.LEANWHY = 0 then 2 else s.get QUEUE.PLANSTAT.LEANWHY)
    else s.leanWhy s.activeBank s.link.rate
  let was := s.leanOp
  let lean := decide (why ≠ 0)
  let s := ((s.set QUEUE.PLANSTAT.LEANWHY why).setB QUEUE.PLANSTAT.LEAN lean).setB QUEUE.STATUS.LEAN lean
  if lean && !was then s.leanQ1 else s

/-- Fault 41 (R370). -/
def State.fault41 (s : State) : State :=
  let b := s.get QUEUE.PLANSTAT.STATEA == 3 || s.get QUEUE.PLANSTAT.STATEB == 3
  (s.cond 41 b).setB QUEUE.STATUS.PLANLIVE b

/-- Fault 42 (R373). -/
def State.fault42 (s : State) (b : Bool) : State := (s.cond 42 b).setB QUEUE.STATUS.BANKLIVE b

/-- Make a bank active (R339, R371, R373); `ev` where EVT.BANKSW reports it. -/
def State.setBank (s : State) (b : Nat) (ev : Bool) : State :=
  let old := s.activeBank
  let s := s.set QUEUE.PLANSTAT.ACTIVE b
  let s := { s with xact := { s.xact with planWait := false, bankMis := 0, bankNext := none } }
  let s := if ev && old != b then s.evt QUEUE.EVT.BANKSW else s
  (s.fault42 false).planEval

/-- One entry of the active bank that covers a slot of a lane in the frame of `stn` (R369). -/
def State.planEntry (s : State) (b : Nat) (lane kind slot stn : Nat) : Option Nat :=
  (List.range (fieldOf (s.planWord b 1) 0 9)).find? (fun e =>
    let w0 := s.planWord b (8 + 4 * e)
    let w3 := s.planWord b (11 + 4 * e)
    let f := fieldOf w0 0 11
    fieldOf w0 11 1 == lane && fieldOf w0 12 2 == kind && decide (f ≤ slot) &&
      decide (slot ≤ f + fieldOf (s.planWord b (10 + 4 * e)) 0 11) && stn % 2 ^ fieldOf w3 0 3 == fieldOf w3 3 6)

/-- The queue that the plan in use binds to a slot (R372); none in lean operation. -/
def State.planQueue (s : State) (l : Lane) (slot stn : Nat) : Option Nat :=
  if s.leanOp then none
  else match s.planEntry s.activeBank l.no 1 slot stn with
    | some e => some (fieldOf (s.planWord s.activeBank (9 + 4 * e)) 0 6)
    | none => none

/-- A lane on which the plan in use binds Q2 (R118). -/
def State.q2Lane (s : State) (l : Lane) : Bool :=
  !s.leanOp && (List.range (fieldOf (s.planWord s.activeBank 1) 0 9)).any (fun e =>
    let w0 := s.planWord s.activeBank (8 + 4 * e)
    fieldOf w0 11 1 == l.no && fieldOf w0 12 2 == 1 && fieldOf (s.planWord s.activeBank (9 + 4 * e)) 0 6 == 2)

/-! ### Lane sets of notices and responses (R363) -/

/-- A notice with its lane set at this instant; none where it has gone out on every lane that is left in the set. -/
def State.laneSet (s : State) (b : Block) : Option Block :=
  let u := s.qualifies .upTx
  let d := s.qualifies .dnTx
  if b.fixed && ((b.up && u) || (b.dn && d)) then some { b with up := b.up && u, dn := b.dn && d }
  else if b.gone then none
  else some { b with up := u, dn := d, fixed := u || d }

/-- Bring the lane sets of Q0 and the responses of Q3 to the lanes that qualify now. -/
def State.lanesNow (s : State) : State :=
  let q0 := look s.xact.queues 0
  let s := s.setQueue 0 { q0 with blocks := q0.blocks.filterMap s.laneSet }
  let q3 := look s.xact.queues 3
  s.setQueue 3 { q3 with blocks := q3.blocks.filter (fun b => (b.up && s.qualifies .upTx) || (b.dn && s.qualifies .dnTx)) }

end Sys2Proof.Machine
end

