-- ==== Sys2Proof/Machine/FaultCol.lean ====
section
/-! DEFINITION. FaultCol.lean: the fault collector and the ERR pin (13, R302 to R313). -/
namespace Sys2Proof.Machine

/-! ### Vectors of 64 sources -/

/-- A vector of four words as a number, source 16w + b in bit b of word w (R313). -/
def State.vec (s : State) (f : Fld) : Nat := s.get2 f + 4294967296 * s.get2 (f.plus 2)

/-- Store a vector of four words. -/
def State.setVec (s : State) (f : Fld) (v : Nat) : State := (s.set2 f v).set2 (f.plus 2) (v / 4294967296)

/-- Source 63 is reserved: its bits read 0 (R304). -/
def no63 (v : Nat) : Nat := v % 2 ^ 63

/-- The lowest set bit of a vector. -/
def lowest (v : Nat) : Option Nat := (List.range 64).find? (fun i => v.testBit i)

/-! ### Classes (R305, R306) -/

/-- The CLASS field of a source: 0 INFO, 1 WARN, 2 TRIP, 3 LOCK. -/
def classFld (i : Nat) : Fld := { FAULT.CLASS0 with word := FAULT.CLASS0.word + i / 8, lo := i % 8 * 2, w := 2 }

/-- The class in effect: the one applied at the latest collection, at first the reset class. -/
def State.classOf (s : State) (i : Nat) : Nat := (look s.col.cls i).getD (fieldOf (resetWord (classFld i).addr) (classFld i).lo 2)

/-- The class `n` of source `i` is in effect. -/
def State.setClass (s : State) (i n : Nat) : State :=
  { s with col := { s.col with cls := put s.col.cls i (if n = fieldOf (resetWord (classFld i).addr) (classFld i).lo 2 then none else some n) } }

/-- A load or a defaulting sets the classes directly, in every state (R305). -/
def State.classesDirect (s : State) : State :=
  forEach (List.range 63) (fun (i : Nat) (s : State) => s.setClass i (s.get (classFld i))) s

/-- A collection applies the written classes; in lock-out not one that lowers its source's class (R305). -/
def State.applyClasses (s : State) : State :=
  forEach (List.range 63) (fun (i : Nat) (s : State) =>
    let n := s.get (classFld i)
    if s.locked && decide (n < s.classOf i) then s
    else s.setClass i n) s

/-- Some source from 12 on of class TRIP is live, or one of class LOCK is sticky (R306). -/
def State.classPresent (s : State) : Bool :=
  let live := s.vec FAULT.LIVE0
  let stk := s.vec FAULT.STICKY0
  (List.range 63).any (fun i => decide (12 ≤ i) &&
    ((s.classOf i == 2 && live.testBit i) || (s.classOf i == 3 && stk.testBit i)))

/-- The lock-out cause CLASS arises, stays or goes (R274, R306). -/
def State.classCause (s : State) (t : Nat) : State :=
  let p := s.classPresent
  let was := s.safe.classNow
  let s := ({ s with safe := { s.safe with classNow := p } }).setB FAULT.STATUS.CLASSCAUSE p
  if p && !was then s.lockCause 11 0 t true else s.causes

/-- The cause CLASS goes with the classes in effect; it arises at a collection only (R306). (DEDUCED, log 183) -/
def State.classGone (s : State) : State :=
  if s.safe.classNow && !s.classPresent then
    (({ s with safe := { s.safe with classNow := false } }).setB FAULT.STATUS.CLASSCAUSE false).causes
  else s

/-! ### ERR (R310) -/

/-- ERRLOW, PULSE, ANYLIVE and ANYSTICKY. (DESIGN CHOICE, log 124) -/
def State.errStatus (s : State) : State :=
  let pulse := s.col.pulseEnd.isSome
  (((s.setB FAULT.STATUS.PULSE pulse).setB FAULT.STATUS.ERRLOW (pulse || s.bit FAULT.ERRCTL.SWLEVEL)).setB
    FAULT.STATUS.ANYLIVE (decide (s.vec FAULT.LIVE0 ≠ 0))).setB FAULT.STATUS.ANYSTICKY (decide (s.vec FAULT.STICKY0 ≠ 0))

/-- A pulse starts or restarts at this collection instant. -/
def State.errPulse (s : State) : State :=
  let s := { s with col := { s.col with pulseEnd := some (s.tm.ltc + s.get { FAULT.ERRCTL.MINW with w := 8 }) } }
  if s.bit FAULT.ERRCTL.LATCH then s.setB FAULT.ERRCTL.SWLEVEL true else s

/-! ### Q0 notices (R308, R309) -/

/-- The bytes of a notice. -/
def State.notice (s : State) (seq merge new : Nat) : List Byte :=
  let st := (if s.locked then 1 else 0) + (if s.bit FAULT.STATUS.ERRLOW then 2 else 0) + (if s.bit FAULT.ERRCTL.SWLEVEL then 4 else 0)
  leBytes 4 s.tm.stn ++ leBytes 6 s.tm.ltc ++ leBytes 2 seq ++ leBytes 1 merge ++ leBytes 1 st ++ leBytes 2 0 ++
    leBytes 8 new ++ leBytes 8 (s.vec FAULT.STICKY0) ++ leBytes 8 (s.vec FAULT.LIVE0)

/-- The newest waiting notice takes a new one in (R309). -/
def State.mergeInto (s : State) (b : Block) (seq new : Nat) (up dn : Bool) : Block :=
  let m := min (leNat ((b.bytes.drop 12).take 1) + 1) 255
  let n := leNat ((b.bytes.drop 16).take 8)
  { b with bytes := s.notice seq m (n ||| new), up := b.up || up, dn := b.dn || dn, fixed := b.fixed || up || dn, gone := false }

/-- Post a notice to Q0, or merge it when less than 40 bytes are free. -/
def State.postNotice (s : State) (new : Nat) : State :=
  let u := s.qualifies .upTx
  let d := s.qualifies .dnTx
  let old := s.get FAULT.NSEQ
  let seq := if old = 65535 then 1 else old + 1
  let s := s.set FAULT.NSEQ seq
  if s.qRoom 0 40 then (s.append 0 (s.notice seq 0 new) u d (u || d)).inc FAULT.NOTECNT
  else
    let q := look s.xact.queues 0
    match q.blocks.reverse with
    | [] => s
    | b :: l => ((s.setQueue 0 { q with blocks := l.reverse ++ [s.mergeInto b seq new u d] }).inc FAULT.MERGECNT).evt FAULT.EVT.MERGE

/-! ### Collection (R302, R303) -/

/-- 180.0 µs of a tread from tread 1 on, in ns since supplies valid. -/
def State.collectNs (s : State) : Nat := s.nowNs + 180000

/-- The sticky bits that this collection newly sets. -/
def State.newlySet (s : State) : Nat := no63 s.occurred.toNat &&& (2 ^ 64 - 1 - s.vec FAULT.STICKY0)

/-- Sticky and live bits, FIRST and EVT.NEW; the occurrences of the next interval begin. (DEDUCED, log 82) -/
def State.collectBits (s : State) (new : Nat) : State :=
  let empty := decide (s.vec FAULT.STICKY0 = 0)
  let s := s.setVec FAULT.STICKY0 (s.vec FAULT.STICKY0 ||| new)
  let s := s.setVec FAULT.LIVE0 (no63 (s.condNow ||| s.evented).toNat)
  let s := { s with occurred := s.condNow, evented := 0 }
  match lowest new with
  | none => s
  | some i => let s := s.evt FAULT.EVT.NEW
    if empty then s.set FAULT.FIRST (64 + i) else s

/-- One collection: classes, bits, then the reactions of R306 once each. -/
def State.collect (s : State) : State :=
  let s := s.applyClasses
  let new := s.newlySet
  let open' := new &&& (2 ^ 64 - 1 - s.vec FAULT.MASK0)
  let s := s.collectBits new
  let warn := (List.range 63).any (fun i => open'.testBit i && decide (1 ≤ s.classOf i))
  let s := (if warn then s.errPulse else s).errStatus
  let s := s.classCause s.collectNs
  if open' = 0 then s else s.postNotice new

/-- A pulse whose MINW treads are over ends (R310). -/
def State.pulseEnd (s : State) : State :=
  match s.col.pulseEnd with
  | some t => if t ≤ s.tm.ltc then ({ s with col := { s.col with pulseEnd := none } }).errStatus else s
  | none => s

/-! ### Clears (R304) -/

/-- Clear the sticky bits of `v` whose live bit is 0; answers the refused ones too. -/
def State.stickyDrop (s : State) (v : Nat) : State × Nat :=
  let live := s.vec FAULT.LIVE0
  let refused := v &&& live &&& s.vec FAULT.STICKY0
  (((s.setVec FAULT.STICKY0 (s.vec FAULT.STICKY0 &&& (2 ^ 64 - 1 - (v &&& (2 ^ 64 - 1 - live))))).errStatus).classCause s.collectNs, refused)

/-- A new write begins: no index of it has been refused. -/
def State.writeBegin (s : State) : State := { s with col := { s.col with clrLow := none } }

/-- A write of ones to STICKY word `w`; CLRREJIDX takes the lowest index refused in the whole write. -/
def State.stickyClear (s : State) (w : Nat) (v : Word) : State :=
  let (s, refused) := s.stickyDrop (no63 (v.toNat * 2 ^ (16 * w)))
  match lowest refused with
  | some i =>
    let k := match s.col.clrLow with | some j => min i j | none => i
    (({ s with col := { s.col with clrLow := some k } }).evt FAULT.EVT.CLRREJ).set FAULT.CLRREJIDX (64 + k)
  | none => s

/-- CTRL.CLRALL: bits still live stay without report. -/
def State.clrAll (s : State) : State := (s.stickyDrop (2 ^ 63 - 1)).1

/-! ### Class writes (R305) -/

/-- Some field of CLASS word `w` would fall below the class in effect. -/
def State.lowersClass (s : State) (w : Nat) (v : Word) : Bool :=
  (List.range 8).any (fun j => decide (12 ≤ 8 * w + j ∧ 8 * w + j ≤ 62) && decide (fieldOf v (2 * j) 2 < s.classOf (8 * w + j)))

/-- The bits of CLASS word `w` that a write changes: those of sources 12 to 62 (R305). -/
def classMask (w : Nat) : Nat := if w = 0 then 0 else if w = 1 then 0xFF00 else if w = 7 then 0x3FFF else 0xFFFF

/-- Store CLASS word `w`; in lock-out a word that lowers a class has no effect. -/
def State.classStore (s : State) (w : Nat) (v : Word) : State :=
  if s.locked && s.lowersClass w v then s.evt FAULT.EVT.CFGREJ
  else
    let f := FAULT.CLASS0.plus w
    let m := BitVec.ofNat 16 (classMask w)
    s.setReg f.addr ((s.reg f.addr &&& ~~~m) ||| (v &&& m))

/-! ### Rows -/

/-- FAULT_COLLECTION (R302, R303, R306, R308, R309). The first is in tread 1 (R60). -/
def execFaultCollection (s : State) : Host.Outcome State Fault Refusal :=
  whenActive [.xact, .safe, .ban, .col] s fun s => if s.tm.tread = 0 then s else s.collect

/-- ERR_PULSE_END (R310). -/
def execErrPulseEnd (s : State) : Host.Outcome State Fault Refusal := whenActive [.col] s fun s => s.pulseEnd

/-- STICKY_CLEAR (R304). -/
def execStickyClear (w : Fin 4) (v : Word) (s : State) : Host.Outcome State Fault Refusal := whenActive [.safe, .ban, .col] s fun s => s.writeBegin.stickyClear w.val v

/-- CLRALL (R304). -/
def execClrall (s : State) : Host.Outcome State Fault Refusal := whenActive [.safe, .ban, .col] s fun s => s.clrAll

end Sys2Proof.Machine
end

