-- ==== Sys2Proof/Machine/Slots.lean ====
section
/-! DEFINITION. Slots.lean: slots received and forwarded, owned slots and what fills them, plan checks, and
the queue commands of the QUEUE page (R322 to R326, R346, R362 to R375, R379). -/
namespace Sys2Proof.Machine

/-! ### Slot contents (R323, R324) -/

/-- The next bit of PRBS-15 (x^15 + x^14 + 1) and the register after it. -/
def prbsBit (r : Nat) : Nat × Nat :=
  let b := (r / 16384 + r / 8192) % 2
  (b, (2 * r + b) % 32768)

/-- Eight bits of PRBS-15, the first in bit 0 as R317 sends bytes, added to `acc`. (DEDUCED, log 91) -/
def prbsByte : Nat → Nat → Nat → Nat → Nat × Nat
  | 0, _, r, acc => (acc, r)
  | n + 1, w, r, acc => let p := prbsBit r
    prbsByte n (2 * w) p.2 (acc + w * p.1)

/-- `n` bytes of PRBS-15. -/
def prbsBytes : Nat → Nat → List Byte
  | 0, _ => []
  | n + 1, r => let p := prbsByte 8 1 r 0
    BitVec.ofNat 8 p.1 :: prbsBytes n p.2

/-- The IDLE slot whose header the device puts before every slot of its own; the CRC follows when it is sent. -/
def State.slotHead (s : State) (l : Lane) (slot : Nat) (stn : BitVec 32) : Slot :=
  let id := s.devId
  { idle := true, type := 0, ver := 1, src := if 32768 ≤ id then BitVec.ofNat 14 (id % 16384) else 0, srcKind := if 32768 ≤ id then 0 else 1,
    slot := slot, rate := BitVec.ofNat 2 s.link.rate, bank := s.activeBank == 1, dir := l == .upTx, hop := 0, queue := 0,
    first := false, last := false, qseq := 0, len := 0, stnl := stn.truncate 8,
    payload := prbsBytes 128 32767, crc := 0 }

/-- A slot that carries `n` bytes of a queue block (R362). -/
def slotWith (x : Slot) (q : Nat) (b : Block) (n : Nat) : Slot :=
  { x with idle := false, type := 1, queue := BitVec.ofNat 6 q, first := b.sent == 0,
           last := decide (b.bytes.length ≤ b.sent + n), qseq := BitVec.ofNat 16 b.seq, len := BitVec.ofNat 8 n,
           payload := ((b.bytes.drop b.sent).take n) ++ List.replicate (128 - n) 0 }

/-- Record what a lane sends, an own slot with its CRC. (DESIGN CHOICE, log 125) -/
def State.sendSlot (s : State) (l : Lane) (x : Slot) : State :=
  { s with link := { s.link with txSlot := put s.link.txSlot l.no (some x) } }

/-! ### Owned slots (R362 to R364, R374, R375) -/

/-- The flag of a block for a lane. -/
def Block.to (b : Block) (l : Lane) : Bool := match l with | .upTx => b.up | .dnTx => b.dn

/-- The block without a lane's flag. -/
def Block.off (b : Block) (l : Lane) : Block := match l with | .upTx => { b with up := false } | .dnTx => { b with dn := false }

/-- A block of queue `q` may go out, or go on, in a slot of this lane and kind. -/
def State.canSend (s : State) (q : Nat) (l : Lane) (lean : Bool) (b : Block) : Bool :=
  if q = 0 then b.to l && b.fixed
  else if q = 3 then b.to l && s.qualifies l
  else if b.started then b.lane == some l && b.lean == lean
  else s.qualifies l

/-- The place of the block that a bound slot of queue `q` carries: the newest one in Q2, whose every bound slot is filled,
else the oldest that may go out. A block started on the lane in slots of the other kind goes on only there, and none newer goes ahead of
it, but that a lean slot in lean operation serves Q1 all the same (R118, R360, R362, R374, R375). (DESIGN CHOICE, log 92) -/
def State.pick (s : State) (q : Nat) (l : Lane) (lean : Bool) : Option Nat :=
  let bs := (look s.xact.queues q).blocks
  if q = 2 then (if bs.isEmpty then none else some (bs.length - 1))
  else if !(lean && s.leanOp) && bs.any (fun b => b.started && b.lane == some l && b.lean != lean) then none
  else bs.findIdx? (s.canSend q l lean)

/-- Q2 after its newest block has gone out on lane `l`: no block goes out on that lane again before a newer one, and an
older block without a lane left is done. -/
def State.afterQ2 (s : State) (l : Lane) (bs : List Block) : List Block :=
  let cs := bs.map (fun b => { b.off l with up := (b.off l).up && s.q2Lane .upTx, dn := (b.off l).dn && s.q2Lane .dnTx })
  cs.dropLast.filter (fun c => c.up || c.dn) ++ cs.getLast?.toList

/-- The queue with the block after one slot of it has gone out on lane `l`. -/
def State.afterSlot (s : State) (q : Nat) (l : Lane) (lean : Bool) (i n : Nat) : List Block → List Block
  | [] => []
  | b :: r =>
    match i with
    | j + 1 => b :: s.afterSlot q l lean j n r
    | 0 =>
      if q = 0 then let c := b.off l
        if c.up || c.dn then { c with gone := true } :: r else r
      else if b.bytes.length ≤ b.sent + n then r
      else { b with sent := b.sent + n, lane := some l, lean := lean } :: r

/-- Send one slot of block `i` of queue `q`. -/
def State.sendBlock (s : State) (q i : Nat) (l : Lane) (lean : Bool) (head : Slot) : State :=
  let x := look s.xact.queues q
  match x.blocks[i]? with
  | none => s
  | some b =>
    let n := min 128 (b.bytes.length - b.sent)
    (s.setQueue q { x with blocks := if q = 2 then s.afterQ2 l x.blocks else s.afterSlot q l lean i n x.blocks }).sendSlot l
      (slotSeal (slotWith head q b n))

/-- Block `i` of queue `q` meets an uncorrectable ECC error: it is discarded as a drop, with EVT.ECC and fault 43 (R312,
R361). -/
def State.eccDrop (s : State) (q i : Nat) : State :=
  let x := look s.xact.queues q
  (((s.setQueue q { x with blocks := x.blocks.eraseIdx i }).noteDrop q).evt QUEUE.EVT.ECC).occur 43

/-- What a lean slot sends first: a continuation, a notice, a response, a Q1 block (R374). -/
def State.leanPick (s : State) (l : Lane) : Option (Nat × Nat) :=
  let f := fun (q : Nat) => (s.pick q l true).map (fun i => (q, i))
  match (look s.xact.queues 1).blocks.findIdx? (fun b => b.started && b.lane == some l && b.lean) with
  | some i => some (1, i)
  | none => (f 0).or ((f 3).or (f 1))

/-- The queue and block for an owned slot, none when nothing is ready (R364, R374). -/
def State.slotPick (s : State) (l : Lane) (slot : Nat) (stn : BitVec 32) : Option (Nat × Nat) :=
  if s.leanSlot l slot stn.toNat then s.leanPick l
  else (s.planQueue l slot stn.toNat).bind (fun q => (s.pick q l false).map (fun i => (q, i)))

/-- The device owns a slot of lane `l` in the frame of tread `stn` (R325, R374). -/
def State.owns (s : State) (l : Lane) (slot stn : Nat) : Bool := s.leanSlot l slot stn || (s.planQueue l slot stn).isSome

/-- Fill an owned slot with what is ready, else with an IDLE slot. -/
def State.fillSlot (s : State) (l : Lane) (slot : Nat) (stn : BitVec 32) : State :=
  match s.slotPick l slot stn with
  | none => s.sendSlot l (slotSeal (s.slotHead l slot stn))
  | some (q, i) =>
    let t := s.sendBlock q i l (s.leanSlot l slot stn.toNat) (s.slotHead l slot stn)
    if s.leanSlot l slot stn.toNat then t.inc QUEUE.LEANCNT else t

/-- A slot of `l` comes past in the frame of tread `stn` that the device owns, or makes itself: an unowned one is IDLE
(R322). `ecc` says that the block for it meets an uncorrectable error. After a framing loss the device sends IDLE slots in
its own slots (R326). (DEDUCED, log 93) -/
def State.ownedSlot (s : State) (l : Lane) (slot : Nat) (stn : BitVec 32) (ecc : Bool) : State :=
  let owns := s.owns l slot stn.toNat
  if s.linkUp l.port = false ∨ slotCount (s.pRateOf l.port) ≤ slot ∨ (owns = false ∧ s.makesFrame l = false) then s
  else if owns = false then s.sendSlot l (slotSeal (s.slotHead l slot stn))
  else
    match s.slotPick l slot stn with
    | none => s.fillSlot l slot stn
    | some (q, i) =>
      if (s.port l.port.other).lost then (((s.sendSlot l (slotSeal (s.slotHead l slot stn))).inc QUEUE.MISSCNT).evt QUEUE.EVT.MISS).occur 36
      else if ecc then (s.eccDrop q i).fillSlot l slot stn else s.fillSlot l slot stn

/-! ### Slots received (R324 to R326, R341, R346) -/

/-- The device forwards what arrives on port `p` (R322, R325). -/
def State.forwards (s : State) (p : Port) : Bool :=
  s.linkUp p && s.linkUp p.other && !(s.port p).own && !(s.port p).wait

/-- The STN of the frame that passes on a lane: that of the mark sent last. -/
def State.frameStn (s : State) (l : Lane) : Nat :=
  match look s.link.txMark l.no with | some m => m.mark.stn.toNat | none => s.tm.stn

/-- What arrives in place of a slot leaves on the other port's lane, unless the device owns it there or does not forward. -/
def State.passSlot (s : State) (p : Port) (slot : Nat) (y : Slot) : State :=
  let l := p.other.lane
  if s.forwards p && !s.owns l slot (s.frameStn l) then s.sendSlot l y else s

/-- A slot start on port `p`, or its absence; one outside the frame loses the framing too. For the rest of the frame the
characters pass unchanged (R326). -/
def State.slotRx (s : State) (p : Port) (sos : Bool) (x : Slot) : State :=
  let r := s.port p
  if s.linkUp p = false then s
  else if r.lost then s.passSlot p x.slot x
  else if sos = false ∨ slotCount (s.pRateOf p) ≤ x.slot then
    (((s.setPort p { r with lost := true }).inc LINK.FRMERR).evt LINK.EVT.FRAMING).passSlot p x.slot x
  else (if x.crcOk then s else s.setPort p { r with errs := min (r.errs + 1) 65535 }).passSlot p x.slot (forwarded x)

/-! ### Plan banks (R370, R371, R373, R379) -/

/-- The last slot at a RATE field (R370); none for the reserved code. -/
def lastSlot (rate : Nat) : Nat := ([2047, 1023, 511] : List Nat).getD rate 0

/-- An entry of a bank as its four words. -/
def State.entryWords (s : State) (b e : Nat) : List Word := (List.range 4).map (fun i => s.planWord b (8 + 4 * e + i))

/-- Fields of an entry: first slot, last slot, lane, PEXP, PHASE, KIND. -/
def entryF (w : List Word) : Nat × Nat × Nat × Nat × Nat × Nat :=
  let a := w.getD 0 0
  let d := w.getD 3 0
  (fieldOf a 0 11, fieldOf a 0 11 + fieldOf (w.getD 2 0) 0 11, fieldOf a 11 1, fieldOf d 0 3, fieldOf d 3 6, fieldOf a 12 2)

/-- Two entries cover the same slot of the same lane in the same frame. -/
def overlap (a b : List Word) : Bool :=
  let (a0, a1, al, ae, ap, _) := entryF a
  let (b0, b1, bl, be, bp, _) := entryF b
  let m := 2 ^ min ae be
  al == bl && decide (a0 ≤ b1) && decide (b0 ≤ a1) && ap % m == bp % m

/-- Some two entries of a list overlap. -/
def anyOverlap : List (List Word) → Bool
  | [] => false
  | a :: l => l.any (overlap a) || anyOverlap l

/-- FIRSTERR of a check of bank `b` (R370): 0 when every condition holds. -/
def State.planCheck (s : State) (b : Nat) : Nat :=
  let n := fieldOf (s.planWord b 1) 0 9
  let len := fieldOf (s.planWord b 2) 0 9
  let es := (List.range n).map (s.entryWords b)
  let crc := crc32 (wordBytes ((List.range 6).map (s.planWord b) ++ es.flatten))
  if fieldOf (s.planWord b 0) 0 8 ≠ 1 ∨ 256 < n ∨ len < 1 ∨ 256 < len then 1
  else if crc.toNat ≠ (s.planWord b 6).toNat + 65536 * (s.planWord b 7).toNat then 2
  else if es.any (fun w => let (_, _, _, pe, ph, k) := entryF w; k == 0 || k == 3 || decide (6 < pe) || decide (2 ^ pe ≤ ph)) then 3
  else if es.any (fun w => let (a, z, _) := entryF w; decide (a < 128) || decide (lastSlot (fieldOf (s.planWord b 0) 8 2) < z)) then 4
  else if anyOverlap es then 5 else 0

/-- PLANCHK.CHECK: the selected bank becomes VALID or BAD. -/
def State.planChk (s : State) : State :=
  let b := s.get { QUEUE.PLANSEL with w := 1 }
  let e := s.planCheck b
  let was := s.get (planState b)
  let s := (s.set (planState b) (if e = 0 then 2 else 3)).set QUEUE.PLANSTAT.FIRSTERR e
  let s := s.evt (if e = 0 then QUEUE.EVT.PLANOK else QUEUE.EVT.PLANBAD)
  let s := if b = s.activeBank then { s with xact := { s.xact with planWait := e == 0 && (was != 2 || s.xact.planWait) } } else s
  s.fault41.planEval

/-- A write of the bank word at PLANPTR; it makes the bank LOADING (R370, R371). -/
def State.planWrite (s : State) (v : Word) : State :=
  let b := s.get { QUEUE.PLANSEL with w := 1 }
  let p := s.get { QUEUE.PLANPTR with w := 11 }
  if 1031 < p ∨ (b = s.activeBank ∧ s.get (planState b) = 2) then s.evt QUEUE.EVT.CFGREJ
  else
    let s := { s with xact := { s.xact with plan := put s.xact.plan (2048 * b + p) v } }
    ((s.set (planState b) 1).set { QUEUE.PLANPTR with w := 11 } (p + 1)).fault41.planEval

/-- The bank word at PLANPTR; a read advances PLANPTR (R379). -/
def State.planShown (s : State) : Word :=
  let p := s.get { QUEUE.PLANPTR with w := 11 }
  if 1031 < p then 0 else s.planWord (s.get { QUEUE.PLANSEL with w := 1 }) p

/-- The effect of a read of PLANDATA. -/
def State.planRead (s : State) : State :=
  let p := s.get { QUEUE.PLANPTR with w := 11 }
  if 1031 < p then s.evt QUEUE.EVT.CFGREJ else s.set { QUEUE.PLANPTR with w := 11 } (p + 1)

/-- The plan that a check found VALID comes into use at master clock 0 (R371). -/
def State.planTread (s : State) : State :=
  ({ s with xact := { s.xact with planWait := false } }).planEval

/-! ### Rows -/

/-- OWNED_SLOT (R364, R374). -/
def execOwnedSlot (l : Lane) (slot : Nat) (f : OwnedAt) (s : State) : Host.Outcome State Fault Refusal :=
  whenActive [.xact, .link] s fun s => s.ownedSlot l slot f.stn f.ecc

/-- BANK_SWITCH (R373). -/
def execBankSwitch (s : State) : Host.Outcome State Fault Refusal :=
  whenActive [.xact] s fun s => match s.xact.bankNext with
    | some b => s.setBank b true
    | none => s

/-- PLANCHK (R370). -/
def execPlanchk (s : State) : Host.Outcome State Fault Refusal := whenActive [.xact] s fun s => s.planChk

/-- PLANDATA_ACCESS (R371, R379). -/
def execPlandataAccess (wr : Option Word) (s : State) : Host.Outcome State Fault Refusal :=
  whenActive [.xact] s fun s => match wr with
    | some v => s.planWrite v
    | none => s.planRead

/-- FLUSH (R361, R379). -/
def execFlush (s : State) : Host.Outcome State Fault Refusal := whenActive [.xact] s fun s => s.discardWaiting (s.get { QUEUE.QSEL with w := 6 })

/-- Empty both duplicate caches (R357). -/
def State.clearCaches (s : State) : State := { s with xact := { s.xact with cacheUp := [], cacheDn := [] } }

/-- CLRCACHE (R357). -/
def execClrcache (s : State) : Host.Outcome State Fault Refusal := whenActive [.xact] s fun s => s.clearCaches

/-- A write of STAIRID (R348, R378). -/
def State.stairId (s : State) (v : Word) : State :=
  (s.set { XACT.STAIRID with w := 6 } v.toNat).setB XACT.STATUS.SIDSET true

/-- STAIRID_WRITE (R348). -/
def execStairidWrite (v : Word) (s : State) : Host.Outcome State Fault Refusal := whenActive [] s fun s => s.stairId v

/-- FSAGE_CLOSE (R365). -/
def execFsageClose (q : Fin 38) (s : State) : Host.Outcome State Fault Refusal :=
  whenActive [.cells, .xact] s fun s => match look s.cells.openBlk q.val with
    | some o => if o.born + s.get { QUEUE.FSAGE with w := 7 } ≤ s.tm.tread then s.closeFine q.val else s
    | none => s

end Sys2Proof.Machine
end

