-- ==== Sys2Proof/Machine/Link.lean ====
section
/-! DEFINITION. Link.lean: training, link-down, eye records, the CRC window and the rate change of the two ports
(14, R328 to R332, R338 to R341, R376). -/
namespace Sys2Proof.Machine

/-! ### Eye records (R176, R329, R340) -/

/-- The longest run of passing positions, `cur` long so far. -/
def longestRun : List Bool → Nat → Nat → Nat
  | [], cur, best => max cur best
  | true :: l, cur, best => longestRun l (cur + 1) best
  | false :: l, cur, best => longestRun l 0 (max cur best)

/-- The eye width as reported: the longest circular run, 64 shown as 63. -/
def eyeWidth (l : List Bool) : Nat := min 63 (longestRun (l ++ l) 0 0)

/-- The record of a lane at a rate (0 URX, 1 DRX, 2 UTX, 3 DTX): the monitor's at the current rate, the latest
full training's at the others. -/
def State.eyeAt (s : State) (rate lane : Nat) : Option Nat :=
  if rate = s.link.rate then look s.link.eyeNow lane else look s.link.eyeFull (4 * rate + lane)

/-- The byte of an eye record: width and its valid bit. -/
def eyeByte (e : Option Nat) : Nat := match e with | some w => 64 + w | none => 0

/-- Lanes of the enabled ports. -/
def State.eyeLanes (s : State) : List Nat := (if s.portOn .up then [0, 2] else []) ++ (if s.portOn .dn then [1, 3] else [])

/-- A rate qualifies: every lane of every enabled port shows at least 20 UI/64 at it. -/
def State.rateOk (s : State) (r : Nat) : Bool :=
  !s.eyeLanes.isEmpty && s.eyeLanes.all (fun l => match s.eyeAt r l with | some w => decide (20 ≤ w) | none => false)

/-- HEALTH.RATEREC and fault 61 after a change of a record. -/
def State.eyeEval (s : State) : State :=
  let r := ((List.range 3).find? s.rateOk).getD 3
  let s := if s.get { HEALTH.RATEREC with w := 2 } = r then s else s.healthSet { HEALTH.RATEREC with w := 2 } r (some hRATEREC)
  (s.cond 61 (s.eyeLanes.any (fun l => match look s.link.eyeNow l with | some w => decide (w < 32) | none => false))).healthStatus

/-- A new width of a lane at a rate: its HEALTH word takes it (R329). (DEDUCED, log 86) -/
def State.eyeNew (s : State) (lane rate w : Nat) : State :=
  let s := if rate = s.link.rate then { s with link := { s.link with eyeNow := put s.link.eyeNow lane (some w) } } else s
  (s.healthSet (HEALTH.EYEURX.plus lane) (w + 64 * rate + 256) none).eyeEval

/-- A new width of a lane at the current rate. -/
def State.eyeSet (s : State) (lane w : Nat) : State := s.eyeNew lane s.link.rate w

/-! ### Port states -/

/-- The phase of a training, in a rate tread too (R328, R339). -/
def State.phaseOf (s : State) (p : Port) : Nat := if s.pState p = pRate then (s.port p).rt else s.pState p

/-- Move a training to a phase; a rate tread stays one. -/
def State.toPhase (s : State) (p : Port) (ph : Nat) : State :=
  if s.pState p = pRate then s.setPort p { s.port p with rt := ph } else s.set (pstat p LINK.UPSTAT.STATE) ph

/-- Begin T0 at a rate (R328, R332); `fromUp` where its end is bounded by 2 ms. A frame whose framing was lost is over (R326). -/
def State.toT0 (s : State) (p : Port) (rate : Nat) (fromUp : Bool) : State :=
  let s := ((s.set (pstat p LINK.UPSTAT.STATE) pT0).set (pstat p LINK.UPSTAT.RATE) rate).inc (pstat p LINK.UPSTAT.TRIES)
  let x := s.port p
  (s.setPort p { x with sweep := 0, base := rate, rt := 0, peer := none, fromUp := fromUp, drive := s.used { LINK.CFG.SWING with w := 4 }, probes := 0, echoes := 0, dSum := 0, prbOpen := [], repeats := 0, cvRun := 0, noTmk := 0, lost := false, tmkAt := none, swept := none, own := false, wait := false }).linkStatus

/-- Listen with the rate cycle (R328). -/
def State.toListen (s : State) (p : Port) : State :=
  ((s.set (pstat p LINK.UPSTAT.STATE) pListen).set (pstat p LINK.UPSTAT.RATE) 0).linkStatus

/-- The other port of one that is no longer up, where it only offered a training beside it, listens again (R328). -/
def State.besideEnd (s : State) (p : Port) : State :=
  let y := s.port p.other
  if s.pState p.other = pT0 ∧ y.fromUp = false ∧ y.peer = none then s.toListen p.other else s

/-- A disabled port sends nothing, and the other no longer trains beside it (R328). -/
def State.toOff (s : State) (p : Port) : State :=
  let x := s.port p
  let up := s.linkUp p
  let s := ((s.setPort p { x with full := false, lost := false, own := false, wait := false }).set (pstat p LINK.UPSTAT.STATE) pOff).linkStatus
  if up then s.besideEnd p else s

/-- The next PRB goes out, with an ID of its own (R331). (DESIGN CHOICE, log 84) -/
def LinkPort.probe (x : LinkPort) : LinkPort :=
  { x with prbNext := (x.prbNext + 1) % 256, prbOpen := x.prbNext :: x.prbOpen.erase x.prbNext }

/-- Begin or repeat T2 with its first probe (R331). -/
def State.toT2 (s : State) (p : Port) : State :=
  let x := s.port p
  (s.setPort p (LinkPort.probe { x with probes := 0, echoes := 0, dSum := 0, prbOpen := [] })).toPhase p pT2

/-- A listening port whose other port is in link-up begins to train at that port's rate (R328). (DEDUCED, log 151) -/
def State.trainBeside (s : State) (p : Port) : State :=
  if s.portOn p && s.pState p == pListen && s.linkUp p.other then s.toT0 p (s.pRateOf p.other) false else s

/-- The line rate in use; the records of the monitor are those of the rate in use (R340). -/
def State.useRate (s : State) (r : Nat) : State :=
  if r = s.link.rate then s else { s with link := { s.link with rate := r, eyeNow := [] } }

/-- The source port's rate is the line rate (R19). Ports that are up at different rates: the one that is not the source goes to T0 at
the source's rate (R328). (DEDUCED, log 85) -/
def State.rateClash (s : State) : State :=
  match s.source? with
  | none => s
  | some p =>
    let s := if s.linkUp p then s.useRate (s.pRateOf p) else s
    if s.linkUp .up && s.linkUp .dn && s.pRateOf .up != s.pRateOf .dn then s.toT0 p.other (s.pRateOf p) true else s

/-- A port reaches link-up: it finishes the frame it originates on the other lane, then waits for a TMK (R322); the
training spreads to the other port (R328). -/
def State.portUp (s : State) (p : Port) : State :=
  let x := s.port p
  let s := s.setPort p { x with full := false, own := true, wait := true, lost := false, tmkAt := none, cvRun := 0, noTmk := 0, tmk := false }
  let s := (s.set (pstat p LINK.UPSTAT.STATE) pUp).set (pstat p LINK.UPSTAT.TRIES) 0
  let s := s.evt (match p with | .up => LINK.EVT.UPUP | .dn => LINK.EVT.DNUP)
  let alone := !s.linkUp p.other || s.source? == some p
  let s := if alone then s.useRate (s.pRateOf p) else s
  (s.rateClash.trainBeside p.other).linkStatus.planEval

/-- A port leaves link-up (R332). The other port, when it only offered a training, listens again (R328). -/
def State.portDown (s : State) (p : Port) : State :=
  let s := (s.evt (match p with | .up => LINK.EVT.UPDOWN | .dn => LINK.EVT.DNDOWN)).inc LINK.DOWNCNT
  (s.toT0 p (s.pRateOf p) true).besideEnd p

/-! ### What a port sends (R317, R328) -/

/-- F at a rate: the device's DN port is the upper side of its hop (R314). -/
def State.flagByte (s : State) (p : Port) (rate : Nat) : Byte :=
  BitVec.ofNat 8 (rate + (if p = .dn then 4 else 0) + (if (s.port p).full then 8 else 0) + (if s.pState p = pRate then 16 else 0))

/-- D0 to D8 of TS2, then the CRC-16; D1 is the width the training has just swept at this rate (R328). -/
def State.ts2Bytes (s : State) (p : Port) : List Byte :=
  let r := s.pRateOf p
  let d := s.flagByte p r :: leBytes 1 ((((s.port p).swept).or (s.eyeAt r p.no)).getD 0) ++
    (List.range 3).flatMap (fun k => leBytes 1 (eyeByte (look s.link.eyeFull (4 * k + p.no)))) ++ leBytes 4 (s.get2 (match p with | .up => LINK.UPHOP0 | .dn => LINK.DNHOP0))
  d ++ leBytes 2 (crc16 d).toNat

/-- What a port sends; one that listens offers TS1 at its other port's rate while that is up (R328). -/
def State.sends (s : State) (p : Port) : Sends :=
  let ph := s.phaseOf p
  if ph = pUp then (if s.pState p = pRate then .nothing else .frames)
  else if ph = pT0 then .ts1 (s.flagByte p (s.pRateOf p))
  else if ph = pT1 then .tpat
  else if ph = pT2 then .rounds
  else if ph = pT3 then .ts2 (s.ts2Bytes p)
  else if ph = pListen ∧ s.linkUp p.other = true then .ts1 (s.flagByte p (s.pRateOf p.other))
  else .nothing

/-- The enable bits come into effect at master clock 0 (R344). After a start a port begins only when the wake
tone has ended (R328). -/
def State.portsAdopt (s : State) : State :=
  forEach [Port.up, Port.dn] (fun (p : Port) (s : State) =>
    if s.portOn p then (if s.pState p = pOff && !s.pw.toneOut then (s.toListen p).trainBeside p else s)
    else if s.pState p = pOff then s else s.toOff p) s

/-! ### Training (R328 to R331) -/

/-- TS1 on a port: a listening port replies and enters T0 at its rate; in T0 it counts at the port's rate, and FULL from
either side counts (R328, R330). -/
def State.ts1 (s : State) (p : Port) (f : Byte) (ok : Bool) : State :=
  let r := f.toNat % 4
  if ok = false ∨ r = 3 ∨ s.pState p = pOff then s
  else
    let s := s.setB (pstat p LINK.UPSTAT.LOS) false
    let s := if s.pState p = pListen then s.toT0 p r false else s
    if s.phaseOf p ≠ pT0 ∨ s.pRateOf p ≠ r then s
    else s.setPort p { s.port p with full := (s.port p).full || (f.getLsbD 3 && s.pState p != pRate), peer := some f }

/-- T0 ends: T1 begins, with the first of three rates in a full training; a rate tread has no T1 (R328, R330, R339). -/
def State.detected (s : State) (p : Port) : State :=
  let x := s.port p
  if s.phaseOf p ≠ pT0 then s
  else if s.pState p = pRate then s.toT2 p
  else
    let s := (s.setPort p { x with base := s.pRateOf p, sweep := 0 }).toPhase p pT1
    if x.full then s.set (pstat p LINK.UPSTAT.RATE) 0 else s

/-- The sweep of T1 at one rate is complete; a full training goes on at the next rate, and T2 runs at the rate of the TS1
(R329, R330). -/
def State.eyeSweep (s : State) (p : Port) (pos : List Bool) : State :=
  if s.pState p ≠ pT1 then s
  else
    let w := eyeWidth pos
    let x := s.port p
    let r := s.pRateOf p
    let s := if s.linkUp p.other then s else s.useRate x.base
    let x := if r = x.base then { x with swept := some w } else x
    let s := s.setPort p x
    if x.full then
      let s := ({ s with link := { s.link with eyeFull := put s.link.eyeFull (4 * r + p.no) (some w) } }).eyeNew p.no r w
      if 2 ≤ x.sweep then (s.set (pstat p LINK.UPSTAT.RATE) x.base).toT2 p
      else (s.setPort p { x with sweep := x.sweep + 1 }).set (pstat p LINK.UPSTAT.RATE) (x.sweep + 1)
    else (s.eyeNew p.no r w).toT2 p

/-- A probe is answered with an echo, and the next probe of the own goes out (R328, R331). -/
def State.prb (s : State) (p : Port) (id res : Nat) : State :=
  if s.phaseOf p ≠ pT2 then s
  else
    let x := s.port p
    s.setPort p (LinkPort.probe { x with probes := min (x.probes + 1) 128, ech := some (id, res) })

/-- The echo of a probe sent and not yet echoed gives one value of 2 d_i (R331). (DESIGN CHOICE, log 84) -/
def State.echo (s : State) (p : Port) (id res rt : Nat) : State :=
  let x := s.port p
  if s.phaseOf p ≠ pT2 ∨ 128 ≤ x.echoes ∨ x.prbOpen.contains id = false then s
  else s.setPort p { x with echoes := x.echoes + 1, dSum := x.dSum + ((rt : Int) - 81920 - (res : Int)), prbOpen := x.prbOpen.erase id }

/-- The words of the hop delay of a port. -/
def hopFld (p : Port) : Fld := match p with | .up => LINK.UPHOP0 | .dn => LINK.DNHOP0

/-- d of a hop, in UI/128. -/
def State.hopD (s : State) (p : Port) : Nat := s.get2 (hopFld p)

/-- 128 probes are sent and answered in each direction: d is their mean (R331). -/
def State.hopDone (s : State) (p : Port) : State :=
  let x := s.port p
  if s.phaseOf p ≠ pT2 ∨ x.echoes < 128 ∨ x.probes < 128 then s
  else (s.set2 (hopFld p) (twos 32 (roundRat ((x.dSum : Rat) / 256)))).toPhase p pT3

/-- The other side's eye records for our TX lane (R328). -/
def State.reportEyes (s : State) (p : Port) (eyes : List Byte) : State :=
  forEach eyes.zipIdx (fun (e : Byte × Nat) (s : State) =>
    if e.1.getLsbD 6 ∧ e.2 < 3 then { s with link := { s.link with eyeFull := put s.link.eyeFull (4 * e.2 + 2 + p.no) (some (e.1.toNat % 64)) } } else s) s

/-- T3: both d are compared; more than 8 units apart repeats T2 three times, then T0 (R331). A rate tread is then
complete and brings no eye widths; another training takes the port to link-up (R328, R329, R339). -/
def State.reportDone (s : State) (p : Port) (f eye : Byte) (eyes : List Byte) (d : Nat) : State :=
  if s.phaseOf p ≠ pT3 then s
  else
    let s := s.setPort p { s.port p with peer := some f }
    let x := s.port p
    if 8 < ((s.hopD p : Int) - (d : Int)).natAbs then
      let s := s.evt LINK.EVT.HOPMIS
      if x.repeats < 3 then (s.setPort p { x with repeats := x.repeats + 1 }).toT2 p
      else if s.pState p = pRate then (s.setPort p { x with repeats := 0, peer := none }).toPhase p pT0
      else s.toT0 p (s.pRateOf p) false
    else if s.pState p = pRate then (s.reportEyes p eyes).toPhase p pUp
    else ((s.reportEyes p eyes).portUp p).eyeNew (2 + p.no) (s.pRateOf p) (eye.toNat % 64)

/-! ### Link-down, retraining (R332) -/

/-- A port sends TS1 in reply only while it detects TS1, or beside a port that is up; else it listens again (R328). -/
def State.replyEnd (s : State) (p : Port) : State :=
  if s.pState p = pT0 ∧ (s.port p).fromUp = false ∧ s.linkUp p.other = false then s.toListen p else s

/-- The condition behind a link-down event. -/
def State.downDue (s : State) (p : Port) (why : DownCause) : Bool :=
  match why with
  | .los => true
  | .signal => false
  | .violations => decide (4 ≤ (s.port p).cvRun)
  | .noMarks => decide (16 ≤ (s.port p).noTmk)

/-- The loss-of-signal detector of a port that is not off follows its edges (R316); a port in link-up goes down for its
cause (R332). -/
def State.goDown (s : State) (p : Port) (why : DownCause) : State :=
  if s.pState p = pOff then s
  else
    let s := match why with
      | .los => (s.setB (pstat p LINK.UPSTAT.LOS) true).replyEnd p
      | .signal => s.setB (pstat p LINK.UPSTAT.LOS) false
      | _ => s
    if s.linkUp p && s.downDue p why then s.portDown p else s

/-- CTRL.RETRAINUP or RETRAINDN, with or without FULL (R330, R332). -/
def State.retrain (s : State) (p : Port) (full : Bool) : State :=
  if s.linkUp p = false then s
  else
    let s := s.setPort p { s.port p with full := (s.port p).full || full }
    s.portDown p

/-! ### CRC window (R341) -/

/-- Fault 34 and CRCLIVE by the counts of the last window and the limit in use. -/
def State.crcEval (s : State) : State :=
  let lim := s.used { LINK.CRCLIM with w := 10 }
  let b := decide (lim < s.get LINK.CRCUP ∨ lim < s.get LINK.CRCDN)
  (s.cond 34 b).setB LINK.STATUS.CRCLIVE b

/-- Windows end at LTC multiples of 1,000; the first one after a start is not complete. (DEDUCED, log 89) -/
def State.crcWindow (s : State) : State :=
  if s.tm.ltc % 1000 ≠ 0 then s
  else
    let u := s.link.up.errs
    let d := s.link.dn.errs
    let s1 := if s.link.window then (s.set LINK.CRCUP u).set LINK.CRCDN d else s
    let lim := s1.used { LINK.CRCLIM with w := 10 }
    let s2 := if s.link.window && decide (lim < u ∨ lim < d) then s1.evt LINK.EVT.CRCLIM else s1
    let s3 := s2.crcEval
    { s3 with link := { s3.link with window := true, up := { s3.link.up with errs := 0 }, dn := { s3.link.dn with errs := 0 } } }

/-! ### Rate change (R338, R339, R376) -/

/-- Tread `t` has come: what a jump of the STN passes over takes effect with the jump (R45). -/
def State.reached (s : State) (t : Nat) : Bool := s.tm.stn == t

/-- An armed change. -/
def State.rsArmed (s : State) : Bool := s.bit XACT.STATUS.RSARMED

/-- Disarm (R376). -/
def State.rsDisarm (s : State) : State :=
  (s.set { XACT.RSARM with lo := 3, w := 1 } 0).setB XACT.STATUS.RSARMED false

/-- A valid mark's announcement, or its cancelling of one (R338, R376). -/
def State.announce (s : State) (m : Mark) : State :=
  let s := { s with link := { s.link with rcd := m.rcd.toNat } }
  let n := m.rcd.toNat
  if 1 ≤ n ∧ n ≤ 16 ∧ m.rtgt ≠ 3 then
    let a : Announce := { t := (m.stn.toNat + n) % 4294967296, rate := m.rtgt.toNat, bank := m.tbank }
    let s := ({ s with link := { s.link with ann := some a } }).setB LINK.STATUS.RCHG true
    let same := s.get2 XACT.RSTN0 == a.t && s.get { XACT.RSARM with w := 3 } == a.rate + (if a.bank then 4 else 0)
    if s.rsArmed && !same then s.evt XACT.EVT.RSMIS else s
  else ({ s with link := { s.link with ann := none } }).setB LINK.STATUS.RCHG false

/-- An announced change takes place: every enabled port runs a rate tread at RTGT, TBANK becomes active (R339). A change armed
for another tread stays armed until its own (R376). -/
def State.rateGo (s : State) (a : Announce) : State :=
  let old := s.link.rate
  let s := ({ s with link := { s.link with ann := none, rateAt := some s.tm.tread } }).useRate a.rate
  let s := forEach [Port.up, Port.dn] (fun (p : Port) (s : State) =>
    if s.portOn p then
      let s := s.toT0 p a.rate true
      ((s.setPort p { s.port p with rt := pT0, full := false }).set (pstat p LINK.UPSTAT.STATE) pRate).linkStatus
    else s) s
  let s := (s.setB LINK.STATUS.RCHG false).evt LINK.EVT.RATECHG
  let s := if s.get2 XACT.RSTN0 = a.t then s.rsDisarm else s
  let s := if old < a.rate then s.occur 35 else s
  (s.setBank (if a.bank then 1 else 0) true).planEval.eyeEval

/-- The announced change takes place in its tread (R339). -/
def State.rateChange (s : State) : State :=
  match s.link.ann with
  | none => s
  | some a => if s.reached a.t then s.rateGo a else s

/-- A complete rate tread: the port resumes frames at the new rate (R339). `f` is the F of the other side's last TS2; F[4] says
that it runs the rate tread too. (DEDUCED, log 87) -/
def State.rateDone (s : State) (p : Port) (f : Byte) : State :=
  if s.pState p = pRate ∧ (s.port p).rt = pUp ∧ f.getLsbD 4 = true then s.portUp p else s

/-- A port not done by master clock 0 of tread T + 8 (R339). -/
def State.rateLate (s : State) (p : Port) : State :=
  match s.link.rateAt with
  | some t => if s.pState p = pRate && decide (t + 8 ≤ s.tm.tread) then s.portDown p else s
  | none => s

/-- No announcement by master clock 0 of T − 1 (R376). -/
def State.rsMissing (s : State) : State :=
  let t := s.get2 XACT.RSTN0
  if s.rsArmed && decide ((s.tm.stn + 1) % 4294967296 = t) && s.link.ann.isNone then s.evt XACT.EVT.RSMIS else s

/-! ### Rows -/

/-- LISTEN_RATE_CYCLE (R328). -/
def execListenRateCycle (p : Port) (s : State) : Host.Outcome State Fault Refusal :=
  whenActive [] s fun s => if s.pState p = pListen then s.set (pstat p LINK.UPSTAT.RATE) ((s.pRateOf p + 1) % 3) else s

/-- TS1_RX (R317, R328, R330). -/
def execTs1Rx (p : Port) (f : Byte) (ok : Bool) (s : State) : Host.Outcome State Fault Refusal := whenActive [.link] s fun s => s.ts1 p f ok

/-- TRAINING_DETECT_DONE (R328). -/
def execTrainingDetectDone (p : Port) (s : State) : Host.Outcome State Fault Refusal :=
  whenActive [.link] s fun s => s.detected p

/-- TRAINING_DETECT_TIMEOUT (R328, R332): the bound of a T0 that a link-down or a rate clash began; a T0 in reply to TS1 that have
stopped ends too. -/
def execTrainingDetectTimeout (p : Port) (s : State) : Host.Outcome State Fault Refusal :=
  whenActive [] s fun s => if s.pState p = pT0 ∧ (s.port p).fromUp = true then s.toListen p else s.replyEnd p

/-- EYE_SWEEP_DONE (R329, R330): 64 positions. -/
def execEyeSweepDone (p : Port) (pos : List Bool) (s : State) : Host.Outcome State Fault Refusal :=
  if pos.length = 64 then whenActive [.link] s fun s => s.eyeSweep p pos else .fault (.malformed "EYE_SWEEP_DONE: 64 positions")

/-- PRB_RX (R331). -/
def execPrbRx (p : Port) (id : Byte) (res : Fin 1280) (s : State) : Host.Outcome State Fault Refusal := whenActive [.link] s fun s => s.prb p id.toNat res.val

/-- ECH_RX (R331); `rt` is RT in UI/128. -/
def execEchRx (p : Port) (id : Byte) (res : Fin 1280) (rt : Nat) (s : State) : Host.Outcome State Fault Refusal :=
  whenActive [.link] s fun s => s.echo p id.toNat res.val rt

/-- HOP_DELAY_DONE (R331). -/
def execHopDelayDone (p : Port) (s : State) : Host.Outcome State Fault Refusal := whenActive [.link] s fun s => s.hopDone p

/-- TRAINING_REPORT_DONE (R328, R331): D0, D1, D2–D4 and D5–D8 of the TS2 received. -/
def execTrainingReportDone (p : Port) (f eye : Byte) (eyes : List Byte) (d : BitVec 32) (s : State) : Host.Outcome State Fault Refusal :=
  if eyes.length = 3 then whenActive [.xact, .link] s fun s => s.reportDone p f eye eyes d.toNat else .fault (.malformed "TRAINING_REPORT_DONE: 3 eye bytes")

/-- LINK_DOWN (R316, R332). -/
def execLinkDown (p : Port) (why : DownCause) (s : State) : Host.Outcome State Fault Refusal := whenActive [.link] s fun s => s.goDown p why

/-- RETRAIN (R332). -/
def execRetrain (p : Port) (s : State) : Host.Outcome State Fault Refusal := whenActive [.link] s fun s => s.retrain p false

/-- FULL_TRAINING (R330). -/
def execFullTraining (p : Port) (s : State) : Host.Outcome State Fault Refusal := whenActive [.link] s fun s => s.retrain p true

/-- EYE_MONITOR (R329): 64 positions. -/
def execEyeMonitor (p : Port) (pos : List Bool) (s : State) : Host.Outcome State Fault Refusal :=
  if pos.length = 64 then whenActive [.link] s fun s => (if s.linkUp p then s.eyeSet p.no (eyeWidth pos) else s) else .fault (.malformed "EYE_MONITOR: 64 positions")

/-- CRC_WINDOW_END (R341). -/
def execCrcWindowEnd (s : State) : Host.Outcome State Fault Refusal := whenActive [.link] s fun s => s.crcWindow

/-- RATE_CHANGE (R339). -/
def execRateChange (s : State) : Host.Outcome State Fault Refusal := whenActive [.xact, .link] s fun s => s.rateChange

/-- RATE_TREAD_DONE (R339). -/
def execRateTreadDone (p : Port) (f : Byte) (s : State) : Host.Outcome State Fault Refusal := whenActive [.xact, .link] s fun s => s.rateDone p f

/-- RATE_TREAD_TIMEOUT (R339). -/
def execRateTreadTimeout (p : Port) (s : State) : Host.Outcome State Fault Refusal := whenActive [.link] s fun s => s.rateLate p

/-- RATE_SET_MISSING (R376). -/
def execRateSetMissing (s : State) : Host.Outcome State Fault Refusal := whenActive [] s fun s => s.rsMissing

end Sys2Proof.Machine
end

