-- ==== Sys2Proof/Machine/Gallery.lean ====
section
/-! DEFINITION. Gallery.lean: histograms, extremes and throughput, their folds, the cursor window and the export
(16, R380 to R399). -/
namespace Sys2Proof.Machine

/-- Store the gallery's block. -/
def State.setGal (s : State) (g : Gal) : State := { s with gal := g }

/-! ### Edges (R386 to R388) -/

/-- Default edges: k = 0 voltage, 1 cell and die temperature, 2 current. -/
def defEdges : Nat → List Int
  | 0 => (List.range 64).map (fun (k : Nat) => 875 * (k : Int))
  | 1 => (List.range 32).map (fun (k : Nat) => -640 + 80 * (k : Int))
  | _ => (List.range 64).map (fun (k : Nat) => -16000 + 500 * (k : Int))

/-- The edge list of histogram `k` in use. -/
def State.edgesOf (s : State) (k : Nat) : List Int := (look s.gal.edges k).getD (defEdges k)

/-- A list rises strictly. -/
def rising : List Int → Bool
  | a :: b :: l => decide (a < b) && rising (b :: l)
  | _ => true

/-- The edge list a valid table gives (R386): none where it is not adopted. -/
def State.tableEdges (s : State) (k : Nat) : Option (List Int) :=
  let p := s.points (3 + k)
  let sg := fun (v : Nat) => if k = 0 then (v : Int) else signed 16 v
  let l := p.flatMap (fun q => [sg q.1, sg q.2])
  if p.length = (if k = 1 then 16 else 32) ∧ rising l = true then some l else none

/-- The CRC-32 over an edge list, low word first (R388). -/
def edgeCrc (l : List Int) : Nat := (crc32 (l.flatMap (fun v => leInt 2 v))).toNat

/-- The bin of `u` (R386): the edges from v_1 on that lie at or below it. -/
def binOf (edges : List Int) (u : Int) : Nat := ((edges.drop 1).filter (fun e => decide (e ≤ u))).length

/-- FACTORY 0, COMMISSION 1, SERVICE 2, RETIRED 3 (R451). -/
def State.life (s : State) : Nat := s.vault.life % 4

/-- The objects as they are read: without a recorded current its objects are 0 and EMPTY (R380). -/
def State.galImg (s : State) : GalObj :=
  let g := s.gal.img
  if s.irec then g else { g with hi := [], chg := 0, dis := 0, clip := false, ext := put (put g.ext 108 default) 109 default }

/-- STATUS and SEGMENT words (R388, R397, R399); the EDGECRC words are formed where they are read. -/
def State.galStatus (s : State) : State :=
  let d := fun (k : Nat) => (look s.gal.edges k).isNone
  let mis := decide (2 ≤ s.life) && (List.range 3).any (fun k => !(s.points (3 + k)).isEmpty && s.tableEdges k != some (s.edgesOf k))
  let irec := s.irec
  let s := ((s.setB GAL.STATUS.DEFV (d 0)).setB GAL.STATUS.DEFT (d 1)).setB GAL.STATUS.DEFI (d 2)
  let s := ((s.setB GAL.STATUS.EDGEMIS mis).setB GAL.STATUS.SEALED (s.life == 3)).setB GAL.STATUS.IREC irec
  (s.set GAL.SEGMENT (s.vault.segment % 4 + (if s.life = 3 then 4 else 0))).setB GAL.STATUS.XBUSY s.gal.xport.isSome

/-- Objects changed behind a frozen image (R394). -/
def State.galNewer (s : State) : State := if s.gal.frozen.isSome then s.setB GAL.STATUS.NEWER true else s

/-- The edges that histogram `k` will have once every change is adopted; none the default. -/
def State.edgeAim (s : State) (k : Nat) : Option (List Int) :=
  match (look s.gal.edgePend k).getLast? with
  | some e => e.2
  | none => look s.gal.edges k

/-- An edge table was loaded, replaced, or has returned to its default (R388): a change in COMMISSION that brings edges of its
own, or takes such edges away, is adopted in the next tread. -/
def State.edgeChange (s : State) (t : Nat) : State :=
  if 3 ≤ t ∧ t ≤ 5 then
    let k := t - 3
    let aim := s.tableEdges k
    (if s.life = 1 ∧ (aim.isSome || (s.edgeAim k).isSome) = true then
      s.setGal { s.gal with edgePend := put s.gal.edgePend k (look s.gal.edgePend k ++ [(s.tm.tread, aim)]) }
    else s).galStatus
  else s

/-- Clear one histogram with its remainders. -/
def Gal.clearHist (g : Gal) (k : Nat) : Gal :=
  match k with
  | 0 => { g with rv := [], img := { g.img with hv := [] } }
  | 1 => { g with rt := [], img := { g.img with ht := [] } }
  | _ => { g with ri := [], img := { g.img with hi := [] } }

/-- A change made in an earlier tread. -/
def State.edgeIsDue (s : State) (e : Nat × Option (List Int)) : Bool := decide (e.1 < s.tm.tread)

/-- Adopt the changes of histogram `k` that are due: the newest one's edges, and a cleared histogram. -/
def State.edgeTake (s : State) (k : Nat) : State :=
  let l := look s.gal.edgePend k
  match (l.filter s.edgeIsDue).getLast? with
  | some e => s.setGal { s.gal.clearHist k with edges := put s.gal.edges k e.2, edgePend := put s.gal.edgePend k (l.filter (fun e => !s.edgeIsDue e)) }
  | none => s

/-- Edges adopted at riser 3 in COMMISSION, each clearing its histogram (R386, R388). (DEDUCED, log 103) -/
def State.edgeAdopt (s : State) : State :=
  if (List.range 3).all (fun k => !(look s.gal.edgePend k).any s.edgeIsDue) then s
  else if s.life ≠ 1 then (s.setGal { s.gal with edgePend := [] }).galStatus
  else ((forEach (List.range 3) (fun (k : Nat) (s : State) => s.edgeTake k) s).evt GAL.EVT.EDGEADOPT).galNewer.galStatus

/-! ### Accumulation (R381 to R385) -/

/-- A plant-time stamp of the image: seconds, milliseconds, and whether it is valid (R385). -/
def State.extStamp (s : State) (v : Int) (generic : Bool) : Extreme :=
  { has := true, v := v, generic := generic, ptinv := s.cells.snapPtMs == 65535, ltc := s.cells.snapLtc, ptSec := s.cells.snapPtSec, ptMs := s.cells.snapPtMs }

/-- Replace extreme `i` by a strictly larger (`up`) or smaller value (R385). -/
def State.extreme (s : State) (i : Nat) (up : Bool) (v : Int) (generic : Bool) : State :=
  let e := look s.gal.img.ext i
  if e.has && (if up then decide (v ≤ e.v) else decide (e.v ≤ v)) then s
  else (s.setGal { s.gal with img := { s.gal.img with ext := put s.gal.img.ext i (s.extStamp v generic) } }).evt GAL.EVT.EXTREME

/-- Update a quantity of the hourly record (R410). -/
def State.hourly (s : State) (i : Nat) (up : Bool) (v : Int) : State :=
  let h := match look s.gal.hour i with
    | none => v
    | some o => if up then max o v else min o v
  s.setGal { s.gal with hour := put s.gal.hour i (some h) }

/-- The voltage of one cell (R382, R386). (DEDUCED, log 102) -/
def State.galVolt (s : State) (c : Nat) : State :=
  let r := look s.cells.snap c
  let s := if r.nbr || r.stale || (r.unc == 15 && !r.ovr) then s.setGal { s.gal with rUnV := s.gal.rUnV + 1 }
    else s.setGal { s.gal with rv := adj s.gal.rv (c * 64 + binOf (s.edgesOf 0) ((r.v + 300000) / 100)) (· + 1) }
  if r.nbr || r.stale || r.ovr || r.bal || r.pls || r.unc == 15 then s
  else (((s.extreme (3 * c) true r.v false).extreme (3 * c + 1) false r.v false).hourly (3 * c) true r.v).hourly (3 * c + 1) false r.v

/-- The temperature of one cell (R383). -/
def State.galTemp (s : State) (c : Nat) : State :=
  let t := look s.imp.img.temps c
  if t.has && !t.old then
    let s := s.setGal { s.gal with rt := adj s.gal.rt (c * 32 + binOf (s.edgesOf 1) t.v) (· + 1) }
    ((s.extreme (3 * c + 2) true t.v ((look s.imp.tofs c).isNone)).hourly (3 * c + 2) true t.v)
  else s.setGal { s.gal with rUnT := s.gal.rUnT + 1 }

/-- The current, where it is recorded (R380, R384). -/
def State.galCurr (s : State) : State :=
  let sh := s.get2 CURR.RSHUNT0
  if s.irec = false then s
  else
    let r := look s.cells.snap 36
    let i := (r.v * 200) / (sh : Int)
    let q : Rat := ((r.v * 20000 : Int) : Rat) / (sh : Rat)
    let g := s.gal
    let g := { g with ri := adj g.ri (binOf (s.edgesOf 2) i) (· + 1),
                      rChg := if 0 < q then g.rChg + q else g.rChg,
                      rDis := if q < 0 then g.rDis - q else g.rDis,
                      img := { g.img with clip := g.img.clip || r.ovr } }
    let s := s.setGal g
    if r.ovr || r.stale || r.pls || r.nbr || r.bal || r.unc == 15 then s
    else (((s.extreme 108 true i false).extreme 109 false i false).hourly 108 true i).hourly 109 false i

/-- The die temperature of the image (R384). -/
def State.galDie (s : State) : State :=
  let d := s.cells.dieTemp
  ((s.setGal { s.gal with rd := adj s.gal.rd (binOf (defEdges 1) d) (· + 1) }).hourly 110 true d).hourly 111 false d

/-- Every object of the segment at zero, remainders included; EPOCHNO and the epoch go on (R398). -/
def Gal.cleared (g : Gal) : Gal :=
  { g with img := { (default : GalObj) with epochNo := g.img.epochNo, foldLtc := g.img.foldLtc },
           rv := [], rt := [], ri := [], rd := [], rUnV := 0, rUnT := 0, rChg := 0, rDis := 0 }

/-- A CLEAR accepted in an earlier tread takes place before the accumulation (R398). -/
def State.galClearNow (s : State) : State :=
  if s.gal.clearAt.any (fun t => decide (t < s.tm.tread)) then
    ({ s.setGal { s.gal.cleared with clearAt := s.gal.clearAt.filter (fun t => decide (s.tm.tread ≤ t)) } with
        fl := { s.fl with clearNext := true } }).evt GAL.EVT.CLEARED |>.galNewer
  else s

/-- One tread of dwell time in every histogram, with the extremes and the throughput (R381). -/
def State.galCount (s : State) : State :=
  let s := forEach (List.range s.count) (fun (c : Nat) (s : State) => (s.galVolt c).galTemp c) s
  s.galCurr.galDie.galNewer.galStatus

/-- Riser 3 of a tread (R381): a due CLEAR, and the tread's count unless a SLEEP entry has stopped it. -/
def State.accumulate (s : State) : State :=
  if s.tm.tread = 0 ∨ s.life = 3 then s
  else
    let s := s.galClearNow
    if s.gal.stopped then s else s.galCount

/-! ### Folds (R389, R390) -/

/-- Add whole seconds of a table of treads to a table of seconds, saturating. -/
def foldSecs (secs treads : SMap Nat) : SMap Nat :=
  treads.foldl (fun (m : SMap Nat) e => adj m e.1 (fun v => min (v + e.2 / 1000) 4294967295)) secs

/-- The remainders that a fold keeps. -/
def foldRem (treads : SMap Nat) : SMap Nat :=
  treads.foldl (fun (m : SMap Nat) e => put m e.1 (e.2 % 1000)) []

/-- Whole units of 0.01 Ah. -/
def ahUnits (q : Rat) : Nat := (q / 36000000).floor.toNat

/-- A fold; `epoch` where EPOCHNO advances. (DESIGN CHOICE, log 104) -/
def Gal.fold (g : Gal) (ltc : Nat) (epoch : Bool) : Gal :=
  let i := g.img
  let sat := fun (n : Nat) => min n 4294967295
  { g with
    img := { i with hv := foldSecs i.hv g.rv, ht := foldSecs i.ht g.rt, hi := foldSecs i.hi g.ri, hd := foldSecs i.hd g.rd,
                    chg := sat (i.chg + ahUnits g.rChg), dis := sat (i.dis + ahUnits g.rDis),
                    unV := sat (i.unV + g.rUnV / 1000), unT := sat (i.unT + g.rUnT / 1000),
                    epochNo := (if epoch then (i.epochNo + 1) % 4294967296 else i.epochNo), foldLtc := ltc },
    rv := foldRem g.rv, rt := foldRem g.rt, ri := foldRem g.ri, rd := foldRem g.rd,
    rUnV := g.rUnV % 1000, rUnT := g.rUnT % 1000,
    rChg := g.rChg - ((ahUnits g.rChg * 36000000 : Nat) : Rat), rDis := g.rDis - ((ahUnits g.rDis * 36000000 : Nat) : Rat) }

/-- The remainders dropped after a flush (R390). -/
def Gal.dropRem (g : Gal) : Gal := { g with rv := [], rt := [], ri := [], rd := [], rUnV := 0, rUnT := 0, rChg := 0, rDis := 0 }

/-- Minutes of the current epoch: the written length until a change, which waits for the epoch's end. -/
def State.epochMin (s : State) : Nat := s.gal.epochUse.getD (s.get GAL.EPOCH)

/-- GAL.EPOCH is about to change from the length in use. -/
def State.epochHold (s : State) : State :=
  if s.tm.tread = 0 then s else s.setGal { s.gal with epochUse := some s.epochMin }

/-- Master clock 0 of this tread ended an epoch (R389). -/
def State.epochEnd (s : State) : Bool := decide (1 ≤ s.tm.tread) && decide (s.tm.ltc % (s.epochMin * 60000) = 0)

/-! ### Window (R392 to R394) -/

/-- What the window shows. -/
def State.galShown (s : State) : GalObj := s.gal.frozen.getD s.galImg

/-- The flags of the device block (R395). -/
def State.xferFlags (s : State) : Nat :=
  s.vault.segment % 4 + (if s.life = 3 then 4 else 0) + (if s.bit GAL.STATUS.NOHIST then 8 else 0) +
    (if s.galImg.clip then 16 else 0) + (if s.irec then 32 else 0)

/-- The device flags of the objects that the window shows. -/
def State.flagsShown (s : State) : Nat := if s.gal.frozen.isSome then s.gal.frozenFlags else s.xferFlags

/-- The words of an extreme record (R392). -/
def Extreme.words (e : Extreme) : List Nat :=
  if e.has then
    [twos 24 e.v % 65536, twos 24 e.v / 65536 + (if e.generic then 512 else 0) + (if e.ptinv then 1024 else 0), e.ltc % 65536, e.ltc / 65536 % 65536,
     e.ltc / 4294967296 % 65536, e.ptSec % 65536, e.ptSec / 65536 % 65536, e.ptMs]
  else [0, 256, 0, 0, 0, 0, 0, 0]

/-- Four consecutive bins as eight words. -/
def fourBins (m : SMap Nat) (base : Nat) : List Nat :=
  (List.range 4).flatMap (fun i => [look m (base + i) % 65536, look m (base + i) / 65536 % 65536])

/-- Bins or records of a class. -/
def classBins : Nat → Nat
  | 0 => 64
  | 1 => 32
  | 2 => 3
  | 3 => 64
  | 4 => 32
  | 5 => 4
  | _ => 0

/-- DATA0 to DATA7. -/
def State.galData (s : State) : List Nat :=
  let g := s.galShown
  let cls := s.get { GAL.CURSOR with w := 3 }
  let c := s.get { GAL.INDEX with w := 6 } - 1
  let b := s.get { GAL.BIN with w := 6 }
  let lo := b / 4 * 4
  if classBins cls ≤ b ∨ (cls ≤ 2 ∧ (s.get { GAL.INDEX with w := 6 } = 0 ∨ 36 < s.get { GAL.INDEX with w := 6 })) then (List.range 8).map (fun i => Config.windowFree (8 * s.free + i))
  else match cls with
    | 0 => fourBins g.hv (c * 64 + lo)
    | 1 => fourBins g.ht (c * 32 + lo)
    | 2 => (look g.ext (3 * c + b)).words
    | 3 => fourBins g.hi lo
    | 4 => fourBins g.hd lo
    | _ =>
      let w := fun (n : Nat) => [n % 65536, n / 65536 % 65536]
      match b with
      | 0 => w g.chg ++ w g.dis ++ w g.unV ++ w g.unT
      | 1 => (look g.ext 108).words
      | 2 => (look g.ext 109).words
      | _ => w g.epochNo ++ w g.foldLtc ++ [g.foldLtc / 4294967296 % 65536,
          (if g.clip then 1 else 0) + s.flagsShown / 32 % 2 * 2 + s.flagsShown / 8 % 2 * 4, 0, 0]

/-- A READ that covers DATA7 advances the cursor (R393). -/
def State.galAdvance (s : State) : State :=
  let cls := s.get { GAL.CURSOR with w := 3 }
  let b := s.get { GAL.BIN with w := 6 }
  let n := if cls = 2 ∨ cls = 5 then b + 1 else b + 4
  if n < classBins cls then s.set { GAL.BIN with w := 6 } n
  else
    let s := s.set { GAL.BIN with w := 6 } 0
    if cls ≤ 2 then
      let i := s.get { GAL.INDEX with w := 6 }
      s.set { GAL.INDEX with w := 6 } (if i < s.count then i + 1 else 1)
    else s

/-- CURSOR.FREEZE (R394). -/
def State.galFreeze (s : State) (on : Bool) : State :=
  let f := { GAL.CURSOR with lo := 15, w := 1 }
  if on then
    if s.bit f then s else ((s.setGal { s.gal with frozen := some s.galImg, frozenFlags := s.xferFlags }).setB f true).setB GAL.STATUS.FROZEN true
  else (((s.setGal { s.gal with frozen := none }).setB f false).setB GAL.STATUS.FROZEN false).setB GAL.STATUS.NEWER false

/-! ### Export (R395, R396) -/

/-- An export falls due: taken now, or skipped while one is in progress. -/
def State.xfer (s : State) : State :=
  if s.gal.xport.isSome then (s.inc GAL.XSKIPCNT).evt GAL.EVT.XSKIP
  else (s.setGal { s.gal with xport := some { img := s.galImg, stn := s.tm.stn, ltc := s.tm.ltc, flags := s.xferFlags, next := 0 } }).setB GAL.STATUS.XBUSY true

/-- The 16 bytes of an extreme (R395). -/
def Extreme.bytes (e : Extreme) : List Byte :=
  if e.has then
    leInt 3 e.v ++ leBytes 1 ((if e.generic then 2 else 0) + (if e.ptinv then 4 else 0)) ++ leBytes 6 e.ltc ++ leBytes 4 e.ptSec ++ leBytes 2 e.ptMs
  else leBytes 3 0 ++ leBytes 1 1 ++ leBytes 12 0

/-- A histogram's bytes. -/
def histBytes (m : SMap Nat) (base n : Nat) : List Byte := (List.range n).flatMap (fun i => leBytes 4 (look m (base + i)))

/-- The content of a cell: histograms and extremes (R395, R408). -/
def GalObj.cellBytes (g : GalObj) (c : Nat) : List Byte :=
  histBytes g.hv (64 * c) 64 ++ histBytes g.ht (32 * c) 32 ++ (List.range 3).flatMap (fun k => (look g.ext (3 * c + k)).bytes)

/-- The content of the device (R395, R408). -/
def GalObj.devBytes (g : GalObj) : List Byte :=
  histBytes g.hi 0 64 ++ histBytes g.hd 0 32 ++ leBytes 4 g.chg ++ leBytes 4 g.dis ++ leBytes 4 g.unV ++ leBytes 4 g.unT ++
    (look g.ext 108).bytes ++ (look g.ext 109).bytes

/-- One block of 448 bytes: cells 1 to 36, then the device. -/
def GalExport.block (e : GalExport) : List Byte :=
  leBytes 4 e.stn ++ leBytes 6 e.ltc ++ leBytes 4 e.img.epochNo ++
    (if e.next < 36 then leBytes 1 0 ++ leBytes 1 (e.next + 1) ++ e.img.cellBytes e.next
     else leBytes 1 1 ++ leBytes 1 e.flags ++ e.img.devBytes)

/-- The next block, as Q52 makes room (R395, R396). -/
def State.xferPost (s : State) : State :=
  match s.gal.xport with
  | none => s
  | some e =>
    if s.tm.tread = 0 ∨ s.qEnabled 52 = false ∨ s.qRoom 52 448 = false then s
    else
      let s := s.append 52 e.block true true true
      if 36 ≤ e.next then (s.setGal { s.gal with xport := none }).setB GAL.STATUS.XBUSY false
      else s.setGal { s.gal with xport := some { e with next := e.next + 1 } }

/-! ### Clear (R398) -/

/-- CTRL.CLEAR with its key byte. -/
def State.galClear (s : State) (key : Byte) : State :=
  if key = 0xA5 ∧ s.life = 1 then s.setGal { s.gal with clearAt := s.gal.clearAt ++ [s.tm.tread] } else s.evt GAL.EVT.CLRREJ

/-! ### Rows -/

/-- GALLERY_ACCUMULATE (R381). -/
def execGalleryAccumulate (s : State) : Host.Outcome State Fault Refusal := whenActive [.bal, .gal, .fl] s fun s => s.accumulate

/-- EDGE_ADOPT (R388). -/
def execEdgeAdopt (s : State) : Host.Outcome State Fault Refusal := whenActive [.bal, .gal] s fun s => s.edgeAdopt

/-- GAL_CLEAR (R398). -/
def execGalClear (key : Byte) (s : State) : Host.Outcome State Fault Refusal := whenActive [.gal] s fun s => s.galClear key

/-- GAL_XFER (R395). -/
def execGalXfer (s : State) : Host.Outcome State Fault Refusal := whenActive [.gal] s fun s => s.xfer

/-- EXPORT_BLOCK_POST (R395). -/
def execExportBlockPost (s : State) : Host.Outcome State Fault Refusal := whenActive [.xact, .gal] s fun s => s.xferPost

/-- GAL_CURSOR_ADVANCE (R393). -/
def execGalCursorAdvance (s : State) : Host.Outcome State Fault Refusal := whenActive [] s fun s => s.galAdvance

/-- GAL_FREEZE (R394). -/
def execGalFreeze (on : Bool) (s : State) : Host.Outcome State Fault Refusal := whenActive [.gal] s fun s => s.galFreeze on

end Sys2Proof.Machine
end

