-- ==== Sys2Proof/Machine/Hash.lean ====
section
/-! DEFINITION. Hash.lean: SHA-256, the hash of the journal's chain and of its seals, and the seals' signature, ECDSA over
P-256 with the nonce of RFC 6979 (R405, R409). -/
namespace Sys2Proof.Machine

/-- The 64 round constants of SHA-256. -/
def shaK : List Nat :=
  [0x428A2F98, 0x71374491, 0xB5C0FBCF, 0xE9B5DBA5, 0x3956C25B, 0x59F111F1, 0x923F82A4, 0xAB1C5ED5] ++
  [0xD807AA98, 0x12835B01, 0x243185BE, 0x550C7DC3, 0x72BE5D74, 0x80DEB1FE, 0x9BDC06A7, 0xC19BF174] ++
  [0xE49B69C1, 0xEFBE4786, 0x0FC19DC6, 0x240CA1CC, 0x2DE92C6F, 0x4A7484AA, 0x5CB0A9DC, 0x76F988DA] ++
  [0x983E5152, 0xA831C66D, 0xB00327C8, 0xBF597FC7, 0xC6E00BF3, 0xD5A79147, 0x06CA6351, 0x14292967] ++
  [0x27B70A85, 0x2E1B2138, 0x4D2C6DFC, 0x53380D13, 0x650A7354, 0x766A0ABB, 0x81C2C92E, 0x92722C85] ++
  [0xA2BFE8A1, 0xA81A664B, 0xC24B8B70, 0xC76C51A3, 0xD192E819, 0xD6990624, 0xF40E3585, 0x106AA070] ++
  [0x19A4C116, 0x1E376C08, 0x2748774C, 0x34B0BCB5, 0x391C0CB3, 0x4ED8AA4A, 0x5B9CCA4F, 0x682E6FF3] ++
  [0x748F82EE, 0x78A5636F, 0x84C87814, 0x8CC70208, 0x90BEFFFA, 0xA4506CEB, 0xBEF9A3F7, 0xC67178F2]

/-- The hash value before the first block. -/
def shaStart : List (BitVec 32) :=
  [0x6A09E667, 0xBB67AE85, 0x3C6EF372, 0xA54FF53A, 0x510E527F, 0x9B05688C, 0x1F83D9AB, 0x5BE0CD19]

/-- The message padded to whole blocks of 64 bytes: 0x80, zeros, the length in bits, most significant byte first. -/
def shaPad (m : List Byte) : List Byte :=
  m ++ 0x80#8 :: List.replicate ((119 - m.length % 64) % 64) 0#8 ++
    (List.range 8).map (fun i => BitVec.ofNat 8 (8 * m.length / 256 ^ (7 - i)))

/-- The words of a byte list, most significant byte first. -/
def shaWords : List Byte → List (BitVec 32)
  | a :: b :: c :: d :: l => (a ++ b ++ c ++ d : BitVec 32) :: shaWords l
  | _ => []

/-- Extend the message schedule by `n` words; the list is newest first. -/
def shaExtend : Nat → List (BitVec 32) → List (BitVec 32)
  | 0, w => w
  | n + 1, w =>
    let x := w.getD 14 0
    let y := w.getD 1 0
    let s0 := x.rotateRight 7 ^^^ x.rotateRight 18 ^^^ x >>> 3
    let s1 := y.rotateRight 17 ^^^ y.rotateRight 19 ^^^ y >>> 10
    shaExtend n ((w.getD 15 0 + s0 + w.getD 6 0 + s1) :: w)

/-- One round with its schedule word and constant. -/
def shaRound (v : List (BitVec 32)) (kw : Nat × BitVec 32) : List (BitVec 32) :=
  match v with
  | [a, b, c, d, e, f, g, h] =>
    let s1 := e.rotateRight 6 ^^^ e.rotateRight 11 ^^^ e.rotateRight 25
    let t1 := h + s1 + ((e &&& f) ^^^ (~~~e &&& g)) + BitVec.ofNat 32 kw.1 + kw.2
    let s0 := a.rotateRight 2 ^^^ a.rotateRight 13 ^^^ a.rotateRight 22
    let t2 := s0 + ((a &&& b) ^^^ (a &&& c) ^^^ (b &&& c))
    [t1 + t2, a, b, c, d + t1, e, f, g]
  | _ => v

/-- The hash value after one block of 16 words. -/
def shaBlock (v w : List (BitVec 32)) : List (BitVec 32) :=
  List.zipWith (· + ·) v ((shaK.zip (shaExtend 48 w.reverse).reverse).foldl shaRound v)

/-- The hash value after `n` blocks. -/
def shaBlocks : Nat → List (BitVec 32) → List (BitVec 32) → List (BitVec 32)
  | 0, v, _ => v
  | n + 1, v, w => shaBlocks n (shaBlock v (w.take 16)) (w.drop 16)

/-- SHA-256 of a message, as the number whose most significant byte is the digest's first. (PRESUMED, log 28) -/
@[irreducible] def sha256 (m : List Byte) : BitVec 256 :=
  let w := shaWords (shaPad m)
  BitVec.ofNat 256 ((shaBlocks (w.length / 16) shaStart w).foldl (fun n x => 2 ^ 32 * n + x.toNat) 0)

/-! ### The signature of R409 (PRESUMED, log 28) -/

/-- A number as `n` bytes, most significant first. -/
def bigBytes (n v : Nat) : List Byte := (List.range n).map (fun i => BitVec.ofNat 8 (v / 256 ^ (n - 1 - i)))

/-- HMAC with SHA-256 under a key of 32 bytes. -/
def hmac (key m : List Byte) : List Byte :=
  let k := key ++ List.replicate 32 0#8
  bigBytes 32 (sha256 (k.map (· ^^^ 0x5C#8) ++ bigBytes 32 (sha256 (k.map (· ^^^ 0x36#8) ++ m)).toNat)).toNat

/-- The field prime of P-256 and the order of its base point. -/
def p256Prime : Nat := 0xFFFFFFFF00000001000000000000000000000000FFFFFFFFFFFFFFFFFFFFFFFF
def p256Order : Nat := 0xFFFFFFFF00000000FFFFFFFFFFFFFFFFBCE6FAADA7179E84F3B9CAC2FC632551

/-- The base point of P-256. -/
def p256Base : Nat × Nat :=
  (0x6B17D1F2E12C4247F8BCE6E563A440F277037D812DEB33A0F4A13945D898C296, 0x4FE342E2FE1A7F9B8EE7EB4A7C0F9E162BCE33576B315ECECBB6406837BF51F5)

/-- The power `b` to the `e` modulo `m`, over the low `n` bits of `e`. -/
def powMod (m : Nat) : Nat → Nat → Nat → Nat
  | 0, _, _ => 1
  | n + 1, b, e => (if e % 2 = 1 then b else 1) * powMod m n (b * b % m) (e / 2) % m

/-- The inverse modulo a prime below 2^256. -/
def invMod (m x : Nat) : Nat := powMod m 256 x (m - 2)

/-- The sum of two points of P-256; none is the point at infinity. -/
def p256Add : Option (Nat × Nat) → Option (Nat × Nat) → Option (Nat × Nat)
  | none, b => b
  | a, none => a
  | some (x1, y1), some (x2, y2) =>
    let p := p256Prime
    if x1 = x2 ∧ (y1 + y2) % p = 0 then none
    else
      let l := (if x1 = x2 then (3 * x1 * x1 + (p - 3)) * invMod p (2 * y1) else (y2 + (p - y1)) * invMod p ((x2 + (p - x1)) % p)) % p
      let x := (l * l + (p - x1) + (p - x2)) % p
      some (x, (l * (x1 + (p - x)) + (p - y1)) % p)

/-- `acc` plus `k` times a point, over the low `n` bits of `k`. -/
def p256Mul : Nat → Nat → Option (Nat × Nat) → Option (Nat × Nat) → Option (Nat × Nat)
  | 0, _, _, acc => acc
  | n + 1, k, q, acc => p256Mul n (k / 2) (p256Add q q) (if k % 2 = 1 then p256Add acc q else acc)

/-- The signature with the nonce `k`: r and s, where neither is zero. -/
def ecdsaWith (x h k : Nat) : Option (Nat × Nat) :=
  let n := p256Order
  match p256Mul 256 k (some p256Base) none with
  | none => none
  | some (px, _) =>
    let r := px % n
    let s := invMod n k * (h + r * x) % n
    if r = 0 ∨ s = 0 then none else some (r, s)

/-- The nonces of RFC 6979 in turn until one gives a signature. -/
def ecdsaTry (x h : Nat) : Nat → List Byte → List Byte → Nat × Nat
  | 0, _, _ => (0, 0)
  | n + 1, key, v =>
    let v := hmac key v
    let k := v.foldl (fun (a : Nat) b => 256 * a + b.toNat) 0
    let again := ecdsaTry x h n (hmac key (v ++ [0#8])) (hmac (hmac key (v ++ [0#8])) v)
    if 0 < k ∧ k < p256Order then (ecdsaWith x h k).getD again else again

/-- The ECDSA signature of a SHA-256 digest with the private key `x`: r, then s, as one number of 64 bytes. -/
@[irreducible] def ecdsaSign (x : Nat) (d : BitVec 256) : Nat :=
  let h := d.toNat % p256Order
  let m := bigBytes 32 x ++ bigBytes 32 h
  let k0 := hmac (List.replicate 32 0#8) (List.replicate 32 1#8 ++ 0#8 :: m)
  let v0 := hmac k0 (List.replicate 32 1#8)
  let k1 := hmac k0 (v0 ++ 1#8 :: m)
  let rs := ecdsaTry x h 256 k1 (hmac k1 v0)
  2 ^ 256 * rs.1 + rs.2

end Sys2Proof.Machine
end

