-- ==== Sys2Proof/Machine/Flash.lean ====
section
/-! DEFINITION. Flash.lean: the journal in the history flash: discovery, records, sets and seals, writing, the
cleaner, scrub, failure, recovery and dump (17, R400 to R421). -/
namespace Sys2Proof.Machine

/-! ### Anchors (R404) -/

/-- The 4,096 bytes of an anchor. -/
def anchorBytes (a : Anchor) : List Byte :=
  let m := (List.range 2048).map (fun i => BitVec.ofNat 8 (((List.range 8).map (fun b => if a.map.contains (8 * i + b) then 2 ^ b else 0)).sum))
  let body := leBytes 4 a.seq.toNat ++ [a.formatNo, 0] ++ leBytes 2 a.ringSec ++ leBytes 2 a.head ++ leBytes 2 a.tail ++ leBytes 2 a.retired ++
    leBytes 3 a.maxErase ++ m ++ List.replicate 2027 0
  body ++ leBytes 4 (crc32 body).toNat

/-- The anchor to write now, with the next ANCHSEQ. -/
def State.anchorNow (s : State) (seq : Nat) : Anchor :=
  { seq := BitVec.ofNat 32 seq, formatNo := BitVec.ofNat 8 (s.get FLASH.FORMATNO), ringSec := s.get FLASH.RINGSEC,
    head := s.fl.head, tail := s.fl.tail, retired := s.get FLASH.RETIRED, maxErase := s.get2 FLASH.MAXERASE0,
    map := (s.fl.retired.filter (fun e => e.2)).map (fun e => e.1) }

/-- The one of two anchors with the higher ANCHSEQ. -/
def newerAnchor (a b : Option Anchor) : Option Anchor :=
  match a, b with
  | some x, some y => some (if x.seq.toNat < y.seq.toNat then y else x)
  | some x, none => some x
  | none, y => y

/-- The anchor that a start uses: the valid one with the higher ANCHSEQ. -/
def findAnchor (f : FlashFind) : Option Anchor := newerAnchor f.anchorA f.anchorB

/-! ### State of the flash -/

/-- FLASH.STATUS.STATE: 0 discovering, 1 READY, 2 NONE, 3 FAILED. -/
def State.flState (s : State) : Nat := s.get FLASH.STATUS.STATE

/-- The number N of ring sectors. -/
def State.ringN (s : State) : Nat := s.get FLASH.RINGSEC

/-- Store the flash block. -/
def State.setFl (s : State) (f : Flash) : State := { s with fl := f }

/-- BUSY, DUMPBUSY, SEEN, RESLOW (R421) and the counters of the journal. -/
def State.flStatus (s : State) : State :=
  let ready := s.flState == 1
  let s := (((s.setB FLASH.STATUS.BUSY s.fl.op.isSome).setB FLASH.STATUS.DUMPBUSY s.fl.dump.isSome).setB FLASH.STATUS.SEEN s.vault.flashSeen).setB
    FLASH.STATUS.RESLOW (ready && decide (s.fl.erased < 2))
  let s := ((s.set FLASH.TOMBCNT s.vault.tombCount).set2 FLASH.LASTGOOD0 s.vault.tombEpoch).set FLASH.MONTHS ((s.fl.ms.filter (fun m => !m.2.2)).length)
  s.set2 FLASH.HEADSEQ0 (match s.fl.newest with | some r => r.seq.toNat | none => 0)

/-- The rated endurance in cycles. -/
def State.endurance (s : State) : Nat := s.get FLASH.ENDUR * 1000

/-- HEALTH.FLWEAR: the highest erase count in 0.01 % of the endurance (R173). (DEDUCED, log 109) -/
def State.flWear (s : State) : State :=
  let w := s.get2 FLASH.MAXERASE0
  let e := s.endurance
  s.healthSet HEALTH.FLWEAR (if e = 0 then 0 else min 65535 ((2 * 10000 * w + e) / (2 * e))) none

/-! ### The tombstone and failure (R418) -/

/-- Write the tombstone to the vault. (DEDUCED, log 110) -/
def State.tombWrite (s : State) : State :=
  let g := s.fl.sets.head?
  let v := s.vault
  let v := { v with tombCount := min 65535 (v.tombCount + s.fl.failRam), tombAt := some s.tm.ltc, failOpen := true,
                    tombEpoch := match g with | some x => x.img.epochNo | none => v.tombEpoch,
                    tombLtc := match g with | some x => x.ltc | none => v.tombLtc,
                    tombSeq := match g with | some x => x.first | none => v.tombSeq }
  (({ s with vault := v }).setFl { s.fl with tombDue := false, failRam := 0 }).flStatus

/-- A tombstone may be written: one per 86,400,000 treads. -/
def State.tombFree (s : State) : Bool := match s.vault.tombAt with | some t => decide (t + 86400000 ≤ s.tm.ltc) | none => true

/-- Fault 44 (R418). -/
def State.fault44 (s : State) : State := s.cond 44 (s.flState == 3)

/-- The marks of a record that is not written wait for the next one (R411). -/
def State.uncarry (s : State) : State :=
  let c := s.fl.carry
  { s with tm := { s.tm with stepMark := s.tm.stepMark || c.step },
           fl := { s.fl with clearNext := s.fl.clearNext || c.clear, lostNext := s.fl.lostNext || c.lost, missNext := s.fl.missNext + c.miss, carry := default } }

/-- Whatever the flash does or has to do ends; a calibration commit in it falls due again. -/
def State.flAbort (s : State) : State :=
  let s := s.uncarry
  let s := match s.fl.slotNew with
    | some (_, p) => { s with cal := { s.cal with commitDue := true }, cfg := { s.cfg with persist := s.cfg.persist <|> p } }
    | none => s
  s.setFl { s.fl with op := none, cur := none, draft := none, copyOf := none, slotNew := none, wait := [], openSets := [], flush := 0, tries := 0, late := 0, clean := false, evac := [], fixes := [] }

/-- STATE becomes FAILED; the calibration commit in wait then goes to the vault (R169). -/
def State.flFail (s : State) : State :=
  if s.flState = 3 then s
  else
    let lost := (((s.fl.draft.toList ++ s.fl.wait).filter (fun d => d.cls == 0 && d.setIdx == 38 && !d.closing)).length)
    let s := ((s.set FLASH.STATUS.STATE 3).evt FLASH.EVT.FAIL).flAbort
    let s := s.setFl { s.fl with usable := false, dump := none, failRam := s.fl.failRam + 1, tombDue := true, scrubLeft := 0 }
    let s := s.set FLASH.MISSEP (min 65535 (s.get FLASH.MISSEP + lost))
    let s := if s.tombFree then s.tombWrite else s
    s.fault44.flStatus

/-- More than 8 % of the ring retired, or both anchors bad (R418). -/
def State.failCheck (s : State) : State :=
  if 8 * s.ringN < 100 * s.get FLASH.RETIRED ∨ (s.fl.anchAok = false ∧ s.fl.anchBok = false) then s.flFail else s

/-! ### Record bytes (R405, R406) -/

/-- Bytes 0 to 31. -/
def recHead (r : Record) : List Byte :=
  [r.type, r.flags, r.setIdx, r.setLen] ++ leBytes 4 r.seq.toNat ++ leBytes 6 r.ltc.toNat ++ leBytes 4 r.ptSec.toNat ++ leBytes 2 r.ptMs.toNat ++
    leBytes 1 r.segment.toNat ++ leBytes 3 r.eraseCnt.toNat ++ leBytes 4 r.epochNo.toNat ++ [r.formatNo] ++ leBytes 1 r.cls.toNat ++ leBytes 2 r.missEp.toNat

/-- Bytes 0 to 495. -/
def recBody (r : Record) : List Byte := recHead r ++ r.payload ++ bigBytes 32 r.prev.toNat

/-- One bit into the remainder register of the BCH code of R406 (degree 104, message first). -/
def bchBit (c : Nat) (b : Bool) : Nat :=
  let top := (c / 2 ^ 103) % 2 == 1
  let c' := c * 2 % 2 ^ 104
  if top != b then c' ^^^ 0x15f914e07b0c138741c5c4fb23 else c'

/-- One byte, bit 7 first. -/
def bchByte (c : Nat) (b : Byte) : Nat := (List.range 8).foldl (fun (c : Nat) i => bchBit c (b.getLsbD (7 - i))) c

/-- The 13 parity bytes over bytes 0 to 495. -/
def bchParity (l : List Byte) : List Byte := bigBytes 13 (l.foldl bchByte 0)

/-- The 512 bytes of a record. -/
def recBytes (r : Record) : List Byte := recBody r ++ bchParity (recBody r) ++ List.replicate 3 0xFF

/-- A record that a reader takes: readable, and of a type that R405 gives. -/
def recSound (r : Record) : Bool := decide (r.errs ≤ 8) && decide (1 ≤ r.type.toNat ∧ r.type.toNat ≤ 6)

/-- The head of a class chain after formatting (R407). -/
def State.chainStart (s : State) (cls : Nat) : BitVec 256 :=
  sha256 (leBytes 8 s.vault.fnum ++ leBytes 1 (s.get FLASH.FORMATNO) ++ leBytes 1 cls)

/-! ### Placing records (R413) -/

/-- A sector is retired, or on its way to it. -/
def State.sectorOut (s : State) (q : Nat) : Bool := look s.fl.retired q || s.fl.evac.contains q

/-- The first slot of the next usable ring sector after sector `q`. -/
def State.nextSector : Nat → State → Nat → Nat
  | 0, _, q => q * 8
  | fuel + 1, s, q =>
    let n := if 4 + s.ringN ≤ q + 1 then 4 else q + 1
    if s.sectorOut n then State.nextSector fuel s n else n * 8

/-- The slot after `k`. -/
def State.slotAfter (s : State) (k : Nat) : Nat := if k % 8 = 7 then State.nextSector s.ringN s (k / 8) else k + 1

/-- The record slot `next` is taken by `r`: the head moves, and a new sector uses one erased sector up. -/
def State.placeAt (s : State) (r : Record) : State :=
  let k := s.fl.next
  s.setFl { s.fl with ring := put s.fl.ring k (some r), head := k / 8, next := s.slotAfter k, erased := if k % 8 = 0 then s.fl.erased - 1 else s.fl.erased }

/-- The record of a slot that counts: sound, of the format in use, and not copied on. -/
def State.live (s : State) (k : Nat) : Option Record :=
  if look s.fl.moved k then none
  else (look s.fl.ring k).filter (fun r => recSound r && decide (r.formatNo.toNat = s.get FLASH.FORMATNO))

/-- A record still to be kept by its class (R407, R414). -/
def State.retained (s : State) (r : Record) : Bool :=
  let q := r.seq.toNat
  match r.cls.toNat with
  | 0 => decide (s.fl.tSets.getD 1 (s.fl.tSets.getD 0 0) ≤ q)
  | 1 => decide (s.fl.xs.getLastD 0 ≤ q)
  | 2 => s.fl.ms.any (fun m => decide (m.1 ≤ q ∧ q ≤ m.2.1))
  | _ => decide (s.fl.ss.getLastD 0 ≤ q)

/-- The slots of a sector. -/
def slotsOf (q : Nat) : List Nat := (List.range 8).map (fun i => 8 * q + i)

/-- The first slot of a sector whose record is retained and still to be copied (R413). -/
def State.copyNext (s : State) (q : Nat) : Option Nat :=
  (slotsOf q).find? (fun k => match s.live k with | some r => s.retained r | none => false)

/-- A sector has failed or is worn: it takes no more records, and is retired once its retained records are copied (R416). -/
def State.retire (s : State) (q : Nat) : State :=
  if s.sectorOut q then s
  else
    let s := s.setFl { s.fl with evac := s.fl.evac ++ [q] }
    if s.fl.next / 8 = q then s.setFl { s.fl with next := State.nextSector s.ringN s q, erased := if s.fl.next % 8 = 0 then s.fl.erased - 1 else s.fl.erased } else s

/-- The retirement of an emptied sector (R416): its bit, an anchor, fault 45. -/
def State.retireNow (s : State) (q : Nat) : State :=
  let s := s.setFl { s.fl with retired := put s.fl.retired q true, evac := s.fl.evac.filter (· != q), anchDue := true, tail := if s.fl.tail = q then State.nextSector s.ringN s q / 8 else s.fl.tail }
  ((s.inc FLASH.RETIRED).evt FLASH.EVT.RETIRE).occur 45 |>.failCheck

/-! ### Handing over (R408 to R413) -/

/-- Insert drafts in R411's order: by tread, then by rank; a flush goes first (R412). -/
def insDraft (d : Draft) : List Draft → List Draft
  | [] => [d]
  | e :: l =>
    if (d.closing && !e.closing) || (d.closing == e.closing && (decide (d.tread < e.tread) || (d.tread == e.tread && decide (d.rank < e.rank)))) then d :: e :: l
    else e :: insDraft d l

/-- A set has no room in RAM while one waits, a single record none beside 8 (R413). -/
def State.waitRoom (s : State) (set : Bool) : Bool :=
  decide (2 ≤ s.fl.erased) ||
    (if set then !(s.fl.wait.any (fun d => d.setLen == 39)) else decide ((s.fl.wait.filter (fun d => d.setLen != 39)).length < 8))

/-- Hand over a single record; without room it counts as a missing epoch. -/
def State.handOne (s : State) (d : Draft) : State :=
  if s.flState ≠ 1 then s
  else if d.closing || s.waitRoom false then s.setFl { s.fl with wait := insDraft d s.fl.wait, flush := s.fl.flush + (if d.closing then 1 else 0) }
  else s.inc FLASH.MISSEP

/-- A seal draft of a class (R409): none while the key or certificate check has failed (R450). -/
def State.handSeal (s : State) (cls flags rank : Nat) (closing : Bool) : State :=
  if s.flState ≠ 1 ∨ s.bit IDENT.STATUS.KEYOK = false then s
  else s.handOne { type := 6, flags := flags, setIdx := 0, setLen := 1, cls := cls, epochNo := s.gal.img.epochNo, payload := [], isSeal := true, closing := closing, setId := 0, tread := s.tm.tread, rank := rank }

/-- The payload of record `i` of a totals set (R408). -/
def State.setPayload (s : State) (i : Nat) : List Byte :=
  let g := s.galImg
  let raw := if i = 0 then
      (List.range 3).flatMap (fun k => (s.edgesOf k).flatMap (fun v => leInt 2 v)) ++ leBytes 2 (s.get GAL.EPOCH) ++
        (if s.fl.headNext then leBytes 4 s.vault.tombEpoch ++ leBytes 6 s.vault.tombLtc else [])
    else if i ≤ 36 then g.cellBytes (i - 1)
    else if i = 37 then g.devBytes
    else (List.range 36).flatMap (fun c => let t := look s.imp.img.trend c
      leInt 4 t.base ++ leInt 4 t.epm ++ leBytes 1 t.cnt)
  (raw ++ List.replicate 432 0).take 432

/-- The decoded content of a set, for the restore (R206, R391). -/
def State.setContent (s : State) (cls : Nat) (segend : Bool) : GalSet :=
  { img := s.galImg, edges := s.gal.edges, segment := s.vault.segment, first := 0, last := 0, ltc := s.tm.ltc, cls := cls, segend := segend,
    base := (List.range 36).foldl (fun (m : SMap (Int × Int × Nat)) c => let t := look s.imp.img.trend c
      put m c (t.base, t.epm, t.cnt)) [] }

/-- Hand over a totals set. -/
def State.handSet (s : State) (flags cls rank : Nat) (closing segend : Bool) : State :=
  if s.flState ≠ 1 then s
  else if closing = false ∧ s.waitRoom true = false then s.inc FLASH.MISSEP
  else
    let id := s.fl.setNo + 1
    let ds := (List.range 39).map (fun i => ({ type := if i = 0 then 1 else if i ≤ 36 then 2 else if i = 37 then 3 else 4, flags := flags, setIdx := i, setLen := 39, cls := cls, epochNo := s.gal.img.epochNo, payload := s.setPayload i, isSeal := false, closing := closing, setId := id, tread := s.tm.tread, rank := rank } : Draft))
    s.setFl { s.fl with setNo := id, headNext := false, openSets := put s.fl.openSets id (some (s.setContent cls segend)),
                        wait := ds.foldl (fun l d => insDraft d l) s.fl.wait, flush := s.fl.flush + (if closing then 39 else 0) }

/-- The LTC from which 30 days count (R408). -/
def State.monthBase (s : State) : Nat := max s.fl.monthLtc s.vault.segLtc

/-- The totals of an epoch end, with a monthly copy and its seal when due and where there is room for them (R408, R409). -/
def State.handEpoch (s : State) : State :=
  if s.flState = 3 then s.inc FLASH.MISSEP
  else
    let s1 := s.handSet 0 0 1 false false
    if s.monthBase + 2592000000 ≤ s.tm.ltc ∧ s.flState = 1 ∧ s1.waitRoom true = true then
      let s2 := s1.setFl { s1.fl with monthLtc := s.tm.ltc, headNext := s.fl.headNext }
      (s2.handSet 16 2 2 false false).handSeal 2 16 3 false
    else s1

/-- A gallery flush (R390, R415): a closing set and its seal, SEGEND for entry into RETIRED. -/
def State.galFlush (s : State) (segend : Bool) : State :=
  let s := if s.life = 3 then s else s.setGal (s.gal.fold s.tm.ltc false)
  let s := s.setFl { s.fl with flush := 0, flushed := false }
  let s := if segend then (s.handSet 9 2 1 true true).handSeal 2 9 2 true else (s.handSet 1 0 1 true false).handSeal 0 1 2 true
  let s := if s.flState = 1 then s.setFl { s.fl with anchDue := true } else s
  let s := if s.bit { GAL.XFER with w := 1 } && s.life != 3 then s.xfer else s
  (if s.life = 3 then s else s.setGal s.gal.dropRem).galNewer.flStatus

/-! ### Writing (R412) -/

/-- Plant time as a stamp: all ones before the first set (R48). -/
def State.ptNow (s : State) : Nat × Nat := if s.bit TIME.STATUS.PTVALID then (s.tm.ptSec, s.tm.ptMs) else (4294967295, 65535)

/-- The payload of a seal (R409): the newest record of each class, then the signature over the whole. -/
def State.sealPayload (s : State) (r : Record) : List Byte :=
  let of := fun (c : Nat) => look s.fl.newestOf c
  let dig := (List.range 4).flatMap (fun c => bigBytes 32 (match of c with | some x => x.hash | none => Config.noDigest c).toNat)
  let seqs := (List.range 4).flatMap (fun c => leBytes 4 (match of c with | some x => x.seq.toNat | none => Config.noSeq c))
  let body := (dig ++ seqs ++ List.replicate 432 0).take 368
  bigBytes 64 (ecdsaSign s.vault.key.toNat (sha256 (recHead r ++ body ++ bigBytes 32 r.prev.toNat))) ++ body

/-- The record that a draft becomes when its writing begins (R405, R411). A record after one without plant time is compared with nothing
(DEDUCED, log 171). -/
def State.draftRecord (s : State) (d : Draft) : Record :=
  let (ps, pm) := s.ptNow
  let back := match s.fl.newest with
    | some n => s.bit TIME.STATUS.PTVALID && n.ptMs != 0xFFFF && decide (ps * 1000 + pm + 1000 < n.ptSec.toNat * 1000 + n.ptMs.toNat)
    | none => false
  let fl := d.flags + (if s.tm.stepMark || back then 2 else 0) + (if s.fl.clearNext then 4 else 0) + (if s.fl.lostNext then 32 else 0)
  let r : Record := { type := BitVec.ofNat 8 d.type, flags := BitVec.ofNat 8 fl, setIdx := BitVec.ofNat 8 d.setIdx, setLen := BitVec.ofNat 8 d.setLen, seq := BitVec.ofNat 32 (match s.fl.newest with | some n => n.seq.toNat + 1 | none => Config.firstSeq (s.get FLASH.FORMATNO)), ltc := BitVec.ofNat 48 s.tm.ltc, ptSec := BitVec.ofNat 32 ps, ptMs := BitVec.ofNat 16 pm, segment := BitVec.ofNat 2 s.vault.segment, eraseCnt := BitVec.ofNat 24 (look s.fl.wear (s.fl.next / 8)), epochNo := BitVec.ofNat 32 d.epochNo, formatNo := BitVec.ofNat 8 (s.get FLASH.FORMATNO), cls := BitVec.ofNat 2 d.cls, missEp := BitVec.ofNat 16 (min 65535 s.fl.missNext), payload := d.payload, prev := (match look s.fl.newestOf d.cls with | some n => n.hash | none => s.chainStart d.cls), hash := 0, errs := 0 }
  let r := if d.isSeal then { r with payload := s.sealPayload r } else r
  { r with hash := sha256 (recBody r) }

/-- The writing of a draft begins; its record takes the marks that wait (R405, R411). -/
def State.recBegin (s : State) (d : Draft) : State :=
  let r := s.draftRecord d
  let c : Carry := { step := s.tm.stepMark, clear := s.fl.clearNext, lost := s.fl.lostNext, miss := s.fl.missNext }
  { s with tm := { s.tm with stepMark := false },
           fl := { s.fl with cur := some r, page := 2, draft := some d, copyOf := none, weak := false, carry := c, missNext := 0, lostNext := false, clearNext := false } }

/-- The record of a slot begins to be copied to the head, unchanged (R413, R416, R417). -/
def State.copyBegin (s : State) (k : Nat) (fix : Bool) : State :=
  s.setFl { s.fl with cur := look s.fl.ring k, page := 2, draft := none, copyOf := some (k, fix), weak := false }

/-- Issue the next page program, at most 4 in a tread (R412). -/
def State.progNext (s : State) : State :=
  if s.fl.cur.isSome && decide (s.fl.progs < 4) then s.setFl { s.fl with op := some (.page s.fl.page), progs := s.fl.progs + 1 } else s

/-- The first waiting draft begins. The seal of a flush or of a month is verified first, and one that fails is not written
(R409). (DESIGN CHOICE, log 27) -/
def State.draftNext (s : State) (d : Draft) (l : List Draft) : State :=
  let s := s.setFl { s.fl with wait := l }
  if d.isSeal && d.cls != 3 then
    let ok := Config.sealVerified s.free
    let s := s.tick
    if ok then (s.recBegin d).progNext
    else (s.setFl { s.fl with flush := if d.closing then s.fl.flush - 1 else s.fl.flush, flushed := s.fl.flushed || (d.closing && s.fl.flush == 1) }).occur 59
  else (s.recBegin d).progNext

/-- The next operation of retirement, cleaner and scrub: a copy, then the retirement or the erase (R413, R416, R417). -/
def State.tidyNext (s : State) : State :=
  match s.fl.evac with
  | q :: _ => match s.copyNext q with
    | some k => (s.copyBegin k false).progNext
    | none => s.retireNow q
  | [] =>
    let q := s.fl.tail
    if s.fl.clean then match s.copyNext q with
      | some k => (s.copyBegin k false).progNext
      | none =>
        let s := s.setFl { s.fl with clean := false }
        if s.endurance ≤ look s.fl.wear q then s.retireNow q else s.setFl { s.fl with op := some .erase }
    else match s.fl.fixes.dropWhile (fun k => (s.live k).isNone) with
      | k :: l => ((s.setFl { s.fl with fixes := l }).copyBegin k true).progNext
      | [] => s.setFl { s.fl with fixes := [] }

/-- Issue the next operation when none is in progress (R412): the record in progress, a due anchor once no flush is under way, the
waiting records, and, unless a calibration commit waits for its turn, what the cleaner and the scrub have to do. A record that is no
flush waits while fewer than 2 sectors are erased. (DESIGN CHOICE, log 152) -/
def State.opNext (s : State) : State :=
  if s.fl.op.isSome ∨ s.flState ≠ 1 then s.flStatus
  else if s.fl.cur.isSome then s.progNext.flStatus
  else if s.fl.anchDue && s.fl.flush == 0 then (s.setFl { s.fl with op := some .anchor }).flStatus
  else
    let tidy := if s.cal.commitDue then s else s.tidyNext
    match s.fl.wait with
    | d :: l => (if d.closing ∨ 2 ≤ s.fl.erased then s.draftNext d l else tidy).flStatus
    | [] => tidy.flStatus

/-- The flash's turn in a new tread: up to four more page programs, and the records handed over in the tread before begin in R411's
order. (DESIGN CHOICE, log 152) -/
def State.flTurn (s : State) : State := (s.setFl { s.fl with progs := 0 }).opNext

/-- The first record of a set has been written. -/
def State.setBegun (s : State) (d : Draft) (r : Record) : State :=
  match look s.fl.openSets d.setId with
  | some g => s.setFl { s.fl with openSets := put s.fl.openSets d.setId (some { g with first := r.seq.toNat }) }
  | none => s

/-- Insert a record by its SEQ. -/
def insRec (r : Record) : List Record → List Record
  | [] => [r]
  | x :: l => if r.seq.toNat ≤ x.seq.toNat then r :: x :: l else x :: insRec r l

/-- The records of a class that count, with SEQ from `lo` to `hi`, in order. -/
def State.classRun (s : State) (cls lo hi : Nat) : List Record :=
  ((s.fl.ring.filterMap (fun e => s.live e.1)).filter (fun r => decide (r.cls.toNat = cls ∧ lo ≤ r.seq.toNat ∧ r.seq.toNat ≤ hi))).foldr insRec []

/-- Each record's PREV is the hash of the one before (R405, R408). -/
def chained : List Record → Bool
  | a :: b :: l => (b.prev == a.hash) && chained (b :: l)
  | _ => true

/-- A set has become complete: its 39 records are readable and their PREV links agree (R408). -/
def State.setDone (s : State) (d : Draft) (r : Record) : State :=
  match look s.fl.openSets d.setId with
  | some g =>
    let run := s.classRun d.cls g.first r.seq.toNat
    let s := s.setFl { s.fl with openSets := put s.fl.openSets d.setId none }
    if run.length = 39 ∧ chained run = true then
      s.setFl { s.fl with sets := { g with last := r.seq.toNat } :: s.fl.sets, tSets := if d.cls = 0 then (g.first :: s.fl.tSets).take 3 else s.fl.tSets }
    else s
  | none => s

/-- The set that holds a record is no longer complete (R407, R408). -/
def Flash.dropSet (f : Flash) (r : Record) : Flash :=
  let hit := fun (g : GalSet) => decide (g.cls = r.cls.toNat ∧ g.first ≤ r.seq.toNat ∧ r.seq.toNat ≤ g.last)
  let gone := f.sets.filter hit
  { f with sets := f.sets.filter (fun g => !hit g), tSets := if r.cls = 0 then f.tSets.filter (fun q => !gone.any (fun g => g.first == q)) else f.tSets }

/-- The lists by which classes are kept, after a record has been written (R407). -/
def State.keepLists (s : State) (d : Draft) (r : Record) : State :=
  let q := r.seq.toNat
  let s := match d.cls with
    | 1 => s.setFl { s.fl with xs := (q :: s.fl.xs).take 2160 }
    | 3 => s.setFl { s.fl with ss := (q :: s.fl.ss).take 90 }
    | 2 =>
      if d.isSeal then s.setFl { s.fl with ms := match s.fl.ms with | m :: l => (m.1, q, m.2.2) :: l | [] => [] }
      else if d.setIdx = 0 then s.setFl { s.fl with ms := (q, 4294967295, (r.flags.getLsbD 3)) :: s.fl.ms }
      else if d.setIdx = 38 then s.setFl { s.fl with ms := match s.fl.ms with | m :: l => (m.1, q, m.2.2) :: l | [] => [] }
      else s
    | _ => s
  if d.setLen ≠ 39 then s else if d.setIdx = 0 then s.setBegun d r else if d.setIdx = 38 then s.setDone d r else s

/-- A record has been written and reads back (R412); the one that carries MISSEP ends that count (R418). -/
def State.recordDone (s : State) (r : Record) (d : Draft) (errs : Nat) : State :=
  let q := s.fl.next / 8
  let m := s.fl.carry.miss
  let s := if m = 0 then s else s.set FLASH.MISSEP (s.get FLASH.MISSEP - m)
  let s := s.placeAt { r with errs := errs }
  let s := s.setFl { s.fl with newest := some r, newestOf := put s.fl.newestOf r.cls.toNat (some r), cur := none, draft := none, carry := default, flush := if d.closing then s.fl.flush - 1 else s.fl.flush, flushed := s.fl.flushed || (d.closing && s.fl.flush == 1) }
  let s := s.keepLists d r
  let s := if d.isSeal then (s.inc FLASH.SEALCNT).evt FLASH.EVT.SEAL else s
  if s.fl.weak then s.retire q else s

/-- A copy of slot `k` stands at the head and reads back; a scrub's counts and reports it (R413, R416, R417). -/
def State.copyDone (s : State) (r : Record) (k : Nat) (fix : Bool) (errs : Nat) : State :=
  let q := s.fl.next / 8
  let s := s.placeAt { r with errs := errs }
  let s := s.setFl { s.fl with cur := none, copyOf := none, moved := put s.fl.moved k true }
  let s := if fix then ((s.inc FLASH.FIXCNT).evt FLASH.EVT.FIX).occur 46 else s
  if s.fl.weak then s.retire q else s

/-- An anchor has been written, or its writing failed (R404); the second of a format follows the first (R403). -/
def State.anchorDone (s : State) (ok : Bool) : State :=
  let f := s.fl
  let n := (f.anchSeq + 1) % 4294967296
  let f := if ok then { f with anchSeq := n, anchDue := f.anchMore, anchMore := false } else f
  let a := if ok then some (s.anchorNow n) else none
  let f := if f.anchB then { f with anchBok := ok, anchB := false, anchC := a } else { f with anchAok := ok, anchB := true, anchA := a }
  (s.setFl f).failCheck

/-- The tail sector has been erased: its count grows, TAIL advances, every 64th erase brings an anchor (R404, R413). A set of which it
held a record is no longer complete. -/
def State.eraseDone (s : State) : State :=
  let q := s.fl.tail
  let w := look s.fl.wear q + 1
  let e := s.fl.erases + 1
  let gone := ((slotsOf q).filterMap s.live).filter (fun r => r.setLen == 39)
  let s := s.setFl (gone.foldl Flash.dropSet s.fl)
  let s := s.setFl { s.fl with wear := put s.fl.wear q w, erases := e, erased := s.fl.erased + 1, tail := State.nextSector s.ringN s q / 8, anchDue := s.fl.anchDue || e % 64 == 0, ring := (slotsOf q).foldl (fun (m : SMap (Option Record)) k => put m k none) s.fl.ring, moved := (slotsOf q).foldl (fun (m : SMap Bool) k => put m k false) s.fl.moved }
  (if s.get2 FLASH.MAXERASE0 < w then s.set2 FLASH.MAXERASE0 w else s).flWear

/-- A page has been programmed: the first one follows the second, and then the record is written (R412). A page that failed for good
has its sector retired, and the record goes to the new head, a new one with that sector's erase count (R405, R416). -/
def State.pageDone (s : State) (n : Nat) (e : OpEnd) : State :=
  match e with
  | .ok c =>
    let s := if 3 ≤ c then s.setFl { s.fl with weak := true } else s
    if n = 2 then s.setFl { s.fl with page := 1 }
    else match s.fl.cur, s.fl.draft, s.fl.copyOf with
      | some r, some d, _ => s.recordDone r d (min c 8)
      | some r, none, some (k, fix) => s.copyDone r k fix (min c 8)
      | _, _, _ => s
  | .failed =>
    let s := s.retire (s.fl.next / 8)
    match s.fl.draft with
    | some d => s.uncarry.recBegin d
    | none => s.setFl { s.fl with page := 2, weak := false }

/-- FLASH_OP_DONE: the operation in progress ends. A failed one is retried twice; then its sector is retired (R412, R416), and a
calibration slot is given up (R168). -/
def State.opDone (s : State) (e : OpEnd) : State :=
  let again := decide (e = .failed) && decide (s.fl.tries < 2)
  let op := s.fl.op
  let s := s.setFl { s.fl with late := 0, tries := if again then s.fl.tries + 1 else 0 }
  match op with
  | none => s.flStatus
  | some (.page n) =>
    let s := s.setFl { s.fl with op := none }
    (if again then s else s.pageDone n e).opNext
  | some o =>
    if again then s.flStatus
    else
      let ok := decide (e ≠ .failed)
      let s := s.setFl { s.fl with op := none }
      (match o with
        | .anchor => s.anchorDone ok
        | .erase => if ok then s.eraseDone else s.retire s.fl.tail
        | .slot crcOk => s.slotDone (ok && crcOk)
        | .page _ => s).opNext

/-- An operation still busy at twice its time: the third in a row fails the flash; before that it is issued
again (R418). (DEDUCED, log 108) -/
def State.opLate (s : State) : State :=
  if s.fl.op.isNone then s
  else if 2 ≤ s.fl.late then s.flFail
  else s.setFl { s.fl with late := s.fl.late + 1 }

/-! ### Formatting and discovery (R401 to R404) -/

/-- The numbers that a FORMATNO may not repeat: that in use, those of the anchors and those that records carry. -/
def State.formatsUsed (s : State) : List Nat :=
  s.get FLASH.FORMATNO :: ([s.fl.anchA, s.fl.anchC].filterMap id).map (·.formatNo.toNat) ++ (s.fl.ring.filterMap Prod.snd).map (·.formatNo.toNat)

/-- The new FORMATNO of a format: the first number after that of the newest anchor, or of the register where there is none, that nothing
in the part carries, also after a reset whose discovery found no anchor (R403). (DEDUCED, log 107) -/
def State.formatNext (s : State) : Nat :=
  let b := match newerAnchor s.fl.anchA s.fl.anchC with | some a => a.formatNo.toNat | none => s.get FLASH.FORMATNO
  (((List.range 256).map (fun i => (b + 1 + i) % 256)).find? (fun n => !s.formatsUsed.contains n)).getD ((b + 1) % 256)

/-- The first usable sector of the ring. -/
def State.firstSector (s : State) : Nat := State.nextSector s.ringN s 3 / 8

/-- Format the part (R403): a new FORMATNO, an empty ring, and both anchors due, which the controller writes one after the other before
any record (R404, R412). The retirement bitmap and the erase counts stay, and RETIRED and MAXERASE show them (R421). -/
def State.flFormat (s : State) : State :=
  let ret := ((List.range s.ringN).filter (fun i => look s.fl.retired (4 + i))).length
  let s := ((s.set FLASH.FORMATNO s.formatNext).set FLASH.RETIRED ret).set2 FLASH.MAXERASE0 ((s.fl.wear.map Prod.snd).foldl max 0)
  let s := { s.flAbort with vault := { s.vault with flashSeen := true } }
  let q := s.firstSector
  s.setFl { s.fl with anchDue := true, anchMore := true, erases := 0, ring := [], moved := [], next := 8 * q, tail := q, head := q, erased := s.ringN - ret, newest := none, newestOf := [], tSets := [], xs := [], ss := [], ms := [], monthLtc := 0, sets := [] }

/-- STATE becomes READY; a failure before it ends here (R418). `reset` says that the RAM count was lost; MISSEP then shows what takes
its place. -/
def State.flReady (s : State) (reset : Bool) : State :=
  let was := s.flState == 3 || s.vault.failOpen
  let s := s.set FLASH.STATUS.STATE 1
  let s := s.setFl { s.fl with usable := true, late := 0, tombDue := false, ramLost := false }
  let s := if s.get FLASH.SCRUBPOS < 4 then s.set FLASH.SCRUBPOS (State.nextSector s.ringN s 3 / 8) else s
  let s := if was then
      let e := s.epochMin * 60000
      let m := if reset then min 65535 ((s.tm.ltc - s.vault.tombLtc) / e) else s.get FLASH.MISSEP
      (({ s with vault := { s.vault with failOpen := false } }).set FLASH.MISSEP m |>.setFl { s.fl with missNext := m, lostNext := reset, headNext := true }).evt FLASH.EVT.RECOVER
    else s
  (s.fault44).opNext

/-- `n` ring entries fail their verification and are retired (R41). The ring counts its writes as a whole: what a retired entry had
left of its 1,000 stays in the 128,000. (DEDUCED, log 153) -/
def State.ringRetire (s : State) (n : Nat) : State :=
  let v := s.vault
  let w := v.ringWrites + min n (128 - v.ringBad)
  ({ s with vault := { v with ringBad := min (v.ringBad + n) 128, ringWrites := w } }).setB TIME.STATUS.VLTWORN (decide (128000 ≤ w))

/-- A verified ring write of LTCHI and CLOSED, where an entry is left (R40, R41). -/
def State.ringWrite (s : State) (hi : Nat) (closed : Bool) : State :=
  if 128 ≤ s.vault.ringBad then s
  else
    let w := s.vault.ringWrites + 1
    let s := { s with vault := { s.vault with ltchi := hi, closed := closed, ringWrites := w }, tm := { s.tm with hiWritten := hi } }
    s.setB TIME.STATUS.VLTWORN (decide (128000 ≤ w))

/-- The ring write of a start or a closing step: entries that fail their verification are retired until one holds, or none
is left (R39 to R41). -/
def State.vaultRing (s : State) (hi : Nat) (closed : Bool) : State :=
  (s.ringRetire (Config.ringFails s.vault.ringWrites)).ringWrite hi closed

/-- A closing record (R39). (DEDUCED, log 106) -/
def closingRec (r : Record) : Bool := r.flags.getLsbD 0 || (r.type == 6 && r.cls == 0)

/-- The LTC is resumed (R39, R41): `newest` is the newest valid journal record, where one has been read. With no ring entry left and
no record the old bound stands (DEDUCED, log 39) -/
def State.ltcResume (s : State) (newest : Option Record) : State :=
  if s.bit SYS.STATUS.LTCRES then s
  else
    let v := s.vault
    let (l, est) := match newest with
      | some r =>
        if 128 ≤ v.ringBad then (if closingRec r then r.ltc.toNat + 256 else r.ltc.toNat + 3600001, true)
        else if v.closed && closingRec r then (r.ltc.toNat + 256, false) else (v.ltchi * 16777216, true)
      | none => (v.ltchi * 16777216, true)
    let l := l % 281474976710656
    let s := (({ s with tm := { s.tm with ltc := l } }).setB TIME.STATUS.LTCEST est).setB SYS.STATUS.LTCRES true
    s.vaultRing (l / 16777216 + 1) false

/-- What the part shows of itself meets R400, by the limits there where its table gives no times. -/
def findMeets (f : FlashFind) : Bool :=
  decide (16 ≤ f.density ∧ f.density ≤ 512) && f.erase4k && f.page256 && (decide (f.density ≤ 128) || f.addr4) && decide (f.progUs.getD 0 ≤ 3000) &&
    decide (f.eraseMs.getD 0 ≤ 400)

/-- Sectors of the ring: all of the part but the first four (R403). -/
def findRing (f : FlashFind) : Nat := 32 * f.density - 4

/-- FLASH.MODE: the widest listed read mode, quad only where allowed, and 4-byte addressing where the density needs it
(R400, R401). -/
def State.flMode (s : State) (f : FlashFind) : Nat :=
  (if f.quad && s.usedB FLASH.CFG.QUADEN then 2 else if f.dual then 1 else 0) + (if 128 < f.density then 4 else 0)

/-- The outcome of discovery (R402). -/
def State.findState (s : State) (f : FlashFind) : Nat :=
  if s.usedB FLASH.CFG.EN = false then 2
  else if f.sfdp = false then (if f.idBlank && !s.vault.flashSeen then 2 else 3)
  else if findMeets f = false then 3
  else if (findAnchor f).isSome then 1
  else if f.ringErased then 4
  else 3

/-- The first erased slot from slot `k` on: one that holds no record of the format in use (R403, R404). -/
def State.freeSlot (s : State) : Nat → Nat → Nat
  | 0, k => k
  | n + 1, k => match look s.fl.ring k with
    | some r => if r.formatNo.toNat = s.get FLASH.FORMATNO then s.freeSlot n (s.slotAfter k) else k
    | none => k

/-- Read forward from slot `k` in format `fmt` (R404): an erased slot or a lower SEQ ends it, a damaged record is passed over; `best` is
the newest record so far with its slot. -/
def State.readOn (s : State) (fmt : Byte) : Nat → Nat → Option (Nat × Record) → Option (Nat × Record)
  | 0, _, best => best
  | n + 1, k, best =>
    match (look s.fl.ring k).filter (fun r => r.formatNo == fmt) with
    | none => best
    | some r =>
      if recSound r = false then s.readOn fmt n (s.slotAfter k) best
      else if (match best with | some b => decide (r.seq.toNat < b.2.seq.toNat) | none => false) then best
      else s.readOn fmt n (s.slotAfter k) (some (k, r))

/-- The newest record of a part in format `fmt`, whose SEQ no later record repeats (R405): of the records that State holds of the part,
else what discovery reports of one that it holds nothing of. (DEDUCED, log 170) -/
def State.newestIn (s : State) (f : FlashFind) (fmt : Byte) : Option Record :=
  if s.fl.ring.isEmpty then f.newest
  else ((s.fl.ring.filterMap Prod.snd).filter (fun r => recSound r && r.formatNo == fmt)).foldl
    (fun (m : Option Record) r => match m with | some x => if x.seq.toNat < r.seq.toNat then some r else m | none => some r) none

/-- The slot of the head, found by reading forward from the anchor's HEAD (R404); none where that sector holds no record yet. In a part
of which State holds nothing it is what discovery reports. (DEDUCED, log 170) -/
def State.headIn (s : State) (f : FlashFind) (a : Anchor) : Option Nat :=
  if s.fl.ring.isEmpty then f.newest.map (fun _ => f.head) else (s.readOn a.formatNo (8 * s.ringN) (8 * a.head) none).map Prod.fst

/-- What the anchor and the journal head say (R404): the retirement bitmap is the anchor's; the counts of the record headers
may have grown since it was written (R416). -/
def State.flLoad (s : State) (f : FlashFind) (a : Anchor) : State :=
  let new := s.newestIn f a.formatNo
  let s := ((s.set FLASH.FORMATNO a.formatNo.toNat).set FLASH.RETIRED a.retired).set2 FLASH.MAXERASE0 (max a.maxErase ((s.fl.wear.map Prod.snd).foldl max 0))
  let s := s.setFl { s.fl with clean := false, evac := [], anchDue := false, anchMore := false, anchSeq := a.seq.toNat, anchA := f.anchorA, anchC := f.anchorB, anchAok := f.anchorA.isSome, anchBok := f.anchorB.isSome, anchB := decide (f.anchorA = some a), tail := a.tail, retired := a.map.foldl (fun (m : SMap Bool) q => put m q true) [] }
  let at0 := s.headIn f a
  let s := s.setFl { s.fl with head := (at0.getD (8 * a.head)) / 8, newest := new, newestOf := match new with | some r => put s.fl.newestOf r.cls.toNat (some r) | none => s.fl.newestOf,
                               ring := if s.fl.ring.isEmpty then (match f.newest with | some r => put [] f.head (some r) | none => []) else s.fl.ring }
  let s := s.setFl { s.fl with next := s.freeSlot (8 * s.ringN) (match at0 with | some k => s.slotAfter k | none => 8 * a.head) }
  let used := (s.fl.next / 8 + s.ringN - a.tail) % max s.ringN 1
  s.setFl { s.fl with erased := s.ringN - a.retired - (if s.fl.next % 8 = 0 then used else used + 1) }

/-- Steps of R401 that discovery takes: it ends with step 3 where there is no SFDP signature, and with step 4 where the table does not
meet R400. -/
def State.findSteps (s : State) (f : FlashFind) : Nat :=
  if s.usedB FLASH.CFG.EN = false then 0 else if f.sfdp = false then 3 else if findMeets f = false then 4 else 6

/-- Discovery ends (R402): the JEDEC ID has been read whatever followed (R401), and a record that no reader takes is none. -/
def State.discovered (s : State) (f : FlashFind) : State :=
  let f := { f with newest := f.newest.filter recSound }
  let k := s.findState f
  let wasOpen := s.vault.failOpen
  let s := if s.usedB FLASH.CFG.EN then s.set2 FLASH.JEDECID0 f.jedec.toNat else s
  let s := if s.usedB FLASH.CFG.EN && f.sfdp then (s.set FLASH.MODE (s.flMode f)).set FLASH.RINGSEC (findRing f) else s
  let s := if s.tm.tread = 0 then s.ltcResume (match k, findAnchor f with | 1, some a => s.newestIn f a.formatNo | _, _ => none) else s
  let s := match k, findAnchor f with
    | 1, some a => (s.flLoad f a).flReady true
    | 4, _ => (s.flFormat).flReady true
    | 3, _ => let s := s.flFail; s.setFl { s.fl with ramLost := wasOpen }
    | _, _ => s.set FLASH.STATUS.STATE 2
  s.fault44.flWear.flStatus

/-- CTRL.FORMAT with its key byte (R403). (DEDUCED, log 107) -/
def State.format (s : State) (key : Byte) : State :=
  if key ≠ 0xA5 ∨ ¬ (s.holds 44 = true ∨ (s.fl.anchAok = false ∧ s.fl.anchBok = false) ∨ s.life = 0) then s.evt FLASH.EVT.KEYREJ
  else if s.flState = 1 ∨ s.flState = 3 then (s.flFormat).flReady s.fl.ramLost else s

/-! ### Hourly record and seal (R409, R410) -/

/-- A quantity of the hourly record; 0x80… without a value. -/
def State.hourBytes (s : State) (i n : Nat) : List Byte :=
  match look s.gal.hour i with | some v => leInt n v | none => leBytes n (2 ^ (8 * n - 1))

/-- The payload of the hourly record. -/
def State.hourPayload (s : State) : List Byte :=
  ((List.range 36).flatMap (fun c => s.hourBytes (3 * c) 3 ++ s.hourBytes (3 * c + 1) 3 ++ s.hourBytes (3 * c + 2) 2) ++
    s.hourBytes 108 3 ++ s.hourBytes 109 3 ++ s.hourBytes 110 2 ++ s.hourBytes 111 2 ++ List.replicate 432 0).take 432

/-- HOURLY_RECORD's effect. -/
def State.hourRecord (s : State) : State :=
  if s.tm.ltc % 3600000 ≠ 0 ∨ s.tm.tread = 0 then s
  else
    let s := s.handOne { type := 5, flags := 0, setIdx := 0, setLen := 1, cls := 1, epochNo := s.gal.img.epochNo, payload := s.hourPayload, isSeal := false, closing := false, setId := 0, tread := s.tm.tread, rank := 0 }
    s.setGal { s.gal with hour := [] }

/-- DAILY_SEAL's effect; a failed self-verification writes none and is fault 59's event. -/
def State.daySeal (s : State) (verified : Bool) : State :=
  if s.tm.ltc % 86400000 ≠ 0 ∨ s.tm.tread = 0 ∨ s.flState ≠ 1 ∨ s.bit IDENT.STATUS.KEYOK = false then s
  else if verified = false then s.occur 59
  else s.handOne { type := 6, flags := 0, setIdx := 0, setLen := 1, cls := 3, epochNo := s.gal.img.epochNo, payload := [], isSeal := true, closing := false, setId := 0, tread := s.tm.tread, rank := 4 }

/-! ### Cleaner and scrub (R413, R414, R416, R417) -/

/-- Records kept in the ring. -/
def State.keptCount (s : State) : Nat :=
  ((s.fl.ring.filterMap (fun e => s.live e.1)).filter s.retained).length

/-- Drop the oldest monthly set that is no final set when the reserve would not hold (R414). -/
def State.dropMonth (s : State) : State :=
  if 8 * (s.ringN - s.get FLASH.RETIRED) < s.keptCount + 64 then
    match (s.fl.ms.filter (fun m => !m.2.2)).getLast? with
    | some m => ((s.setFl { s.fl with ms := s.fl.ms.filter (fun x => x != m) }).inc FLASH.MDROPCNT).evt FLASH.EVT.MDROP
    | none => s
  else s

/-- A dump has not yet read a sector (R420). -/
def State.dumpHolds (s : State) (q : Nat) : Bool :=
  match s.fl.dump with | some (k, n) => decide (k < 8 * q + 8 ∧ 8 * q < k + n) | none => false

/-- End a dump early (R420). -/
def State.dumpCut (s : State) : State := ((s.setFl { s.fl with dump := none }).evt FLASH.EVT.DUMPCUT).flStatus

/-- The cleaner is due: fewer than 8 sectors are erased ahead of the head (R413). -/
def State.cleanDue (s : State) : Bool := decide (s.fl.erased < 8) && s.fl.tail != s.fl.next / 8

/-- Nothing that comes before the cleaner has anything to do: no operation, anchor, record or commit, and no retirement (R412). -/
def State.flFree (s : State) : Bool := s.flState == 1 && !s.fl.busy && !s.cal.commitDue && s.fl.evac.isEmpty && !s.fl.clean

/-- The cleaner reclaims the tail sector in its turn (R412): it copies what is kept, then erases; opNext issues one operation after
the other. A sector at its endurance is retired instead of erased (R416). -/
def State.reclaim (s : State) : State :=
  let q := s.fl.tail
  if s.flFree = false ∨ q = s.fl.next / 8 then s
  else if s.dumpHolds q && !decide (s.fl.erased < 8) then s
  else
    let s := (if s.dumpHolds q then s.dumpCut else s).dropMonth
    (s.setFl { s.fl with clean := true }).opNext

/-- The scrub's interval in treads. -/
def State.scrubDue (s : State) : Bool := decide (0 < s.fl.scrubLeft) || decide (s.fl.scrubAt + 2592000000 / max s.ringN 1 ≤ s.tm.ltc)

/-- The record of the same class before `r` in the journal, as far as the ring holds it. -/
def State.before (s : State) (r : Record) : Option Record :=
  ((s.fl.ring.map Prod.snd).filterMap (fun o => o.filter (fun x => decide (x.formatNo = r.formatNo ∧ x.cls = r.cls ∧ x.seq.toNat < r.seq.toNat)))).foldl
    (fun (m : Option Record) x => match m with | some y => if y.seq.toNat < x.seq.toNat then some x else m | none => some x) none

/-- PREV of a record differs from its predecessor's hash (R417); a predecessor that is damaged cannot be compared. -/
def State.chainBreak (s : State) (r : Record) : Bool :=
  match s.before r with | some p => recSound p && r.prev != p.hash | none => false

/-- A PREV mismatch: fault 47, and a set that holds the record is not complete (R408, R417). -/
def State.chainFault (s : State) (r : Record) : State :=
  ((if r.setLen = 39 then s.setFl (s.fl.dropSet r) else s).evt FLASH.EVT.DAMAGE).occur 47

/-- One record as the scrub finds it (R417): a damaged one is given up, a weak one waits to be rewritten at the head. -/
def State.scrubRec (s : State) (k errs : Nat) : State :=
  match s.live k with
  | none => s
  | some r =>
    let s := s.setFl { s.fl with ring := put s.fl.ring k (some { r with errs := errs }) }
    if 8 < errs then
      let s := if r.setLen = 39 then s.setFl (s.fl.dropSet r) else s
      ((s.inc FLASH.DMGCNT).evt FLASH.EVT.DAMAGE).occur 47
    else
      let s := if s.chainBreak r then s.chainFault r else s
      if 3 ≤ errs then s.setFl { s.fl with fixes := s.fl.fixes ++ [k] } else s

/-- SCRUB_SECTOR's effect in its turn (R412): `errs` are the corrected bits of the eight records, more than 8 for a damaged one;
`chainOk` is false where a PREV as read differs from the predecessor's hash, in a sector whose records all match as they were written.
(DESIGN CHOICE, log 105) -/
def State.scrub (s : State) (errs : List Nat) (chainOk : Bool) : State :=
  if s.flFree = false ∨ s.scrubDue = false ∨ s.cleanDue = true ∨ s.fl.fixes.isEmpty = false then s
  else
    let q := max 4 (s.get FLASH.SCRUBPOS)
    let s := forEach (List.range 8) (fun (i : Nat) (s : State) => s.scrubRec (8 * q + i) (errs.getD i 0)) s
    let s := if chainOk then s else
      let rs := (slotsOf q).filterMap s.live
      ((forEach rs (fun (r : Record) (s : State) => s.chainFault r) s).evt FLASH.EVT.DAMAGE).occur 47
    let s := s.set FLASH.SCRUBPOS (State.nextSector s.ringN s q / 8)
    (s.setFl { s.fl with scrubAt := s.tm.ltc, scrubLeft := s.fl.scrubLeft - 1 }).opNext

/-! ### Dump (R420) -/

/-- CTRL.DUMP. (DEDUCED, log 111) -/
def State.dumpStart (s : State) : State :=
  if s.flState ≠ 1 then s
  else (s.setFl { s.fl with dump := some (s.get2 FLASH.DUMPSTART0, s.get FLASH.DUMPCNT) }).flStatus

/-- The block of one slot. -/
def State.dumpBlock (s : State) (k : Nat) : List Byte :=
  let head := fun (st e : Nat) => leBytes 4 k ++ leBytes 1 st ++ leBytes 1 e ++ leBytes 10 0
  if k < 32 ∨ 8 * (4 + s.ringN) ≤ k then
    leBytes 4 k ++ [Config.dumpByte k 512, Config.dumpByte k 513] ++ leBytes 10 0 ++ (List.range 512).map (Config.dumpByte k)
  else if look s.fl.retired (k / 8) then head 4 0 ++ (List.range 512).map (Config.dumpByte k)
  else match look s.fl.ring k with
    | none => head 3 0 ++ List.replicate 512 0xFF
    | some r => if recSound r = false then head 2 0 ++ (List.range 512).map (Config.dumpByte k)
      else if r.errs = 0 then head 0 0 ++ recBytes r
      else head 1 r.errs ++ recBytes r

/-- The next dump block, as Q63 makes room and nothing else uses the flash (R412). -/
def State.dumpPost (s : State) : State :=
  match s.fl.dump with
  | none => s
  | some (k, n) =>
    if s.tm.tread = 0 ∨ s.flState ≠ 1 ∨ s.qEnabled 63 = false ∨ s.qRoom 63 528 = false ∨ s.flFree = false ∨ s.cleanDue = true ∨
        s.scrubDue = true ∨ s.fl.fixes.isEmpty = false then s
    else
      let s := s.append 63 (s.dumpBlock k) true true true
      (s.setFl { s.fl with dump := if n ≤ 1 then none else some (k + 1, n - 1) }).flStatus

/-! ### Restore (R206, R391) -/

/-- Add seconds of a restored table, saturating. -/
def addSecs (a b : SMap Nat) : SMap Nat := b.foldl (fun (m : SMap Nat) e => adj m e.1 (fun v => min (v + e.2) 4294967295)) a

/-- The more extreme of two records; the first occurrence of equal values stays (R385). -/
def mergeExt (k : Nat) (old now : Extreme) : Extreme :=
  let up := k = 108 || (k < 108 && k % 3 != 1)
  if !old.has then now else if !now.has then old
  else if (if up then decide (old.v < now.v) else decide (now.v < old.v)) then now else old

/-- Totals with what has been counted since the start. -/
def GalObj.plus (old now : GalObj) : GalObj :=
  let sat := fun (n : Nat) => min n 4294967295
  { hv := addSecs old.hv now.hv, ht := addSecs old.ht now.ht, hi := addSecs old.hi now.hi, hd := addSecs old.hd now.hd,
    ext := (List.range 110).foldl (fun (m : SMap Extreme) k => put m k (mergeExt k (look old.ext k) (look now.ext k))) [],
    chg := sat (old.chg + now.chg), dis := sat (old.dis + now.dis), unV := sat (old.unV + now.unV), unT := sat (old.unT + now.unT),
    epochNo := (old.epochNo + now.epochNo) % 4294967296, foldLtc := max old.foldLtc now.foldLtc, clip := old.clip || now.clip }

/-- The set from which a start takes its totals: the newest complete one of this segment. (DEDUCED, log 103) -/
def State.restoreSet (s : State) : Option GalSet :=
  match s.fl.sets with
  | g :: _ => if g.segment = s.vault.segment ∧ (s.vault.segLtc < g.ltc ∨ s.life = 0) then some g else none
  | [] => none

/-- GALLERY_RESTORE's effect: totals, edges and EPOCHNO; in COMMISSION a histogram whose edges are no longer
those in use is not taken over, as an adoption would clear it (R388). -/
def State.galRestore (s : State) : State :=
  if s.gal.restored = true ∨ s.flState = 0 then s
  else
    let s := s.setGal { s.gal with restored := true }
    match (if s.flState = 1 then s.restoreSet else none) with
    | none => s.setB GAL.STATUS.NOHIST true
    | some g =>
      let same := fun (k : Nat) => s.life != 1 || look g.edges k == look s.gal.edges k
      let old := { g.img with hv := if same 0 then g.img.hv else [], ht := if same 1 then g.img.ht else [], hi := if same 2 then g.img.hi else [] }
      let s := s.setGal { s.gal with img := old.plus s.gal.img, edges := if 2 ≤ s.life then g.edges else s.gal.edges }
      let s := { s with imp := { s.imp with img := { s.imp.img with trend := (List.range 36).foldl (fun (m : SMap Trend) c =>
        let b := look g.base c
        adj m c (fun t => { t with sumBase := b.1 * b.2.2, means := t.means.take (64 - b.2.2), cnt := min 64 (b.2.2 + t.cnt), epm := if t.cnt = 0 then b.2.1 else t.epm, hist := true })) s.imp.img.trend } } }
      ((s.setB GAL.STATUS.RESTORED true).galNewer.galStatus).impNewer.impStatus

/-! ### Rows -/

/-- EPOCH_FOLD (R389, R205, R395). -/
def execEpochFold (s : State) : Host.Outcome State Fault Refusal :=
  whenActive [.bal, .imp, .gal, .fl] s fun s =>
    if s.epochEnd = false ∨ s.life = 3 then s
    else
      let s := (s.setGal { s.gal.fold s.tm.ltc true with epochUse := none }).evt GAL.EVT.FOLD
      let s := (s.trendEpoch).handEpoch
      let s := if s.bit { GAL.XFER with w := 1 } then s.xfer else s
      s.galNewer

/-- GALLERY_RESTORE (R206, R391). -/
def execGalleryRestore (s : State) : Host.Outcome State Fault Refusal := whenActive [.bal, .imp, .gal] s fun s => s.galRestore

/-- FLASH_DISCOVERY (R401): the next of six steps. -/
def execFlashDiscovery (s : State) : Host.Outcome State Fault Refusal :=
  whenActive [.fl] s fun s => if s.flState = 0 then s.setFl { s.fl with step := min 6 (s.fl.step + 1) } else s

/-- FORMAT (R403). -/
def execFormat (key : Byte) (s : State) : Host.Outcome State Fault Refusal := whenActive [.tm, .cal, .cfg, .fl, .vault] s fun s => s.format key

/-- TOMBSTONE_WRITE (R418). -/
def execTombstoneWrite (s : State) : Host.Outcome State Fault Refusal :=
  whenActive [.fl, .vault] s fun s => if s.fl.tombDue && s.tombFree then s.tombWrite else s

/-- HOURLY_RECORD (R410). -/
def execHourlyRecord (s : State) : Host.Outcome State Fault Refusal := whenActive [.gal, .fl] s fun s => s.hourRecord

/-- DAILY_SEAL (R409). -/
def execDailySeal (verified : Bool) (s : State) : Host.Outcome State Fault Refusal := whenActive [.fl] s fun s => s.daySeal verified

/-- CLEANER_RECLAIM (R413, R414, R416). -/
def execCleanerReclaim (s : State) : Host.Outcome State Fault Refusal := whenActive [.tm, .cal, .cfg, .fl, .vault] s fun s => s.reclaim

/-- SCRUB_SECTOR (R417). -/
def execScrubSector (errs : List Nat) (chainOk : Bool) (s : State) : Host.Outcome State Fault Refusal :=
  if errs.length = 8 then whenActive [.tm, .cal, .cfg, .fl, .vault] s fun s => s.scrub errs chainOk else .fault (.malformed "SCRUB_SECTOR: 8 records")

/-- SCRUBNOW (R417). -/
def execScrubnow (s : State) : Host.Outcome State Fault Refusal :=
  whenActive [.fl] s fun s => if s.flState = 1 then s.setFl { s.fl with scrubLeft := s.ringN } else s

/-- DUMP (R420). -/
def execDump (s : State) : Host.Outcome State Fault Refusal := whenActive [.fl] s fun s => s.dumpStart

/-- DUMP_BLOCK_POST (R420). -/
def execDumpBlockPost (s : State) : Host.Outcome State Fault Refusal := whenActive [.xact, .fl] s fun s => s.dumpPost

/-- FLASH_BUSY_TIMEOUT (R418). -/
def execFlashBusyTimeout (s : State) : Host.Outcome State Fault Refusal := whenActive [.tm, .cal, .cfg, .fl, .vault] s fun s => s.opLate

end Sys2Proof.Machine
end

