-- ==== Sys2Proof/Machine/Tipol.lean ====
section
/-! DEFINITION. Tipol.lean: the Tipol sensor bus (chapter 18): calls, the search of the nibble tree, the registry,
poll cycles, reply frames and the short check. -/
namespace Sys2Proof.Machine

/-- Store the bus's own state. -/
def State.setTip (s : State) (t : Tip) : State := { s with tip := t }

/-- The registry entry `e`. -/
def State.tipNode (s : State) (e : Nat) : Option TipNode := look s.tip.nodes e

/-- Registered entries (R432: entries fill in order and are emptied together). -/
def State.tipCount (s : State) : Nat := ((List.range 32).filter (fun e => (s.tipNode e).isSome)).length

/-- The bus may be driven: EN in use, fault 48 not live, and no SLEEP entry past its step 1 (R424, R436, R437). -/
def State.tipOn (s : State) : Bool := s.usedB TIPOL.CFG.EN && !s.bit TIPOL.STATUS.SHORTLIVE && !s.gal.stopped

/-- The words NODES, MISSMAP0–1 and STATUS, and fault 50, from the registry and the operation in progress
(R434, R437). -/
def State.tipStatus (s : State) : State :=
  let miss := fun (e : Nat) => ((s.tipNode e).map TipNode.missing).getD false
  let any := (List.range 32).any miss
  let s := forEach (List.range 32) (fun (e : Nat) (s : State) => s.setV TIPOL.MISSMAP0 e (miss e)) s
  (((((s.set TIPOL.NODES s.tipCount).setB TIPOL.STATUS.SEARCHING s.tip.search.isSome).setB
    TIPOL.STATUS.POLLING s.tip.polling).setB TIPOL.STATUS.FULL (s.tipCount == 32)).setB TIPOL.STATUS.MISSLIVE any).cond 50 any

/-- Change one registry entry. -/
def State.setNode (s : State) (e : Nat) (n : TipNode) : State :=
  (s.setTip { s.tip with nodes := put s.tip.nodes e (some n) }).tipStatus

/-- The window of this tread has carried its one operation (R423). -/
def State.tipWindow (s : State) : State := s.setTip { s.tip with winAt := some s.tm.tread }

/-- A transaction begins with its call (R423). -/
def State.tipOp (s : State) (o : TipOp) : State :=
  (s.setTip { s.tip with op := o, called := false, answered := false, further := false }).tipStatus

/-! ### Factory numbers (R426) -/

/-- One bit into the CRC-8 of R426. -/
def tipCrc8Bit (c : Nat) (b : Bool) : Nat :=
  let fb := b != c.testBit 7
  let c := c * 2 % 256
  if fb then c ^^^ 0x9B else c

/-- The check byte over bits 63 to 8 in bus order. -/
def tipCrc8 (num : Nat) : Nat := (List.range 56).foldl (fun c i => tipCrc8Bit c (num.testBit (63 - i))) 0xFF

/-- The number that 16 nibbles spell, nibble 0 first. -/
def nibbles (l : List Nat) : Nat := l.foldl (fun a d => 16 * a + d % 16) 0

/-- The check byte is right. -/
def numOk (num : Nat) : Bool := tipCrc8 num == num % 256

/-! ### What the device sends (R426, R427) -/

/-- A value's bits, most significant first. -/
def msbBits (w v : Nat) : List Bool := (List.range w).map (fun i => v.testBit (w - 1 - i))

/-- The write slots that do not depend on an answer: after a call SCAN; PICK with the number, then FETCH with the channel, whose
reply trigger follows; ALL and LATCH. A further FETCH of an entry has neither call nor PICK. -/
def State.tipBits (s : State) : List Bool :=
  let fetch := fun (e k : Nat) => msbBits 8 0x4B ++ msbBits 64 (((s.tipNode e).map TipNode.num).getD 0) ++ msbBits 8 0xB8 ++ msbBits 4 k
  match s.tip.op with
  | .idle => []
  | .scan => msbBits 8 0x2D
  | .info e => fetch e 15
  | .latch => msbBits 8 0x71 ++ msbBits 8 0x96
  | .fetch e l => if s.tip.further then msbBits 8 0xB8 ++ msbBits 4 (l.headD 0) else fetch e (l.headD 0)

/-- The nibble that a SCAN writes after the 16 reads of level `l`: the branch's own below its level, the lowest that reads 0
from there on; the round of level 15 has no write slots (R427, R431). -/
def TipSearch.wrote (x : TipSearch) (l : Nat) (map : Word) : Option Nat :=
  if 15 ≤ l then none else if l < x.lv then x.pre[l]? else (List.range 16).find? (fun i => map.getLsbD i)

/-! ### Registry and search (R431, R432) -/

/-- Channels 0 to `n`. -/
def chUpTo (n : Nat) : Nat := 2 ^ (n + 1) - 1

/-- The highest channel an entry has: its channel 15 reply's [3:0], at most 14; 0 before such a reply. -/
def TipNode.top (n : TipNode) : Nat := min 14 ((n.info.map (· % 16)).getD 0)

/-- The channels a poll cycle fetches of an entry (R433). -/
def TipNode.polled (n : TipNode) : List Nat := (List.range 15).filter (fun k => n.chmap.testBit k && decide (k ≤ n.top))

/-- Begin a search: the branch (0, none) (R431). -/
def State.tipSearch (s : State) : State :=
  (s.setTip { s.tip with searchReq := false, search := some { stack := [], lv := 0, pre := [], tries := 0, first := true } }).tipOp .scan

/-- Begin a poll cycle at its call, ALL and LATCH (R433). (DEDUCED, log 115) -/
def State.tipPoll (s : State) : State :=
  (s.setTip { s.tip with pollReq := false, polling := true, todo := [] }).tipOp .latch

/-- A poll cycle's LATCH transaction is over and its wait runs, or its call has not been made. -/
def State.tipWaiting (s : State) : Bool := s.tip.op = .latch && (!s.tip.called || decide (s.tip.due ≤ s.tm.tread + s.used TIPOL.CONVT))

/-- Give the bus to the next operation: a requested search where no transaction runs, then a due poll cycle (R431, R433). -/
def State.tipNext (s : State) : State :=
  if !s.tipOn then s
  else if s.tip.searchReq ∧ s.tip.search = none ∧ (s.tip.op = .idle ∨ s.tipWaiting) then s.tipSearch
  else if s.tip.op = .idle ∧ s.tip.pollReq then s.tipPoll
  else s

/-- Close the open Q53 block (R435). -/
def State.tipClose (s : State) : State :=
  if s.tip.recs = [] then s
  else (s.setTip { s.tip with recs := [] }).post 53 s.tip.recs.flatten

/-- The end of a search (R431); an interrupted poll cycle begins again from its LATCH. -/
def State.tipSearchEnd (s : State) : State :=
  let s := ((s.setTip { s.tip with search := none }).evt TIPOL.EVT.SRCHDONE).inc TIPOL.SRCHCNT
  (s.tipOp (if s.tip.polling then .latch else .idle)).tipNext

/-- The next branch of the stack, or the end of the search. -/
def State.tipBranch (s : State) : State :=
  match s.tip.search with
  | none => s
  | some x => match x.stack with
    | [] => s.tipSearchEnd
    | (lv, pre) :: r => (s.setTip { s.tip with search := some { x with stack := r, lv := lv, pre := pre, tries := 0 } }).tipOp .scan

/-- A branch failed: the same branch again, at most 3 times, then fault 49 and the end of the search (R431). -/
def State.tipFail (s : State) (x : TipSearch) : State :=
  if x.tries < 3 then ((s.setTip { s.tip with search := some { x with tries := x.tries + 1 } }).inc TIPOL.RETRYCNT).tipOp .scan
  else ((s.occur 49).evt TIPOL.EVT.SRCHFAIL).tipSearchEnd

/-- Push branches, the last of the list on top; one beyond 64 pending is dropped (R431). The flag says that one was. -/
def pushBranches : List (Nat × List Nat) → List (Nat × List Nat) → List (Nat × List Nat) × Bool
  | st, [] => (st, false)
  | st, b :: l => if st.length < 64 then pushBranches (b :: st) l else ((pushBranches st l).1, true)

/-- The walk of one SCAN from level `l` with `fuel` levels left: the nibbles so far and the siblings seen; none where
the branch fails (R431). -/
def scanWalk (lv : Nat) (pre : List Nat) (maps : List Word) : Nat → Nat → List Nat → List (Nat × List Nat) → Option (List Nat × List (Nat × List Nat))
  | 0, _, num, new => some (num, new)
  | fuel + 1, l, num, new =>
    let m := maps.getD l 0
    if l < lv then
      (if m.getLsbD (pre.getD l 0) then scanWalk lv pre maps fuel (l + 1) (num ++ [pre.getD l 0]) new else none)
    else match (List.range 16).find? (fun i => m.getLsbD i) with
      | none => none
      | some d => scanWalk lv pre maps fuel (l + 1) (num ++ [d])
          (new ++ ((List.range 16).filter (fun i => decide (d < i) && m.getLsbD i)).map (fun i => (l + 1, num ++ [i])))

/-- The registry holds the number. -/
def State.tipKnown (s : State) (num : Nat) : Bool :=
  (List.range 32).any (fun e => match s.tipNode e with | some n => n.num == num | none => false)

/-- `register` (R432): a new number takes the next free entry and its channel 15 is read; a 33rd node sets EVT.FULL;
otherwise the search goes on at once. -/
def State.tipRegister (s : State) (num : Nat) : State :=
  if s.tipKnown num then s.tipBranch
  else if s.tipCount = 32 then (s.evt TIPOL.EVT.FULL).tipBranch
  else
    let e := s.tipCount
    ((s.setNode e { (default : TipNode) with num := num }).evt TIPOL.EVT.FOUND).tipOp (.info e)

/-- Windows of slots that a SCAN takes (R431): 8 slots and 20 for each level, up to the map that ends it early, or 33. -/
def scanWindows (x : TipSearch) (maps : List Word) : Nat :=
  match (List.range 16).find? (fun n => (scanWalk x.lv x.pre maps (n + 1) 0 [] []).isNone) with
  | some n => (8 + 20 * n + 16 + 9) / 10
  | none => 33

/-- The SCAN in progress can end with these maps in this tread: at its call without an answer, else after its slots. -/
def State.scanOver (s : State) (maps : List Word) : Bool :=
  match s.tip.search with
  | none => false
  | some x => if s.tip.answered then decide (s.tip.due + scanWindows x maps ≤ s.tm.tread + 33) else decide (s.tip.due ≤ s.tm.tread)

/-- The end of a SCAN transaction (R431). (DEDUCED, log 113) -/
def State.tipScanEnd (s : State) (maps : List Word) : State :=
  match s.tip.search with
  | none => s
  | some x =>
    if s.tip.answered = false then (if x.first then s.tipSearchEnd else s.tipFail x)
    else match scanWalk x.lv x.pre maps 16 0 [] [] with
      | none => s.tipFail x
      | some (num, new) =>
        if numOk (nibbles num) = false then s.tipFail x
        else
          let (st, lost) := pushBranches x.stack new
          let s := if lost then s.occur 49 else s
          (s.setTip { s.tip with search := some { x with stack := st, first := false } }).tipRegister (nibbles num)

/-! ### Polling and reads (R433 to R435) -/

/-- The next entry of a poll cycle with a channel to fetch, or the cycle's end; a requested search comes first. -/
def State.tipEntry : List Nat → State → State
  | [], s => (((s.setTip { s.tip with polling := false, todo := [] }).tipClose).tipOp .idle).tipNext
  | e :: l, s => match ((s.tipNode e).map TipNode.polled).getD [] with
    | [] => State.tipEntry l s
    | k :: r => (s.setTip { s.tip with todo := l }).tipOp (.fetch e (k :: r))

/-- After an entry's last channel: a requested search takes the bus, else the next entry (R431, R433). -/
def State.tipReadDone (s : State) : State :=
  if s.tip.searchReq then s.tipSearch else State.tipEntry s.tip.todo s

/-- How a read ended (R435 STAT), with its tick in 1/32 µs. -/
inductive TipRead where
  | valid (v : Nat) (tick : Nat)
  | crc (tick : Nat)
  | none
deriving DecidableEq, Repr

/-- One bit into the CRC-4 of R428. -/
def tipCrc4Bit (c : Nat) (b : Bool) : Nat :=
  let fb := b != c.testBit 3
  let c := c * 2 % 16
  if fb then c ^^^ 0x9 else c

/-- The check nibble over symbols, each most significant bit first (R428). -/
def tipCrc4 (l : List Nat) : Nat :=
  (l.flatMap (fun v => [v.testBit 3, v.testBit 2, v.testBit 1, v.testBit 0])).foldl tipCrc4Bit 0xA

/-- A symbol from its pulse width, both in 1/65.536 µs (R429): the integer nearest q, accepted within 0.40. -/
def tipSymbol (wCal w : Nat) : Option Nat :=
  let q : Rat := (w * 40 : Nat) / (wCal : Rat) - 8
  let v := (q + 1 / 2).floor
  if (q - v) ≤ 2 / 5 ∧ (v - q : Rat) ≤ 2 / 5 ∧ 0 ≤ v ∧ v ≤ 15 then some v.toNat else Option.none

/-- A gap lies from 1 to 3 ticks (R429). -/
def tipGapOk (wCal g : Nat) : Bool := decide (wCal ≤ g * 40) && decide (g * 40 ≤ 3 * wCal)

/-- The decoder of R429 for a read of channel `k`. (DEDUCED, log 117) -/
def tipDecode (k : Nat) (f : TipolFrame) : TipRead :=
  if f.edge = false then .none
  else
    let tick := min 255 (roundRat ((f.wCal : Rat) * 1000 * 32 / (40 * 65536))).toNat
    if f.wCal * 10 < 58982 + 1 ∨ 98304 < f.wCal * 10 ∨ f.inTime = false ∨ f.gaps.length ≠ 5 ∨ f.widths.length ≠ 5 ∨
        f.gaps.all (tipGapOk f.wCal) = false then .crc tick
    else match f.widths.mapM (tipSymbol f.wCal) with
      | some [c, a, b, d, x] =>
        if c = k ∧ x = tipCrc4 [c, a, b, d] then .valid (a * 256 + b * 16 + d) tick else .crc tick
      | _ => .crc tick

/-- The Q53 record of a read (R435). -/
def State.tipRecord (s : State) (e k : Nat) (r : TipRead) : List Byte :=
  let x : Nat × Nat × Nat := match r with
    | .valid v t => (v, 0, t)
    | .crc t => (0, 1, t)
    | .none => (0, 2, 0)
  leBytes 4 s.tm.stn ++ leBytes 1 e ++ leBytes 1 k ++ leBytes 2 x.1 ++ leBytes 1 x.2.1 ++ leBytes 1 x.2.2 ++ leBytes 2 0

/-- Append a record to the open block, which closes at 10 records (R435). -/
def State.tipAppend (s : State) (b : List Byte) : State :=
  let s := s.setTip { s.tip with recs := s.tip.recs ++ [b] }
  if 10 ≤ s.tip.recs.length then s.tipClose else s

/-- The registry entry after a read of channel `k` (R432, R434, R437). (DEDUCED, log 116) -/
def TipNode.after (n : TipNode) (nmiss k : Nat) (r : TipRead) : TipNode :=
  let f := min 15 (n.fails + 1)
  let old := look n.vals k
  match r with
  | .valid v t => { n with fails := 0, missing := false, tick := t, vals := put n.vals k ⟨v, true, false, false⟩ }
  | .crc t => { n with fails := f, missing := n.missing || decide (nmiss ≤ f), tick := t, vals := put n.vals k { old with crc := true, norep := false } }
  | .none => { n with fails := f, missing := n.missing || decide (nmiss ≤ f), vals := put n.vals k { old with crc := false, norep := true } }

/-- The result of the channel 15 read of a new entry (R432). -/
def TipNode.withInfo (n : TipNode) (r : TipRead) : TipNode :=
  match r with
  | .valid v _ => { n with info := some v, chmap := chUpTo (min 14 (v % 16)) }
  | _ => { n with chmap := 1 }

/-- Counters, events and faults of a read, its record and its entry (R434, R435). -/
def State.tipRead (s : State) (e k : Nat) (r : TipRead) : State :=
  let n := (s.tipNode e).getD default
  let n' := n.after (s.used { TIPOL.NMISS with w := 4 }) k r
  let s := match r with
    | .valid _ _ => s
    | .crc _ => ((s.inc TIPOL.CRCCNT).evt TIPOL.EVT.CRC).occur 51
    | .none => s.inc TIPOL.NOREPCNT
  let s := if n'.missing ∧ n.missing = false then s.evt TIPOL.EVT.MISSING else s
  (s.tipAppend (s.tipRecord e k r)).setNode e n'

/-- A reply window (R425, R429): the read of the channel that is due ends. A further channel of the entry needs 12 slots
and its own reply window (R433). -/
def State.tipReply (s : State) (f : TipolFrame) : State :=
  if s.tip.called = false ∨ s.tm.tread < s.tip.due ∨ s.tipOn = false ∨ s.tm.idle = true then s
  else match s.tip.op with
    | .info e =>
      let s := s.tipWindow
      let r := tipDecode 15 f
      let s := s.tipRead e 15 r
      (s.setNode e (((s.tipNode e).getD default).withInfo r)).tipBranch
    | .fetch e (k :: l) =>
      let s := s.tipWindow
      let s := s.tipRead e k (tipDecode k f)
      if l = [] then s.tipReadDone else s.setTip { s.tip with op := .fetch e l, further := true, due := s.tm.tread + 3 }
    | _ => s

/-! ### Calls and the bus short (R425, R436) -/

/-- Abandon the operation in progress; it runs again from its start when the bus is free (R436). -/
def State.tipAbandon (s : State) : State :=
  (s.setTip { s.tip with searchReq := s.tip.searchReq || s.tip.search.isSome, search := none,
                         pollReq := s.tip.pollReq || s.tip.polling, polling := false, todo := [] }).tipOp .idle

/-- A sample of the line before it is driven, or the high check of a call (R436). -/
def State.tipSample (s : State) (high : Bool) : State :=
  let s := s.setTip { s.tip with low := if high then 0 else min 2 (s.tip.low + 1), high := if high then min 2 (s.tip.high + 1) else 0 }
  if s.tip.low = 2 ∧ s.bit TIPOL.STATUS.SHORTLIVE = false then
    (((s.cond 48 true).setB TIPOL.STATUS.SHORTLIVE true).evt TIPOL.EVT.SHORT).tipAbandon
  else if s.tip.high = 2 ∧ s.bit TIPOL.STATUS.SHORTLIVE = true then
    ((s.cond 48 false).setB TIPOL.STATUS.SHORTLIVE false).tipNext
  else s

/-- Treads from the call's window to the window that ends the first part of the transaction: SCAN 33 windows of slots,
PICK and FETCH 9 windows and a reply window, ALL and LATCH 2 windows and the CONVT wait (R431, R433). -/
def State.tipSpan (s : State) : Nat :=
  match s.tip.op with
  | .scan => if s.tip.answered then 33 else 0
  | .latch => 3 + s.used TIPOL.CONVT
  | _ => 10

/-- A call window (R425): one that no other operation has used, in a tread whose idle time does not run (R423). A call still low at
its high check is a low sample and is made again (R436). -/
def State.tipCall (s : State) (answer high : Bool) : State :=
  if s.tipOn = false ∨ s.tip.op = .idle ∨ s.tip.called ∨ s.tip.winAt = some s.tm.tread ∨ s.tm.idle = true then s
  else if high = false then s.tipWindow.tipSample false
  else
    let s := s.tipWindow.setTip { s.tipWindow.tip with called := true, answered := answer }
    s.setTip { s.tip with due := s.tm.tread + s.tipSpan }

/-! ### Hooks -/

/-- A shortened tread that drops risers of the window starts the transaction in progress again from its call (R424);
the CONVT wait is no transaction. -/
def State.tipSlip (s : State) : State :=
  match s.tip.op with
  | .idle => s
  | .latch => if s.tipWaiting then s else s.tipOp .latch
  | .fetch e _ => s.tipOp (.fetch e (((s.tipNode e).map TipNode.polled).getD []))
  | .info e => s.tipOp (.info e)
  | .scan => s.tipOp .scan

/-- Master clock 0 of a tread: the search of tread 1, the end of operations with EN = 0, the bus's next operation
(R431, R437). -/
def State.tipTread (s : State) : State :=
  let s := if s.tm.tread = 1 ∧ s.usedB TIPOL.CFG.AUTOSEARCH then s.setTip { s.tip with searchReq := true } else s
  if s.usedB TIPOL.CFG.EN then s.tipNext else if s.tip.op = .idle then s else s.tipAbandon

/-- A persisted image takes effect at master clock 0 of tread 1: its AUTOSEARCH says whether the search of that tread runs (R63, R431). -/
def State.tipAuto (s : State) (was : Bool) : State :=
  let now := s.usedB TIPOL.CFG.AUTOSEARCH
  if s.tm.tread ≠ 1 ∨ was = now then s
  else if now then (s.setTip { s.tip with searchReq := true }).tipNext
  else (s.setTip { s.tip with searchReq := false, search := none }).tipOp .idle

/-- Step 1 of a SLEEP entry: TPL is released and every bus operation stops (R424). -/
def State.tipStop (s : State) : State :=
  (s.setTip { s.tip with searchReq := false, search := none, pollReq := false, polling := false, todo := [] }).tipOp .idle

/-- Empty the registry; a search or poll in progress is ended first (R432, R437). -/
def State.tipClear (s : State) : State :=
  let s := if s.tip.search.isSome then ((s.setTip { s.tip with search := none }).evt TIPOL.EVT.SRCHDONE).inc TIPOL.SRCHCNT else s
  let s := if s.tip.polling then (s.setTip { s.tip with polling := false, todo := [] }).tipClose else s
  ((s.setTip { s.tip with nodes := [] }).tipOp .idle).tipNext

/-- CTRL.POLLNOW: a cycle at once, or after the one in progress (R433). -/
def State.tipPollNow (s : State) : State :=
  if s.usedB TIPOL.CFG.POLLEN then (s.setTip { s.tip with pollReq := true }).tipNext else s

/-- CTRL.SEARCH (R431). (DEDUCED, log 114) -/
def State.tipSearchReq (s : State) : State := (s.setTip { s.tip with searchReq := true }).tipNext

/-! ### Commands -/

/-- TIPOL_SHORT_SAMPLE (R436). -/
def execTipolShortSample (high : Bool) (s : State) : Host.Outcome State Fault Refusal :=
  whenActive [.tip] s fun s => s.when (s.usedB TIPOL.CFG.EN) (·.tipSample high)

/-- TIPOL_CALL (R425, R436). -/
def execTipolCall (answer high : Bool) (s : State) : Host.Outcome State Fault Refusal := whenActive [.tip] s fun s => s.tipCall answer high

/-- TIPOL_REPLY (R429, R434, R435). -/
def execTipolReply (f : TipolFrame) (s : State) : Host.Outcome State Fault Refusal := whenActive [.xact, .tip] s fun s => s.tipReply f

/-- SEARCH (R431). -/
def execSearch (s : State) : Host.Outcome State Fault Refusal := whenActive [.tip] s fun s => s.tipSearchReq

/-- SEARCH_TRANSACTION_END (R431, R432). -/
def execSearchTransactionEnd (maps : List Word) (s : State) : Host.Outcome State Fault Refusal :=
  if 16 < maps.length then .fault (.malformed "SEARCH_TRANSACTION_END: at most 16 maps")
  else whenActive [.tip] s fun s => s.when (s.tipOn && s.tip.op == .scan && s.tip.called && s.scanOver maps) (·.tipWindow.tipScanEnd maps)

/-- POLL_CYCLE_START (R433): PERIOD treads have passed since the last cycle was due. -/
def execPollCycleStart (s : State) : Host.Outcome State Fault Refusal :=
  whenActive [.tip] s fun s => s.when (s.usedB TIPOL.CFG.POLLEN && decide (s.tip.pollLast + s.used TIPOL.PERIOD ≤ s.tm.tread))
    fun s => (s.setTip { s.tip with pollReq := true, pollLast := s.tm.tread }).tipNext

/-- POLLNOW (R433). -/
def execPollnow (s : State) : Host.Outcome State Fault Refusal := whenActive [.tip] s fun s => s.tipPollNow

/-- CONVT_WAIT_END (R433): the reads of the cycle begin with the first entry. -/
def execConvtWaitEnd (s : State) : Host.Outcome State Fault Refusal :=
  whenActive [.xact, .tip] s fun s => s.when (s.tipOn && s.tip.op == .latch && s.tip.called && decide (s.tip.due ≤ s.tm.tread))
    fun s => State.tipEntry ((List.range 32).filter (fun e => (s.tipNode e).isSome)) s

/-- CLEARREG (R432). -/
def execClearreg (s : State) : Host.Outcome State Fault Refusal := whenActive [.xact, .tip] s fun s => s.tipClear

end Sys2Proof.Machine
end

