-- ==== Sys2Proof/Machine/Guard.lean ====
section
/-! DEFINITION. Guard.lean: the CFG stream and its guard, persisted configuration, tables and the certificate window
(19, R438 to R450). -/
namespace Sys2Proof.Machine

/-! ### The CFG stream (R438) -/

/-- The CFG masks of R467 by page: first word and masks; a word not listed is outside part 1 of the stream. -/
def cfgRows : Nat → List (Nat × List Nat)
  | 0x01 => [(0x0D, [0x0003])]
  | 0x04 => [(0x08, [0x003F, 0xFFFF, 0x03FF])]
  | 0x06 => [(0x08, [0xFFFF, 0xFFFF, 0xFFFF, 0xFFFF]), (0x14, [0x007F]), (0x20, (List.replicate 8 [0x87FF, 0xFF3F]).flatten)]
  | 0x07 => [(0x08, [0x003F, 0x01F7])]
  | 0x0C => [(0x01, [0x0003]), (0x08, [0x0001, 0x0077, 0xFFFF, 0xFFFF, 0xFFFF, 0xFFFF, 0xFFF3, 0xFFFF, 0x3FFF, 0xFFFF])]
  | 0x0D => [(0x08, List.replicate 16 0xBFFF), (0x38, [0x00FF, 0x00FF])]
  | 0x0E => [(0x08, List.replicate 16 0xBFFF), (0x38, [0x00FF, 0x00FF])]
  | 0x0F => [(0x08, [0x07FF, 0xFFFF, 0x0FFF, 0x07F1, 0xFFFF, 0xBFFF, 0xBFFF]), (0x20, List.replicate 24 0xFFFF)]
  | 0x10 => [(0x08, [0x0001, 0x003F, 0x00FF, 0x00FF, 0x000F, 0xFFFF, 0xFFFF])]
  | 0x12 => [(0x08, [0x003F]), (0x2D, [0x0001, 0x000F, 0xFFFF, 0xFFFF, 0x00FF, 0xFFFF, 0xFFFF, 0xFFFF])]
  | 0x13 => [(0x08, (List.replicate 8 [0xFFFF, 0x0307, 0xFFFF, 0]).flatten), (0x28, [0xFFFF, 0xFFFF, 0x000F, 0xFFFF, 0xFFFF, 0x000F, 0x001F, 0xFFFF, 0x00FF, 0xFFFF, 0x1FFF, 0xFFFF])]
  | 0x16 => [(0x09, [0x03FF])]
  | 0x17 => [(0x10, [0xFFFF, 0xFFFF, 0xFFFF, 0x7FFF, 0xFFFF, 0xFFFF, 0xFFFF, 0xFFFF, 0xFFFF, 0xFFFF, 0xFFFF, 0x3FFF, 0x02FF])]
  | 0x18 => [(0x08, [0xFFFF]), (0x20, [0x0001])]
  | 0x19 => [(0x08, [0x000F, 0xFFFF])]
  | 0x1A => [(0x08, [0x001F, 0xFFFF, 0x00FF, 0x000F])]
  | 0x1D => [(0x08, [0xFFF3, 0x03FF, 0x00FF, 0xFFFF, 0xFFFF, 0xFFFF, 0xFFFF])]
  | _ => []

/-- The CFG mask of a linear address. -/
def cfgMask (a : Nat) : Word := BitVec.ofNat 16 ((rowVal (cfgRows (a / 64)) (a % 64)).getD 0)

/-- The addresses of part 1, ascending. -/
def cfgAddrs : List Nat := (List.range 2048).filter (fun a => cfgMask a != 0)

/-- Part 1: each word ANDed with its mask. -/
def State.cfgWords (s : State) : List Word := cfgAddrs.map (fun a => s.reg a &&& cfgMask a)

/-- The CFG stream of part 1's words, the depths, the user trims (offset and gain) and TOFS. (DEDUCED, log 120) -/
def streamOf (words : List Word) (depth : Nat → Nat) (trim : Nat → Int × Int) (tofs : SMap (Option Int)) : List Byte :=
  wordBytes words ++ (List.range 64).map (fun q => BitVec.ofNat 8 (depth q)) ++
    (List.range 38).flatMap (fun ch => leInt 3 ((trim ch).1 / 256) ++ leInt 3 ((trim ch).2 / 256)) ++
    (List.range 36).flatMap (fun c => leInt 2 ((look tofs c).getD 0)) ++
    wordBytes ((List.range 3).map (fun w => BitVec.ofNat 16 (((List.range 16).map (fun b => if 16 * w + b < 36 ∧ (look tofs (16 * w + b)).isSome = true then 2 ^ b else 0)).sum)))

/-- The CFG stream of the present content. -/
def State.cfgStream (s : State) : List Byte :=
  streamOf s.cfgWords s.qDepth (fun ch => ((look s.cal.trims ch).o1, (look s.cal.trims ch).g1)) s.imp.tofs

/-- The check value of the present content. -/
def State.cfgCheck (s : State) : Nat := (crc32 s.cfgStream).toNat

/-- CFGGUARD.STREAMLEN. -/
def streamLen : Nat := 2 * cfgAddrs.length + 64 + 228 + 72 + 6

/-! ### Arming and defaulting (R439 to R441) -/

/-- The guard is ARMED. -/
def State.guardArmed (s : State) : Bool := s.get CFGGUARD.STATUS.STATE == 1

/-- RWL fields are read-only (R8, R439). -/
def State.rwLocked (s : State) : Bool := s.bit CFGGUARD.STATUS.RWLOCK

/-- A write to CFG-class data was refused (R440). -/
def State.wlock (s : State) : State := s.evt CFGGUARD.EVT.WLOCK

/-- A defaulting begins: the data follow at master clock 0 of the next tread, and RWL fields are locked from then on (R441). (DEDUCED,
log 118) -/
def State.cfgDefault (s : State) : State :=
  let s := { s with cfg := { s.cfg with defPend := true } }
  ((((s.set CFGGUARD.STATUS.STATE 2).setB CFGGUARD.STATUS.RWLOCK true).inc CFGGUARD.DEFCNT).evt CFGGUARD.EVT.DEFAULT).occur 56

/-- CFGGUARD.CTRL.ARM (R439): RWL fields lock whatever the outcome. -/
def State.cfgArm (s : State) : State :=
  let s := s.setB CFGGUARD.STATUS.RWLOCK true
  if s.get2 CFGGUARD.CRC0 = s.cfgCheck then (s.set CFGGUARD.STATUS.STATE 1).evt CFGGUARD.EVT.ARMED else s.cfgDefault

/-- CFGGUARD.CTRL.OPEN (R440). -/
def State.cfgOpen (s : State) : State := s.set CFGGUARD.STATUS.STATE 0

/-- A keyed command of CFGGUARD.CTRL. -/
def State.cfgKeyed (s : State) (key : Byte) (k : State → State) : State :=
  if key = 0xA5#8 then k s else s.evt CFGGUARD.EVT.KEYREJ

/-- What still waits for its instant once the CFG bits of every word are in use (R441, R443): AUX enables among them (R487). -/
def State.heldOther (s : State) : SMap (Option Word) :=
  s.held.filterMap (fun e =>
    let m := cfgMask e.1
    let w := (e.2.getD 0#16 &&& ~~~m) ||| (s.reg e.1 &&& m)
    if w = s.reg e.1 then none else some (e.1, some w))

/-- What follows when CFG words have changed at master clock 0: the settings are in use at once; chains restart and
integrations abort where FINE or COUNT changed; a current channel whose gain or enable changed restarts; queues whose QEN bit is now 0
discard, and one whose depth shrank drops to fit; a change of EXTFET ends every mode, those just written too; EN = 0 of a subscription ends fault 30; the fault classes are set directly, and the cause CLASS follows them (R80, R89, R108, R116, R122, R184, R210, R232, R305, R306, R361). -/
def State.cfgApplied (s : State) (old : State) : State :=
  let s := { s with held := s.heldOther, cells := { s.cells with finePend := none }, xact := { s.xact with depthUse := [] } }
  let s := forEach (List.range 64) (fun (q : Nat) (s : State) => if s.qEnabled q then s.qFit q else s.discardWaiting q) s
  let s := if s.reg CELLCFG.FINE.OSR.addr = old.useReg CELLCFG.FINE.OSR.addr ∧ s.count = old.count then s
    else (({ s with curr := { s.curr with own := [] } }).restartAll (s.absClk 0)).impAbort false
  let s := if s.get CURR.CSCFG.GAINA = old.used CURR.CSCFG.GAINA ∧ s.bit CURR.CTRL.CSAEN = old.usedB CURR.CTRL.CSAEN then s else s.restartChain 36 (s.absClk 0) false
  let s := if s.get CURR.CSCFG.GAINB = old.used CURR.CSCFG.GAINB ∧ s.bit CURR.CTRL.CSBEN = old.usedB CURR.CTRL.CSBEN then s else s.restartChain 37 (s.absClk 0) false
  let s := forEach (List.range 8) (fun (k : Nat) (s : State) => if s.laneEn k then s else s.laneOff k) s
  let s := forEach [Conv.a, Conv.b] (fun (c : Conv) (s : State) =>
    if s.get (c.fld AUXA.PERIOD) = old.get (c.fld AUXA.PERIOD) then s else s.setConv c { s.conv c with regrid := true }) s
  let s := if s.get GAL.EPOCH = old.get GAL.EPOCH ∨ s.tm.tread = 0 then s else s.setGal { s.gal with epochUse := some old.epochMin }
  let s := if s.extFet = old.extFet then s else forEach ((List.range 36).map (· + 1)) (fun (n : Nat) (s : State) => s.balOff n) { s with bal := { s.bal with pend := [] } }
  let s := if s.imp.tofs = old.imp.tofs then s else s.impNewer
  let s := if s.get { IMP.TCFG.TLANE with w := 8 } = old.get { IMP.TCFG.TLANE with w := 8 } then s else s.tempsNone
  ((((((((((s.classesDirect.classGone.fineStatus).portsAdopt.linkStatus.eyeEval.crcEval).planEval).errStatus).galStatus).fault28).fault31).excTrim s.newestClk).impStatus).currWords).subEnd.currStatus

/-- The defaulting at master clock 0 (R441). -/
def State.cfgDefaultNow (s : State) : State :=
  if s.cfg.defPend = false then s
  else
    let old := s
    let s := forEach cfgAddrs (fun (a : Nat) (s : State) => s.setReg a ((s.reg a &&& ~~~cfgMask a) ||| (resetWord a &&& cfgMask a))) s
    let s := { s with cfg := { s.cfg with defPend := false }, xact := { s.xact with depth := [] }, imp := { s.imp with tofs := [] } }
    let s := forEach (List.range 38) (fun (ch : Nat) (s : State) => s.trimTo ch 0 0) s
    s.cfgApplied old

/-- CFGGUARD.CALC at master clock 0 (R438). -/
def State.cfgTread (s : State) : State := { s with cfg := { s.cfg with calcNow := s.cfgCheck } }

/-- Every 16 treads while ARMED, the check value is compared with CRC (R441). (DESIGN CHOICE, log 133) -/
def State.cfgRecheck (s : State) : State :=
  if s.guardArmed && decide (s.tm.ltc % 16 = 0) && decide (s.get2 CFGGUARD.CRC0 ≠ s.cfgCheck) then s.cfgDefault else s

/-! ### Persisted configuration (R442, R443, R63) -/

/-- The image that PERSIST stores: the present content, armed, with the SAFE candidates and the tables in use. (DEDUCED, log 119) -/
def State.cfgImage (s : State) : CfgImage :=
  let c := s.candWords
  let k := (crc32 (wordBytes c)).toNat
  { words := cfgAddrs.foldl (fun (m : SMap Word) a => put m a (s.reg a &&& cfgMask a)) [],
    depths := (List.range 64).foldl (fun (m : SMap Nat) q => put m q (s.qDepth q)) [],
    trims := (List.range 38).foldl (fun (m : SMap (Int × Int)) ch => put m ch ((look s.cal.trims ch).o1, (look s.cal.trims ch).g1)) [],
    tofs := s.imp.tofs, check := s.cfgCheck, arm := true, safe := c ++ [BitVec.ofNat 16 k, BitVec.ofNat 16 (k / 65536)],
    tables := (List.range 8).foldl (fun (m : SMap (List Word)) t => if look s.cfg.tblState t = .valid then put m t (look s.cfg.tblRaw t) else m) [] }

/-- The stream a persisted image holds. -/
def CfgImage.stream (i : CfgImage) : List Byte := streamOf (cfgAddrs.map (look i.words)) (look i.depths) (look i.trims) i.tofs

/-- Bytes 1,024 to 4,095 of the slot sector: VER, flags, LEN, the check word, the stream filled up to 1,536 bytes, the SAFE
candidates, seven tables of 136 bytes, zeros, and the CRC-32 of what stands before it (R442). -/
def CfgImage.bytes (i : CfgImage) : List Byte :=
  let fill := fun (n : Nat) (l : List Byte) => l.take n ++ List.replicate (n - l.length) 0
  let b := leBytes 1 1 ++ leBytes 1 ((if i.arm then 1 else 0) + if i.safe = [] then 0 else 2) ++ leBytes 2 i.stream.length ++
    leBytes 4 i.check ++ fill 1536 i.stream ++ fill 24 (wordBytes i.safe) ++
    (List.range 7).flatMap (fun k => fill 136 (wordBytes (look i.tables (k + 1)))) ++ List.replicate 548 0
  b ++ leBytes 4 (crc32 b).toNat

/-- CFGGUARD.CTRL.PERSIST: accepted only while ARMED with the flash READY. -/
def State.persist (s : State) : State :=
  if s.guardArmed && s.flState == 1 then
    { s with cfg := { s.cfg with persist := some (some s.cfgImage) }, cal := { s.cal with commitDue := true } }
  else s.evt CFGGUARD.EVT.PFAIL

/-- CFGGUARD.CTRL.UNPERSIST: a slot commit without an image. -/
def State.unpersist (s : State) : State :=
  { s with cfg := { s.cfg with persist := some none }, cal := { s.cal with commitDue := true } }

/-! ### Tables (R444 to R446) -/

/-- Word `i` of a table. -/
def tblWord (l : List Word) (i : Nat) : Nat := (l.getD i 0).toNat

/-- x is compared as a signed value (R448). -/
def tblSignedX (t : Nat) : Bool := t == 2 || t == 4 || t == 5

/-- The points of a table's words. -/
def tblPoints (l : List Word) : List (Nat × Nat) :=
  (List.range (tblWord l 1 % 64)).map (fun i => (tblWord l (2 + 2 * i), tblWord l (3 + 2 * i)))

/-- The table is valid for slot `t` (R445). -/
def tblValid (t : Nat) (l : List Word) : Bool :=
  let n := tblWord l 1 % 64
  let x := fun (p : Nat × Nat) => if tblSignedX t then signed 16 p.1 else (p.1 : Int)
  decide (tblWord l 0 / 256 = t) && decide (1 ≤ n ∧ n ≤ 32) && rising ((tblPoints l).map x) &&
    decide ((crc32 (wordBytes (l.take (2 + 2 * n)))).toNat = tblWord l 66 + 65536 * tblWord l 67)

/-- Fault 57, and what depends on a table in use. -/
def State.tblFollow (s : State) (t : Nat) : State :=
  let s := s.cond 57 ((List.range 8).any (fun k => look s.cfg.tblState k == .bad))
  ((s.edgeChange t).fineStatus).fault31

/-- Where table 0x02 is among those that changed, the duty limit of this tread follows it at once (R221, R446), the duties as long as
no balancing riser has begun. (DEDUCED, log 180) -/
def State.tblLimit (s : State) (l : List Nat) : State := if l.contains 2 then s.derate.dutyLimit else s

/-- A valid table stands in its slot. -/
def State.tblPut (s : State) (t : Nat) (l : List Word) : State :=
  { s with cfg := { s.cfg with tblState := put s.cfg.tblState t .valid, tblPts := put s.cfg.tblPts t (tblPoints l), tblRaw := put s.cfg.tblRaw t l } }

/-- What a new table brings with it; a new table 0x06 sets NONE on every cell temperature (R203). -/
def State.tblNew (s : State) (t : Nat) : State :=
  let s := s.tblFollow t
  if t = 6 then s.tempsNone else s

/-- Put a valid table into use. -/
def State.tblUse (s : State) (t : Nat) (l : List Word) : State := (s.tblPut t l).tblNew t

/-- Make a table absent or BAD. -/
def State.tblDrop (s : State) (t : Nat) (st : TblState) : State :=
  ({ s with cfg := { s.cfg with tblState := put s.cfg.tblState t st, tblPts := put s.cfg.tblPts t [], tblRaw := put s.cfg.tblRaw t [] } }).tblFollow t

/-- TABLE.TSEL and TABLE.TPTR. -/
def State.tsel (s : State) : Nat := s.get { TABLE.TSEL with w := 3 }
def State.tptr (s : State) : Nat := s.get { TABLE.TPTR with w := 7 }

/-- STATUS: STAGED and ADOPTPEND (R457). -/
def State.tblStatus (s : State) : State :=
  (s.setB TABLE.STATUS.STAGED (!s.cfg.stage.isEmpty)).setB TABLE.STATUS.ADOPTPEND (!s.cfg.adopt.isEmpty)

/-- TABLE.TSTATE of table `k` (R457). -/
def State.tstateOf (s : State) (k : Nat) : Nat :=
  match look s.cfg.tblState k with
  | .bad => 3
  | .valid => 2
  | .absent => if (look s.cfg.adopt k).isSome || (!s.cfg.stage.isEmpty && s.tsel == k) then 1 else 0

/-- TABLE.TSTATE. -/
def State.tstate (s : State) : Nat := ((List.range 7).map (fun k => s.tstateOf (k + 1) * 4 ^ k)).sum

/-- A write of TABLE.TSEL: staged words are discarded (R446). -/
def State.tselWrite (s : State) (v : Word) : State :=
  if v.toNat % 8 = 0 then s.evt TABLE.EVT.CFGREJ
  else (({ s with cfg := { s.cfg with stage := [] } }).set { TABLE.TSEL with w := 3 } (v.toNat % 8)).tblStatus

/-- A write of TABLE.TPTR. -/
def State.tptrWrite (s : State) (v : Word) : State :=
  if 67 < v.toNat % 128 then s.evt TABLE.EVT.CFGREJ else s.set { TABLE.TPTR with w := 7 } (v.toNat % 128)

/-- The word a read of TABLE.TDATA returns: the word in use. -/
def State.tdataShown (s : State) : Word :=
  if look s.cfg.tblState s.tsel = .valid ∧ s.tptr < 68 then (look s.cfg.tblRaw s.tsel).getD s.tptr 0 else 0

/-- An access to TABLE.TDATA: a staged word or a read, advancing TPTR up to 68 (R446). -/
def State.tdata (s : State) (wr : Option Word) : State :=
  if 67 < s.tptr then s.evt TABLE.EVT.CFGREJ
  else
    let s := match wr with
      | some v => { s with cfg := { s.cfg with stage := put s.cfg.stage s.tptr (some v) } }
      | none => s
    (s.set { TABLE.TPTR with w := 7 } (s.tptr + 1)).tblStatus

/-- TABLE.CTRL.CHECK (R446). -/
def State.tblCheck (s : State) : State :=
  let l := (List.range 68).map (fun i => (look s.cfg.stage i).getD 0)
  let s1 := { s with cfg := { s.cfg with stage := [] } }
  if tblValid s.tsel l then
    ({ s1 with cfg := { s1.cfg with adopt := put s.cfg.adopt s.tsel (some l), adoptAt := s.tm.tread } }).tblStatus
  else (s1.evt TABLE.EVT.REFUSE).tblStatus

/-- TABLE.CTRL.DEL: absent at the next tread; an adoption still pending for the table goes with it. (DEDUCED, log 121) -/
def State.tblDel (s : State) : State :=
  ({ s with cfg := { s.cfg with del := put s.cfg.del s.tsel true, adopt := put s.cfg.adopt s.tsel none } }).tblStatus

/-- Deletions at master clock 0. -/
def State.tblTread (s : State) : State :=
  let l := s.cfg.del
  forEach l (fun (e : Nat × Bool) (s : State) => s.tblDrop e.1 .absent) { s with cfg := { s.cfg with del := [] } }

/-- Adoption at master clock 0 of a checked table (R446). -/
def State.tblAdopt (s : State) : State :=
  if s.tm.tread ≤ s.cfg.adoptAt then s
  else
    let l := s.cfg.adopt
    let s := { s with cfg := { s.cfg with adopt := [] } }
    (forEach l (fun (e : Nat × Option (List Word)) (s : State) => match e.2 with
      | some w => (s.tblUse e.1 w).evt TABLE.EVT.ADOPT
      | none => s) s).tblStatus.tblLimit (l.map (·.1))

/-- The recheck of every valid table: `bad` are the IDs less one whose CRC fails (R445). (DESIGN CHOICE, log 133) -/
def State.tblRecheck (s : State) (bad : List (Fin 7)) : State :=
  if s.tm.ltc % 16 ≠ 0 then s
  else
    let l := (bad.map (fun (k : Fin 7) => k.val + 1)).filter (fun t => decide (look s.cfg.tblState t = .valid))
    (forEach l (fun (t : Nat) (s : State) => (s.tblDrop t .bad).evt TABLE.EVT.BAD) s).tblLimit l

/-! ### Loading a persisted image (R63, R443, R259) -/

/-- The SAFE block as a commit at this master clock 0 (R259): a watchdog it starts has passed the tread start in progress
(R267). -/
def State.safeLoad (s : State) (l : List Word) : State :=
  if l = [] then s
  else
    let s := forEach (l.take 10).zipIdx (fun (p : Word × Nat) (s : State) => s.setReg (SAFE.NEWOVLIM.plus p.2).addr p.1) s
    let s := (s.set SAFE.TCRC0 (l.getD 10 0).toNat).set SAFE.TCRC1 (l.getD 11 0).toNat
    let r := s.tightResult
    let s := s.set SAFE.TRESULT.word r.2
    if r.1 then
      let late := s.safe.wd.isNone
      let s := (s.setLimits s.candWords).evt SAFE.EVT.TACC
      if late then { s with safe := { s.safe with wd := s.safe.wd.map (· - 1) } } else s
    else s.copyCands.evt SAFE.EVT.TREJ

/-- A persisted image takes effect at this master clock 0: stream and tables in one, SAFE block, then the check word (R63, R443); its
user trims come in by the ramp of R163, of which this tread is the first. -/
def State.cfgLoad (s : State) (i : CfgImage) : State :=
  let old := s
  let s := forEach cfgAddrs (fun (a : Nat) (s : State) => s.setReg a ((s.reg a &&& ~~~cfgMask a) ||| (look i.words a &&& cfgMask a))) s
  let s := { s with xact := { s.xact with depth := (List.range 64).foldl (fun (m : SMap (Option Nat)) q => put m q (some (look i.depths q))) [] },
                    imp := { s.imp with tofs := i.tofs } }
  let s := forEach (List.range 38) (fun (ch : Nat) (s : State) => s.trimTo ch (look i.trims ch).1 (look i.trims ch).2) s
  let s := { s with cal := { s.cal with trims := (List.range 38).foldl (fun (m : SMap Ramp) ch => adj m ch Ramp.step) s.cal.trims } }
  let s := forEach i.tables (fun (e : Nat × List Word) (s : State) => if tblValid e.1 e.2 then s.tblPut e.1 e.2 else s) s
  let s := (s.cfgApplied old).cfgTread
  let s := forEach i.tables (fun (e : Nat × List Word) (s : State) => if tblValid e.1 e.2 then s.tblNew e.1 else s.occur 57) s
  let s := (s.tblLimit (i.tables.map (·.1))).safeLoad i.safe
  let s := (s.setB SYS.STATUS.CFGLOAD true).setB CFGGUARD.STATUS.PLOADED true
  if s.cfgCheck ≠ i.check then s.cfgDefault
  else if i.arm then ((((s.set CFGGUARD.STATUS.STATE 1).setB CFGGUARD.STATUS.RWLOCK true).set2 CFGGUARD.CRC0 i.check).evt CFGGUARD.EVT.ARMED)
  else s

/-! ### Rows -/

/-- CFG_ARM (R439, R441). -/
def execCfgArm (key : Byte) (s : State) : Host.Outcome State Fault Refusal := whenActive [.cfg] s fun s => s.cfgKeyed key State.cfgArm

/-- CFG_OPEN (R440). -/
def execCfgOpen (key : Byte) (s : State) : Host.Outcome State Fault Refusal := whenActive [] s fun s => s.cfgKeyed key State.cfgOpen

/-- PERSIST (R442). -/
def execPersist (key : Byte) (s : State) : Host.Outcome State Fault Refusal := whenActive [.cal, .safe, .cfg] s fun s => s.cfgKeyed key State.persist

/-- UNPERSIST (R442). -/
def execUnpersist (key : Byte) (s : State) : Host.Outcome State Fault Refusal := whenActive [.cal, .safe, .cfg] s fun s => s.cfgKeyed key State.unpersist

/-- CFG_GUARD_CHECK (R441). -/
def execCfgGuardCheck (s : State) : Host.Outcome State Fault Refusal := whenActive [.cfg] s fun s => s.cfgRecheck

/-- TDATA_ACCESS (R446). -/
def execTdataAccess (wr : Option Word) (s : State) : Host.Outcome State Fault Refusal := whenActive [.cfg] s fun s => s.tdata wr

/-- TSEL_WRITE (R446). -/
def execTselWrite (v : Word) (s : State) : Host.Outcome State Fault Refusal := whenActive [.cfg] s fun s => s.tselWrite v

/-- TABLE_CHECK (R445, R446). -/
def execTableCheck (s : State) : Host.Outcome State Fault Refusal := whenActive [.cfg] s fun s => s.tblCheck

/-- TABLE_DEL (R446). -/
def execTableDel (s : State) : Host.Outcome State Fault Refusal := whenActive [.cfg] s fun s => s.tblDel

/-- TABLE_ADOPT (R446). -/
def execTableAdopt (s : State) : Host.Outcome State Fault Refusal := whenActive [.bal, .imp, .gal, .cfg] s fun s => s.tblAdopt

/-- TABLE_RECHECK (R445). -/
def execTableRecheck (bad : List (Fin 7)) (s : State) : Host.Outcome State Fault Refusal := whenActive [.bal, .imp, .gal, .cfg] s fun s => s.tblRecheck bad

/-- CONFIG_LOAD (R63, R443): an image whose region CRC fails is no image. -/
def execConfigLoad (regionOk : Bool) (s : State) : Host.Outcome State Fault Refusal :=
  whenActive [.held, .cells, .curr, .cal, .bal, .xact, .aux, .imp, .safe, .col, .link, .gal, .cfg, .tip] s fun s =>
    match s.cfg.image with
    | some i =>
      if s.cfg.imageDone && decide (1 ≤ s.tm.tread) then
        let s := { s with cfg := { s.cfg with image := none } }
        if regionOk then (s.cfgLoad i).tipAuto (s.usedB TIPOL.CFG.AUTOSEARCH) else s
      else s
    | none => s

/-- The certificate word at CERTPTR (R455). -/
def State.certShown (s : State) : Word := look s.vault.cert (s.get { IDENT.CERTPTR with w := 9 })

/-- CERTPTR advances within its 9 bits. (DEDUCED, log 122) -/
def State.certAdvance (s : State) : State := s.set { IDENT.CERTPTR with w := 9 } (s.get { IDENT.CERTPTR with w := 9 } + 1)

/-- CERTDATA_READ (R455, R464). -/
def execCertdataRead (s : State) : Host.Outcome State Fault Refusal := whenActive [] s fun s => s.certAdvance

end Sys2Proof.Machine
end

