-- ==== Sys2Proof/Machine/AuxRows.lean ====
section
/-! DEFINITION. AuxRows.lean: the rows of the auxiliary converters (06): passes, ends of conversions and what they feed,
urgent requests. -/
namespace Sys2Proof.Machine

/-- A pass of converter `c` is due at master clock 0 of tread `n` (R134, R485, R486). (DEDUCED, log 58) -/
def State.passDue (s : State) (c : Conv) (n : Nat) : Bool :=
  let x := s.conv c
  let p := s.get (c.fld AUXA.PERIOD) % 256
  s.auxOn c && (x.regrid || x.late || (match x.base with
    | none => true
    | some b => if p = 0 then !x.passOn else decide (b < n) && decide ((n - b) % p = 0)))

/-- A pass of converter `c` is due at the next master clock 0, with a written CTRL.EN in use from then on (R134, R485). -/
def State.passNext (s : State) (c : Conv) : Bool :=
  (s.release (· == (c.fld AUXA.CTRL.EN).addr)).passDue c (s.tm.tread + 1) && !(s.conv c).passOn

/-- AUX_POWER_UP: 99 modulator clocks before the pass (R134). -/
def execAuxPowerUp (c : Conv) (s : State) : Host.Outcome State Fault Refusal :=
  whenActive [] s fun s => s.when (s.passNext c) fun s => s.setB (c.fld AUXA.STATUS.PWR) true

/-- A due pass at master clock 0: it begins, or is delayed while another runs or the converter is under calibration
(R134, R149, R486). -/
def State.passStart (s : State) (c : Conv) : State :=
  if s.passDue c s.tm.tread = false then s
  else
    let x := s.conv c
    if x.passOn && x.regrid then s
    else if x.passOn || s.auxCal c then
      if x.late then s else (s.setConv c { x with late := true }).evt (c.fld AUXA.EVT.OVERRUN)
    else
      let s := s.setConv c { x with base := if x.regrid || x.base.isNone then some s.tm.tread else x.base }
      let s := s.passBegin c false 0
      if (s.conv c).urg.isSome then s.auxStatus c false true else State.advance 40 s c 0

/-- AUX_PASS_START. -/
def execAuxPassStart (c : Conv) (s : State) : Host.Outcome State Fault Refusal := whenActive [.held, .xact, .aux] s fun s => s.passStart c

/-- QUIET_ENTRY_START: a waiting quiet entry begins its settling time at master clock 0 (R135). -/
def execQuietEntryStart (c : Conv) (s : State) : Host.Outcome State Fault Refusal :=
  whenActive [.held, .xact, .aux] s fun s => s.when (s.bit (c.fld AUXA.STATUS.QWAIT) && (s.conv c).urg.isNone && !s.auxCal c) fun s => State.advance 40 s c 0

/-- What a new result of channel word `w` feeds in the safety processor (R260, R264). -/
def State.auxFeed (s : State) (c : Conv) (w : Word) (d : Rat) (r : AuxRes) : State :=
  let sel := eSel w
  let s := if eType w = 0 ∧ 0x20 ≤ sel ∧ sel ≤ 0x2B then s.ntcEval (sel - 0x20) r (s.auxCorr c 6 d 0 0) (s.auxCal c) else s
  if w.toNat % 256 = 0xC0 then s.dieEval else s

/-- The end of a running sequence conversion, on the modulator samples of its OSR clocks. -/
def State.convEnd (s : State) (c : Conv) (l : List Int) (clk : Nat) : State :=
  let x := s.conv c
  match x.todo with
  | i :: _ =>
    let w := s.itemWord x i
    if x.busy && x.urg.isNone && !s.auxCal c && l.length == auxOsr (eOsr w) then
      ((s.seqEnd c (triMean l) clk).auxFeed c w (triMean l) (s.auxConvert c w (triMean l))).spanFeed
    else s
  | [] => s

/-- AUX_CONVERSION_END (R126 to R138, R143, R264). -/
def execAuxConversionEnd (c : Conv) (samples : List Int) (clk : Fin 4096) (s : State) : Host.Outcome State Fault Refusal :=
  whenActive [.held, .bal, .xact, .aux, .diag, .safe, .ban] s fun s => s.convEnd c samples clk.val

/-- SHARED_STALE: no shared comparison for 4 × WIN treads (R144). -/
def execSharedStale (s : State) : Host.Outcome State Fault Refusal :=
  whenActive [.aux, .safe, .ban] s fun s => s.when (decide (4 * s.used AUXCTL.SHCFG.WIN ≤ s.tm.tread - s.aux.shLast)) fun s =>
    ({ s with aux := { s.aux with shStale := true } }).fault15.sf6Update

/-- CROSS_COMPARE (R146, R147). -/
def execCrossCompare (c : Conv) (s : State) : Host.Outcome State Fault Refusal := whenActive [.aux, .safe, .ban] s fun s => (s.crossCompare c).sf6Update

/-- A host request for converter `c` (R139). A disabled converter takes none (DEDUCED, log 59) -/
def State.hostUrgent (s : State) (c : Conv) : State :=
  let w := s.reg (match c with | .a => AUXCTL.URGA | .b => AUXCTL.URGB).addr
  let c := s.urgRoute c
  if s.auxOn c then s.urgRequest c ⟨3, w, false⟩ else s.evt AUXCTL.EVT.URGREJ

/-- A write of AUXCTL.URGREQ: REQA, then REQB. -/
def State.urgReq (s : State) (v : Word) : State :=
  let s := if v.getLsbD 0 then s.hostUrgent .a else s
  if v.getLsbD 1 then s.hostUrgent .b else s

/-- URGREQ (R139, R140). -/
def execUrgreq (v : Word) (s : State) : Host.Outcome State Fault Refusal := whenActive [.bal, .aux, .diag] s fun s => s.urgReq v

/-- What an urgent result does for its requester (R142, R239, R243, R263, R269). -/
def State.urgFeed (s : State) (q : UrgReq) (r : AuxRes) : State :=
  let n := eSel q.word
  match q.who, eType q.word with
  | 1, _ => s.confJudge n q.ov r
  | 2, 1 => s.procResult (n - 1) q.ov r
  | 2, 2 => (s.spanVerdict n r).fallJudge n r
  | _, _ => s

/-- The end of the running urgent conversion, on the modulator samples of its OSR clocks. -/
def State.urgentEnd (s : State) (c : Conv) (l : List Int) (clk : Nat) : State :=
  if (match (s.conv c).urg with | some q => l.length == auxOsr (eOsr q.word) | none => false) then
    match s.urgEnd c (triMean l) clk with
    | (t, some (q, r)) => (((t.urgFeed q r).auxFeed c q.word (triMean l) r).spanFeed).sf6Update
    | (t, none) => t
  else s

/-- URGENT_CONVERSION_END (R142). -/
def execUrgentConversionEnd (c : Conv) (samples : List Int) (clk : Fin 4096) (s : State) : Host.Outcome State Fault Refusal :=
  whenActive [.held, .bal, .xact, .aux, .diag, .safe, .ban] s fun s => s.urgentEnd c samples clk.val

/-- With both converters disabled, AUX-A converts die temperature at master clock 0 of every sixteenth tread (R136), with the SETTLE of
the last pass begun (DEDUCED, log 181). -/
def State.dieAlone (s : State) : State :=
  let x := s.aux.a
  if s.auxOn .a || s.auxOn .b || decide (s.tm.ltc % 16 ≠ 0) || x.busy || s.auxCal .a then s
  else (s.setConv .a { x with todo := [17], settle := s.used AUXA.SETTLE, rsm := false, busy := x.urg.isNone }).auxStatus .a false true

/-- A written CTRL.EN takes effect at master clock 0: a pass in progress ends at once without a result, or the first
pass begins, delayed by a calibration with OVERRUN (R149, R485, R487). A pending urgent request stays: a confirmation goes where it now
runs, another follows at once unless an urgent entry still runs (R139). When that disables the second converter, the
die-temperature conversion of a sixteenth tread begins (R136). -/
def State.auxEnable (s : State) (c : Conv) : State :=
  let was := s.auxOn c
  let s := s.release (· == (c.fld AUXA.CTRL.EN).addr)
  let x := s.conv c
  if s.auxOn c = was then s
  else if was then
    let s := (s.setConv c { x with passOn := false, busy := false, todo := [], rsm := false, late := false, regrid := false, base := none, rr := none, urgPend := none }).auxStatus c false x.urg.isSome
    let s := match x.urgPend with
      | none => s
      | some q => if q.who = 1 then s.confRequest (eSel q.word) q.ov
        else if x.urg.isSome then s.setConv c { s.conv c with urgPend := some q } else s.urgStart c q
    s.confFeed.fault15.sf6Update.dieAlone
  else
    let s := s.fault15
    if s.auxCal c then ((s.setConv c { x with todo := [], busy := false, late := true }).evt (c.fld AUXA.EVT.OVERRUN)).confFeed.sf6Update
    else
      let s := ((s.setConv c { x with base := some s.tm.tread, todo := [], busy := false }).passBegin c false 0).confFeed
      (if (s.conv c).urg.isSome then s.auxStatus c false true else State.advance 40 s c 0).sf6Update

/-- AUX_ENABLE_CHANGE (R487). -/
def execAuxEnableChange (c : Conv) (s : State) : Host.Outcome State Fault Refusal := whenActive [.held, .bal, .xact, .aux, .diag, .safe, .ban] s fun s => s.auxEnable c

/-- Fault 15 for want of a comparison ends where a larger WIN lets more treads pass (R144). -/
def State.staleEnd (s : State) : State :=
  if s.aux.shStale && decide (s.tm.tread - s.aux.shLast < 4 * s.used AUXCTL.SHCFG.WIN) then
    ({ s with aux := { s.aux with shStale := false } }).fault15.sf6Update
  else s

/-- The converters at master clock 0 (R136, R144). -/
def State.auxTread (s : State) : State := s.staleEnd.dieAlone

/-- The converters at a start: each enabled one begins its first pass at master clock 0 of tread 0 (R59, R485). -/
def State.auxArm (s : State) : State :=
  (forEach [Conv.a, Conv.b] (fun (c : Conv) (s : State) =>
    if s.auxOn c then State.advance 40 ((s.setConv c { s.conv c with base := some 0 }).passBegin c true 0) c 0 else s) s).fault15

end Sys2Proof.Machine
end

