-- ==== Sys2Proof/Machine/Power.lean ====
section
/-! DEFINITION. Power.lean: supplies, resets, the start sequence, SLEEP and waking (03), the end of flash discovery and
of flushes, and the life-cycle (19, R451 to R454). -/
namespace Sys2Proof.Machine

/-! ### Resets (R66, R67) -/

/-- POWER_ON_RESET (R66): the always-on domain is cleared. -/
def execPowerOnReset (s : State) : Host.Outcome State Fault Refusal := .next (s.keep (s.afterReset true 1))

/-- BROWN_OUT_RESET (R57, R66). -/
def execBrownOutReset (s : State) : Host.Outcome State Fault Refusal :=
  .next (if s.powered then s.afterReset false 2 else s)

/-- PIN_RESET (R66): RSTN low; a sleeping device waits for its rising edge (R72). -/
def execPinReset (s : State) : Host.Outcome State Fault Refusal :=
  .next (
    let s := { s with pw := { s.pw with rstnLow := true } }
    match s.pw.phase with
    | .sleep => s
    | .off => { s with pw := { s.pw with causes := s.pw.causes ||| 4 } }
    | _ => s.afterReset false 4)

/-- THERMAL_SHUTDOWN (R57): die temperature in 0.0625 °C; held from 150 °C until below 135 °C. -/
def execThermalShutdown (die : Int) (s : State) : Host.Outcome State Fault Refusal :=
  .next (
    if 2400 ≤ die ∧ s.powered = true then ({ s with pw := { s.pw with thermHold := true } }).afterReset false 16
    else if die < 2160 then { s with pw := { s.pw with thermHold := false } }
    else s)

/-! ### Supervisors (R53, R57) -/

/-- SYS.SUPPLY (R74) as the supervisors stand. -/
def State.supplyWord (s : State) : Nat :=
  let b := fun (i : Nat) (x : Bool) => if x then 2 ^ i else 0
  let on := s.powered
  b 0 (on && !s.pw.vstkLow && !s.pw.vstkHigh) + b 1 s.pw.vauxOk + b 2 s.pw.vauxOk + b 3 (on && !s.pw.buckStopped) + b 4 (decide (s.pw.phase = .active)) +
    b 5 (on && !s.pw.railBad.testBit 0) + b 6 (on && !s.pw.railBad.testBit 1) + b 7 (on && !s.pw.railBad.testBit 2) + b 8 (on && !s.pw.senLdoBad) +
    b 9 (decide (s.pw.phase = .active))

/-- Faults 52, 53 and 55, and the SF6 inputs of the rails. -/
def State.supplyFaults (s : State) : State :=
  (((s.cond 52 (s.pw.vstkLow || s.pw.vstkHigh)).cond 53 s.pw.vpreLow).cond 55 (decide (s.pw.railBad ≠ 0) || s.pw.senLdoBad)).sf6Update

/-- A rail lies outside its ±8 % window (R57). -/
def railOut (v : Nat) : Bool := decide (v < 920 ∨ 1080 < v)

/-- The bits of `railBad` with bit `i` as `b` says. -/
def railBits (r i : Nat) (b : Bool) : Nat := if b then r ||| 2 ^ i else r - (r &&& 2 ^ i)

/-- The supervisors after a filtered reading: each has its hysteresis (R57). -/
def Power.reading (p : Power) (m : Monitor) (v : Nat) : Power :=
  match m with
  | .vstk => { p with vstkLow := if v < 9000 then true else if 9300 ≤ v then false else p.vstkLow, vstkHigh := if 190000 ≤ v then true else if v < 187000 then false else p.vstkHigh }
  | .vaux => { p with vauxOk := if 10500 ≤ v then true else if v < 10000 then false else p.vauxOk }
  | .vpre => { p with vpreLow := if v < 4900 then true else if 5000 ≤ v then false else p.vpreLow }
  | .v33 => { p with railBad := railBits p.railBad 0 (railOut v) }
  | .v18 => { p with railBad := railBits p.railBad 1 (railOut v) }
  | .v09 => { p with railBad := railBits p.railBad 2 (railOut v) }
  | .senLdo => { p with senLdoBad := railOut v }

/-- The event of a supervisor that leaves its window (R57, R74). -/
def State.supplyEvent (s : State) (p : Power) : State :=
  let s := if p.vstkLow && !s.pw.vstkLow then s.evt SYS.EVT.VSTKLO else s
  let s := if p.vstkHigh && !s.pw.vstkHigh then s.evt SYS.EVT.VSTKHI else s
  let s := if p.vpreLow && !s.pw.vpreLow then s.evt SYS.EVT.VPREUV else s
  if (List.range 3).any (fun i => p.railBad.testBit i && !s.pw.railBad.testBit i) || (p.senLdoBad && !s.pw.senLdoBad) then s.evt SYS.EVT.LDO else s

/-- A filtered supervisor reading: its event, faults 52, 53 and 55, and SF6 (R57). (DESIGN CHOICE, log 33) -/
def State.supply (s : State) (p : Power) : State := { s.supplyEvent p with pw := p }.supplyFaults

/-- SUPPLY_MONITOR (R53, R57). -/
def execSupplyMonitor (m : Monitor) (v : Nat) (s : State) : Host.Outcome State Fault Refusal :=
  .next (if s.powered then { s.only (s.supply (s.pw.reading m v)) [.safe, .ban] with pw := s.pw.reading m v } else s)

/-- BUCK_FAULT (R56): in a start the controller stops; in operation it keeps switching in current limit. (DEDUCED, log 34) -/
def execBuckFault (_c : BuckCause) (s : State) : Host.Outcome State Fault Refusal :=
  whenPowered s fun s => match s.pw.phase with
    | .starting _ => ({ s with pw := { s.pw with buckStopped := true } }).evt SYS.EVT.BUCK |>.cond 54 true
    | _ => (s.evt SYS.EVT.BUCK).occur 54

/-- BUCK_RETRY (R56): a new soft start, from which the start goes on with the entry it had reached. (DEDUCED, log 34) -/
def execBuckRetry (s : State) : Host.Outcome State Fault Refusal :=
  whenPowered s fun s => s.when s.pw.buckStopped fun s => (({ s with pw := { s.pw with buckStopped := false, retries := s.pw.retries + 1 } }).inc SYS.RETRYCNT).cond 54 false

/-! ### The start (R58 to R65, R73) -/

/-- SUPPLIES_VALID (R58, R67): the start begins; RSTCAUSE takes the causes that led to it. (DESIGN CHOICE, log 7) -/
def execSuppliesValid (auxSupply : Bool) (s : State) : Host.Outcome State Fault Refusal :=
  .next (
    if s.pw.phase = .off ∧ s.pw.rstnLow = false ∧ s.pw.thermHold = false then
      let c := s.pw.causes
      let held := s.pw.wakeHeld
      let s := { s with pw := { s.pw with phase := .starting 0, causes := 0, auxSupply := auxSupply, vauxOk := auxSupply || s.pw.vauxOk, wakeHeld := false } }
      let s := s.setReg SYS.RSTCAUSE.POR.addr (s.reg SYS.RSTCAUSE.POR.addr ||| BitVec.ofNat 16 (c % 512))
      if held then s.evt SYS.EVT.WAKEHELD else s
    else s)

/-- Whether entry `n` of the start sequence is done and no buck fault holds the start. -/
def State.startAt (s : State) (n : Nat) : Bool := decide (s.pw.phase = .starting n) && !s.pw.buckStopped

/-- The vault read: identity check, guard band, fallback slots, a committed transition (R167, R175, R450, R453). -/
def State.vaultRead (s : State) (crcOk sigOk : Bool) : State :=
  let key := crcOk && sigOk
  let s := ((s.setB IDENT.STATUS.VAULTOK crcOk).setB IDENT.STATUS.KEYOK key).cond 59 (!key)
  let s := { s with cal := { s.cal with guard := s.vault.guard }, tm := { s.tm with hiWritten := s.vault.ltchi } }
  let s := s.healthSet HEALTH.GUARD s.vault.guard (some hGUARD)
  let s := match s.newestSlot with
    | some (sl, v) => s.applySlot sl v false
    | none => s.set CAL.STATUS.NOSLOT 1
  let s := s.setB TIME.STATUS.VLTWORN (decide (128000 ≤ s.vault.ringWrites))
  if s.vault.lifeDone then ({ s with vault := { s.vault with lifeDone := false } }).set LIFE.RESULT 1 |>.occur 58 else s

/-- VAULT_READ, at 0.80 ms of the start (R59). -/
def execVaultRead (crcOk sigOk : Bool) (s : State) : Host.Outcome State Fault Refusal :=
  .next (if s.startAt 0 then s.keep { s.vaultRead crcOk sigOk with pw := { s.pw with phase := .starting 1 } } else s)

/-- STRAP_LATCH, at 0.90 ms of the start (R59, R65). -/
def execStrapLatch (safcfg : BitVec 4) (brole : BitVec 2) (s : State) : Host.Outcome State Fault Refusal :=
  .next (
    if s.startAt 1 then
      let s := (s.set SYS.STRAP.SAFCFG safcfg.toNat).set SYS.STRAP.BROLE brole.toNat
      { s with pw := { s.pw with phase := .starting 2 } }
    else s)

/-- Status words of the pages as a start leaves them. -/
def State.armStatus (s : State) : State :=
  ((((((s.fineStatus).linkStatus).galStatus).errStatus).balStatus).impStatus).calStatus.tipStatus.flStatus.currStatus.diagStatus

/-- The power state from 1.00 ms of a start on: ACTIVE, with the wake tone where it is sent on (R59, R73). -/
def State.armPower (s : State) : Power :=
  { s.pw with phase := .active, toneOut := s.pw.woken && s.bit SYS.WAKECFG.RESEND }

/-- At 1.00 ms: sentinels arm with the latched preset, START lock-out, master clock 0 of tread 0, converters and chains
start, the wake tone (R59, R62, R64, R73, R254, R258). (DEDUCED, log 40) -/
def State.arm (s : State) : State :=
  let strap := s.get SYS.STRAP.SAFCFG
  let s := { s with pw := s.armPower, safe := { s.safe with armed := true }, ban := { s.ban with quietFrom := 1000000 } }
  let s := s.set SAFE.PRESET (strap % 4 + (if s.vault.custom.isSome then 4 else 0) + (if s.strapBad then 8 else 0))
  let s := (s.setB SAFE.STATUS.STRAPBAD s.strapBad).set BAN.ROLE.word (s.get SYS.STRAP.BROLE + 4 * (strap / 4))
  let s := (s.senThresholds).setLimits s.presetWords
  let s := s.lockCause 0 0 s.nowNs false
  let s := if s.strapBad then (s.cond 11 true).lockCause 10 0 s.nowNs false else s
  let s := (s.restartAll 0).auxArm
  let s := (s.set LINK.FWDDN (min 38400 (Config.forwardLatency 0))).set LINK.FWDUP (min 38400 (Config.forwardLatency 1))
  let s := if s.pw.toneOut then s else s.portsAdopt
  (((s.derate.setB CAL.STATUS.DUE s.calDue).armStatus.setB SAFE.STATUS.SENARM true).setB SYS.STATUS.SENTARM true).cfgTread.sf6Update

/-- SENTINEL_ARM (R59). -/
def execSentinelArm (s : State) : Host.Outcome State Fault Refusal :=
  .next (if s.startAt 2 then { s.keep s.arm with pw := s.armPower } else s)

/-- WAKE_TONE_END (R73, R328): the enabled ports begin. -/
def execWakeToneEnd (s : State) : Host.Outcome State Fault Refusal :=
  whenActing s fun s => s.when s.pw.toneOut fun s =>
    let s := { s with pw := { s.pw with toneOut := false } }
    { s.portsAdopt.linkStatus with pw := s.pw }

/-! ### Closing steps (R40, R66, R69, R453) -/

/-- The end of a closing step: CLOSED := 1 when its flush has written its closing record (R40). -/
def State.vaultClose (s : State) : State := if s.fl.flushed then s.vaultRing s.vault.ltchi true else s

/-- Steps 2 to 4 of a life-cycle commit (R453): a flash that is READY begins the slot commit without an image, which FLASH_OP_DONE ends;
without one the software reset comes at once. (DEDUCED, log 38) -/
def State.lifeFinish (s : State) : State :=
  match s.cfg.target with
  | none => s
  | some t =>
    let v := s.vault
    let s := s.vaultClose
    let s := { s with vault := { s.vault with life := t, segment := if v.life = 3 then v.segment + 1 else v.segment, wipe := true, lifeLtc := s.tm.ltc, segLtc := if t = 1 then s.tm.ltc else v.segLtc, guard := if t = 1 then 0 else v.guard, lifeDone := true } }
    if s.flState = 1 then
      let s := s.flAbort.slotBegin true
      { s with pw := { s.pw with closing := some .wipe } }.flStatus
    else s.leave (.reset 8)

/-- What follows the flush of a software reset or a commit. -/
def State.closingEnd (s : State) : State :=
  match s.pw.closing with
  | some .swrst => s.vaultClose.leave (.reset 8)
  | some .life => s.lifeFinish
  | some .wipe => if s.fl.slotNew.isNone then s.leave (.reset 8) else s
  | _ => s

/-- Begin a closing flush; without a usable flash it is skipped (R66, R69, R453). (DEDUCED, log 36) -/
def State.closeBegin (s : State) (k : Closing) (segend : Bool) : State :=
  let s := { s with pw := { s.pw with closing := some k }, fl := { s.fl with flushed := false } }
  if s.flState = 1 then { (s.galFlush segend).opNext with pw := s.pw } else s.closingEnd

/-- A keyed write of SYS.CTRL.SWRST (R66): during a communication-loss entry it waits for R70. (DEDUCED, log 36) -/
def State.swrst (s : State) (key : Byte) : State :=
  if key ≠ 0xA5#8 then s.evt SYS.EVT.KEYREJ
  else match s.pw.closing with
    | none => s.closeBegin .swrst false
    | some (.sleep .commLoss) => { s with pw := { s.pw with rstWait := true } }
    | some _ => s

/-- SWRST. -/
def execSwrst (key : Byte) (s : State) : Host.Outcome State Fault Refusal := whenActing s fun s => s.swrst key

/-- CLOSING_FLUSH_TIMEOUT: 250 ms have passed; the flush is abandoned (R66, R453). -/
def execClosingFlushTimeout (s : State) : Host.Outcome State Fault Refusal := whenActing s fun s => s.closingEnd

/-- A closing flush is over: its records and its anchor are written, or there is no flash to write to (R404, R415). -/
def State.flushOver (s : State) : Bool := (s.fl.flushed && !s.fl.anchDue) || s.flState != 1 || s.pw.closing == some .wipe

/-- FLASH_OP_DONE (R412, R416), and the end of a closing flush. -/
def execFlashOpDone (e : OpEnd) (s : State) : Host.Outcome State Fault Refusal :=
  whenActing s fun s =>
    let s := s.opDone e
    if s.flushOver then s.closingEnd else s

/-! ### SLEEP (R68 to R73) -/

/-- A keyed write of SYS.CTRL.SLEEP: a request for master clock 0 of the next tread (R68); one that meets a
communication-loss request acts if R70 ends that one. (DEDUCED, log 36) -/
def State.sleepHost (s : State) (key : Byte) : State :=
  if key ≠ 0xA5#8 then s.evt SYS.EVT.KEYREJ
  else match s.pw.sleepReq with
    | none => { s with pw := { s.pw with sleepReq := some .host, reqAt := s.tm.tread } }
    | some .commLoss => { s with pw := { s.pw with hostWait := some (s.pw.hostWait.getD s.tm.tread) } }
    | some .host => s

/-- SLEEP. -/
def execSleep (key : Byte) (s : State) : Host.Outcome State Fault Refusal := whenActing s fun s => s.sleepHost key

/-- COMM_LOSS_TIMEOUT (R68, R267): neither port has seen a valid mark for LINK.LOSS_TO; SF7 trips. -/
def execCommLossTimeout (s : State) : Host.Outcome State Fault Refusal :=
  whenActing s fun s => s.when (decide (s.used LINK.LOSS_TO ≤ s.link.loss) && !s.safe.commOut) fun s =>
    let s := { s with safe := { s.safe with commOut := true } }
    let s := s.trip 6 false 0 false s.nowNs
    if s.pw.sleepReq.isSome then s else { s with pw := { s.pw with sleepReq := some .commLoss, reqAt := s.tm.tread }, link := { s.link with sleepAbort := false } }

/-- Step 1 of a SLEEP entry and the beginning of its flush (R69, R381, R424). A host request enters lock-out with cause
HOST (DEDUCED, log 35) -/
def State.sleepBegin (s : State) (r : SleepReq) : State :=
  let s := s.setB SYS.STATUS.SLEEPPEND true
  let s := match r with
    | .host => ({ s with safe := { s.safe with hostAt := some s.tm.tread } }).lockCause 12 0 s.nowNs true
    | .commLoss => s
  let s := (s.setGal { s.gal with stopped := true }).tipStop
  let s := s.cutSwitches ((List.range 36).map (· + 1))
  s.closeBegin (.sleep r) false

/-- SLEEP_ENTRY (R68, R69). -/
def execSleepEntry (s : State) : Host.Outcome State Fault Refusal :=
  whenActing s fun s =>
    match s.pw.sleepReq with
    | some .host => if s.pw.closing.isNone && decide (s.pw.reqAt < s.tm.tread) then s.sleepBegin .host else s
    | some .commLoss => if s.pw.closing.isNone then s.sleepBegin .commLoss else s
    | none => s

/-- RSTCAUSE bits of the wake sources that are present and enabled (R71, R72). -/
def State.wakeBits (s : State) (w : WakeNow) : Nat :=
  (if w.pin && s.bit SYS.WAKECFG.PINEN then 32 else 0) + (if w.toneUp && s.bit SYS.WAKECFG.TONEUPEN then 64 else 0) +
    (if w.toneDn && s.bit SYS.WAKECFG.TONEDNEN then 128 else 0)

/-- Leave SLEEP for a start (R67, R72). -/
def State.wake (s : State) (bits : Nat) : State :=
  { s with pw := { s.pw with phase := .off, causes := s.pw.causes ||| bits ||| 256, woken := true } }

/-- Step 3: SLEEPCAUSE, the wake sources, power-down (R69, R71). A wake present starts the device again at once. -/
def State.powerDown (s : State) (r : SleepReq) (w : WakeNow) : State :=
  let s := s.vaultClose.set SYS.SLEEPCAUSE.CAUSE (match r with | .host => 1 | .commLoss => 2)
  s.leave (.sleep (s.wakeBits w))

/-- R70 ends a communication-loss entry: the device remains ACTIVE, and a SLEEP or SWRST written meanwhile acts. -/
def State.sleepCancel (s : State) : State :=
  let s := { s with pw := { s.pw with closing := none, sleepReq := s.pw.hostWait.map (fun _ => SleepReq.host), reqAt := s.pw.hostWait.getD s.pw.reqAt, hostWait := none, rstWait := false },
                    link := { s.link with sleepAbort := false } }
  (s.setGal { s.gal with stopped := false }).setB SYS.STATUS.SLEEPPEND false

/-- The end of step 2: power-down, or ACTIVE in lock-out after an accepted mark (R70). -/
def State.sleepEnd (s : State) (w : WakeNow) : State :=
  match s.pw.closing with
  | some (.sleep r) =>
    if r = .commLoss ∧ s.link.sleepAbort = true then
      if s.pw.rstWait then s.sleepCancel.vaultClose.leave (.reset 8) else s.sleepCancel
    else s.powerDown r w
  | _ => s

/-- SLEEP_FLUSH_DONE (R69 to R71): the flush is complete, or was skipped. -/
def execSleepFlushDone (w : WakeNow) (s : State) : Host.Outcome State Fault Refusal :=
  whenActing s fun s => s.when s.flushOver (·.sleepEnd w)

/-- SLEEP_FLUSH_TIMEOUT: the flush is abandoned 250 ms after step 1 (R69). -/
def execSleepFlushTimeout (w : WakeNow) (s : State) : Host.Outcome State Fault Refusal :=
  whenActing s fun s => ({ s with fl := { s.fl with wait := s.fl.wait.filter (fun d => !d.closing), flush := 0 } }).sleepEnd w

/-- WAKE_PIN (R72). -/
def execWakePin (s : State) : Host.Outcome State Fault Refusal :=
  .next (if s.pw.phase = .sleep ∧ s.bit SYS.WAKECFG.PINEN = true then s.wake 32 else s)

/-- WAKE_TONE_DETECT (R72, R73): an ACTIVE device ignores tones. -/
def execWakeToneDetect (p : Port) (s : State) : Host.Outcome State Fault Refusal :=
  .next (
    match p with
    | .up => if s.pw.phase = .sleep ∧ s.bit SYS.WAKECFG.TONEUPEN = true then s.wake 64 else s
    | .dn => if s.pw.phase = .sleep ∧ s.bit SYS.WAKECFG.TONEDNEN = true then s.wake 128 else s)

/-- RSTN_WAKE: RSTN rises after it was held low (R58, R72). -/
def execRstnWake (s : State) : Host.Outcome State Fault Refusal :=
  .next (
    if s.pw.rstnLow then
      let s := { s with pw := { s.pw with rstnLow := false } }
      if s.pw.phase = .sleep then s.wake 4 else s
    else s)

/-! ### The end of discovery (R61, R63, R167, R402, R454) -/

/-- What follows discovery: the calibration slot in use, the persisted image, the gallery's start. A pending wipe lets no image load and
makes the commit of a slot without one due (R454). -/
def State.afterDiscovery (s : State) : State :=
  let s := { s with cfg := { s.cfg with imageDone := true } }
  if s.flState = 1 then
    let s := match s.newestSlot with
      | some (sl, false) => s.applySlot sl false (decide (0 < s.tm.tread))
      | _ => s
    if s.vault.wipe then { s with cal := { s.cal with commitDue := true } }
    else { s with cfg := { s.cfg with image := if s.cal.slotVault then none else s.keptImage } }
  else s.galRestore

/-- FLASH_DISCOVERY_DONE (R401, R402): once the steps that it takes have run. -/
def execFlashDiscoveryDone (f : FlashFind) (s : State) : Host.Outcome State Fault Refusal :=
  whenActive [.tm, .cal, .bal, .imp, .safe, .gal, .cfg, .fl, .vault] s fun s => s.when (s.flState == 0 && decide (s.findSteps f ≤ s.fl.step)) fun s => (s.discovered f).afterDiscovery

/-! ### Life-cycle (R451 to R453) -/

/-- LIFE.ARM0 to ARM2 as written and ARM3 spell the factory number. -/
def State.armNumber (s : State) (arm3 : Word) : Nat :=
  (s.reg LIFE.ARM0.addr).toNat + 65536 * (s.reg LIFE.ARM1.addr).toNat + 4294967296 * (s.reg LIFE.ARM2.addr).toNat + 281474976710656 * arm3.toNat

/-- A write of LIFE.ARM3 (R452). -/
def State.lifeArm (s : State) (arm3 : Word) : State :=
  if s.armNumber arm3 = s.vault.fnum then
    (({ s with cfg := { s.cfg with armAt := some s.tm.tread } }).setB LIFE.STATUS.ARMED true).evt LIFE.EVT.ARM
  else (s.set LIFE.RESULT 2).evt LIFE.EVT.REJ

/-- An arm ends. -/
def State.lifeDisarm (s : State) : State := ({ s with cfg := { s.cfg with armAt := none } }).setB LIFE.STATUS.ARMED false

/-- The transition is permitted (R451). -/
def lifeOk (now target segment : Nat) : Bool :=
  (now == 0 && target == 1) || (now == 1 && target == 2) || (now == 2 && target == 3) || (now == 3 && target == 1 && decide (segment < 2))

/-- Why a commit is refused: the first case of R452 that applies, none where it is accepted. (DEDUCED, log 37) -/
def State.lifeRefusal (s : State) (v : Word) : Option Nat :=
  let t := s.get { LIFE.TARGET with w := 2 }
  if lifeOk s.life t s.vault.segment = false then some 3
  else if t = 3 ∧ (s.bit BAN.STATUS.HSCMD = true ∨ s.bit BAN.STATUS.LSCMD = true) then some 4
  else if (match s.cfg.armAt with | some a => decide (s.tm.tread < a + 10) | none => false) = false then some 5
  else if v ≠ 0x5AC3#16 then some 6
  else none

/-- A write of LIFE.COMMIT; a second commit during the flush has no effect (R453), and one that would be accepted during another closing
step begins none. (DEDUCED, log 36) -/
def State.lifeCommit (s : State) (v : Word) : State :=
  if s.bit LIFE.STATUS.BUSY then s
  else
    let t := s.get { LIFE.TARGET with w := 2 }
    match s.lifeRefusal v with
    | some k => ((s.lifeDisarm).set LIFE.RESULT k).evt LIFE.EVT.REJ
    | none => if s.pw.closing.isSome then s else (({ s.lifeDisarm with cfg := { s.lifeDisarm.cfg with target := some t } }).setB LIFE.STATUS.BUSY true).closeBegin .life (t == 3)

/-- LIFE_ARM (R452). -/
def execLifeArm (arm3 : Word) (s : State) : Host.Outcome State Fault Refusal := whenActive [.cfg] s fun s => s.lifeArm arm3

/-- LIFE_COMMIT (R451 to R453). -/
def execLifeCommit (v : Word) (s : State) : Host.Outcome State Fault Refusal := whenActing s fun s => s.lifeCommit v

/-- LIFE_ARM_EXPIRE (R452): not committed before tread t + 10. -/
def execLifeArmExpire (s : State) : Host.Outcome State Fault Refusal :=
  whenActive [.cfg] s fun s => s.when (match s.cfg.armAt with | some a => decide (a + 10 ≤ s.tm.tread) | none => false) State.lifeDisarm

end Sys2Proof.Machine
end

