-- ==== Sys2Proof/Machine/Snapshot.lean ====
section
/-! DEFINITION. Snapshot.lean: the snapshot image of a tread and what riser 2 forms with it; a fine boundary and what
takes its results (R13, R29, R60, R81, R85, R96, R99, R103, R114 to R118, R162, R219, R227, R366). -/
namespace Sys2Proof.Machine

/-! ### The image -/

/-- The snapshot result of channel `ch` from the 393 modulator samples of its aperture (R81, R90, R92, R96, R110,
R162). -/
def State.snapRes (s : State) (ch : Nat) (samples : List Int) : Res :=
  let tag := s.tagNow
  let cal := s.calNow ch
  let nbr := decide (ch < 36) && (s.beside ch).any s.winHit
  if s.chanOn ch = false then { (default : Res) with unc := 15 }
  else if s.winHit ch then
    { v := clampCode (look s.cells.ovl ch).high, ovr := true, nbr := nbr, stale := cal, bal := false, pls := false, tag := tag, unc := 15 }
  else if cal then
    let held := look s.cells.holdSnap ch
    { held with nbr := held.nbr || nbr, stale := true, pls := false, tag := tag, unc := if nbr then 15 else held.unc }
  else
    let v := roundRat (s.corrected ch s.cells.dieTemp (snapD samples))
    let (lo, hi) := s.rangeOf ch
    let out := decide (v < lo ∨ hi < v)
    let v := if out then clampCode (decide (hi < v)) else v
    { v := v, ovr := out, nbr := nbr, stale := false, bal := false, pls := false, tag := tag,
      unc := if ch < 36 then s.cellClass ch v (out || nbr) 0 else s.currClass ch out }

/-- 251 × 128 × 16 times the raw decimator value (R81). -/
def snapNum (samples : List Int) : Int := (movSum 251 (movSum 128 (movSum 16 samples))).headD 0

/-- Form the image of the present tread with its stamps (R13, R103, R385). -/
def State.formImage (s : State) (samples : List (List Int)) : State :=
  let s := { s with cells := { s.cells with dieTemp := s.dieImage } }
  let rs : List (Nat × Res) := (List.range 38).map (fun ch => (ch, s.snapRes ch (samples.getD ch [])))
  let snap := rs.foldl (fun (m : SMap Res) p => put m p.1 p.2) ([] : SMap Res)
  let num := put (put ([] : SMap Int) 36 (snapNum (samples.getD 36 []))) 37 (snapNum (samples.getD 37 []))
  { s with cells := { s.cells with snap := snap, curNum := num, snapCount := s.count, sum := ((List.range s.count).map (fun c => (look snap c).v)).sum,
                                   snapStn := s.tm.stn, snapTag := s.tagNow, snapLtc := s.tm.ltc, snapPtSec := (s.tm.pt0.getD (4294967295, 65535)).1, snapPtMs := (s.tm.pt0.getD (4294967295, 65535)).2,
                                   fresh := true, lateRun := 0 } }

/-- PLS on both current results of a mismatch tread (R115). -/
def State.plsFlags (s : State) : State :=
  if s.curr.misNow then
    { s with cells := { s.cells with snap := adj (adj s.cells.snap 36 (fun r => { r with pls := true })) 37 (fun r => { r with pls := true }) } }
  else s

/-! ### Q1 (R366) -/

/-- The three flag bits OVR, NBR, STALE of a cell, or OVR, PLS, STALE of a current. -/
def flag3 (a b c : Bool) : Nat := (if a then 1 else 0) + (if b then 2 else 0) + (if c then 4 else 0)

/-- Nibbles two per byte, low nibble first. -/
def pairNibbles : List Nat → List Byte
  | a :: b :: l => BitVec.ofNat 8 (a % 16 + 16 * (b % 16)) :: pairNibbles l
  | [a] => [BitVec.ofNat 8 (a % 16)]
  | [] => []

/-- The 176-byte snapshot block. -/
def State.snapBlock (s : State) : List Byte :=
  let r := fun (ch : Nat) => look s.cells.snap ch
  let stat := (if s.bit TIME.STATUS.ALIGNED then 1 else 0) + (if s.bit TIME.STATUS.HOLDOVER then 2 else 0) +
    (if s.locked then 4 else 0) + (if s.cal.run.isSome then 8 else 0)
  leBytes 4 s.cells.snapStn ++ leBytes 6 s.cells.snapLtc ++ leBytes 1 s.count ++ leBytes 1 stat ++ leInt 2 s.cells.dieTemp ++ [0, 0] ++
  (List.range 36).flatMap (fun c => leInt 3 (if c < s.count then (r c).v else 0)) ++ leInt 3 (r 36).v ++ leInt 3 (r 37).v ++
  leInt 4 s.cells.sum ++ pairNibbles ((List.range 36).map (fun c => flag3 (r c).ovr (r c).nbr (r c).stale)) ++
  pairNibbles ([36, 37].map (fun c => flag3 (r c).ovr (r c).pls (r c).stale)) ++
  pairNibbles ((List.range 38).map (fun c => (r c).unc)) ++ [0, 0, 0, 0]

/-! ### Riser 2 -/

/-- The time from supplies valid to riser 2 of the present tread, in µs: at 1.00 ms at the latest tread 0 begins, a tread
lasts 0.995 to 1.005 ms, the image follows the aperture's end and is complete by 187.5 µs, and a buck retry costs 100 ms
(R27, R56, R59). The word saturates. (DESIGN CHOICE, log 19) -/
def State.startTime (s : State) : Nat :=
  if 0 < s.pw.retries then 65535
  else min 65535 (max (995 * s.tm.tread + 124) (min (1000 + 1005 * s.tm.tread + 189) (Config.startUs s.free)))

/-- SYS.STATUS.SNAPVALID and the measured time of the first image (R59, R74). -/
def State.firstImage (s : State) : State :=
  if s.bit SYS.STATUS.SNAPVALID then s
  else ((s.setB SYS.STATUS.SNAPVALID true).set SYS.STARTUS s.startTime).tick

/-- Riser 2 of a tread: the image, or its lateness. A late tread keeps the image, posts neither Q1 nor Q2 and compares
nothing; tread 0 and a tread cut before the end of riser 2 have no image at all (R29, R37, R60). (DEDUCED, log 50) -/
def State.snapshot (s : State) (late : Bool) (samples : List (List Int)) : State :=
  if s.tm.tread = 0 ∨ s.tm.noSnap = true ∨ s.cells.fresh = true then s
  else if late then ({ s with cells := { s.cells with lateRun := s.cells.lateRun + 1 } }).occur 14
  else
    let s := s.formImage samples
    let s := (s.plausibility (look s.cells.snap 36) (look s.cells.snap 37)).plsFlags.currWords
    let s := s.firstImage.learnEdges.targetSnap
    (s.post 1 s.snapBlock).bcastPost

/-- SNAPSHOT_IMAGE (R13, R29): 38 channels of 393 modulator samples each, clocks 115 to 507, oldest first. -/
def execSnapshotImage (late : Bool) (samples : List (List Int)) (s : State) : Host.Outcome State Fault Refusal :=
  if samples.length = 38 ∧ samples.all (fun l => l.length == 393) = true then whenActive [.cells, .curr, .bal, .xact, .diag] s fun s => s.snapshot late samples
  else .fault (.malformed "SNAPSHOT_IMAGE: 38 channels of 393 samples")

/-! ### Fine boundaries -/

/-- A boundary at clock `clk`: a FINE write that takes effect here restarts the chains and aborts the integrations
(R89, R184); else every chain runs, the own broadcast and the integrations take the results (R85, R99, R116, R185). With
FINEEN = 0 a boundary passes without a result (R102). -/
def State.fineBoundary (s : State) (clk : Nat) (samples : List (List Int)) : State :=
  let n := s.fineAdopt clk
  if s.cells.finePend.isSome && n.cells.finePend.isNone then (({ n with curr := { n.curr with own := [] } }).boundarySeen clk).impAbort false
  else if s.isBoundary (s.used CELLCFG.FINE.OSR) clk = false then s
  else if s.bit CELLCFG.CTRL.FINEEN = false then s.boundarySeen clk
  else if samples.any (fun l => l.length != s.osr) = true then s
  else
    let s := s.boundarySeen clk
    let b := s.absClk clk
    let fsx := fsxOf s.tm.stn s.osr clk
    ((s.fineRun clk samples).ownSample b fsx).impSample b fsx

/-- FINE_BOUNDARY (R85): 38 channels of modulator samples, those of the period that ends at the boundary, oldest
first. -/
def execFineBoundary (clk : Fin 4096) (samples : List (List Int)) (s : State) : Host.Outcome State Fault Refusal :=
  if samples.length = 38 then whenActive [.held, .cells, .curr, .bal, .xact, .imp, .diag, .fl] s fun s => s.fineBoundary clk.val samples
  else .fault (.malformed "FINE_BOUNDARY: 38 channels")

end Sys2Proof.Machine
end

