-- ==== Sys2Proof/Machine/Tread.lean ====
section
/-! DEFINITION. Tread.lean: the tread boundary, tread marks, alignment and steps, the LTC's vault bound and plant time
(02, R320 to R322, R333 to R337). -/
namespace Sys2Proof.Machine

/-! ### The tread that ends (R35, R320, R332, R336, R341) -/

/-- The length of the ended tread in UI/128 at the rate of port `p`, where the master clock was locked and no step altered it (R34,
R333). -/
def State.treadUi? (s : State) (p : Port) : Option Int :=
  if s.bit TIME.STATUS.LOCK && !s.tm.slipped then
    some ((65536 + s.tm.adjust) * ((400000000 / 2 ^ s.pRateOf p : Nat) : Int) / 65536) else none

/-- A port's counts for the ended tread; `cv` is the number of its code violations. A frame the port was finishing
ends here (R322). Frames are not aligned to treads: the arrival of the last TMK is kept against the new master clock 0 (R318,
R326). -/
def State.portEnd (s : State) (p : Port) (cv : Nat) : State :=
  let x := s.port p
  let up := s.linkUp p
  let f := match p with | .up => LINK.CVUP | .dn => LINK.CVDN
  let s := (s.set f (min (s.get f + cv) 65535)).setB (pstat p LINK.UPSTAT.MARK) x.mark.isSome
  let at0 := match x.tmkAt, s.treadUi? p with | some t, some n => some (t - n) | _, _ => none
  s.setPort p { x with before := x.mark.isSome, mark := none, tmk := false, tmkAt := at0, own := false,
                       cvRun := if up && decide (16 < cv) then x.cvRun + 1 else 0,
                       noTmk := if up && !x.tmk then x.noTmk + 1 else 0 }

/-- Fault 38 and BROKEN (R341). -/
def State.ringEval (s : State) : State :=
  let b := s.bit LINK.STATUS.RING && decide (16 ≤ s.link.one)
  (s.cond 38 b).setB LINK.STATUS.BROKEN b

/-- Both ports' counts, the runs of treads with and without valid marks. (DEDUCED, log 90) -/
def State.linkEnd (s : State) (cvUp cvDn : Nat) : State :=
  let u := s.link.up.mark.isSome
  let d := s.link.dn.mark.isSome
  let s := (s.portEnd .up cvUp).portEnd .dn cvDn
  let l := s.link
  ({ s with link := { l with upMiss := if u then 0 else l.upMiss + 1, upGood := if u then l.upGood + 1 else 0,
                             dnMiss := if d then 0 else l.dnMiss + 1, loss := if u || d then 0 else l.loss + 1,
                             one := if u != d then l.one + 1 else 0 } }).ringEval

/-- A tread without an accepted mark counts towards the loss of alignment and is a holdover tread (R35). -/
def State.markEnd (s : State) : State :=
  if s.bit TIME.STATUS.STNVALID = false then s
  else if s.tm.marked then { s with tm := { s.tm with misses := 0 } }
  else (({ s with tm := { s.tm with misses := s.tm.misses + 1 }, xact := { s.xact with bankMis := 0 } }).setB TIME.STATUS.LOCK false).inc TIME.HOLDCNT

/-! ### The tread that begins -/

/-- The adjustment of riser 15 for a phase error left to correct: at most 2 master clocks (R34). -/
def adjustOf (left : Int) : Int := clampI (-2) 2 ((left + 128) / 256)

/-- Plant time one millisecond on (R47). -/
def Time.ptStep (t : Time) : Time :=
  if t.ptMs = 999 then { t with ptMs := 0, ptSec := (t.ptSec + 1) % 4294967296 } else { t with ptMs := t.ptMs + 1 }

/-- Plant time as it stands is that of the tread's master clock 0 (R385). -/
def Time.ptMark (t : Time) : Time := { t with pt0 := some (t.ptSec, t.ptMs) }

/-- The counters of the new tread (R34, R38, R44, R47): the LTC is resumed in tread 0 at the latest (R60). -/
def State.clockTick (s : State) : State :=
  let s := if s.tm.tread = 0 then s.ltcResume none else s
  let t := s.tm
  let left := t.phaseLeft - 256 * t.adjust
  let t := { t with tread := t.tread + 1, ltc := (t.ltc + 1) % 281474976710656, stn := (t.stn + 1) % 4294967296,
                    marked := false, noSnap := false, idle := false, slipped := false, phaseLeft := left, adjust := adjustOf left }
  let t := if s.bit TIME.STATUS.PTVALID then t.ptStep.ptMark else t
  let s := { s with tm := t, cells := { s.cells with fresh := false, ovl := s.cells.ovl.map (fun (e : Nat × Ovl) => (e.1, { e.2 with win := false })) |>.filter (fun e => decide (e.2 ≠ default)) } }
  if s.bit TIME.STATUS.STNVALID then s.setB TIME.STATUS.HOLDOVER true else s

/-- Addresses whose written value comes into use at master clock 0 and that no other operation of the boundary
releases. -/
def treadHeld (a : Nat) : Bool :=
  decide (a / 64 ∈ [LINK.CFG.word.page, DIAG.OWPER.page, BAN.TESTTREAD.page, TIPOL.CONVT.page]) || a == CELLCFG.COUNT.COUNT.addr

/-- The words of R461 come into use; a new COUNT restarts the fine chains and aborts the integrations (R80, R89, R184). -/
def State.heldAdopt (s : State) : State :=
  let n := s.count
  let s := s.release treadHeld
  let s := if s.count = n then s else (s.restartAll (s.absClk 0)).impAbort false
  s.portsAdopt.linkStatus.eyeEval.crcEval

/-- Written depths come into use; a reduced queue drops its oldest blocks to fit (R361). -/
def State.depthAdopt (s : State) : State :=
  let l := s.xact.depthUse
  forEach l (fun (e : Nat × Option Nat) (s : State) => s.qFit e.1)
    { s with xact := { s.xact with depthUse := [] } }

/-- The mark of a frame the device originates on a lane at its own tread start (R322). -/
def State.ownMark (s : State) (l : Lane) : Mark :=
  let f := Config.markFill s.free
  let e := look s.link.eyeNow l.port.no
  { stn := BitVec.ofNat 32 s.tm.stn, origin := 3, ring := f.testBit 0, bank := s.activeBank == 1, rate := BitVec.ofNat 2 (s.pRateOf l.port),
    hops := 0, rcd := 0, rtgt := BitVec.ofNat 2 (f / 2), tbank := f.testBit 3, acc := 0, reye := BitVec.ofNat 6 (e.getD 0), reyeValid := e.isSome }

/-- Frames originated at the tread start; the tread of an announced rate change carries none (R339). -/
def State.originate (s : State) : State :=
  if (match s.link.ann with | some a => s.reached a.t | none => false) then s
  else (forEach [Lane.dnTx, Lane.upTx] (fun (l : Lane) (s : State) =>
    if s.originates l then { s with link := { s.link with txMark := put s.link.txMark l.no (some ⟨s.ownMark l, markCrc (s.ownMark l)⟩) } } else s) s).tick

/-- An armed change is disarmed at its tread (R376). -/
def State.rsTread (s : State) : State :=
  if s.rsArmed && s.reached (s.get2 XACT.RSTN0) then s.rsDisarm else s

/-- A named tread `t` comes due with a jump from the number `e` to `n`: a forward jump passes over it or reaches it, a
backward one lands on it (R45). -/
def jumpDue (e n t : Nat) : Bool :=
  let j := (n + 4294967296 - e) % 4294967296
  if j < 2147483648 then decide ((t + 4294967296 - e) % 4294967296 ≤ j) else t == n

/-- Master clock 0 of a tread (R25): the ended tread is closed, the counters advance, what waits for this instant takes
effect, and every engine makes its step of the boundary, at the new tread's counters. (DEDUCED, log 43; DEDUCED, log 44) -/
def State.treadStart (s : State) (cvUp cvDn : Nat) : State :=
  let s := (s.linkEnd cvUp cvDn).markEnd.clockTick
  let now := s.tm
  let s := s.cfgDefaultNow.tblTread.currTread.balTread.heldAdopt.depthAdopt
  let s := s.originate.lanesNow.rsTread.planTread
  let s := s.calTread.safeTread.diagTreadEnd
  let s := ((s.closeAux .a).closeAux .b).auxTread
  State.flTurn { (s.tipTread.ackStatus s.nowNs).cfgTread with tm := now }

/-- TREAD_START. (DESIGN CHOICE, log 2) -/
def execTreadStart (cvUp cvDn : Nat) (s : State) : Host.Outcome State Fault Refusal := whenActive [.held, .tm, .cells, .curr, .cal, .bal, .xact, .aux, .imp, .diag, .safe, .ban, .col, .link, .gal, .cfg, .fl, .tip, .vault] s fun s => s.treadStart cvUp cvDn

/-! ### Alignment (R34 to R36, R484) -/

/-- ALIGNED with its events; setting it ends fault 37 (R35, R484). -/
def State.aligned (s : State) (b : Bool) : State :=
  let was := s.bit TIME.STATUS.ALIGNED
  let s := s.setB TIME.STATUS.ALIGNED b
  let s := if b then s.cond 37 false else s
  if b && !was then s.evt TIME.EVT.SYNCGAIN else if !b && was then s.evt TIME.EVT.SYNCLOST else s

/-- ALIGNMENT_LOST: 16 consecutive treads without an accepted mark (R35). -/
def execAlignmentLost (s : State) : Host.Outcome State Fault Refusal :=
  whenActive [] s fun s => s.when (decide (16 ≤ s.tm.misses)) fun s => (s.aligned false).cond 37 true

/-- The phase error of a mark in 1/256 master clock, to the nearer tread boundary (R36, R334): `t` is the arrival of the
mark against the device's master clock 0, in UI/128. (DEDUCED, log 42) -/
def phaseErr (t : Int) (acc d rate : Nat) : Int :=
  let e := roundRat ((((t - (acc + d : Nat)) * (2 ^ rate * 4194304 : Nat) : Int) : Rat) / 100000000)
  (e + 8388608) % 16777216 - 8388608

/-- Measure and correct a phase error (R34, R36, R484). -/
def State.phase (s : State) (e : Int) : State :=
  let s := (s.setS TIME.PHASE e).aligned (decide (e.natAbs ≤ 256))
  if 16384 < e.natAbs then { s with tm := { s.tm with stepPend := some e, phaseLeft := 0, adjust := 0 } }
  else { s with tm := { s.tm with stepPend := none, phaseLeft := e, adjust := adjustOf e } }

/-! ### Plant time (R47 to R49) -/

/-- Plant time in ms. -/
def ptTotal (sec ms : Nat) : Int := (sec * 1000 + ms : Nat)

/-- The pending set takes effect: events, the step counters and the TIME_STEP mark (R48, R49). LASTSTEP drops the part of
a second. (DESIGN CHOICE, log 134) -/
def State.ptApply (s : State) : State :=
  let sec := s.get2 TIME.PEND0
  let ms := s.get TIME.PEND2
  let step := ptTotal sec ms - ptTotal s.tm.ptSec s.tm.ptMs
  let valid := s.bit TIME.STATUS.PTVALID
  let back := valid && decide (step < -1000)
  let s := if valid && decide (step ≠ 0) then (s.inc TIME.STEPCNT).set TIME.LASTSTEP (twos 16 (clampI (-32767) 32767 (step.tdiv 1000))) else s
  let s := if back then s.evt TIME.EVT.PTBACK else s
  let s := ((s.setB TIME.STATUS.PTPEND false).setB TIME.STATUS.PTVALID true).evt TIME.EVT.PTSET
  { s with tm := { s.tm with ptSec := sec, ptMs := ms, stepMark := s.tm.stepMark || back } }

/-- The tread of the pending set has come. -/
def State.ptDue (s : State) : Bool := s.bit TIME.STATUS.PTPEND && s.reached (s.get2 TIME.PENDT0)

/-- PLANT_TIME_APPLY (R46, R48, R49). -/
def execPlantTimeApply (s : State) : Host.Outcome State Fault Refusal := whenActive [.tm] s fun s => s.when s.ptDue fun s =>
  let s := s.ptApply
  { s with tm := s.tm.ptMark }

/-! ### Accepted marks (R43 to R45, R70, R371, R373) -/

/-- The STN of an accepted mark for the present tread. A jump takes the mark's value, and named actions whose tread it
passes over or lands on take effect at once (R45); integrations abort, and long output periods restart (R89, R184). (DEDUCED, log 45) -/
def State.takeStn (s : State) (n : Nat) : State :=
  let due := jumpDue s.tm.stn n
  let jump := decide (n ≠ s.tm.stn)
  let s := ({ s with tm := { s.tm with stn := n } }).setB TIME.STATUS.STNVALID true
  if jump = false then s
  else
    let s := (s.evt TIME.EVT.STNJUMP).impAbort false
    let s := if 5 ≤ s.used CELLCFG.FINE.OSR then s.restartNow else s
    let s := if s.bit TIME.STATUS.PTPEND && due (s.get2 TIME.PENDT0) then s.ptApply else s
    let s := forEach (List.range 8) (fun (k : Nat) (s : State) => match (look s.imp.lanes k).mode with
      | .armed (some t) _ => if due t && s.laneEn k then s.integBegin k else s
      | _ => s) s
    let s := match s.link.ann with | some a => if due a.t then s.rateGo a else s | none => s
    if s.rsArmed && due (s.get2 XACT.RSTN0) then s.rsDisarm else s

/-- The bank that accepted marks announce: the first one chooses the active bank; two in a row that differ switch it at
the next master clock 0 (R371, R373). -/
def State.takeBank (s : State) (b : Nat) : State :=
  if s.xact.bankChosen = false then ({ s with xact := { s.xact with bankChosen := true } }).setBank b false
  else if b = s.activeBank then ({ s with xact := { s.xact with bankMis := 0, bankNext := none } }).fault42 false
  else
    let n := s.xact.bankMis + 1
    let s := { s with xact := { s.xact with bankMis := n } }
    if 2 ≤ n then ({ s with xact := { s.xact with bankNext := some b } }).fault42 true else s

/-- The master clock locks to the recovered clock: the trim correction applied then, and fault 62 beyond 0.30% (R173,
R333). -/
def State.lock (s : State) : State :=
  if s.bit TIME.STATUS.LOCK then s
  else
    let d := clampI (-32768) 32767 (Config.oscDrift s.free)
    (((s.setB TIME.STATUS.LOCK true).tick.healthSet HEALTH.OSCDRIFT (twos 16 d) none).cond 62 (decide (30 < d.natAbs))).healthStatus

/-- A valid mark on the alignment source port is accepted (R320, R334); it ends a communication loss (R260). -/
def State.accepted (s : State) (p : Port) (m : Mark) (t : Int) : State :=
  let s := if s.safe.commOut then ({ s with safe := { s.safe with commOut := false } }).sfGone else s
  let s := (({ s with tm := { s.tm with marked := true, misses := 0 } }).setB TIME.STATUS.HOLDOVER false).lock
  let s := match s.pw.closing with
    | some (.sleep .commLoss) => ({ s with link := { s.link with sleepAbort := true } }).evt SYS.EVT.SLEEPABORT
    | _ => s
  let s := if m.reyeValid && look s.link.eyeNow (2 + p.no) != some m.reye.toNat then s.eyeSet (2 + p.no) m.reye.toNat else s
  let s := s.phase (phaseErr t m.acc.toNat (s.hopD p) (s.pRateOf p))
  (s.takeStn m.stn.toNat).takeBank (if m.bank then 1 else 0)

/-- The first choice of a source after a reset; from then on both ports run at its rate (R328, R336). -/
def State.firstSource (s : State) (p : Port) : State :=
  if s.source?.isSome then s
  else match p with
    | .up => (s.set TIME.STATUS.SRC 1).rateClash.planEval
    | .dn => if 4 ≤ s.link.upMiss then (s.set TIME.STATUS.SRC 2).rateClash.planEval else s

/-- A valid mark (R320, R336, R338, R341). -/
def State.validMark (s : State) (p : Port) (m : Mark) (t : Int) : State :=
  let s := s.setPort p { s.port p with mark := some m.stn.toNat }
  let s := (s.set2 (match p with | .up => LINK.ACCUP0 | .dn => LINK.ACCDN0) m.acc.toNat).setB LINK.STATUS.RING m.ring
  let s := { s with link := { s.link with loss := 0 } }
  let s := match (s.port p.other).mark with | some n => if n = m.stn.toNat then s else s.inc LINK.STNMIS | none => s
  let s := (s.ringEval.lanesNow).firstSource p
  let s := if s.source? = some p then s.accepted p m t else s
  s.announce m

/-- L of the lane on which the frames of port `p` leave (R325). -/
def fwdFld (p : Port) : Fld := match p with | .up => LINK.FWDDN | .dn => LINK.FWDUP

/-- In holdover a forwarded frame gains or loses whole IDL sets of two characters, at most 4 sets, and L changes with them
(R325, R327). (DESIGN CHOICE, log 146) -/
def State.idlComp (s : State) (p : Port) : State :=
  if s.bit TIME.STATUS.STNVALID = false ∨ s.tm.misses = 0 ∨ s.tm.marked = true then s
  else
    let l := clampI 0 38400 (s.get (fwdFld p) + 2560 * clampI (-4) 4 (Config.idlSets s.free))
    (s.set (fwdFld p) l.toNat).tick

/-- The mark as it leaves on the other port's lane (R321). -/
def State.relayed (s : State) (p : Port) (m : Mark) : Mark :=
  let f := fwdFld p
  let e := look s.link.eyeNow p.other.no
  { m with hops := if m.hops = 255#8 then m.hops else m.hops + 1, acc := m.acc + BitVec.ofNat 32 (s.hopD p + s.get f),
           reye := BitVec.ofNat 6 (e.getD 0), reyeValid := e.isSome }

/-- Send the mark on: one whose CRC is wrong leaves with its CRC wrong in the same bits (R321). -/
def State.relay (s : State) (p : Port) (m : Mark) (crc : Word) : State :=
  let m' := s.relayed p m
  { s with link := { s.link with txMark := put s.link.txMark p.other.lane.no (some ⟨m', markCrc m' ^^^ crc ^^^ markCrc m⟩) } }

/-- The origin a port's valid marks carry (R320). -/
def originOf (p : Port) : BitVec 2 := match p with | .up => 1 | .dn => 2

/-- A TMK arriving `t` comes before the slots of the frame of the last one have passed: framing was lost, unless it was already. A frame
holds 312,500 characters at full rate, up to eight fewer after compensation (R318, R326, R327). (DEDUCED, log 166) -/
def State.earlyTmk (s : State) (p : Port) (t : Int) : State :=
  let x := s.port p
  let early := match x.tmkAt with | some t0 => decide (t - t0 < ((400000000 / 2 ^ s.pRateOf p : Nat) : Int) - 10240) | none => false
  let s := if early && !x.lost then (s.inc LINK.FRMERR).evt LINK.EVT.FRAMING else s
  s.setPort p { x with tmkAt := some t }

/-- A tread mark on a port in link-up: framing is restored, the mark is passed on, and a valid one is taken (R320 to
R322, R326). -/
def State.tmkRx (s : State) (p : Port) (m : Mark) (clean : Bool) (crc : Word) (t : Int) : State :=
  if s.linkUp p = false then s
  else
    let s := s.earlyTmk p t
    let x := s.port p
    let crcOk := crc == markCrc m
    let s := s.setPort p { x with lost := false, tmk := x.tmk || crcOk, wait := x.wait && x.own }
    let s := if crcOk then s.set (pstat p LINK.UPSTAT.LORIG) m.origin.toNat else s
    let s := if s.forwards p then s.idlComp p |>.relay p m crc else s
    if clean && crcOk && m.rate.toNat == s.pRateOf p && m.origin == originOf p then s.validMark p m t else s

/-- TMK_RX (R321): `clean` says that its 18 characters came without a code violation, `t` is its arrival against master
clock 0 in UI/128. (DEDUCED, log 49) -/
def execTmkRx (p : Port) (m : Mark) (clean : Bool) (crc : Word) (t : Int) (s : State) : Host.Outcome State Fault Refusal :=
  whenActive [.tm, .cells, .bal, .xact, .aux, .imp, .safe, .link] s fun s => s.tmkRx p m clean crc t

/-- ALIGN_SOURCE_CHANGE (R336): to the DN port after 4 treads without valid marks on the UP port, back after 64 with. -/
def execAlignSourceChange (p : Port) (s : State) : Host.Outcome State Fault Refusal :=
  whenActive [] s fun s =>
    match p with
    | .dn => s.when (s.source? == some .up && decide (4 ≤ s.link.upMiss) && s.qualifies .dnTx) fun s => (s.set TIME.STATUS.SRC 2).evt TIME.EVT.SRCCHG
    | .up => s.when (s.source? == some .dn && decide (64 ≤ s.link.upGood)) fun s => (s.set TIME.STATUS.SRC 1).evt TIME.EVT.SRCCHG

/-! ### Slipped treads (R37) -/

/-- A tread that a step shortens at master clock `cut`: the risers not yet run are dropped (R37, R298, R424). -/
def State.shortened (s : State) (cut : Nat) : State :=
  let t := s.absClk (cut / 16)
  let s := if cut < 12288 then { s with tm := { s.tm with noSnap := true } } else s
  let s := forEach ((List.range 36).map (· + 1)) (fun (n : Nat) (s : State) => s.cutSwitch n t) s
  let m := s.get BAN.ROLE.MODE
  let s := if cut < 49152 && s.testTread && s.ban.test == .none && (m == 1 || m == 2) then
      (s.testBegin ((if m = 1 ∧ s.bit BAN.STATUS.NEXTSW = true then 1 else 0) + 0xFF00)).testSkip
    else s.testSlip
  if cut < 65535 then s.tipSlip else s

/-- The calibration group of a slipped tread is discarded; an idle group is none (R157, R160, R161). -/
def State.calSlip (s : State) : State :=
  match s.cal.run with
  | some r => if r.slip || r.dead || !(groupChans (r.t / 4)).any s.calNow then s else ({ s with cal := { s.cal with run := some { r with slip := true } } }).evt CAL.EVT.GRPSKIP
  | none => s

/-- A pending step takes effect at the end of the present tread, which it shortens at master clock `cut` or lengthens
(R36, R37, R89, R184). The chains restart at the new boundary. (DEDUCED, log 46) -/
def State.slipTread (s : State) (cut : Nat) : State :=
  match s.tm.stepPend with
  | none => s
  | some e =>
    let s := (({ s with tm := { s.tm with stepPend := none, phaseLeft := 0, adjust := 0, slipped := true } }).evt TIME.EVT.SLIP).inc TIME.SLIPCNT
    let s := if e < 0 then s.shortened cut else { s with tm := { s.tm with idle := true } }
    (s.calSlip.impAbort false).restartAll (s.absClk 4096)

/-- SLIPPED_TREAD: `cut` is the master clock at which a shortened tread ends; no value is tied to the pending phase error
(DESIGN CHOICE, log 167). -/
def execSlippedTread (cut : Fin 65536) (s : State) : Host.Outcome State Fault Refusal := whenActive [.tm, .cells, .cal, .bal, .imp, .ban, .tip] s fun s => s.slipTread cut.val

/-! ### The LTC's vault bound (R40, R41) -/

/-- LTC[47:24] + 1. -/
def State.ltcBound (s : State) : Nat := s.tm.ltc / 16777216 + 1

/-- LTCHI_WRITE: the bound goes into the next ring entry; an entry that fails its verification is retired, and the
write stays due (R40, R41). (DEDUCED, log 47) -/
def execLtchiWrite (verified : Bool) (s : State) : Host.Outcome State Fault Refusal :=
  whenActive [.tm, .vault] s fun s => s.when (s.bit SYS.STATUS.LTCRES && decide (s.ltcBound ≠ s.tm.hiWritten)) fun s =>
    if verified then s.ringWrite s.ltcBound s.vault.closed else s.ringRetire 1

/-! ### RESTART (R89, R184) -/

/-- CELLCFG.CTRL.RESTART: every fine chain restarts and running integrations abort. -/
def State.restartCmd (s : State) : State := s.restartNow.impAbort false

/-- RESTART. -/
def execRestart (s : State) : Host.Outcome State Fault Refusal := whenActive [.cells, .bal, .aux, .imp] s fun s => s.restartCmd

end Sys2Proof.Machine
end

