-- ==== Sys2Proof/Machine/ReadWord.lean ====
section
/-! DEFINITION. ReadWord.lean: what a read of each register word returns (R8, R9, R459 to R468): the stored word, or the
word formed from the device's state. -/
namespace Sys2Proof.Machine

/-- Word `i` of a value, least significant first (R6). -/
def wordOf (v i : Nat) : Nat := v / 65536 ^ i % 65536

/-- Four nibbles as a word, the first in [3:0]. -/
def nibbleWord (f : Nat → Nat) (i : Nat) : Nat := f i % 16 + 16 * (f (i + 1) % 16) + 256 * (f (i + 2) % 16) + 4096 * (f (i + 3) % 16)

/-- Page IDENT (R449). -/
def State.identWord (s : State) (w : Nat) : Option Nat :=
  if 0x08 ≤ w ∧ w ≤ 0x0B then some (wordOf s.vault.fnum (w - 0x08))
  else if 0x10 ≤ w ∧ w ≤ 0x2F then some (look s.vault.pubkey (w - 0x10)).toNat
  else match w with
    | 0x0D => some s.vault.dieRev
    | 0x0E => some (match s.vault.custom with | some l => l.headD 0 | none => 0)
    | 0x0F => some s.vault.certLen
    | 0x31 => some s.certShown.toNat
    | _ => none

/-- Page TIME (R51): plant time reads all ones until the first set. -/
def State.timeWord (s : State) (w : Nat) : Option Nat :=
  let p := s.ptNow
  match w with
  | 0x02 => some ((s.reg (linear 3 2)).toNat % 256 + 256 * s.get { BAL.QUIET_EXT with w := 1 } + (s.reg (linear 3 2)).toNat / 512 * 512)
  | 0x08 => some (wordOf s.tm.ltc 0)
  | 0x09 => some (wordOf s.tm.ltc 1)
  | 0x0A => some (wordOf s.tm.ltc 2)
  | 0x0B => some (wordOf s.tm.stn 0)
  | 0x0C => some (wordOf s.tm.stn 1)
  | 0x0D => some (wordOf p.1 0)
  | 0x0E => some (wordOf p.1 1)
  | 0x0F => some p.2
  | _ => none

/-- LINK.RATE (R344). -/
def State.rateWord (s : State) : Nat :=
  (if s.linkUp .up || s.linkUp .dn then s.link.rate else 3) +
  (match s.link.ann with | some a => 4 * a.rate + 16 + (if a.bank then 32 else 0) | none => 0) + 256 * s.link.rcd

/-- Page LINK. -/
def State.linkWord (s : State) (w : Nat) : Option Nat :=
  if w = 0x0B then some s.rateWord
  else if 0x20 ≤ w ∧ w ≤ 0x23 then some (eyeByte (s.eyeAt (s.get { LINK.EYESEL with w := 2 }) (w - 0x20)))
  else none

/-- QUEUE.QINFO's policy of a queue (R360). -/
def qPolicy (q : Nat) : Nat := if q = 0 then 0 else if q = 2 then 3 else if q = 3 ∨ q = 52 ∨ q = 63 then 2 else 1

/-- Page QUEUE (R379). -/
def State.queueWord (s : State) (w : Nat) : Option Nat :=
  let q := s.get { QUEUE.QSEL with w := 6 }
  let x := look s.xact.queues q
  match w with
  | 0x0D => some (s.qDepth q)
  | 0x0E => some (s.qFill q)
  | 0x0F => some x.blocks.length
  | 0x10 => some (look s.xact.drops q)
  | 0x11 => some (match x.blocks with | b :: _ => b.seq | [] => x.next)
  | 0x12 => some (qPolicy q + 256 * qMinDepth q)
  | 0x13 => some s.depthSum
  | 0x32 => some s.planShown.toNat
  | 0x35 => some (s.planWord 0 4).toNat
  | 0x36 => some (s.planWord 0 5).toNat
  | 0x37 => some (s.planWord 1 4).toNat
  | 0x38 => some (s.planWord 1 5).toNat
  | _ => none

/-- The two words of a result (R97, R103): a current shows PLS where a cell shows NBR, and no BAL. -/
def Res.words (r : Res) (cur : Bool) : Nat × Nat :=
  (twos 16 r.v, twos 24 r.v / 65536 + (if r.ovr then 0x100 else 0) + (if (if cur then r.pls else r.nbr) then 0x200 else 0) +
    (if r.stale then 0x400 else 0) + (if r.bal && !cur then 0x800 else 0) + 0x1000 * (r.tag % 16))

/-- Word B or word A of a pair. -/
def pairWord (p : Nat × Nat) (b : Nat) : Nat := if b % 2 = 0 then p.1 else p.2

/-- SNAPA or FINEA (R103, R104) over a table of results and its stamp. -/
def resWordA (m : SMap Res) (stamp w : Nat) : Option Nat :=
  if 0x08 ≤ w ∧ w ≤ 0x37 then some (pairWord ((look m ((w - 8) / 2)).words false) w)
  else if 0x38 ≤ w ∧ w ≤ 0x3D then some (nibbleWord (fun c => (look m c).unc) (4 * (w - 0x38)))
  else if w = 0x3E ∨ w = 0x3F then some (wordOf stamp (w - 0x3E))
  else none

/-- SNAPB or FINEB (R103, R104); `count` is the number of cells that the sum covers. -/
def resWordB (m : SMap Res) (count tag stamp : Nat) (sum die : Int) (w : Nat) : Option Nat :=
  let any := fun (f : Res → Bool) => (List.range count).any (fun c => f (look m c))
  if 0x08 ≤ w ∧ w ≤ 0x1F then some (pairWord ((look m (24 + (w - 8) / 2)).words false) w)
  else if 0x20 ≤ w ∧ w ≤ 0x23 then some (pairWord ((look m (36 + (w - 0x20) / 2)).words true) w)
  else if w = 0x24 ∨ w = 0x25 then some (wordOf (twos 32 sum) (w - 0x24))
  else if 0x28 ≤ w ∧ w ≤ 0x2A then some (nibbleWord (fun c => (look m c).unc) (24 + 4 * (w - 0x28)))
  else match w with
    | 0x26 => some ((if any Res.ovr then 1 else 0) + (if any Res.nbr then 2 else 0) + (if any Res.stale then 4 else 0) + (if any Res.bal then 8 else 0) + 0x1000 * (tag % 16))
    | 0x27 => some (twos 16 die)
    | 0x2B => some ((look m 36).unc % 16 + 16 * ((look m 37).unc % 16))
    | 0x2C => some (wordOf stamp 0)
    | 0x2D => some (wordOf stamp 1)
    | _ => none

/-- A value held in 1/256 of a register's LSB, as the register shows it. -/
def from256 (v : Int) : Int := roundRat ((v : Rat) / 256)

/-- Offset and gain of CALWIN's selected entry (R171). (DEDUCED, log 64) -/
def State.calwinPair (s : State) (ch set : Nat) : Int × Int :=
  let c := look s.cal.chans ch
  let t := look s.cal.trims ch
  let u := fun (p : Int × Int) => (from256 p.1, from256 p.2)
  match set with
  | 5 => u c.delta.now
  | 6 => u (c.delta.o1, c.delta.g1)
  | 7 => u (t.o1, t.g1)
  | 8 =>
    let k := s.coeffs ch s.dieNow true
    (roundRat k.1, roundRat (k.2 * 100000000))
  | 9 => (c.resO, c.resG)
  | k => look s.vault.fac (ch * 5 + k)

/-- CALWIN words 0x09 to 0x0F (R171, R178). TEMP has no stated value for SET 0x7 and 0x8, and reads 0x8000 for a channel
without a calibration temperature (DESIGN CHOICE, log 160). -/
def State.calwinWord (s : State) (w : Nat) : Option Nat :=
  let ch := s.get { CALWIN.SEL with w := 6 }
  let set := s.get { CALWIN.SEL with lo := 8, w := 4 }
  let c := look s.cal.chans ch
  let p := s.calwinPair ch set
  match w with
  | 0x09 => some (wordOf (twos 32 p.1) 0)
  | 0x0A => some (wordOf (twos 32 p.1) 1)
  | 0x0B => some (wordOf (twos 32 p.2) 0)
  | 0x0C => some (wordOf (twos 32 p.2) 1)
  | 0x0D => some (if set ≤ 4 then twos 16 (setTemp set) else if set = 7 ∨ set = 8 then Config.windowFree s.free % 65536
      else match c.temp with | some t => twos 16 t | none => 0x8000)
  | 0x0E => some c.dacx
  | 0x0F => some (if set = 9 then c.spread else if c.acc then 1 else 0)
  | _ => none

/-- BAL.RWIRE and BAL.RON of the selected tap and switch (R227, R232). (DEDUCED, log 128) -/
def State.balWord (s : State) (w : Nat) : Option Nat :=
  let n := s.get { BAL.WSEL with w := 6 }
  match w with
  | 0x3C => some (if n = 0 ∨ s.count ≤ n then 0xFFFF
      else match look s.bal.rw n with | some r => (clampI 0 65535 (roundRat r)).toNat | none => 0xFFFF)
  | 0x3D => some (if n = 0 ∨ s.extFet = true then 0xFFFF else match look s.bal.ron n with | some r => (clampI 0 65535 r).toNat | none => 0xFFFF)
  | _ => none

/-- Page IMPWIN (R210). -/
def State.impwinWord (s : State) (w : Nat) : Option Nat :=
  if 0x0A ≤ w ∧ w ≤ 0x11 then some (s.impwinData.getD (w - 0x0A) 0)
  else if 0x12 ≤ w ∧ w ≤ 0x14 then
    some (((List.range 16).map (fun b => if (look s.imp.tofs (16 * (w - 0x12) + b)).isSome = true ∧ 16 * (w - 0x12) + b < 36 then 2 ^ b else 0)).sum)
  else none

/-- Page GAL (R388, R392, R399). -/
def State.galWord (s : State) (w : Nat) : Option Nat :=
  let g := s.gal.img
  if 0x0C ≤ w ∧ w ≤ 0x13 then some (s.galData.getD (w - 0x0C) 0)
  else if 0x14 ≤ w ∧ w ≤ 0x15 then some (wordOf g.epochNo (w - 0x14))
  else if 0x16 ≤ w ∧ w ≤ 0x18 then some (wordOf g.foldLtc (w - 0x16))
  else if 0x1A ≤ w ∧ w ≤ 0x1F then some (wordOf (edgeCrc (s.edgesOf ((w - 0x1A) / 2))) (w % 2))
  else none

/-- Page TIPOL's view of the selected entry (R437): an empty entry reads 0. -/
def State.tipWord (s : State) (w : Nat) : Option Nat :=
  let n? := s.tipNode (s.get { TIPOL.SEL with w := 5 })
  let f := fun (g : TipNode → Nat) => some ((n?.map g).getD 0)
  if 0x0E ≤ w ∧ w ≤ 0x11 then f (fun n => wordOf n.num (w - 0x0E))
  else match w with
    | 0x12 => f (fun n => n.chmap)
    | 0x13 => f (fun n => match n.info with | some v => v % 4096 + 32768 | none => 0)
    | 0x14 => f (fun n => (if n.missing then 1 else 0) + 16 * min n.fails 15)
    | 0x16 => f (fun n =>
        let v := look n.vals (s.get { TIPOL.CHSEL with w := 4 })
        v.v % 4096 + (if v.valid then 4096 else 0) + (if v.crc then 8192 else 0) + (if v.norep then 16384 else 0))
    | 0x17 => f (fun n => n.tick)
    | _ => none

/-- Page TABLE (R457). -/
def State.tableWord (s : State) (w : Nat) : Option Nat :=
  let l := look s.cfg.tblRaw s.tsel
  match w with
  | 0x0A => some s.tdataShown.toNat
  | 0x0B => some s.tstate
  | 0x0C => some (tblWord l 66)
  | 0x0D => some (tblWord l 67)
  | _ => none

/-- µV as a signed word of LSB 10 µV. -/
def tenMicro (v : Int) : Nat := twos 16 (clampI (-32767) 32767 (roundRat ((v : Rat) / 10)))

/-- Page DIAG's view of tap or cell TSEL (R248). -/
def State.diagWord (s : State) (w : Nat) : Option Nat :=
  let n := s.get { DIAG.TSEL with w := 6 }
  match w with
  | 0x19 => some (look s.diag.kind n % 4 + 4 * min (look s.diag.fails n) 15 + (if look s.diag.skipped n then 64 else 0) + (if s.tapTested n then 0 else 128))
  | 0x1A => some (tenMicro (look s.diag.dv n).1)
  | 0x1B => some (tenMicro (look s.diag.dv n).2)
  | 0x1C => some (match look s.diag.rserMean n with | some r => (clampI 0 65534 (roundRat (10 * r))).toNat | none => 0xFFFF)
  | 0x1D => some (if n = 0 then 0x8000 else match look s.diag.dev (n - 1) with | some d => tenMicro d | none => 0x8000)
  | 0x20 => some ((look s.diag.span n).getD (0, 0)).1
  | 0x21 => some ((look s.diag.span n).getD (0, 0)).2
  | _ => none

/-- Page LIFE (R458): ARM0 to ARM2 are write-only. -/
def State.lifeWord (s : State) (w : Nat) : Option Nat :=
  match w with
  | 0x08 => some (s.vault.life % 4 + 4 * (s.vault.segment % 4))
  | 0x0A => some 0
  | 0x0B => some 0
  | 0x0C => some 0
  | 0x10 => some (wordOf s.vault.lifeLtc 0)
  | 0x11 => some (wordOf s.vault.lifeLtc 1)
  | 0x12 => some (wordOf s.vault.lifeLtc 2)
  | _ => none

/-- TEST.EVTSUM (R468). -/
def State.evtSum (s : State) (half : Nat) : Nat :=
  ((List.range 16).map (fun i => let p := 16 * half + i
    if p < 31 ∧ (s.reg (linear p 3) &&& s.reg (linear p 4)) ≠ 0 then 2 ^ i else 0)).sum

/-- The words formed from other state than the register store, none where a word is stored. -/
def State.formedWord (s : State) (page w : Nat) : Option Nat :=
  match page with
  | 0x00 => s.identWord w
  | 0x01 => if w = 0x08 then some s.supplyWord else none
  | 0x02 => if w = 0x0A ∨ w = 0x0B then some (wordOf s.cfg.calcNow (w - 0x0A)) else if w = 0x0D then some streamLen else none
  | 0x03 => s.timeWord w
  | 0x04 => s.linkWord w
  | 0x05 => if w = 0x0C then some s.devId else none
  | 0x06 => s.queueWord w
  | 0x08 => resWordA s.cells.snap s.cells.snapStn w
  | 0x09 => resWordB s.cells.snap s.cells.snapCount s.cells.snapTag s.cells.snapStn s.cells.sum s.cells.dieTemp w
  | 0x0A => resWordA s.cells.fine s.cells.fsx w
  | 0x0B => resWordB s.cells.fine s.cells.fineCount s.cells.fineTag s.cells.fsx s.cells.fineSum s.cells.fineDie w
  | 0x0F => if w = 0x10 then some s.urgStat else none
  | 0x11 => s.calwinWord w
  | 0x12 => s.balWord w
  | 0x14 => s.impwinWord w
  | 0x16 => if w = 0x0E then some (Config.vload s.free).toNat else none
  | 0x18 => s.galWord w
  | 0x1A => s.tipWord w
  | 0x1C => s.tableWord w
  | 0x1D => s.diagWord w
  | 0x1E => s.lifeWord w
  | 0x1F => if w = 0x08 ∨ w = 0x09 then some (s.evtSum (w - 8)) else none
  | _ => none

/-- What a read of the word at a linear address returns: a staged word as staged (R462), a formed word, or the stored
one. (DESIGN CHOICE, log 123) -/
def State.readWord (s : State) (a : Nat) : Word :=
  match look s.staged a with
  | some v => v
  | none => match s.formedWord (a / 64) (a % 64) with
    | some v => BitVec.ofNat 16 v
    | none => s.reg a

/-- `n` words from address `a` on, of one state (R100). -/
def State.readWords (s : State) (a n : Nat) : List Word := (List.range n).map (fun i => s.readWord (a + i))

/-! ### Read latches (R51, R101, R137) -/

/-- Whether an address is the word B of a latched pair: a cell or current result (true), the result of an auxiliary entry
(false). SHRES and the urgent results are no entry's (DEDUCED, log 52). -/
def pairB (a : Nat) : Option Bool :=
  let p := a / 64
  let w := a % 64
  if w % 2 = 0 then none
  else if p = 0x08 ∨ p = 0x0A then (if 0x09 ≤ w ∧ w ≤ 0x37 then some true else none)
  else if p = 0x09 ∨ p = 0x0B then (if 0x09 ≤ w ∧ w ≤ 0x23 then some true else none)
  else if p = 0x0D ∨ p = 0x0E then (if 0x19 ≤ w ∧ w ≤ 0x37 then some false else none)
  else none

/-- The key of a latch: port and address. Each port has its own latches. (DEDUCED, log 48) -/
def latchKey (p : Port) (a : Nat) : Nat := 2048 * p.no + a

/-- CELLCFG.UNPCELL for word B at an address (R101, R102). -/
def unpCell (p : Port) (a : Nat) : Nat :=
  let page := a / 64
  let c := if page % 2 = 0 then (a % 64 - 8) / 2 + 1 else if a % 64 < 0x20 then 25 + (a % 64 - 8) / 2 else 37 + (a % 64 - 0x20) / 2
  c + 64 * (page - 8) + 256 * p.no

/-- A READ of `n` words from `a` on port `p`: what it returns first, where that is a latched word B. -/
def State.latchedB (s : State) (p : Port) (a : Nat) : Option Word :=
  match pairB a with | some _ => look s.cells.latch (latchKey p a) | none => none

/-- The effect of a READ on the pair latches: a READ that begins on a word B empties its latch, one that ends on a word A
fills the latch of its word B, and no other touches one (DESIGN CHOICE, log 135). -/
def State.latchPairs (s : State) (p : Port) (a n : Nat) : State :=
  let s := match pairB a with
    | some cell =>
      if (look s.cells.latch (latchKey p a)).isSome then { s with cells := { s.cells with latch := put s.cells.latch (latchKey p a) none } }
      else
        let s := s.evt CELLCFG.EVT.UNPAIRED
        if cell then s.set CELLCFG.UNPCELL.word (unpCell p a) else s
    | none => s
  match pairB (a + n) with
  | some _ => { s with cells := { s.cells with latch := put s.cells.latch (latchKey p (a + n)) (some (s.readWord (a + n))) } }
  | none => s

/-- The higher words that a read of the lowest word of LTC, STN or PTS latches (R51). -/
def timeHigh (a : Nat) : List Nat :=
  if a = linear 3 0x08 then [linear 3 0x09, linear 3 0x0A] else if a = linear 3 0x0B then [linear 3 0x0C]
  else if a = linear 3 0x0D then [linear 3 0x0E, linear 3 0x0F] else []

/-- The word at an address as a READ on port `p` returns it: a latched TIME word where one is held and the READ does not
cover its counter's lowest word. (DEDUCED, log 48) -/
def State.readTime (s : State) (p : Port) (a0 a : Nat) : Option Word :=
  match look s.tm.latch (latchKey p a) with
  | some v => if (List.range (a - a0)).any (fun i => (timeHigh (a0 + i)).contains a) then none else some v
  | none => none

/-- The effect of a READ of `n` words on the TIME latches. -/
def State.latchTime (s : State) (p : Port) (a n : Nat) : State :=
  let covered := (List.range n).map (a + ·)
  let l := covered.foldl (fun (m : SMap (Option Word)) b => put m (latchKey p b) none) s.tm.latch
  let l := (covered.flatMap timeHigh).foldl (fun (m : SMap (Option Word)) b =>
    if covered.contains b then m else put m (latchKey p b) (some (s.readWord b))) l
  { s with tm := { s.tm with latch := l } }

/-- The words a READ of `n` words from `a` on port `p` returns (R100, R101). -/
def State.readCmdWords (s : State) (p : Port) (a n : Nat) : List Word :=
  (List.range n).map (fun i =>
    match (if i = 0 then s.latchedB p a else none) with
    | some v => v
    | none => match s.readTime p a (a + i) with
      | some v => v
      | none => s.readWord (a + i))

/-- The window data words that a READ moves on from (R464). -/
def State.readCursor (s : State) (a : Nat) : State :=
  if a = IDENT.CERTDATA.addr then s.certAdvance
  else if a = QUEUE.PLANDATA.addr then s.planRead
  else if a = TABLE.TDATA.addr then s.tdata none
  else if a = IMPWIN.DATA7.addr then s.impAdvance
  else if a = GAL.DATA7.addr then s.galAdvance
  else s

/-- Everything a READ does besides returning words: latches, then cursors of the words it covered in address order. (DEDUCED, log 52) -/
def State.readEffect (s : State) (p : Port) (a n : Nat) : State :=
  forEach ((List.range n).map (a + ·)) (fun (b : Nat) (s : State) => s.readCursor b) ((s.latchPairs p a n).latchTime p a n)

end Sys2Proof.Machine
end

