-- ==== Sys2Proof/Machine/RegWrite.lean ====
section
/-! DEFINITION. RegWrite.lean: what a write of each register word does (R8, R9, R439 to R462 and the owning chapters):
header words, stored words with their refusals, staged words, and the action words. -/
namespace Sys2Proof.Machine

/-! ### Storing -/

/-- Store the bits of `mask`. -/
def State.store (s : State) (a : Nat) (mask v : Word) : State := s.setReg a ((s.reg a &&& ~~~mask) ||| (v &&& mask))

/-- Store the bits of `mask`; the old word stays in use until its instant. -/
def State.storeHeld (s : State) (a : Nat) (mask v : Word) : State := s.holdReg a ((s.reg a &&& ~~~mask) ||| (v &&& mask))

/-- Store the bits of `mask` where the value is permitted, else set the page's CFGREJ. -/
def State.storeIf (s : State) (ok : Bool) (ev : Fld) (a : Nat) (mask v : Word) : State := if ok then s.store a mask v else s.evt ev

/-- `storeIf` for a word whose effect waits. -/
def State.heldIf (s : State) (ok : Bool) (ev : Fld) (a : Nat) (mask v : Word) : State := if ok then s.storeHeld a mask v else s.evt ev

/-- The bits of the fields `l`, each its low bit and width. -/
def fieldBits (l : List (Nat × Nat)) : Word := l.foldl (fun m f => m ||| BitVec.ofNat 16 ((2 ^ f.2 - 1) * 2 ^ f.1)) 0

/-- Those of the fields `l` that a write leaves 0. -/
def zeroFields (v : Word) (l : List (Nat × Nat)) : List (Nat × Nat) := l.filter (fun f => fieldOf v f.1 f.2 == 0)

/-- Store the bits of `mask` but for the refused fields, which set the page's CFGREJ (R461). (DEDUCED, log 145) -/
def State.storeBut (s : State) (bad : List (Nat × Nat)) (ev : Fld) (a : Nat) (mask v : Word) : State :=
  (if bad.isEmpty then s else s.evt ev).store a (mask &&& ~~~fieldBits bad) v

/-- `storeBut` for a word whose effect waits. -/
def State.heldBut (s : State) (bad : List (Nat × Nat)) (ev : Fld) (a : Nat) (mask v : Word) : State :=
  (if bad.isEmpty then s else s.evt ev).storeHeld a (mask &&& ~~~fieldBits bad) v

/-- A low word of a value that spans several words (R462). -/
def State.stageWord (s : State) (a : Nat) (v : Word) : State := { s with staged := put s.staged a (some v) }

/-- The low word of a value whose higher word is being written. -/
def State.stagedLow (s : State) (a : Nat) : Word := (look s.staged a).getD (s.reg a)

/-- Forget a staged word. -/
def State.unstage (s : State) (a : Nat) : State := { s with staged := put s.staged a none }

/-- The higher word of a two-word value is written: both words are stored (R462). -/
def State.storePair (s : State) (lo : Nat) (mask v : Word) : State :=
  ((s.setReg lo (s.stagedLow lo)).unstage lo).store (lo + 1) mask v

/-- `storePair` for a value whose effect waits. -/
def State.storePairHeld (s : State) (lo : Nat) (mask v : Word) : State :=
  ((s.holdReg lo (s.stagedLow lo)).unstage lo).storeHeld (lo + 1) mask v

/-- The highest word of a three-word value is written: all three are stored (R462). -/
def State.storeTriple (s : State) (lo : Nat) (mask v : Word) : State :=
  ((s.setReg lo (s.stagedLow lo)).unstage lo).storePair (lo + 1) mask v

/-- `n` lies from `lo` to `hi`. -/
def within (lo hi n : Nat) : Bool := decide (lo ≤ n) && decide (n ≤ hi)

/-- The key byte of a CTRL word. -/
def keyOf (v : Word) : Byte := BitVec.ofNat 8 (v.toNat / 256)

/-! ### Header words (R459, R460) -/

/-- The EVT_EN bits of a page: those its EVT defines. -/
def evtMask : Nat → Word
  | 0x01 => 0xFF#16
  | 0x02 => 0x3F#16
  | 0x03 => 0x7F#16
  | 0x04 => 0x1FF#16
  | 0x05 => 0x3F#16
  | 0x06 => 0x7F#16
  | 0x07 => 0xF#16
  | 0x0C => 0x3F#16
  | 0x0D => 0x1F#16
  | 0x0E => 0x1F#16
  | 0x0F => 0x3F#16
  | 0x10 => 0x3FF#16
  | 0x11 => 1#16
  | 0x12 => 0x1F#16
  | 0x13 => 0x3F#16
  | 0x14 => 1#16
  | 0x15 => 0x1FF#16
  | 0x16 => 0x3FF#16
  | 0x17 => 0xF#16
  | 0x18 => 0x7F#16
  | 0x19 => 0x3FF#16
  | 0x1A => 0xFF#16
  | 0x1B => 7#16
  | 0x1C => 0xF#16
  | 0x1D => 0x3F#16
  | 0x1E => 3#16
  | _ => 0#16

/-- SYS.CTRL (R74): with the right key SLEEP is taken before SWRST. (DEDUCED, log 100) -/
def State.sysCtrl (s : State) (v : Word) : State :=
  if keyOf v ≠ 0xA5#8 then s.evt SYS.EVT.KEYREJ
  else if v.getLsbD 1 then s.sleepHost 0xA5#8
  else if v.getLsbD 0 then s.swrst 0xA5#8 else s

/-- CFGGUARD.CTRL (R455), its bits in order. (DEDUCED, log 101) -/
def State.guardCtrl (s : State) (v : Word) : State :=
  s.cfgKeyed (keyOf v) (fun s =>
    let s := if v.getLsbD 0 then s.cfgArm else s
    let s := if v.getLsbD 1 then s.cfgOpen else s
    let s := if v.getLsbD 2 then s.persist else s
    if v.getLsbD 3 then s.unpersist else s)

/-- SAFE.CTRL (R280). -/
def State.safeCtrl (s : State) (v : Word) : State :=
  if keyOf v ≠ 0xA5#8 then s.evt SAFE.EVT.KEYREJ
  else
    let s := if v.getLsbD 0 then s.safeTrip 0xA5#8 else s
    if v.getLsbD 1 then s.safeRetest 0xA5#8 else s

/-- A write of a page's CTRL word: its action bits in bit order. -/
def State.ctrlWrite (s : State) (page : Nat) (v : Word) : State :=
  let b := fun (i : Nat) => v.getLsbD i
  let a := linear page 1
  match page with
  | 0x01 => s.sysCtrl v
  | 0x02 => s.guardCtrl v
  | 0x04 =>
    let s := if b 0 then s.retrain .up (b 2) else s
    if b 1 then s.retrain .dn (b 2) else s
  | 0x05 => if b 0 then s.clearCaches else s
  | 0x06 => if b 0 then s.discardWaiting (s.get { QUEUE.QSEL with w := 6 }) else s
  | 0x07 =>
    let s := s.writeFineen (b 0)
    if b 1 then s.restartCmd else s
  | 0x0C => (s.storeHeld a 3#16 v).currStatus
  | 0x0D => s.storeHeld a 1#16 v
  | 0x0E => s.storeHeld a 1#16 v
  | 0x10 =>
    let s := s.store a 8#16 v
    let s := if b 0 then s.calRun else s
    let s := if b 1 then s.calAbort else s
    if b 2 then s.sysZero else s
  | 0x12 =>
    let s := if b 0 then { s with bal := { s.bal with stopReq := true } } else s
    let s := if b 1 then s.relearn else s
    if b 2 then { s with bal := { s.bal with retestReq := true } } else s
  | 0x13 =>
    let s := s.store a 4#16 v
    let s := if b 0 then s.impGo else s
    if b 1 then s.impAbort true else s
  | 0x15 => s.safeCtrl v
  | 0x17 => if b 0 then s.clrAll else s
  | 0x18 =>
    let s := if b 0 then s.galClear (keyOf v) else s
    if b 1 then s.xfer else s
  | 0x19 =>
    let s := if b 0 then s.format (keyOf v) else s
    let s := if b 1 then s.dumpStart else s
    if b 2 then (if s.flState = 1 then s.setFl { s.fl with scrubLeft := s.ringN } else s) else s
  | 0x1A =>
    let s := if b 0 then s.tipSearchReq else s
    let s := if b 1 then s.tipPollNow else s
    if b 2 then s.tipClear else s
  | 0x1C =>
    let s := if b 0 then s.tblCheck else s
    if b 1 then s.tblDel else s
  | 0x1D => if b 0 then s.diagNow else s
  | _ => s

/-! ### Words with rules of their own -/

/-- LINK.CFG (R344). -/
def State.linkCfg (s : State) (v : Word) : State :=
  (s.heldIf (fieldOf v 2 2 != 3 && fieldOf v 4 2 != 3) LINK.EVT.CFGREJ LINK.CFG.word.addr 0x3F#16 v).linkStatus

/-- QUEUE.QEN word `w`, in which Q0, Q2 and Q3 read 1: the four words are one value, which QEN3 takes up (R462). A queue switched off
discards its waiting blocks and its open one (R361). (DEDUCED, log 98) -/
def State.qenWrite (s : State) (w : Nat) (v : Word) : State :=
  if w < 3 then s.stageWord (QUEUE.QEN0.plus w).addr (if w = 0 then v ||| 0xD#16 else v)
  else
    let s := forEach (List.range 3) (fun (i : Nat) (s : State) =>
      let a := (QUEUE.QEN0.plus i).addr
      (s.setReg a (s.stagedLow a)).unstage a) s
    forEach (List.range 64) (fun (q : Nat) (s : State) =>
      if s.qEnabled q then s
      else if 4 ≤ q ∧ q ≤ 41 then { s.discardWaiting q with cells := { s.cells with openBlk := put s.cells.openBlk (q - 4) none } }
      else s.discardWaiting q) (s.setReg (QUEUE.QEN0.plus 3).addr v)

/-- QUEUE.QDEPTH of the selected queue (R361): the old depth stays in use until master clock 0. -/
def State.qDepthWrite (s : State) (v : Word) : State :=
  let q := s.get { QUEUE.QSEL with w := 6 }
  let d := v.toNat % 256
  if q = 0 ∨ q = 2 ∨ d < qMinDepth q ∨ 256 < s.depthSum - s.qDepth q + d then s.evt QUEUE.EVT.CFGREJ
  else { s with xact := { s.xact with depth := put s.xact.depth q (some d), depthUse := put s.xact.depthUse q (some (s.qDepthUsed q)) } }

/-- CELLCFG.FINE (R83, R89): the effect waits for a boundary of the new OSR; writing back what is in use withdraws a
waiting change. -/
def State.fineWrite (s : State) (v : Word) : State :=
  let a := CELLCFG.FINE.OSR.addr
  if fieldOf v 0 3 = 7 then s.evt CELLCFG.EVT.CFGREJ
  else
    let s := s.storeHeld a 0x1F7#16 v
    if s.reg a = s.useReg a then { s.release (· == a) with cells := { s.cells with finePend := none } }
    else { s with cells := { s.cells with finePend := some s.tm.tread } }

/-- CELLCFG.COUNT (R8, R102). -/
def State.countWrite (s : State) (v : Word) : State :=
  if s.rwLocked then s else s.heldIf (within 12 36 (v.toNat % 64)) CELLCFG.EVT.CFGREJ CELLCFG.COUNT.COUNT.addr 0x3F#16 v

/-- A lane's CFG word, with the staged low word of N (R181, R184, R462). (DEDUCED, log 68) -/
def State.laneCfg (s : State) (k : Nat) (v : Word) : State :=
  let lo := (laneFld IMP.LANEkNLO k).addr
  let n := (s.stagedLow lo).toNat + 65536 * fieldOf v 8 2
  if v.getLsbD 0 && !within 3 256000 n then (s.unstage lo).evt IMP.EVT.CFGREJ
  else
    let s := s.storePair lo 0x307#16 v
    (if v.getLsbD 0 then s else s.laneOff k).impStatus

/-- IMP.TCFG (R203, R204). -/
def State.tcfgWrite (s : State) (v : Word) : State :=
  let old := s.get { IMP.TCFG.TLANE with w := 8 }
  let s := s.store IMP.TCFG.TLANE.addr 0x1FFF#16 v
  (if s.get { IMP.TCFG.TLANE with w := 8 } = old then s else s.tempsNone).fault31

/-- IMPWIN.SEL (R209, R210). -/
def State.impSel (s : State) (v : Word) : State :=
  if 2 < fieldOf v 0 3 then s.evt ⟨0x14, 0x03, 0, 1⟩
  else ((s.set IMPWIN.SEL.CLASS (fieldOf v 0 3)).set IMPWIN.SEL.LANE (fieldOf v 4 3)).impFreeze (v.getLsbD 15)

/-- GAL.CURSOR (R392, R394). -/
def State.galCursor (s : State) (v : Word) : State :=
  if 5 < fieldOf v 0 3 then s.evt GAL.EVT.CFGREJ
  else (s.set { GAL.CURSOR with w := 3 } (fieldOf v 0 3)).galFreeze (v.getLsbD 15)

/-- FAULT.ERRCTL (R310): SWLEVEL is no CFG-class bit and stays writable while the guard is armed. -/
def State.errCtl (s : State) (v : Word) : State :=
  (s.storeBut (zeroFields v [(0, 8)]) FAULT.EVT.CFGREJ FAULT.ERRCTL.MINW.addr 0x3FF#16 v).errStatus

/-- TIPOL.CHMAP of the selected entry (R432, R437). -/
def State.chmapWrite (s : State) (v : Word) : State :=
  let e := s.get { TIPOL.SEL with w := 5 }
  match s.tipNode e with
  | some n => s.setNode e { n with chmap := v.toNat % 32768 }
  | none => s.evt TIPOL.EVT.CFGREJ

/-- TIPOL.CFG (R422, R437). -/
def State.tipCfg (s : State) (v : Word) : State :=
  s.heldIf (fieldOf v 1 2 != 3) TIPOL.EVT.CFGREJ TIPOL.CFG.EN.addr 0x1F#16 v

/-- CALWIN words 0x09 to 0x0B: staged where the selected set is a user trim (R172). -/
def State.trimStage (s : State) (a : Nat) (v : Word) : State :=
  if s.get { CALWIN.SEL with lo := 8, w := 4 } = 7 ∧ s.get { CALWIN.SEL with w := 6 } ≤ 37 then s.stageWord a v else s

/-! ### Pages, words 0x08 upward -/

/-- SYS (R67, R72, R74). -/
def State.sysWrite (s : State) (w : Nat) (v : Word) : State :=
  let a := linear 0x01 w
  match w with
  | 0x09 => s.setReg a (s.reg a &&& ~~~v)
  | 0x0C => s.store a 0xF#16 v
  | 0x0D => s.store a 3#16 v
  | _ => s

/-- LINK (R344). -/
def State.linkWrite (s : State) (w : Nat) (v : Word) : State :=
  let a := linear 0x04 w
  match w with
  | 0x08 => s.linkCfg v
  | 0x09 => s.heldIf (within 100 60000 v.toNat) LINK.EVT.CFGREJ a 0xFFFF#16 v
  | 0x0A => s.heldIf (within 1 1000 (v.toNat % 1024)) LINK.EVT.CFGREJ a 0x3FF#16 v
  | 0x1F => s.storeIf (fieldOf v 0 2 != 3) LINK.EVT.CFGREJ a 3#16 v
  | _ => s

/-- QUEUE (R379). -/
def State.queueWrite (s : State) (w : Nat) (v : Word) : State :=
  let a := linear 0x06 w
  if 0x08 ≤ w ∧ w ≤ 0x0B then s.qenWrite (w - 8) v
  else if 0x15 ≤ w ∧ w ≤ 0x18 then s.setReg a (s.reg a &&& ~~~v)
  else if 0x20 ≤ w ∧ w ≤ 0x2F then
    (if w % 2 = 0 then s.store a 0x87FF#16 v
     else s.storeIf (within 1 60 (fieldOf v 0 6) && fieldOf v 8 8 != 0) QUEUE.EVT.CFGREJ a 0xFF3F#16 v)
  else match w with
    | 0x0C => s.store a 0x3F#16 v
    | 0x0D => s.qDepthWrite v
    | 0x14 => s.storeIf (within 1 64 (v.toNat % 128)) QUEUE.EVT.CFGREJ a 0x7F#16 v
    | 0x30 => s.store a 1#16 v
    | 0x31 => s.store a 0x7FF#16 v
    | 0x32 => s.planWrite v
    | 0x33 => if v.getLsbD 0 then s.planChk else s
    | _ => s

/-- CELLCFG (R102): OVRSTK clears only where OVRLIVE is 0. -/
def State.cellWrite (s : State) (w : Nat) (v : Word) : State :=
  let a := linear 0x07 w
  if 0x0F ≤ w ∧ w ≤ 0x11 then s.setReg a (s.reg a &&& ~~~(v &&& ~~~s.reg (a - 3)))
  else match w with
    | 0x08 => s.countWrite v
    | 0x09 => s.fineWrite v
    | _ => s

/-- CURR (R107, R114 to R125). -/
def State.currWrite (s : State) (w : Nat) (v : Word) : State :=
  let a := linear 0x0C w
  (match w with
  | 0x08 => s.store a 1#16 v
  | 0x09 => s.heldIf (decide (fieldOf v 0 3 ≤ 4) && decide (fieldOf v 4 3 ≤ 4)) CURR.EVT.CFGREJ a 0x77#16 v
  | 0x0A => s.stageWord a v
  | 0x0B => s.storePair (a - 1) 0xFFFF#16 v
  | 0x0C => s.stageWord a v
  | 0x0D => s.storePair (a - 1) 0xFFFF#16 v
  | 0x0E => s.storeBut (zeroFields v [(4, 4)]) CURR.EVT.CFGREJ a 0xFFF3#16 v
  | 0x0F => s.store a 0xFFFF#16 v
  | 0x10 => s.heldBut (zeroFields v [(10, 4)]) CURR.EVT.CFGREJ a 0x3FFF#16 v
  | 0x11 => s.store a 0xFFFF#16 v
  | _ => s).currWords.currStatus

/-- AUXA and AUXB (R131, R150, R486). -/
def State.auxWrite (s : State) (c : Conv) (w : Nat) (v : Word) : State :=
  let a := linear c.page w
  let ev := c.fld AUXA.EVT.CFGREJ
  if 0x08 ≤ w ∧ w ≤ 0x17 then s.storeIf (entryOk v) ev a 0xBFFF#16 v
  else match w with
    | 0x38 => let t := s.store a 0xFF#16 v; if t.reg a = s.reg a then t else t.setConv c { t.conv c with regrid := true }
    | 0x39 => s.heldIf (decide (32 ≤ v.toNat % 256)) ev a 0xFF#16 v
    | 0x3A => if within 1 36 (v.toNat % 64) then (s.store a 0x3F#16 v).setConv c { s.conv c with rrSet := true } else s.evt ev
    | _ => s

/-- AUXCTL (R143, R151). -/
def State.auxctlWrite (s : State) (w : Nat) (v : Word) : State :=
  let a := linear 0x0F w
  let ev := AUXCTL.EVT.CFGREJ
  if 0x20 ≤ w ∧ w ≤ 0x37 then s.store a 0xFFFF#16 v
  else match w with
    | 0x08 => s.storeIf (sharedOk v) ev a 0x07FF#16 v
    | 0x09 => s.store a 0xFFFF#16 v
    | 0x0A => s.storeBut (zeroFields v [(0, 4), (4, 8)]) ev a 0x0FFF#16 v
    | 0x0B => s.storeBut (zeroFields v [(4, 4)] ++ if fieldOf v 8 3 = 7 then [(8, 3)] else []) ev a 0x07F1#16 v
    | 0x0C => s.store a 0xFFFF#16 v
    | 0x0D => s.storeIf (urgOk v) ev a 0xBFFF#16 v
    | 0x0E => s.storeIf (urgOk v) ev a 0xBFFF#16 v
    | 0x0F => s.urgReq v
    | _ => s

/-- CAL (R177). -/
def State.calWrite (s : State) (w : Nat) (v : Word) : State :=
  let a := linear 0x10 w
  let ev := CAL.EVT.CFGREJ
  match w with
  | 0x08 => s.store a 1#16 v
  | 0x09 => s.storeIf (within 1 40 (v.toNat % 64)) ev a 0x3F#16 v
  | 0x0A => s.storeIf (within 1 168 (v.toNat % 256)) ev a 0xFF#16 v
  | 0x0B => s.store a 0xFF#16 v
  | 0x0C => s.store a 0xF#16 v
  | 0x0D => s.storeIf (decide (v.toNat ≠ 0)) ev a 0xFFFF#16 v
  | 0x0E => s.store a 0xFFFF#16 v
  | _ => s

/-- CALWIN.SEL (R171): words staged for the entry shown before are dropped when SEL moves to another. (DEDUCED, log 64) -/
def State.calwinSel (s : State) (v : Word) : State :=
  let a := CALWIN.SEL.addr
  let t := s.storeIf (decide (fieldOf v 0 6 ≤ 55) && decide (fieldOf v 8 4 ≤ 9)) ⟨0x11, 0x03, 0, 1⟩ a 0x0F3F#16 v
  if t.reg a = s.reg a then t
  else { t with staged := t.staged.filter (fun e => !decide (CALWIN.OFS0.addr ≤ e.1 ∧ e.1 ≤ CALWIN.GAIN0.addr)) }

/-- CALWIN (R171, R172). -/
def State.calwinWrite (s : State) (w : Nat) (v : Word) : State :=
  let a := linear 0x11 w
  match w with
  | 0x08 => s.calwinSel v
  | 0x09 => s.trimStage a v
  | 0x0A => s.trimStage a v
  | 0x0B => s.trimStage a v
  | 0x0C => s.trimWrite v
  | _ => s

/-- BAL (R218, R232). -/
def State.balWrite (s : State) (w : Nat) (v : Word) : State :=
  let a := linear 0x12 w
  let ev := BAL.EVT.CFGREJ
  if 0x09 ≤ w ∧ w ≤ 0x2C then s.dutySet (w - 8) v
  else match w with
    | 0x08 => s.heldIf (within 1 36 (v.toNat % 64)) ev a 0x3F#16 v
    | 0x2D => s.storeHeld a 1#16 v
    | 0x2E => s.storeHeld a 0xF#16 v
    | 0x2F => s.heldIf (decide (v.toNat ≠ 0)) ev a 0xFFFF#16 v
    | 0x30 => s.stageWord a v
    | 0x31 => s.storePairHeld (a - 1) 0xFF#16 v
    | 0x32 => s.heldIf (decide (v.toNat ≠ 0)) ev a 0xFFFF#16 v
    | 0x33 => s.storeHeld a 0xFFFF#16 v
    | 0x34 => s.storeHeld a 0xFFFF#16 v
    | 0x3B => s.storeIf (decide (v.toNat % 64 ≤ 36)) ev a 0x3F#16 v
    | _ => s

/-- IMP (R181, R198, R208); CELLMAP and EXCMAP are taken up at their highest words (R462). -/
def State.impWrite (s : State) (w : Nat) (v : Word) : State :=
  let a := linear 0x13 w
  if 0x08 ≤ w ∧ w ≤ 0x27 then
    (match w % 4 with
    | 0 => s.stageWord a v
    | 1 => s.laneCfg ((w - 8) / 4) v
    | 2 => s.storeIf (decide (v.toNat ≠ 0)) IMP.EVT.CFGREJ a 0xFFFF#16 v
    | _ => s)
  else match w with
    | 0x28 => s.stageWord a v
    | 0x29 => s.stageWord a v
    | 0x2A => (s.storeTriple (a - 2) 0xF#16 v).impStatus
    | 0x2B => s.stageWord a v
    | 0x2C => s.stageWord a v
    | 0x2D => ((s.storeTriple (a - 2) 0xF#16 v).fault28.excTrim s.newestClk).impStatus
    | 0x2E => ((s.store a 0x1F#16 v).excTrim s.newestClk).impStatus
    | 0x2F => s.store a 0xFFFF#16 v
    | 0x30 => s.store a 0xFF#16 v
    | 0x31 => s.store a 0xFFFF#16 v
    | 0x32 => s.tcfgWrite v
    | 0x33 => s.store a 0xFFFF#16 v
    | 0x34 => s.stageWord a v
    | 0x35 => s.storePair (a - 1) 0xFFFF#16 v
    | _ => s

/-- IMPWIN (R202, R210). -/
def State.impwinWrite (s : State) (w : Nat) (v : Word) : State :=
  match w with
  | 0x08 => s.impSel v
  | 0x09 => s.storeIf (within 1 36 (v.toNat % 64)) ⟨0x14, 0x03, 0, 1⟩ (linear 0x14 w) 0x3F#16 v
  | 0x0C => s.tofsLoad v
  | _ => s

/-- The bits of the candidate words NEWOVLIM to NEWHOSTWD (R257). -/
def candMask (i : Nat) : Word := if i = 6 then 0xFF#16 else if i = 7 then 0xFFF#16 else if i = 8 then 1#16 else 0xFFFF#16

/-- SAFE (R257, R258, R267, R280). -/
def State.safeWrite (s : State) (w : Nat) (v : Word) : State :=
  let a := linear 0x15 w
  if 0x18 ≤ w ∧ w ≤ 0x21 then s.store a (candMask (w - 0x18)) v
  else match w with
    | 0x22 => s.stageWord a v
    | 0x23 => s.storePair (a - 1) 0xFFFF#16 v
    | 0x24 => s.tightCommit v
    | 0x26 => s.kick
    | _ => s

/-- FAULT (R304 to R307, R313). -/
def State.faultWrite (s : State) (w : Nat) (v : Word) : State :=
  let a := linear 0x17 w
  if 0x08 ≤ w ∧ w ≤ 0x0B then s.stickyClear (w - 8) v
  else if 0x10 ≤ w ∧ w ≤ 0x13 then s.storeHeld a (if w = 0x13 then 0x7FFF#16 else 0xFFFF#16) v
  else if 0x14 ≤ w ∧ w ≤ 0x1B then s.classStore (w - 0x14) v
  else if w = 0x1C then s.errCtl v
  else s

/-- GAL (R389, R392, R395, R399). -/
def State.galWrite (s : State) (w : Nat) (v : Word) : State :=
  let a := linear 0x18 w
  match w with
  | 0x08 => if within 10 1440 v.toNat then s.epochHold.setReg a v else s.evt GAL.EVT.CFGREJ
  | 0x09 => s.galCursor v
  | 0x0A => s.storeIf (within 1 36 (fieldOf v 0 6)) GAL.EVT.CFGREJ a 0x3F#16 v
  | 0x0B => s.storeIf (decide (fieldOf v 0 6 < classBins (s.get { GAL.CURSOR with w := 3 }))) GAL.EVT.CFGREJ a 0x3F#16 v
  | 0x20 => s.store a 1#16 v
  | _ => s

/-- FLASH (R421). (DEDUCED, log 112) -/
def State.flashWrite (s : State) (w : Nat) (v : Word) : State :=
  let a := linear 0x19 w
  let ev := FLASH.EVT.CFGREJ
  match w with
  | 0x08 => s.storeIf (fieldOf v 2 2 != 3) ev a 0xF#16 v
  | 0x09 => (s.storeIf (within 10 1000 v.toNat) ev a 0xFFFF#16 v).flWear
  | 0x1C => s.stageWord a v
  | 0x1D => s.storePair (a - 1) 0xFFFF#16 v
  | 0x1E => s.storeIf (decide (v.toNat ≠ 0)) ev a 0xFFFF#16 v
  | _ => s

/-- TIPOL (R437). -/
def State.tipolWrite (s : State) (w : Nat) (v : Word) : State :=
  let a := linear 0x1A w
  let ev := TIPOL.EVT.CFGREJ
  match w with
  | 0x08 => s.tipCfg v
  | 0x09 => s.heldIf (decide (10 ≤ v.toNat)) ev a 0xFFFF#16 v
  | 0x0A => s.heldIf (decide (v.toNat % 256 ≠ 0)) ev a 0xFF#16 v
  | 0x0B => s.heldIf (decide (v.toNat % 16 ≠ 0)) ev a 0xF#16 v
  | 0x0D => s.store a 0x1F#16 v
  | 0x12 => s.chmapWrite v
  | 0x15 => s.store a 0xF#16 v
  | _ => s

/-- DIAG (R248). -/
def State.diagWrite (s : State) (w : Nat) (v : Word) : State :=
  let a := linear 0x1D w
  let ev := DIAG.EVT.CFGREJ
  match w with
  | 0x08 => s.heldBut (zeroFields v [(4, 4), (8, 8)]) ev a 0xFFF3#16 v
  | 0x09 => s.heldIf (within 10 1000 (v.toNat % 1024)) ev a 0x3FF#16 v
  | 0x0A => s.heldIf (within 20 90 (v.toNat % 256)) ev a 0xFF#16 v
  | 0x0B => s.storeHeld a 0xFFFF#16 v
  | 0x0C => s.storeHeld a 0xFFFF#16 v
  | 0x0D => s.storeHeld a 0xFFFF#16 v
  | 0x0E => s.storeHeld a 0xFFFF#16 v
  | 0x18 => s.storeIf (decide (v.toNat % 64 ≤ 36)) ev a 0x3F#16 v
  | _ => s

/-- LIFE (R452, R453, R458). -/
def State.lifeWrite (s : State) (w : Nat) (v : Word) : State :=
  let a := linear 0x1E w
  match w with
  | 0x09 => s.store a 3#16 v
  | 0x0A => s.setReg a v
  | 0x0B => s.setReg a v
  | 0x0C => s.setReg a v
  | 0x0D => s.lifeArm v
  | 0x0E => s.lifeCommit v
  | _ => s

/-- A write of a word from 0x08 upward; what no page defines has no effect (R9). -/
def State.bodyWrite (s : State) (page w : Nat) (v : Word) : State :=
  match page with
  | 0x00 => if w = 0x30 then s.store (linear 0x00 0x30) 0x1FF#16 v else s
  | 0x01 => s.sysWrite w v
  | 0x02 => if w = 0x08 then s.stageWord (linear 0x02 0x08) v else if w = 0x09 then s.storePair (linear 0x02 0x08) 0xFFFF#16 v else s
  | 0x04 => s.linkWrite w v
  | 0x05 => if w = 0x08 then s.stairId v else s
  | 0x06 => s.queueWrite w v
  | 0x07 => s.cellWrite w v
  | 0x0C => s.currWrite w v
  | 0x0D => s.auxWrite .a w v
  | 0x0E => s.auxWrite .b w v
  | 0x0F => s.auxctlWrite w v
  | 0x10 => s.calWrite w v
  | 0x11 => s.calwinWrite w v
  | 0x12 => s.balWrite w v
  | 0x13 => s.impWrite w v
  | 0x14 => s.impwinWrite w v
  | 0x15 => s.safeWrite w v
  | 0x16 => if w = 0x09 then s.heldIf (decide (v.toNat % 1024 ≤ 999)) BAN.EVT.CFGREJ (linear 0x16 0x09) 0x3FF#16 v else s
  | 0x17 => s.faultWrite w v
  | 0x18 => s.galWrite w v
  | 0x19 => s.flashWrite w v
  | 0x1A => s.tipolWrite w v
  | 0x1C => match w with
    | 0x08 => s.tselWrite v
    | 0x09 => s.tptrWrite v
    | 0x0A => s.tdata (some v)
    | _ => s
  | 0x1D => s.diagWrite w v
  | 0x1E => s.lifeWrite w v
  | _ => s

/-! ### The guard and the write of one word -/

/-- The word at an address holds CFG-class data now: part 1 of the stream, a queue depth, a user trim or TOFS (R438,
R440). -/
def State.cfgClass (s : State) (a : Nat) : Bool :=
  cfgMask a != 0 || a == linear 0x06 0x0D ||
  (decide (linear 0x11 0x09 ≤ a ∧ a ≤ linear 0x11 0x0C) && s.get { CALWIN.SEL with lo := 8, w := 4 } == 7 && decide (s.get { CALWIN.SEL with w := 6 } ≤ 37)) ||
  (a == linear 0x14 0x0C && s.get IMPWIN.SEL.CLASS == 1)

/-- A write of CFG-class data while the guard is armed (R440): no effect but WLOCK; the bits of the word outside the class
are written (R461). -/
def State.lockedWrite (s : State) (a : Nat) (v : Word) : State :=
  if a = FAULT.ERRCTL.MINW.addr then (s.wlock.store a 0x100#16 v).errStatus else s.wlock

/-- Write one word (R8, R9, R459 to R462). -/
def State.writeWord (s : State) (a : Nat) (v : Word) : State :=
  let page := a / 64
  let w := a % 64
  if 2048 ≤ a then s
  else if s.guardArmed && s.cfgClass a then s.lockedWrite a v
  else if w = 1 then s.ctrlWrite page v
  else if w = 3 then s.setReg a (s.reg a &&& ~~~v)
  else if w = 4 then s.store a (evtMask page) v
  else if w < 8 then s
  else s.bodyWrite page w v

/-- Write words in ascending address order (R356). -/
def State.writeWords (s : State) (a : Nat) : List Word → State
  | [] => s
  | v :: l => (s.writeWord a v).writeWords (a + 1) l

/-- The words that write ones to clear: EVT, RSTCAUSE, DROPMAP, OVRSTK, STICKY. -/
def isW1c (a : Nat) : Bool :=
  a % 64 == 3 || a == linear 0x01 0x09 || (a / 64 == 0x06 && within 0x15 0x18 (a % 64)) ||
  (a / 64 == 0x07 && within 0x0F 0x11 (a % 64)) || (a / 64 == 0x17 && within 0x08 0x0B (a % 64))

/-- WRITE-MASK of one word: (old AND NOT mask) OR (value AND mask); unmasked W1C bits are written as 0 (R356). (DEDUCED, log 97) -/
def State.maskWord (s : State) (a : Nat) (mask v : Word) : State :=
  s.writeWord a (if isW1c a then v &&& mask else (s.readWord a &&& ~~~mask) ||| (v &&& mask))

/-- WRITE-MASK of pairs mask, value in ascending address order. -/
def State.maskWords (s : State) (a : Nat) : List Word → State
  | m :: v :: l => (s.maskWord a m v).maskWords (a + 1) l
  | _ => s

/-! ### Rows -/

/-- REGISTER_WRITE (R8, R9, R459 to R462). (DEDUCED, log 30) -/
def execRegisterWrite (a : Fin 2048) (v : Word) (s : State) : Host.Outcome State Fault Refusal :=
  whenActing s fun s => s.writeBegin.writeWord a.val v

/-- CLASS_WRITE: CLASS word `w` (R305). -/
def execClassWrite (w : Fin 8) (v : Word) (s : State) : Host.Outcome State Fault Refusal :=
  whenActive [] s fun s => if s.guardArmed then s.wlock else s.classStore w.val v

/-- USER_TRIM_WRITE: CALWIN word 0x0C (R172). -/
def execUserTrimWrite (v : Word) (s : State) : Host.Outcome State Fault Refusal :=
  whenActive [.staged, .cal] s fun s => if s.guardArmed && s.cfgClass (linear 0x11 0x0C) then s.wlock else s.trimWrite v

/-- TOFS_WRITE: class 1 DATA2 of the window (R202). -/
def execTofsWrite (v : Word) (s : State) : Host.Outcome State Fault Refusal :=
  whenActive [.imp] s fun s => if s.guardArmed && s.cfgClass (linear 0x14 0x0C) then s.wlock else s.tofsLoad v

end Sys2Proof.Machine
end

