-- ==== Sys2Proof/Machine/Xact.lean ====
section
/-! DEFINITION. Xact.lean: transactions (R345 to R359, R376): acceptance, the duplicate caches, status codes, the
eight commands and their responses, command slots with a reserved opcode, and mirror reads (R368). -/
namespace Sys2Proof.Machine

/-! ### The payload (R351) and the caches (R357, R358) -/

/-- The DATA field: 60 words. -/
def Cmd.words (c : Cmd) : List Word := (List.range 60).map (fun i => BitVec.ofNat 16 (slotNum c.raw (8 + 2 * i) 2))

/-- Data word `i` as a number. -/
def Cmd.dat (c : Cmd) (i : Nat) : Nat := ((Cmd.words c).getD i 0).toNat

/-- The 128 payload bytes. -/
def Cmd.payload (c : Cmd) : List Byte := (c.raw.payload ++ List.replicate 128 0).take 128

/-- The duplicate cache of a port, newest first. -/
def State.cache (s : State) (p : Port) : List CacheEnt := match p with | .up => s.xact.cacheUp | .dn => s.xact.cacheDn

/-- Enter a command; the oldest of 16 goes. -/
def State.enter (s : State) (p : Port) (e : CacheEnt) : State :=
  match p with
  | .up => { s with xact := { s.xact with cacheUp := (e :: s.xact.cacheUp).take 16 } }
  | .dn => { s with xact := { s.xact with cacheDn := (e :: s.xact.cacheDn).take 16 } }

/-- NORESP on a broadcast: nothing is answered. -/
def Cmd.silent (c : Cmd) : Bool := c.flags.getLsbD 0 && c.flags.getLsbD 2

/-- The command is one for this device (R345, R347, R352). -/
def Cmd.addressed (c : Cmd) (op : Nat) : Bool := slotCommand c.raw && slotOp c.raw == op && (c.hop == 0#8 || c.flags.getLsbD 0 || op == 4 || op == 5)

/-! ### Status (R348, R351 to R354, R376) -/

/-- COUNT's range of an opcode. -/
def countRange : Nat → Nat × Nat
  | 1 => (1, 60)
  | 2 => (1, 60)
  | 3 => (1, 30)
  | 4 => (1, 60)
  | 5 => (1, 1)
  | 6 => (0, 4)
  | 7 => (3, 3)
  | _ => (5, 5)

/-- The opcode addresses words. -/
def opMem (op : Nat) : Bool := within 1 4 op

/-- WILD is accepted on the command (R348). -/
def Cmd.wildOk (c : Cmd) (op : Nat) : Bool := op == 5 || op == 6 || (op == 4 && c.count == 1#8 && c.addr == 0x0148#16)

/-- Some flag is not allowed, or a reserved bit is not 0 (R348, R351, R352). -/
def Cmd.badFlags (c : Cmd) (op : Nat) : Bool :=
  decide (8 ≤ c.flags.toNat) || decide (64 ≤ c.sid.toNat) || decide (2048 ≤ c.addr.toNat) || (c.flags.getLsbD 2 && !c.flags.getLsbD 0) ||
  (c.flags.getLsbD 0 && within 1 3 op) || (c.flags.getLsbD 1 && !Cmd.wildOk c op)

/-- The named tread `t` lies at least `lo` and at most 65,535 treads ahead, and the STN is valid (R44, R46). -/
def State.namedOk (s : State) (t lo : Nat) : Bool :=
  s.bit TIME.STATUS.STNVALID && within lo 65535 ((t + 4294967296 - s.tm.stn) % 4294967296)

/-- Words `i` and `i` + 1 of the data as one value. -/
def Cmd.dat2 (c : Cmd) (i : Nat) : Nat := Cmd.dat c i + 65536 * Cmd.dat c (i + 1)

/-- The named tread is refused. -/
def State.badTread (s : State) (op : Nat) (c : Cmd) : Bool :=
  (op == 7 && !s.namedOk (Cmd.dat2 c 1) 17) || (op == 8 && !s.namedOk (Cmd.dat2 c 3) 2)

/-- A data field is out of range. -/
def Cmd.badArg (c : Cmd) (op : Nat) : Bool :=
  (op == 5 && decide (256 < Cmd.dat c 0)) || (op == 7 && decide (Cmd.dat c 0 % 4 = 3)) || (op == 8 && decide (999 < Cmd.dat c 2))

/-- The status of a command, by the first cause that applies in the order of the codes. (DEDUCED, log 94) -/
def State.cmdStatus (s : State) (op : Nat) (c : Cmd) : Nat :=
  if within 1 8 op = false then 1
  else if Cmd.badFlags c op then 2
  else if within (countRange op).1 (countRange op).2 c.count.toNat = false then 3
  else if (if opMem op then decide (2048 < c.addr.toNat + c.count.toNat) else c.addr != 0#16) then 4
  else if !c.flags.getLsbD 1 && !(s.bit XACT.STATUS.SIDSET && s.get { XACT.STAIRID with w := 6 } == c.sid.toNat) then 5
  else if s.badTread op c then 6
  else if Cmd.badArg c op then 7
  else 0

/-! ### Responses (R354, R359) -/

/-- The first eight bytes of a response. -/
def Cmd.respHead (c : Cmd) (op status : Nat) : List Byte :=
  leBytes 1 (op % 128 + 128) ++ leBytes 1 status ++ leBytes 2 c.tid.toNat ++ leBytes 1 (2 * c.port.no) ++ [c.count] ++ leBytes 2 c.addr.toNat

/-- Post a response toward the landing of a port. -/
def State.respond (s : State) (p : Port) (bytes : List Byte) : State := s.append 3 bytes (p == .up) (p == .dn) true

/-- Q3 has no room (R359). -/
def State.q3Full (s : State) : State := (s.inc XACT.Q3FULL).evt XACT.EVT.Q3FULL

/-- A rejection: its counters and fault 39 (R348, R354). (DEDUCED, log 95) -/
def State.reject (s : State) (op status : Nat) (c : Cmd) : State :=
  ((((s.inc XACT.REJCNT).set XACT.LASTREJ (status + 256 * op)).set XACT.LASTREJTID c.tid.toNat).evt XACT.EVT.REJECT).occur 39

/-- A command found in the cache with the same content (R358). -/
def State.duplicate (s : State) (p : Port) (e : CacheEnt) : State :=
  match e.resp with
  | none => s
  | some r =>
    if s.qRoom 3 r.length = false then s.q3Full
    else ((s.inc XACT.DUPCNT).evt XACT.EVT.DUP).respond p (patch r 4 [r.getD 4 0 ||| 1#8])

/-- Execute or reject a command that is not a duplicate (R357, R359): `st` is its status, `n` the bytes of data its answer
carries, `ans` whether it answers when it is executed, `run` its effect and answer. A command that no sender would have answered, a
COUNT-OFF with a stair length, makes no cache entry (R349). -/
def State.perform (s : State) (op : Nat) (c : Cmd) (st n : Nat) (ans : Bool) (run : State → State × List Byte) : State :=
  let answers := !Cmd.silent c && (st != 0 || ans)
  if answers && !s.qRoom 3 (8 + (if st = 0 then n else 0)) then s.q3Full
  else
    let (t, d) := if st = 0 then (let r := run s; (r.1.inc XACT.CMDCNT, r.2)) else (s.reject op st c, [])
    let r := Cmd.respHead c op st ++ d
    let t := if answers then t.respond c.port r else t
    if st = 8 ∨ (st = 0 ∧ ans = false) then t else t.enter c.port ⟨c.tid.toNat, crc32 (Cmd.payload c), if answers then some r else none⟩

/-- A command slot that has arrived (R345 to R359). (DEDUCED, log 96) -/
def State.command (s : State) (op : Nat) (c : Cmd) (n : Nat) (ans : Bool) (run : State → State × List Byte) : State :=
  if s.linkUp c.port = false ∨ s.framed c.port = false ∨ Cmd.addressed c op = false then s
  else if c.crcOk = false ∨ c.ver ≠ 1#4 then (s.inc XACT.CRCCMD).evt XACT.EVT.CRCCMD
  else match (s.cache c.port).find? (fun e => e.tid == c.tid.toNat) with
    | some e => if e.crc = crc32 (Cmd.payload c) then s.duplicate c.port e else s.perform op c 8 n ans run
    | none => s.perform op c (s.cmdStatus op c) n ans run

/-! ### Command slots with a reserved opcode (R345, R351, R352) -/

/-- A command slot whose opcode the table of R352 does not list. -/
def oddCommand (x : Slot) : Bool := slotCommand x && !within 1 8 (slotOp x)

/-- The command a slot of port `p` carries (R351). -/
def slotCmd (p : Port) (x : Slot) : Cmd := ⟨p, x⟩

/-- A slot arrives: it is forwarded, and a reserved opcode is rejected with OPCODE; the commands of listed opcodes are
rows of their own. (DEDUCED, log 96) -/
def State.slotArrives (s : State) (p : Port) (sos : Bool) (x : Slot) : State :=
  let t := s.slotRx p sos x
  if oddCommand x then t.command (slotOp x) (slotCmd p x) 0 false (fun s => (s, [])) else t

/-! ### Effects (R349, R353, R356, R376) -/

/-- The data words a WRITE stores. -/
def Cmd.stored (c : Cmd) : List Word := (Cmd.words c).take c.count.toNat

/-- READ. -/
def State.runRead (s : State) (c : Cmd) : State × List Byte :=
  (s.readEffect c.port c.addr.toNat c.count.toNat, wordBytes (s.readCmdWords c.port c.addr.toNat c.count.toNat))

/-- WRITE and BCAST-WRITE. -/
def State.runWrite (s : State) (c : Cmd) : State × List Byte := (s.writeBegin.writeWords c.addr.toNat (Cmd.stored c), [])

/-- WRITE-MASK. -/
def State.runMask (s : State) (c : Cmd) : State × List Byte :=
  (s.writeBegin.maskWords c.addr.toNat ((Cmd.words c).take (2 * c.count.toNat)), [])

/-- The position COUNT-OFF gives (R349). -/
def Cmd.position (c : Cmd) : Nat := (256 - c.hop.toNat) % 256

/-- COUNT-OFF (R349). -/
def State.runCountOff (s : State) (c : Cmd) : State × List Byte :=
  let p := Cmd.position c
  let s := match c.port with
    | .up => (s.set XACT.POSUP (p + 32768)).setB XACT.STATUS.POSUPV true
    | .dn => (s.set XACT.POSDN (p + 32768)).setB XACT.STATUS.POSDNV true
  let n := Cmd.dat c 0
  let s := if n = 0 then s else (s.set XACT.STAIRLEN (n + 32768)).setB XACT.STATUS.LENV true
  let s := (s.evt XACT.EVT.COUNTOFF).planEval.currStatus
  (s, leBytes 2 s.devId ++ leBytes 2 p ++ leBytes 2 (s.reg XACT.STATUS.SIDSET.addr).toNat ++ leBytes 8 s.vault.fnum)

/-- PING (R353). -/
def State.runPing (s : State) (c : Cmd) : State × List Byte :=
  let st := (if s.locked then 1 else 0) + 2 * s.activeBank + (if s.leanOp then 4 else 0) + (if s.bit TIME.STATUS.ALIGNED then 8 else 0)
  (s, leBytes 2 s.devId ++ leBytes 2 (s.get XACT.POSUP) ++ leBytes 2 (s.get XACT.POSDN) ++ leBytes 2 (s.get XACT.STAIRLEN) ++
    leBytes 4 s.tm.stn ++ leBytes 6 s.tm.ltc ++ leBytes 2 st ++ wordBytes (Cmd.stored c))

/-- RATE-SET (R353, R376). -/
def State.runRateSet (s : State) (c : Cmd) : State × List Byte :=
  let w := Cmd.dat c 0 % 8
  let b := w / 4
  let r := w % 4
  let s := (((s.set XACT.RSARM (w + 8)).set2 XACT.RSTN0 (Cmd.dat2 c 1)).setB XACT.STATUS.RSARMED true)
  let usable := s.leanWhy b r == 0
  (s, leBytes 2 (s.get (planState b) + (if usable then 4 else 0)) ++ wordBytes [s.planWord b 4, s.planWord b 5] ++
    (List.range 4).flatMap (fun l => leBytes 1 (eyeByte (s.eyeAt r l))))

/-- PLANT-TIME (R46, R48). -/
def State.runPlantTime (s : State) (c : Cmd) : State × List Byte :=
  (((((s.set2 TIME.PEND0 (Cmd.dat2 c 0)).set (TIME.PEND0.plus 2) (Cmd.dat c 2)).set2 TIME.PENDT0 (Cmd.dat2 c 3)).setB TIME.STATUS.PTPEND true), [])

/-! ### Rows -/

/-- SLOT_RX (R325, R326, R346, R352). -/
def execSlotRx (p : Port) (sos : Bool) (x : Slot) (s : State) : Host.Outcome State Fault Refusal :=
  whenActive [.xact, .link] s fun s => s.slotArrives p sos x

/-- READ (R100, R101, R353, R464). -/
def execRead (c : Cmd) (s : State) : Host.Outcome State Fault Refusal :=
  whenActive [.tm, .cells, .bal, .xact, .cfg] s fun s => s.command 1 c (2 * c.count.toNat) true (fun s => s.runRead c)

/-- WRITE (R353, R356). -/
def execWrite (c : Cmd) (s : State) : Host.Outcome State Fault Refusal :=
  whenActing s fun s => s.command 2 c 0 true (fun s => s.runWrite c)

/-- WRITE_MASK (R353, R356). -/
def execWriteMask (c : Cmd) (s : State) : Host.Outcome State Fault Refusal :=
  whenActing s fun s => s.command 3 c 0 true (fun s => s.runMask c)

/-- BCAST_WRITE (R348, R352, R356). -/
def execBcastWrite (c : Cmd) (s : State) : Host.Outcome State Fault Refusal :=
  whenActing s fun s => s.command 4 c 0 true (fun s => s.runWrite c)

/-- COUNT_OFF (R349): the pass with a stair length is not answered. -/
def execCountOff (c : Cmd) (s : State) : Host.Outcome State Fault Refusal :=
  whenActive [.xact] s fun s => s.command 5 c 14 (Cmd.dat c 0 == 0) (fun s => s.runCountOff c)

/-- PING (R353). -/
def execPing (c : Cmd) (s : State) : Host.Outcome State Fault Refusal :=
  whenActive [.xact] s fun s => s.command 6 c (20 + 2 * c.count.toNat) true (fun s => s.runPing c)

/-- RATE_SET (R353, R376). -/
def execRateSet (c : Cmd) (s : State) : Host.Outcome State Fault Refusal :=
  whenActive [.xact] s fun s => s.command 7 c 10 true (fun s => s.runRateSet c)

/-- PLANT_TIME (R46, R48). -/
def execPlantTime (c : Cmd) (s : State) : Host.Outcome State Fault Refusal :=
  whenActive [.xact] s fun s => s.command 8 c 0 true (fun s => s.runPlantTime c)

/-- Mirror `k` at 250 µs of its tread (R368): no latch and no cursor moves. (DEDUCED, log 99) -/
def State.mirror (s : State) (k : Nat) : State :=
  let a := s.reg (QUEUE.MIRkA.plus (2 * k)).addr
  let b := s.reg (QUEUE.MIRkB.plus (2 * k)).addr
  let addr := fieldOf a 0 11
  let n := fieldOf b 0 6
  if a.getLsbD 15 && decide (s.tm.stn % max (fieldOf b 8 8) 1 = 0) then
    s.post (55 + k) (leBytes 4 s.tm.stn ++ leBytes 2 addr ++ leBytes 1 n ++ [0] ++ wordBytes (s.readWords addr n))
  else s

/-- MIRROR_READ. -/
def execMirrorRead (k : Fin 8) (s : State) : Host.Outcome State Fault Refusal := whenActive [.bal, .xact] s fun s => s.mirror k.val

end Sys2Proof.Machine
end

