-- ==== Sys2Proof/Machine/Dispatch.lean ====
section
/-! DEFINITION. Dispatch.lean: the meaning of every command of spec/opcode_table.json, one arm per row. -/
namespace Sys2Proof.Machine

/-- What a command does to everything but the queue. -/
def exec (i : Instr) (s : State) : Host.Outcome State Fault Refusal :=
  match i with
  | .powerOnReset => Sys2Proof.Machine.execPowerOnReset s
  | .brownOutReset => Sys2Proof.Machine.execBrownOutReset s
  | .pinReset => Sys2Proof.Machine.execPinReset s
  | .thermalShutdown die => Sys2Proof.Machine.execThermalShutdown die s
  | .supplyMonitor m v => Sys2Proof.Machine.execSupplyMonitor m v s
  | .suppliesValid auxSupply => Sys2Proof.Machine.execSuppliesValid auxSupply s
  | .vaultRead crcOk sigOk => Sys2Proof.Machine.execVaultRead crcOk sigOk s
  | .strapLatch safcfg brole => Sys2Proof.Machine.execStrapLatch safcfg brole s
  | .sentinelArm => Sys2Proof.Machine.execSentinelArm s
  | .wakeToneEnd => Sys2Proof.Machine.execWakeToneEnd s
  | .configLoad regionOk => Sys2Proof.Machine.execConfigLoad regionOk s
  | .buckFault c => Sys2Proof.Machine.execBuckFault c s
  | .buckRetry => Sys2Proof.Machine.execBuckRetry s
  | .swrst key => Sys2Proof.Machine.execSwrst key s
  | .sleep key => Sys2Proof.Machine.execSleep key s
  | .commLossTimeout => Sys2Proof.Machine.execCommLossTimeout s
  | .sleepEntry => Sys2Proof.Machine.execSleepEntry s
  | .sleepFlushDone w => Sys2Proof.Machine.execSleepFlushDone w s
  | .sleepFlushTimeout w => Sys2Proof.Machine.execSleepFlushTimeout w s
  | .wakePin => Sys2Proof.Machine.execWakePin s
  | .wakeToneDetect p => Sys2Proof.Machine.execWakeToneDetect p s
  | .rstnWake => Sys2Proof.Machine.execRstnWake s
  | .treadStart cvUp cvDn => Sys2Proof.Machine.execTreadStart cvUp cvDn s
  | .alignmentLost => Sys2Proof.Machine.execAlignmentLost s
  | .tmkRx p m clean crc tArr => Sys2Proof.Machine.execTmkRx p m clean crc tArr s
  | .slippedTread cut => Sys2Proof.Machine.execSlippedTread cut s
  | .alignSourceChange p => Sys2Proof.Machine.execAlignSourceChange p s
  | .ltchiWrite verified => Sys2Proof.Machine.execLtchiWrite verified s
  | .plantTime c => Sys2Proof.Machine.execPlantTime c s
  | .plantTimeApply => Sys2Proof.Machine.execPlantTimeApply s
  | .snapshotImage late samples => Sys2Proof.Machine.execSnapshotImage late samples s
  | .fineBoundary clk samples => Sys2Proof.Machine.execFineBoundary clk samples s
  | .restart => Sys2Proof.Machine.execRestart s
  | .fineen on => Sys2Proof.Machine.execFineen on s
  | .overloadAssert ch high clk => Sys2Proof.Machine.execOverloadAssert ch high clk s
  | .overloadRelease ch clk => Sys2Proof.Machine.execOverloadRelease ch clk s
  | .broadcastBlockRx p sos x => Sys2Proof.Machine.execBroadcastBlockRx p sos x s
  | .gapTread => Sys2Proof.Machine.execGapTread s
  | .auxPowerUp c => Sys2Proof.Machine.execAuxPowerUp c s
  | .auxPassStart c => Sys2Proof.Machine.execAuxPassStart c s
  | .quietEntryStart c => Sys2Proof.Machine.execQuietEntryStart c s
  | .auxConversionEnd c raw clk => Sys2Proof.Machine.execAuxConversionEnd c raw clk s
  | .sharedStale => Sys2Proof.Machine.execSharedStale s
  | .crossCompare c => Sys2Proof.Machine.execCrossCompare c s
  | .urgreq v => Sys2Proof.Machine.execUrgreq v s
  | .urgentConversionEnd c raw clk => Sys2Proof.Machine.execUrgentConversionEnd c raw clk s
  | .auxEnableChange c => Sys2Proof.Machine.execAuxEnableChange c s
  | .run => Sys2Proof.Machine.execRun s
  | .calAbort => Sys2Proof.Machine.execCalAbort s
  | .syszero => Sys2Proof.Machine.execSyszero s
  | .syszeroTread => Sys2Proof.Machine.execSyszeroTread s
  | .calGroupTread meas => Sys2Proof.Machine.execCalGroupTread meas s
  | .refTrioMeasure a b c => Sys2Proof.Machine.execRefTrioMeasure a b c s
  | .calAutoStart => Sys2Proof.Machine.execCalAutoStart s
  | .calOverdue => Sys2Proof.Machine.execCalOverdue s
  | .slotCommit ok => Sys2Proof.Machine.execSlotCommit ok s
  | .vaultCommitDeferEnd ok => Sys2Proof.Machine.execVaultCommitDeferEnd ok s
  | .coeffCrcCheck st => Sys2Proof.Machine.execCoeffCrcCheck st s
  | .guardVaultWrite => Sys2Proof.Machine.execGuardVaultWrite s
  | .healthPost => Sys2Proof.Machine.execHealthPost s
  | .userTrimWrite v => Sys2Proof.Machine.execUserTrimWrite v s
  | .go => Sys2Proof.Machine.execGo s
  | .stop => Sys2Proof.Machine.execStop s
  | .impIntegrationStart lane => Sys2Proof.Machine.execImpIntegrationStart lane s
  | .impResults lane => Sys2Proof.Machine.execImpResults lane s
  | .impResume => Sys2Proof.Machine.execImpResume s
  | .tofsWrite v => Sys2Proof.Machine.execTofsWrite v s
  | .impwinCursorAdvance => Sys2Proof.Machine.execImpwinCursorAdvance s
  | .impwinFreeze on => Sys2Proof.Machine.execImpwinFreeze on s
  | .balRiserAlloc r meas => Sys2Proof.Machine.execBalRiserAlloc r meas s
  | .dutyWrite c v => Sys2Proof.Machine.execDutyWrite c v s
  | .modeStop c => Sys2Proof.Machine.execModeStop c s
  | .switchFail c k => Sys2Proof.Machine.execSwitchFail c k s
  | .stopall => Sys2Proof.Machine.execStopall s
  | .relearn => Sys2Proof.Machine.execRelearn s
  | .balRetest => Sys2Proof.Machine.execBalRetest s
  | .learnBlock t => Sys2Proof.Machine.execLearnBlock t s
  | .diagTread => Sys2Proof.Machine.execDiagTread s
  | .tapTestPhase t ph m => Sys2Proof.Machine.execTapTestPhase t ph m s
  | .now => Sys2Proof.Machine.execNow s
  | .spanFallback => Sys2Proof.Machine.execSpanFallback s
  | .sentinelAssert x on => Sys2Proof.Machine.execSentinelAssert x on s
  | .sentinelTrip x => Sys2Proof.Machine.execSentinelTrip x s
  | .sentinelRelease x => Sys2Proof.Machine.execSentinelRelease x s
  | .safetyEvaluation p => Sys2Proof.Machine.execSafetyEvaluation p s
  | .hostWatchdogExpire => Sys2Proof.Machine.execHostWatchdogExpire s
  | .kick => Sys2Proof.Machine.execKick s
  | .safeTrip key => Sys2Proof.Machine.execSafeTrip key s
  | .safeRetest key => Sys2Proof.Machine.execSafeRetest key s
  | .tcommit v => Sys2Proof.Machine.execTcommit v s
  | .sentinelSelfTest r => Sys2Proof.Machine.execSentinelSelfTest r s
  | .heartbeatEdge t => Sys2Proof.Machine.execHeartbeatEdge t s
  | .heartbeatLoss t => Sys2Proof.Machine.execHeartbeatLoss t s
  | .ackEdge t => Sys2Proof.Machine.execAckEdge t s
  | .ackBurstEnd t => Sys2Proof.Machine.execAckBurstEnd t s
  | .ackHeld t => Sys2Proof.Machine.execAckHeld t s
  | .ackQuiet t => Sys2Proof.Machine.execAckQuiet t s
  | .ovsChange mV => Sys2Proof.Machine.execOvsChange mV s
  | .readbackFailure => Sys2Proof.Machine.execReadbackFailure s
  | .offPulseStart => Sys2Proof.Machine.execOffPulseStart s
  | .offPulsePass fall => Sys2Proof.Machine.execOffPulsePass fall s
  | .offPulseFail => Sys2Proof.Machine.execOffPulseFail s
  | .offPulseReclose => Sys2Proof.Machine.execOffPulseReclose s
  | .recloseCheckEnd ok => Sys2Proof.Machine.execRecloseCheckEnd ok s
  | .stageCheckPhase ph ok => Sys2Proof.Machine.execStageCheckPhase ph ok s
  | .faultCollection => Sys2Proof.Machine.execFaultCollection s
  | .errPulseEnd => Sys2Proof.Machine.execErrPulseEnd s
  | .stickyClear w v => Sys2Proof.Machine.execStickyClear w v s
  | .clrall => Sys2Proof.Machine.execClrall s
  | .classWrite w v => Sys2Proof.Machine.execClassWrite w v s
  | .listenRateCycle p => Sys2Proof.Machine.execListenRateCycle p s
  | .ts1Rx p f complementOk => Sys2Proof.Machine.execTs1Rx p f complementOk s
  | .trainingDetectDone p => Sys2Proof.Machine.execTrainingDetectDone p s
  | .eyeSweepDone p positions => Sys2Proof.Machine.execEyeSweepDone p positions s
  | .prbRx p id res => Sys2Proof.Machine.execPrbRx p id res s
  | .echRx p id res rt => Sys2Proof.Machine.execEchRx p id res rt s
  | .hopDelayDone p => Sys2Proof.Machine.execHopDelayDone p s
  | .trainingReportDone p f eye eyes d => Sys2Proof.Machine.execTrainingReportDone p f eye eyes d s
  | .linkDown p why => Sys2Proof.Machine.execLinkDown p why s
  | .retrain p => Sys2Proof.Machine.execRetrain p s
  | .fullTraining p => Sys2Proof.Machine.execFullTraining p s
  | .slotRx p sos x => Sys2Proof.Machine.execSlotRx p sos x s
  | .ownedSlot l slot f => Sys2Proof.Machine.execOwnedSlot l slot f s
  | .eyeMonitor p positions => Sys2Proof.Machine.execEyeMonitor p positions s
  | .crcWindowEnd => Sys2Proof.Machine.execCrcWindowEnd s
  | .rateChange => Sys2Proof.Machine.execRateChange s
  | .rateTreadDone p f => Sys2Proof.Machine.execRateTreadDone p f s
  | .rateTreadTimeout p => Sys2Proof.Machine.execRateTreadTimeout p s
  | .rateSetMissing => Sys2Proof.Machine.execRateSetMissing s
  | .bankSwitch => Sys2Proof.Machine.execBankSwitch s
  | .read c => Sys2Proof.Machine.execRead c s
  | .write c => Sys2Proof.Machine.execWrite c s
  | .writeMask c => Sys2Proof.Machine.execWriteMask c s
  | .bcastWrite c => Sys2Proof.Machine.execBcastWrite c s
  | .countOff c => Sys2Proof.Machine.execCountOff c s
  | .ping c => Sys2Proof.Machine.execPing c s
  | .rateSet c => Sys2Proof.Machine.execRateSet c s
  | .fsageClose q => Sys2Proof.Machine.execFsageClose q s
  | .mirrorRead k => Sys2Proof.Machine.execMirrorRead k s
  | .planchk => Sys2Proof.Machine.execPlanchk s
  | .plandataAccess wr => Sys2Proof.Machine.execPlandataAccess wr s
  | .flush => Sys2Proof.Machine.execFlush s
  | .clrcache => Sys2Proof.Machine.execClrcache s
  | .stairidWrite v => Sys2Proof.Machine.execStairidWrite v s
  | .galleryAccumulate => Sys2Proof.Machine.execGalleryAccumulate s
  | .epochFold => Sys2Proof.Machine.execEpochFold s
  | .galleryRestore => Sys2Proof.Machine.execGalleryRestore s
  | .edgeAdopt => Sys2Proof.Machine.execEdgeAdopt s
  | .galClear key => Sys2Proof.Machine.execGalClear key s
  | .galXfer => Sys2Proof.Machine.execGalXfer s
  | .exportBlockPost => Sys2Proof.Machine.execExportBlockPost s
  | .galCursorAdvance => Sys2Proof.Machine.execGalCursorAdvance s
  | .galFreeze on => Sys2Proof.Machine.execGalFreeze on s
  | .flashDiscovery => Sys2Proof.Machine.execFlashDiscovery s
  | .flashDiscoveryDone f => Sys2Proof.Machine.execFlashDiscoveryDone f s
  | .format key => Sys2Proof.Machine.execFormat key s
  | .flashOpDone e => Sys2Proof.Machine.execFlashOpDone e s
  | .tombstoneWrite => Sys2Proof.Machine.execTombstoneWrite s
  | .hourlyRecord => Sys2Proof.Machine.execHourlyRecord s
  | .dailySeal verified => Sys2Proof.Machine.execDailySeal verified s
  | .cleanerReclaim => Sys2Proof.Machine.execCleanerReclaim s
  | .scrubSector errs chainOk => Sys2Proof.Machine.execScrubSector errs chainOk s
  | .scrubnow => Sys2Proof.Machine.execScrubnow s
  | .dump => Sys2Proof.Machine.execDump s
  | .dumpBlockPost => Sys2Proof.Machine.execDumpBlockPost s
  | .tipolShortSample high => Sys2Proof.Machine.execTipolShortSample high s
  | .tipolCall answer highCheck => Sys2Proof.Machine.execTipolCall answer highCheck s
  | .tipolReply f => Sys2Proof.Machine.execTipolReply f s
  | .search => Sys2Proof.Machine.execSearch s
  | .searchTransactionEnd maps => Sys2Proof.Machine.execSearchTransactionEnd maps s
  | .pollCycleStart => Sys2Proof.Machine.execPollCycleStart s
  | .pollnow => Sys2Proof.Machine.execPollnow s
  | .convtWaitEnd => Sys2Proof.Machine.execConvtWaitEnd s
  | .clearreg => Sys2Proof.Machine.execClearreg s
  | .cfgArm key => Sys2Proof.Machine.execCfgArm key s
  | .cfgOpen key => Sys2Proof.Machine.execCfgOpen key s
  | .persist key => Sys2Proof.Machine.execPersist key s
  | .unpersist key => Sys2Proof.Machine.execUnpersist key s
  | .cfgGuardCheck => Sys2Proof.Machine.execCfgGuardCheck s
  | .tdataAccess wr => Sys2Proof.Machine.execTdataAccess wr s
  | .tselWrite v => Sys2Proof.Machine.execTselWrite v s
  | .tableCheck => Sys2Proof.Machine.execTableCheck s
  | .tableDel => Sys2Proof.Machine.execTableDel s
  | .tableAdopt => Sys2Proof.Machine.execTableAdopt s
  | .tableRecheck bad => Sys2Proof.Machine.execTableRecheck bad s
  | .lifeArm arm3 => Sys2Proof.Machine.execLifeArm arm3 s
  | .lifeCommit v => Sys2Proof.Machine.execLifeCommit v s
  | .lifeArmExpire => Sys2Proof.Machine.execLifeArmExpire s
  | .certdataRead => Sys2Proof.Machine.execCertdataRead s
  | .registerWrite addr v => Sys2Proof.Machine.execRegisterWrite addr v s
  | .trainingDetectTimeout p => Sys2Proof.Machine.execTrainingDetectTimeout p s
  | .flashBusyTimeout => Sys2Proof.Machine.execFlashBusyTimeout s
  | .closingFlushTimeout => Sys2Proof.Machine.execClosingFlushTimeout s
  | .excitationSquareWaveEdge on clk => Sys2Proof.Machine.execExcitationSquareWaveEdge on clk s

end Sys2Proof.Machine
end

