-- ==== Sys2Proof/WellFormed.lean ====
section
/-! DEFINITION. WellFormed.lean: which commands and events can be what they are said to be. An operand is a measurement
whose length the specification fixes, or a list the device produces itself with a fixed bound. -/
namespace Sys2Proof

/-- What is wrong with a command's operands, by name; none for a command that can arrive. (DESIGN CHOICE, log 6) -/
def Instr.malformed : Instr → Option String
  | .snapshotImage _ l =>
    if l.length = 38 ∧ l.all (fun c => c.length == 393) = true then none else some "SNAPSHOT_IMAGE: 38 channels of 393 samples"
  | .fineBoundary _ l => if l.length = 38 then none else some "FINE_BOUNDARY: 38 channels"
  | .eyeSweepDone _ l => if l.length = 64 then none else some "EYE_SWEEP_DONE: 64 positions"
  | .trainingReportDone _ _ _ l _ => if l.length = 3 then none else some "TRAINING_REPORT_DONE: 3 eye bytes"
  | .eyeMonitor _ l => if l.length = 64 then none else some "EYE_MONITOR: 64 positions"
  | .scrubSector l _ => if l.length = 8 then none else some "SCRUB_SECTOR: 8 records"
  | .searchTransactionEnd l => if 16 < l.length then some "SEARCH_TRANSACTION_END: at most 16 maps" else none
  | _ => none

/-- The command can arrive: its operands have the form the specification gives them. -/
def Instr.WellFormed (i : Instr) : Bool := i.malformed.isNone

end Sys2Proof
end

