-- ==== Sys2Proof/Safety.lean ====
section
/-! DEFINITION. Safety.lean: what counts as a safe run of the block, in the terms the statements use: commands that can
arrive, a device without power or asleep, and the parts of the state a command may act on. -/
namespace Sys2Proof.Machine

/-- A run is safe when every command of its queue can arrive: no step of it stops. -/
def State.safeRun (s : State) : Bool := s.pending.all Instr.WellFormed

/-- The words of the always-on domain (R66): RSTCAUSE, SLEEPCAUSE, WAKECFG and RETRYCNT (log 10). -/
def alwaysOn (a : Nat) : Bool :=
  a == SYS.RSTCAUSE.POR.addr || a == SYS.SLEEPCAUSE.CAUSE.addr || a == SYS.WAKECFG.PINEN.addr || a == SYS.RETRYCNT.addr

/-- Everything a reset clears stands at its reset value (R66): every register word outside the always-on domain, every
queue, image, counter and engine. -/
structure State.Cleared (t : State) : Prop where
  words : ∀ a, alwaysOn a = false → t.reg a = resetWord a
  conditions : t.condNow = 0 ∧ t.occurred = 0 ∧ t.evented = 0
  held : t.held = State.reset.held
  staged : t.staged = State.reset.staged
  tm : t.tm = State.reset.tm
  cells : t.cells = State.reset.cells
  curr : t.curr = State.reset.curr
  cal : t.cal = State.reset.cal
  bal : t.bal = State.reset.bal
  xact : t.xact = State.reset.xact
  aux : t.aux = State.reset.aux
  imp : t.imp = State.reset.imp
  diag : t.diag = State.reset.diag
  safe : t.safe = State.reset.safe
  ban : t.ban = State.reset.ban
  col : t.col = State.reset.col
  link : t.link = State.reset.link
  gal : t.gal = State.reset.gal
  cfg : t.cfg = State.reset.cfg
  tip : t.tip = State.reset.tip
  fl : t.fl = t.fl.kept

/-- Without power, or asleep, the device holds nothing but its always-on domain, the vault and the flash. -/
def State.Cold (s : State) : Prop := s.pw.phase = .off ∨ s.pw.phase = .sleep → s.Cleared

/-- What the factory wrote into the vault (R2, R154, R449): coefficients, custom preset, number, revision, keys and
certificate. (DESIGN CHOICE, log 8) -/
def Vault.factory (v : Vault) : SMap (Int × Int) × Option (List Nat) × Nat × Nat × BitVec 256 × SMap Word × SMap Word × Nat :=
  (v.fac, v.custom, v.fnum, v.dieRev, v.key, v.pubkey, v.cert, v.certLen)

/-- Every part. -/
def Part.all : List Part := [.held, .staged, .tm, .cells, .curr, .cal, .bal, .xact, .aux, .imp, .diag, .safe, .ban, .col, .link, .gal, .cfg, .fl, .tip, .vault]

/-- A part stands in `t` as it stood in `s`. -/
def Part.same (p : Part) (s t : State) : Prop :=
  match p with
  | .held => t.held = s.held
  | .staged => t.staged = s.staged
  | .tm => t.tm = s.tm
  | .cells => t.cells = s.cells
  | .curr => t.curr = s.curr
  | .cal => t.cal = s.cal
  | .bal => t.bal = s.bal
  | .xact => t.xact = s.xact
  | .aux => t.aux = s.aux
  | .imp => t.imp = s.imp
  | .diag => t.diag = s.diag
  | .safe => t.safe = s.safe
  | .ban => t.ban = s.ban
  | .col => t.col = s.col
  | .link => t.link = s.link
  | .gal => t.gal = s.gal
  | .cfg => t.cfg = s.cfg
  | .fl => t.fl = s.fl
  | .tip => t.tip = s.tip
  | .vault => t.vault = s.vault

/-- 38 channels of 393 modulator samples each: what an aperture delivers. -/
def imageShape (l : List (List Int)) : Prop := l.length = 38 ∧ l.all (fun c => c.length == 393) = true

/-- The bytes of the block posted last to a queue. -/
def State.newest (s : State) (q : Nat) : Option (List Byte) := (look s.xact.queues q).blocks.getLast?.map Block.bytes

/-- A command slot that goes on to execution or rejection (R345, R347, R352, R357): it came on a link in link-up that
has framing, is for this device, whole, of version 1, and of a transaction number the port's cache does not hold. -/
abbrev State.arrives (s : State) (op : Nat) (c : Cmd) : Prop :=
  s.linkUp c.port = true ∧ s.framed c.port = true ∧ Cmd.addressed c op = true ∧ c.crcOk = true ∧ c.ver = 1#4 ∧ ∀ e ∈ s.cache c.port, e.tid ≠ c.tid.toNat

/-- The eight transactions: opcode, command, bytes of data in the answer, and whether the command answers when it is executed
(R352, R353). -/
def transaction : Instr → Option (Nat × Cmd × Nat × Bool)
  | .read c => some (1, c, 2 * c.count.toNat, true)
  | .write c => some (2, c, 0, true)
  | .writeMask c => some (3, c, 0, true)
  | .bcastWrite c => some (4, c, 0, true)
  | .countOff c => some (5, c, 14, Cmd.dat c 0 == 0)
  | .ping c => some (6, c, 20 + 2 * c.count.toNat, true)
  | .rateSet c => some (7, c, 10, true)
  | .plantTime c => some (8, c, 0, true)
  | _ => none

/-- The parts of the state a command may act on. -/
def commandParts : Instr → List Part
  | .powerOnReset => Part.all
  | .brownOutReset => Part.all
  | .pinReset => Part.all
  | .thermalShutdown _ => Part.all
  | .supplyMonitor _ _ => Part.all
  | .suppliesValid _ => Part.all
  | .vaultRead _ _ => Part.all
  | .strapLatch _ _ => Part.all
  | .sentinelArm => Part.all
  | .wakeToneEnd => Part.all
  | .configLoad _ => [.held, .cells, .curr, .cal, .bal, .xact, .aux, .imp, .safe, .col, .link, .gal, .cfg, .tip]
  | .buckFault _ => Part.all
  | .buckRetry => Part.all
  | .swrst _ => Part.all
  | .sleep _ => Part.all
  | .commLossTimeout => Part.all
  | .sleepEntry => Part.all
  | .sleepFlushDone _ => Part.all
  | .sleepFlushTimeout _ => Part.all
  | .wakePin => Part.all
  | .wakeToneDetect _ => Part.all
  | .rstnWake => Part.all
  | .treadStart _ _ => [.held, .tm, .cells, .curr, .cal, .bal, .xact, .aux, .imp, .diag, .safe, .ban, .col, .link, .gal, .cfg, .fl, .tip, .vault]
  | .alignmentLost => []
  | .tmkRx _ _ _ _ _ => [.tm, .cells, .bal, .xact, .aux, .imp, .safe, .link]
  | .slippedTread _ => [.tm, .cells, .cal, .bal, .imp, .ban, .tip]
  | .alignSourceChange _ => []
  | .ltchiWrite _ => [.tm, .vault]
  | .plantTime _ => [.xact]
  | .plantTimeApply => [.tm]
  | .snapshotImage _ _ => [.cells, .curr, .bal, .xact, .diag]
  | .fineBoundary _ _ => [.held, .cells, .curr, .bal, .xact, .imp, .diag, .fl]
  | .restart => [.cells, .bal, .aux, .imp]
  | .fineen _ => [.cells, .aux]
  | .overloadAssert _ _ _ => [.cells]
  | .overloadRelease _ _ => [.cells]
  | .broadcastBlockRx _ _ _ => [.curr, .imp]
  | .gapTread => [.curr]
  | .auxPowerUp _ => []
  | .auxPassStart _ => [.held, .xact, .aux]
  | .quietEntryStart _ => [.held, .xact, .aux]
  | .auxConversionEnd _ _ _ => [.held, .bal, .xact, .aux, .diag, .safe, .ban]
  | .sharedStale => [.aux, .safe, .ban]
  | .crossCompare _ => [.aux, .safe, .ban]
  | .urgreq _ => [.bal, .aux, .diag]
  | .urgentConversionEnd _ _ _ => [.held, .bal, .xact, .aux, .diag, .safe, .ban]
  | .auxEnableChange _ => [.held, .bal, .xact, .aux, .diag, .safe, .ban]
  | .run => [.cal]
  | .calAbort => [.cal]
  | .syszero => [.cal]
  | .syszeroTread => [.cal]
  | .calGroupTread _ => [.cal]
  | .refTrioMeasure _ _ _ => [.cal, .imp, .safe, .ban]
  | .calAutoStart => [.cal]
  | .calOverdue => []
  | .slotCommit _ => [.cal, .safe, .cfg, .fl, .vault]
  | .vaultCommitDeferEnd _ => [.cal, .safe, .cfg, .fl, .vault]
  | .coeffCrcCheck _ => [.cells, .cal, .diag]
  | .guardVaultWrite => [.vault]
  | .healthPost => [.xact]
  | .userTrimWrite _ => [.staged, .cal]
  | .go => [.imp]
  | .stop => [.bal, .imp]
  | .impIntegrationStart _ => [.cells, .bal, .imp]
  | .impResults _ => [.xact, .imp, .diag]
  | .impResume => [.cells, .bal, .imp]
  | .tofsWrite _ => [.imp]
  | .impwinCursorAdvance => []
  | .impwinFreeze _ => [.imp]
  | .balRiserAlloc _ _ => [.held, .bal, .xact, .aux, .imp, .diag]
  | .dutyWrite _ _ => [.held, .bal]
  | .modeStop _ => [.bal]
  | .switchFail _ _ => [.bal]
  | .stopall => [.bal]
  | .relearn => [.bal]
  | .balRetest => [.bal]
  | .learnBlock _ => [.bal]
  | .diagTread => [.diag]
  | .tapTestPhase _ _ _ => [.diag]
  | .now => [.diag]
  | .spanFallback => [.bal, .aux, .diag]
  | .sentinelAssert _ _ => [.safe]
  | .sentinelTrip _ => [.bal, .aux, .diag, .safe, .ban]
  | .sentinelRelease _ => [.safe]
  | .safetyEvaluation _ => [.bal, .aux, .diag, .safe, .ban]
  | .hostWatchdogExpire => [.safe, .ban]
  | .kick => [.safe]
  | .safeTrip _ => [.safe, .ban]
  | .safeRetest _ => [.safe]
  | .tcommit _ => [.safe]
  | .sentinelSelfTest _ => [.safe, .ban]
  | .heartbeatEdge _ => [.safe, .ban]
  | .heartbeatLoss _ => [.safe, .ban]
  | .ackEdge _ => [.safe, .ban]
  | .ackBurstEnd _ => [.safe, .ban]
  | .ackHeld _ => [.ban]
  | .ackQuiet _ => []
  | .ovsChange _ => [.ban]
  | .readbackFailure => [.safe, .ban]
  | .offPulseStart => [.ban]
  | .offPulsePass _ => [.ban]
  | .offPulseFail => [.safe, .ban]
  | .offPulseReclose => [.ban]
  | .recloseCheckEnd _ => [.safe, .ban]
  | .stageCheckPhase _ _ => [.safe, .ban]
  | .faultCollection => [.xact, .safe, .ban, .col]
  | .errPulseEnd => [.col]
  | .stickyClear _ _ => [.safe, .ban, .col]
  | .clrall => [.safe, .ban, .col]
  | .classWrite _ _ => []
  | .listenRateCycle _ => []
  | .ts1Rx _ _ _ => [.link]
  | .trainingDetectDone _ => [.link]
  | .eyeSweepDone _ _ => [.link]
  | .prbRx _ _ _ => [.link]
  | .echRx _ _ _ _ => [.link]
  | .hopDelayDone _ => [.link]
  | .trainingReportDone _ _ _ _ _ => [.xact, .link]
  | .linkDown _ _ => [.link]
  | .retrain _ => [.link]
  | .fullTraining _ => [.link]
  | .slotRx _ _ _ => [.xact, .link]
  | .ownedSlot _ _ _ => [.xact, .link]
  | .eyeMonitor _ _ => [.link]
  | .crcWindowEnd => [.link]
  | .rateChange => [.xact, .link]
  | .rateTreadDone _ _ => [.xact, .link]
  | .rateTreadTimeout _ => [.link]
  | .rateSetMissing => []
  | .bankSwitch => [.xact]
  | .read _ => [.tm, .cells, .bal, .xact, .cfg]
  | .write _ => Part.all
  | .writeMask _ => Part.all
  | .bcastWrite _ => Part.all
  | .countOff _ => [.xact]
  | .ping _ => [.xact]
  | .rateSet _ => [.xact]
  | .fsageClose _ => [.cells, .xact]
  | .mirrorRead _ => [.bal, .xact]
  | .planchk => [.xact]
  | .plandataAccess _ => [.xact]
  | .flush => [.xact]
  | .clrcache => [.xact]
  | .stairidWrite _ => []
  | .galleryAccumulate => [.bal, .gal, .fl]
  | .epochFold => [.bal, .imp, .gal, .fl]
  | .galleryRestore => [.bal, .imp, .gal]
  | .edgeAdopt => [.bal, .gal]
  | .galClear _ => [.gal]
  | .galXfer => [.gal]
  | .exportBlockPost => [.xact, .gal]
  | .galCursorAdvance => []
  | .galFreeze _ => [.gal]
  | .flashDiscovery => [.fl]
  | .flashDiscoveryDone _ => [.tm, .cal, .bal, .imp, .safe, .gal, .cfg, .fl, .vault]
  | .format _ => [.tm, .cal, .cfg, .fl, .vault]
  | .flashOpDone _ => Part.all
  | .tombstoneWrite => [.fl, .vault]
  | .hourlyRecord => [.gal, .fl]
  | .dailySeal _ => [.fl]
  | .cleanerReclaim => [.tm, .cal, .cfg, .fl, .vault]
  | .scrubSector _ _ => [.tm, .cal, .cfg, .fl, .vault]
  | .scrubnow => [.fl]
  | .dump => [.fl]
  | .dumpBlockPost => [.xact, .fl]
  | .tipolShortSample _ => [.tip]
  | .tipolCall _ _ => [.tip]
  | .tipolReply _ => [.xact, .tip]
  | .search => [.tip]
  | .searchTransactionEnd _ => [.tip]
  | .pollCycleStart => [.tip]
  | .pollnow => [.tip]
  | .convtWaitEnd => [.xact, .tip]
  | .clearreg => [.xact, .tip]
  | .cfgArm _ => [.cfg]
  | .cfgOpen _ => []
  | .persist _ => [.cal, .safe, .cfg]
  | .unpersist _ => [.cal, .safe, .cfg]
  | .cfgGuardCheck => [.cfg]
  | .tdataAccess _ => [.cfg]
  | .tselWrite _ => [.cfg]
  | .tableCheck => [.cfg]
  | .tableDel => [.cfg]
  | .tableAdopt => [.bal, .imp, .gal, .cfg]
  | .tableRecheck _ => [.bal, .imp, .gal, .cfg]
  | .lifeArm _ => [.cfg]
  | .lifeCommit _ => Part.all
  | .lifeArmExpire => [.cfg]
  | .certdataRead => []
  | .registerWrite _ _ => Part.all
  | .trainingDetectTimeout _ => []
  | .flashBusyTimeout => [.tm, .cal, .cfg, .fl, .vault]
  | .closingFlushTimeout => Part.all
  | .excitationSquareWaveEdge _ _ => [.bal, .imp]

/-- The commands of chapter 03 that act on a device that is not ACTIVE: supplies, resets, the start sequence and waking. -/
def startsUp : Instr → Bool
  | .powerOnReset => true
  | .brownOutReset => true
  | .pinReset => true
  | .thermalShutdown .. => true
  | .supplyMonitor .. => true
  | .buckFault .. => true
  | .buckRetry => true
  | .suppliesValid .. => true
  | .vaultRead .. => true
  | .strapLatch .. => true
  | .sentinelArm => true
  | .wakePin => true
  | .wakeToneDetect .. => true
  | .rstnWake => true
  | _ => false

/-! ### Register words (R8, R9, R459 to R465) -/

/-- A CTRL word: a key byte and its action bits. -/
def keyed (key : Byte) (bits : Nat) : Word := BitVec.ofNat 16 (256 * key.toNat + bits)

/-- The commands that are a write of one word and of nothing else: its linear address and the value. -/
def actionWord : Instr → Option (Nat × Word)
  | .swrst key => some (linear 0x01 0x01, keyed key 1)
  | .sleep key => some (linear 0x01 0x01, keyed key 2)
  | .cfgArm key => some (linear 0x02 0x01, keyed key 1)
  | .cfgOpen key => some (linear 0x02 0x01, keyed key 2)
  | .persist key => some (linear 0x02 0x01, keyed key 4)
  | .unpersist key => some (linear 0x02 0x01, keyed key 8)
  | .retrain p => some (linear 0x04 0x01, match p with | .up => 1 | .dn => 2)
  | .fullTraining p => some (linear 0x04 0x01, match p with | .up => 5 | .dn => 6)
  | .clrcache => some (linear 0x05 0x01, 1)
  | .stairidWrite v => some (linear 0x05 0x08, v)
  | .flush => some (linear 0x06 0x01, 1)
  | .plandataAccess (some v) => some (linear 0x06 0x32, v)
  | .planchk => some (linear 0x06 0x33, 1)
  | .fineen on => some (linear 0x07 0x01, if on then 1 else 0)
  | .urgreq v => some (linear 0x0F 0x0F, v)
  | .userTrimWrite v => some (linear 0x11 0x0C, v)
  | .stopall => some (linear 0x12 0x01, 1)
  | .relearn => some (linear 0x12 0x01, 2)
  | .balRetest => some (linear 0x12 0x01, 4)
  | .dutyWrite c v => some (linear 0x12 (0x09 + c.val), v)
  | .tofsWrite v => some (linear 0x14 0x0C, v)
  | .safeTrip key => some (linear 0x15 0x01, keyed key 1)
  | .safeRetest key => some (linear 0x15 0x01, keyed key 2)
  | .tcommit v => some (linear 0x15 0x24, v)
  | .kick => some (linear 0x15 0x26, 0)
  | .clrall => some (linear 0x17 0x01, 1)
  | .stickyClear w v => some (linear 0x17 (0x08 + w.val), v)
  | .classWrite w v => some (linear 0x17 (0x14 + w.val), v)
  | .galClear key => some (linear 0x18 0x01, keyed key 1)
  | .galXfer => some (linear 0x18 0x01, 2)
  | .format key => some (linear 0x19 0x01, keyed key 1)
  | .dump => some (linear 0x19 0x01, 2)
  | .scrubnow => some (linear 0x19 0x01, 4)
  | .search => some (linear 0x1A 0x01, 1)
  | .pollnow => some (linear 0x1A 0x01, 2)
  | .clearreg => some (linear 0x1A 0x01, 4)
  | .tableCheck => some (linear 0x1C 0x01, 1)
  | .tableDel => some (linear 0x1C 0x01, 2)
  | .tselWrite v => some (linear 0x1C 0x08, v)
  | .tdataAccess (some v) => some (linear 0x1C 0x0A, v)
  | .now => some (linear 0x1D 0x01, 1)
  | .lifeArm v => some (linear 0x1E 0x0D, v)
  | .lifeCommit v => some (linear 0x1E 0x0E, v)
  | _ => none

/-- The commands that are an action bit of a CTRL word that also stores bits: its linear address, the action bit and the mask of the
stored ones (R74, R102, R177, R208). -/
def actionBit : Instr → Option (Nat × Word × Word)
  | .restart => some (linear 0x07 0x01, 2, 1)
  | .run => some (linear 0x10 0x01, 1, 8)
  | .calAbort => some (linear 0x10 0x01, 2, 8)
  | .syszero => some (linear 0x10 0x01, 4, 8)
  | .go => some (linear 0x13 0x01, 1, 4)
  | .stop => some (linear 0x13 0x01, 2, 4)
  | _ => none

/-- RW words that take every value and act through nothing but their content: page, word and the bits that are not reserved. -/
def rwWords : List (Nat × Nat × Word) :=
  [(0x00, 0x30, 0x1FF), (0x01, 0x0C, 0xF), (0x01, 0x0D, 3), (0x06, 0x0C, 0x3F), (0x06, 0x30, 1), (0x06, 0x31, 0x7FF), (0x06, 0x20, 0x87FF),
   (0x0F, 0x09, 0xFFFF), (0x0F, 0x0C, 0xFFFF), (0x10, 0x08, 1), (0x10, 0x0B, 0xFF), (0x10, 0x0C, 0xF), (0x10, 0x0E, 0xFFFF),
   (0x13, 0x2F, 0xFFFF), (0x13, 0x30, 0xFF), (0x13, 0x31, 0xFFFF), (0x13, 0x33, 0xFFFF), (0x15, 0x18, 0xFFFF), (0x15, 0x1E, 0xFF),
   (0x15, 0x1F, 0xFFF), (0x15, 0x20, 1), (0x18, 0x20, 1), (0x1A, 0x0D, 0x1F), (0x1A, 0x15, 0xF), (0x1E, 0x09, 3)]

/-- RW words with values that their chapter refuses: page, word, the bits that are not reserved, whether it takes a value, and the
event that reports the others. -/
def checkedWords : List (Nat × Nat × Word × (Word → Bool) × Fld) :=
  [(0x04, 0x1F, 3, fun v => fieldOf v 0 2 != 3, LINK.EVT.CFGREJ), (0x06, 0x14, 0x7F, fun v => within 1 64 (v.toNat % 128), QUEUE.EVT.CFGREJ),
   (0x0F, 0x0D, 0xBFFF, urgOk, AUXCTL.EVT.CFGREJ), (0x10, 0x09, 0x3F, fun v => within 1 40 (v.toNat % 64), CAL.EVT.CFGREJ),
   (0x10, 0x0A, 0xFF, fun v => within 1 168 (v.toNat % 256), CAL.EVT.CFGREJ), (0x12, 0x3B, 0x3F, fun v => decide (v.toNat % 64 ≤ 36), BAL.EVT.CFGREJ),
   (0x18, 0x0A, 0x3F, fun v => within 1 36 (fieldOf v 0 6), GAL.EVT.CFGREJ), (0x19, 0x1E, 0xFFFF, fun v => decide (v.toNat ≠ 0), FLASH.EVT.CFGREJ),
   (0x1D, 0x18, 0x3F, fun v => decide (v.toNat % 64 ≤ 36), DIAG.EVT.CFGREJ)]

/-- Words that a write leaves alone: RO and reserved words, and CTRL where the chapter defines none (R9, R459, R465). -/
def readOnly (page w : Nat) : Bool :=
  (decide (8 ≤ w) && ([0x03, 0x08, 0x09, 0x0A, 0x0B, 0x1B, 0x1F].contains page || (page == 0x00 && w != 0x30) || (page == 0x16 && w != 0x09) ||
    (page == 0x05 && w != 0x08) || (page == 0x17 && decide (0x0C ≤ w ∧ w ≤ 0x0F)) || (page == 0x15 && (decide (w ≤ 0x17) || w == 0x25 || decide (0x27 ≤ w))))) ||
  (w == 1 && [0x00, 0x03, 0x08, 0x09, 0x0A, 0x0B, 0x0F, 0x11, 0x14, 0x16, 0x1B, 0x1E, 0x1F].contains page)

/-- Words of WO fields alone that store nothing: page and word. -/
def writeOnly : List (Nat × Nat) :=
  [(0x05, 0x01), (0x06, 0x01), (0x12, 0x01), (0x17, 0x01), (0x18, 0x01), (0x1A, 0x01), (0x1C, 0x01), (0x1D, 0x01), (0x15, 0x24), (0x15, 0x26),
   (0x1E, 0x0A), (0x1E, 0x0B), (0x1E, 0x0C), (0x1E, 0x0D)]

/-- Values of two words that are taken up at the higher one: page and lower word (R462). -/
def pairWords : List (Nat × Nat) := [(0x02, 0x08), (0x13, 0x34), (0x15, 0x22), (0x19, 0x1C)]

/-- The banister's events with their instant: its receivers work before the device is ACTIVE (R283). -/
def receives : Instr → Option Nat
  | .heartbeatEdge t => some t
  | .heartbeatLoss t => some t
  | .ackEdge t => some t
  | .ackBurstEnd t => some t
  | .ackHeld t => some t
  | .ackQuiet t => some t
  | _ => none

end Sys2Proof.Machine
end

