-- ==== Sys2Proof/Certificates/Slice0/Obligations.lean ====
section
/-! DEFINITION. Obligations.lean: the statements for the provers, chapter by chapter. -/

section Statements
open Sys2Proof Sys2Proof.Machine

/-- At every state, a step takes the command at the front of the queue and is that command's effect on the state with
the queue's rest; with nothing waiting the block stays as it is (the queue is the model's, log 1). -/
def Obligations.StepTakesFront : Prop :=
  (∀ (c : Instr) (q : List Instr) (s : State), s.pending = c :: q → step s = exec c { s with pending := q }) ∧
  (∀ s : State, s.pending = [] → step s = .next s)

/-- A command that can arrive always completes, and one whose operands have no possible form is the only thing that
stops a step, by the name of what is wrong with it. A step from a queue of commands that can arrive gives a next state
whose queue is the rest. What the model chose here: log 6. -/
def Obligations.CommandsComplete : Prop :=
  (∀ (i : Instr) (s : State),
    (i.WellFormed = true → ∃ t, exec i s = .next t) ∧
    (∀ why, i.malformed = some why → exec i s = .fault (.malformed why))) ∧
  (∀ (s : State) (c : Instr) (q : List Instr), s.pending = c :: q → s.safeRun = true →
    ∃ t, step s = .next t ∧ t.pending = q ∧ t.safeRun = true)

/-- What the factory wrote into the vault stands after every step, whatever the command. What the model chose here: log
32. -/
def Obligations.FactoryDataStands : Prop :=
  ∀ s t : State, step s = .next t → t.vault.factory = s.vault.factory

/-- Every step keeps the rule of resets: without power, or asleep, everything but the always-on domain, the vault and
the flash stands at its reset value. What the model chose here: log 7, 10. -/
def Obligations.ColdStaysCleared : Prop :=
  ∀ s t : State, s.Cold ∧ s.pw.leave = none → step s = .next t → t.Cold ∧ t.pw.leave = none

/-- The rule of `ColdStaysCleared` holds right after a power-on reset. What the model chose here: log 7, 8, 10. -/
def Obligations.ColdAtReset : Prop :=
  State.reset.Cold ∧ State.reset.pw.leave = none ∧ State.reset.pw.phase = .off ∧ State.reset.pending = [] ∧
  (∀ a, State.reset.reg a = resetWord a)

/-- A device that is not ACTIVE takes nothing but the events of chapter 03 and, from 0.15 ms after its supplies are
valid, the edges at its banister receivers (R283). What the model chose here: log 3, 7. -/
def Obligations.NotActiveIgnores : Prop :=
  (∀ (i : Instr) (s : State), s.pw.phase ≠ .active → startsUp i = false → receives i = none → i.WellFormed = true →
    exec i s = .next s) ∧
  (∀ (i : Instr) (s : State) (t : Nat), s.pw.phase ≠ .active → receives i = some t → s.powered = false ∨ t < 150000 →
    exec i s = .next s)

/-- A command changes no part of the state but those it acts on; the queue and what the factory wrote into the vault it
never changes, and the power state (supplies, start, SLEEP and reset) only one that may end in a reset or in SLEEP. What
the model chose here: log 32. -/
def Obligations.CommandFrame : Prop :=
  ∀ (i : Instr) (s t : State), exec i s = .next t →
    (∀ p, p ∉ commandParts i → p.same s t) ∧ t.pending = s.pending ∧ t.vault.factory = s.vault.factory ∧
    (commandParts i ≠ Part.all → t.pw = s.pw)

/-- A power-on reset clears everything, the always-on domain with it; the vault and the content of the flash stay (R66).
Brown-out, RSTN low and a thermal shutdown reset a device whose rails are up: everything but the always-on words, the
vault and the flash's content is cleared, and the cause is noted for the next start (R57, R66, R67). What the model
chose here: log 7, 10. -/
def Obligations.ResetsClear : Prop :=
  (∀ s : State, ∃ t, exec .powerOnReset s = .next t ∧ t.Cleared ∧ (∀ a, t.reg a = resetWord a) ∧
    t.pw.phase = .off ∧ t.pw.causes = 1 ∧ t.vault = s.vault ∧ t.fl = s.fl.kept) ∧
  (∀ s : State, s.powered = true → ∃ t, exec .brownOutReset s = .next t ∧ t.Cleared ∧
    (∀ a, alwaysOn a = true → t.reg a = s.reg a) ∧ t.pw.phase = .off ∧ t.pw.causes = s.pw.causes ||| 2 ∧
    t.vault = s.vault ∧ t.fl = s.fl.kept) ∧
  (∀ s : State, s.powered = true → ∃ t, exec .pinReset s = .next t ∧ t.Cleared ∧
    (∀ a, alwaysOn a = true → t.reg a = s.reg a) ∧ t.pw.phase = .off ∧ t.pw.causes = s.pw.causes ||| 4 ∧
    t.pw.rstnLow = true ∧ t.vault = s.vault ∧ t.fl = s.fl.kept) ∧
  (∀ (s : State) (die : Int), s.powered = true → 2400 ≤ die → ∃ t, exec (.thermalShutdown die) s = .next t ∧ t.Cleared ∧
    (∀ a, alwaysOn a = true → t.reg a = s.reg a) ∧ t.pw.phase = .off ∧ t.pw.causes = s.pw.causes ||| 16 ∧
    t.pw.thermHold = true ∧ t.vault = s.vault ∧ t.fl = s.fl.kept)

/-- The four entries of a start come in order, each once the one before is done: SUPPLIES_VALID moves the causes
collected into SYS.RSTCAUSE; VAULT_READ fills IDENT.STATUS and fault 59; STRAP_LATCH holds the straps; SENTINEL_ARM
makes the device ACTIVE with the sentinels armed (R59, R65, R67, R450). What the model chose here: log 7, 40. -/
def Obligations.StartSequence : Prop :=
  (∀ (s : State) (aux : Bool), s.pw.phase = .off → s.pw.rstnLow = false → s.pw.thermHold = false →
    ∃ t, exec (.suppliesValid aux) s = .next t ∧ t.pw.phase = .starting 0 ∧ t.pw.causes = 0 ∧
      t.reg SYS.RSTCAUSE.POR.addr = s.reg SYS.RSTCAUSE.POR.addr ||| BitVec.ofNat 16 (s.pw.causes % 512) ∧
      (∀ a, a ≠ SYS.RSTCAUSE.POR.addr → a ≠ SYS.EVT.WAKEHELD.addr → t.reg a = s.reg a) ∧ t.vault = s.vault) ∧
  (∀ (s : State) (crcOk sigOk : Bool), s.startAt 0 = true → s.newestSlot = none → s.vault.lifeDone = false →
    ∃ t, exec (.vaultRead crcOk sigOk) s = .next t ∧ t.pw.phase = .starting 1 ∧
      t.bit IDENT.STATUS.VAULTOK = crcOk ∧ t.bit IDENT.STATUS.KEYOK = (crcOk && sigOk) ∧
      t.holds 59 = !(crcOk && sigOk) ∧ t.cal.guard = s.vault.guard ∧ t.bit CAL.STATUS.NOSLOT = true ∧ t.vault = s.vault) ∧
  (∀ (s : State) (safcfg : BitVec 4) (brole : BitVec 2), s.startAt 1 = true →
    ∃ t, exec (.strapLatch safcfg brole) s = .next t ∧ t.pw.phase = .starting 2 ∧
      t.get SYS.STRAP.SAFCFG = safcfg.toNat ∧ t.get SYS.STRAP.BROLE = brole.toNat ∧
      (∀ a, a ≠ SYS.STRAP.SAFCFG.addr → t.reg a = s.reg a) ∧ t.vault = s.vault) ∧
  (∀ s : State, s.startAt 2 = true →
    ∃ t, exec .sentinelArm s = .next t ∧ t.pw.phase = .active ∧ t.pw.toneOut = (s.pw.woken && s.bit SYS.WAKECFG.RESEND) ∧
      t.bit SYS.STATUS.SENTARM = true ∧ t.bit SAFE.STATUS.SENARM = true)

/-- A thermal shutdown is held until the die is below 135 °C (2160 in 1/16 °C), and while it is held, or RSTN is low, no
start begins (R57, R58); the rise of RSTN ends its hold. An entry of the start out of its turn, or while a buck fault
holds the start, changes nothing (R56, R59). A sleeping device wakes by each event its WAKECFG enables, into a start
with that cause and SLEEP among its causes, and by RSTN always; a source that is not enabled changes nothing (R72). What
the model chose here: log 3, 7. -/
def Obligations.StartRefusals : Prop :=
  (∀ (s : State) (die : Int), die < 2160 → ∃ t, exec (.thermalShutdown die) s = .next t ∧
    t = { s with pw := { s.pw with thermHold := false } }) ∧
  (∀ (s : State) (die : Int), 2160 ≤ die → die < 2400 → exec (.thermalShutdown die) s = .next s) ∧
  (∀ (s : State) (aux : Bool), s.pw.thermHold = true ∨ s.pw.rstnLow = true → exec (.suppliesValid aux) s = .next s) ∧
  (∀ s : State, s.pw.phase ≠ .sleep → s.pw.rstnLow = true → ∃ t, exec .rstnWake s = .next t ∧
    t = { s with pw := { s.pw with rstnLow := false } }) ∧
  (∀ (s : State) (crcOk sigOk : Bool), s.startAt 0 = false → exec (.vaultRead crcOk sigOk) s = .next s) ∧
  (∀ (s : State) (safcfg : BitVec 4) (brole : BitVec 2), s.startAt 1 = false → exec (.strapLatch safcfg brole) s = .next s) ∧
  (∀ s : State, s.startAt 2 = false → exec .sentinelArm s = .next s) ∧
  (∀ s : State, s.pw.phase = .sleep → s.bit SYS.WAKECFG.PINEN = true → ∃ t, exec .wakePin s = .next t ∧
    t = { s with pw := { s.pw with phase := .off, causes := s.pw.causes ||| 32 ||| 256, woken := true } }) ∧
  (∀ s : State, s.pw.phase = .sleep → s.bit SYS.WAKECFG.TONEUPEN = true → ∃ t, exec (.wakeToneDetect .up) s = .next t ∧
    t = { s with pw := { s.pw with phase := .off, causes := s.pw.causes ||| 64 ||| 256, woken := true } }) ∧
  (∀ s : State, s.pw.phase = .sleep → s.bit SYS.WAKECFG.TONEDNEN = true → ∃ t, exec (.wakeToneDetect .dn) s = .next t ∧
    t = { s with pw := { s.pw with phase := .off, causes := s.pw.causes ||| 128 ||| 256, woken := true } }) ∧
  (∀ s : State, s.pw.phase = .sleep → s.pw.rstnLow = true → ∃ t, exec .rstnWake s = .next t ∧
    t = { s with pw := { s.pw with rstnLow := false, phase := .off, causes := s.pw.causes ||| 4 ||| 256, woken := true } }) ∧
  (∀ (s : State) (p : Port), s.pw.phase = .sleep →
    (s.bit SYS.WAKECFG.PINEN = false → exec .wakePin s = .next s) ∧
    (s.bit (match p with | .up => SYS.WAKECFG.TONEUPEN | .dn => SYS.WAKECFG.TONEDNEN) = false → exec (.wakeToneDetect p) s = .next s) ∧
    (s.pw.rstnLow = false → exec .rstnWake s = .next s))

/-- While the guard is ARMED, a write to any CFG-class data has no effect and sets WLOCK: register fields, queue depths,
trims and TOFS, whether the write is of a register word or the row's own. The bits of a word outside the class are
written all the same. OPEN with the key returns the state to OPEN, and RWL fields stay read-only after it: a write of
COUNT has no effect while they are locked. -/
def Obligations.ArmedGuardRefuses : Prop :=
  (∀ (s : State) (a : Fin 2048) (v : Word), s.pw.phase = .active → s.pw.leave = none → s.guardArmed = true → s.cfgClass a.val = true →
    a.val ≠ FAULT.ERRCTL.MINW.addr → ∃ t, exec (.registerWrite a v) s = .next t ∧ (∀ b, t.reg b = (s.evt CFGGUARD.EVT.WLOCK).reg b) ∧
    (∀ p : Part, p ≠ .col → p.same s t)) ∧
  (∀ (s : State) (a : Nat), cfgMask a ≠ 0 ∨ a = linear 0x06 0x0D ∨ (a = linear 0x14 0x0C ∧ s.get IMPWIN.SEL.CLASS = 1) ∨
    (linear 0x11 0x09 ≤ a ∧ a ≤ linear 0x11 0x0C ∧ s.get { CALWIN.SEL with lo := 8, w := 4 } = 7 ∧ s.get { CALWIN.SEL with w := 6 } ≤ 37) →
    s.cfgClass a = true) ∧
  (∀ (s : State) (a : Fin 2048) (v : Word), s.pw.phase = .active → s.pw.leave = none → s.guardArmed = true →
    a.val = FAULT.ERRCTL.MINW.addr → ∃ t, exec (.registerWrite a v) s = .next t ∧ t.get FAULT.ERRCTL.MINW = s.get FAULT.ERRCTL.MINW ∧
    t.bit FAULT.ERRCTL.LATCH = s.bit FAULT.ERRCTL.LATCH ∧ t.bit FAULT.ERRCTL.SWLEVEL = v.getLsbD 8 ∧ t.bit CFGGUARD.EVT.WLOCK = true) ∧
  (∀ (s : State) (w : Fin 8) (v : Word), s.pw.phase = .active → s.guardArmed = true →
    exec (.classWrite w v) s = .next (s.evt CFGGUARD.EVT.WLOCK)) ∧
  (∀ (s : State) (v : Word), s.pw.phase = .active → s.guardArmed = true → s.get IMPWIN.SEL.CLASS = 1 →
    exec (.tofsWrite v) s = .next (s.evt CFGGUARD.EVT.WLOCK)) ∧
  (∀ (s : State) (v : Word), s.pw.phase = .active → s.guardArmed = true → s.get { CALWIN.SEL with lo := 8, w := 4 } = 7 →
    s.get { CALWIN.SEL with w := 6 } ≤ 37 → exec (.userTrimWrite v) s = .next (s.evt CFGGUARD.EVT.WLOCK)) ∧
  (∀ s : State, s.pw.phase = .active → ∃ t, exec (.cfgOpen 0xA5) s = .next t ∧ t.get CFGGUARD.STATUS.STATE = 0 ∧ t.guardArmed = false ∧
    t.rwLocked = s.rwLocked) ∧
  (∀ (s : State) (a : Fin 2048) (v : Word), s.pw.phase = .active → s.pw.leave = none → s.guardArmed = false → s.rwLocked = true →
    a.val = CELLCFG.COUNT.COUNT.addr → exec (.registerWrite a v) s = .next s.writeBegin)

/-- The supervisors act with the thresholds and hysteresis of R57 (mV; rails and the sentinel LDO in 1/1000 of nominal)
on a device whose rails are up. Fault 54 (R56): in a start the controller stops and the condition stands until the
retry, which counts in RETRYCNT; in operation it is an occurrence and the device runs on. What the model chose here: log
33, 34. -/
def Obligations.SupplyFaults : Prop :=
  (∀ (s : State) (v : Nat), s.powered = true → ∃ t, exec (.supplyMonitor .vstk v) s = .next t ∧
    t.pw = { s.pw with vstkLow := if v < 9000 then true else if 9300 ≤ v then false else s.pw.vstkLow,
                       vstkHigh := if 190000 ≤ v then true else if v < 187000 then false else s.pw.vstkHigh }) ∧
  (∀ (s : State) (v : Nat), s.powered = true → ∃ t, exec (.supplyMonitor .vaux v) s = .next t ∧
    t.pw = { s.pw with vauxOk := if 10500 ≤ v then true else if v < 10000 then false else s.pw.vauxOk }) ∧
  (∀ (s : State) (v : Nat), s.powered = true → ∃ t, exec (.supplyMonitor .vpre v) s = .next t ∧
    t.pw = { s.pw with vpreLow := if v < 4900 then true else if 5000 ≤ v then false else s.pw.vpreLow }) ∧
  (∀ (s : State) (v : Nat), s.powered = true → ∃ t, exec (.supplyMonitor .senLdo v) s = .next t ∧
    t.pw = { s.pw with senLdoBad := decide (v < 920 ∨ 1080 < v) }) ∧
  (∀ (s : State) (v : Nat) (m : Monitor) (i : Nat), s.powered = true → (m, i) ∈ [(Monitor.v33, 0), (.v18, 1), (.v09, 2)] →
    ∃ t, exec (.supplyMonitor m v) s = .next t ∧ t.pw.railBad.testBit i = decide (v < 920 ∨ 1080 < v)) ∧
  (∀ (s : State) (n : Nat) (c : BuckCause), s.pw.phase = .starting n → s.pw.leave = none →
    ∃ t, exec (.buckFault c) s = .next t ∧ t.pw = { s.pw with buckStopped := true } ∧ t.bit SYS.EVT.BUCK = true ∧
      t.holds 54 = true ∧ t.vault = s.vault) ∧
  (∀ (s : State) (c : BuckCause), s.pw.phase = .active → s.pw.leave = none →
    ∃ t, exec (.buckFault c) s = .next t ∧ t.pw = s.pw ∧ t.bit SYS.EVT.BUCK = true ∧ t.condNow = s.condNow ∧
      t.occurred.getLsbD 54 = true ∧ t.evented.getLsbD 54 = true ∧ t.vault = s.vault) ∧
  (∀ s : State, s.powered = true → s.pw.leave = none → s.pw.buckStopped = true →
    ∃ t, exec .buckRetry s = .next t ∧ t.pw = { s.pw with buckStopped := false, retries := s.pw.retries + 1 } ∧
      t.get SYS.RETRYCNT = min (s.get SYS.RETRYCNT + 1) 65535 ∧ t.holds 54 = false ∧
      (∀ a, a ≠ SYS.RETRYCNT.addr → t.reg a = s.reg a))

/-- A keyed software reset and a keyed SLEEP request (R66, R68); a wrong key sets KEYREJ and does nothing else. SWRST
without a READY flash resets the device at once: everything but the always-on words is cleared, and SWRST is a cause of
the next start. With a READY flash the closing step begins; when its flush is written or the flash is lost, or at its
timeout, the same reset follows. During a communication-loss entry SWRST is noted. SLEEP is noted with its tread, during
a communication-loss request beside it, and a second one changes nothing. What the model chose here: log 36. -/
def Obligations.ResetAndSleepRequests : Prop :=
  (∀ (s : State) (key : Byte), s.pw.phase = .active → s.pw.leave = none → key ≠ 0xA5#8 →
    exec (.swrst key) s = .next (s.evt SYS.EVT.KEYREJ) ∧ exec (.sleep key) s = .next (s.evt SYS.EVT.KEYREJ)) ∧
  (∀ s : State, s.pw.phase = .active → s.pw.leave = none → s.pw.closing = none → s.flState ≠ 1 →
    ∃ t, exec (.swrst 0xA5#8) s = .next t ∧ t.Cleared ∧ t.pw.phase = .off ∧ t.pw.causes = s.pw.causes ||| 8 ∧
      (∀ a, alwaysOn a = true → t.reg a = s.reg a)) ∧
  (∀ s : State, s.pw.phase = .active → s.pw.leave = none → s.pw.closing = none → s.flState = 1 →
    ∃ t, exec (.swrst 0xA5#8) s = .next t ∧ t.pw = { s.pw with closing := some .swrst }) ∧
  (∀ (s : State) (e : OpEnd), s.pw.phase = .active → s.pw.leave = none → s.pw.closing = some .swrst →
    (s.opDone e).flushOver = true →
    ∃ t, exec (.flashOpDone e) s = .next t ∧ t.Cleared ∧ t.pw.phase = .off ∧ t.pw.causes = s.pw.causes ||| 8) ∧
  (∀ s : State, s.pw.phase = .active → s.pw.leave = none → s.pw.closing = some .swrst →
    ∃ t, exec .closingFlushTimeout s = .next t ∧ t.Cleared ∧ t.pw.phase = .off ∧ t.pw.causes = s.pw.causes ||| 8) ∧
  (∀ s : State, s.pw.phase = .active → s.pw.leave = none → s.pw.closing = some (.sleep .commLoss) →
    exec (.swrst 0xA5#8) s = .next { s with pw := { s.pw with rstWait := true } }) ∧
  (∀ s : State, s.pw.phase = .active → s.pw.leave = none → s.pw.sleepReq = none →
    exec (.sleep 0xA5#8) s = .next { s with pw := { s.pw with sleepReq := some .host, reqAt := s.tm.tread } }) ∧
  (∀ s : State, s.pw.phase = .active → s.pw.leave = none → s.pw.sleepReq = some .commLoss → s.pw.hostWait = none →
    exec (.sleep 0xA5#8) s = .next { s with pw := { s.pw with hostWait := some s.tm.tread } }) ∧
  (∀ s : State, s.pw.phase = .active → s.pw.leave = none → s.pw.sleepReq = some .host →
    exec (.sleep 0xA5#8) s = .next s)

/-- SLEEP (R68 to R71, R73). Communication lost for LOSS_TO trips SF7, locks the device out and asks for SLEEP. An entry
begins its closing step at master clock 0 after a host request, or at once for a communication loss, shows SLEEPPEND and
stops the gallery; a host request locks the device out. The end of the closing step powers the device down with
SLEEPCAUSE, or starts it again at once where a wake source is present. A mark accepted meanwhile ends the
communication-loss path: the device stays ACTIVE, and a SLEEP request or a software reset written meanwhile acts. The
end of a wake tone ends the tone alone in the power state. What the model chose here: log 36. -/
def Obligations.SleepEntryAndEnd : Prop :=
  (∀ s : State, s.pw.phase = .active → s.pw.leave = none → s.used LINK.LOSS_TO ≤ s.link.loss → s.safe.commOut = false →
    s.pw.sleepReq = none → ∃ t, exec .commLossTimeout s = .next t ∧
      t.pw = { s.pw with sleepReq := some .commLoss, reqAt := s.tm.tread } ∧ t.safe.commOut = true ∧ t.holds 6 = true ∧
      t.locked = true ∧ t.bit SAFE.EVT.TRIP = true) ∧
  (∀ s : State, s.pw.phase = .active → s.pw.leave = none → s.pw.sleepReq = some .host → s.pw.closing = none →
    s.pw.reqAt < s.tm.tread → ∃ t, exec .sleepEntry s = .next t ∧ t.pw = { s.pw with closing := some (.sleep .host) } ∧
      t.bit SYS.STATUS.SLEEPPEND = true ∧ t.gal.stopped = true ∧ t.locked = true) ∧
  (∀ s : State, s.pw.phase = .active → s.pw.leave = none → s.pw.sleepReq = some .host → s.tm.tread ≤ s.pw.reqAt →
    exec .sleepEntry s = .next s) ∧
  (∀ s : State, s.pw.phase = .active → s.pw.leave = none → s.pw.sleepReq = some .commLoss → s.pw.closing = none →
    ∃ t, exec .sleepEntry s = .next t ∧ t.pw = { s.pw with closing := some (.sleep .commLoss) } ∧
      t.bit SYS.STATUS.SLEEPPEND = true ∧ t.gal.stopped = true) ∧
  (∀ (s : State) (r : SleepReq) (w : WakeNow) (i : Instr), s.pw.phase = .active → s.pw.leave = none →
    s.pw.closing = some (.sleep r) → ¬ (r = .commLoss ∧ s.link.sleepAbort = true) →
    i = .sleepFlushTimeout w ∨ (i = .sleepFlushDone w ∧ s.flushOver = true) →
    ∃ t, exec i s = .next t ∧ t.Cleared ∧
      t.get SYS.SLEEPCAUSE.CAUSE = (match r with | .host => 1 | .commLoss => 2) ∧
      (if s.wakeBits w = 0 then t.pw.phase = .sleep
       else t.pw.phase = .off ∧ t.pw.woken = true ∧ t.pw.causes = s.pw.causes ||| s.wakeBits w ||| 256)) ∧
  (∀ (s : State) (w : WakeNow) (i : Instr), s.pw.phase = .active → s.pw.leave = none →
    s.pw.closing = some (.sleep .commLoss) → s.link.sleepAbort = true → s.pw.rstWait = false →
    i = .sleepFlushTimeout w ∨ (i = .sleepFlushDone w ∧ s.flushOver = true) →
    ∃ t, exec i s = .next t ∧ t.pw = { s.pw with
        closing := none, sleepReq := s.pw.hostWait.map (fun _ => SleepReq.host),
        reqAt := s.pw.hostWait.getD s.pw.reqAt, hostWait := none } ∧
      t.bit SYS.STATUS.SLEEPPEND = false ∧ t.gal.stopped = false ∧ t.vault = s.vault) ∧
  (∀ (s : State) (w : WakeNow) (i : Instr), s.pw.phase = .active → s.pw.leave = none →
    s.pw.closing = some (.sleep .commLoss) → s.link.sleepAbort = true → s.pw.rstWait = true →
    i = .sleepFlushTimeout w ∨ (i = .sleepFlushDone w ∧ s.flushOver = true) →
    ∃ t, exec i s = .next t ∧ t.Cleared ∧ t.pw.phase = .off ∧ t.pw.causes = s.pw.causes ||| 8) ∧
  (∀ s : State, s.pw.phase = .active → s.pw.leave = none → s.pw.toneOut = true →
    ∃ t, exec .wakeToneEnd s = .next t ∧ t.pw = { s.pw with toneOut := false } ∧ t.vault = s.vault)

/-- An accepted mark in step 2 of the communication-loss path (R70) sets SLEEPABORT, and at the end of step 2, with its
flush written or given up (R69), the device remains ACTIVE and as locked out as it was. That this holds only where the
host asked for neither SLEEP nor a reset meanwhile, and the third clause, by which a host request in step 2 goes on to
SLEEP whatever marks arrive (R320), are the model's choice: log 36. -/
def Obligations.MarkKeepsAwake : Prop :=
  (∀ (s : State) (p : Port) (m : Mark) (tArr : Int), s.pw.phase = .active → s.pw.closing = some (.sleep .commLoss) →
    s.linkUp p = true → m.rate.toNat = s.pRateOf p → m.origin = originOf p → s.source? = some p →
    ∃ t, exec (.tmkRx p m true (markCrc m) tArr) s = .next t ∧ t.bit SYS.EVT.SLEEPABORT = true ∧ t.link.sleepAbort = true ∧ t.pw = s.pw) ∧
  (∀ (s : State) (w : WakeNow) (i : Instr), s.pw.phase = .active → s.pw.leave = none →
    s.pw.closing = some (.sleep .commLoss) → s.link.sleepAbort = true → s.pw.rstWait = false → s.pw.hostWait = none →
    i = .sleepFlushTimeout w ∨ (i = .sleepFlushDone w ∧ s.flushOver = true) →
    ∃ t, exec i s = .next t ∧ t.pw.phase = .active ∧ t.pw.closing = none ∧ t.pw.sleepReq = none ∧ t.locked = s.locked ∧
    t.bit SYS.EVT.SLEEPABORT = s.bit SYS.EVT.SLEEPABORT) ∧
  (∀ (s : State) (w : WakeNow) (i : Instr), s.pw.phase = .active → s.pw.leave = none → s.pw.closing = some (.sleep .host) →
    i = .sleepFlushTimeout w ∨ (i = .sleepFlushDone w ∧ s.flushOver = true) →
    ∃ t, exec i s = .next t ∧ t.pw.phase ≠ .active ∧ t.get SYS.SLEEPCAUSE.CAUSE = 1)

/-- Master clock 0 of a tread after the first: LTC and STN count on, the tread is new and unmarked, an unmarked tread
counts towards the loss of alignment, the riser-15 adjustment is taken out of the phase error, and valid plant time
moves on by 1 ms (R34, R35, R38, R44, R47). What the model chose here: log 42, 43. -/
def Obligations.TreadCounters : Prop :=
  ∀ (s : State) (cvUp cvDn : Nat), s.pw.phase = .active → 0 < s.tm.tread →
    ∃ t, exec (.treadStart cvUp cvDn) s = .next t ∧ t.tm.tread = s.tm.tread + 1 ∧
      t.tm.ltc = (s.tm.ltc + 1) % 2 ^ 48 ∧ t.tm.stn = (s.tm.stn + 1) % 2 ^ 32 ∧ t.tm.marked = false ∧
      t.tm.misses = (if s.bit TIME.STATUS.STNVALID then (if s.tm.marked then 0 else s.tm.misses + 1) else s.tm.misses) ∧
      t.tm.phaseLeft = s.tm.phaseLeft - 256 * s.tm.adjust ∧
      t.tm.adjust = max (-2) (min 2 ((t.tm.phaseLeft + 128) / 256)) ∧
      (s.bit TIME.STATUS.PTVALID = false → t.tm.ptSec = s.tm.ptSec ∧ t.tm.ptMs = s.tm.ptMs) ∧
      (s.bit TIME.STATUS.PTVALID = true → s.tm.ptMs < 999 → t.tm.ptSec = s.tm.ptSec ∧ t.tm.ptMs = s.tm.ptMs + 1) ∧
      (s.bit TIME.STATUS.PTVALID = true → s.tm.ptMs = 999 → t.tm.ptSec = (s.tm.ptSec + 1) % 2 ^ 32 ∧ t.tm.ptMs = 0)

/-- Alignment (R35, R336): after 16 treads without an accepted mark ALIGNED clears and fault 37 is live; the source
moves to the DN port after 4 treads without a valid mark on the UP port, where the DN port qualifies, and back after 64
with one. A pending step ends with the tread that it lengthens or shortens: the slip is an event and counts, the phase
error is gone, and a tread cut before the end of riser 2 (master clock 12,288) has no snapshot (R36, R37). What the
model chose here: log 3, 46. -/
def Obligations.AlignmentAndSlips : Prop :=
  (∀ s : State, s.pw.phase = .active → 16 ≤ s.tm.misses → ∃ t, exec .alignmentLost s = .next t ∧
    t.bit TIME.STATUS.ALIGNED = false ∧ t.holds 37 = true ∧
    (s.bit TIME.STATUS.ALIGNED = true → t.bit TIME.EVT.SYNCLOST = true) ∧
    (∀ a, a ≠ TIME.STATUS.ALIGNED.addr → a ≠ TIME.EVT.SYNCLOST.addr → t.reg a = s.reg a) ∧ t.tm = s.tm) ∧
  (∀ s : State, s.pw.phase = .active → s.tm.misses < 16 → exec .alignmentLost s = .next s) ∧
  (∀ s : State, s.pw.phase = .active → s.source? = some .up → 4 ≤ s.link.upMiss → s.qualifies .dnTx = true →
    exec (.alignSourceChange .dn) s = .next ((s.set TIME.STATUS.SRC 2).evt TIME.EVT.SRCCHG)) ∧
  (∀ s : State, s.pw.phase = .active → s.source? = some .dn → 64 ≤ s.link.upGood →
    exec (.alignSourceChange .up) s = .next ((s.set TIME.STATUS.SRC 1).evt TIME.EVT.SRCCHG)) ∧
  (∀ (s : State) (cut : Fin 65536), s.pw.phase = .active → s.tm.stepPend = none → exec (.slippedTread cut) s = .next s) ∧
  (∀ (s : State) (cut : Fin 65536) (e : Int), s.pw.phase = .active → s.tm.stepPend = some e → 0 ≤ e →
    ∃ t, exec (.slippedTread cut) s = .next t ∧ t.tm = { s.tm with stepPend := none, phaseLeft := 0, adjust := 0, slipped := true, idle := true } ∧
      t.get TIME.SLIPCNT = min (s.get TIME.SLIPCNT + 1) 65535 ∧ t.bit TIME.EVT.SLIP = true) ∧
  (∀ (s : State) (cut : Fin 65536) (e : Int), s.pw.phase = .active → s.tm.stepPend = some e → e < 0 →
    ∃ t, exec (.slippedTread cut) s = .next t ∧ t.tm = { s.tm with
      stepPend := none, phaseLeft := 0, adjust := 0, slipped := true, noSnap := s.tm.noSnap || decide (cut.val < 12288) } ∧
      t.get TIME.SLIPCNT = min (s.get TIME.SLIPCNT + 1) 65535 ∧ t.bit TIME.EVT.SLIP = true)

/-- A tread mark is accepted on the alignment source port in link-up when it came clean, with a right CRC, the port's
rate and the landing's origin (R320, R334): the tread is marked, the misses end and STN takes the mark's value. A mark
with a wrong CRC changes neither the times nor any register but the compensation L of a frame passed on and, where it
comes before the slots of the frame it ends have passed, the report of a lost framing (R326); a port that is not up
takes none. What the model chose here: log 3, 45, 166. -/
def Obligations.MarkAccepted : Prop :=
  (∀ (s : State) (p : Port) (m : Mark) (tArr : Int), s.pw.phase = .active → s.linkUp p = true →
    m.rate.toNat = s.pRateOf p → m.origin = originOf p → s.source? = some p →
    ∃ t, exec (.tmkRx p m true (markCrc m) tArr) s = .next t ∧ t.tm.marked = true ∧ t.tm.misses = 0 ∧ t.tm.stn = m.stn.toNat) ∧
  (∀ (s : State) (p : Port) (m : Mark) (clean : Bool) (crc : Word) (tArr : Int), s.pw.phase = .active → s.linkUp p = true →
    crc ≠ markCrc m → ∃ t, exec (.tmkRx p m clean crc tArr) s = .next t ∧ t.tm = s.tm ∧
    (∀ a, a ≠ (fwdFld p).addr → a ≠ LINK.FRMERR.addr → a ≠ LINK.EVT.FRAMING.addr → t.reg a = s.reg a)) ∧
  (∀ (s : State) (p : Port) (m : Mark) (clean : Bool) (crc : Word) (tArr : Int), s.pw.phase = .active → s.linkUp p = false →
    exec (.tmkRx p m clean crc tArr) s = .next s)

/-- The LTC's vault bound (R40, R41): LTC[47:24] + 1 is written when it differs from the last one, into the next ring
entry; an entry that fails its verification is retired, up to 128, and the write stays due; each write counts towards
VLTWORN. A plant time set takes effect when its named tread is reached: PTPEND clears, plant time is valid and stands at
the set value (R48). What the model chose here: log 47, 153. -/
def Obligations.VaultBoundAndPlantTime : Prop :=
  (∀ s : State, s.pw.phase = .active → s.bit SYS.STATUS.LTCRES = true → s.tm.ltc / 16777216 + 1 ≠ s.tm.hiWritten →
    s.vault.ringBad < 128 → ∃ t, exec (.ltchiWrite true) s = .next t ∧ t.vault.ltchi = s.tm.ltc / 16777216 + 1 ∧
      t.vault.ringWrites = s.vault.ringWrites + 1 ∧ t.vault.ringBad = s.vault.ringBad ∧ t.vault.closed = s.vault.closed ∧
      t.tm = { s.tm with hiWritten := s.tm.ltc / 16777216 + 1 }) ∧
  (∀ s : State, s.pw.phase = .active → s.bit SYS.STATUS.LTCRES = true → s.tm.ltc / 16777216 + 1 ≠ s.tm.hiWritten →
    exec (.ltchiWrite false) s = .next (({ s with vault := { s.vault with
      ringBad := min (s.vault.ringBad + 1) 128,
      ringWrites := s.vault.ringWrites + min 1 (128 - s.vault.ringBad) } }).setB TIME.STATUS.VLTWORN
        (decide (128000 ≤ s.vault.ringWrites + min 1 (128 - s.vault.ringBad))))) ∧
  (∀ (s : State) (ok : Bool), s.pw.phase = .active → s.tm.ltc / 16777216 + 1 = s.tm.hiWritten →
    exec (.ltchiWrite ok) s = .next s) ∧
  (∀ s : State, s.pw.phase = .active → s.ptDue = true →
    ∃ t, exec .plantTimeApply s = .next t ∧ t.tm.ptSec = s.get2 TIME.PEND0 ∧ t.tm.ptMs = s.get TIME.PEND2 ∧
      t.bit TIME.STATUS.PTVALID = true ∧ t.bit TIME.STATUS.PTPEND = false ∧ t.bit TIME.EVT.PTSET = true ∧
      t.tm.ltc = s.tm.ltc ∧ t.tm.stn = s.tm.stn ∧ t.tm.tread = s.tm.tread)

/-- Riser 2 of a tread forms one image of all channels with the tread's stamps and the newest die temperature of the
start of riser 2 (R13, R103, R136); a channel in use, cell or current, that an overload met in its aperture shows a
clamp code, OVR and class 15 (R96), any other that is not under calibration the correction of its raw samples, by the
model's own decimator and coefficients, or a clamp code with OVR beyond its range (R81, R90, R92); a cell above COUNT
shows 0 with class 15; a late image leaves the old one and is an occurrence of fault 14 (R29); tread 0 and a tread cut
before the end of riser 2 have none (R37, R60). What the model chose here: log 3, 12, 50, 182. -/
def Obligations.SnapshotImages : Prop :=
  (∀ (s : State) (l : List (List Int)), s.pw.phase = .active → imageShape l → 0 < s.tm.tread →
    s.tm.noSnap = false → s.cells.fresh = false → ∃ t, exec (.snapshotImage false l) s = .next t ∧
      t.cells.snapStn = s.tm.stn ∧ t.cells.snapLtc = s.tm.ltc ∧ t.cells.snapTag = s.tm.ltc % 16 ∧ t.cells.fresh = true ∧
      t.cells.lateRun = 0 ∧ t.cells.dieTemp = s.dieImage ∧
      t.cells.sum = ((List.range s.count).map (fun c => (look t.cells.snap c).v)).sum ∧
      (∀ c, c < 38 → s.chanOn c = true → s.winHit c = true → (look t.cells.snap c).ovr = true ∧ (look t.cells.snap c).unc = 15 ∧
        (look t.cells.snap c).v = if (look s.cells.ovl c).high then 8388607 else -8388608) ∧
      (∀ (c : Nat) (v : Int), c < 38 → s.chanOn c = true → s.winHit c = false → s.calNow c = false →
        v = roundRat (s.corrected c s.dieImage (snapD (l.getD c []))) →
        (look t.cells.snap c).ovr = decide (v < (s.rangeOf c).1 ∨ (s.rangeOf c).2 < v) ∧
        (look t.cells.snap c).v = (if v < (s.rangeOf c).1 then -8388608 else if (s.rangeOf c).2 < v then 8388607 else v) ∧
        (look t.cells.snap c).nbr = (decide (c < 36) && (s.beside c).any s.winHit) ∧ (look t.cells.snap c).stale = false ∧
        (look t.cells.snap c).tag = s.tm.ltc % 16) ∧
      (∀ c, c < 36 → s.count ≤ c → (look t.cells.snap c).v = 0 ∧ (look t.cells.snap c).unc = 15)) ∧
  (∀ (s : State) (l : List (List Int)), s.pw.phase = .active → imageShape l → 0 < s.tm.tread →
    s.tm.noSnap = false → s.cells.fresh = false → exec (.snapshotImage true l) s =
      .next (({ s with cells := { s.cells with lateRun := s.cells.lateRun + 1 } }).occur 14)) ∧
  (∀ (s : State) (l : List (List Int)) (late : Bool), s.pw.phase = .active → imageShape l →
    s.tm.tread = 0 ∨ s.tm.noSnap = true ∨ s.cells.fresh = true → exec (.snapshotImage late l) s = .next s)

/-- A fine boundary of the OSR in use after master clock 0 of tread 1, at which some channel in use is in overload or
has a primed chain that is ready, posts fine results with one FSX; a channel in overload shows its clamp code with OVR
and class 15; an ordinary one, ready and neither in overload nor under calibration, shows the corrected result of its
chain, by the model's own filters, without OVR where it lies in range (R85, R89, R90, R93, R99, R104). Where the clock
is no boundary, nothing happens; where fine streams are off, a boundary only passes. RESTART, and switching the fine
streams on, restart every fine chain after the newest boundary, and no waiting comparison is made across it; switching
them off or on again only writes the bit (R89, R146). What the model chose here: log 3, 12, 13, 14. -/
def Obligations.FineStreams : Prop :=
  (∀ (s : State) (clk : Fin 4096) (l : List (List Int)) (ch : Nat), s.pw.phase = .active → l.length = 38 →
    s.cells.finePend = none → s.bit CELLCFG.CTRL.FINEEN = true → s.isBoundary (s.used CELLCFG.FINE.OSR) clk.val = true →
    (∀ c ∈ l, c.length = s.osr) → 4096 < s.absClk clk.val → ch < 38 → s.chanOn ch = true →
    s.inOverload ch (s.absClk clk.val) = true ∨
      s.chainReady (s.runChain ch (s.absClk clk.val) (l.getD ch [])) (s.absClk clk.val) = true →
    ∃ t, exec (.fineBoundary clk l) s = .next t ∧ t.cells.fineAt = s.tm.tread * 4096 + clk.val ∧
      t.cells.boundAt = s.tm.tread * 4096 + clk.val ∧
      t.cells.fsx = (s.tm.stn % 2 ^ 32 * 4096 / s.osr + clk.val / s.osr) % 2 ^ 32 ∧
      (s.inOverload ch (s.absClk clk.val) = true → (look t.cells.fine ch).ovr = true ∧ (look t.cells.fine ch).unc = 15 ∧
        (look t.cells.fine ch).v = if (look s.cells.ovl ch).high then 8388607 else -8388608) ∧
      (∀ v : Int, s.inOverload ch (s.absClk clk.val) = false → s.calAt (lastBack clk.val) ch = false →
        v = (s.runChain ch (s.absClk clk.val) (l.getD ch [])).raw → (s.rangeOf ch).1 ≤ v → v ≤ (s.rangeOf ch).2 →
        (look t.cells.fine ch).v = v ∧ (look t.cells.fine ch).ovr = false ∧ (look t.cells.fine ch).stale = false)) ∧
  (∀ (s : State) (clk : Fin 4096) (l : List (List Int)), s.pw.phase = .active → l.length = 38 → s.cells.finePend = none →
    s.isBoundary (s.used CELLCFG.FINE.OSR) clk.val = false → exec (.fineBoundary clk l) s = .next s) ∧
  (∀ (s : State) (ch : Nat), s.pw.phase = .active → ch < 38 → ∃ t, exec .restart s = .next t ∧
    (look t.cells.chains ch).start = max s.cells.boundAt (s.tm.tread * 4096) + 1 ∧ (look t.cells.chains ch).n = 0 ∧
    (look t.cells.chains ch).primed = false ∧ (look t.cells.chains ch).posted = false ∧ t.bit CELLCFG.EVT.RESTART = true ∧
    t.bit CELLCFG.STATUS.FINEVALID = false ∧ (∀ c, ∀ w ∈ (t.conv c).waits, w.bad = true) ∧ t.tm = s.tm) ∧
  (∀ (s : State) (ch : Nat), s.pw.phase = .active → ch < 38 → s.bit CELLCFG.CTRL.FINEEN = false →
    ∃ t, exec (.fineen true) s = .next t ∧ (look t.cells.chains ch).start = max s.cells.boundAt (s.tm.tread * 4096) + 1 ∧
    (look t.cells.chains ch).n = 0 ∧ (look t.cells.chains ch).primed = false) ∧
  (∀ s : State, s.pw.phase = .active → s.bit CELLCFG.CTRL.FINEEN = true →
    exec (.fineen true) s = .next (s.setB CELLCFG.CTRL.FINEEN true)) ∧
  (∀ s : State, s.pw.phase = .active → exec (.fineen false) s = .next (s.setB CELLCFG.CTRL.FINEEN false)) ∧
  (∀ (s : State) (clk : Fin 4096) (l : List (List Int)), s.pw.phase = .active → l.length = 38 → s.cells.finePend = none →
    s.bit CELLCFG.CTRL.FINEEN = false → s.isBoundary (s.used CELLCFG.FINE.OSR) clk.val = true →
    exec (.fineBoundary clk l) s = .next { s with cells := { s.cells with boundAt := s.tm.tread * 4096 + clk.val } })

/-- The overload detector of a channel in use (R93, R94, R96): an assertion is held with its side and clock, and one in
clocks 99 to 507 marks the aperture; a release is held with its clock and restarts the channel's chain there. A channel
not in use never asserts. What the model chose here: log 3. -/
def Obligations.OverloadDetector : Prop :=
  (∀ (s : State) (ch : Chan) (high : Bool) (clk : Fin 4096), s.pw.phase = .active → s.chanOn ch.val = true →
    (look s.cells.ovl ch.val).on = false → ∃ t, exec (.overloadAssert ch high clk) s = .next t ∧
      look t.cells.ovl ch.val = Ovl.mk true high (s.tm.tread * 4096 + clk.val) none
        ((look s.cells.ovl ch.val).win || decide (99 ≤ clk.val ∧ clk.val ≤ 507)) ∧
      (∀ k, k ≠ ch.val → look t.cells.ovl k = look s.cells.ovl k) ∧ t.cells.snap = s.cells.snap ∧ t.cells.chains = s.cells.chains) ∧
  (∀ (s : State) (ch : Chan) (clk : Fin 4096), s.pw.phase = .active → (look s.cells.ovl ch.val).on = true →
    ∃ t, exec (.overloadRelease ch clk) s = .next t ∧ (look t.cells.ovl ch.val).on = false ∧
      (look t.cells.ovl ch.val).tEnd = some (s.tm.tread * 4096 + clk.val) ∧
      (look t.cells.chains ch.val).start = s.tm.tread * 4096 + clk.val ∧ (look t.cells.chains ch.val).afterOvr = true ∧
      t.cells.snap = s.cells.snap) ∧
  (∀ (s : State) (ch : Chan) (high : Bool) (clk : Fin 4096), s.pw.phase = .active → s.chanOn ch.val = false →
    exec (.overloadAssert ch high clk) s = .next s)

/-- A subscribed broadcast block (R117 to R122): an accepted one is kept with its STN, and the shunt it names is the one
in use; a refused one is noted with its cause under the tread it belongs to. A tread four behind without an accepted
block is a gap, counted once. What the model chose here: log 54, 55, 163. -/
def Obligations.CurrentSubscription : Prop :=
  (∀ (s : State) (p : Port) (x : Slot) (b : BlockRx), s.pw.phase = .active → s.framed p = true → s.subscribes p x = true → b = blockOf x →
    s.rxCause x.crcOk b = 0 → stnBefore b.stn.toNat s.tm.stn 4 = false →
    ∃ t, exec (.broadcastBlockRx p true x) s = .next t ∧ t.curr.rx = (RxBlk.mk b.stn.toNat b :: s.curr.rx).take 8 ∧
      t.curr.rsh = (if s.used CURR.SUB.CH = 1 then b.rshB.toNat else b.rshA.toNat) ∧ t.xact = s.xact) ∧
  (∀ (s : State) (p : Port) (x : Slot) (b : BlockRx) (n d : Nat), s.pw.phase = .active → s.framed p = true → s.subscribes p x = true →
    b = blockOf x → s.rxCause x.crcOk b ≠ 0 → n = s.rxTread x.crcOk b → d = (s.tm.stn + 4294967296 - n) % 4294967296 →
    exec (.broadcastBlockRx p true x) s = .next { s with curr := { s.curr with
      lag := if x.crcOk && decide (d ≤ 3) then d else s.curr.lag,
      refused := ((n, s.rxCause x.crcOk b) :: s.curr.refused).take 8 } }) ∧
  (∀ (s : State) (p : Port) (sos : Bool) (x : Slot), s.pw.phase = .active → sos = false ∨ s.framed p = false ∨ s.subscribes p x = false →
    exec (.broadcastBlockRx p sos x) s = .next s) ∧
  (∀ s : State, s.pw.phase = .active → s.subscribed = true → s.gapPaired = false → s.curr.judged ≠ some s.gapStn →
    ∃ t, exec .gapTread s = .next t ∧ t.curr.gaps = s.curr.gaps + 1 ∧ t.curr.judged = some ((s.tm.stn + 4294967292) % 2 ^ 32) ∧
      t.get CURR.GAPCNT = min (s.get CURR.GAPCNT + 1) 65535 ∧ t.bit CURR.EVT.GAP = true ∧ t.curr.rx = s.curr.rx) ∧
  (∀ s : State, s.pw.phase = .active → s.curr.judged = some s.gapStn → exec .gapTread s = .next s)

/-- The calibration engine's requests (R157, R161, R164, R166): a run or a system-zero starts where neither runs or
waits, else the request is refused; an abort is noted while a run is in progress and has no effect otherwise; an
automatic run starts when it is due. What the model chose here: log 62. -/
def Obligations.CalibrationRequests : Prop :=
  (∀ s : State, s.pw.phase = .active → s.cal.run = none → s.cal.sz = none → s.cal.runReq = false → s.cal.szReq = false →
    exec .run s = .next { s with cal := { s.cal with runReq := true } } ∧
    exec .syszero s = .next { s with cal := { s.cal with szReq := true } }) ∧
  (∀ s : State, s.pw.phase = .active → s.cal.run.isSome = true ∨ s.cal.sz.isSome = true ∨ s.cal.runReq = true ∨ s.cal.szReq = true →
    exec .run s = .next (s.evt CAL.EVT.REFUSED) ∧ exec .syszero s = .next (s.evt CAL.EVT.REFUSED)) ∧
  (∀ s : State, s.pw.phase = .active → exec .calAbort s =
    .next (if s.cal.run.isSome then { s with cal := { s.cal with abortReq := true } } else s)) ∧
  (∀ s : State, s.pw.phase = .active → s.get CAL.AUTO = 1 → s.calDue = true → s.cal.run = none → s.cal.sz = none →
    s.cal.szReq = false → s.bit CAL.CTRL.HOLD = false → 48 ≤ s.tm.tread → s.cal.rejEnd = none →
    exec .calAutoStart s = .next { s with cal := { s.cal with runReq := true } })

/-- What the calibration engine's checks and treads do: a calibration due for an hour brings fault 25 (R165); a wrong
coefficient CRC brings fault 26 and the reload (R170); the guard band goes to the vault when it has grown by 100 or for
a week (R175); a system-zero takes one raw value of each current a tread (R166). In a group the second tread takes the
calibration temperature of its channels, the third the two feedback-DAC elements of a measured channel, the fourth the
measurements of the channels under calibration (R158). When that last tread has ended, each measurement is judged (R159,
R160): one whose new correction lies within the field limits replaces the channel's offset and gain over the ramp, whose
first step is that master clock 0 (R163), with its temperature, elements, residuals, spread and W_ch, and clears its
REJMAP bit; one beyond the limits, or whose gain cannot be formed, keeps the channel's coefficients and sets REJMAP,
EVT.REJECT and fault 24. The reference trio (R174, R175): measured when it is due, it never lowers the guard band. What
the model chose here: log 12 (halves), 62, 63, 65 (deltas in 1/256), 133, 138. -/
def Obligations.CalibrationTreads : Prop :=
  (∀ (s : State) (t0 : Nat), s.pw.phase = .active → s.cal.dueSince = some t0 → t0 + 3600000 ≤ s.tm.ltc →
    exec .calOverdue s = .next (s.cond 25 true)) ∧
  (∀ (s : State) (st : CrcState), s.pw.phase = .active → s.tm.ltc % 16 = 0 → st.ramOk = false →
    ∃ t, exec (.coeffCrcCheck st) s = .next t ∧ t.holds 26 = true ∧
      t.cal = { s.cal with vaultBad := !st.vaultOk, reloadDue := true, suspect := true } ∧ t.regs = s.regs) ∧
  (∀ (s : State) (st : CrcState), s.pw.phase = .active → s.tm.ltc % 16 = 0 → st.ramOk = true →
    exec (.coeffCrcCheck st) s = .next { s with cal := { s.cal with vaultBad := !st.vaultOk } }) ∧
  (∀ s : State, s.pw.phase = .active → s.vault.guard + 100 ≤ s.cal.guard ∨
      (s.vault.guard < s.cal.guard ∧ s.vault.guardLtc + 604800000 ≤ s.tm.ltc) →
    exec .guardVaultWrite s = .next { s with vault := { s.vault with guard := s.cal.guard, guardLtc := s.tm.ltc } }) ∧
  (∀ (s : State) (z : SysZ), s.pw.phase = .active → s.cal.sz = some z → z.t < 255 →
    exec .syszeroTread s = .next { s with cal := { s.cal with sz := some { z with
      accA := szAdd z.accA z.t (s.szX 36).1, accB := szAdd z.accB z.t (s.szX 37).1,
      rejA := z.rejA || (s.szX 36).2, rejB := z.rejB || (s.szX 37).2 } } }) ∧
  (∀ (s : State) (meas : List CalMeas) (r : CalRun) (ch : Nat), s.pw.phase = .active → s.cal.run = some r → r.dead = false →
    r.slip = false → r.t % 4 = 1 → ch ∈ groupChans (r.t / 4) →
    ∃ t r', exec (.calGroupTread meas) s = .next t ∧ t.cal.run = some r' ∧ look r'.temps ch = s.cells.dieTemp ∧
      r'.t = r.t ∧ t.cal.chans = s.cal.chans ∧ t.regs = s.regs) ∧
  (∀ (s : State) (m : CalMeas) (r : CalRun), s.pw.phase = .active → s.cal.run = some r → r.dead = false → r.slip = false →
    r.t % 4 = 2 → m.ch.val ∈ groupChans (r.t / 4) → s.calNow m.ch.val = true → m.ch.val < 38 →
    ∃ t r', exec (.calGroupTread [m]) s = .next t ∧ t.cal.run = some r' ∧ look r'.dac m.ch.val = some (dacPick m.elems) ∧
      r'.t = r.t ∧ t.cal.chans = s.cal.chans) ∧
  (∀ (s : State) (meas : List CalMeas) (r : CalRun), s.pw.phase = .active → s.cal.run = some r → r.dead = false →
    r.slip = false → r.t % 4 = 3 → ∃ t, exec (.calGroupTread meas) s = .next t ∧ t.cal.chans = s.cal.chans ∧
      t.cal.run = some { r with meas := meas.filter (fun m => decide (m.ch.val ∈ groupChans (r.t / 4)) && s.calNow m.ch.val) }) ∧
  (∀ (s : State) (cvUp cvDn : Nat) (m : CalMeas) (r : CalRun) (c : CalChan) (f : Int × Int) (o g : Int), s.pw.phase = .active →
    s.cal.run = some r → r.t % 4 = 3 → r.dead = false → r.slip = false → s.cal.abortReq = false → s.cal.reloadDue = false →
    s.cfg.defPend = false → r.meas = [m] → c = look s.cal.chans m.ch.val → f = s.factory m.ch.val (look r.temps m.ch.val) →
    o = roundRat ((m.zero : Rat) - (f.1 : Rat) / 256) →
    g = roundRat ((((CalMeas.standard m : Int) : Rat) / ((m.std - m.zero : Int) : Rat) - 1) * 100000000 - (f.2 : Rat) / 256) →
    m.std ≠ m.zero → (o.natAbs : Int) ≤ (fieldLimit m.ch.val).1 → (g.natAbs : Int) ≤ (fieldLimit m.ch.val).2 →
    ∃ t, exec (.treadStart cvUp cvDn) s = .next t ∧ look t.cal.chans m.ch.val = { c with
        delta := (c.delta.to (256 * o) (256 * g) (s.get CAL.RAMP)).step, temp := some (look r.temps m.ch.val),
        dacx := if m.ch.val < 38 then (look r.dac m.ch.val).getD c.dacx else 0, acc := true, resO := m.resOfs, resG := m.resGain,
        spread := r.spread, wch := wChOf m.ch.val o g } ∧ t.vbit CAL.REJMAP0 m.ch.val = false) ∧
  (∀ (s : State) (cvUp cvDn : Nat) (m : CalMeas) (r : CalRun) (c : CalChan) (f : Int × Int) (o g : Int), s.pw.phase = .active →
    s.cal.run = some r → r.t % 4 = 3 → r.dead = false → r.slip = false → s.cal.abortReq = false → s.cal.reloadDue = false →
    s.cfg.defPend = false → r.meas = [m] → c = look s.cal.chans m.ch.val → f = s.factory m.ch.val (look r.temps m.ch.val) →
    o = roundRat ((m.zero : Rat) - (f.1 : Rat) / 256) →
    g = roundRat ((((CalMeas.standard m : Int) : Rat) / ((m.std - m.zero : Int) : Rat) - 1) * 100000000 - (f.2 : Rat) / 256) →
    m.std = m.zero ∨ (fieldLimit m.ch.val).1 < (o.natAbs : Int) ∨ (fieldLimit m.ch.val).2 < (g.natAbs : Int) →
    ∃ t, exec (.treadStart cvUp cvDn) s = .next t ∧ look t.cal.chans m.ch.val = { c with
        delta := c.delta.step, resO := m.resOfs, resG := m.resGain, spread := r.spread } ∧ t.vbit CAL.REJMAP0 m.ch.val = true ∧
      t.bit CAL.EVT.REJECT = true ∧ t.holds 24 = true) ∧
  (∀ (s : State) (a b c : Int), s.pw.phase = .active → s.trioDue = true → ∃ t, exec (.refTrioMeasure a b c) s = .next t ∧
    t.cal.guard = max s.cal.guard (guardOf (max (a - b).natAbs (max (a - c).natAbs (b - c).natAbs))) ∧
    s.cal.guard ≤ t.cal.guard ∧ t.cal.chans = s.cal.chans)

/-- The slots (R167 to R169). A due commit begins in the flash, where that is usable and has nothing before it to do:
the new content, one sequence number on and with the image in wait, is written and read back as one operation; when that
ends well it is the slot in use, else COMMITFAIL reports it and the slot in use stays. Without a usable flash it goes to
the vault at most once a week, with the same two ends, and else waits there for the end of that interval. What the model
chose here: log 39, 108, 157. -/
def Obligations.SlotCommits : Prop :=
  (∀ (s : State) (ok : Bool), s.pw.phase = .active → s.cal.commitDue = true → s.fl.usable = true → s.fl.busy = false →
    ∃ t sl, exec (.slotCommit ok) s = .next t ∧ t.cal = { s.cal with commitDue := false } ∧ t.fl.op = some (.slot ok) ∧
    t.fl.slotNew = some (sl, s.cfg.persist) ∧ t.cfg = { s.cfg with persist := none } ∧ t.bit FLASH.STATUS.BUSY = true ∧
    sl.seq = (match s.newestSlot with | some (x, _) => x.seq | none => 0) + 1 ∧ sl.image = s.commitImage false ∧ sl.ltc = s.tm.ltc ∧
    t.vault = s.vault) ∧
  (∀ (s : State) (ok : Bool), s.pw.phase = .active → s.cal.commitDue = false ∨ (s.fl.usable = true ∧ s.fl.busy = true) →
    exec (.slotCommit ok) s = .next s) ∧
  (∀ (s : State) (c : Nat) (sl : CalSlot) (p : Option (Option CfgImage)), s.pw.phase = .active → s.pw.leave = none → s.pw.closing = none →
    s.fl.op = some (.slot true) → s.fl.slotNew = some (sl, p) → ∃ t, exec (.flashOpDone (.ok c)) s = .next t ∧ t.cal.slot = some sl ∧
    t.cal.slotVault = false ∧ (t.fl.slotA = some sl ∨ t.fl.slotB = some sl) ∧ t.bit CAL.EVT.COMMIT = true ∧
    t.vault.slotA = s.vault.slotA ∧ t.vault.slotB = s.vault.slotB) ∧
  (∀ (s : State) (e : OpEnd) (ok : Bool) (sl : CalSlot) (p : Option (Option CfgImage)), s.pw.phase = .active → s.pw.leave = none →
    s.pw.closing = none → s.fl.op = some (.slot ok) → s.fl.slotNew = some (sl, p) → (ok = false ∧ e ≠ .failed) ∨ (e = .failed ∧ 2 ≤ s.fl.tries) →
    ∃ t, exec (.flashOpDone e) s = .next t ∧ t.cal.slot = s.cal.slot ∧ t.cal.slotVault = s.cal.slotVault ∧ t.fl.slotNew = none ∧
    t.bit CAL.EVT.COMMITFAIL = true) ∧
  (∀ s : State, s.pw.phase = .active → s.cal.commitDue = true → s.fl.usable = false → s.vaultFree = true →
    ∃ t sl, exec (.slotCommit true) s = .next t ∧ t.cal.commitDue = false ∧ t.cal.slot = some sl ∧ t.cal.slotVault = true ∧
      sl.seq = (match s.newestSlot with | some (x, _) => x.seq | none => 0) + 1 ∧
      (t.vault.slotA = some sl ∨ t.vault.slotB = some sl) ∧ t.vault.commitLtc = some s.tm.ltc) ∧
  (∀ s : State, s.pw.phase = .active → s.cal.commitDue = true → s.fl.usable = false → s.vaultFree = true →
    ∃ t, exec (.slotCommit false) s = .next t ∧ t.cal.commitDue = false ∧ t.cal.slot = s.cal.slot ∧ t.bit CAL.EVT.COMMITFAIL = true ∧
      t.vault.commitLtc = s.vault.commitLtc) ∧
  (∀ (s : State) (ok : Bool), s.pw.phase = .active → s.cal.commitDue = true → s.fl.usable = false → s.vaultFree = false →
    ∃ t, exec (.slotCommit ok) s = .next t ∧ t.cal = { s.cal with commitDue := false, deferred := true } ∧ t.vault = s.vault) ∧
  (∀ s : State, s.pw.phase = .active → s.cal.deferred = true → s.vaultFree = true → s.fl.usable = false →
    ∃ t sl, exec (.vaultCommitDeferEnd true) s = .next t ∧ t.cal.deferred = false ∧ t.cal.slot = some sl ∧
      sl.seq = (match s.newestSlot with | some (x, _) => x.seq | none => 0) + 1 ∧
      (t.vault.slotA = some sl ∨ t.vault.slotB = some sl) ∧ t.vault.commitLtc = some s.tm.ltc) ∧
  (∀ (s : State) (ok : Bool), s.pw.phase = .active → s.cal.deferred = true → s.vaultFree = true → s.fl.usable = true →
    ∃ t, exec (.vaultCommitDeferEnd ok) s = .next t ∧ t.cal = { s.cal with deferred := false, commitDue := true } ∧ t.vault = s.vault)

/-- The health record is posted to queue 54 in every tread whose LTC is a multiple of 1,000 (R179), and the last word of
a user trim takes it into use over the ramp, or is refused beyond the limits or while the configuration is armed (R172,
R440). What the model chose here: log 3, 65, 68. -/
def Obligations.HealthAndTrims : Prop :=
  (∀ s : State, s.pw.phase = .active → s.tm.ltc % 1000 = 0 → 0 < s.tm.tread → s.qEnabled 54 = true →
    ∃ t, exec .healthPost s = .next t ∧ t.newest 54 = some (leBytes 4 s.tm.stn ++
      wordBytes ((List.range 30).map (fun i => s.reg (HEALTH.WREF.plus i).addr))) ∧
      (look t.xact.queues 54).next = ((look s.xact.queues 54).next + 1) % 65536) ∧
  (∀ s : State, s.pw.phase = .active → s.tm.ltc % 1000 ≠ 0 → exec .healthPost s = .next s) ∧
  (∀ (s : State) (v : Word), s.pw.phase = .active → s.guardArmed = true → s.cfgClass (linear 0x11 0x0C) = true →
    exec (.userTrimWrite v) s = .next (s.evt CFGGUARD.EVT.WLOCK)) ∧
  (∀ (s : State) (v : Word) (ch : Nat) (o g : Int), s.pw.phase = .active → s.guardArmed = false → s.staged = [] →
    s.get { CALWIN.SEL with lo := 8, w := 4 } = 7 → s.get { CALWIN.SEL with w := 6 } = ch → ch ≤ 37 →
    (look s.cal.trims ch).o1 = 256 * o → o.natAbs ≤ 32767 →
    g = signed 24 (twos 24 ((look s.cal.trims ch).g1 / 256) % 65536 + 65536 * (v.toNat % 256)) →
    ∃ t, exec (.userTrimWrite v) s = .next t ∧ (∀ k, k ≠ ch → look t.cal.trims k = look s.cal.trims k) ∧
      (g.natAbs ≤ 1000000 → look t.cal.trims ch = (look s.cal.trims ch).to (256 * o) (256 * g) (s.get CAL.RAMP)) ∧
      (1000000 < g.natAbs → t.cal = s.cal ∧ t.get ⟨0x11, 0x03, 0, 1⟩ = 1))

/-- GO arms every enabled lane that does not run, for the next tread or for the named one; a named tread out of reach is
refused; STOP ends them all (R182 to R184). The impedance window (R202, R209, R210): TOFS of the cursor's cell is
written in class 1 only, and not while the configuration is armed; a read of the record's last word moves the cursor to
the next cell, in class 0 of CELLMAP, in class 1 of COUNT; freezing holds the image until it ends. What the model chose
here: log 68. -/
def Obligations.ImpedanceCommands : Prop :=
  (∀ (s : State) (k : Nat), s.pw.phase = .active → s.bit IMP.CTRL.STARTAT = false → k < 8 → s.laneEn k = true →
    s.laneRuns k = false → ∃ t, exec .go s = .next t ∧ (look t.imp.lanes k).mode = .armed none s.tm.tread ∧
      (look t.imp.lanes k).seq = (look s.imp.lanes k).seq ∧ t.imp.img = s.imp.img) ∧
  (∀ (s : State) (k : Nat), s.pw.phase = .active → s.bit IMP.CTRL.STARTAT = false → k < 8 →
    s.laneEn k = false ∨ s.laneRuns k = true → ∃ t, exec .go s = .next t ∧ look t.imp.lanes k = look s.imp.lanes k) ∧
  (∀ s : State, s.pw.phase = .active → s.bit IMP.CTRL.STARTAT = true → s.bit TIME.STATUS.STNVALID = false →
    exec .go s = .next (s.evt IMP.EVT.CFGREJ)) ∧
  (∀ (s : State) (d : Nat), s.pw.phase = .active → s.bit IMP.CTRL.STARTAT = true → d < 4294967296 → d < 2 ∨ 65535 < d →
    s.tm.stn < 4294967296 → s.get2 IMP.STARTSTN0 = (s.tm.stn + d) % 4294967296 → exec .go s = .next (s.evt IMP.EVT.CFGREJ)) ∧
  (∀ (s : State) (k d : Nat), s.pw.phase = .active → s.bit IMP.CTRL.STARTAT = true → s.bit TIME.STATUS.STNVALID = true →
    2 ≤ d → d ≤ 65535 → s.tm.stn < 4294967296 → s.get2 IMP.STARTSTN0 = (s.tm.stn + d) % 4294967296 → k < 8 →
    s.laneEn k = true → s.laneRuns k = false → ∃ t, exec .go s = .next t ∧
      (look t.imp.lanes k).mode = .armed (some (s.get2 IMP.STARTSTN0)) s.tm.tread ∧
      (look t.imp.lanes k).seq = (look s.imp.lanes k).seq ∧ t.imp.img = s.imp.img) ∧
  (∀ (s : State) (k : Nat), s.pw.phase = .active → k < 8 → ∃ t, exec .stop s = .next t ∧ (look t.imp.lanes k).mode = .idle ∧
    (look t.imp.lanes k).cur = (if s.laneRuns k then none else (look s.imp.lanes k).cur) ∧ t.imp.img = s.imp.img) ∧
  (∀ (s : State) (v : Word), s.pw.phase = .active → s.get IMPWIN.SEL.CLASS = 1 → s.guardArmed = false → s.imp.frozen = none →
    exec (.tofsWrite v) s = .next { s with imp := { s.imp with
      tofs := put s.imp.tofs (s.get IMPWIN.CELL - 1) (some (signed 16 v.toNat)) } }) ∧
  (∀ (s : State) (v : Word), s.pw.phase = .active → s.get IMPWIN.SEL.CLASS = 1 → s.guardArmed = true →
    exec (.tofsWrite v) s = .next (s.evt CFGGUARD.EVT.WLOCK)) ∧
  (∀ (s : State) (v : Word), s.pw.phase = .active → s.get IMPWIN.SEL.CLASS ≠ 1 → s.guardArmed = false →
    ∃ t, exec (.tofsWrite v) s = .next t ∧ t.imp = s.imp ∧ t.get ⟨0x14, 0x03, 0, 1⟩ = 1) ∧
  (∀ s : State, s.pw.phase = .active → s.get IMPWIN.SEL.CLASS = 0 → ∃ t, exec .impwinCursorAdvance s = .next t ∧
    (∀ a, a ≠ IMPWIN.CELL.addr → t.reg a = s.reg a) ∧ t.get IMPWIN.CELL =
      (nextIn ((List.range 36).filter (fun c => s.vbit IMP.CELLMAP0 c)) (s.get IMPWIN.CELL - 1) + 1) % 2 ^ IMPWIN.CELL.w) ∧
  (∀ (s : State), s.pw.phase = .active → s.get IMPWIN.SEL.CLASS ≠ 0 → s.count ≤ 36 →
    ∃ t, exec .impwinCursorAdvance s = .next t ∧ (∀ a, a ≠ IMPWIN.CELL.addr → t.reg a = s.reg a) ∧
      (1 ≤ s.get IMPWIN.CELL → s.get IMPWIN.CELL < s.count → t.get IMPWIN.CELL = s.get IMPWIN.CELL + 1) ∧
      (s.get IMPWIN.CELL = s.count → 0 < s.count → t.get IMPWIN.CELL = 1)) ∧
  (∀ s : State, s.pw.phase = .active → s.bit IMPWIN.SEL.FREEZE = false → ∃ t, exec (.impwinFreeze true) s = .next t ∧
    t.imp.frozen = some s.impLive ∧ t.imp.img = s.imp.img ∧ t.bit IMPWIN.SEL.FREEZE = true) ∧
  (∀ s : State, s.pw.phase = .active → ∃ t, exec (.impwinFreeze false) s = .next t ∧ t.imp.frozen = none ∧
    t.imp.img = s.imp.img ∧ t.bit IMPWIN.SEL.FREEZE = false)

/-- An integration begins at its lane's start and its results, once due, become the lane's newest with the next sequence
number, each cell's as R186 to R192 form it; a lane whose tone is out of range is not started and shows RANGE (R181); a
lane that waits starts again in a tread whose STN is a multiple of 1,024 (R182 to R184, R199). What the model chose
here: log 3, 66, 68. -/
def Obligations.ImpedanceIntegrations : Prop :=
  (∀ (s : State) (k : Fin 8), s.pw.phase = .active → s.startDue k.val = true → s.laneEn k.val = true →
    s.outOfRange k.val = false → ∃ t i, exec (.impIntegrationStart k) s = .next t ∧
      (look t.imp.lanes k.val).mode = .running ∧ (look t.imp.lanes k.val).cur = some i ∧ i.startStn = s.tm.stn ∧
      i.samples = [] ∧ i.n = s.laneN k.val ∧ t.imp.img = s.imp.img) ∧
  (∀ (s : State) (k : Fin 8) (i : Integ) (l : List Integ), s.pw.phase = .active → (look s.imp.lanes k.val).fin = i :: l →
    s.resultsDue i = true → ∃ t, exec (.impResults k) s = .next t ∧ (look t.imp.lanes k.val).fin = l ∧
      (look t.imp.lanes k.val).seq = ((look s.imp.lanes k.val).seq + 1) % 2 ^ 32 ∧
      look t.imp.img.seqs k.val = ((look s.imp.lanes k.val).seq + 1) % 2 ^ 32 ∧
      (∀ c, c ∈ i.cells → look t.imp.img.recs (k.val * 64 + c) = s.impCell i c)) ∧
  (∀ (s : State) (k : Fin 8) (t0 : Nat), s.pw.phase = .active → (look s.imp.lanes k.val).mode = .armed none t0 → t0 < s.tm.tread →
    s.laneEn k.val = true → s.outOfRange k.val = true → ∃ t, exec (.impIntegrationStart k) s = .next t ∧
      (look t.imp.lanes k.val).range = true ∧ (look t.imp.lanes k.val).mode = .armed none s.tm.tread ∧
      (look t.imp.lanes k.val).cur = (look s.imp.lanes k.val).cur ∧ t.imp.img = s.imp.img) ∧
  (∀ (s : State) (k : Fin 8), s.pw.phase = .active → (look s.imp.lanes k.val).fin = [] → exec (.impResults k) s = .next s) ∧
  (∀ (s : State) (k : Nat), s.pw.phase = .active → s.tm.stn % 1024 = 0 → s.bit CELLCFG.STATUS.FINEVALID = true → k < 8 →
    (look s.imp.lanes k).mode = .waiting → s.laneEn k = true → s.outOfRange k = false →
    ∃ t, exec .impResume s = .next t ∧ (look t.imp.lanes k).mode = .running)

/-- The allocation of a riser (R213, R217): with internal switches and NBR = 0 no two adjacent switches conduct in it,
with NBR = 1 no three consecutive ones do; in external-FET mode any set may: every cell that is owed risers and that
nothing holds off conducts. -/
def Obligations.NoForbiddenRun : Prop :=
  (∀ (s t : State) (r : Fin 16) (meas : List SwitchMeas) (n : Nat), s.pw.phase = .active → s.extFet = false →
    s.usedB BAL.CFG.NBR = false → exec (.balRiserAlloc r meas) s = .next t →
    look t.bal.on n ≠ 0 → look t.bal.on (n + 1) = 0) ∧
  (∀ (s t : State) (r : Fin 16) (meas : List SwitchMeas) (n : Nat), s.pw.phase = .active → s.extFet = false →
    s.usedB BAL.CFG.NBR = true → exec (.balRiserAlloc r meas) s = .next t →
    look t.bal.on n ≠ 0 → look t.bal.on (n + 1) ≠ 0 → look t.bal.on (n + 2) = 0) ∧
  (∀ (s : State) (r : Fin 16) (meas : List SwitchMeas), s.pw.phase = .active → s.extFet = true → s.balFirst ≤ r.val →
    (r.val = 15 → s.learnTread = false) → s.excRuns = false → s.diag.groups = none → s.diag.testing = [] → s.diag.verdict = [] →
    s.diag.fallback = [] → r.val ≠ 7 → r.val ≠ 10 → ∃ t, exec (.balRiserAlloc r meas) s = .next t ∧
      (∀ n ∈ s.switches, s.dutyRun n = true → 0 < look s.bal.owed n → look s.bal.given n = false → s.balHeld r.val n = false →
        look t.bal.on n = 1))

/-- The allocation of a riser takes place in every riser (R217): it records the riser and its readings and moves the tie
pointer on by one cell; before the balancing window no switch conducts (R220). In the window a cell that is owed risers
conducts and its service is counted, where it alone is owed any, nothing holds its switch off, no lane has excited it in
the tread and no excitation or learning takes place. What the model chose here: log 3. -/
def Obligations.RiserAllocated : Prop :=
  (∀ (s : State) (r : Fin 16) (meas : List SwitchMeas), s.pw.phase = .active → 0 < s.count →
    ∃ t, exec (.balRiserAlloc r meas) s = .next t ∧ t.bal.riser = r.val ∧ t.bal.meas = meas ∧
      t.bal.ptr = (s.bal.ptr + 1) % s.count ∧ t.cal = s.cal ∧ t.cells = s.cells) ∧
  (∀ (s : State) (r : Fin 16) (meas : List SwitchMeas) (n : Nat), s.pw.phase = .active → r.val < s.balFirst →
    ∃ t, exec (.balRiserAlloc r meas) s = .next t ∧ look t.bal.on n = 0) ∧
  (∀ (s : State) (r : Fin 16) (meas : List SwitchMeas) (n : Nat), s.pw.phase = .active → s.balFirst ≤ r.val →
    (r.val = 15 → s.learnTread = false) → s.excRuns = false → s.diag.groups = none → s.diag.testing = [] → s.diag.verdict = [] →
    s.diag.fallback = [] → r.val ≠ 7 → r.val ≠ 10 → n ∈ s.switches → s.dutyRun n = true → 0 < look s.bal.owed n → look s.bal.given n = false →
    (∀ m ∈ s.switches, m ≠ n → s.dutyRun m = false ∨ look s.bal.owed m = 0) → s.balHeld r.val n = false →
    s.extFet = true ∨ 0 < s.used { BAL.MAXON with w := 6 } → ∃ t, exec (.balRiserAlloc r meas) s = .next t ∧
      look t.bal.on n = 1 ∧ look t.bal.owed n = look s.bal.owed n - 1 ∧ look t.bal.served n = look s.bal.served n + 1 ∧
      (∀ m, m ≠ n → look t.bal.on m = 0))

/-- A write of a DUTY word (R218): its low ten bits are stored and come into use at the next tread; MODE 00 turns the
cell off, the stored mode of a running cell changes VALUE alone, any other sets the mode. A cell whose mode has come to
its end stops, is owed no more risers and reports it (R219); a switch that failed is reported, stopped and opened, with
fault 22 live (R225). Balancing's commands (R218, R225, R227 to R229): STOPALL and RETEST wait for the next tread;
RELEARN forgets every wire resistance; a full block of 1,024 edges is a tap's new or filtered wire resistance, or is
discarded with a WFAIL bit; an edge of the excitation's square wave that fits the running lane's phase (R194) is its
phase from then on and opens the switches that it turns off, any other edge does nothing. What the model chose here: log
3, 70. -/
def Obligations.BalanceCommands : Prop :=
  (∀ (s : State) (c : Cell) (v : Word), s.pw.phase = .active →
    ∃ t, exec (.dutyWrite c v) s = .next t ∧ t.get (dutyFld (c.val + 1) 0 10) = v.toNat % 1024 ∧
      t.get (dutyFld (c.val + 1) 10 6) = s.get (dutyFld (c.val + 1) 10 6) ∧
      (∀ f : Fld, f.addr = (dutyFld (c.val + 1) 0 16).addr → t.used f = s.used f) ∧
      (∀ a, a ≠ (dutyFld (c.val + 1) 0 16).addr → t.reg a = s.reg a) ∧
      look t.bal.pend (c.val + 1) = (if v.toNat / 256 % 4 = 0 then 2
        else if s.dutyRun (c.val + 1) = true ∧ v.toNat / 256 % 4 = s.get (dutyFld (c.val + 1) 8 2) then look s.bal.pend (c.val + 1)
        else 1)) ∧
  (∀ (s : State) (c : Cell), s.pw.phase = .active → s.stopDue (c.val + 1) = true →
    ∃ t, exec (.modeStop c) s = .next t ∧ t.bit (dutyFld (c.val + 1) 10 1) = false ∧ t.bit (dutyFld (c.val + 1) 11 1) = true ∧
      t.bit BAL.EVT.DONE = true ∧ t.get (dutyFld (c.val + 1) 0 10) = s.get (dutyFld (c.val + 1) 0 10) ∧
      (∀ a, a ≠ (dutyFld (c.val + 1) 0 16).addr → a ≠ BAL.EVT.DONE.addr → a ≠ BAL.STATUS.DERATING.addr → t.reg a = s.reg a) ∧
      t.bal = { s.bal with
        eff := put s.bal.eff (c.val + 1) 0, owed := put s.bal.owed (c.val + 1) 0,
        owedSum := s.bal.owedSum - look s.bal.owed (c.val + 1) }) ∧
  (∀ (s : State) (c : Cell) (k : SwitchFault), s.pw.phase = .active → s.swBad (c.val + 1) k = true →
    s.vbit BAL.SWFAIL0 c.val = false → ∃ t, exec (.switchFail c k) s = .next t ∧ t.vbit BAL.SWFAIL0 c.val = true ∧
      t.bit BAL.EVT.SWFAULT = true ∧ t.holds 22 = true ∧ t.bit (dutyFld (c.val + 1) 10 1) = false ∧ look t.bal.on (c.val + 1) = 0) ∧
  (∀ (s : State) (c : Cell) (k : SwitchFault), s.pw.phase = .active → s.vbit BAL.SWFAIL0 c.val = true →
    exec (.switchFail c k) s = .next s) ∧
  (∀ s : State, s.pw.phase = .active → exec .stopall s = .next { s with bal := { s.bal with stopReq := true } } ∧
    exec .balRetest s = .next { s with bal := { s.bal with retestReq := true } }) ∧
  (∀ s : State, s.pw.phase = .active → ∃ t, exec .relearn s = .next t ∧
    t.bal = { s.bal with rw := [], edge := [], edgePend := [] } ∧ t.bit BAL.STATUS.LEARNED = decide (s.count ≤ 1)) ∧
  (∀ (s : State) (tap : Tap) (r : Rat), s.pw.phase = .active → 1024 ≤ (look s.bal.edge tap.val).n →
    (look s.bal.edge tap.val).ii ≠ 0 → r = 100000 * (look s.bal.edge tap.val).vi / (look s.bal.edge tap.val).ii →
    ∃ t, exec (.learnBlock tap) s = .next t ∧ look t.bal.edge tap.val = { n := 0, vi := 0, ii := 0 } ∧
      (0 ≤ r → r ≤ ((s.used BAL.RWMAX : Nat) : Rat) → look s.bal.rw tap.val = none → look t.bal.rw tap.val = some r) ∧
      (∀ o, 0 ≤ r → r ≤ ((s.used BAL.RWMAX : Nat) : Rat) → look s.bal.rw tap.val = some o →
        look t.bal.rw tap.val = some (o + (r - o) / 4)) ∧
      (r < 0 ∨ ((s.used BAL.RWMAX : Nat) : Rat) < r → look t.bal.rw tap.val = look s.bal.rw tap.val ∧
        t.vbit BAL.WFAIL0 tap.val = true ∧ t.bit BAL.EVT.WFAULT = true)) ∧
  (∀ (s : State) (on : Bool) (clk : Fin 4096), s.pw.phase = .active → s.excRuns = true → s.tonePhase (s.absClk clk.val) = on →
    ∃ t, exec (.excitationSquareWaveEdge on clk) s = .next t ∧ t.bal.phase = on ∧ t.cells = s.cells ∧ t.tm = s.tm ∧
    (∀ n, n < 37 → look s.bal.on n = 2 → (if n % 2 = 1 then on else !on) = false → look t.bal.on n = 0)) ∧
  (∀ (s : State) (on : Bool) (clk : Fin 4096), s.pw.phase = .active → s.excRuns = false ∨ s.tonePhase (s.absClk clk.val) ≠ on →
    exec (.excitationSquareWaveEdge on clk) s = .next s)

/-- A pass of an auxiliary converter (R132 to R134, R486): the converter is powered in the tread before it is due; at
its master clock 0 the entries are latched and the first one runs; a pass still running then is an overrun, noted once;
an entry that waits for a quiet time runs from riser 0 of the next tread. What the model chose here: log 3, 58. -/
def Obligations.AuxPasses : Prop :=
  (∀ (s : State) (c : Conv), s.pw.phase = .active → s.passDue c (s.tm.tread + 1) = true → (s.conv c).passOn = false →
    exec (.auxPowerUp c) s = .next (s.setB (c.fld AUXA.STATUS.PWR) true)) ∧
  (∀ (s : State) (c : Conv) (w : Word), s.pw.phase = .active → s.passDue c s.tm.tread = true → (s.conv c).passOn = false →
    s.auxCal c = false → (s.conv c).urg = none → w = s.reg (c.fld AUXA.ENTRY0).addr → eEn w = true →
    s.passedOver w = false → ∃ t, exec (.auxPassStart c) s = .next t ∧
      (t.conv c).passOn = true ∧ (t.conv c).began = s.tm.tread * 4096 ∧ (t.conv c).todo.head? = some 0 ∧
      (t.conv c).entries = (List.range 16).map (fun i => s.reg ((c.fld AUXA.ENTRY0).plus i).addr) ∧
      (t.conv c).busy = true ∧ t.get (c.fld AUXA.STATUS.ENTRY) = 0 ∧ t.conv c.other = s.conv c.other) ∧
  (∀ (s : State) (c : Conv), s.pw.phase = .active → s.passDue c s.tm.tread = true → (s.conv c).passOn = true →
    (s.conv c).regrid = false → (s.conv c).late = false → exec (.auxPassStart c) s =
      .next ((s.setConv c { s.conv c with late := true }).evt (c.fld AUXA.EVT.OVERRUN))) ∧
  (∀ (s : State) (c : Conv), s.pw.phase = .active → s.passDue c s.tm.tread = false → exec (.auxPassStart c) s = .next s) ∧
  (∀ (s : State) (c : Conv) (i : Nat) (l : List Nat), s.pw.phase = .active → s.bit (c.fld AUXA.STATUS.QWAIT) = true →
    (s.conv c).urg = none → s.auxCal c = false → (s.conv c).passOn = true → (s.conv c).todo = i :: l → i < 16 →
    s.passedOver (s.itemWord (s.conv c) i) = false → ∃ t, exec (.quietEntryStart c) s = .next t ∧
      (t.conv c).busy = true ∧ (t.conv c).todo = i :: l ∧ t.bit (c.fld AUXA.STATUS.QWAIT) = false ∧
      t.get (c.fld AUXA.STATUS.ENTRY) = i)

/-- The end of a conversion of a pass (R126, R135, R137), on the modulator samples of its OSR: a cell or span entry's
result is stored in its pair, and the sequence goes on with the next entry; nothing happens where no conversion runs.
Urgent requests (R139, R140, R142): a host request on a converter that is on and runs no conversion starts at once with
the host's entry word, one on a converter that is off is rejected; its end stores the urgent result and frees the
converter. What the model chose here: log 3, 59, 141, 149 (an urgent conversion of a cell above COUNT gives 0). -/
def Obligations.AuxConversions : Prop :=
  (∀ (s : State) (c : Conv) (raw : List Int) (clk : Fin 4096) (i j : Nat) (l : List Nat) (w w' : Word), s.pw.phase = .active →
    (s.conv c).passOn = true → (s.conv c).todo = i :: j :: l → i < 16 → j < 16 → i ≠ j → (s.conv c).busy = true →
    (s.conv c).urg = none → (s.conv c).urgPend = none → s.aux.latch = [] → s.auxCal c = false → w = s.itemWord (s.conv c) i →
    eType w = 1 ∨ eType w = 2 → raw.length = auxOsr (eOsr w) → w' = s.itemWord (s.conv c) j → s.passedOver w' = false →
    eQuiet w' = false → s.diag.groups = none → s.diag.verdict = [] → s.diag.fallback = [] → ∃ t, exec (.auxConversionEnd c raw clk) s = .next t ∧
      t.get ((c.fld AUXA.RES0A).plus (2 * i)) = twos 16 (s.auxConvert c w (triMean raw)).v ∧
      t.get ((c.fld AUXA.RES0A).plus (2 * i + 1)) = auxWordB (s.auxConvert c w (triMean raw)) false (s.conv c).rsm s.tagNow ∧
      (t.conv c).todo = j :: l ∧
      (t.conv c).busy = true ∧ t.get (c.fld AUXA.STATUS.ENTRY) = j ∧ t.cells = s.cells) ∧
  (∀ (s : State) (c : Conv) (raw : List Int) (clk : Fin 4096), s.pw.phase = .active → (s.conv c).busy = false →
    exec (.auxConversionEnd c raw clk) s = .next s) ∧
  (∀ s : State, s.pw.phase = .active → s.auxCal .a = false → s.auxOn .a = true → (s.conv .a).urgPend = none →
    (s.conv .a).urg = none → (s.conv .a).busy = false → ∃ t, exec (.urgreq 0x0001#16) s = .next t ∧
      (t.conv .a).urg = some ⟨3, s.reg AUXCTL.URGA.addr, false⟩ ∧ (t.conv .a).todo = (s.conv .a).todo ∧ t.conv .b = s.conv .b) ∧
  (∀ s : State, s.pw.phase = .active → s.auxCal .a = false → s.auxOn .a = false →
    exec (.urgreq 0x0001#16) s = .next (s.evt AUXCTL.EVT.URGREJ)) ∧
  (∀ (s : State) (c : Conv) (raw : List Int) (clk : Fin 4096) (w : Word), s.pw.phase = .active →
    (s.conv c).urg = some ⟨3, w, false⟩ → (s.conv c).urgPend = none → (s.conv c).passOn = false → s.aux.latch = [] →
    s.diag.verdict = [] → s.diag.fallback = [] → eType w = 1 ∨ eType w = 2 → raw.length = auxOsr (eOsr w) →
    ∃ t, exec (.urgentConversionEnd c raw clk) s = .next t ∧ (t.conv c).urg = none ∧ (t.conv c).passOn = false ∧
      t.get (match c with | .a => AUXCTL.URGRESA0 | .b => AUXCTL.URGRESB0) =
        twos 16 (if s.passedOver w then 0 else (s.auxConvert c w (triMean raw)).v) ∧
      t.get (match c with | .a => AUXCTL.URGINFOA | .b => AUXCTL.URGINFOB) = 3 + 4 * (w.toNat % 256)) ∧
  (∀ (s : State) (c : Conv) (raw : List Int) (clk : Fin 4096), s.pw.phase = .active → (s.conv c).urg = none →
    exec (.urgentConversionEnd c raw clk) s = .next s)

/-- The comparisons of the two converters (R143 to R147) and a change of EN (R485): the shared comparison goes stale
after 4 windows without a pair, with fault 15; a round-robin result leaves the waiting list at its comparison, and one
whose fine results on either side are good is compared; a converter switched off forgets its pass and leaves the other
alone unless a confirmation has to go there (R139), where AUX-A, switched off beside AUX-B, in a sixteenth tread goes on
to a die-temperature conversion (R136), one switched on begins its first pass (R134), or, with OVERRUN, waits for the
end of its calibration. What the model chose here: log 58, 59. -/
def Obligations.AuxComparisons : Prop :=
  (∀ s : State, s.pw.phase = .active → 4 * s.used AUXCTL.SHCFG.WIN ≤ s.tm.tread - s.aux.shLast →
    ∃ t, exec .sharedStale s = .next t ∧ t.aux = { s.aux with shStale := true } ∧
      t.holds 15 = true ∧ t.bit AUXCTL.STATUS.SHLIVE = true ∧ t.cells = s.cells) ∧
  (∀ (s : State) (c : Conv) (w : XWait) (l : List XWait), s.pw.phase = .active → (s.conv c).waits = w :: l →
    w.at4 ≤ 4 * s.cells.fineAt → ∃ t, exec (.crossCompare c) s = .next t ∧ (t.conv c).waits = l ∧
      t.conv c.other = s.conv c.other ∧ t.cells = s.cells) ∧
  (∀ (s : State) (c : Conv) (w : XWait) (l : List XWait), s.pw.phase = .active → (s.conv c).waits = w :: l →
    s.bit CELLCFG.CTRL.FINEEN = true → w.at4 ≤ 4 * s.cells.fineAt → 4 * s.cells.prevAt ≤ w.at4 → s.cells.prevAt < s.cells.fineAt →
    w.bad = false → (look s.cells.chains w.cell).start ≤ w.centre →
    (∀ r ∈ [look s.cells.prev w.cell, look s.cells.fine w.cell], r.ovr = false ∧ r.nbr = false ∧ r.stale = false ∧ r.unc ≠ 15) →
    ∃ t, exec (.crossCompare c) s = .next t ∧ t.get AUXCTL.XCNT = min (s.get AUXCTL.XCNT + 1) 65535 ∧ (t.conv c).waits = l) ∧
  (∀ (s : State) (c : Conv), s.pw.phase = .active → s.auxOn c = true →
    (s.release (· == (c.fld AUXA.CTRL.EN).addr)).auxOn c = false → ∃ t, exec (.auxEnableChange c) s = .next t ∧
      t.auxOn c = false ∧ (t.conv c).passOn = false ∧ (t.conv c).base = none ∧
      (s.auxOn c.other = true ∨ s.tm.ltc % 16 ≠ 0 → (t.conv c).todo = [] ∧
        ((s.conv c).urgPend = none → s.aux.latch = [] → t.conv c.other = s.conv c.other))) ∧
  (∀ s : State, s.pw.phase = .active → s.auxOn .a = true → (s.release (· == ((Conv.a).fld AUXA.CTRL.EN).addr)).auxOn .a = false →
    s.auxOn .b = false → s.tm.ltc % 16 = 0 → s.auxCal .a = false → (s.conv .a).urgPend = none → s.aux.latch = [] →
    ∃ t, exec (.auxEnableChange .a) s = .next t ∧ t.auxOn .a = false ∧ (t.conv .a).passOn = false ∧ (t.conv .a).todo = [17] ∧
      t.conv .b = s.conv .b) ∧
  (∀ (s : State) (c : Conv), s.pw.phase = .active → s.auxOn c = false → s.auxCal c = true →
    (s.release (· == (c.fld AUXA.CTRL.EN).addr)).auxOn c = true → ∃ t, exec (.auxEnableChange c) s = .next t ∧
      t.auxOn c = true ∧ (t.conv c).late = true ∧ t.bit (c.fld AUXA.EVT.OVERRUN) = true) ∧
  (∀ (s : State) (c : Conv), s.pw.phase = .active → s.auxOn c = false → s.auxCal c = false →
    (s.release (· == (c.fld AUXA.CTRL.EN).addr)).auxOn c = true → ∃ t, exec (.auxEnableChange c) s = .next t ∧
      t.auxOn c = true ∧ (t.conv c).passOn = true ∧ (t.conv c).base = some s.tm.tread ∧ (t.conv c).began = s.tm.tread * 4096)

/-- A diagnostic tread begins with its two groups and is counted; no other tread is one (R233, R234); NOW calls two
treads, one for each pair of groups, where the diagnostics are on (R242). The three phases of a tap test (R235 to R237):
the reference riser begins the test of a tap that nothing disturbs and skips one that something does, once in a tread;
the sink riser keeps the two voltage changes; the source riser drives current in for its clocks. The taps of the span
fallback are noted for their conversions (R243). What the model chose here: log 3, 72, 143. -/
def Obligations.DiagnosticTests : Prop :=
  (∀ (s : State) (g : Nat × Nat), s.pw.phase = .active → s.diagGroups = some g → ∃ t, exec .diagTread s = .next t ∧
    t.diag.groups = some g ∧ t.bit DIAG.STATUS.DTREAD = true ∧ t.get DIAG.DTCNT = min (s.get DIAG.DTCNT + 1) 65535 ∧
    t.diag.testing = s.diag.testing ∧ t.bal = s.bal) ∧
  (∀ s : State, s.pw.phase = .active → s.diagGroups = none → exec .diagTread s = .next s) ∧
  (∀ s : State, s.pw.phase = .active → s.usedB DIAG.CFG.EN = true → s.diag.called = [] →
    exec .now s = .next { s with diag := { s.diag with called := [(s.tm.tread + 1, 0, 1), (s.tm.tread + 2, 2, 3)] } }) ∧
  (∀ s : State, s.pw.phase = .active → s.usedB DIAG.CFG.EN = false → exec .now s = .next s) ∧
  (∀ (s : State) (n : Tap) (m : TapMeas) (r0 : Nat), s.pw.phase = .active → s.tapRiser? n.val = some r0 →
    n.val ∉ s.diag.began → s.diagSkip n.val = false → ∃ t, exec (.tapTestPhase n .reference m) s = .next t ∧ n.val ∈ t.diag.testing ∧
      n.val ∈ t.diag.began ∧
      look t.diag.ref n.val = s.tapRef n.val m ∧ look t.diag.skipped n.val = false) ∧
  (∀ (s : State) (n : Tap) (m : TapMeas) (r0 : Nat), s.pw.phase = .active → s.tapRiser? n.val = some r0 →
    n.val ∉ s.diag.began → s.diagSkip n.val = true → ∃ t, exec (.tapTestPhase n .reference m) s = .next t ∧ n.val ∉ t.diag.testing ∧
      look t.diag.skipped n.val = true ∧ t.get DIAG.SKIPCNT = min (s.get DIAG.SKIPCNT + 1) 65535 ∧ t.bit DIAG.EVT.SKIP = true) ∧
  (∀ (s : State) (n : Tap) (m : TapMeas) (r0 : Nat), s.pw.phase = .active → s.tapRiser? n.val = some r0 →
    n.val ∈ s.diag.testing → ∃ t, exec (.tapTestPhase n .sink m) s = .next t ∧
      look t.diag.got n.val = some ((s.tapRef n.val m).vN - (look s.diag.ref n.val).vN,
        (s.tapRef n.val m).vN1 - (look s.diag.ref n.val).vN1) ∧ t.diag.testing = s.diag.testing) ∧
  (∀ (s : State) (n : Tap) (m : TapMeas) (r0 : Nat) (clks : Fin 257), s.pw.phase = .active → s.tapRiser? n.val = some r0 →
    n.val ∈ s.diag.testing → exec (.tapTestPhase n (.source clks) m) s = .next { s with diag := { s.diag with
      drive := adj s.diag.drive n.val (fun l => l ++ [TapDrive.mk (s.tm.tread * 4096 + 256 * (r0 + 2))
        (s.tm.tread * 4096 + 256 * (r0 + 2) + clks.val) false]) } }) ∧
  (∀ (s : State) (n : Tap) (m : TapMeas), s.pw.phase = .active → n.val ∈ s.diag.began →
    exec (.tapTestPhase n .reference m) s = .next s) ∧
  (∀ (s : State) (n : Tap) (m : TapMeas) (ph : TapPhase), s.pw.phase = .active → s.tapRiser? n.val = none →
    exec (.tapTestPhase n ph m) s = .next s) ∧
  (∀ s : State, s.pw.phase = .active → ∃ t, exec .spanFallback s = .next t ∧ t.diag.fallback = s.fallTaps ∧ t.cells = s.cells)

/-- What trips locks the device out and withdraws the permit, and with the permit the output switches that were
commanded on: the host's keyed trip, an expired host watchdog, a sentinel's trip and a readback failure (R260, R273,
R274, R290, R293, R294). What the model chose here: log 79. -/
def Obligations.TripsOpenTheOutput : Prop :=
  (∀ s : State, s.pw.phase = .active → ∃ t, exec (.safeTrip 0xA5#8) s = .next t ∧ t.locked = true ∧
    t.bit BAN.STATUS.PERMIT = false ∧ t.safe.hostAt = some s.tm.tread ∧
    (s.bit BAN.STATUS.PERMIT = true → t.bit BAN.STATUS.HSCMD = false ∧ t.bit BAN.STATUS.LSCMD = false)) ∧
  (∀ s : State, s.pw.phase = .active → s.safe.wd = some 0 → s.safe.wdOut = false →
    ∃ t, exec .hostWatchdogExpire s = .next t ∧ t.locked = true ∧ t.bit BAN.STATUS.PERMIT = false ∧ t.holds 6 = true ∧
    t.safe.wdOut = true ∧ t.bit SAFE.EVT.WDEXP = true ∧
    (s.bit BAN.STATUS.PERMIT = true → t.bit BAN.STATUS.HSCMD = false ∧ t.bit BAN.STATUS.LSCMD = false)) ∧
  (∀ (s : State) (x : Sentinel), s.pw.phase = .active → s.senActs x = true → look s.safe.asserted (senNo x) = true →
    look s.safe.tripped (senNo x) = false → ∃ t, exec (.sentinelTrip x) s = .next t ∧ t.locked = true ∧
    t.bit BAN.STATUS.PERMIT = false ∧ look t.safe.tripped (senNo x) = true ∧
    t.holds (match x with | .ov _ => 0 | .uv _ => 1 | .oc => 3 | .die => 4) = true ∧
    (s.bit BAN.STATUS.PERMIT = true → t.bit BAN.STATUS.HSCMD = false ∧ t.bit BAN.STATUS.LSCMD = false)) ∧
  (∀ s : State, s.pw.phase = .active → s.bit BAN.ROLE.USED = true → s.bit BAN.STATUS.OVSOK = true →
    ∃ t, exec .readbackFailure s = .next t ∧ t.locked = true ∧ t.bit BAN.STATUS.PERMIT = false ∧ t.holds 10 = true ∧
    t.bit BAN.STATUS.HSCMD = false ∧ t.bit BAN.STATUS.LSCMD = false ∧ t.ban.test = .none)

/-- The safety block's keyed words with a wrong key change nothing but KEYREJ (R258, R280). A commit of tighter limits
waits for the next tread, one that fails its checks is refused and changes none (R257, R258); RETEST ends the failures
of the sentinel test (R271). A sentinel's comparator is followed while the sentinels are armed, and the release of a
tripped one ends the trip but not the lock-out (R256, R261, R274); KICK reloads the host watchdog (R267). What the model
chose here: log 3, 130. -/
def Obligations.SafetyCommands : Prop :=
  (∀ (s : State) (key : Byte), s.pw.phase = .active → key ≠ 0xA5#8 → exec (.safeTrip key) s = .next (s.evt SAFE.EVT.KEYREJ) ∧
    exec (.safeRetest key) s = .next (s.evt SAFE.EVT.KEYREJ)) ∧
  (∀ (s : State) (v : Word), s.pw.phase = .active → v ≠ 0xC35A#16 → exec (.tcommit v) s = .next (s.evt SAFE.EVT.KEYREJ)) ∧
  (∀ s : State, s.pw.phase = .active → ∃ t, exec (.safeRetest 0xA5#8) s = .next t ∧ t.safe = { s.safe with senOut := [] } ∧
    (∀ i, i < 36 → t.vbit SAFE.SENFAIL0 i = false)) ∧
  (∀ s : State, s.pw.phase = .active → s.tightResult.1 = true → ∃ t, exec (.tcommit 0xC35A#16) s = .next t ∧
    t.safe = { s.safe with commit := some s.candWords } ∧ t.reg SAFE.TRESULT.word.addr = BitVec.ofNat 16 s.tightResult.2 ∧
    t.bit SAFE.EVT.TACC = true ∧ t.limWords = s.limWords) ∧
  (∀ s : State, s.pw.phase = .active → s.tightResult.1 = false → ∃ t, exec (.tcommit 0xC35A#16) s = .next t ∧
    t.safe = s.safe ∧ t.candWords = s.limWords ∧ t.limWords = s.limWords ∧ t.bit SAFE.EVT.TREJ = true) ∧
  (∀ (s : State) (x : Sentinel) (on : Bool), s.pw.phase = .active → s.senActs x = true → exec (.sentinelAssert x on) s =
    .next { s with safe := { s.safe with asserted := put s.safe.asserted (senNo x) on } }) ∧
  (∀ (s : State) (x : Sentinel) (on : Bool), s.pw.phase = .active → s.senActs x = false →
    exec (.sentinelAssert x on) s = .next s) ∧
  (∀ (s : State) (x : Sentinel), s.pw.phase = .active → look s.safe.tripped (senNo x) = true →
    ∃ t, exec (.sentinelRelease x) s = .next t ∧ look t.safe.tripped (senNo x) = false ∧
      look t.safe.asserted (senNo x) = false ∧ t.locked = s.locked ∧ t.bit BAN.STATUS.PERMIT = s.bit BAN.STATUS.PERMIT ∧
      (∀ k, k ≠ senNo x → look t.safe.tripped k = look s.safe.tripped k)) ∧
  (∀ s : State, s.pw.phase = .active → ∃ t, exec .kick s = .next t ∧ t.safe.wdOut = false ∧
    t.safe.wd = (if s.get SAFE.HOSTWD = 0 then none else some (s.get SAFE.HOSTWD + 1)) ∧ t.locked = s.locked)

/-- From tread 1 on the safety processor's evaluation takes over what it reports of its ROM, RAM and flow (R266), where
RAM stays bad; a sentinel self-test item counts its consecutive failures, one pass ends them, and an item that has
failed once is tested again first (R270, R271). Tread 0 of a start has no evaluation (R59). What the model chose here:
log 80. -/
def Obligations.SafetyChecks : Prop :=
  (∀ (s : State) (p : ProcState), s.pw.phase = .active → s.safe.armed = true → 0 < s.tm.tread → ∃ t, exec (.safetyEvaluation p) s = .next t ∧
    t.safe.romBad = !p.romOk ∧ t.safe.ramBad = (s.safe.ramBad || !p.ramOk) ∧ t.safe.flowBad = !p.flowOk ∧ t.safe.evald = true ∧ t.cells = s.cells) ∧
  (∀ (s : State) (p : ProcState), s.pw.phase = .active → s.tm.tread = 0 → exec (.safetyEvaluation p) s = .next s) ∧
  (∀ (s : State) (r : SenTest), s.pw.phase = .active → s.safe.armed = true → s.safe.senAgain = [] → s.tm.ltc % 40 < 38 →
    s.senSkip (s.tm.ltc % 40) = false → look s.safe.senOut (s.tm.ltc % 40) = false →
    ∃ t, exec (.sentinelSelfTest r) s = .next t ∧ look t.safe.senMiss (s.tm.ltc % 40) =
      (if r.p1 && r.p2 && r.p3 then 0 else look s.safe.senMiss (s.tm.ltc % 40) + 1) ∧
      t.safe.senAgain = (if (r.p1 && r.p2 && r.p3) = false ∧ look s.safe.senMiss (s.tm.ltc % 40) = 0 then [s.tm.ltc % 40] else [])) ∧
  (∀ (s : State) (r : SenTest) (i : Nat) (l : List Nat), s.pw.phase = .active → s.safe.armed = true → s.safe.senAgain = i :: l →
    i < 38 → s.senSkip i = false → ∃ t, exec (.sentinelSelfTest r) s = .next t ∧
      look t.safe.senMiss i = (if r.p1 && r.p2 && r.p3 then 0 else look s.safe.senMiss i + 1) ∧
      t.safe.senAgain = (if (r.p1 && r.p2 && r.p3) = false ∧ look s.safe.senMiss i = 0 then l ++ [i] else l))

/-- Heartbeats (R285, R286, R288): the first edge after a loss makes the heartbeat present; an edge 3 to 5 µs after the
last one is accepted with its period in 0.1 µs, and where the device repeats the heartbeat it is repeated; 16 µs without
one is a loss, which locks out a device that is no head. Acknowledge bursts (R287, R289, R290): every accepted edge is
repeated; the first edge opens a burst, 64 µs without an edge end it; one of less than 200 ms is short and rejected, one
of 200 ms to 3 s after the quiet time is valid; a burst held for 3 s brings fault 9, which 1 s of quiet ends. What the
model chose here: log 3, 78, 144. -/
def Obligations.BanisterEdges : Prop :=
  (∀ (s : State) (e : Nat), s.pw.phase = .active → s.bit BAN.STATUS.HBPRES = false → ∃ t, exec (.heartbeatEdge e) s = .next t ∧
    t.bit BAN.STATUS.HBPRES = true ∧ t.ban.hbLast = e ∧ t.ban.hbN = 1) ∧
  (∀ (s : State) (e : Nat), s.pw.phase = .active → s.bit BAN.STATUS.HBPRES = true → s.ban.hbLast + 3000 ≤ e →
    e ≤ s.ban.hbLast + 5000 → ∃ t, exec (.heartbeatEdge e) s = .next t ∧ t.bit BAN.STATUS.HBPRES = true ∧
    t.get BAN.HBPER = (e - s.ban.hbLast) / 100 ∧ t.ban.hbLast = e ∧ t.ban.hbN = s.ban.hbN + 1 ∧
    (t.ban.down = .repeating → t.ban.downEdge = some e) ∧ (7 ≤ s.ban.hbN → t.bit BAN.STATUS.HBSTABLE = true)) ∧
  (∀ (s : State) (e : Nat), s.pw.phase = .active → s.bit BAN.STATUS.HBPRES = true → s.ban.hbLast + 16000 ≤ e →
    ∃ t, exec (.heartbeatLoss e) s = .next t ∧ t.bit BAN.STATUS.HBPRES = false ∧ t.bit BAN.STATUS.HBSTABLE = false ∧
    t.ban.hbN = 0 ∧ t.get BAN.HBLOSSCNT = min (s.get BAN.HBLOSSCNT + 1) 65535 ∧ (s.isHead = false → s.safe.armed = true → s.holds 7 = false → t.locked = true ∧ t.holds 7 = true) ∧
    (s.isHead = false → t.bit BAN.STATUS.PERMIT = false)) ∧
  (∀ (s : State) (e : Nat), s.pw.phase = .active → e < s.ban.hbLast + 16000 → exec (.heartbeatLoss e) s = .next s) ∧
  (∀ (s : State) (e : Nat), s.pw.phase = .active → s.ban.ackFirst = none → ∃ t, exec (.ackEdge e) s = .next t ∧
    t.ban.ackFirst = some e ∧ t.ban.ackLast = e ∧ t.ban.upEdge = some e ∧ t.ban.ackUnquiet = decide (s.quietNs e < 1000000000) ∧
    t.safe = s.safe ∧ t.bit BAN.STATUS.PERMIT = s.bit BAN.STATUS.PERMIT) ∧
  (∀ (s : State) (e f : Nat), s.pw.phase = .active → s.ban.ackFirst = some f → s.ban.ackLast + 12000 ≤ e →
    e ≤ s.ban.ackLast + 20000 → exec (.ackEdge e) s = .next { s with ban := { s.ban with ackLast := e, upEdge := some e } }) ∧
  (∀ (s : State) (e f : Nat), s.pw.phase = .active → s.ban.ackFirst = some f → s.ban.ackHeld = false →
    s.ban.ackLast + 64000 ≤ e → s.ban.ackLast + 64000 < f + 200000000 → ∃ t, exec (.ackBurstEnd e) s = .next t ∧
    t.ban.ackFirst = none ∧ t.ban.quietFrom = s.ban.ackLast + 64000 ∧ t.bit BAN.EVT.ACKSHORT = true ∧
    t.get BAN.ACKREJCNT = min (s.get BAN.ACKREJCNT + 1) 65535 ∧ t.safe = s.safe ∧ t.locked = s.locked) ∧
  (∀ (s : State) (e f : Nat), s.pw.phase = .active → s.ban.ackFirst = some f → s.ban.ackHeld = false → s.ban.ackUnquiet = false →
    s.ban.ackLast + 64000 ≤ e → f + 200000000 ≤ s.ban.ackLast + 64000 → s.ban.ackLast + 64000 < f + 3000000000 →
    ∃ t, exec (.ackBurstEnd e) s = .next t ∧ t.ban.ackFirst = none ∧ t.bit BAN.EVT.ACKVALID = true ∧
    t.get BAN.ACKVCNT = min (s.get BAN.ACKVCNT + 1) 65535 ∧ (s.locked = false → t.safe = s.safe)) ∧
  (∀ (s : State) (e f : Nat), s.pw.phase = .active → s.ban.ackFirst = some f → s.ban.ackHeld = false → f + 3000000000 ≤ e →
    ∃ t, exec (.ackHeld e) s = .next t ∧ t.ban = { s.ban with ackHeld := true } ∧ t.holds 9 = true ∧
    t.bit BAN.STATUS.HELDLIVE = true ∧ t.bit BAN.EVT.ACKHELD = true) ∧
  (∀ (s : State) (e : Nat), s.pw.phase = .active → s.ban.ackFirst = none → 1000000000 ≤ s.quietNs e →
    ∃ t, exec (.ackQuiet e) s = .next t ∧ t.holds 9 = false ∧ t.bit BAN.STATUS.HELDLIVE = false ∧ t.ban = s.ban)

/-- The output-stage supply (R293): above 17 V the stage is in use; below 16 V the checks end, and each fall of a stage
in use is reported; between them only the reading changes. The off-pulse test (R295 to R297): in its tread a ready stage
opens one switch, in mode 01 the one that NEXTSW shows; PASS records the fall time, counts the test and keeps the switch
open until it is commanded closed again, which energises the output anew; a failed pulse locks the device out with fault
10. The end of a test (R295, R297, R300): a switch that closed again ends it, in mode 01 for the other switch the next
time; one that did not locks out; the stage check without the permit, in modes 00 and 01, closes and opens the switches
in its three phases and passes; in mode 10 one phase, with the output open, is the whole check; a phase whose readback
is wrong locks the device out with fault 10; without its conditions none runs. What the model chose here: log 3, 81. -/
def Obligations.OutputTests : Prop :=
  (∀ (s : State) (mV : Nat), s.pw.phase = .active → 17000 < mV → ∃ t, exec (.ovsChange mV) s = .next t ∧
    t.bit BAN.STATUS.OVSOK = true ∧ t.bit BAN.ROLE.USED = true ∧ t.get BAN.VOVS = min (mV / 10) 65535) ∧
  (∀ (s : State) (mV : Nat), s.pw.phase = .active → mV < 16000 → ∃ t, exec (.ovsChange mV) s = .next t ∧
    t.bit BAN.STATUS.OVSOK = false ∧ t.bit BAN.ROLE.USED = s.bit BAN.ROLE.USED ∧ t.get BAN.VOVS = mV / 10 ∧
    (s.bit BAN.ROLE.USED = true → 1600 ≤ s.get BAN.VOVS → t.bit BAN.EVT.OVSLOW = true)) ∧
  (∀ (s : State) (mV : Nat), s.pw.phase = .active → 16000 ≤ mV → mV ≤ 17000 →
    exec (.ovsChange mV) s = .next (s.set BAN.VOVS (min (mV / 10) 65535))) ∧
  (∀ (s : State) (c0 : Nat) (sw : Bool), s.pw.phase = .active → s.testTread = true → s.bit BAN.ROLE.USED = true →
    (s.get BAN.ROLE.MODE = 1 ∧ sw = s.bit BAN.STATUS.NEXTSW) ∨ (s.get BAN.ROLE.MODE = 2 ∧ sw = false) →
    s.bit BAN.STATUS.PERMIT = true → s.bit BAN.STATUS.OVSOK = true → s.ban.closedAt = some c0 →
    c0 + 1000000 ≤ s.nowNs + 750000 → ∃ t, exec .offPulseStart s = .next t ∧ t.ban = { s.ban with test := .opening sw } ∧
    t.bit BAN.STATUS.HSCMD = (if sw then s.bit BAN.STATUS.HSCMD else false) ∧
    t.bit BAN.STATUS.LSCMD = (if sw then false else s.bit BAN.STATUS.LSCMD) ∧ t.get2 BAN.TESTSTN0 = s.tm.stn % 2 ^ 32) ∧
  (∀ s : State, s.pw.phase = .active → s.testTread = false → exec .offPulseStart s = .next s) ∧
  (∀ (s : State) (sw : Bool) (fall : Fin 101), s.pw.phase = .active → s.ban.test = .opening sw →
    ∃ t, exec (.offPulsePass fall) s = .next t ∧ t.ban = { s.ban with test := .passed sw } ∧ t.bit BAN.TESTRES.PASS = true ∧
    t.get BAN.TESTRES.FALL = fall.val ∧ t.get BAN.TESTCNT = min (s.get BAN.TESTCNT + 1) 65535 ∧
    t.get BAN.FALLMAX = max (s.get BAN.FALLMAX) fall.val) ∧
  (∀ (s : State) (sw : Bool), s.pw.phase = .active → s.ban.test = .opening sw → ∃ t, exec .offPulseFail s = .next t ∧
    t.locked = true ∧ t.holds 10 = true ∧ t.ban.test = .none ∧ t.bit BAN.STATUS.HSCMD = false ∧ t.bit BAN.STATUS.LSCMD = false ∧
    (s.get BAN.ROLE.MODE = 1 → t.bit BAN.STATUS.NEXTSW = !s.bit BAN.STATUS.NEXTSW)) ∧
  (∀ (s : State) (sw : Bool), s.pw.phase = .active → s.ban.test = .passed sw → exec .offPulseReclose s =
    .next (({ s with ban := { s.ban with test := .reclosing sw, closedAt := some (s.nowNs + 900000) } }).setB (if sw then BAN.STATUS.LSCMD else BAN.STATUS.HSCMD) true)) ∧
  (∀ (s : State) (sw : Bool), s.pw.phase = .active → s.ban.test = .reclosing sw → s.get BAN.ROLE.MODE = 1 →
    ∃ t, exec (.recloseCheckEnd true) s = .next t ∧ t.ban = { s.ban with test := .none } ∧
    t.bit BAN.STATUS.NEXTSW = !s.bit BAN.STATUS.NEXTSW) ∧
  (∀ (s : State) (sw : Bool), s.pw.phase = .active → s.ban.test = .reclosing sw → ∃ t, exec (.recloseCheckEnd false) s = .next t ∧
    t.locked = true ∧ t.ban.test = .none ∧ t.bit BAN.STATUS.HSCMD = false) ∧
  (∀ (s : State), s.pw.phase = .active → s.testTread = true → s.stageMay = true → s.bit BAN.STATUS.PERMIT = false →
    s.get BAN.ROLE.MODE ≤ 1 → ∃ t, exec (.stageCheckPhase 0 true) s = .next t ∧ t.ban = { s.ban with test := .check } ∧
    t.bit BAN.STATUS.HSCMD = true) ∧
  (∀ (s : State), s.pw.phase = .active → s.testTread = true → s.stageMay = true → s.bit BAN.STATUS.PERMIT = false →
    s.get BAN.ROLE.MODE ≤ 1 → s.ban.test = .check → ∃ t, exec (.stageCheckPhase 1 true) s = .next t ∧ t.ban = s.ban ∧
    t.bit BAN.STATUS.HSCMD = false ∧ t.bit BAN.STATUS.LSCMD = true) ∧
  (∀ (s : State) (ok : Bool), s.pw.phase = .active → s.testTread = true → s.stageMay = true →
    s.bit BAN.STATUS.PERMIT = false → s.get BAN.ROLE.MODE ≤ 1 → s.ban.test = .check →
    ∃ t, exec (.stageCheckPhase 2 ok) s = .next t ∧ t.ban.test = .none ∧ t.bit BAN.STATUS.HSCMD = false ∧
    t.bit BAN.STATUS.LSCMD = false ∧ t.holds 10 = false ∧ t.bit BAN.TESTRES.PASS = true) ∧
  (∀ (s : State) (ph : Fin 3), s.pw.phase = .active → s.testTread = true → s.stageMay = true → s.bit BAN.STATUS.PERMIT = false →
    s.get BAN.ROLE.MODE ≠ 3 → ph.val = 0 ∨ (ph.val = 1 ∧ s.ban.test = .check) → ∃ t, exec (.stageCheckPhase ph false) s = .next t ∧
    t.locked = true ∧ t.ban.test = .none ∧ t.holds 10 = true ∧ t.bit BAN.STATUS.HSCMD = false ∧ t.bit BAN.STATUS.LSCMD = false ∧
    t.bit BAN.TESTRES.FAIL = true ∧ t.bit BAN.STATUS.PERMIT = false) ∧
  (∀ s : State, s.pw.phase = .active → s.testTread = true → s.stageMay = true → s.bit BAN.STATUS.PERMIT = false → s.get BAN.ROLE.MODE = 2 →
    ∃ t, exec (.stageCheckPhase 0 true) s = .next t ∧ t.ban = { s.ban with test := .none } ∧ t.bit BAN.STATUS.HSCMD = false ∧
    t.bit BAN.STATUS.LSCMD = s.bit BAN.STATUS.LSCMD ∧ t.holds 10 = false ∧ t.bit BAN.TESTRES.PASS = true) ∧
  (∀ (s : State) (ph : Fin 3) (ok : Bool), s.pw.phase = .active → s.testTread = false ∨ s.stageMay = false ∨ s.bit BAN.STATUS.PERMIT = true ∨
    s.get BAN.ROLE.MODE = 3 ∨ (ph.val ≠ 0 ∧ s.ban.test ≠ .check) → exec (.stageCheckPhase ph ok) s = .next s)

/-- The collector (R302, R303, R307): a collection makes sticky every source that occurred in its interval and live
every one whose condition holds or whose event occurred; FIRST takes the lowest newly set source where no sticky bit was
1; tread 0 has no collection. Clears and classes (R304, R305): a one clears its sticky bit unless the live bit is 1,
when CLRREJ and CLRREJIDX say so; CLRALL clears the same way without report; a class write stores the classes of sources
12 to 62 and no other, and in lock-out has no effect where it lowers one. What the model chose here: log 3, 82. -/
def Obligations.FaultCollector : Prop :=
  (∀ s : State, s.pw.phase = .active → 1 ≤ s.tm.tread → ∃ t, exec .faultCollection s = .next t ∧
    t.vec FAULT.STICKY0 = (s.vec FAULT.STICKY0 ||| no63 s.occurred.toNat) ∧
    t.vec FAULT.LIVE0 = no63 (s.condNow ||| s.evented).toNat ∧ t.evented = 0 ∧
    (s.vec FAULT.STICKY0 = 0 → ∀ i, lowest (no63 s.occurred.toNat) = some i → t.get FAULT.FIRST = 64 + i ∧ t.bit FAULT.EVT.NEW = true) ∧
    (s.vec FAULT.STICKY0 ≠ 0 → t.get FAULT.FIRST = s.get FAULT.FIRST)) ∧
  (∀ s : State, s.pw.phase = .active → s.tm.tread = 0 → exec .faultCollection s = .next s) ∧
  (∀ (s : State) (e : Nat), s.pw.phase = .active → s.col.pulseEnd = some e → e ≤ s.tm.ltc → ∃ t, exec .errPulseEnd s = .next t ∧
    t.col = { s.col with pulseEnd := none } ∧ t.bit FAULT.STATUS.PULSE = false ∧
    t.bit FAULT.STATUS.ERRLOW = s.bit FAULT.ERRCTL.SWLEVEL ∧ t.vec FAULT.STICKY0 = s.vec FAULT.STICKY0) ∧
  (∀ (s : State) (e : Nat), s.pw.phase = .active → s.col.pulseEnd = some e → s.tm.ltc < e → exec .errPulseEnd s = .next s) ∧
  (∀ (s : State) (w : Fin 4) (v : Word), s.pw.phase = .active → ∃ t, exec (.stickyClear w v) s = .next t ∧
    t.vec FAULT.LIVE0 = s.vec FAULT.LIVE0 ∧
    (∀ i < 64, (t.vec FAULT.STICKY0).testBit i = ((s.vec FAULT.STICKY0).testBit i &&
      !(decide (i ≠ 63 ∧ i / 16 = w.val) && v.getLsbD (i % 16) && !(s.vec FAULT.LIVE0).testBit i))) ∧
    (∀ i, lowest (no63 (v.toNat * 2 ^ (16 * w.val)) &&& s.vec FAULT.LIVE0 &&& s.vec FAULT.STICKY0) = some i →
      t.bit FAULT.EVT.CLRREJ = true ∧ t.get FAULT.CLRREJIDX = 64 + i)) ∧
  (∀ s : State, s.pw.phase = .active → ∃ t, exec .clrall s = .next t ∧ t.vec FAULT.LIVE0 = s.vec FAULT.LIVE0 ∧
    t.bit FAULT.EVT.CLRREJ = s.bit FAULT.EVT.CLRREJ ∧ t.get FAULT.CLRREJIDX = s.get FAULT.CLRREJIDX ∧
    (∀ i < 63, (t.vec FAULT.STICKY0).testBit i = ((s.vec FAULT.STICKY0).testBit i && (s.vec FAULT.LIVE0).testBit i))) ∧
  (∀ (s : State) (w : Fin 8) (v : Word), s.pw.phase = .active → s.guardArmed = false → s.locked = false → ∃ t, exec (.classWrite w v) s = .next t ∧
    (∀ i, 12 ≤ i → i ≤ 62 → i / 8 = w.val → t.get (classFld i) = fieldOf v (i % 8 * 2) 2) ∧
    (∀ i < 12, t.get (classFld i) = s.get (classFld i)) ∧ (∀ a, a ≠ (FAULT.CLASS0.plus w.val).addr → t.reg a = s.reg a)) ∧
  (∀ (s : State) (w : Fin 8) (v : Word), s.pw.phase = .active → s.guardArmed = false → s.locked = true → s.lowersClass w.val v = true →
    exec (.classWrite w v) s = .next (s.evt FAULT.EVT.CFGREJ))

/-- The training states of a port (R328, R330, R332): listening, it changes its rate at the end of each of its 1 ms and
answers a training set by entering T0 at its rate; the other side's sets found, it sweeps the eye, in a full training at
every rate from the lowest code on and then goes on at the rate of the sets; a training after a link-down that finds
none goes back to listening, and so does one in reply to training sets that have stopped, unless it stands beside a port
that is up. Hop delays (R331): each probe is answered and the next one sent, an echo counts for a probe of the port's
own that none has echoed; after 128 of each the delay is their mean; both sides' values within 8 units bring the link
up, a second port beside the first at its rate included, else T2 is repeated three times and then training starts over.
What the model chose here: log 3, 12 (halves), 84, 85, 86. -/
def Obligations.LinkTraining : Prop :=
  (∀ (s : State) (p : Port), s.pw.phase = .active → exec (.listenRateCycle p) s =
    .next (if s.pState p = 1 then s.set (pstat p LINK.UPSTAT.RATE) ((s.pRateOf p + 1) % 3) else s)) ∧
  (∀ (s : State) (p : Port) (f : Byte), s.pw.phase = .active → s.pState p = 1 → f.toNat % 4 < 3 →
    ∃ t, exec (.ts1Rx p f true) s = .next t ∧ t.pState p = 2 ∧ t.pRateOf p = f.toNat % 4 ∧ (t.port p).fromUp = false ∧
    t.bit (pstat p LINK.UPSTAT.LOS) = false ∧ (t.port p).full = ((s.port p).full || f.getLsbD 3) ∧ t.pState p.other = s.pState p.other) ∧
  (∀ (s : State) (p : Port) (f : Byte), s.pw.phase = .active → exec (.ts1Rx p f false) s = .next s) ∧
  (∀ (s : State) (p : Port), s.pw.phase = .active → s.pState p = 2 →
    ∃ t, exec (.trainingDetectDone p) s = .next t ∧ t.pState p = 3 ∧ (t.port p).base = s.pRateOf p ∧ (t.port p).sweep = 0 ∧
    t.pRateOf p = (if (s.port p).full then 0 else s.pRateOf p) ∧ t.pState p.other = s.pState p.other) ∧
  (∀ (s : State) (p : Port), s.pw.phase = .active → s.pState p = 2 → (s.port p).fromUp = true →
    ∃ t, exec (.trainingDetectTimeout p) s = .next t ∧ t.pState p = 1 ∧ t.pRateOf p = 0 ∧ t.link = s.link) ∧
  (∀ (s : State) (p : Port), s.pw.phase = .active → s.pState p ≠ 2 ∨ ((s.port p).fromUp = false ∧ s.linkUp p.other = true) →
    exec (.trainingDetectTimeout p) s = .next s) ∧
  (∀ (s : State) (p : Port) (pos : List Bool), s.pw.phase = .active → pos.length = 64 → s.pState p = 3 → (s.port p).full = false →
    ∃ t, exec (.eyeSweepDone p pos) s = .next t ∧ t.pState p = 4 ∧ (t.port p).echoes = 0 ∧ (t.port p).probes = 0 ∧
    t.get (HEALTH.EYEURX.plus p.no) = (eyeWidth pos + 64 * s.pRateOf p + 256) % 65536 ∧
    (s.linkUp p.other = false → (s.port p).base = s.pRateOf p → look t.link.eyeNow p.no = some (eyeWidth pos))) ∧
  (∀ (s : State) (p : Port) (pos : List Bool), s.pw.phase = .active → pos.length = 64 → s.pState p = 3 → (s.port p).full = true →
    (s.port p).sweep < 2 → ∃ t, exec (.eyeSweepDone p pos) s = .next t ∧ t.pState p = 3 ∧
    (t.port p).sweep = (s.port p).sweep + 1 ∧ t.pRateOf p = (s.port p).sweep + 1 ∧
    look t.link.eyeFull (4 * s.pRateOf p + p.no) = some (eyeWidth pos)) ∧
  (∀ (s : State) (p : Port) (pos : List Bool), s.pw.phase = .active → pos.length = 64 → s.pState p = 3 → (s.port p).full = true →
    2 ≤ (s.port p).sweep → ∃ t, exec (.eyeSweepDone p pos) s = .next t ∧ t.pState p = 4 ∧ t.pRateOf p = (s.port p).base % 4 ∧
    look t.link.eyeFull (4 * s.pRateOf p + p.no) = some (eyeWidth pos)) ∧
  (∀ (s : State) (p : Port) (id : Byte) (res : Fin 1280), s.pw.phase = .active → s.phaseOf p = 4 →
    exec (.prbRx p id res) s = .next (s.setPort p { s.port p with
      probes := min ((s.port p).probes + 1) 128, ech := some (id.toNat, res.val), prbNext := ((s.port p).prbNext + 1) % 256,
      prbOpen := (s.port p).prbNext :: (s.port p).prbOpen.erase (s.port p).prbNext })) ∧
  (∀ (s : State) (p : Port) (id : Byte) (res : Fin 1280) (rt : Nat), s.pw.phase = .active → s.phaseOf p = 4 → (s.port p).echoes < 128 →
    id.toNat ∈ (s.port p).prbOpen → exec (.echRx p id res rt) s = .next (s.setPort p { s.port p with
      echoes := (s.port p).echoes + 1, dSum := (s.port p).dSum + ((rt : Int) - 81920 - (res.val : Int)),
      prbOpen := (s.port p).prbOpen.erase id.toNat })) ∧
  (∀ (s : State) (p : Port) (id : Byte) (res : Fin 1280) (rt : Nat), s.pw.phase = .active → id.toNat ∉ (s.port p).prbOpen →
    exec (.echRx p id res rt) s = .next s) ∧
  (∀ (s : State) (p : Port), s.pw.phase = .active → s.pState p = 4 → 128 ≤ (s.port p).echoes → 128 ≤ (s.port p).probes →
    ∃ t, exec (.hopDelayDone p) s = .next t ∧ t.pState p = 5 ∧ t.hopD p = twos 32 (roundRat ((s.port p).dSum / 256)) ∧ t.link = s.link) ∧
  (∀ (s : State) (p : Port), s.pw.phase = .active → (s.port p).echoes < 128 ∨ (s.port p).probes < 128 →
    exec (.hopDelayDone p) s = .next s) ∧
  (∀ (s : State) (p : Port) (f eye : Byte) (eyes : List Byte) (d : BitVec 32), s.pw.phase = .active → eyes.length = 3 → s.pState p = 5 →
    ((s.hopD p : Int) - d.toNat).natAbs ≤ 8 → s.linkUp p.other = false → ∃ t, exec (.trainingReportDone p f eye eyes d) s = .next t ∧
    t.linkUp p = true ∧ t.linkUp p.other = false ∧ (t.port p).full = false ∧ t.link.rate = s.pRateOf p ∧
    t.bit (match p with | .up => LINK.EVT.UPUP | .dn => LINK.EVT.DNUP) = true ∧
    look t.link.eyeNow (2 + p.no) = some (eye.toNat % 64)) ∧
  (∀ (s : State) (p : Port) (f eye : Byte) (eyes : List Byte) (d : BitVec 32), s.pw.phase = .active → eyes.length = 3 → s.pState p = 5 →
    8 < ((s.hopD p : Int) - d.toNat).natAbs → ∃ t, exec (.trainingReportDone p f eye eyes d) s = .next t ∧
    t.bit LINK.EVT.HOPMIS = true ∧ t.pState p = (if (s.port p).repeats < 3 then 4 else 2)) ∧
  (∀ (s : State) (p : Port), s.pw.phase = .active → s.pState p = 2 → (s.port p).fromUp = false → s.linkUp p.other = false →
    ∃ t, exec (.trainingDetectTimeout p) s = .next t ∧ t.pState p = 1 ∧ t.pRateOf p = 0 ∧ t.pState p.other = s.pState p.other) ∧
  (∀ (s : State) (p : Port) (f eye : Byte) (eyes : List Byte) (d : BitVec 32), s.pw.phase = .active → eyes.length = 3 → s.pState p = 5 →
    ((s.hopD p : Int) - d.toNat).natAbs ≤ 8 → s.linkUp p.other = true → s.pRateOf p = s.pRateOf p.other → s.link.rate = s.pRateOf p →
    ∃ t, exec (.trainingReportDone p f eye eyes d) s = .next t ∧ t.linkUp p = true ∧ t.linkUp p.other = true ∧ (t.port p).full = false ∧
    t.link.rate = s.link.rate ∧ t.bit (match p with | .up => LINK.EVT.UPUP | .dn => LINK.EVT.DNUP) = true ∧
    look t.link.eyeNow (2 + p.no) = some (eye.toNat % 64))

/-- A link goes down (R332, R330): by loss of signal, four treads of violations or sixteen without a mark, or when the
host retrains it; training restarts at T0 at the current rate, and full training sweeps every rate; on a port that is
not up the loss of signal and its end only show in LOS (R316), but that a training in reply to TS1 ends with them
(R328). Eyes, CRC windows and rate changes (R329, R338, R339, R341, R373, R376): the monitor's width stands while the
link is up; every 1,000 treads the counts of bad slots are shown and judged; an announced change takes place at its
tread on every enabled port and makes its bank active, and the port is up again when its rate tread has run through T0,
T2 and T3; a port late by eight treads trains again; an armed change without announcement is reported; a bank the marks
ask for becomes active. What the model chose here: log 3, 12 (halves), 84 (LINK_DOWN with the cause signal is the
release edge), 85, 86, 87, 89. -/
def Obligations.LinkAndRateChanges : Prop :=
  (∀ (s : State) (p : Port) (why : DownCause), s.pw.phase = .active → s.linkUp p = true → s.downDue p why = true →
    ∃ t, exec (.linkDown p why) s = .next t ∧ t.pState p = 2 ∧ t.pRateOf p = s.pRateOf p ∧ (t.port p).fromUp = true ∧
    t.bit (match p with | .up => LINK.EVT.UPDOWN | .dn => LINK.EVT.DNDOWN) = true ∧
    t.get LINK.DOWNCNT = min (s.get LINK.DOWNCNT + 1) 65535 ∧ (why = .los → t.bit (pstat p LINK.UPSTAT.LOS) = true) ∧
    (s.pState p.other ≠ 2 → t.pState p.other = s.pState p.other)) ∧
  (∀ (s : State) (p : Port) (why : DownCause), s.pw.phase = .active → s.pState p = 0 ∨
      (why ≠ .los ∧ why ≠ .signal ∧ (s.linkUp p = false ∨ s.downDue p why = false)) → exec (.linkDown p why) s = .next s) ∧
  (∀ (s : State) (p : Port), s.pw.phase = .active → s.pState p ≠ 0 → s.linkUp p = false →
    (s.pState p ≠ 2 ∨ (s.port p).fromUp = true ∨ s.linkUp p.other = true →
      exec (.linkDown p .los) s = .next (s.setB (pstat p LINK.UPSTAT.LOS) true)) ∧
    exec (.linkDown p .signal) s = .next (s.setB (pstat p LINK.UPSTAT.LOS) false)) ∧
  (∀ (s : State) (p : Port), s.pw.phase = .active → s.linkUp p = true → ∃ t u, exec (.retrain p) s = .next t ∧
    exec (.fullTraining p) s = .next u ∧ t.pState p = 2 ∧ u.pState p = 2 ∧ (t.port p).full = (s.port p).full ∧
    (u.port p).full = true ∧ t.pRateOf p = s.pRateOf p ∧ u.pRateOf p = s.pRateOf p) ∧
  (∀ (s : State) (p : Port) (pos : List Bool), s.pw.phase = .active → pos.length = 64 → s.linkUp p = true →
    ∃ t, exec (.eyeMonitor p pos) s = .next t ∧ look t.link.eyeNow p.no = some (eyeWidth pos) ∧
    t.get (HEALTH.EYEURX.plus p.no) = (eyeWidth pos + 64 * s.link.rate + 256) % 65536) ∧
  (∀ (s : State) (p : Port) (pos : List Bool), s.pw.phase = .active → pos.length = 64 → s.linkUp p = false →
    exec (.eyeMonitor p pos) s = .next s) ∧
  (∀ s : State, s.pw.phase = .active → s.tm.ltc % 1000 = 0 → s.link.window = true → ∃ t, exec .crcWindowEnd s = .next t ∧
    t.get LINK.CRCUP = s.link.up.errs % 65536 ∧ t.get LINK.CRCDN = s.link.dn.errs % 65536 ∧ t.link.up.errs = 0 ∧ t.link.dn.errs = 0 ∧
    t.holds 34 = decide (s.used { LINK.CRCLIM with w := 10 } < s.link.up.errs % 65536 ∨
      s.used { LINK.CRCLIM with w := 10 } < s.link.dn.errs % 65536)) ∧
  (∀ s : State, s.pw.phase = .active → s.tm.ltc % 1000 ≠ 0 → exec .crcWindowEnd s = .next s) ∧
  (∀ (s : State) (a : Announce), s.pw.phase = .active → s.link.ann = some a → s.reached a.t = true → ∃ t, exec .rateChange s = .next t ∧
    t.link.rate = a.rate ∧ t.link.ann = none ∧ t.link.rateAt = some s.tm.tread ∧ t.activeBank = (if a.bank then 1 else 0) ∧
    t.bit LINK.EVT.RATECHG = true ∧ (∀ p, s.portOn p = true → t.pState p = 7 ∧ t.pRateOf p = a.rate % 4) ∧
    (s.link.rate < a.rate → t.occurred.getLsbD 35 = true)) ∧
  (∀ s : State, s.pw.phase = .active → (∀ a, s.link.ann = some a → s.reached a.t = false) → exec .rateChange s = .next s) ∧
  (∀ (s : State) (p : Port), s.pw.phase = .active → s.pState p = 7 → (s.port p).rt = 2 → ∃ t, exec (.trainingDetectDone p) s = .next t ∧
    t.pState p = 7 ∧ (t.port p).rt = 4 ∧ (t.port p).echoes = 0 ∧ (t.port p).probes = 0) ∧
  (∀ (s : State) (p : Port), s.pw.phase = .active → s.pState p = 7 → (s.port p).rt = 4 → 128 ≤ (s.port p).echoes →
    128 ≤ (s.port p).probes → ∃ t, exec (.hopDelayDone p) s = .next t ∧ t.pState p = 7 ∧ (t.port p).rt = 5 ∧
    t.hopD p = twos 32 (roundRat ((s.port p).dSum / 256))) ∧
  (∀ (s : State) (p : Port) (f eye : Byte) (eyes : List Byte) (d : BitVec 32), s.pw.phase = .active → eyes.length = 3 → s.pState p = 7 →
    (s.port p).rt = 5 → ((s.hopD p : Int) - d.toNat).natAbs ≤ 8 → ∃ t, exec (.trainingReportDone p f eye eyes d) s = .next t ∧
    t.pState p = 7 ∧ (t.port p).rt = 6 ∧ t.link.eyeNow = s.link.eyeNow) ∧
  (∀ (s : State) (p : Port) (f : Byte), s.pw.phase = .active → s.pState p = 7 → (s.port p).rt = 6 → f.getLsbD 4 = true →
    s.linkUp p.other = false ∨ s.pRateOf p = s.pRateOf p.other → ∃ t, exec (.rateTreadDone p f) s = .next t ∧
    t.linkUp p = true ∧ t.hopD p = s.hopD p) ∧
  (∀ (s : State) (p : Port) (f : Byte), s.pw.phase = .active → s.pState p ≠ 7 ∨ (s.port p).rt ≠ 6 ∨ f.getLsbD 4 = false →
    exec (.rateTreadDone p f) s = .next s) ∧
  (∀ (s : State) (p : Port) (t0 : Nat), s.pw.phase = .active → s.pState p = 7 → s.link.rateAt = some t0 → t0 + 8 ≤ s.tm.tread →
    ∃ t, exec (.rateTreadTimeout p) s = .next t ∧ t.pState p = 2 ∧ t.get LINK.DOWNCNT = min (s.get LINK.DOWNCNT + 1) 65535) ∧
  (∀ (s : State) (p : Port) (t0 : Nat), s.pw.phase = .active → s.link.rateAt = some t0 → s.tm.tread < t0 + 8 →
    exec (.rateTreadTimeout p) s = .next s) ∧
  (∀ s : State, s.pw.phase = .active → s.rsArmed = true → (s.tm.stn + 1) % 4294967296 = s.get2 XACT.RSTN0 → s.link.ann = none →
    exec .rateSetMissing s = .next (s.evt XACT.EVT.RSMIS)) ∧
  (∀ (s : State) (b : Nat), s.pw.phase = .active → s.xact.bankNext = some b → b < 2 → ∃ t, exec .bankSwitch s = .next t ∧
    t.activeBank = b ∧ t.xact.bankNext = none ∧ t.holds 42 = false) ∧
  (∀ (s : State) (p : Port), s.pw.phase = .active → s.pState p = 2 → (s.port p).fromUp = false → s.linkUp p.other = false →
    ∃ t, exec (.linkDown p .los) s = .next t ∧ t.pState p = 1 ∧ t.bit (pstat p LINK.UPSTAT.LOS) = true ∧
    t.pState p.other = s.pState p.other ∧ t.get LINK.DOWNCNT = s.get LINK.DOWNCNT)

/-- Slots (R318, R322, R325, R326, R346, R364, R374): a missing slot start, or one outside the frame, loses the framing;
a slot that the device does not own is forwarded, with HOP one lower where it is a command, and its CRC is right after
that just where it was right before; an owned slot carries the queue the plan in use binds to it, a lean slot a started
block of Q1 before a notice, a response and a new block of Q1, in this order, or IDLE; in a frame of its own the device
sends IDLE in a slot it does not own; after a framing loss what was due is missed, and a block with an uncorrectable
error is dropped (R312, R361). A command slot with an opcode that is not listed is rejected with OPCODE (R352). What the
model chose here: log 3, 83 (the error is met when the block for an owned slot is read), 92, 93, 96. -/
def Obligations.Slots : Prop :=
  (∀ (s : State) (p : Port) (sos : Bool) (x : Slot), s.pw.phase = .active → s.linkUp p = true → (s.port p).lost = false →
    sos = false ∨ slotCount (s.pRateOf p) ≤ x.slot → ∃ t, exec (.slotRx p sos x) s = .next t ∧ (t.port p).lost = true ∧ t.bit LINK.EVT.FRAMING = true ∧
    t.get LINK.FRMERR = min (s.get LINK.FRMERR + 1) 65535) ∧
  (∀ (s : State) (p : Port) (x : Slot), s.pw.phase = .active → s.forwards p = true → (s.port p).lost = false →
    x.slot < slotCount (s.pRateOf p) → s.owns p.other.lane x.slot (s.frameStn p.other.lane) = false → oddCommand x = false →
    ∃ t, exec (.slotRx p true x) s = .next t ∧ look t.link.txSlot p.other.lane.no =
      some (forwarded x) ∧
    (t.port p).errs = (if x.crcOk then (s.port p).errs else min ((s.port p).errs + 1) 65535) ∧ t.regs = s.regs) ∧
  (∀ x : Slot, (forwarded x).hop = (if slotCommand x then x.hop - 1 else x.hop) ∧ (forwarded x).payload = x.payload ∧
    (forwarded x).crcOk = x.crcOk) ∧
  (∀ (s : State) (p : Port) (x : Slot), s.pw.phase = .active → (s.port p).lost = false → x.slot < slotCount (s.pRateOf p) → oddCommand x = true →
    s.arrives (slotOp x) (slotCmd p x) → Cmd.silent (slotCmd p x) = false → s.qRoom 3 8 = true →
    ∃ t, exec (.slotRx p true x) s = .next t ∧ t.newest 3 = some (Cmd.respHead (slotCmd p x) (slotOp x) 1) ∧
    t.get XACT.REJCNT = min (s.get XACT.REJCNT + 1) 65535 ∧ t.get XACT.LASTREJ = 1 + 256 * slotOp x ∧
    t.bit XACT.EVT.REJECT = true ∧ t.get XACT.CMDCNT = s.get XACT.CMDCNT) ∧
  (∀ (s : State) (l : Lane) (slot : Nat) (stn : BitVec 32) (ecc : Bool), s.pw.phase = .active → s.linkUp l.port = false →
    exec (.ownedSlot l slot ⟨stn, ecc⟩) s = .next s) ∧
  (∀ (s : State) (l : Lane) (slot q i : Nat) (stn : BitVec 32) (b : Block), s.pw.phase = .active → s.linkUp l.port = true →
    s.leanSlot l slot stn.toNat = false → s.planQueue l slot stn.toNat = some q → s.pick q l false = some i →
    (look s.xact.queues q).blocks[i]? = some b → slot < slotCount (s.pRateOf l.port) → (s.port l.port.other).lost = false →
    ∃ t x, exec (.ownedSlot l slot ⟨stn, false⟩) s = .next t ∧
    look t.link.txSlot l.no = some x ∧ x.idle = false ∧ x.queue.toNat = q % 64 ∧ x.qseq.toNat = b.seq % 65536 ∧
    x.first = (b.sent == 0) ∧ x.payload.take (min 128 (b.bytes.length - b.sent)) = (b.bytes.drop b.sent).take 128 ∧ x.crcOk = true ∧
    t.regs = s.regs) ∧
  (∀ (s : State) (l : Lane) (slot q i : Nat) (stn : BitVec 32), s.pw.phase = .active → s.linkUp l.port = true →
    s.leanSlot l slot stn.toNat = false → s.planQueue l slot stn.toNat = some q → s.pick q l false = some i →
    slot < slotCount (s.pRateOf l.port) → (s.port l.port.other).lost = false →
    ∃ t, exec (.ownedSlot l slot ⟨stn, true⟩) s = .next t ∧ t.occurred.getLsbD 43 = true ∧ t.bit QUEUE.EVT.ECC = true) ∧
  (∀ (s : State) (l : Lane) (slot q i : Nat) (stn : BitVec 32) (ecc : Bool), s.pw.phase = .active → s.linkUp l.port = true →
    s.leanSlot l slot stn.toNat = false → s.planQueue l slot stn.toNat = some q → s.pick q l false = some i →
    slot < slotCount (s.pRateOf l.port) → (s.port l.port.other).lost = true → ∃ t x, exec (.ownedSlot l slot ⟨stn, ecc⟩) s = .next t ∧
    look t.link.txSlot l.no = some x ∧ x.idle = true ∧ t.get QUEUE.MISSCNT = min (s.get QUEUE.MISSCNT + 1) 65535 ∧
    t.occurred.getLsbD 36 = true ∧ t.xact = s.xact) ∧
  (∀ (s : State) (l : Lane) (slot : Nat) (stn : BitVec 32) (ecc : Bool), s.pw.phase = .active → s.makesFrame l = true →
    s.linkUp l.port = true → slot < slotCount (s.pRateOf l.port) → s.owns l slot stn.toNat = false →
    ∃ t x, exec (.ownedSlot l slot ⟨stn, ecc⟩) s = .next t ∧ look t.link.txSlot l.no = some x ∧ x.idle = true ∧ x.slot = slot ∧
    x.crcOk = true ∧ t.xact = s.xact ∧ t.regs = s.regs) ∧
  (∀ (s : State) (l : Lane) (slot q : Nat) (stn : BitVec 32) (ecc : Bool), s.pw.phase = .active → s.linkUp l.port = true →
    s.leanSlot l slot stn.toNat = false → s.planQueue l slot stn.toNat = some q → s.pick q l false = none →
    slot < slotCount (s.pRateOf l.port) → ∃ t x, exec (.ownedSlot l slot ⟨stn, ecc⟩) s = .next t ∧ look t.link.txSlot l.no = some x ∧ x.idle = true ∧ x.slot = slot ∧ t.regs = s.regs ∧
    t.xact = s.xact) ∧
  (∀ (s : State) (l : Lane) (slot q i : Nat) (stn : BitVec 32) (b : Block), s.pw.phase = .active → s.linkUp l.port = true →
    s.leanSlot l slot stn.toNat = true → s.leanPick l = some (q, i) → (look s.xact.queues q).blocks[i]? = some b →
    slot < slotCount (s.pRateOf l.port) → (s.port l.port.other).lost = false →
    ∃ t x, exec (.ownedSlot l slot ⟨stn, false⟩) s = .next t ∧ look t.link.txSlot l.no = some x ∧ x.idle = false ∧ x.slot = slot ∧
    x.queue.toNat = q % 64 ∧ x.qseq.toNat = b.seq % 65536 ∧ x.first = (b.sent == 0) ∧
    x.payload.take (min 128 (b.bytes.length - b.sent)) = (b.bytes.drop b.sent).take 128 ∧ x.crcOk = true ∧
    t.get QUEUE.LEANCNT = min (s.get QUEUE.LEANCNT + 1) 65535) ∧
  (∀ (s : State) (l : Lane) (slot : Nat) (stn : BitVec 32) (ecc : Bool), s.pw.phase = .active → s.linkUp l.port = true →
    s.leanSlot l slot stn.toNat = true → s.leanPick l = none → slot < slotCount (s.pRateOf l.port) → ∃ t x, exec (.ownedSlot l slot ⟨stn, ecc⟩) s = .next t ∧ look t.link.txSlot l.no = some x ∧
    x.idle = true ∧ x.slot = slot ∧ t.regs = s.regs ∧ t.xact = s.xact) ∧
  (∀ (s : State) (l : Lane),
    (∀ i, (look s.xact.queues 1).blocks.findIdx? (fun b => b.started && b.lane == some l && b.lean) = some i → s.leanPick l = some (1, i)) ∧
    ((look s.xact.queues 1).blocks.findIdx? (fun b => b.started && b.lane == some l && b.lean) = none →
      (∀ i, s.pick 0 l true = some i → s.leanPick l = some (0, i)) ∧
      (∀ i, s.pick 0 l true = none → s.pick 3 l true = some i → s.leanPick l = some (3, i)) ∧
      (s.pick 0 l true = none → s.pick 3 l true = none → s.leanPick l = (s.pick 1 l true).map (fun i => (1, i)))))

/-- Transactions that read (R345, R353, R359): a READ in order is answered with the words it names, a PING with the
device's identity and times; both change nothing else that the host can see but counters, latches and cursors. What the
model chose here: log 3, 94, 96, 99. -/
def Obligations.ReadsAnswer : Prop :=
  (∀ (s : State) (c : Cmd), s.pw.phase = .active → s.arrives 1 c → s.cmdStatus 1 c = 0 → s.qRoom 3 (8 + 2 * c.count.toNat) = true →
    ∃ t, exec (.read c) s = .next t ∧
    t.newest 3 = some (Cmd.respHead c 1 0 ++ wordBytes (s.readCmdWords c.port c.addr.toNat c.count.toNat)) ∧
    t.get XACT.CMDCNT = min (s.get XACT.CMDCNT + 1) 65535 ∧ (∀ p : Part, p ∉ commandParts (.read c) → p.same s t)) ∧
  (∀ (s : State) (c : Cmd), s.pw.phase = .active → s.arrives 6 c → s.cmdStatus 6 c = 0 → Cmd.silent c = false →
    s.qRoom 3 (28 + 2 * c.count.toNat) = true → ∃ t r, exec (.ping c) s = .next t ∧ t.newest 3 = some (Cmd.respHead c 6 0 ++ r) ∧
    r.take 2 = leBytes 2 s.devId ∧ (r.drop 8).take 10 = leBytes 4 s.tm.stn ++ leBytes 6 s.tm.ltc ∧
    r.drop 20 = wordBytes ((Cmd.words c).take c.count.toNat) ∧ (∀ a, a ≠ XACT.CMDCNT.addr → t.reg a = s.reg a)) ∧
  (∀ (s : State) (c : Cmd), s.pw.phase = .active → s.linkUp c.port = false ∨ s.framed c.port = false ∨ Cmd.addressed c 1 = false → exec (.read c) s = .next s) ∧
  (∀ (s : State) (c : Cmd), s.pw.phase = .active → s.linkUp c.port = true → s.framed c.port = true → Cmd.addressed c 1 = true → c.crcOk = false ∨ c.ver ≠ 1#4 →
    exec (.read c) s = .next ((s.inc XACT.CRCCMD).evt XACT.EVT.CRCCMD)) ∧
  (∀ (s : State) (k : Fin 8), s.pw.phase = .active → (s.reg (QUEUE.MIRkA.plus (2 * k.val)).addr).getLsbD 15 = true →
    s.tm.stn % max (fieldOf (s.reg (QUEUE.MIRkB.plus (2 * k.val)).addr) 8 8) 1 = 0 → 1 ≤ s.tm.tread → s.qEnabled (55 + k.val) = true →
    ∃ t n, exec (.mirrorRead k) s = .next t ∧ n = fieldOf (s.reg (QUEUE.MIRkB.plus (2 * k.val)).addr) 0 6 ∧
    t.newest (55 + k.val) = some (leBytes 4 s.tm.stn ++ leBytes 2 (fieldOf (s.reg (QUEUE.MIRkA.plus (2 * k.val)).addr) 0 11) ++
      leBytes 1 n ++ [0] ++ wordBytes (s.readWords (fieldOf (s.reg (QUEUE.MIRkA.plus (2 * k.val)).addr) 0 11) n)) ∧
    t.tm = s.tm ∧ t.bal = s.bal) ∧
  (∀ (s : State) (k : Fin 8), s.pw.phase = .active → (s.reg (QUEUE.MIRkA.plus (2 * k.val)).addr).getLsbD 15 = false →
    exec (.mirrorRead k) s = .next s)

/-- Transactions that write (R353, R356): WRITE and BCAST-WRITE store their words in ascending order, WRITE-MASK under
its masks, and the answer carries no data; a broadcast with NORESP is not answered. What the model chose here: log 94,
95, 97. -/
def Obligations.WritesStore : Prop :=
  (∀ (s u : State) (c : Cmd), s.pw.phase = .active → s.arrives 2 c → s.cmdStatus 2 c = 0 → s.qRoom 3 8 = true →
    u = s.writeBegin.writeWords c.addr.toNat ((Cmd.words c).take c.count.toNat) → u.pw.leave = none → ∃ t, exec (.write c) s = .next t ∧
    t.newest 3 = some (Cmd.respHead c 2 0) ∧ (∀ a, t.reg a = (u.inc XACT.CMDCNT).reg a) ∧ t.bal = u.bal ∧ t.imp = u.imp ∧
    t.safe = u.safe ∧ t.pending = s.pending) ∧
  (∀ (s u : State) (c : Cmd), s.pw.phase = .active → s.arrives 3 c → s.cmdStatus 3 c = 0 → s.qRoom 3 8 = true →
    u = s.writeBegin.maskWords c.addr.toNat ((Cmd.words c).take (2 * c.count.toNat)) → u.pw.leave = none →
    ∃ t, exec (.writeMask c) s = .next t ∧ t.newest 3 = some (Cmd.respHead c 3 0) ∧ (∀ a, t.reg a = (u.inc XACT.CMDCNT).reg a)) ∧
  (∀ (s u : State) (c : Cmd), s.pw.phase = .active → s.arrives 4 c → s.cmdStatus 4 c = 0 → Cmd.silent c = true →
    u = s.writeBegin.writeWords c.addr.toNat ((Cmd.words c).take c.count.toNat) → u.pw.leave = none →
    ∃ t, exec (.bcastWrite c) s = .next t ∧ (∀ a, t.reg a = (u.inc XACT.CMDCNT).reg a) ∧
    look t.xact.queues 3 = look u.xact.queues 3) ∧
  (∀ (s : State) (c : Cmd) (e : CacheEnt) (r : List Byte), s.pw.phase = .active → s.pw.leave = none → s.linkUp c.port = true → s.framed c.port = true →
    Cmd.addressed c 2 = true → c.crcOk = true → c.ver = 1#4 → (s.cache c.port).find? (fun e => e.tid == c.tid.toNat) = some e →
    e.crc = crc32 (Cmd.payload c) → e.resp = some r → s.qRoom 3 r.length = true → ∃ t, exec (.write c) s = .next t ∧
    t.newest 3 = some (patch r 4 [r.getD 4 0 ||| 1#8]) ∧ (∀ a, t.reg a = ((s.inc XACT.DUPCNT).evt XACT.EVT.DUP).reg a)) ∧
  (∀ (s : State) (c : Cmd), s.pw.phase = .active → s.pw.leave = none → s.arrives 2 c → s.cmdStatus 2 c ≠ 0 → s.qRoom 3 8 = true →
    Cmd.silent c = false → ∃ t, exec (.write c) s = .next t ∧ t.newest 3 = some (Cmd.respHead c 2 (s.cmdStatus 2 c)) ∧
    t.get XACT.REJCNT = min (s.get XACT.REJCNT + 1) 65535 ∧ t.get XACT.LASTREJ = s.cmdStatus 2 c + 512 ∧
    t.get XACT.LASTREJTID = c.tid.toNat ∧ t.bit XACT.EVT.REJECT = true ∧ t.bal = s.bal ∧ t.safe = s.safe)

/-- Q3 without room for a response (R359): the command is not executed, enters no cache and is not answered; Q3FULL
counts and its event sets. That a duplicate (R358) and a rejection (R354) without room are the same case, and that such
a rejection counts no REJCNT and raises no fault 39, is the model's reading: log 95, 96. -/
def Obligations.NoRoomForResponse : Prop :=
  (∀ (s : State) (i : Instr) (c : Cmd) (op n : Nat) (a : Bool), s.pw.phase = .active → s.pw.leave = none →
    transaction i = some (op, c, n, a) → s.arrives op c → Cmd.silent c = false →
    (s.cmdStatus op c = 0 → a = true ∧ s.qRoom 3 (8 + n) = false) → (s.cmdStatus op c ≠ 0 → s.qRoom 3 8 = false) →
    exec i s = .next ((s.inc XACT.Q3FULL).evt XACT.EVT.Q3FULL)) ∧
  (∀ (s : State) (i : Instr) (c : Cmd) (op n : Nat) (a : Bool) (e : CacheEnt) (r : List Byte), s.pw.phase = .active → s.pw.leave = none →
    transaction i = some (op, c, n, a) → s.linkUp c.port = true → s.framed c.port = true → Cmd.addressed c op = true → c.crcOk = true → c.ver = 1#4 →
    (s.cache c.port).find? (fun e => e.tid == c.tid.toNat) = some e → e.crc = crc32 (Cmd.payload c) → e.resp = some r →
    s.qRoom 3 r.length = false → exec i s = .next ((s.inc XACT.Q3FULL).evt XACT.EVT.Q3FULL)) ∧
  (∀ (s : State) (i : Instr) (c : Cmd) (op n : Nat) (a : Bool) (e : CacheEnt), s.pw.phase = .active → s.pw.leave = none →
    transaction i = some (op, c, n, a) → s.linkUp c.port = true → s.framed c.port = true → Cmd.addressed c op = true → c.crcOk = true → c.ver = 1#4 →
    (s.cache c.port).find? (fun e => e.tid == c.tid.toNat) = some e → e.crc ≠ crc32 (Cmd.payload c) → Cmd.silent c = false →
    s.qRoom 3 8 = false → exec i s = .next ((s.inc XACT.Q3FULL).evt XACT.EVT.Q3FULL))

/-- Writes of register words by their access types (R8, R9, R459 to R462, R465). Header words: EVT clears where ones are
written, EVT_EN stores the bits its EVT defines, whether or not the guard is armed, and the rest but CTRL stays. A write
of an action word is the command of that word (log 30); so is an action bit of a CTRL word beside the bits that the word
stores. An RW word stores its bits, its reserved bits ignore the write, and a read shows it; a value that its chapter
refuses changes nothing but CFGREJ. RO and reserved words, and CTRL where the chapter defines none, ignore every write;
WO fields read 0. CELLCFG.COUNT is stored where RWL fields are open. A value of two to four words is taken up when its
highest word is written; until then the word in use stays and a read shows the staged one. What the model chose here:
log 3, 30, 98, 123. -/
def Obligations.RegisterWrites : Prop :=
  (∀ (s : State) (a : Fin 2048) (v : Word), s.pw.phase = .active → s.pw.leave = none → a.val % 64 < 8 →
    a.val % 64 ≠ 1 → ∃ t, exec (.registerWrite a v) s = .next t ∧ (∀ b, b ≠ a.val → t.reg b = s.reg b) ∧
    t.reg a.val = (if a.val % 64 = 3 then s.reg a.val &&& ~~~v else if a.val % 64 = 4 then
      (s.reg a.val &&& ~~~(evtMask (a.val / 64))) ||| (v &&& evtMask (a.val / 64)) else s.reg a.val) ∧
    t.bal = s.bal ∧ t.xact = s.xact ∧ t.safe = s.safe) ∧
  (∀ (s : State) (i : Instr) (a : Fin 2048) (n : Nat) (v : Word), s.pw.phase = .active → s.pw.leave = none → actionWord i = some (n, v) →
    a.val = n → s.guardArmed = false ∨ s.cfgClass n = false → exec (.registerWrite a v) s = exec i s.writeBegin) ∧
  (∀ (s : State) (i : Instr) (a : Fin 2048) (n : Nat) (w m : Word), s.pw.phase = .active → s.pw.leave = none → actionBit i = some (n, w, m) →
    a.val = n → ∃ t u, exec (.registerWrite a (w ||| (s.reg n &&& m))) s = .next t ∧ exec i s.writeBegin = .next u ∧
    (∀ b, t.reg b = u.reg b) ∧ t.cal = u.cal ∧ t.imp = u.imp ∧ t.cells = u.cells ∧ t.bal = u.bal) ∧
  (∀ (s : State) (a : Fin 2048) (p w : Nat) (m v : Word), s.pw.phase = .active → s.pw.leave = none → (p, w, m) ∈ rwWords → a.val = linear p w →
    s.guardArmed = false ∨ s.cfgClass a.val = false → look s.staged a.val = none → ∃ t, exec (.registerWrite a v) s = .next t ∧
    t.reg a.val = (s.reg a.val &&& ~~~m) ||| (v &&& m) ∧ t.readWord a.val = t.reg a.val ∧ (∀ b, b ≠ a.val → t.reg b = s.reg b) ∧
    t.xact = s.xact ∧ t.imp = s.imp ∧ t.safe = s.safe) ∧
  (∀ (s : State) (a : Fin 2048) (p w : Nat) (m v : Word) (ok : Word → Bool) (ev : Fld), s.pw.phase = .active → s.pw.leave = none →
    (p, w, m, ok, ev) ∈ checkedWords → a.val = linear p w → s.guardArmed = false ∨ s.cfgClass a.val = false → look s.staged a.val = none → ok v = true →
    ∃ t, exec (.registerWrite a v) s = .next t ∧ t.reg a.val = (s.reg a.val &&& ~~~m) ||| (v &&& m) ∧ t.readWord a.val = t.reg a.val ∧
    (∀ b, b ≠ a.val → t.reg b = s.reg b)) ∧
  (∀ (s : State) (a : Fin 2048) (p w : Nat) (m v : Word) (ok : Word → Bool) (ev : Fld), s.pw.phase = .active → s.pw.leave = none →
    (p, w, m, ok, ev) ∈ checkedWords → a.val = linear p w → s.guardArmed = false ∨ s.cfgClass a.val = false → ok v = false →
    exec (.registerWrite a v) s = .next (s.writeBegin.evt ev)) ∧
  (∀ (s : State) (a : Fin 2048) (v : Word), s.pw.phase = .active → s.pw.leave = none → readOnly (a.val / 64) (a.val % 64) = true →
    exec (.registerWrite a v) s = .next s.writeBegin) ∧
  (∀ (s : State) (a : Fin 2048) (p w : Nat) (v : Word), s.pw.phase = .active → s.pw.leave = none → (p, w) ∈ writeOnly → a.val = linear p w →
    look s.staged a.val = none → s.reg a.val = 0 ∨ (p = 0x1E ∧ w ≤ 0x0C) → ∃ t, exec (.registerWrite a v) s = .next t ∧
    t.readWord a.val = 0) ∧
  (∀ (s : State) (a : Fin 2048) (v : Word), s.pw.phase = .active → s.pw.leave = none → s.guardArmed = false ∨ s.cfgClass a.val = false →
    s.rwLocked = false → a.val = CELLCFG.COUNT.COUNT.addr → 12 ≤ v.toNat % 64 → v.toNat % 64 ≤ 36 → ∃ t, exec (.registerWrite a v) s = .next t ∧
    t.get CELLCFG.COUNT.COUNT = v.toNat % 64 ∧ t.used CELLCFG.COUNT.COUNT = s.used CELLCFG.COUNT.COUNT ∧
    (∀ b, b ≠ a.val → t.reg b = s.reg b)) ∧
  (∀ (s : State) (a b : Fin 2048) (p w : Nat) (v : Word), s.pw.phase = .active → s.pw.leave = none → (p, w) ∈ pairWords → a.val = linear p w →
    b.val = a.val + 1 → s.guardArmed = false ∨ s.cfgClass a.val = false → s.guardArmed = false ∨ s.cfgClass b.val = false →
    (∃ t, exec (.registerWrite a v) s = .next t ∧ (∀ k, t.reg k = s.reg k) ∧ look t.staged a.val = some v ∧ t.readWord a.val = v ∧
      (∀ k, k ≠ a.val → look t.staged k = look s.staged k)) ∧
    (∃ t, exec (.registerWrite b v) s = .next t ∧ t.reg b.val = v ∧ t.reg a.val = (look s.staged a.val).getD (s.reg a.val) ∧
      look t.staged a.val = none ∧ (∀ k, k ≠ a.val → k ≠ b.val → t.reg k = s.reg k))) ∧
  (∀ (s : State) (a b c : Fin 2048) (v : Word), s.pw.phase = .active → s.pw.leave = none → a.val = IMP.CELLMAP0.addr → b.val = a.val + 1 →
    c.val = a.val + 2 → s.guardArmed = false ∨ s.cfgClass c.val = false → ∃ t, exec (.registerWrite c v) s = .next t ∧
    t.reg a.val = (look s.staged a.val).getD (s.reg a.val) ∧ t.reg b.val = (look s.staged b.val).getD (s.reg b.val) ∧
    t.reg c.val = (s.reg c.val &&& ~~~15#16) ||| (v &&& 15#16) ∧ look t.staged a.val = none ∧ look t.staged b.val = none) ∧
  (∀ (s : State) (a b : Fin 2048) (i : Nat) (v : Word), s.pw.phase = .active → s.pw.leave = none → i < 3 → a.val = QUEUE.QEN0.addr + i →
    b.val = QUEUE.QEN3.addr → s.guardArmed = false ∨ s.cfgClass a.val = false → s.guardArmed = false ∨ s.cfgClass b.val = false →
    (∃ t, exec (.registerWrite a v) s = .next t ∧ (∀ k, t.reg k = s.reg k) ∧
      look t.staged a.val = some (if i = 0 then v ||| 0xD#16 else v) ∧ t.readWord a.val = (if i = 0 then v ||| 0xD#16 else v)) ∧
    (∃ t, exec (.registerWrite b v) s = .next t ∧ t.reg b.val = v ∧ t.reg a.val = (look s.staged a.val).getD (s.reg a.val) ∧
      look t.staged a.val = none))

/-- The commands of the stair's set-up (R46, R348, R349, R376): COUNT-OFF gives the position of the lane it came on and,
with a length in it, the stair's length; RATE-SET arms a rate and its tread; PLANT-TIME leaves the plant time to take
effect. What the model chose here: log 94. -/
def Obligations.SetupCommands : Prop :=
  (∀ (s : State) (c : Cmd), s.pw.phase = .active → s.arrives 5 c → s.cmdStatus 5 c = 0 → s.qRoom 3 22 = true →
    ∃ t, exec (.countOff c) s = .next t ∧ t.bit XACT.EVT.COUNTOFF = true ∧
    t.get (match c.port with | .up => XACT.POSUP | .dn => XACT.POSDN) = (256 - c.hop.toNat) % 256 + 32768 ∧
    (Cmd.dat c 0 = 0 → t.get XACT.STAIRLEN = s.get XACT.STAIRLEN) ∧
    (Cmd.dat c 0 ≠ 0 → t.get XACT.STAIRLEN = Cmd.dat c 0 + 32768 ∧ t.bit XACT.STATUS.LENV = true)) ∧
  (∀ (s : State) (c : Cmd), s.pw.phase = .active → s.arrives 7 c → s.cmdStatus 7 c = 0 → s.qRoom 3 18 = true →
    ∃ t, exec (.rateSet c) s = .next t ∧ t.bit XACT.STATUS.RSARMED = true ∧ t.get XACT.RSARM = Cmd.dat c 0 % 8 + 8 ∧
    t.get2 XACT.RSTN0 = Cmd.dat2 c 1 ∧ t.link = s.link) ∧
  (∀ (s : State) (c : Cmd), s.pw.phase = .active → s.arrives 8 c → s.cmdStatus 8 c = 0 → s.qRoom 3 8 = true →
    ∃ t, exec (.plantTime c) s = .next t ∧ t.bit TIME.STATUS.PTPEND = true ∧ t.get2 TIME.PEND0 = Cmd.dat2 c 0 ∧
    t.get (TIME.PEND0.plus 2) = Cmd.dat c 2 ∧ t.get2 TIME.PENDT0 = Cmd.dat2 c 3 ∧ t.tm = s.tm) ∧
  (∀ (s : State) (v : Word), s.pw.phase = .active → exec (.stairidWrite v) s =
    .next ((s.set { XACT.STAIRID with w := 6 } v.toNat).setB XACT.STATUS.SIDSET true)) ∧
  (∀ s : State, s.pw.phase = .active → exec .clrcache s = .next { s with xact := { s.xact with cacheUp := [], cacheDn := [] } })

/-- The plan banks and the queues (R361, R365, R370, R371): a check finds the selected bank valid or bad by its first
failing condition; a write of a bank word makes the bank LOADING, and a valid active bank refuses it; FLUSH keeps only
the started blocks; a fine block that is old enough is closed. What the model chose here: log 3, 98. -/
def Obligations.PlanBanks : Prop :=
  (∀ (s : State) (b : Nat), s.pw.phase = .active → b = s.get { QUEUE.PLANSEL with w := 1 } → ∃ t, exec .planchk s = .next t ∧
    t.get QUEUE.PLANSTAT.FIRSTERR = s.planCheck b ∧ t.get (planState b) = (if s.planCheck b = 0 then 2 else 3) ∧
    t.bit (if s.planCheck b = 0 then QUEUE.EVT.PLANOK else QUEUE.EVT.PLANBAD) = true ∧ t.xact.plan = s.xact.plan ∧
    t.activeBank = s.activeBank) ∧
  (∀ (s : State) (b p : Nat) (v : Word), s.pw.phase = .active → b = s.get { QUEUE.PLANSEL with w := 1 } →
    p = s.get { QUEUE.PLANPTR with w := 11 } → p ≤ 1031 → b ≠ s.activeBank ∨ s.get (planState b) ≠ 2 →
    ∃ t, exec (.plandataAccess (some v)) s = .next t ∧ t.planWord b p = v ∧ (∀ i, i ≠ p → i < 2048 → t.planWord b i = s.planWord b i) ∧
    t.get (planState b) = 1 ∧ t.get { QUEUE.PLANPTR with w := 11 } = p + 1) ∧
  (∀ (s : State) (b : Nat) (v : Word), s.pw.phase = .active → b = s.get { QUEUE.PLANSEL with w := 1 } →
    b = s.activeBank → s.get (planState b) = 2 → exec (.plandataAccess (some v)) s = .next (s.evt QUEUE.EVT.CFGREJ)) ∧
  (∀ (s : State) (p : Nat), s.pw.phase = .active → p = s.get { QUEUE.PLANPTR with w := 11 } → exec (.plandataAccess none) s =
    .next (if p ≤ 1031 then s.set { QUEUE.PLANPTR with w := 11 } (p + 1) else s.evt QUEUE.EVT.CFGREJ)) ∧
  (∀ (s : State) (q : Nat), s.pw.phase = .active → q = s.get { QUEUE.QSEL with w := 6 } → ∃ t, exec .flush s = .next t ∧
    (look t.xact.queues q).blocks = (look s.xact.queues q).blocks.filter (fun b => b.sent ≠ 0) ∧
    (∀ k, k ≠ q → look t.xact.queues k = look s.xact.queues k) ∧ t.regs = s.regs) ∧
  (∀ (s : State) (q : Fin 38) (o : OpenBlk), s.pw.phase = .active → look s.cells.openBlk q.val = some o →
    o.born + s.get { QUEUE.FSAGE with w := 7 } ≤ s.tm.tread → 1 ≤ s.tm.tread → s.qEnabled (4 + q.val) = true →
    ∃ t, exec (.fsageClose q) s = .next t ∧ look t.cells.openBlk q.val = none ∧ t.newest (4 + q.val) = some o.bytes) ∧
  (∀ (s : State) (q : Fin 38) (o : OpenBlk), s.pw.phase = .active → look s.cells.openBlk q.val = some o →
    s.tm.tread < o.born + s.get { QUEUE.FSAGE with w := 7 } → exec (.fsageClose q) s = .next s)

/-- EVTSUM (R468): bit p is 1 while page p has an event set whose EVT_EN bit is 1, 16 pages a word, and bit 31 is always
0. -/
def Obligations.EventSummary : Prop :=
  ∀ (s : State) (p : Nat), p < 32 → look s.staged (linear 0x1F (0x08 + p / 16)) = none →
    (s.readWord (linear 0x1F (0x08 + p / 16))).getLsbD (p % 16) =
      (decide (p ≠ 31) && (List.range 16).any (fun b => (s.reg (linear p 3)).getLsbD b && (s.reg (linear p 4)).getLsbD b))

/-- The gallery's counts (R381 to R385, R389). Each tread counts one tread in the bin of every cell whose voltage is
known, in the bin of every cell's impedance temperature that is neither NONE nor OLD (any other is unbinned time) and in
the bin of the die temperature; where the current is recorded, one in its bin, with its charge or discharge, and
THRUCLIP where it carries OVR. An extreme is replaced only by a strictly larger value (max V, max T, largest charge
current) or a strictly smaller one, of a value without flags, with the stamps of the image in effect. A SLEEP entry
stops the counts but no fold. An epoch folds whole seconds into the histograms, keeps the remainders and advances
EPOCHNO. What the model chose here: log 3, 102, 104. -/
def Obligations.GalleryCounts : Prop :=
  (∀ s : State, s.pw.phase = .active → 1 ≤ s.tm.tread → s.life ≠ 3 → s.gal.stopped = false → s.gal.clearAt = [] →
    (s.edgesOf 0).length = 64 → ∃ t, exec .galleryAccumulate s = .next t ∧
    look t.gal.rd (binOf (defEdges 1) s.cells.dieTemp) = look s.gal.rd (binOf (defEdges 1) s.cells.dieTemp) + 1 ∧
    (∀ c < s.count, ∀ r, r = look s.cells.snap c → r.nbr = false → r.stale = false → r.unc ≠ 15 ∨ r.ovr = true → ∀ b < 64,
      look t.gal.rv (64 * c + b) = look s.gal.rv (64 * c + b) +
        (if b = binOf (s.edgesOf 0) ((r.v + 300000) / 100) then 1 else 0)) ∧
    t.gal.img.hv = s.gal.img.hv ∧ t.fl = s.fl) ∧
  (∀ s : State, s.pw.phase = .active → s.tm.tread = 0 ∨ s.life = 3 ∨ (s.gal.stopped = true ∧ s.gal.clearAt = []) →
    exec .galleryAccumulate s = .next s) ∧
  (∀ s : State, s.pw.phase = .active → s.epochEnd = true → s.life ≠ 3 → mapWf (fun _ => 0) s.gal.rv = true →
    (∀ k, look s.gal.img.hv k ≤ 4294967295) → ∃ t, exec .epochFold s = .next t ∧
    t.gal.img.epochNo = (s.gal.img.epochNo + 1) % 4294967296 ∧ t.gal.img.foldLtc = s.tm.ltc ∧ t.bit GAL.EVT.FOLD = true ∧
    (∀ k, look t.gal.img.hv k = min (look s.gal.img.hv k + look s.gal.rv k / 1000) 4294967295 ∧
      look t.gal.rv k = look s.gal.rv k % 1000) ∧ t.gal.img.ext = s.gal.img.ext) ∧
  (∀ s : State, s.pw.phase = .active → s.epochEnd = false ∨ s.life = 3 → exec .epochFold s = .next s) ∧
  (∀ s : State, s.pw.phase = .active → 1 ≤ s.tm.tread → s.life ≠ 3 → s.gal.stopped = false → s.gal.clearAt = [] →
    (s.edgesOf 1).length = 32 → s.count ≤ 36 → ∃ t, exec .galleryAccumulate s = .next t ∧
    (∀ c < s.count, ∀ x, x = look s.imp.img.temps c → ∀ b < 32, look t.gal.rt (32 * c + b) = look s.gal.rt (32 * c + b) +
      (if x.has = true ∧ x.old = false ∧ b = binOf (s.edgesOf 1) x.v then 1 else 0)) ∧
    t.gal.rUnT = s.gal.rUnT + ((List.range s.count).filter (fun c => !((look s.imp.img.temps c).has && !(look s.imp.img.temps c).old))).length ∧
    (∀ c < s.count, ∀ x e, x = look s.imp.img.temps c → e = look s.gal.img.ext (3 * c + 2) → look t.gal.img.ext (3 * c + 2) =
      if x.has = false ∨ x.old = true ∨ (e.has = true ∧ x.v ≤ e.v) then e else s.extStamp x.v (look s.imp.tofs c).isNone) ∧
    (∀ c < s.count, ∀ r e f, r = look s.cells.snap c → e = look s.gal.img.ext (3 * c) → f = look s.gal.img.ext (3 * c + 1) →
      (if r.nbr || r.stale || r.ovr || r.bal || r.pls || r.unc == 15 then look t.gal.img.ext (3 * c) = e ∧ look t.gal.img.ext (3 * c + 1) = f
       else look t.gal.img.ext (3 * c) = (if e.has = true ∧ r.v ≤ e.v then e else s.extStamp r.v false) ∧
         look t.gal.img.ext (3 * c + 1) = (if f.has = true ∧ f.v ≤ r.v then f else s.extStamp r.v false)))) ∧
  (∀ (s : State) (r : Res) (sh : Nat) (i : Int) (q : Rat), s.pw.phase = .active → 1 ≤ s.tm.tread → s.life ≠ 3 → s.gal.stopped = false →
    s.gal.clearAt = [] → s.irec = true → r = look s.cells.snap 36 → sh = s.get2 CURR.RSHUNT0 → i = r.v * 200 / (sh : Int) →
    q = ((r.v * 20000 : Int) : Rat) / (sh : Rat) → s.count ≤ 36 → ∃ t, exec .galleryAccumulate s = .next t ∧
    (∀ k, look t.gal.ri k = look s.gal.ri k + (if k = binOf (s.edgesOf 2) i then 1 else 0)) ∧
    t.gal.rChg = s.gal.rChg + max q 0 ∧ t.gal.rDis = s.gal.rDis + max (-q) 0 ∧ t.gal.img.clip = (s.gal.img.clip || r.ovr) ∧
    (∀ e f, e = look s.gal.img.ext 108 → f = look s.gal.img.ext 109 →
      (if r.ovr || r.stale || r.pls || r.nbr || r.bal || r.unc == 15 then look t.gal.img.ext 108 = e ∧ look t.gal.img.ext 109 = f
       else look t.gal.img.ext 108 = (if e.has = true ∧ i ≤ e.v then e else s.extStamp i false) ∧
         look t.gal.img.ext 109 = (if f.has = true ∧ f.v ≤ i then f else s.extStamp i false)))) ∧
  (∀ s : State, s.pw.phase = .active → 1 ≤ s.tm.tread → s.life ≠ 3 → s.gal.stopped = false → s.gal.clearAt = [] → s.irec = false →
    s.count ≤ 36 → ∃ t, exec .galleryAccumulate s = .next t ∧ t.gal.ri = s.gal.ri ∧ t.gal.rChg = s.gal.rChg ∧ t.gal.rDis = s.gal.rDis ∧
    look t.gal.img.ext 108 = look s.gal.img.ext 108 ∧ look t.gal.img.ext 109 = look s.gal.img.ext 109)

/-- The gallery's restore, clear and edges (R388, R391, R398): at a start the newest totals of the flash are taken over
once, with their edges from SERVICE on, below it only the histograms whose edges are those in use; CLEAR needs its key
and COMMISSION, and clears every object in the next tread, a second one in the tread after its own; in COMMISSION
changed edges of each table are adopted in the next tread and clear their histogram, and elsewhere not. The gallery's
window and export (R393 to R396): a freeze takes the image and its flags, its release forgets it; a read of DATA7 moves
the cursor by four bins and from the last bin to the next cell; an export takes the image, and its 37 blocks follow as
Q52 has room. What the model chose here: log 3, 24 (a frozen window shows the transfer flags of the freeze), 103. -/
def Obligations.GalleryAccess : Prop :=
  (∀ (s : State) (g : GalSet), s.pw.phase = .active → s.gal.restored = false → s.flState = 1 → s.restoreSet = some g → 2 ≤ s.life →
    ∃ t, exec .galleryRestore s = .next t ∧ t.gal.img = g.img.plus s.gal.img ∧ t.gal.edges = g.edges ∧ t.gal.restored = true ∧
    t.bit GAL.STATUS.RESTORED = true) ∧
  (∀ s : State, s.pw.phase = .active → s.gal.restored = false → s.flState ≠ 0 → s.flState ≠ 1 ∨ s.restoreSet = none →
    exec .galleryRestore s = .next (({ s with gal := { s.gal with restored := true } }).setB GAL.STATUS.NOHIST true)) ∧
  (∀ s : State, s.pw.phase = .active → s.gal.restored = true ∨ s.flState = 0 → exec .galleryRestore s = .next s) ∧
  (∀ (s : State) (k t0 : Nat) (p : Option (List Int)), s.pw.phase = .active → s.life = 1 → k < 3 → look s.gal.edgePend k = [(t0, p)] →
    t0 < s.tm.tread → ∃ t, exec .edgeAdopt s = .next t ∧ look t.gal.edges k = p ∧ look t.gal.edgePend k = [] ∧
    (k = 0 → t.gal.img.hv = [] ∧ t.gal.rv = []) ∧ (k = 1 → t.gal.img.ht = [] ∧ t.gal.rt = []) ∧ (k = 2 → t.gal.img.hi = [] ∧ t.gal.ri = []) ∧
    t.bit GAL.EVT.EDGEADOPT = true) ∧
  (∀ (s : State) (key : Byte), s.pw.phase = .active → exec (.galClear key) s =
    .next (if key = 0xA5 ∧ s.life = 1 then { s with gal := { s.gal with clearAt := s.gal.clearAt ++ [s.tm.tread] } } else s.evt GAL.EVT.CLRREJ)) ∧
  (∀ s : State, s.pw.phase = .active → s.bit { GAL.CURSOR with lo := 15, w := 1 } = false → exec (.galFreeze true) s =
    .next ((({ s with gal := { s.gal with frozen := some s.galImg, frozenFlags := s.xferFlags } }).setB { GAL.CURSOR with lo := 15, w := 1 } true).setB GAL.STATUS.FROZEN true)) ∧
  (∀ s : State, s.pw.phase = .active → ∃ t, exec (.galFreeze false) s = .next t ∧ t.gal = { s.gal with frozen := none } ∧
    t.bit GAL.STATUS.FROZEN = false ∧ t.bit GAL.STATUS.NEWER = false) ∧
  (∀ (s : State) (b : Nat), s.pw.phase = .active → s.get { GAL.CURSOR with w := 3 } = 3 → b = s.get { GAL.BIN with w := 6 } →
    exec .galCursorAdvance s = .next (s.set { GAL.BIN with w := 6 } (if b + 4 < 64 then b + 4 else 0))) ∧
  (∀ (s : State) (b i : Nat), s.pw.phase = .active → s.get { GAL.CURSOR with w := 3 } = 0 → b = s.get { GAL.BIN with w := 6 } →
    i = s.get { GAL.INDEX with w := 6 } → exec .galCursorAdvance s = .next (if b + 4 < 64 then s.set { GAL.BIN with w := 6 } (b + 4)
      else (s.set { GAL.BIN with w := 6 } 0).set { GAL.INDEX with w := 6 } (if i < s.count then i + 1 else 1))) ∧
  (∀ s : State, s.pw.phase = .active → s.gal.xport = none → ∃ t e, exec .galXfer s = .next t ∧ t.gal.xport = some e ∧
    e.img = s.galImg ∧ e.flags = s.xferFlags ∧ e.stn = s.tm.stn ∧ e.ltc = s.tm.ltc ∧ e.next = 0 ∧ t.bit GAL.STATUS.XBUSY = true) ∧
  (∀ s : State, s.pw.phase = .active → s.gal.xport.isSome = true →
    exec .galXfer s = .next ((s.inc GAL.XSKIPCNT).evt GAL.EVT.XSKIP)) ∧
  (∀ (s : State) (e : GalExport), s.pw.phase = .active → s.gal.xport = some e → 1 ≤ s.tm.tread → s.qEnabled 52 = true →
    s.qRoom 52 448 = true → ∃ t, exec .exportBlockPost s = .next t ∧ t.newest 52 = some e.block ∧
    t.gal.xport = (if e.next < 36 then some { e with next := e.next + 1 } else none) ∧ (36 ≤ e.next → t.bit GAL.STATUS.XBUSY = false)) ∧
  (∀ s : State, s.pw.phase = .active → s.qRoom 52 448 = false → exec .exportBlockPost s = .next s) ∧
  (∀ s : State, s.pw.phase = .active → (∀ k < 3, ∀ e ∈ look s.gal.edgePend k, s.tm.tread ≤ e.1) → exec .edgeAdopt s = .next s) ∧
  (∀ (s : State) (k t0 t1 : Nat) (p q : Option (List Int)), s.pw.phase = .active → s.life = 1 → k < 3 →
    look s.gal.edgePend k = [(t0, p), (t1, q)] → t0 < s.tm.tread → s.tm.tread ≤ t1 → ∃ t, exec .edgeAdopt s = .next t ∧
    look t.gal.edges k = p ∧ look t.gal.edgePend k = [(t1, q)]) ∧
  (∀ (s : State) (k : Nat) (e : Nat × Option (List Int)), s.pw.phase = .active → s.life ≠ 1 → k < 3 → e ∈ look s.gal.edgePend k →
    e.1 < s.tm.tread → ∃ t, exec .edgeAdopt s = .next t ∧ t.gal = { s.gal with edgePend := [] }) ∧
  (∀ (s : State) (t0 : Nat), s.pw.phase = .active → 1 ≤ s.tm.tread → s.life ≠ 3 → s.gal.stopped = true → s.gal.clearAt = [t0] →
    t0 < s.tm.tread → ∃ t, exec .galleryAccumulate s = .next t ∧ t.gal = { s.gal.cleared with clearAt := [] } ∧
    t.bit GAL.EVT.CLEARED = true ∧ t.fl = { s.fl with clearNext := true }) ∧
  (∀ (s : State) (t0 t1 : Nat), s.pw.phase = .active → 1 ≤ s.tm.tread → s.life ≠ 3 → s.gal.stopped = true → s.gal.clearAt = [t0, t1] →
    t0 < s.tm.tread → s.tm.tread ≤ t1 → ∃ t, exec .galleryAccumulate s = .next t ∧ t.gal = { s.gal.cleared with clearAt := [t1] }) ∧
  (∀ g : Gal, g.cleared.img.hv = [] ∧ g.cleared.img.ht = [] ∧ g.cleared.img.hi = [] ∧ g.cleared.img.hd = [] ∧ g.cleared.img.ext = [] ∧
    g.cleared.img.chg = 0 ∧ g.cleared.img.dis = 0 ∧ g.cleared.img.epochNo = g.img.epochNo ∧ g.cleared.rv = [] ∧ g.cleared.edges = g.edges) ∧
  (∀ (s : State) (g : GalSet) (o : GalObj), s.pw.phase = .active → s.gal.restored = false → s.flState = 1 → s.restoreSet = some g → s.life < 2 →
    o = { g.img with
      hv := if s.life = 1 ∧ look g.edges 0 ≠ look s.gal.edges 0 then [] else g.img.hv,
      ht := if s.life = 1 ∧ look g.edges 1 ≠ look s.gal.edges 1 then [] else g.img.ht,
      hi := if s.life = 1 ∧ look g.edges 2 ≠ look s.gal.edges 2 then [] else g.img.hi } → ∃ t, exec .galleryRestore s = .next t ∧
    t.gal.img = o.plus s.gal.img ∧ t.gal.edges = s.gal.edges ∧ t.gal.restored = true ∧ t.bit GAL.STATUS.RESTORED = true)

/-- Finding and formatting the flash (R400 to R403). Discovery ends once the steps that it takes have run, and not
before; the JEDEC ID is read whatever follows. A switched-off or absent part is NONE; one that has no SFDP signature
though its ID is not blank or a flash was seen before, that does not meet R400, or that holds no anchor in a ring that
is not erased, is FAILED; one with a valid anchor, or formatted because its ring is erased, READY. FORMAT needs its key
and a part that may be formatted: fault 44 live, no valid anchor, or FACTORY; it takes a FORMATNO that nothing in the
part carries, empties the ring, keeps the retirement bitmap and writes both anchors, the first of them at once (R403,
R412). What the model chose here: log 3, 105, 107, 112 (a part without SFDP signature whose ID is not blank is FAILED).
-/
def Obligations.FlashStarts : Prop :=
  (∀ s : State, s.pw.phase = .active → s.flState = 0 →
    exec .flashDiscovery s = .next { s with fl := { s.fl with step := min 6 (s.fl.step + 1) } }) ∧
  (∀ (s : State) (f : FlashFind), s.pw.phase = .active → s.flState = 0 → s.findSteps f ≤ s.fl.step → ∃ t, exec (.flashDiscoveryDone f) s = .next t ∧
    (s.usedB FLASH.CFG.EN = true → t.get2 FLASH.JEDECID0 = f.jedec.toNat) ∧
    t.flState = (if s.usedB FLASH.CFG.EN = false then 2
      else if f.sfdp = false then (if f.idBlank = true ∧ s.vault.flashSeen = false then 2 else 3)
      else if findMeets f = true ∧ (f.anchorA.isSome = true ∨ f.anchorB.isSome = true ∨ f.ringErased = true) then 1 else 3)) ∧
  (∀ (s : State) (f : FlashFind), s.pw.phase = .active → s.flState ≠ 0 ∨ s.fl.step < s.findSteps f → exec (.flashDiscoveryDone f) s = .next s) ∧
  (∀ (s : State) (key : Byte), s.pw.phase = .active → key ≠ 0xA5 ∨ (s.holds 44 = false ∧ (s.fl.anchAok = true ∨ s.fl.anchBok = true) ∧
    s.life ≠ 0) → exec (.format key) s = .next (s.evt FLASH.EVT.KEYREJ)) ∧
  (∀ s : State, s.pw.phase = .active → s.holds 44 = true ∨ s.life = 0 ∨ (s.fl.anchAok = false ∧ s.fl.anchBok = false) → s.flState = 1 ∨ s.flState = 3 →
    ∃ t, exec (.format 0xA5) s = .next t ∧ t.flState = 1 ∧ t.get FLASH.FORMATNO = s.formatNext ∧
    t.fl.ring = [] ∧ t.fl.op = some .anchor ∧ t.fl.anchMore = true ∧ t.fl.newest = none ∧ t.fl.retired = s.fl.retired ∧
    t.vault.flashSeen = true ∧ t.holds 44 = false) ∧
  (∀ (s : State) (n : Nat), n < 256 → s.formatsUsed.contains n = false → s.formatsUsed.contains s.formatNext = false ∧ s.formatNext < 256) ∧
  (∀ (s : State) (f : FlashFind), s.findSteps f = (if s.usedB FLASH.CFG.EN = false then 0 else if f.sfdp = false then 3
    else if findMeets f = false then 4 else 6))

/-- Writing the flash (R404, R405, R412, R416, R418). A record's two pages follow each other, page 2 first and at most
four programs in a tread, and the written record stands at the head; an operation that fails is tried twice more. Then
the sector of a failed page takes no more records, and the record goes to the new head with that sector's erase count.
An operation late for the third time fails the flash, and the tombstone then goes to the vault. What the model chose
here: log 3, 105, 108, 110, 152. -/
def Obligations.FlashWrites : Prop :=
  (∀ (s : State) (r : Record) (d : Draft) (c : Nat), s.pw.phase = .active → s.pw.leave = none → s.flState = 1 → s.fl.op = some (.page 2) →
    s.fl.cur = some r → s.fl.draft = some d → s.fl.flushed = false → c < 3 → s.fl.progs < 4 → ∃ t, exec (.flashOpDone (.ok c)) s = .next t ∧
    t.fl = { s.fl with late := 0, tries := 0, page := 1, op := some (.page 1), progs := s.fl.progs + 1 } ∧ t.bit FLASH.STATUS.BUSY = true) ∧
  (∀ (s : State) (r : Record) (d : Draft) (c : Nat), s.pw.phase = .active → s.pw.leave = none → s.flState = 1 →
    s.fl.op = some (.page 1) → s.fl.cur = some r → s.fl.draft = some d → s.fl.flushed = false → d.closing = false → s.fl.weak = false →
    c < 3 → ∃ t, exec (.flashOpDone (.ok c)) s = .next t ∧ look t.fl.ring s.fl.next = some { r with errs := c } ∧
    t.fl.newest = some r ∧ t.fl.next = s.slotAfter s.fl.next ∧ (∀ k, k ≠ s.fl.next → look t.fl.ring k = look s.fl.ring k)) ∧
  (∀ (s : State) (r : Record) (d : Draft) (n : Nat), s.pw.phase = .active → s.pw.leave = none → s.pw.closing = none → s.fl.op = some (.page n) →
    s.fl.cur = some r → s.fl.draft = some d → 2 ≤ s.fl.tries → ∃ t r', exec (.flashOpDone .failed) s = .next t ∧
    t.sectorOut (s.fl.next / 8) = true ∧ t.fl.draft = some d ∧ t.fl.page = 2 ∧ t.fl.cur = some r' ∧
    r'.eraseCnt = BitVec.ofNat 24 (look s.fl.wear (t.fl.next / 8)) ∧ t.fl.ring = s.fl.ring) ∧
  (∀ (s : State) (o : FlashOp), s.pw.phase = .active → s.pw.leave = none → s.pw.closing = none → s.fl.tries < 2 → s.fl.op = some o →
    (∀ n, o ≠ .page n) → ∃ t, exec (.flashOpDone .failed) s = .next t ∧ t.fl = { s.fl with late := 0, tries := s.fl.tries + 1 }) ∧
  (∀ s : State, s.pw.phase = .active → s.fl.op.isSome = true → s.fl.late < 2 →
    exec .flashBusyTimeout s = .next { s with fl := { s.fl with late := s.fl.late + 1 } }) ∧
  (∀ s : State, s.pw.phase = .active → s.fl.op.isSome = true → 2 ≤ s.fl.late → s.flState ≠ 3 → ∃ t, exec .flashBusyTimeout s = .next t ∧
    t.flState = 3 ∧ t.holds 44 = true ∧ t.bit FLASH.EVT.FAIL = true ∧ t.fl.usable = false ∧ t.fl.wait = [] ∧ t.fl.ring = s.fl.ring) ∧
  (∀ s : State, s.pw.phase = .active → s.fl.tombDue = true → s.tombFree = true → ∃ t, exec .tombstoneWrite s = .next t ∧
    t.vault.tombCount = min 65535 (s.vault.tombCount + s.fl.failRam) ∧ t.vault.tombAt = some s.tm.ltc ∧ t.fl.tombDue = false) ∧
  (∀ s : State, s.pw.phase = .active → s.tombFree = false → exec .tombstoneWrite s = .next s) ∧
  (∀ (s : State) (r : Record), s.pw.phase = .active → s.pw.leave = none → s.pw.closing = none → s.fl.tries < 2 → s.flState = 1 →
    s.fl.op = some (.page s.fl.page) → s.fl.cur = some r → ∃ t, exec (.flashOpDone .failed) s = .next t ∧
    t.fl = (if s.fl.progs < 4 then { s.fl with late := 0, tries := s.fl.tries + 1, progs := s.fl.progs + 1 }
      else { s.fl with late := 0, tries := s.fl.tries + 1, op := none })) ∧
  (∀ (s : State) (r : Record) (d : Draft) (c : Nat), s.pw.phase = .active → s.pw.leave = none → s.flState = 1 → s.fl.op = some (.page 2) →
    s.fl.cur = some r → s.fl.draft = some d → s.fl.flushed = false → c < 3 → 4 ≤ s.fl.progs → ∃ t, exec (.flashOpDone (.ok c)) s = .next t ∧
    t.fl = { s.fl with late := 0, tries := 0, page := 1, op := none } ∧ t.bit FLASH.STATUS.BUSY = false)

/-- What goes into the flash and stays there (R409, R410, R413, R414, R416, R417). At a full hour the record of the hour
waits to be written and the next hour begins; a seal that fails its own verification is not written. The cleaner takes
the tail sector when nothing comes before it: the retained records of the sector are programmed at the head one after
the other, each as it is, and only a sector without one left is erased, or retired where it has reached its endurance;
the end of the erase counts it and empties its slots, and an erase that failed three times retires the sector. When the
reserve would not hold, the oldest monthly set that is no final set is given up first. The scrub reads one sector when
it is due and nothing else uses the flash: it reports a record beyond repair and a PREV that does not agree, and a
record of 3 to 8 corrected bits is programmed again at the head. The dump (R420): CTRL.DUMP sets the slots to be read,
and a block for each follows as Q63 has room; the cleaner cuts it where sectors run out. What the model chose here: log
3, 27, 105, 108 (an erase and a page program are one operation each), 111, 152. -/
def Obligations.FlashKeeps : Prop :=
  (∀ s : State, s.pw.phase = .active → s.tm.ltc % 3600000 = 0 → 1 ≤ s.tm.tread → s.flState = 1 → s.waitRoom false = true →
    ∃ t d, exec .hourlyRecord s = .next t ∧ t.gal = { s.gal with hour := [] } ∧ d ∈ t.fl.wait ∧ d.type = 5 ∧
    d.cls = 1 ∧ d.tread = s.tm.tread ∧ d.payload = s.hourPayload ∧ t.fl.wait.length = s.fl.wait.length + 1) ∧
  (∀ s : State, s.pw.phase = .active → s.tm.ltc % 3600000 ≠ 0 ∨ s.tm.tread = 0 → exec .hourlyRecord s = .next s) ∧
  (∀ s : State, s.pw.phase = .active → s.tm.ltc % 86400000 = 0 → 1 ≤ s.tm.tread → s.flState = 1 → s.bit IDENT.STATUS.KEYOK = true →
    s.waitRoom false = true → ∃ t d, exec (.dailySeal true) s = .next t ∧ d ∈ t.fl.wait ∧ d.isSeal = true ∧
    d.cls = 3 ∧ t.fl.wait.length = s.fl.wait.length + 1) ∧
  (∀ s : State, s.pw.phase = .active → s.tm.ltc % 86400000 = 0 → 1 ≤ s.tm.tread → s.flState = 1 → s.bit IDENT.STATUS.KEYOK = true →
    exec (.dailySeal false) s = .next (s.occur 59)) ∧
  (∀ (s : State) (q : Nat), s.pw.phase = .active → s.flFree = true → q = s.fl.tail → q ≠ s.fl.next / 8 → s.fl.dump = none →
    s.dropMonth.copyNext q = none → look s.fl.wear q < s.endurance → ∃ t, exec .cleanerReclaim s = .next t ∧ t.fl.op = some .erase ∧
    t.fl.clean = false ∧ t.bit FLASH.STATUS.BUSY = true ∧ t.fl.tail = q ∧ t.fl.wear = s.fl.wear ∧ t.fl.retired = s.fl.retired ∧ t.fl.ring = s.fl.ring) ∧
  (∀ (s : State) (q : Nat), s.pw.phase = .active → s.flFree = true → q = s.fl.tail → q ≠ s.fl.next / 8 → s.fl.dump = none →
    s.dropMonth.copyNext q = none → s.endurance ≤ look s.fl.wear q → ∃ t, exec .cleanerReclaim s = .next t ∧ look t.fl.retired q = true ∧
    t.fl.op = none) ∧
  (∀ s : State, s.pw.phase = .active → s.flFree = false ∨ s.fl.tail = s.fl.next / 8 ∨ (s.dumpHolds s.fl.tail = true ∧ 8 ≤ s.fl.erased) →
    exec .cleanerReclaim s = .next s) ∧
  (∀ (s : State) (errs : List Nat) (ok : Bool) (q : Nat), s.pw.phase = .active → errs.length = 8 → s.flFree = true → s.scrubDue = true →
    s.cleanDue = false → s.fl.fixes = [] → q = max 4 (s.get FLASH.SCRUBPOS) → ∃ t, exec (.scrubSector errs ok) s = .next t ∧
    t.fl.scrubAt = s.tm.ltc ∧ t.fl.scrubLeft = s.fl.scrubLeft - 1 ∧
    (ok = false → t.bit FLASH.EVT.DAMAGE = true ∧ t.occurred.getLsbD 47 = true) ∧
    (∀ i < 8, ∀ r, s.live (8 * q + i) = some r → look t.fl.ring (8 * q + i) = some { r with errs := errs.getD i 0 } ∧
      (8 < errs.getD i 0 → t.bit FLASH.EVT.DAMAGE = true ∧ t.occurred.getLsbD 47 = true) ∧
      (3 ≤ errs.getD i 0 → errs.getD i 0 ≤ 8 → 8 * q + i ∈ t.fl.fixes ∨ t.fl.copyOf = some (8 * q + i, true))) ∧
    (∀ r, s.live (8 * q) = some r → errs.getD 0 0 ≤ 8 → s.chainBreak r = true → t.bit FLASH.EVT.DAMAGE = true ∧ t.occurred.getLsbD 47 = true)) ∧
  (∀ (s : State) (errs : List Nat) (ok : Bool), s.pw.phase = .active → errs.length = 8 →
    s.flFree = false ∨ s.scrubDue = false ∨ s.cleanDue = true ∨ s.fl.fixes ≠ [] →
    exec (.scrubSector errs ok) s = .next s) ∧
  (∀ s : State, s.pw.phase = .active → exec .scrubnow s =
    .next (if s.flState = 1 then { s with fl := { s.fl with scrubLeft := s.ringN } } else s)) ∧
  (∀ s : State, s.pw.phase = .active → s.flState = 1 → ∃ t, exec .dump s = .next t ∧
    t.fl = { s.fl with dump := some (s.get2 FLASH.DUMPSTART0, s.get FLASH.DUMPCNT) } ∧ t.bit FLASH.STATUS.DUMPBUSY = true) ∧
  (∀ s : State, s.pw.phase = .active → s.flState ≠ 1 → exec .dump s = .next s) ∧
  (∀ (s : State) (k n : Nat), s.pw.phase = .active → s.fl.dump = some (k, n) → 1 ≤ s.tm.tread → s.qEnabled 63 = true →
    s.qRoom 63 528 = true → s.flFree = true → s.cleanDue = false → s.scrubDue = false → s.fl.fixes = [] → ∃ t, exec .dumpBlockPost s = .next t ∧ t.newest 63 = some (s.dumpBlock k) ∧
    t.fl = { s.fl with dump := if n ≤ 1 then none else some (k + 1, n - 1) }) ∧
  (∀ s : State, s.pw.phase = .active → s.fl.dump = none ∨ s.qRoom 63 528 = false ∨ s.flFree = false ∨ s.cleanDue = true ∨ s.scrubDue = true →
    exec .dumpBlockPost s = .next s) ∧
  (∀ (s : State) (q c : Nat), s.pw.phase = .active → s.pw.leave = none → s.pw.closing = none → s.flState = 1 → s.fl.op = some .erase →
    q = s.fl.tail → s.fl.evac = [] → s.fl.clean = false → ∃ t, exec (.flashOpDone (.ok c)) s = .next t ∧ look t.fl.wear q = look s.fl.wear q + 1 ∧
    t.fl.erases = s.fl.erases + 1 ∧ t.fl.erased = s.fl.erased + 1 ∧ t.fl.retired = s.fl.retired ∧ t.fl.tail = State.nextSector s.ringN s q / 8 ∧
    (∀ k, look t.fl.ring k = if 8 * q ≤ k ∧ k < 8 * q + 8 then none else look s.fl.ring k)) ∧
  (∀ s : State, s.pw.phase = .active → s.pw.leave = none → s.pw.closing = none → s.fl.op = some .erase → 2 ≤ s.fl.tries →
    ∃ t, exec (.flashOpDone .failed) s = .next t ∧
    (s.flState = 1 → s.fl.cur = none → s.fl.anchDue = false → s.fl.wait = [] → s.cal.commitDue = false → s.fl.evac = [] →
      look s.fl.retired s.fl.tail = false → s.copyNext s.fl.tail = none → look t.fl.retired s.fl.tail = true) ∧
    (s.flState ≠ 1 ∨ s.copyNext s.fl.tail ≠ none → t.sectorOut s.fl.tail = true)) ∧
  (∀ (s : State) (q k : Nat), s.pw.phase = .active → s.flFree = true → q = s.fl.tail → q ≠ s.fl.next / 8 → s.fl.dump = none →
    s.dropMonth.copyNext q = some k → s.fl.progs < 4 → ∃ t, exec .cleanerReclaim s = .next t ∧ t.fl.op = some (.page 2) ∧
    t.fl.cur = look s.fl.ring k ∧ t.fl.copyOf = some (k, false) ∧ t.fl.clean = true ∧ t.fl.ring = s.fl.ring ∧ t.fl.tail = q) ∧
  (∀ (s : State) (q : Nat),
    (s.copyNext q = none ↔ ∀ k, 8 * q ≤ k → k < 8 * q + 8 → ∀ r, s.live k = some r → s.retained r = false) ∧
    (∀ k, s.copyNext q = some k → 8 * q ≤ k ∧ k < 8 * q + 8 ∧ ∃ r, s.live k = some r ∧ s.retained r = true)) ∧
  (∀ (s : State) (r : Record) (k c : Nat) (fix : Bool), s.pw.phase = .active → s.pw.leave = none → s.pw.closing = none → s.flState = 1 →
    s.fl.op = some (.page 1) → s.fl.cur = some r → s.fl.draft = none → s.fl.copyOf = some (k, fix) → s.fl.weak = false → c < 3 →
    ∃ t, exec (.flashOpDone (.ok c)) s = .next t ∧ look t.fl.ring s.fl.next = some { r with errs := c } ∧ look t.fl.moved k = true ∧
    t.fl.next = s.slotAfter s.fl.next ∧ (∀ j, j ≠ s.fl.next → look t.fl.ring j = look s.fl.ring j) ∧
    t.get FLASH.FIXCNT = (if fix then min (s.get FLASH.FIXCNT + 1) 65535 else s.get FLASH.FIXCNT) ∧
    (fix = true → t.bit FLASH.EVT.FIX = true ∧ t.occurred.getLsbD 46 = true)) ∧
  (∀ (s : State) (q : Nat) (m : Nat × Nat × Bool), s.pw.phase = .active → s.flFree = true → q = s.fl.tail → q ≠ s.fl.next / 8 → s.fl.dump = none →
    8 * (s.ringN - s.get FLASH.RETIRED) < s.keptCount + 64 → (s.fl.ms.filter (fun m => !m.2.2)).getLast? = some m →
    ∃ t, exec .cleanerReclaim s = .next t ∧ t.fl.ms = s.fl.ms.filter (fun x => x != m) ∧ t.bit FLASH.EVT.MDROP = true ∧
    t.get FLASH.MDROPCNT = min (s.get FLASH.MDROPCNT + 1) 65535 ∧ (∀ x ∈ s.fl.ms, x.2.2 = true → x ∈ t.fl.ms)) ∧
  (∀ (s : State) (q : Nat), s.pw.phase = .active → s.flFree = true → q = s.fl.tail → q ≠ s.fl.next / 8 → s.fl.dump = none →
    s.keptCount + 64 ≤ 8 * (s.ringN - s.get FLASH.RETIRED) → ∃ t, exec .cleanerReclaim s = .next t ∧ t.fl.ms = s.fl.ms ∧
    t.get FLASH.MDROPCNT = s.get FLASH.MDROPCNT) ∧
  (∀ s : State, s.pw.phase = .active → s.flFree = true → s.fl.tail ≠ s.fl.next / 8 → s.dumpHolds s.fl.tail = true → s.fl.erased < 8 →
    ∃ t, exec .cleanerReclaim s = .next t ∧ t.fl.dump = none ∧ t.bit FLASH.EVT.DUMPCUT = true)

/-- The Tipol bus (R425, R431, R433, R436): a call begins a transaction and sets when its next part ends, one operation
in a window and none in the idle time of a lengthened tread (R423); a low one is a sample of the line; a search, a poll
cycle and a cycle at once take a free bus; the reads of a cycle begin when its wait is over; two low samples end
everything with fault 48, two high ones end the fault; CLEARREG empties the registry. Replies and scans (R429, R431,
R432, R434): a valid reply stores its value and ends the run of failures; no reply counts one; a further channel of the
entry follows without a call; a scan nobody answers ends a search; a branch that fails, at once or after its slots, is
tried again three times and then is fault 49's event; a new number takes the next entry and its information is read.
What the model chose here: log 3, 113, 114, 115, 116, 117. -/
def Obligations.TipolBus : Prop :=
  (∀ (s : State) (answer : Bool), s.pw.phase = .active → s.tipOn = true → s.tip.op ≠ .idle → s.tip.called = false →
    s.tip.winAt ≠ some s.tm.tread → s.tm.idle = false →
    exec (.tipolCall answer true) s = .next { s with tip := { s.tip with winAt := some s.tm.tread, called := true, answered := answer, due := s.tm.tread + (match s.tip.op with | .scan => if answer then 33 else 0 | .latch => 3 + s.used TIPOL.CONVT | _ => 10) } }) ∧
  (∀ (s : State) (answer high : Bool), s.pw.phase = .active → s.tip.op = .idle ∨ s.tip.called = true ∨
    s.tip.winAt = some s.tm.tread ∨ s.tm.idle = true ∨ s.tipOn = false → exec (.tipolCall answer high) s = .next s) ∧
  (∀ s : State, s.pw.phase = .active → s.tipOn = true → s.tip.op = .idle → s.tip.search = none → ∃ t x, exec .search s = .next t ∧
    t.tip.op = .scan ∧ t.tip.search = some x ∧ x.lv = 0 ∧ x.stack = [] ∧ x.first = true ∧ t.tip.searchReq = false ∧
    t.bit TIPOL.STATUS.SEARCHING = true ∧ t.tip.nodes = s.tip.nodes) ∧
  (∀ s : State, s.pw.phase = .active → s.usedB TIPOL.CFG.POLLEN = true → s.tip.pollLast + s.used TIPOL.PERIOD ≤ s.tm.tread →
    s.tipOn = true → s.tip.op = .idle → s.tip.searchReq = false → ∃ t, exec .pollCycleStart s = .next t ∧ t.tip.op = .latch ∧
    t.tip.polling = true ∧ t.tip.pollReq = false ∧ t.tip.pollLast = s.tm.tread ∧ t.bit TIPOL.STATUS.POLLING = true) ∧
  (∀ s : State, s.pw.phase = .active → s.tm.tread < s.tip.pollLast + s.used TIPOL.PERIOD → exec .pollCycleStart s = .next s) ∧
  (∀ s : State, s.pw.phase = .active → s.usedB TIPOL.CFG.POLLEN = true → s.tipOn = true → s.tip.op = .idle → s.tip.searchReq = false →
    ∃ t, exec .pollnow s = .next t ∧ t.tip.op = .latch ∧ t.tip.polling = true ∧ t.tip.pollLast = s.tip.pollLast) ∧
  (∀ (s : State) (n : TipNode) (k : Nat) (l : List Nat), s.pw.phase = .active → s.tipOn = true → s.tip.op = .latch → s.tip.called = true →
    s.tip.due ≤ s.tm.tread → s.tipNode 0 = some n → n.polled = k :: l → ∃ t, exec .convtWaitEnd s = .next t ∧
    t.tip.op = .fetch 0 (k :: l) ∧ t.tip.called = false ∧ t.tip.nodes = s.tip.nodes) ∧
  (∀ s : State, s.pw.phase = .active → s.tm.tread < s.tip.due → exec .convtWaitEnd s = .next s) ∧
  (∀ s : State, s.pw.phase = .active → s.usedB TIPOL.CFG.EN = true → s.tip.low = 1 → s.bit TIPOL.STATUS.SHORTLIVE = false →
    ∃ t, exec (.tipolShortSample false) s = .next t ∧ t.holds 48 = true ∧ t.bit TIPOL.STATUS.SHORTLIVE = true ∧
    t.bit TIPOL.EVT.SHORT = true ∧ t.tip.op = .idle ∧ t.tip.nodes = s.tip.nodes) ∧
  (∀ s : State, s.pw.phase = .active → s.usedB TIPOL.CFG.EN = true → s.tip.high = 1 → s.bit TIPOL.STATUS.SHORTLIVE = true →
    ∃ t, exec (.tipolShortSample true) s = .next t ∧ t.holds 48 = false ∧ t.bit TIPOL.STATUS.SHORTLIVE = false) ∧
  (∀ s : State, s.pw.phase = .active → ∃ t, exec .clearreg s = .next t ∧ t.tip.nodes = [] ∧ t.get TIPOL.NODES = 0 ∧
    (s.tip.searchReq = false → s.tip.pollReq = false → t.tip.polling = false ∧ t.tip.op = .idle) ∧ (s.tip.search.isSome = true → t.get TIPOL.SRCHCNT = min (s.get TIPOL.SRCHCNT + 1) 65535)) ∧
  (∀ (s : State) (f : TipolFrame) (e k v tick : Nat) (l : List Nat) (n : TipNode), s.pw.phase = .active → s.tipOn = true →
    s.tip.called = true → s.tm.idle = false → s.tip.due ≤ s.tm.tread → s.tip.op = .fetch e (k :: l) → s.tipNode e = some n → tipDecode k f = .valid v tick →
    ∃ t m, exec (.tipolReply f) s = .next t ∧ t.tipNode e = some m ∧ look m.vals k = ⟨v, true, false, false⟩ ∧ m.fails = 0 ∧
    m.missing = false ∧ m.tick = tick ∧ m.num = n.num ∧ (∀ x, x ≠ e → t.tipNode x = s.tipNode x)) ∧
  (∀ (s : State) (f : TipolFrame) (e k : Nat) (l : List Nat) (n : TipNode), s.pw.phase = .active → s.tipOn = true → s.tip.called = true →
    s.tm.idle = false → s.tip.due ≤ s.tm.tread → s.tip.op = .fetch e (k :: l) → s.tipNode e = some n → f.edge = false →
    ∃ t m, exec (.tipolReply f) s = .next t ∧ t.tipNode e = some m ∧ m.fails = min 15 (n.fails + 1) ∧
    (look m.vals k).norep = true ∧ (look m.vals k).v = (look n.vals k).v ∧
    t.get TIPOL.NOREPCNT = min (s.get TIPOL.NOREPCNT + 1) 65535) ∧
  (∀ (s : State) (f : TipolFrame), s.pw.phase = .active → s.tip.called = false ∨ s.tm.tread < s.tip.due ∨ s.tm.idle = true ∨ s.tipOn = false →
    exec (.tipolReply f) s = .next s) ∧
  (∀ (s : State) (maps : List Word) (x : TipSearch), s.pw.phase = .active → maps.length ≤ 16 → s.tipOn = true → s.tip.op = .scan →
    s.tip.called = true → s.tip.due ≤ s.tm.tread → s.tip.search = some x → s.tip.answered = false → x.first = true →
    s.tip.searchReq = false → ∃ t, exec (.searchTransactionEnd maps) s = .next t ∧ t.tip.search = none ∧
    t.bit TIPOL.EVT.SRCHDONE = true ∧ t.get TIPOL.SRCHCNT = min (s.get TIPOL.SRCHCNT + 1) 65535 ∧ t.tip.nodes = s.tip.nodes) ∧
  (∀ (s : State) (maps : List Word) (x : TipSearch), s.pw.phase = .active → maps.length ≤ 16 → s.tipOn = true → s.tip.op = .scan →
    s.tip.called = true → s.tip.due ≤ s.tm.tread → s.tip.search = some x → s.tip.answered = false → x.first = false → x.tries < 3 →
    ∃ t, exec (.searchTransactionEnd maps) s = .next t ∧ t.tip.search = some { x with tries := x.tries + 1 } ∧ t.tip.op = .scan ∧
    t.tip.called = false ∧ t.get TIPOL.RETRYCNT = min (s.get TIPOL.RETRYCNT + 1) 65535) ∧
  (∀ (s : State) (maps : List Word) (x : TipSearch), s.pw.phase = .active → maps.length ≤ 16 → s.tipOn = true → s.tip.op = .scan →
    s.tip.called = true → s.tip.due ≤ s.tm.tread → s.tip.search = some x → s.tip.answered = false → x.first = false → 3 ≤ x.tries →
    ∃ t, exec (.searchTransactionEnd maps) s = .next t ∧ t.occurred.getLsbD 49 = true ∧ t.bit TIPOL.EVT.SRCHFAIL = true ∧
    t.bit TIPOL.EVT.SRCHDONE = true) ∧
  (∀ (s : State) (maps : List Word) (x : TipSearch) (num : List Nat) (new : List (Nat × List Nat)), s.pw.phase = .active →
    maps.length ≤ 16 → s.tipOn = true → s.tip.op = .scan → s.tip.called = true → s.scanOver maps = true → s.tip.search = some x →
    s.tip.answered = true → scanWalk x.lv x.pre maps 16 0 [] [] = some (num, new) → numOk (nibbles num) = true →
    s.tipKnown (nibbles num) = false → s.tipCount < 32 → ∃ t m, exec (.searchTransactionEnd maps) s = .next t ∧
    t.tipNode s.tipCount = some m ∧ m.num = nibbles num ∧ m.info = none ∧ t.tip.op = .info s.tipCount ∧ t.bit TIPOL.EVT.FOUND = true) ∧
  (∀ (s : State) (maps : List Word), s.pw.phase = .active → maps.length ≤ 16 → s.scanOver maps = false →
    exec (.searchTransactionEnd maps) s = .next s) ∧
  (∀ (s : State) (answer : Bool), s.pw.phase = .active → s.tipOn = true → s.tip.op ≠ .idle → s.tip.called = false →
    s.tip.winAt ≠ some s.tm.tread → s.tm.idle = false → s.tip.low = 0 →
    exec (.tipolCall answer false) s = .next { s with tip := { s.tip with winAt := some s.tm.tread, low := 1, high := 0 } }) ∧
  (∀ (s : State) (f : TipolFrame) (e k j : Nat) (l : List Nat), s.pw.phase = .active → s.tipOn = true → s.tip.called = true →
    s.tm.idle = false → s.tip.due ≤ s.tm.tread → s.tip.op = .fetch e (k :: j :: l) → ∃ t, exec (.tipolReply f) s = .next t ∧
    t.tip.op = .fetch e (j :: l) ∧ t.tip.further = true ∧ t.tip.due = s.tm.tread + 3 ∧ t.tip.called = true ∧ t.tip.winAt = some s.tm.tread) ∧
  (∀ (s : State) (maps : List Word) (x : TipSearch), s.pw.phase = .active → maps.length ≤ 16 → s.tipOn = true → s.tip.op = .scan →
    s.tip.called = true → s.scanOver maps = true → s.tip.search = some x → s.tip.answered = true →
    scanWalk x.lv x.pre maps 16 0 [] [] = none → x.tries < 3 → ∃ t, exec (.searchTransactionEnd maps) s = .next t ∧
    t.tip.search = some { x with tries := x.tries + 1 } ∧ t.tip.op = .scan ∧ t.tip.called = false ∧
    t.get TIPOL.RETRYCNT = min (s.get TIPOL.RETRYCNT + 1) 65535) ∧
  (∀ (s : State) (maps : List Word) (x : TipSearch), s.tip.search = some x → s.scanOver maps =
    (if s.tip.answered then decide (s.tip.due + scanWindows x maps ≤ s.tm.tread + 33) else decide (s.tip.due ≤ s.tm.tread)))

/-- The configuration guard (R439 to R443): every command of it needs its key; arming locks the fields and needs the
check value of the present content; opening disarms; an armed content that no longer gives its check value is defaulted;
PERSIST needs an armed guard and a ready flash; an image found at a start takes effect once. What the model chose here:
log 3, 118, 119, 133. -/
def Obligations.ConfigGuard : Prop :=
  (∀ (s : State) (key : Byte), s.pw.phase = .active → key ≠ 0xA5 → exec (.cfgArm key) s = .next (s.evt CFGGUARD.EVT.KEYREJ) ∧
    exec (.cfgOpen key) s = .next (s.evt CFGGUARD.EVT.KEYREJ) ∧ exec (.persist key) s = .next (s.evt CFGGUARD.EVT.KEYREJ) ∧
    exec (.unpersist key) s = .next (s.evt CFGGUARD.EVT.KEYREJ)) ∧
  (∀ s : State, s.pw.phase = .active → s.get2 CFGGUARD.CRC0 = s.cfgCheck → exec (.cfgArm 0xA5) s =
    .next (((s.setB CFGGUARD.STATUS.RWLOCK true).set CFGGUARD.STATUS.STATE 1).evt CFGGUARD.EVT.ARMED)) ∧
  (∀ s : State, s.pw.phase = .active → s.get2 CFGGUARD.CRC0 ≠ s.cfgCheck → ∃ t, exec (.cfgArm 0xA5) s = .next t ∧
    t.get CFGGUARD.STATUS.STATE = 2 ∧ t.rwLocked = true ∧ t.cfg.defPend = true ∧ t.bit CFGGUARD.EVT.DEFAULT = true ∧
    t.get CFGGUARD.DEFCNT = min (s.get CFGGUARD.DEFCNT + 1) 65535 ∧ t.occurred.getLsbD 56 = true ∧ t.cfgCheck = s.cfgCheck) ∧
  (∀ s : State, s.pw.phase = .active → exec (.cfgOpen 0xA5) s = .next (s.set CFGGUARD.STATUS.STATE 0)) ∧
  (∀ s : State, s.pw.phase = .active → s.guardArmed = true → s.tm.ltc % 16 = 0 → s.get2 CFGGUARD.CRC0 ≠ s.cfgCheck →
    ∃ t, exec .cfgGuardCheck s = .next t ∧ t.get CFGGUARD.STATUS.STATE = 2 ∧ t.cfg.defPend = true ∧ t.occurred.getLsbD 56 = true) ∧
  (∀ s : State, s.pw.phase = .active → s.guardArmed = false ∨ s.tm.ltc % 16 ≠ 0 ∨ s.get2 CFGGUARD.CRC0 = s.cfgCheck →
    exec .cfgGuardCheck s = .next s) ∧
  (∀ s : State, s.pw.phase = .active → exec (.persist 0xA5) s = .next (if s.guardArmed && s.flState == 1 then
    { s with cfg := { s.cfg with persist := some (some s.cfgImage) }, cal := { s.cal with commitDue := true } } else s.evt CFGGUARD.EVT.PFAIL)) ∧
  (∀ s : State, s.pw.phase = .active → exec (.unpersist 0xA5) s =
    .next { s with cfg := { s.cfg with persist := some none }, cal := { s.cal with commitDue := true } }) ∧
  (∀ (s : State) (i : CfgImage), s.pw.phase = .active → s.cfg.image = some i → s.cfg.imageDone = true → 1 ≤ s.tm.tread →
    exec (.configLoad false) s = .next { s with cfg := { s.cfg with image := none } } ∧
    ∃ t, exec (.configLoad true) s = .next t ∧ t.cfg.image = none ∧ t.bit SYS.STATUS.CFGLOAD = true ∧
      t.bit CFGGUARD.STATUS.PLOADED = true)

/-- Tables (R445, R446): words are staged one by one, a selection discards them, a check takes a valid table for
adoption and refuses any other; DEL removes the selected one; a checked table is in use from the next tread; one whose
CRC fails its recheck is BAD with fault 57. The life cycle (R451 to R453, R455): an arm needs the factory number and
lasts ten treads; a commit goes only to a permitted next state, from SERVICE to RETIRED only with the output open, with
the arm and the key, each refusal with its RESULT; with a READY flash its flush runs first, its end or its timeout puts
the new state and the pending wipe into the vault and begins the slot commit without an image, and the end of that
commit ends the wipe and resets the device; without such a flash the reset comes at once, with the new state, and what
it clears, in the vault; a second commit during the flush has no effect. The certificate pointer advances as it is read.
What the model chose here: log 3, 36 (without a READY flash the closing step comes at once, and a commit that would be
accepted during another closing step begins none), 37, 38, 121, 122, 133. -/
def Obligations.TablesAndLife : Prop :=
  (∀ (s : State) (v : Word), s.pw.phase = .active → s.tptr ≤ 67 → ∃ t, exec (.tdataAccess (some v)) s = .next t ∧
    look t.cfg.stage s.tptr = some v ∧ (∀ i, i ≠ s.tptr → look t.cfg.stage i = look s.cfg.stage i) ∧ t.tptr = s.tptr + 1 ∧
    t.bit TABLE.STATUS.STAGED = true ∧ t.cfg.tblRaw = s.cfg.tblRaw) ∧
  (∀ s : State, s.pw.phase = .active → s.tptr ≤ 67 → ∃ t, exec (.tdataAccess none) s = .next t ∧ t.cfg = s.cfg ∧ t.tptr = s.tptr + 1) ∧
  (∀ (s : State) (wr : Option Word), s.pw.phase = .active → 67 < s.tptr →
    exec (.tdataAccess wr) s = .next (s.evt TABLE.EVT.CFGREJ)) ∧
  (∀ (s : State) (v : Word), s.pw.phase = .active → v.toNat % 8 ≠ 0 → ∃ t, exec (.tselWrite v) s = .next t ∧ t.tsel = v.toNat % 8 ∧
    t.cfg = { s.cfg with stage := [] } ∧ t.bit TABLE.STATUS.STAGED = false) ∧
  (∀ (s : State) (v : Word), s.pw.phase = .active → v.toNat % 8 = 0 → exec (.tselWrite v) s = .next (s.evt TABLE.EVT.CFGREJ)) ∧
  (∀ (s : State) (l : List Word), s.pw.phase = .active → l = (List.range 68).map (fun i => (look s.cfg.stage i).getD 0) →
    ∃ t, exec .tableCheck s = .next t ∧ t.cfg.stage = [] ∧ t.cfg.tblRaw = s.cfg.tblRaw ∧
    (tblValid s.tsel l = true → look t.cfg.adopt s.tsel = some l ∧ t.cfg.adoptAt = s.tm.tread) ∧
    (tblValid s.tsel l = false → t.cfg.adopt = s.cfg.adopt ∧ t.bit TABLE.EVT.REFUSE = true)) ∧
  (∀ s : State, s.pw.phase = .active → ∃ t, exec .tableDel s = .next t ∧ look t.cfg.del s.tsel = true ∧
    look t.cfg.adopt s.tsel = none ∧ t.cfg.tblState = s.cfg.tblState) ∧
  (∀ (s : State) (k : Nat) (l : List Word), s.pw.phase = .active → s.cfg.adopt = [(k, some l)] → s.cfg.adoptAt < s.tm.tread →
    ∃ t, exec .tableAdopt s = .next t ∧ look t.cfg.tblState k = .valid ∧ look t.cfg.tblRaw k = l ∧
    look t.cfg.tblPts k = tblPoints l ∧ t.cfg.adopt = [] ∧ t.bit TABLE.EVT.ADOPT = true) ∧
  (∀ s : State, s.pw.phase = .active → s.tm.tread ≤ s.cfg.adoptAt → exec .tableAdopt s = .next s) ∧
  (∀ (s : State) (k : Fin 7), s.pw.phase = .active → s.tm.ltc % 16 = 0 → look s.cfg.tblState (k.val + 1) = .valid →
    ∃ t, exec (.tableRecheck [k]) s = .next t ∧ look t.cfg.tblState (k.val + 1) = .bad ∧ t.holds 57 = true ∧
    t.bit TABLE.EVT.BAD = true ∧ look t.cfg.tblPts (k.val + 1) = []) ∧
  (∀ (s : State) (bad : List (Fin 7)), s.pw.phase = .active → s.tm.ltc % 16 ≠ 0 → exec (.tableRecheck bad) s = .next s) ∧
  (∀ (s : State) (w : Word), s.pw.phase = .active → s.armNumber w = s.vault.fnum → exec (.lifeArm w) s =
    .next ((({ s with cfg := { s.cfg with armAt := some s.tm.tread } }).setB LIFE.STATUS.ARMED true).evt LIFE.EVT.ARM)) ∧
  (∀ (s : State) (w : Word), s.pw.phase = .active → s.armNumber w ≠ s.vault.fnum → exec (.lifeArm w) s =
    .next ((s.set LIFE.RESULT 2).evt LIFE.EVT.REJ)) ∧
  (∀ (s : State) (a : Nat), s.pw.phase = .active → s.cfg.armAt = some a → exec .lifeArmExpire s =
    .next (if a + 10 ≤ s.tm.tread then ({ s with cfg := { s.cfg with armAt := none } }).setB LIFE.STATUS.ARMED false else s)) ∧
  (∀ (s : State) (a g : Nat), s.pw.phase = .active → s.pw.leave = none → s.pw.closing = none → s.bit LIFE.STATUS.BUSY = false →
    g = s.get { LIFE.TARGET with w := 2 } → lifeOk s.life g s.vault.segment = true →
    (g = 3 → s.bit BAN.STATUS.HSCMD = false ∧ s.bit BAN.STATUS.LSCMD = false) → s.cfg.armAt = some a → s.tm.tread < a + 10 →
    s.flState ≠ 1 → ∃ t, exec (.lifeCommit 0x5AC3) s = .next t ∧ t.vault.life = g ∧ t.vault.segment = (if s.vault.life = 3 then s.vault.segment + 1 else s.vault.segment) ∧
    t.vault.segLtc = (if g = 1 then s.tm.ltc else s.vault.segLtc) ∧ t.vault.guard = (if g = 1 then 0 else s.vault.guard) ∧
    t.vault.lifeDone = true ∧ t.Cleared ∧ t.vault.factory = s.vault.factory ∧ t.pw.phase = .off ∧ t.pw.causes = s.pw.causes ||| 8 ∧ t.vault.wipe = true) ∧
  (∀ (s : State) (v : Word), s.pw.phase = .active → s.pw.leave = none → s.bit LIFE.STATUS.BUSY = false →
    lifeOk s.life (s.get { LIFE.TARGET with w := 2 }) s.vault.segment = false → ∃ t, exec (.lifeCommit v) s = .next t ∧
    t.get LIFE.RESULT = 3 ∧ t.bit LIFE.EVT.REJ = true ∧ t.cfg.armAt = none ∧ t.vault = s.vault ∧ t.pw = s.pw) ∧
  (∀ s : State, s.pw.phase = .active → exec .certdataRead s =
    .next (s.set { IDENT.CERTPTR with w := 9 } (s.get { IDENT.CERTPTR with w := 9 } + 1))) ∧
  (∀ (s : State) (a g : Nat), s.pw.phase = .active → s.pw.leave = none → s.pw.closing = none → s.bit LIFE.STATUS.BUSY = false →
    g = s.get { LIFE.TARGET with w := 2 } → lifeOk s.life g s.vault.segment = true →
    (g = 3 → s.bit BAN.STATUS.HSCMD = false ∧ s.bit BAN.STATUS.LSCMD = false) → s.cfg.armAt = some a → s.tm.tread < a + 10 →
    s.flState = 1 → ∃ t, exec (.lifeCommit 0x5AC3) s = .next t ∧ t.pw = { s.pw with closing := some .life } ∧ t.cfg.target = some g ∧
    t.cfg.armAt = none ∧ t.bit LIFE.STATUS.BUSY = true ∧ t.vault = s.vault) ∧
  (∀ (s : State) (e : OpEnd) (g : Nat), s.pw.phase = .active → s.pw.leave = none → s.pw.closing = some .life → s.cfg.target = some g →
    (s.opDone e).flState ≠ 1 → ∃ t, exec (.flashOpDone e) s = .next t ∧ t.vault.life = g ∧ t.vault.segment = (if s.vault.life = 3 then s.vault.segment + 1 else s.vault.segment) ∧
    t.vault.segLtc = (if g = 1 then s.tm.ltc else s.vault.segLtc) ∧ t.vault.guard = (if g = 1 then 0 else s.vault.guard) ∧
    t.vault.lifeDone = true ∧ t.Cleared ∧ t.vault.factory = s.vault.factory ∧ t.pw.phase = .off ∧ t.pw.causes = s.pw.causes ||| 8) ∧
  (∀ (s : State) (e : OpEnd) (g : Nat), s.pw.phase = .active → s.pw.leave = none → s.pw.closing = some .life → s.cfg.target = some g →
    (s.opDone e).flushOver = true → (s.opDone e).flState = 1 → ∃ t, exec (.flashOpDone e) s = .next t ∧ t.vault.life = g ∧
    t.vault.wipe = true ∧ t.vault.lifeDone = true ∧ t.pw = { s.pw with closing := some .wipe } ∧ t.fl.op = some (.slot true) ∧
    t.fl.slotNew.isSome = true ∧ t.cal.commitDue = false ∧ t.flState = 1) ∧
  (∀ (s : State) (g : Nat), s.pw.phase = .active → s.pw.leave = none → s.pw.closing = some .life → s.cfg.target = some g →
    s.flState = 1 → ∃ t, exec .closingFlushTimeout s = .next t ∧ t.vault.life = g ∧ t.vault.wipe = true ∧
    t.pw = { s.pw with closing := some .wipe } ∧ t.fl.op = some (.slot true)) ∧
  (∀ (s : State) (c : Nat) (sl : CalSlot) (p : Option (Option CfgImage)), s.pw.phase = .active → s.pw.leave = none →
    s.pw.closing = some .wipe → s.fl.op = some (.slot true) → s.fl.slotNew = some (sl, p) → ∃ t, exec (.flashOpDone (.ok c)) s = .next t ∧
    t.vault.wipe = false ∧ t.vault.life = s.vault.life ∧ t.Cleared ∧ t.pw.phase = .off ∧ t.pw.causes = s.pw.causes ||| 8) ∧
  (∀ (s : State) (g : Nat), s.pw.phase = .active → s.pw.leave = none → s.pw.closing = some .life → s.cfg.target = some g →
    s.flState ≠ 1 → ∃ t, exec .closingFlushTimeout s = .next t ∧ t.vault.life = g ∧ t.vault.segment = (if s.vault.life = 3 then s.vault.segment + 1 else s.vault.segment) ∧
    t.vault.segLtc = (if g = 1 then s.tm.ltc else s.vault.segLtc) ∧ t.vault.guard = (if g = 1 then 0 else s.vault.guard) ∧
    t.vault.lifeDone = true ∧ t.Cleared ∧ t.vault.factory = s.vault.factory ∧ t.pw.phase = .off ∧ t.pw.causes = s.pw.causes ||| 8) ∧
  (∀ (s : State) (v : Word), s.pw.phase = .active → s.pw.leave = none → s.bit LIFE.STATUS.BUSY = false →
    s.get { LIFE.TARGET with w := 2 } = 3 → s.life = 2 → s.bit BAN.STATUS.HSCMD = true ∨ s.bit BAN.STATUS.LSCMD = true →
    ∃ t, exec (.lifeCommit v) s = .next t ∧ t.get LIFE.RESULT = 4 ∧ t.bit LIFE.EVT.REJ = true ∧ t.cfg.armAt = none ∧ t.vault = s.vault ∧ t.pw = s.pw) ∧
  (∀ (s : State) (v : Word) (g : Nat), s.pw.phase = .active → s.pw.leave = none → s.bit LIFE.STATUS.BUSY = false → g = s.get { LIFE.TARGET with w := 2 } →
    lifeOk s.life g s.vault.segment = true → (g = 3 → s.bit BAN.STATUS.HSCMD = false ∧ s.bit BAN.STATUS.LSCMD = false) →
    (∀ a, s.cfg.armAt = some a → a + 10 ≤ s.tm.tread) → ∃ t, exec (.lifeCommit v) s = .next t ∧ t.get LIFE.RESULT = 5 ∧
    t.bit LIFE.EVT.REJ = true ∧ t.cfg.armAt = none ∧ t.vault = s.vault ∧ t.pw = s.pw) ∧
  (∀ (s : State) (v : Word) (a g : Nat), s.pw.phase = .active → s.pw.leave = none → s.bit LIFE.STATUS.BUSY = false →
    g = s.get { LIFE.TARGET with w := 2 } → lifeOk s.life g s.vault.segment = true →
    (g = 3 → s.bit BAN.STATUS.HSCMD = false ∧ s.bit BAN.STATUS.LSCMD = false) → s.cfg.armAt = some a → s.tm.tread < a + 10 →
    v ≠ 0x5AC3 → ∃ t, exec (.lifeCommit v) s = .next t ∧ t.get LIFE.RESULT = 6 ∧ t.bit LIFE.EVT.REJ = true ∧ t.cfg.armAt = none ∧
    t.vault = s.vault ∧ t.pw = s.pw) ∧
  (∀ (s : State) (v : Word), s.pw.phase = .active → s.pw.leave = none → s.bit LIFE.STATUS.BUSY = true → exec (.lifeCommit v) s = .next s) ∧
  (∀ (s : State) (a g : Nat), s.pw.phase = .active → s.pw.leave = none → s.pw.closing.isSome = true → s.bit LIFE.STATUS.BUSY = false →
    g = s.get { LIFE.TARGET with w := 2 } → lifeOk s.life g s.vault.segment = true →
    (g = 3 → s.bit BAN.STATUS.HSCMD = false ∧ s.bit BAN.STATUS.LSCMD = false) → s.cfg.armAt = some a → s.tm.tread < a + 10 →
    exec (.lifeCommit 0x5AC3) s = .next s) ∧
  (∀ now target n : Nat, lifeOk now target n = true ↔
    (now = 0 ∧ target = 1) ∨ (now = 1 ∧ target = 2) ∨ (now = 2 ∧ target = 3) ∨ (now = 3 ∧ target = 1 ∧ n < 2))

end Statements
end

