-- ==== Sys2Proof/Laws/Ops.lean ====
section
/-! SUPPORT. Laws/Ops.lean: what the operations of Machine/Ops.lean do, once and for all later proofs: sparse tables, register
words and fields, fault conditions, the power gate and the end of a command. -/
namespace Sys2Proof.Machine

/-! ### Sparse tables -/

theorem mapGet_drop {α : Type} (d : Nat → α) (m : SMap α) (k j : Nat) :
    mapGet d (mapDrop m k) j = if j = k then d j else mapGet d m j := by
  induction m with
  | nil => simp [mapDrop, mapGet]
  | cons e m ih =>
    obtain ⟨a, v⟩ := e
    by_cases h : a = k
    · subst h
      by_cases hj : j = a
      · subst hj; simp [mapDrop, ih]
      · simp [mapDrop, ih, mapGet, hj, Ne.symm hj]
    · by_cases hj : j = k
      · subst hj; simp [mapDrop, h, mapGet, ih]
      · simp [mapDrop, h, mapGet, ih, hj]

theorem mapGet_ins_self {α : Type} (d : Nat → α) (m : SMap α) (k : Nat) (v : α)
    (h : ∀ e ∈ m, e.1 ≠ k) : mapGet d (mapIns m k v) k = v := by
  induction m with
  | nil => simp [mapIns, mapGet]
  | cons e m ih =>
    obtain ⟨a, w⟩ := e
    have ha : a ≠ k := h (a, w) (by simp)
    unfold mapIns
    split
    · simp [mapGet]
    · simp only [mapGet, ha, if_false]
      exact ih (fun e he => h e (by simp [he]))

theorem mapGet_ins_ne {α : Type} (d : Nat → α) (m : SMap α) (k j : Nat) (v : α) (hj : j ≠ k) :
    mapGet d (mapIns m k v) j = mapGet d m j := by
  induction m with
  | nil => simp [mapIns, mapGet, Ne.symm hj]
  | cons e m ih =>
    obtain ⟨a, w⟩ := e
    unfold mapIns
    split
    · simp [mapGet, Ne.symm hj]
    · simp [mapGet, ih]

theorem mapDrop_keys {α : Type} (m : SMap α) (k : Nat) : ∀ e ∈ mapDrop m k, e.1 ≠ k := by
  induction m with
  | nil => simp [mapDrop]
  | cons e m ih =>
    obtain ⟨a, w⟩ := e
    unfold mapDrop
    split
    · exact ih
    · rename_i h
      intro e he
      rcases List.mem_cons.1 he with rfl | he
      · exact h
      · exact ih e he

/-- A table reads at `k` what was written there, and elsewhere what it read before. -/
theorem mapGet_set {α : Type} [DecidableEq α] (d : Nat → α) (m : SMap α) (k j : Nat) (v : α) :
    mapGet d (mapSet d m k v) j = if j = k then v else mapGet d m j := by
  unfold mapSet
  split
  · rename_i hv
    rw [mapGet_drop]
    by_cases hj : j = k
    · subst hj; simp [hv]
    · simp [hj]
  · by_cases hj : j = k
    · subst hj; simp [mapGet_ins_self d _ j v (mapDrop_keys m j)]
    · simp [hj, mapGet_ins_ne d _ k j v hj, mapGet_drop]

theorem look_put {α : Type} [Inhabited α] [DecidableEq α] (m : SMap α) (k j : Nat) (v : α) :
    look (put m k v) j = if j = k then v else look m j := mapGet_set _ m k j v

@[simp] theorem look_put_self {α : Type} [Inhabited α] [DecidableEq α] (m : SMap α) (k : Nat) (v : α) :
    look (put m k v) k = v := by simp [look_put]

theorem look_put_ne {α : Type} [Inhabited α] [DecidableEq α] (m : SMap α) (k j : Nat) (v : α) (h : j ≠ k) :
    look (put m k v) j = look m j := by simp [look_put, h]

theorem look_adj {α : Type} [Inhabited α] [DecidableEq α] (m : SMap α) (k j : Nat) (f : α → α) :
    look (adj m k f) j = if j = k then f (look m k) else look m j := look_put m k j _

theorem mapWfFrom_mono {α : Type} [DecidableEq α] (d : Nat → α) (m : SMap α) (b c : Nat) (h : c ≤ b)
    (hm : mapWfFrom d (some b) m = true) : mapWfFrom d (some c) m = true := by
  cases m with
  | nil => rfl
  | cons e m =>
    obtain ⟨k, v⟩ := e
    simp only [mapWfFrom, Bool.and_eq_true, decide_eq_true_eq] at hm ⊢
    exact ⟨⟨by omega, hm.1.2⟩, hm.2⟩

theorem mapWfFrom_drop {α : Type} [DecidableEq α] (d : Nat → α) (m : SMap α) (k : Nat) :
    ∀ b, mapWfFrom d b m = true → mapWfFrom d b (mapDrop m k) = true := by
  induction m with
  | nil => intro b _; rfl
  | cons e m ih =>
    obtain ⟨a, v⟩ := e
    intro b hm
    simp only [mapWfFrom, Bool.and_eq_true, decide_eq_true_eq] at hm
    unfold mapDrop
    split
    · refine ih b ?_
      cases b with
      | none =>
        cases m with
        | nil => rfl
        | cons e m => obtain ⟨k', v'⟩ := e; simp only [mapWfFrom, Bool.and_eq_true, decide_eq_true_eq] at hm ⊢; exact ⟨⟨trivial, hm.2.1.2⟩, hm.2.2⟩
      | some b => exact mapWfFrom_mono d m a b (by simpa using Nat.le_of_lt (by simpa using hm.1.1)) hm.2
    · simp only [mapWfFrom, Bool.and_eq_true, decide_eq_true_eq]
      exact ⟨hm.1, ih _ hm.2⟩

theorem mapWfFrom_ins {α : Type} [DecidableEq α] (d : Nat → α) (m : SMap α) (k : Nat) (v : α) (hv : v ≠ d k)
    (hk : ∀ e ∈ m, e.1 ≠ k) :
    ∀ b, mapWfFrom d b m = true → (∀ b', b = some b' → b' < k) → mapWfFrom d b (mapIns m k v) = true := by
  induction m with
  | nil => intro b _ hb; cases b <;> simp_all [mapIns, mapWfFrom]
  | cons e m ih =>
    obtain ⟨a, w⟩ := e
    intro b hm hb
    simp only [mapWfFrom, Bool.and_eq_true, decide_eq_true_eq] at hm
    have ha : a ≠ k := hk (a, w) (by simp)
    unfold mapIns
    split
    · rename_i hlt
      cases b <;> simp_all [mapWfFrom]
    · simp only [mapWfFrom, Bool.and_eq_true, decide_eq_true_eq]
      exact ⟨hm.1, ih (fun e he => hk e (by simp [he])) _ hm.2 (by intro b' h; cases h; omega)⟩

/-- A write keeps the canonical form of a table. -/
theorem mapSet_wf {α : Type} [DecidableEq α] (d : Nat → α) (m : SMap α) (k : Nat) (v : α) (h : mapWf d m = true) :
    mapWf d (mapSet d m k v) = true := by
  unfold mapSet mapWf
  split
  · exact mapWfFrom_drop d m k none h
  · rename_i hv
    exact mapWfFrom_ins d _ k v hv (mapDrop_keys m k) none (mapWfFrom_drop d m k none h) (by simp)

/-! ### Register words and fields -/

theorem State.reg_setReg (s : State) (a b : Nat) (w : Word) :
    (s.setReg a w).reg b = if b = a then w else s.reg b := mapGet_set _ s.regs a b w

@[simp] theorem State.reg_setReg_self (s : State) (a : Nat) (w : Word) : (s.setReg a w).reg a = w := by
  simp [State.reg_setReg]

theorem State.reg_setReg_ne (s : State) (a b : Nat) (w : Word) (h : b ≠ a) : (s.setReg a w).reg b = s.reg b := by
  simp [State.reg_setReg, h]

theorem fieldOf_lt (x : Word) (lo w : Nat) : fieldOf x lo w < 2 ^ w := Nat.mod_lt _ (Nat.pow_pos (by decide))

theorem fieldOf_all (x : Word) : fieldOf x 0 16 = x.toNat := by
  unfold fieldOf
  rw [Nat.pow_zero, Nat.div_one]
  exact Nat.mod_eq_of_lt x.isLt

theorem split_field (n lo w : Nat) :
    n = n % 2 ^ lo + n / 2 ^ lo % 2 ^ w * 2 ^ lo + n / 2 ^ (lo + w) * 2 ^ (lo + w) := by
  have h1 := Nat.div_add_mod n (2 ^ lo)
  have h2 := Nat.div_add_mod (n / 2 ^ lo) (2 ^ w)
  have h3 : n / 2 ^ lo / 2 ^ w = n / 2 ^ (lo + w) := by rw [Nat.div_div_eq_div_mul, Nat.pow_add]
  rw [h3] at h2
  have h4 : n / 2 ^ lo * 2 ^ lo = n / 2 ^ (lo + w) * 2 ^ (lo + w) + n / 2 ^ lo % 2 ^ w * 2 ^ lo := by
    conv => lhs; rw [← h2]
    rw [Nat.add_mul, Nat.pow_add]; ring
  rw [Nat.mul_comm (2 ^ lo)] at h1
  omega

theorem withField_toNat (x : Word) (lo w v : Nat) (h : lo + w ≤ 16) :
    (withField x lo w v).toNat = x.toNat % 2 ^ lo + v % 2 ^ w * 2 ^ lo + x.toNat / 2 ^ (lo + w) * 2 ^ (lo + w) := by
  have hx := split_field x.toNat lo w
  have hm : x.toNat % 2 ^ lo < 2 ^ lo := Nat.mod_lt _ (Nat.pow_pos (by decide))
  have hv : v % 2 ^ w < 2 ^ w := Nat.mod_lt _ (Nat.pow_pos (by decide))
  have hq : x.toNat / 2 ^ (lo + w) < 2 ^ (16 - (lo + w)) := by
    rw [Nat.div_lt_iff_lt_mul (Nat.pow_pos (by decide)), ← Nat.pow_add, Nat.sub_add_cancel h]; exact x.isLt
  have h16 : (2 : Nat) ^ (16 - (lo + w)) * 2 ^ (lo + w) = 65536 := by
    rw [← Nat.pow_add, Nat.sub_add_cancel h]
  have hlw : (2 : Nat) ^ (lo + w) = 2 ^ w * 2 ^ lo := by rw [Nat.pow_add, Nat.mul_comm]
  have e1 : (v % 2 ^ w + 1) * 2 ^ lo ≤ 2 ^ w * 2 ^ lo := Nat.mul_le_mul_right _ hv
  have e2 : (x.toNat / 2 ^ (lo + w) + 1) * 2 ^ (lo + w) ≤ 2 ^ (16 - (lo + w)) * 2 ^ (lo + w) := Nat.mul_le_mul_right _ hq
  rw [Nat.add_mul, Nat.one_mul] at e1 e2
  unfold withField fieldOf
  rw [BitVec.toNat_ofNat, Nat.mod_eq_of_lt] <;> omega

theorem fieldOf_of (lo w a f b : Nat) (x : Word) (hx : x.toNat = a + f * 2 ^ lo + b * 2 ^ (lo + w)) (ha : a < 2 ^ lo)
    (hf : f < 2 ^ w) : fieldOf x lo w = f := by
  unfold fieldOf
  rw [hx, Nat.pow_add]
  have h1 : (a + f * 2 ^ lo + b * (2 ^ lo * 2 ^ w)) / 2 ^ lo = f + b * 2 ^ w := by
    have : a + f * 2 ^ lo + b * (2 ^ lo * 2 ^ w) = a + (f + b * 2 ^ w) * 2 ^ lo := by ring
    rw [this, Nat.add_mul_div_right _ _ (Nat.pow_pos (by decide)), Nat.div_eq_of_lt ha, Nat.zero_add]
  rw [h1, Nat.add_mul_mod_self_right, Nat.mod_eq_of_lt hf]

/-- A field reads what was written to it, modulo its width. -/
theorem fieldOf_withField (x : Word) (lo w v : Nat) (h : lo + w ≤ 16) : fieldOf (withField x lo w v) lo w = v % 2 ^ w :=
  fieldOf_of lo w _ _ _ _ (withField_toNat x lo w v h) (Nat.mod_lt _ (Nat.pow_pos (by decide))) (Nat.mod_lt _ (Nat.pow_pos (by decide)))

/-- Fields that share no bit do not disturb each other. -/
theorem fieldOf_withField_ne (x : Word) (lo w v lo' w' : Nat) (h : lo + w ≤ 16) (hd : lo' + w' ≤ lo ∨ lo + w ≤ lo') :
    fieldOf (withField x lo w v) lo' w' = fieldOf x lo' w' := by
  apply Nat.eq_of_testBit_eq
  intro i
  have key : ∀ j, (j < lo ∨ lo + w ≤ j) → (withField x lo w v).toNat.testBit j = x.toNat.testBit j := by
    intro j hj
    have hx := split_field x.toNat lo w
    have hw := withField_toNat x lo w v h
    have hm : x.toNat % 2 ^ lo < 2 ^ lo := Nat.mod_lt _ (Nat.pow_pos (by decide))
    have low : ∀ f b : Nat, (x.toNat % 2 ^ lo + f * 2 ^ lo + b * 2 ^ (lo + w)) % 2 ^ lo = x.toNat % 2 ^ lo := by
      intro f b
      have : x.toNat % 2 ^ lo + f * 2 ^ lo + b * 2 ^ (lo + w) = x.toNat % 2 ^ lo + (f + b * 2 ^ w) * 2 ^ lo := by
        rw [Nat.pow_add]; ring
      rw [this, Nat.add_mul_mod_self_right, Nat.mod_mod]
    have high : ∀ f b : Nat, f < 2 ^ w → (x.toNat % 2 ^ lo + f * 2 ^ lo + b * 2 ^ (lo + w)) / 2 ^ (lo + w) = b := by
      intro f b hf
      have hlt : x.toNat % 2 ^ lo + f * 2 ^ lo < 2 ^ (lo + w) := by
        have e : (f + 1) * 2 ^ lo ≤ 2 ^ w * 2 ^ lo := Nat.mul_le_mul_right _ hf
        rw [Nat.add_mul, Nat.one_mul] at e
        rw [Nat.pow_add, Nat.mul_comm (2 ^ lo)]; omega
      rw [Nat.add_mul_div_right _ _ (Nat.pow_pos (by decide)), Nat.div_eq_of_lt hlt, Nat.zero_add]
    rcases hj with hj | hj
    · have e : (withField x lo w v).toNat % 2 ^ lo = x.toNat % 2 ^ lo := by rw [hw]; exact low _ _
      have := congrArg (fun n => Nat.testBit n j) e
      simpa [Nat.testBit_mod_two_pow, hj] using this
    · have e : (withField x lo w v).toNat / 2 ^ (lo + w) = x.toNat / 2 ^ (lo + w) := by
        rw [hw]; exact high _ _ (Nat.mod_lt _ (Nat.pow_pos (by decide)))
      have := congrArg (fun n => Nat.testBit n (j - (lo + w))) e
      simpa [Nat.testBit_div_two_pow, Nat.sub_add_cancel hj, Nat.add_comm (lo + w), Nat.add_sub_cancel' hj] using this
  unfold fieldOf
  rw [Nat.testBit_mod_two_pow, Nat.testBit_mod_two_pow, Nat.testBit_div_two_pow, Nat.testBit_div_two_pow]
  by_cases hi : i < w'
  · rw [key (i + lo') (by omega)]
  · simp [hi]

/-- A field lies within its word. -/
def Fld.ok (f : Fld) : Bool := decide (f.lo + f.w ≤ 16)

theorem State.get_set (s : State) (f : Fld) (v : Nat) (h : f.ok = true) : (s.set f v).get f = v % 2 ^ f.w := by
  simp only [State.get, State.set, State.reg_setReg_self]
  exact fieldOf_withField _ _ _ _ (by simpa [Fld.ok] using h)

/-- Two fields share no bit. -/
def Fld.apart (f g : Fld) : Bool := f.addr != g.addr || decide (g.lo + g.w ≤ f.lo ∨ f.lo + f.w ≤ g.lo)

theorem State.get_set_ne (s : State) (f g : Fld) (v : Nat) (h : f.ok = true) (hd : f.apart g = true) :
    (s.set f v).get g = s.get g := by
  simp only [State.get, State.set]
  by_cases ha : g.addr = f.addr
  · rw [ha, State.reg_setReg_self]
    refine fieldOf_withField_ne _ _ _ _ _ _ (by simpa [Fld.ok] using h) ?_
    simpa [Fld.apart, ha] using hd
  · rw [State.reg_setReg_ne _ _ _ _ ha]

theorem State.reg_set_ne (s : State) (f : Fld) (v a : Nat) (h : a ≠ f.addr) : (s.set f v).reg a = s.reg a :=
  State.reg_setReg_ne _ _ _ _ h

theorem State.reg_set_all (s : State) (p w v : Nat) : (s.set ⟨p, w, 0, 16⟩ v).reg (linear p w) = BitVec.ofNat 16 v := by
  show (s.setReg (linear p w) _).reg (linear p w) = _
  rw [State.reg_setReg_self]
  apply BitVec.eq_of_toNat_eq
  rw [withField_toNat _ 0 16 v (by decide)]
  have : (s.reg (linear p w)).toNat / 65536 = 0 := Nat.div_eq_of_lt (s.reg (linear p w)).isLt
  simp [this, Nat.mod_one, Fld.addr]

theorem State.bit_setB (s : State) (p w l : Nat) (b : Bool) (h : l < 16) : (s.setB ⟨p, w, l, 1⟩ b).bit ⟨p, w, l, 1⟩ = b := by
  unfold State.bit State.setB
  rw [State.get_set _ _ _ (by simp [Fld.ok]; omega)]
  cases b <;> rfl

theorem State.bit_set_ne (s : State) (f g : Fld) (v : Nat) (h : f.ok = true) (hd : f.apart g = true) :
    (s.set f v).bit g = s.bit g := by
  unfold State.bit; rw [State.get_set_ne s f g v h hd]

theorem State.bit_evt (s : State) (p w l : Nat) (h : l < 16) : (s.evt ⟨p, w, l, 1⟩).bit ⟨p, w, l, 1⟩ = true := by
  unfold State.bit State.evt
  rw [State.get_set _ _ _ (by simp [Fld.ok]; omega)]
  rfl

/-! ### Fault conditions -/

theorem State.holds_cond (s : State) (i j : Nat) (b : Bool) (hi : i < 64) :
    (s.cond i b).holds j = if j = i then b else s.holds j := by
  unfold State.cond State.holds
  by_cases hj : j = i
  · subst hj
    cases b
    · simp [hi]
    · simp [hi]
  · cases b
    · by_cases hl : i < j
      · have : j - i ≠ 0 := by omega
        simp [BitVec.getLsbD_shiftLeft, hj, BitVec.getLsbD_one, this]
        intro h; exact BitVec.lt_of_getLsbD h
      · have : j < i := by omega
        simp [BitVec.getLsbD_shiftLeft, hj, this]
        intro h; exact BitVec.lt_of_getLsbD h
    · by_cases hl : i < j
      · have : j - i ≠ 0 := by omega
        simp [BitVec.getLsbD_shiftLeft, hj, BitVec.getLsbD_one, this]
      · have : j < i := by omega
        simp [BitVec.getLsbD_shiftLeft, hj, this]

/-! ### The power gate and the end of a command -/

theorem whenActive_active (c : List Part) (s : State) (k : State → State) (h : s.pw.phase = .active) :
    whenActive c s k = .next (s.only (k s) c) := by simp [whenActive, h]

theorem whenActive_idle (c : List Part) (s : State) (k : State → State) (h : s.pw.phase ≠ .active) :
    whenActive c s k = .next s := by simp [whenActive, h]

theorem whenActing_active (s : State) (k : State → State) (h : s.pw.phase = .active) :
    whenActing s k = .next (s.settle (k s)) := by simp [whenActing, h]

theorem whenActing_idle (s : State) (k : State → State) (h : s.pw.phase ≠ .active) : whenActing s k = .next s := by
  simp [whenActing, h]

@[simp] theorem State.only_pw (s t : State) (c : List Part) : (s.only t c).pw = s.pw := rfl
@[simp] theorem State.only_pending (s t : State) (c : List Part) : (s.only t c).pending = s.pending := rfl
@[simp] theorem State.only_regs (s t : State) (c : List Part) : (s.only t c).regs = t.regs := rfl
@[simp] theorem State.only_condNow (s t : State) (c : List Part) : (s.only t c).condNow = t.condNow := rfl
@[simp] theorem State.only_occurred (s t : State) (c : List Part) : (s.only t c).occurred = t.occurred := rfl
@[simp] theorem State.only_evented (s t : State) (c : List Part) : (s.only t c).evented = t.evented := rfl
@[simp] theorem State.only_free (s t : State) (c : List Part) : (s.only t c).free = t.free := rfl
@[simp] theorem State.only_reg (s t : State) (c : List Part) (a : Nat) : (s.only t c).reg a = t.reg a := rfl
@[simp] theorem State.only_get (s t : State) (c : List Part) (f : Fld) : (s.only t c).get f = t.get f := rfl
@[simp] theorem State.only_bit (s t : State) (c : List Part) (f : Fld) : (s.only t c).bit f = t.bit f := rfl

/-- A command that changes only the parts it acts on ends exactly where its meaning does. -/
theorem State.only_same (s : State) (c : List Part) : s.only s c = s := by
  obtain ⟨⟩ := s
  simp [State.only, State.keep]

theorem whenPowered_on (s : State) (k : State → State) (h : s.powered = true) :
    whenPowered s k = .next (s.settle (k s)) := by simp [whenPowered, h]

theorem whenPowered_off (s : State) (k : State → State) (h : s.powered = false) : whenPowered s k = .next s := by
  simp [whenPowered, h]

theorem State.settle_stay (s t : State) (h : t.pw.leave = none) :
    s.settle t = s.keep { t with pw := { t.pw with phase := s.pw.phase } } := by simp [State.settle, h]

theorem State.settle_leave (s t : State) (l : Leave) (h : t.pw.leave = some l) : s.settle t = s.keep (t.left l) := by
  simp [State.settle, h]

/-- A command that touches neither power, the queue nor the vault ends exactly where its meaning does. -/
theorem State.settle_plain (s t : State) (hl : s.pw.leave = none) (hp : t.pw = s.pw) (hv : t.vault = s.vault)
    (hq : t.pending = s.pending) : s.settle t = t := by
  rw [State.settle_stay s t (by rw [hp]; exact hl)]
  obtain ⟨⟩ := t
  obtain ⟨⟩ := s
  simp only at hp hv hq
  subst hp hv hq
  rfl

end Sys2Proof.Machine
end

