-- ==== Sys2Proof/Laws/State.lean ====
section
/-! SUPPORT. Laws/State.lean: what the named updates of the state leave alone, one lemma for each field and update. -/
namespace Sys2Proof.Machine

@[simp] theorem State.setReg_held (s : State) (a : Nat) (w : Word) : (s.setReg a w).held = s.held := rfl
@[simp] theorem State.setReg_staged (s : State) (a : Nat) (w : Word) : (s.setReg a w).staged = s.staged := rfl
@[simp] theorem State.setReg_condNow (s : State) (a : Nat) (w : Word) : (s.setReg a w).condNow = s.condNow := rfl
@[simp] theorem State.setReg_occurred (s : State) (a : Nat) (w : Word) : (s.setReg a w).occurred = s.occurred := rfl
@[simp] theorem State.setReg_evented (s : State) (a : Nat) (w : Word) : (s.setReg a w).evented = s.evented := rfl
@[simp] theorem State.setReg_free (s : State) (a : Nat) (w : Word) : (s.setReg a w).free = s.free := rfl
@[simp] theorem State.setReg_pw (s : State) (a : Nat) (w : Word) : (s.setReg a w).pw = s.pw := rfl
@[simp] theorem State.setReg_tm (s : State) (a : Nat) (w : Word) : (s.setReg a w).tm = s.tm := rfl
@[simp] theorem State.setReg_cells (s : State) (a : Nat) (w : Word) : (s.setReg a w).cells = s.cells := rfl
@[simp] theorem State.setReg_curr (s : State) (a : Nat) (w : Word) : (s.setReg a w).curr = s.curr := rfl
@[simp] theorem State.setReg_cal (s : State) (a : Nat) (w : Word) : (s.setReg a w).cal = s.cal := rfl
@[simp] theorem State.setReg_bal (s : State) (a : Nat) (w : Word) : (s.setReg a w).bal = s.bal := rfl
@[simp] theorem State.setReg_xact (s : State) (a : Nat) (w : Word) : (s.setReg a w).xact = s.xact := rfl
@[simp] theorem State.setReg_aux (s : State) (a : Nat) (w : Word) : (s.setReg a w).aux = s.aux := rfl
@[simp] theorem State.setReg_imp (s : State) (a : Nat) (w : Word) : (s.setReg a w).imp = s.imp := rfl
@[simp] theorem State.setReg_diag (s : State) (a : Nat) (w : Word) : (s.setReg a w).diag = s.diag := rfl
@[simp] theorem State.setReg_safe (s : State) (a : Nat) (w : Word) : (s.setReg a w).safe = s.safe := rfl
@[simp] theorem State.setReg_ban (s : State) (a : Nat) (w : Word) : (s.setReg a w).ban = s.ban := rfl
@[simp] theorem State.setReg_col (s : State) (a : Nat) (w : Word) : (s.setReg a w).col = s.col := rfl
@[simp] theorem State.setReg_link (s : State) (a : Nat) (w : Word) : (s.setReg a w).link = s.link := rfl
@[simp] theorem State.setReg_gal (s : State) (a : Nat) (w : Word) : (s.setReg a w).gal = s.gal := rfl
@[simp] theorem State.setReg_cfg (s : State) (a : Nat) (w : Word) : (s.setReg a w).cfg = s.cfg := rfl
@[simp] theorem State.setReg_fl (s : State) (a : Nat) (w : Word) : (s.setReg a w).fl = s.fl := rfl
@[simp] theorem State.setReg_tip (s : State) (a : Nat) (w : Word) : (s.setReg a w).tip = s.tip := rfl
@[simp] theorem State.setReg_vault (s : State) (a : Nat) (w : Word) : (s.setReg a w).vault = s.vault := rfl
@[simp] theorem State.setReg_pending (s : State) (a : Nat) (w : Word) : (s.setReg a w).pending = s.pending := rfl

@[simp] theorem State.set_held (s : State) (f : Fld) (v : Nat) : (s.set f v).held = s.held := rfl
@[simp] theorem State.set_staged (s : State) (f : Fld) (v : Nat) : (s.set f v).staged = s.staged := rfl
@[simp] theorem State.set_condNow (s : State) (f : Fld) (v : Nat) : (s.set f v).condNow = s.condNow := rfl
@[simp] theorem State.set_occurred (s : State) (f : Fld) (v : Nat) : (s.set f v).occurred = s.occurred := rfl
@[simp] theorem State.set_evented (s : State) (f : Fld) (v : Nat) : (s.set f v).evented = s.evented := rfl
@[simp] theorem State.set_free (s : State) (f : Fld) (v : Nat) : (s.set f v).free = s.free := rfl
@[simp] theorem State.set_pw (s : State) (f : Fld) (v : Nat) : (s.set f v).pw = s.pw := rfl
@[simp] theorem State.set_tm (s : State) (f : Fld) (v : Nat) : (s.set f v).tm = s.tm := rfl
@[simp] theorem State.set_cells (s : State) (f : Fld) (v : Nat) : (s.set f v).cells = s.cells := rfl
@[simp] theorem State.set_curr (s : State) (f : Fld) (v : Nat) : (s.set f v).curr = s.curr := rfl
@[simp] theorem State.set_cal (s : State) (f : Fld) (v : Nat) : (s.set f v).cal = s.cal := rfl
@[simp] theorem State.set_bal (s : State) (f : Fld) (v : Nat) : (s.set f v).bal = s.bal := rfl
@[simp] theorem State.set_xact (s : State) (f : Fld) (v : Nat) : (s.set f v).xact = s.xact := rfl
@[simp] theorem State.set_aux (s : State) (f : Fld) (v : Nat) : (s.set f v).aux = s.aux := rfl
@[simp] theorem State.set_imp (s : State) (f : Fld) (v : Nat) : (s.set f v).imp = s.imp := rfl
@[simp] theorem State.set_diag (s : State) (f : Fld) (v : Nat) : (s.set f v).diag = s.diag := rfl
@[simp] theorem State.set_safe (s : State) (f : Fld) (v : Nat) : (s.set f v).safe = s.safe := rfl
@[simp] theorem State.set_ban (s : State) (f : Fld) (v : Nat) : (s.set f v).ban = s.ban := rfl
@[simp] theorem State.set_col (s : State) (f : Fld) (v : Nat) : (s.set f v).col = s.col := rfl
@[simp] theorem State.set_link (s : State) (f : Fld) (v : Nat) : (s.set f v).link = s.link := rfl
@[simp] theorem State.set_gal (s : State) (f : Fld) (v : Nat) : (s.set f v).gal = s.gal := rfl
@[simp] theorem State.set_cfg (s : State) (f : Fld) (v : Nat) : (s.set f v).cfg = s.cfg := rfl
@[simp] theorem State.set_fl (s : State) (f : Fld) (v : Nat) : (s.set f v).fl = s.fl := rfl
@[simp] theorem State.set_tip (s : State) (f : Fld) (v : Nat) : (s.set f v).tip = s.tip := rfl
@[simp] theorem State.set_vault (s : State) (f : Fld) (v : Nat) : (s.set f v).vault = s.vault := rfl
@[simp] theorem State.set_pending (s : State) (f : Fld) (v : Nat) : (s.set f v).pending = s.pending := rfl

@[simp] theorem State.setB_held (s : State) (f : Fld) (b : Bool) : (s.setB f b).held = s.held := rfl
@[simp] theorem State.setB_staged (s : State) (f : Fld) (b : Bool) : (s.setB f b).staged = s.staged := rfl
@[simp] theorem State.setB_condNow (s : State) (f : Fld) (b : Bool) : (s.setB f b).condNow = s.condNow := rfl
@[simp] theorem State.setB_occurred (s : State) (f : Fld) (b : Bool) : (s.setB f b).occurred = s.occurred := rfl
@[simp] theorem State.setB_evented (s : State) (f : Fld) (b : Bool) : (s.setB f b).evented = s.evented := rfl
@[simp] theorem State.setB_free (s : State) (f : Fld) (b : Bool) : (s.setB f b).free = s.free := rfl
@[simp] theorem State.setB_pw (s : State) (f : Fld) (b : Bool) : (s.setB f b).pw = s.pw := rfl
@[simp] theorem State.setB_tm (s : State) (f : Fld) (b : Bool) : (s.setB f b).tm = s.tm := rfl
@[simp] theorem State.setB_cells (s : State) (f : Fld) (b : Bool) : (s.setB f b).cells = s.cells := rfl
@[simp] theorem State.setB_curr (s : State) (f : Fld) (b : Bool) : (s.setB f b).curr = s.curr := rfl
@[simp] theorem State.setB_cal (s : State) (f : Fld) (b : Bool) : (s.setB f b).cal = s.cal := rfl
@[simp] theorem State.setB_bal (s : State) (f : Fld) (b : Bool) : (s.setB f b).bal = s.bal := rfl
@[simp] theorem State.setB_xact (s : State) (f : Fld) (b : Bool) : (s.setB f b).xact = s.xact := rfl
@[simp] theorem State.setB_aux (s : State) (f : Fld) (b : Bool) : (s.setB f b).aux = s.aux := rfl
@[simp] theorem State.setB_imp (s : State) (f : Fld) (b : Bool) : (s.setB f b).imp = s.imp := rfl
@[simp] theorem State.setB_diag (s : State) (f : Fld) (b : Bool) : (s.setB f b).diag = s.diag := rfl
@[simp] theorem State.setB_safe (s : State) (f : Fld) (b : Bool) : (s.setB f b).safe = s.safe := rfl
@[simp] theorem State.setB_ban (s : State) (f : Fld) (b : Bool) : (s.setB f b).ban = s.ban := rfl
@[simp] theorem State.setB_col (s : State) (f : Fld) (b : Bool) : (s.setB f b).col = s.col := rfl
@[simp] theorem State.setB_link (s : State) (f : Fld) (b : Bool) : (s.setB f b).link = s.link := rfl
@[simp] theorem State.setB_gal (s : State) (f : Fld) (b : Bool) : (s.setB f b).gal = s.gal := rfl
@[simp] theorem State.setB_cfg (s : State) (f : Fld) (b : Bool) : (s.setB f b).cfg = s.cfg := rfl
@[simp] theorem State.setB_fl (s : State) (f : Fld) (b : Bool) : (s.setB f b).fl = s.fl := rfl
@[simp] theorem State.setB_tip (s : State) (f : Fld) (b : Bool) : (s.setB f b).tip = s.tip := rfl
@[simp] theorem State.setB_vault (s : State) (f : Fld) (b : Bool) : (s.setB f b).vault = s.vault := rfl
@[simp] theorem State.setB_pending (s : State) (f : Fld) (b : Bool) : (s.setB f b).pending = s.pending := rfl

@[simp] theorem State.set2_held (s : State) (f : Fld) (v : Nat) : (s.set2 f v).held = s.held := rfl
@[simp] theorem State.set2_staged (s : State) (f : Fld) (v : Nat) : (s.set2 f v).staged = s.staged := rfl
@[simp] theorem State.set2_condNow (s : State) (f : Fld) (v : Nat) : (s.set2 f v).condNow = s.condNow := rfl
@[simp] theorem State.set2_occurred (s : State) (f : Fld) (v : Nat) : (s.set2 f v).occurred = s.occurred := rfl
@[simp] theorem State.set2_evented (s : State) (f : Fld) (v : Nat) : (s.set2 f v).evented = s.evented := rfl
@[simp] theorem State.set2_free (s : State) (f : Fld) (v : Nat) : (s.set2 f v).free = s.free := rfl
@[simp] theorem State.set2_pw (s : State) (f : Fld) (v : Nat) : (s.set2 f v).pw = s.pw := rfl
@[simp] theorem State.set2_tm (s : State) (f : Fld) (v : Nat) : (s.set2 f v).tm = s.tm := rfl
@[simp] theorem State.set2_cells (s : State) (f : Fld) (v : Nat) : (s.set2 f v).cells = s.cells := rfl
@[simp] theorem State.set2_curr (s : State) (f : Fld) (v : Nat) : (s.set2 f v).curr = s.curr := rfl
@[simp] theorem State.set2_cal (s : State) (f : Fld) (v : Nat) : (s.set2 f v).cal = s.cal := rfl
@[simp] theorem State.set2_bal (s : State) (f : Fld) (v : Nat) : (s.set2 f v).bal = s.bal := rfl
@[simp] theorem State.set2_xact (s : State) (f : Fld) (v : Nat) : (s.set2 f v).xact = s.xact := rfl
@[simp] theorem State.set2_aux (s : State) (f : Fld) (v : Nat) : (s.set2 f v).aux = s.aux := rfl
@[simp] theorem State.set2_imp (s : State) (f : Fld) (v : Nat) : (s.set2 f v).imp = s.imp := rfl
@[simp] theorem State.set2_diag (s : State) (f : Fld) (v : Nat) : (s.set2 f v).diag = s.diag := rfl
@[simp] theorem State.set2_safe (s : State) (f : Fld) (v : Nat) : (s.set2 f v).safe = s.safe := rfl
@[simp] theorem State.set2_ban (s : State) (f : Fld) (v : Nat) : (s.set2 f v).ban = s.ban := rfl
@[simp] theorem State.set2_col (s : State) (f : Fld) (v : Nat) : (s.set2 f v).col = s.col := rfl
@[simp] theorem State.set2_link (s : State) (f : Fld) (v : Nat) : (s.set2 f v).link = s.link := rfl
@[simp] theorem State.set2_gal (s : State) (f : Fld) (v : Nat) : (s.set2 f v).gal = s.gal := rfl
@[simp] theorem State.set2_cfg (s : State) (f : Fld) (v : Nat) : (s.set2 f v).cfg = s.cfg := rfl
@[simp] theorem State.set2_fl (s : State) (f : Fld) (v : Nat) : (s.set2 f v).fl = s.fl := rfl
@[simp] theorem State.set2_tip (s : State) (f : Fld) (v : Nat) : (s.set2 f v).tip = s.tip := rfl
@[simp] theorem State.set2_vault (s : State) (f : Fld) (v : Nat) : (s.set2 f v).vault = s.vault := rfl
@[simp] theorem State.set2_pending (s : State) (f : Fld) (v : Nat) : (s.set2 f v).pending = s.pending := rfl

@[simp] theorem State.set3_held (s : State) (f : Fld) (v : Nat) : (s.set3 f v).held = s.held := rfl
@[simp] theorem State.set3_staged (s : State) (f : Fld) (v : Nat) : (s.set3 f v).staged = s.staged := rfl
@[simp] theorem State.set3_condNow (s : State) (f : Fld) (v : Nat) : (s.set3 f v).condNow = s.condNow := rfl
@[simp] theorem State.set3_occurred (s : State) (f : Fld) (v : Nat) : (s.set3 f v).occurred = s.occurred := rfl
@[simp] theorem State.set3_evented (s : State) (f : Fld) (v : Nat) : (s.set3 f v).evented = s.evented := rfl
@[simp] theorem State.set3_free (s : State) (f : Fld) (v : Nat) : (s.set3 f v).free = s.free := rfl
@[simp] theorem State.set3_pw (s : State) (f : Fld) (v : Nat) : (s.set3 f v).pw = s.pw := rfl
@[simp] theorem State.set3_tm (s : State) (f : Fld) (v : Nat) : (s.set3 f v).tm = s.tm := rfl
@[simp] theorem State.set3_cells (s : State) (f : Fld) (v : Nat) : (s.set3 f v).cells = s.cells := rfl
@[simp] theorem State.set3_curr (s : State) (f : Fld) (v : Nat) : (s.set3 f v).curr = s.curr := rfl
@[simp] theorem State.set3_cal (s : State) (f : Fld) (v : Nat) : (s.set3 f v).cal = s.cal := rfl
@[simp] theorem State.set3_bal (s : State) (f : Fld) (v : Nat) : (s.set3 f v).bal = s.bal := rfl
@[simp] theorem State.set3_xact (s : State) (f : Fld) (v : Nat) : (s.set3 f v).xact = s.xact := rfl
@[simp] theorem State.set3_aux (s : State) (f : Fld) (v : Nat) : (s.set3 f v).aux = s.aux := rfl
@[simp] theorem State.set3_imp (s : State) (f : Fld) (v : Nat) : (s.set3 f v).imp = s.imp := rfl
@[simp] theorem State.set3_diag (s : State) (f : Fld) (v : Nat) : (s.set3 f v).diag = s.diag := rfl
@[simp] theorem State.set3_safe (s : State) (f : Fld) (v : Nat) : (s.set3 f v).safe = s.safe := rfl
@[simp] theorem State.set3_ban (s : State) (f : Fld) (v : Nat) : (s.set3 f v).ban = s.ban := rfl
@[simp] theorem State.set3_col (s : State) (f : Fld) (v : Nat) : (s.set3 f v).col = s.col := rfl
@[simp] theorem State.set3_link (s : State) (f : Fld) (v : Nat) : (s.set3 f v).link = s.link := rfl
@[simp] theorem State.set3_gal (s : State) (f : Fld) (v : Nat) : (s.set3 f v).gal = s.gal := rfl
@[simp] theorem State.set3_cfg (s : State) (f : Fld) (v : Nat) : (s.set3 f v).cfg = s.cfg := rfl
@[simp] theorem State.set3_fl (s : State) (f : Fld) (v : Nat) : (s.set3 f v).fl = s.fl := rfl
@[simp] theorem State.set3_tip (s : State) (f : Fld) (v : Nat) : (s.set3 f v).tip = s.tip := rfl
@[simp] theorem State.set3_vault (s : State) (f : Fld) (v : Nat) : (s.set3 f v).vault = s.vault := rfl
@[simp] theorem State.set3_pending (s : State) (f : Fld) (v : Nat) : (s.set3 f v).pending = s.pending := rfl

@[simp] theorem State.inc_held (s : State) (f : Fld) : (s.inc f).held = s.held := rfl
@[simp] theorem State.inc_staged (s : State) (f : Fld) : (s.inc f).staged = s.staged := rfl
@[simp] theorem State.inc_condNow (s : State) (f : Fld) : (s.inc f).condNow = s.condNow := rfl
@[simp] theorem State.inc_occurred (s : State) (f : Fld) : (s.inc f).occurred = s.occurred := rfl
@[simp] theorem State.inc_evented (s : State) (f : Fld) : (s.inc f).evented = s.evented := rfl
@[simp] theorem State.inc_free (s : State) (f : Fld) : (s.inc f).free = s.free := rfl
@[simp] theorem State.inc_pw (s : State) (f : Fld) : (s.inc f).pw = s.pw := rfl
@[simp] theorem State.inc_tm (s : State) (f : Fld) : (s.inc f).tm = s.tm := rfl
@[simp] theorem State.inc_cells (s : State) (f : Fld) : (s.inc f).cells = s.cells := rfl
@[simp] theorem State.inc_curr (s : State) (f : Fld) : (s.inc f).curr = s.curr := rfl
@[simp] theorem State.inc_cal (s : State) (f : Fld) : (s.inc f).cal = s.cal := rfl
@[simp] theorem State.inc_bal (s : State) (f : Fld) : (s.inc f).bal = s.bal := rfl
@[simp] theorem State.inc_xact (s : State) (f : Fld) : (s.inc f).xact = s.xact := rfl
@[simp] theorem State.inc_aux (s : State) (f : Fld) : (s.inc f).aux = s.aux := rfl
@[simp] theorem State.inc_imp (s : State) (f : Fld) : (s.inc f).imp = s.imp := rfl
@[simp] theorem State.inc_diag (s : State) (f : Fld) : (s.inc f).diag = s.diag := rfl
@[simp] theorem State.inc_safe (s : State) (f : Fld) : (s.inc f).safe = s.safe := rfl
@[simp] theorem State.inc_ban (s : State) (f : Fld) : (s.inc f).ban = s.ban := rfl
@[simp] theorem State.inc_col (s : State) (f : Fld) : (s.inc f).col = s.col := rfl
@[simp] theorem State.inc_link (s : State) (f : Fld) : (s.inc f).link = s.link := rfl
@[simp] theorem State.inc_gal (s : State) (f : Fld) : (s.inc f).gal = s.gal := rfl
@[simp] theorem State.inc_cfg (s : State) (f : Fld) : (s.inc f).cfg = s.cfg := rfl
@[simp] theorem State.inc_fl (s : State) (f : Fld) : (s.inc f).fl = s.fl := rfl
@[simp] theorem State.inc_tip (s : State) (f : Fld) : (s.inc f).tip = s.tip := rfl
@[simp] theorem State.inc_vault (s : State) (f : Fld) : (s.inc f).vault = s.vault := rfl
@[simp] theorem State.inc_pending (s : State) (f : Fld) : (s.inc f).pending = s.pending := rfl

@[simp] theorem State.setV_held (s : State) (f : Fld) (i : Nat) (b : Bool) : (s.setV f i b).held = s.held := rfl
@[simp] theorem State.setV_staged (s : State) (f : Fld) (i : Nat) (b : Bool) : (s.setV f i b).staged = s.staged := rfl
@[simp] theorem State.setV_condNow (s : State) (f : Fld) (i : Nat) (b : Bool) : (s.setV f i b).condNow = s.condNow := rfl
@[simp] theorem State.setV_occurred (s : State) (f : Fld) (i : Nat) (b : Bool) : (s.setV f i b).occurred = s.occurred := rfl
@[simp] theorem State.setV_evented (s : State) (f : Fld) (i : Nat) (b : Bool) : (s.setV f i b).evented = s.evented := rfl
@[simp] theorem State.setV_free (s : State) (f : Fld) (i : Nat) (b : Bool) : (s.setV f i b).free = s.free := rfl
@[simp] theorem State.setV_pw (s : State) (f : Fld) (i : Nat) (b : Bool) : (s.setV f i b).pw = s.pw := rfl
@[simp] theorem State.setV_tm (s : State) (f : Fld) (i : Nat) (b : Bool) : (s.setV f i b).tm = s.tm := rfl
@[simp] theorem State.setV_cells (s : State) (f : Fld) (i : Nat) (b : Bool) : (s.setV f i b).cells = s.cells := rfl
@[simp] theorem State.setV_curr (s : State) (f : Fld) (i : Nat) (b : Bool) : (s.setV f i b).curr = s.curr := rfl
@[simp] theorem State.setV_cal (s : State) (f : Fld) (i : Nat) (b : Bool) : (s.setV f i b).cal = s.cal := rfl
@[simp] theorem State.setV_bal (s : State) (f : Fld) (i : Nat) (b : Bool) : (s.setV f i b).bal = s.bal := rfl
@[simp] theorem State.setV_xact (s : State) (f : Fld) (i : Nat) (b : Bool) : (s.setV f i b).xact = s.xact := rfl
@[simp] theorem State.setV_aux (s : State) (f : Fld) (i : Nat) (b : Bool) : (s.setV f i b).aux = s.aux := rfl
@[simp] theorem State.setV_imp (s : State) (f : Fld) (i : Nat) (b : Bool) : (s.setV f i b).imp = s.imp := rfl
@[simp] theorem State.setV_diag (s : State) (f : Fld) (i : Nat) (b : Bool) : (s.setV f i b).diag = s.diag := rfl
@[simp] theorem State.setV_safe (s : State) (f : Fld) (i : Nat) (b : Bool) : (s.setV f i b).safe = s.safe := rfl
@[simp] theorem State.setV_ban (s : State) (f : Fld) (i : Nat) (b : Bool) : (s.setV f i b).ban = s.ban := rfl
@[simp] theorem State.setV_col (s : State) (f : Fld) (i : Nat) (b : Bool) : (s.setV f i b).col = s.col := rfl
@[simp] theorem State.setV_link (s : State) (f : Fld) (i : Nat) (b : Bool) : (s.setV f i b).link = s.link := rfl
@[simp] theorem State.setV_gal (s : State) (f : Fld) (i : Nat) (b : Bool) : (s.setV f i b).gal = s.gal := rfl
@[simp] theorem State.setV_cfg (s : State) (f : Fld) (i : Nat) (b : Bool) : (s.setV f i b).cfg = s.cfg := rfl
@[simp] theorem State.setV_fl (s : State) (f : Fld) (i : Nat) (b : Bool) : (s.setV f i b).fl = s.fl := rfl
@[simp] theorem State.setV_tip (s : State) (f : Fld) (i : Nat) (b : Bool) : (s.setV f i b).tip = s.tip := rfl
@[simp] theorem State.setV_vault (s : State) (f : Fld) (i : Nat) (b : Bool) : (s.setV f i b).vault = s.vault := rfl
@[simp] theorem State.setV_pending (s : State) (f : Fld) (i : Nat) (b : Bool) : (s.setV f i b).pending = s.pending := rfl

@[simp] theorem State.setS_held (s : State) (f : Fld) (v : Int) : (s.setS f v).held = s.held := rfl
@[simp] theorem State.setS_staged (s : State) (f : Fld) (v : Int) : (s.setS f v).staged = s.staged := rfl
@[simp] theorem State.setS_condNow (s : State) (f : Fld) (v : Int) : (s.setS f v).condNow = s.condNow := rfl
@[simp] theorem State.setS_occurred (s : State) (f : Fld) (v : Int) : (s.setS f v).occurred = s.occurred := rfl
@[simp] theorem State.setS_evented (s : State) (f : Fld) (v : Int) : (s.setS f v).evented = s.evented := rfl
@[simp] theorem State.setS_free (s : State) (f : Fld) (v : Int) : (s.setS f v).free = s.free := rfl
@[simp] theorem State.setS_pw (s : State) (f : Fld) (v : Int) : (s.setS f v).pw = s.pw := rfl
@[simp] theorem State.setS_tm (s : State) (f : Fld) (v : Int) : (s.setS f v).tm = s.tm := rfl
@[simp] theorem State.setS_cells (s : State) (f : Fld) (v : Int) : (s.setS f v).cells = s.cells := rfl
@[simp] theorem State.setS_curr (s : State) (f : Fld) (v : Int) : (s.setS f v).curr = s.curr := rfl
@[simp] theorem State.setS_cal (s : State) (f : Fld) (v : Int) : (s.setS f v).cal = s.cal := rfl
@[simp] theorem State.setS_bal (s : State) (f : Fld) (v : Int) : (s.setS f v).bal = s.bal := rfl
@[simp] theorem State.setS_xact (s : State) (f : Fld) (v : Int) : (s.setS f v).xact = s.xact := rfl
@[simp] theorem State.setS_aux (s : State) (f : Fld) (v : Int) : (s.setS f v).aux = s.aux := rfl
@[simp] theorem State.setS_imp (s : State) (f : Fld) (v : Int) : (s.setS f v).imp = s.imp := rfl
@[simp] theorem State.setS_diag (s : State) (f : Fld) (v : Int) : (s.setS f v).diag = s.diag := rfl
@[simp] theorem State.setS_safe (s : State) (f : Fld) (v : Int) : (s.setS f v).safe = s.safe := rfl
@[simp] theorem State.setS_ban (s : State) (f : Fld) (v : Int) : (s.setS f v).ban = s.ban := rfl
@[simp] theorem State.setS_col (s : State) (f : Fld) (v : Int) : (s.setS f v).col = s.col := rfl
@[simp] theorem State.setS_link (s : State) (f : Fld) (v : Int) : (s.setS f v).link = s.link := rfl
@[simp] theorem State.setS_gal (s : State) (f : Fld) (v : Int) : (s.setS f v).gal = s.gal := rfl
@[simp] theorem State.setS_cfg (s : State) (f : Fld) (v : Int) : (s.setS f v).cfg = s.cfg := rfl
@[simp] theorem State.setS_fl (s : State) (f : Fld) (v : Int) : (s.setS f v).fl = s.fl := rfl
@[simp] theorem State.setS_tip (s : State) (f : Fld) (v : Int) : (s.setS f v).tip = s.tip := rfl
@[simp] theorem State.setS_vault (s : State) (f : Fld) (v : Int) : (s.setS f v).vault = s.vault := rfl
@[simp] theorem State.setS_pending (s : State) (f : Fld) (v : Int) : (s.setS f v).pending = s.pending := rfl

@[simp] theorem State.evt_held (s : State) (f : Fld) : (s.evt f).held = s.held := rfl
@[simp] theorem State.evt_staged (s : State) (f : Fld) : (s.evt f).staged = s.staged := rfl
@[simp] theorem State.evt_condNow (s : State) (f : Fld) : (s.evt f).condNow = s.condNow := rfl
@[simp] theorem State.evt_occurred (s : State) (f : Fld) : (s.evt f).occurred = s.occurred := rfl
@[simp] theorem State.evt_evented (s : State) (f : Fld) : (s.evt f).evented = s.evented := rfl
@[simp] theorem State.evt_free (s : State) (f : Fld) : (s.evt f).free = s.free := rfl
@[simp] theorem State.evt_pw (s : State) (f : Fld) : (s.evt f).pw = s.pw := rfl
@[simp] theorem State.evt_tm (s : State) (f : Fld) : (s.evt f).tm = s.tm := rfl
@[simp] theorem State.evt_cells (s : State) (f : Fld) : (s.evt f).cells = s.cells := rfl
@[simp] theorem State.evt_curr (s : State) (f : Fld) : (s.evt f).curr = s.curr := rfl
@[simp] theorem State.evt_cal (s : State) (f : Fld) : (s.evt f).cal = s.cal := rfl
@[simp] theorem State.evt_bal (s : State) (f : Fld) : (s.evt f).bal = s.bal := rfl
@[simp] theorem State.evt_xact (s : State) (f : Fld) : (s.evt f).xact = s.xact := rfl
@[simp] theorem State.evt_aux (s : State) (f : Fld) : (s.evt f).aux = s.aux := rfl
@[simp] theorem State.evt_imp (s : State) (f : Fld) : (s.evt f).imp = s.imp := rfl
@[simp] theorem State.evt_diag (s : State) (f : Fld) : (s.evt f).diag = s.diag := rfl
@[simp] theorem State.evt_safe (s : State) (f : Fld) : (s.evt f).safe = s.safe := rfl
@[simp] theorem State.evt_ban (s : State) (f : Fld) : (s.evt f).ban = s.ban := rfl
@[simp] theorem State.evt_col (s : State) (f : Fld) : (s.evt f).col = s.col := rfl
@[simp] theorem State.evt_link (s : State) (f : Fld) : (s.evt f).link = s.link := rfl
@[simp] theorem State.evt_gal (s : State) (f : Fld) : (s.evt f).gal = s.gal := rfl
@[simp] theorem State.evt_cfg (s : State) (f : Fld) : (s.evt f).cfg = s.cfg := rfl
@[simp] theorem State.evt_fl (s : State) (f : Fld) : (s.evt f).fl = s.fl := rfl
@[simp] theorem State.evt_tip (s : State) (f : Fld) : (s.evt f).tip = s.tip := rfl
@[simp] theorem State.evt_vault (s : State) (f : Fld) : (s.evt f).vault = s.vault := rfl
@[simp] theorem State.evt_pending (s : State) (f : Fld) : (s.evt f).pending = s.pending := rfl

@[simp] theorem State.holdReg_staged (s : State) (a : Nat) (w : Word) : (s.holdReg a w).staged = s.staged := rfl
@[simp] theorem State.holdReg_condNow (s : State) (a : Nat) (w : Word) : (s.holdReg a w).condNow = s.condNow := rfl
@[simp] theorem State.holdReg_occurred (s : State) (a : Nat) (w : Word) : (s.holdReg a w).occurred = s.occurred := rfl
@[simp] theorem State.holdReg_evented (s : State) (a : Nat) (w : Word) : (s.holdReg a w).evented = s.evented := rfl
@[simp] theorem State.holdReg_free (s : State) (a : Nat) (w : Word) : (s.holdReg a w).free = s.free := rfl
@[simp] theorem State.holdReg_pw (s : State) (a : Nat) (w : Word) : (s.holdReg a w).pw = s.pw := rfl
@[simp] theorem State.holdReg_tm (s : State) (a : Nat) (w : Word) : (s.holdReg a w).tm = s.tm := rfl
@[simp] theorem State.holdReg_cells (s : State) (a : Nat) (w : Word) : (s.holdReg a w).cells = s.cells := rfl
@[simp] theorem State.holdReg_curr (s : State) (a : Nat) (w : Word) : (s.holdReg a w).curr = s.curr := rfl
@[simp] theorem State.holdReg_cal (s : State) (a : Nat) (w : Word) : (s.holdReg a w).cal = s.cal := rfl
@[simp] theorem State.holdReg_bal (s : State) (a : Nat) (w : Word) : (s.holdReg a w).bal = s.bal := rfl
@[simp] theorem State.holdReg_xact (s : State) (a : Nat) (w : Word) : (s.holdReg a w).xact = s.xact := rfl
@[simp] theorem State.holdReg_aux (s : State) (a : Nat) (w : Word) : (s.holdReg a w).aux = s.aux := rfl
@[simp] theorem State.holdReg_imp (s : State) (a : Nat) (w : Word) : (s.holdReg a w).imp = s.imp := rfl
@[simp] theorem State.holdReg_diag (s : State) (a : Nat) (w : Word) : (s.holdReg a w).diag = s.diag := rfl
@[simp] theorem State.holdReg_safe (s : State) (a : Nat) (w : Word) : (s.holdReg a w).safe = s.safe := rfl
@[simp] theorem State.holdReg_ban (s : State) (a : Nat) (w : Word) : (s.holdReg a w).ban = s.ban := rfl
@[simp] theorem State.holdReg_col (s : State) (a : Nat) (w : Word) : (s.holdReg a w).col = s.col := rfl
@[simp] theorem State.holdReg_link (s : State) (a : Nat) (w : Word) : (s.holdReg a w).link = s.link := rfl
@[simp] theorem State.holdReg_gal (s : State) (a : Nat) (w : Word) : (s.holdReg a w).gal = s.gal := rfl
@[simp] theorem State.holdReg_cfg (s : State) (a : Nat) (w : Word) : (s.holdReg a w).cfg = s.cfg := rfl
@[simp] theorem State.holdReg_fl (s : State) (a : Nat) (w : Word) : (s.holdReg a w).fl = s.fl := rfl
@[simp] theorem State.holdReg_tip (s : State) (a : Nat) (w : Word) : (s.holdReg a w).tip = s.tip := rfl
@[simp] theorem State.holdReg_vault (s : State) (a : Nat) (w : Word) : (s.holdReg a w).vault = s.vault := rfl
@[simp] theorem State.holdReg_pending (s : State) (a : Nat) (w : Word) : (s.holdReg a w).pending = s.pending := rfl

@[simp] theorem State.release_regs (s : State) (p : Nat → Bool) : (s.release p).regs = s.regs := rfl
@[simp] theorem State.release_staged (s : State) (p : Nat → Bool) : (s.release p).staged = s.staged := rfl
@[simp] theorem State.release_condNow (s : State) (p : Nat → Bool) : (s.release p).condNow = s.condNow := rfl
@[simp] theorem State.release_occurred (s : State) (p : Nat → Bool) : (s.release p).occurred = s.occurred := rfl
@[simp] theorem State.release_evented (s : State) (p : Nat → Bool) : (s.release p).evented = s.evented := rfl
@[simp] theorem State.release_free (s : State) (p : Nat → Bool) : (s.release p).free = s.free := rfl
@[simp] theorem State.release_pw (s : State) (p : Nat → Bool) : (s.release p).pw = s.pw := rfl
@[simp] theorem State.release_tm (s : State) (p : Nat → Bool) : (s.release p).tm = s.tm := rfl
@[simp] theorem State.release_cells (s : State) (p : Nat → Bool) : (s.release p).cells = s.cells := rfl
@[simp] theorem State.release_curr (s : State) (p : Nat → Bool) : (s.release p).curr = s.curr := rfl
@[simp] theorem State.release_cal (s : State) (p : Nat → Bool) : (s.release p).cal = s.cal := rfl
@[simp] theorem State.release_bal (s : State) (p : Nat → Bool) : (s.release p).bal = s.bal := rfl
@[simp] theorem State.release_xact (s : State) (p : Nat → Bool) : (s.release p).xact = s.xact := rfl
@[simp] theorem State.release_aux (s : State) (p : Nat → Bool) : (s.release p).aux = s.aux := rfl
@[simp] theorem State.release_imp (s : State) (p : Nat → Bool) : (s.release p).imp = s.imp := rfl
@[simp] theorem State.release_diag (s : State) (p : Nat → Bool) : (s.release p).diag = s.diag := rfl
@[simp] theorem State.release_safe (s : State) (p : Nat → Bool) : (s.release p).safe = s.safe := rfl
@[simp] theorem State.release_ban (s : State) (p : Nat → Bool) : (s.release p).ban = s.ban := rfl
@[simp] theorem State.release_col (s : State) (p : Nat → Bool) : (s.release p).col = s.col := rfl
@[simp] theorem State.release_link (s : State) (p : Nat → Bool) : (s.release p).link = s.link := rfl
@[simp] theorem State.release_gal (s : State) (p : Nat → Bool) : (s.release p).gal = s.gal := rfl
@[simp] theorem State.release_cfg (s : State) (p : Nat → Bool) : (s.release p).cfg = s.cfg := rfl
@[simp] theorem State.release_fl (s : State) (p : Nat → Bool) : (s.release p).fl = s.fl := rfl
@[simp] theorem State.release_tip (s : State) (p : Nat → Bool) : (s.release p).tip = s.tip := rfl
@[simp] theorem State.release_vault (s : State) (p : Nat → Bool) : (s.release p).vault = s.vault := rfl
@[simp] theorem State.release_pending (s : State) (p : Nat → Bool) : (s.release p).pending = s.pending := rfl

@[simp] theorem State.tick_regs (s : State) : (s.tick).regs = s.regs := rfl
@[simp] theorem State.tick_held (s : State) : (s.tick).held = s.held := rfl
@[simp] theorem State.tick_staged (s : State) : (s.tick).staged = s.staged := rfl
@[simp] theorem State.tick_condNow (s : State) : (s.tick).condNow = s.condNow := rfl
@[simp] theorem State.tick_occurred (s : State) : (s.tick).occurred = s.occurred := rfl
@[simp] theorem State.tick_evented (s : State) : (s.tick).evented = s.evented := rfl
@[simp] theorem State.tick_pw (s : State) : (s.tick).pw = s.pw := rfl
@[simp] theorem State.tick_tm (s : State) : (s.tick).tm = s.tm := rfl
@[simp] theorem State.tick_cells (s : State) : (s.tick).cells = s.cells := rfl
@[simp] theorem State.tick_curr (s : State) : (s.tick).curr = s.curr := rfl
@[simp] theorem State.tick_cal (s : State) : (s.tick).cal = s.cal := rfl
@[simp] theorem State.tick_bal (s : State) : (s.tick).bal = s.bal := rfl
@[simp] theorem State.tick_xact (s : State) : (s.tick).xact = s.xact := rfl
@[simp] theorem State.tick_aux (s : State) : (s.tick).aux = s.aux := rfl
@[simp] theorem State.tick_imp (s : State) : (s.tick).imp = s.imp := rfl
@[simp] theorem State.tick_diag (s : State) : (s.tick).diag = s.diag := rfl
@[simp] theorem State.tick_safe (s : State) : (s.tick).safe = s.safe := rfl
@[simp] theorem State.tick_ban (s : State) : (s.tick).ban = s.ban := rfl
@[simp] theorem State.tick_col (s : State) : (s.tick).col = s.col := rfl
@[simp] theorem State.tick_link (s : State) : (s.tick).link = s.link := rfl
@[simp] theorem State.tick_gal (s : State) : (s.tick).gal = s.gal := rfl
@[simp] theorem State.tick_cfg (s : State) : (s.tick).cfg = s.cfg := rfl
@[simp] theorem State.tick_fl (s : State) : (s.tick).fl = s.fl := rfl
@[simp] theorem State.tick_tip (s : State) : (s.tick).tip = s.tip := rfl
@[simp] theorem State.tick_vault (s : State) : (s.tick).vault = s.vault := rfl
@[simp] theorem State.tick_pending (s : State) : (s.tick).pending = s.pending := rfl

@[simp] theorem State.cond_regs (s : State) (i : Nat) (b : Bool) : (s.cond i b).regs = s.regs := by unfold State.cond; split <;> rfl
@[simp] theorem State.cond_held (s : State) (i : Nat) (b : Bool) : (s.cond i b).held = s.held := by unfold State.cond; split <;> rfl
@[simp] theorem State.cond_staged (s : State) (i : Nat) (b : Bool) : (s.cond i b).staged = s.staged := by unfold State.cond; split <;> rfl
@[simp] theorem State.cond_evented (s : State) (i : Nat) (b : Bool) : (s.cond i b).evented = s.evented := by unfold State.cond; split <;> rfl
@[simp] theorem State.cond_free (s : State) (i : Nat) (b : Bool) : (s.cond i b).free = s.free := by unfold State.cond; split <;> rfl
@[simp] theorem State.cond_pw (s : State) (i : Nat) (b : Bool) : (s.cond i b).pw = s.pw := by unfold State.cond; split <;> rfl
@[simp] theorem State.cond_tm (s : State) (i : Nat) (b : Bool) : (s.cond i b).tm = s.tm := by unfold State.cond; split <;> rfl
@[simp] theorem State.cond_cells (s : State) (i : Nat) (b : Bool) : (s.cond i b).cells = s.cells := by unfold State.cond; split <;> rfl
@[simp] theorem State.cond_curr (s : State) (i : Nat) (b : Bool) : (s.cond i b).curr = s.curr := by unfold State.cond; split <;> rfl
@[simp] theorem State.cond_cal (s : State) (i : Nat) (b : Bool) : (s.cond i b).cal = s.cal := by unfold State.cond; split <;> rfl
@[simp] theorem State.cond_bal (s : State) (i : Nat) (b : Bool) : (s.cond i b).bal = s.bal := by unfold State.cond; split <;> rfl
@[simp] theorem State.cond_xact (s : State) (i : Nat) (b : Bool) : (s.cond i b).xact = s.xact := by unfold State.cond; split <;> rfl
@[simp] theorem State.cond_aux (s : State) (i : Nat) (b : Bool) : (s.cond i b).aux = s.aux := by unfold State.cond; split <;> rfl
@[simp] theorem State.cond_imp (s : State) (i : Nat) (b : Bool) : (s.cond i b).imp = s.imp := by unfold State.cond; split <;> rfl
@[simp] theorem State.cond_diag (s : State) (i : Nat) (b : Bool) : (s.cond i b).diag = s.diag := by unfold State.cond; split <;> rfl
@[simp] theorem State.cond_safe (s : State) (i : Nat) (b : Bool) : (s.cond i b).safe = s.safe := by unfold State.cond; split <;> rfl
@[simp] theorem State.cond_ban (s : State) (i : Nat) (b : Bool) : (s.cond i b).ban = s.ban := by unfold State.cond; split <;> rfl
@[simp] theorem State.cond_col (s : State) (i : Nat) (b : Bool) : (s.cond i b).col = s.col := by unfold State.cond; split <;> rfl
@[simp] theorem State.cond_link (s : State) (i : Nat) (b : Bool) : (s.cond i b).link = s.link := by unfold State.cond; split <;> rfl
@[simp] theorem State.cond_gal (s : State) (i : Nat) (b : Bool) : (s.cond i b).gal = s.gal := by unfold State.cond; split <;> rfl
@[simp] theorem State.cond_cfg (s : State) (i : Nat) (b : Bool) : (s.cond i b).cfg = s.cfg := by unfold State.cond; split <;> rfl
@[simp] theorem State.cond_fl (s : State) (i : Nat) (b : Bool) : (s.cond i b).fl = s.fl := by unfold State.cond; split <;> rfl
@[simp] theorem State.cond_tip (s : State) (i : Nat) (b : Bool) : (s.cond i b).tip = s.tip := by unfold State.cond; split <;> rfl
@[simp] theorem State.cond_vault (s : State) (i : Nat) (b : Bool) : (s.cond i b).vault = s.vault := by unfold State.cond; split <;> rfl
@[simp] theorem State.cond_pending (s : State) (i : Nat) (b : Bool) : (s.cond i b).pending = s.pending := by unfold State.cond; split <;> rfl

@[simp] theorem State.occur_regs (s : State) (i : Nat) : (s.occur i).regs = s.regs := rfl
@[simp] theorem State.occur_held (s : State) (i : Nat) : (s.occur i).held = s.held := rfl
@[simp] theorem State.occur_staged (s : State) (i : Nat) : (s.occur i).staged = s.staged := rfl
@[simp] theorem State.occur_condNow (s : State) (i : Nat) : (s.occur i).condNow = s.condNow := rfl
@[simp] theorem State.occur_free (s : State) (i : Nat) : (s.occur i).free = s.free := rfl
@[simp] theorem State.occur_pw (s : State) (i : Nat) : (s.occur i).pw = s.pw := rfl
@[simp] theorem State.occur_tm (s : State) (i : Nat) : (s.occur i).tm = s.tm := rfl
@[simp] theorem State.occur_cells (s : State) (i : Nat) : (s.occur i).cells = s.cells := rfl
@[simp] theorem State.occur_curr (s : State) (i : Nat) : (s.occur i).curr = s.curr := rfl
@[simp] theorem State.occur_cal (s : State) (i : Nat) : (s.occur i).cal = s.cal := rfl
@[simp] theorem State.occur_bal (s : State) (i : Nat) : (s.occur i).bal = s.bal := rfl
@[simp] theorem State.occur_xact (s : State) (i : Nat) : (s.occur i).xact = s.xact := rfl
@[simp] theorem State.occur_aux (s : State) (i : Nat) : (s.occur i).aux = s.aux := rfl
@[simp] theorem State.occur_imp (s : State) (i : Nat) : (s.occur i).imp = s.imp := rfl
@[simp] theorem State.occur_diag (s : State) (i : Nat) : (s.occur i).diag = s.diag := rfl
@[simp] theorem State.occur_safe (s : State) (i : Nat) : (s.occur i).safe = s.safe := rfl
@[simp] theorem State.occur_ban (s : State) (i : Nat) : (s.occur i).ban = s.ban := rfl
@[simp] theorem State.occur_col (s : State) (i : Nat) : (s.occur i).col = s.col := rfl
@[simp] theorem State.occur_link (s : State) (i : Nat) : (s.occur i).link = s.link := rfl
@[simp] theorem State.occur_gal (s : State) (i : Nat) : (s.occur i).gal = s.gal := rfl
@[simp] theorem State.occur_cfg (s : State) (i : Nat) : (s.occur i).cfg = s.cfg := rfl
@[simp] theorem State.occur_fl (s : State) (i : Nat) : (s.occur i).fl = s.fl := rfl
@[simp] theorem State.occur_tip (s : State) (i : Nat) : (s.occur i).tip = s.tip := rfl
@[simp] theorem State.occur_vault (s : State) (i : Nat) : (s.occur i).vault = s.vault := rfl
@[simp] theorem State.occur_pending (s : State) (i : Nat) : (s.occur i).pending = s.pending := rfl

@[simp] theorem State.leave_regs (s : State) (l : Leave) : (s.leave l).regs = s.regs := by unfold State.leave; split <;> rfl
@[simp] theorem State.leave_held (s : State) (l : Leave) : (s.leave l).held = s.held := by unfold State.leave; split <;> rfl
@[simp] theorem State.leave_staged (s : State) (l : Leave) : (s.leave l).staged = s.staged := by unfold State.leave; split <;> rfl
@[simp] theorem State.leave_condNow (s : State) (l : Leave) : (s.leave l).condNow = s.condNow := by unfold State.leave; split <;> rfl
@[simp] theorem State.leave_occurred (s : State) (l : Leave) : (s.leave l).occurred = s.occurred := by unfold State.leave; split <;> rfl
@[simp] theorem State.leave_evented (s : State) (l : Leave) : (s.leave l).evented = s.evented := by unfold State.leave; split <;> rfl
@[simp] theorem State.leave_free (s : State) (l : Leave) : (s.leave l).free = s.free := by unfold State.leave; split <;> rfl
@[simp] theorem State.leave_tm (s : State) (l : Leave) : (s.leave l).tm = s.tm := by unfold State.leave; split <;> rfl
@[simp] theorem State.leave_cells (s : State) (l : Leave) : (s.leave l).cells = s.cells := by unfold State.leave; split <;> rfl
@[simp] theorem State.leave_curr (s : State) (l : Leave) : (s.leave l).curr = s.curr := by unfold State.leave; split <;> rfl
@[simp] theorem State.leave_cal (s : State) (l : Leave) : (s.leave l).cal = s.cal := by unfold State.leave; split <;> rfl
@[simp] theorem State.leave_bal (s : State) (l : Leave) : (s.leave l).bal = s.bal := by unfold State.leave; split <;> rfl
@[simp] theorem State.leave_xact (s : State) (l : Leave) : (s.leave l).xact = s.xact := by unfold State.leave; split <;> rfl
@[simp] theorem State.leave_aux (s : State) (l : Leave) : (s.leave l).aux = s.aux := by unfold State.leave; split <;> rfl
@[simp] theorem State.leave_imp (s : State) (l : Leave) : (s.leave l).imp = s.imp := by unfold State.leave; split <;> rfl
@[simp] theorem State.leave_diag (s : State) (l : Leave) : (s.leave l).diag = s.diag := by unfold State.leave; split <;> rfl
@[simp] theorem State.leave_safe (s : State) (l : Leave) : (s.leave l).safe = s.safe := by unfold State.leave; split <;> rfl
@[simp] theorem State.leave_ban (s : State) (l : Leave) : (s.leave l).ban = s.ban := by unfold State.leave; split <;> rfl
@[simp] theorem State.leave_col (s : State) (l : Leave) : (s.leave l).col = s.col := by unfold State.leave; split <;> rfl
@[simp] theorem State.leave_link (s : State) (l : Leave) : (s.leave l).link = s.link := by unfold State.leave; split <;> rfl
@[simp] theorem State.leave_gal (s : State) (l : Leave) : (s.leave l).gal = s.gal := by unfold State.leave; split <;> rfl
@[simp] theorem State.leave_cfg (s : State) (l : Leave) : (s.leave l).cfg = s.cfg := by unfold State.leave; split <;> rfl
@[simp] theorem State.leave_fl (s : State) (l : Leave) : (s.leave l).fl = s.fl := by unfold State.leave; split <;> rfl
@[simp] theorem State.leave_tip (s : State) (l : Leave) : (s.leave l).tip = s.tip := by unfold State.leave; split <;> rfl
@[simp] theorem State.leave_vault (s : State) (l : Leave) : (s.leave l).vault = s.vault := by unfold State.leave; split <;> rfl
@[simp] theorem State.leave_pending (s : State) (l : Leave) : (s.leave l).pending = s.pending := by unfold State.leave; split <;> rfl

@[simp] theorem State.release_reg (s : State) (p : Nat → Bool) (x : Nat) : (s.release p).reg x = s.reg x := rfl
@[simp] theorem State.release_get (s : State) (p : Nat → Bool) (x : Fld) : (s.release p).get x = s.get x := rfl
@[simp] theorem State.release_bit (s : State) (p : Nat → Bool) (x : Fld) : (s.release p).bit x = s.bit x := rfl
@[simp] theorem State.tick_reg (s : State) (x : Nat) : (s.tick).reg x = s.reg x := rfl
@[simp] theorem State.tick_get (s : State) (x : Fld) : (s.tick).get x = s.get x := rfl
@[simp] theorem State.tick_bit (s : State) (x : Fld) : (s.tick).bit x = s.bit x := rfl
@[simp] theorem State.cond_reg (s : State) (i : Nat) (b : Bool) (x : Nat) : (s.cond i b).reg x = s.reg x := by unfold State.cond; split <;> rfl
@[simp] theorem State.cond_get (s : State) (i : Nat) (b : Bool) (x : Fld) : (s.cond i b).get x = s.get x := by unfold State.cond; split <;> rfl
@[simp] theorem State.cond_bit (s : State) (i : Nat) (b : Bool) (x : Fld) : (s.cond i b).bit x = s.bit x := by unfold State.cond; split <;> rfl
@[simp] theorem State.occur_reg (s : State) (i : Nat) (x : Nat) : (s.occur i).reg x = s.reg x := rfl
@[simp] theorem State.occur_get (s : State) (i : Nat) (x : Fld) : (s.occur i).get x = s.get x := rfl
@[simp] theorem State.occur_bit (s : State) (i : Nat) (x : Fld) : (s.occur i).bit x = s.bit x := rfl
@[simp] theorem State.leave_reg (s : State) (l : Leave) (x : Nat) : (s.leave l).reg x = s.reg x := by unfold State.leave; split <;> rfl
@[simp] theorem State.leave_get (s : State) (l : Leave) (x : Fld) : (s.leave l).get x = s.get x := by unfold State.leave; split <;> rfl
@[simp] theorem State.leave_bit (s : State) (l : Leave) (x : Fld) : (s.leave l).bit x = s.bit x := by unfold State.leave; split <;> rfl

end Sys2Proof.Machine
end

