-- ==== Sys2Proof/Tests/Slice0.lean ====
section
/-! SUPPORT. Slice0.lean: the model's own tests. Operands no command can have, worked examples of the specification, the
queue, and for every statement with premises states and operands that meet all of them together. -/
namespace Sys2Proof.Tests

-- one kernel evaluation after another: side by side they need more threads than the check has memory for
set_option Elab.async false

open Sys2Proof Sys2Proof.Machine

/-- The device of reset, but ACTIVE. -/
def up : State := { State.reset with pw.phase := .active }

/-- The state a command answers. -/
def nextOf (o : Host.Outcome State Fault Refusal) : State := match o with | .next t => t | _ => State.reset

def asleep (s : State) : State := { s with pw.phase := .sleep }

def ovlOn (s : State) (ch : Nat) : State := { s with cells.ovl := [(ch, { (default : Ovl) with on := true })] }

/-- ACTIVE with the configuration guard armed. -/
def armed : State := up.set CFGGUARD.STATUS.STATE 1

/-- Subscribed to step 1 from step 3 of its stair. -/
def subs : State :=
  { ((((up.setReg XACT.POSUP.addr 0x8003#16).setB CURR.SUB.EN true).set CURR.SUB.STEP 1).setB QUEUE.STATUS.LEAN false).setB TIME.STATUS.ALIGNED true with
    xact.plan := [(1, 1#16), (8, 0x2000#16), (9, 1#16)] }

/-- A block of step 1's current sensor, in a slot that `subs` accepts. -/
def blk : Slot :=
  slotSeal { (default : Slot) with
    type := 1, ver := 1, queue := 2,
    payload := [0, 0, 0, 0, 1, 0, BitVec.ofNat 8 (subs.used { CELLCFG.FINE.OSR with lo := 0, w := 9 }), 7] }

/-- ADC A with cell 1 in entry 0. -/
def auxUp : State := up.setReg AUXA.ENTRY0.addr 0x8005#16

/-- ADC A being disabled: EN is written 0 and still in use. -/
def auxOff : State := { up.setB AUXA.CTRL.EN false with held := [(AUXA.CTRL.EN.addr, some (up.reg AUXA.CTRL.EN.addr))] }

/-- A diagnostic tread of groups 2 and 3. -/
def diagUp : State := { up with diag.groups := some (2, 3) }

/-- The limits in use offered as their own replacement, with their check word. -/
def tight : State :=
  let s := (List.range 10).foldl (fun s i => s.setReg (SAFE.NEWOVLIM.plus i).addr (up.limWords.getD i 0)) up
  s.set2 SAFE.TCRC0 (crc32 (wordBytes s.candWords)).toNat

/-- A test tread of a unit that drives the output stage. -/
def stage : State := ((up.set BAN.ROLE.MODE 1).setB BAN.ROLE.USED true).setB BAN.STATUS.OVSOK true

/-- An active plan that gives slot 70 of DN-TX to queue 5. -/
def planned : State := { up.setB QUEUE.STATUS.LEAN false with xact.plan := [(1, 1#16), (8, 0x1046#16), (9, 5#16)] }

/-- In link-up on the UP port, with its stair number set. -/
def cmdUp : State := (up.set LINK.UPSTAT.STATE 6).setB XACT.STATUS.SIDSET true

/-- `cmdUp` without room for a response. -/
def cmdFull : State := { cmdUp with xact.depthUse := [(3, some 0)], xact.depth := [(3, some 0)] }

/-- A command for this device, in a slot with its CRC (R323, R351). -/
def cmd (op count addr : Nat) (data : List Word) (flags : Byte) : Cmd :=
  ⟨.up, slotSeal { (default : Slot) with
    type := 2, ver := 1, len := 128,
    payload := leBytes 1 op ++ [flags, 0, 0, 0] ++ leBytes 1 count ++ leBytes 2 addr ++ wordBytes data }⟩

/-- A WRITE without words, which is out of range. -/
def wr : Cmd := cmd 2 0 0 [] 0

/-- `planned` with the DN port up and a block in queue 5. -/
def queued : State :=
  { (planned.set LINK.DNSTAT.STATE 6) with
    link.dn.before := true, xact.queues := [(5, ⟨[{ (default : Block) with bytes := [1, 2, 3], up := true, dn := true }], 1⟩)] }

/-- A reply with channel 1's reading of 0. -/
def frame : TipolFrame := ⟨true, 8000, List.replicate 5 300, [1800, 1600, 1600, 1600, 200 * (tipCrc4 [1, 0, 0, 0] + 8)], true⟩
def isNext (o : Host.Outcome State Fault Refusal) : Bool := match o with | .next _ => true | _ => false

theorem nextOf_eq {o : Host.Outcome State Fault Refusal} (h : isNext o = true) : o = .next (nextOf o) := by
  cases o <;> simp_all [isNext, nextOf]

/-- Asleep, with a wake event in the queue. -/
def sleeping : State := { State.reset with pw.phase := .sleep, pending := [.wakePin] }

theorem sleeping_cold : sleeping.Cold := fun _ =>
  ⟨fun _ _ => rfl, by decide, rfl, rfl, rfl, rfl, rfl, rfl, rfl, rfl, rfl, rfl, rfl, rfl, rfl, rfl, rfl, rfl, rfl, rfl, rfl⟩

/-- ACTIVE, the guard in the state `g` and the host's check word `n`. -/
def guarded (g : Word) (n : Nat) : State :=
  { up with regs := [(linear 0x02 0x02, g), (linear 0x02 0x08, BitVec.ofNat 16 n), (linear 0x02 0x09, BitVec.ofNat 16 (n / 65536))] }

theorem guarded_stream (g : Word) (n : Nat) : (guarded g n).cfgStream = up.cfgStream := by
  have far : ∀ a, (a == linear 0x02 0x02 || a == linear 0x02 0x08 || a == linear 0x02 0x09) = false → (guarded g n).reg a = up.reg a := by
    intro a h
    simp only [Bool.or_eq_false_iff, beq_eq_false_iff_ne] at h
    obtain ⟨⟨h1, h2⟩, h3⟩ := h
    simp [guarded, State.reg, mapGet, up, State.reset, Ne.symm h1, Ne.symm h2, Ne.symm h3]
  have all : cfgAddrs.all (fun a => (a == linear 0x02 0x02 || a == linear 0x02 0x08 || a == linear 0x02 0x09) == false) = true := by decide +kernel
  have words : (guarded g n).cfgWords = up.cfgWords :=
    List.map_congr_left fun a h => by rw [far a (by simpa using List.all_eq_true.mp all a h)]
  unfold State.cfgStream
  rw [words]
  rfl

theorem guarded_check (g : Word) (n : Nat) : (guarded g n).cfgCheck = up.cfgCheck := by
  unfold State.cfgCheck; rw [guarded_stream]

theorem guarded_crc (g : Word) (n : Nat) (h : n < 4294967296) : (guarded g n).get2 CFGGUARD.CRC0 = n := by
  have e : (guarded g n).get2 CFGGUARD.CRC0 =
      fieldOf (BitVec.ofNat 16 n) 0 16 + 65536 * fieldOf (BitVec.ofNat 16 (n / 65536)) 0 16 := rfl
  rw [e]; simp only [fieldOf, BitVec.toNat_ofNat]; omega
theorem check_lt : up.cfgCheck < 4294967296 := (crc32 up.cfgStream).isLt

theorem guarded_ne (g : Word) : (guarded g ((up.cfgCheck + 1) % 4294967296)).get2 CFGGUARD.CRC0 ≠ (guarded g ((up.cfgCheck + 1) % 4294967296)).cfgCheck := by
  rw [guarded_crc _ _ (Nat.mod_lt _ (by decide)), guarded_check]
  have := check_lt
  omega
theorem guarded_eq (g : Word) : (guarded g up.cfgCheck).get2 CFGGUARD.CRC0 = (guarded g up.cfgCheck).cfgCheck := by
  rw [guarded_crc _ _ check_lt, guarded_check]

theorem plus_one_ne (x : BitVec 32) : x + 1 ≠ x := by intro h; bv_omega

theorem seal_ok (x : Slot) : (slotSeal x).crcOk = true := beq_self_eq_true _

/-- The slot with a wrong CRC. -/
def spoil (x : Slot) : Slot := { x with crc := slotCrc x + 1 }

theorem spoil_bad (x : Slot) : (spoil x).crcOk = false := beq_eq_false_iff_ne.mpr (plus_one_ne (slotCrc x))

/-! ### Operands no command can have -/

theorem test_snapshot_refused : (Instr.snapshotImage false (List.replicate 37 (List.replicate 393 0))).WellFormed = false := by
  decide +kernel

theorem test_malformed_stops : exec (.fineBoundary 0 []) up = .fault (.malformed "FINE_BOUNDARY: 38 channels") := rfl

theorem test_fine_refused : (Instr.fineBoundary 0 []).WellFormed = false := by decide

theorem test_sweep_refused : (Instr.eyeSweepDone .up [true]).WellFormed = false := by decide

theorem test_report_refused : (Instr.trainingReportDone .up 0 0 [1, 2] 0).WellFormed = false := by decide

theorem test_monitor_refused : (Instr.eyeMonitor .dn []).WellFormed = false := by decide

theorem test_scrub_refused : (Instr.scrubSector [0, 0] true).WellFormed = false := by decide

theorem test_search_refused : (Instr.searchTransactionEnd (List.replicate 17 1)).WellFormed = false := by decide

/-! ### Worked examples of the specification -/

/-- 04, correcting cell 17, with the coefficients of 07 at 41 °C: O = 105 µV, G = −90 ppm, D = 3,288,104 gives 3,287,703 µV. -/
def cell17 : State :=
  { up with
    vault.fac := [(16 * 5 + 2, (92, -12000)), (16 * 5 + 3, (127, -5000))]
    cal.chans := [(16, { (default : CalChan) with delta := ⟨-768, -768, -51200, -51200, 0, 0⟩ })] }

theorem test_coefficients : cell17.coeffs 16 0x0290 true = (105, -9 / 100000) := by decide +kernel

theorem test_correction : roundRat (cell17.corrected 16 0x0290 3288104) = 3287703 := by decide +kernel

/-- 04, decoding examples: value and tag of cell 17 in SNAPA words 0x28 and 0x29, a STALE and a clamped result. -/
def shown (r : Res) : Word × Word :=
  let s := { up with cells.snap := [(16, r)] }
  (s.readWord 0x228, s.readWord 0x229)

theorem test_decode_plain : shown { (default : Res) with v := 3287703, tag := 5 } = (0x2A97#16, 0x5032#16) := by decide +kernel

theorem test_decode_stale : shown { (default : Res) with v := -300000, stale := true, tag := 12 } = (0x6C20#16, 0xC4FB#16) := by
  decide +kernel

theorem test_decode_high : shown { (default : Res) with v := 8388607, ovr := true, tag := 9 } = (0xFFFF#16, 0x917F#16) := by
  decide +kernel

/-- 05, converting a current result: code −791,600 with tag 7 in 0x09:0x20 and 0x09:0x21. -/
theorem test_decode_current :
    (let s := { up with cells.snap := [(36, { (default : Res) with v := -791600, tag := 7 })] }
     (s.readWord (linear 0x09 0x20), s.readWord (linear 0x09 0x21))) = (0xEBD0#16, 0x70F3#16) := by decide +kernel

/-- 08, temperature of cell 17: x = 1,999 between (1,800, 720) and (2,120, 400) gives 521. -/
theorem test_interpolation : interp [(1800, 720), (2120, 400)] 1999 = 521 := by decide +kernel

/-- 02, plant time set back by 5 s at STN 0x4A3B1388. -/
def setBack : State :=
  { (((up.setB TIME.STATUS.PTPEND true).setB TIME.STATUS.PTVALID true).set2 TIME.PENDT0 0x4A3B1388).set2 TIME.PEND0 180000000 with
    tm.stn := 0x4A3B1388, tm.ptSec := 180000005, tm.ptMs := 0 }

theorem test_plant_time_back :
    (let t := nextOf (exec .plantTimeApply setBack)
     (t.tm.ptSec, t.bit TIME.EVT.PTSET, t.bit TIME.EVT.PTBACK, (t.reg TIME.LASTSTEP.addr).toInt)) = (180000000, true, true, -5) := by
  decide +kernel

/-- 13, the overload of cell 17: faults 12 and 13 have occurred, 13 still holds; the host then writes 0x3000 to STICKY0,
and CLRREJIDX shows 13 with its valid bit [6]. -/
def overloaded : State := { up with tm.tread := 9, condNow := 0x2000#64, occurred := 0x3000#64 }

theorem test_collection :
    (let t := nextOf (exec .faultCollection overloaded)
     (t.reg FAULT.STICKY0.addr, t.reg FAULT.LIVE0.addr, t.bit FAULT.ERRCTL.SWLEVEL)) = (0x3000#16, 0x2000#16, true) := by decide +kernel

theorem test_sticky_clear :
    (let t := nextOf (exec (.stickyClear 0 0x3000#16) (nextOf (exec .faultCollection overloaded)))
     (t.reg FAULT.STICKY0.addr, t.bit FAULT.EVT.CLRREJ, t.get FAULT.CLRREJIDX)) = (0x2000#16, true, 64 + 13) := by decide +kernel

/-- R324: the CRC-32 of the nine digits. -/
theorem test_crc32 : crc32 [0x31, 0x32, 0x33, 0x34, 0x35, 0x36, 0x37, 0x38, 0x39] = 0xCBF43926#32 := by decide +kernel

/-- R319: the CRC-16 of the nine digits. -/
theorem test_crc16 : crc16 [0x31, 0x32, 0x33, 0x34, 0x35, 0x36, 0x37, 0x38, 0x39] = 0x29B1#16 := by decide +kernel

/-- R346: a command slot leaves with HOP one lower, modulo 256. -/
theorem test_forwarded :
    (let x := (cmd 1 8 0x400 [] 0).raw
     ((forwarded x).hop, (forwarded x).payload == x.payload)) = (255, true) := by decide +kernel

/-! ### The queue -/

theorem test_idle : step up = .next up := rfl

/-- First in, first out: the key of the first command is wrong, the second stays waiting. -/
theorem test_first_in :
    (let t := nextOf (step { up with pending := [.safeTrip 0, .kick] })
     (t.pending, t.bit SAFE.EVT.KEYREJ, t.locked)) = ([.kick], true, up.locked) := by decide +kernel

/-- The digest of "abc" that SHA-256 is defined with. -/
theorem test_sha256 : sha256 [0x61, 0x62, 0x63] =
    0xBA7816BF8F01CFEA414140DE5DAE2223B00361A396177A9CB410FF61F20015AD#256 := by decide +kernel


/-! ### Premises inside the clauses on images and fine results -/

/-- Fine streams at OSR 256, with channel 5 primed and never away from 0. -/
def fineUp : State :=
  { up.set CELLCFG.FINE.OSR 0 with
    tm.tread := 3
    cells.chains := [(5, { (default : Chain) with buf := [0, 0], n := 5000, primed := true, hist := List.replicate 24 0 })] }

/-- Step 4 of R82 on an output of the FIR. -/
def fineStep4 (s : State) (ch b : Nat) (x : Rat) : Rat :=
  (roundRat (s.corrected ch s.cells.dieTemp x) : Rat) + if ch < 36 then s.irTerm (ch + 1) b else 0

/-- The chain of `ch` after the samples of a period, before its filters. -/
def fineFed (s : State) (ch b : Nat) (l : List Int) : Chain :=
  let c := look s.cells.chains ch
  let k := c.start + (if c.afterOvr then 16 else 0) + s.osr - b
  let r := s.osr / 2
  (c.feed r (((s.fed ch b l).take r).drop k) (fineStep4 s ch b)).feed r (((s.fed ch b l).drop r).drop (k - r)) (fineStep4 s ch b)

theorem runChain_raw (s : State) (ch b : Nat) (l : List Int) (h : (fineFed s ch b l).primed = true) :
    (s.runChain ch b l).raw =
      roundRat (s.filters (fineFed s ch b l) (fineStep4 s ch b (firD (s.osr / 2) (fineFed s ch b l).hist))).1 :=
  congrArg Chain.raw (if_pos h)

/-- A FIR fed with zeros gives 0, whatever its free taps. -/
theorem fir_still (r : Nat) : firD r (List.replicate 24 0) = 0 := by simp [firD, List.range_succ, List.getD]

theorem fine_still : (fineUp.runChain 5 12544 (List.replicate 256 0)).raw = 0 := by
  rw [runChain_raw _ _ _ _ (by decide +kernel), show (fineFed fineUp 5 12544 (List.replicate 256 0)).hist = List.replicate 24 0 by decide +kernel,
    fir_still]
  decide +kernel

theorem test_meets_FineStreams_value : ∃ (s : State) (clk : Fin 4096) (l : List (List Int)) (ch : Nat) (v : Int), s.pw.phase = .active ∧
    l.length = 38 ∧ s.cells.finePend = none ∧ s.bit CELLCFG.CTRL.FINEEN = true ∧ s.isBoundary (s.used CELLCFG.FINE.OSR) clk.val = true ∧
    (∀ c ∈ l, c.length = s.osr) ∧ 4096 < s.absClk clk.val ∧ ch < 38 ∧ s.chanOn ch = true ∧
    s.chainReady (s.runChain ch (s.absClk clk.val) (l.getD ch [])) (s.absClk clk.val) = true ∧ s.inOverload ch (s.absClk clk.val) = false ∧
    s.calAt (lastBack clk.val) ch = false ∧ v = (s.runChain ch (s.absClk clk.val) (l.getD ch [])).raw ∧ (s.rangeOf ch).1 ≤ v ∧ v ≤ (s.rangeOf ch).2 :=
  ⟨fineUp, 256, List.replicate 38 (List.replicate 256 0), 5, 0, by decide +kernel, by decide +kernel, by decide +kernel, by decide +kernel,
    by decide +kernel, by decide +kernel, by decide +kernel, by decide +kernel, by decide +kernel, by decide +kernel, by decide +kernel,
    by decide +kernel, fine_still.symm, by decide +kernel, by decide +kernel⟩

theorem test_meets_FineStreams_overload : ∃ (s : State) (clk : Fin 4096) (l : List (List Int)) (ch : Nat), s.pw.phase = .active ∧
    l.length = 38 ∧ s.cells.finePend = none ∧ s.bit CELLCFG.CTRL.FINEEN = true ∧ s.isBoundary (s.used CELLCFG.FINE.OSR) clk.val = true ∧
    (∀ c ∈ l, c.length = s.osr) ∧ 4096 < s.absClk clk.val ∧ ch < 38 ∧ s.chanOn ch = true ∧ s.inOverload ch (s.absClk clk.val) = true :=
  ⟨{ fineUp with cells.ovl := [(5, { (default : Ovl) with on := true })] }, 256, List.replicate 38 (List.replicate 256 0), 5, by decide +kernel⟩

/-- A tread in whose aperture channels 5 and 36 were in overload, with 12 cells. -/
def hitUp : State :=
  { up.set CELLCFG.COUNT.COUNT 12 with
    tm.tread := 2, cells.ovl := [(5, { (default : Ovl) with win := true }), (36, { (default : Ovl) with win := true })] }

theorem test_meets_SnapshotImages_values : ∃ (s : State) (l : List (List Int)), s.pw.phase = .active ∧ imageShape l ∧ 0 < s.tm.tread ∧
    s.tm.noSnap = false ∧ s.cells.fresh = false ∧ (s.chanOn 5 = true ∧ s.winHit 5 = true) ∧ (s.chanOn 36 = true ∧ s.winHit 36 = true) ∧
    (s.chanOn 6 = true ∧ s.winHit 6 = false ∧ s.calNow 6 = false) ∧ s.count ≤ 12 :=
  ⟨hitUp, List.replicate 38 (List.replicate 393 100), by decide +kernel, ⟨by decide +kernel, by decide +kernel⟩, by decide +kernel⟩

/-! ### Every premise can be met: `test_meets_<Name>` shows it for each clause of the statement `<Name>` -/

theorem test_meets_StepTakesFront :
    (∃ (c : Instr) (q : List Instr) (s : State), s.pending = c :: q) ∧
    (∃ (s : State), s.pending = []) :=
  ⟨⟨.kick, [], { up with pending := [.kick] }, by decide +kernel⟩,
    ⟨up, by decide +kernel⟩⟩

theorem test_meets_CommandsComplete : ∃ (s : State) (c : Instr) (q : List Instr), s.pending = c :: q ∧ s.safeRun = true :=
  ⟨{ up with pending := [.kick] }, .kick, [], by decide +kernel⟩

theorem test_meets_FactoryDataStands : ∃ (s t : State), step s = .next t :=
  ⟨{ up with pending := [.format 0xA5] }, nextOf (step { up with pending := [.format 0xA5] }), nextOf_eq (by decide +kernel)⟩

theorem test_meets_ColdStaysCleared : ∃ (s t : State), (s.Cold ∧ s.pw.leave = none) ∧ step s = .next t :=
  ⟨sleeping, nextOf (step sleeping), ⟨sleeping_cold, by decide⟩, nextOf_eq (by decide +kernel)⟩

theorem test_meets_NotActiveIgnores :
    (∃ (i : Instr) (s : State), s.pw.phase ≠ .active ∧ startsUp i = false ∧ receives i = none ∧ i.WellFormed = true) ∧
    (∃ (i : Instr) (s : State) (t : Nat), s.pw.phase ≠ .active ∧ receives i = some t ∧ (s.powered = false ∨ t < 150000)) :=
  ⟨⟨.kick, State.reset, by decide +kernel⟩,
    ⟨.ackEdge 5, State.reset, 5, by decide +kernel⟩⟩

theorem test_meets_CommandFrame : ∃ (i : Instr) (s t : State), exec i s = .next t :=
  ⟨.tselWrite 3, up, nextOf (exec (.tselWrite 3) up), nextOf_eq (by decide +kernel)⟩

theorem test_meets_ResetsClear :
    (∃ (s : State), s.powered = true) ∧
    (∃ (s : State), s.powered = true) ∧
    (∃ (s : State) (die : Int), s.powered = true ∧ 2400 ≤ die) :=
  ⟨⟨up, by decide +kernel⟩,
    ⟨up, by decide +kernel⟩,
    ⟨up, 2400, by decide +kernel⟩⟩

theorem test_meets_StartSequence :
    (∃ (s : State), s.pw.phase = .off ∧ s.pw.rstnLow = false ∧ s.pw.thermHold = false) ∧
    (∃ (s : State), s.startAt 0 = true ∧ s.newestSlot = none ∧ s.vault.lifeDone = false) ∧
    (∃ (s : State), s.startAt 1 = true) ∧
    (∃ (s : State), s.startAt 2 = true) :=
  ⟨⟨State.reset, by decide +kernel⟩,
    ⟨{ up with pw.phase := .starting 0 }, by decide +kernel⟩,
    ⟨{ up with pw.phase := .starting 1 }, by decide +kernel⟩,
    ⟨{ up with pw.phase := .starting 2 }, by decide +kernel⟩⟩

theorem test_meets_StartRefusals :
    (∃ (die : Int), die < 2160) ∧
    (∃ (die : Int), 2160 ≤ die ∧ die < 2400) ∧
    (∃ (s : State), (s.pw.thermHold = true ∨ s.pw.rstnLow = true)) ∧
    (∃ (s : State), s.pw.phase ≠ .sleep ∧ s.pw.rstnLow = true) ∧
    (∃ (s : State), s.startAt 0 = false) ∧
    (∃ (s : State), s.startAt 1 = false) ∧
    (∃ (s : State), s.startAt 2 = false) ∧
    (∃ (s : State), s.pw.phase = .sleep ∧ s.bit SYS.WAKECFG.PINEN = true) ∧
    (∃ (s : State), s.pw.phase = .sleep ∧ s.bit SYS.WAKECFG.TONEUPEN = true) ∧
    (∃ (s : State), s.pw.phase = .sleep ∧ s.bit SYS.WAKECFG.TONEDNEN = true) ∧
    (∃ (s : State), s.pw.phase = .sleep ∧ s.pw.rstnLow = true) ∧
    (∃ (s : State), s.pw.phase = .sleep) :=
  ⟨⟨default, by decide +kernel⟩,
    ⟨2160, by decide +kernel⟩,
    ⟨{ up with pw.phase := .off, pw.thermHold := true }, by decide +kernel⟩,
    ⟨{ up with pw.rstnLow := true }, by decide +kernel⟩,
    ⟨up, by decide +kernel⟩,
    ⟨up, by decide +kernel⟩,
    ⟨up, by decide +kernel⟩,
    ⟨asleep (up.setB SYS.WAKECFG.PINEN true), by decide +kernel⟩,
    ⟨asleep (up.setB SYS.WAKECFG.TONEUPEN true), by decide +kernel⟩,
    ⟨asleep (up.setB SYS.WAKECFG.TONEDNEN true), by decide +kernel⟩,
    ⟨{ up with pw.phase := .sleep, pw.rstnLow := true }, by decide +kernel⟩,
    ⟨asleep up, by decide +kernel⟩⟩

theorem test_meets_ArmedGuardRefuses :
    (∃ (s : State) (a : Fin 2048), s.pw.phase = .active ∧ s.pw.leave = none ∧ s.guardArmed = true ∧ s.cfgClass a.val = true ∧ a.val ≠ FAULT.ERRCTL.MINW.addr) ∧
    (∃ (s : State) (a : Nat), (cfgMask a ≠ 0 ∨ a = linear 0x06 0x0D ∨ (a = linear 0x14 0x0C ∧ s.get IMPWIN.SEL.CLASS = 1) ∨ (linear 0x11 0x09 ≤ a ∧ a ≤ linear 0x11 0x0C ∧ s.get { CALWIN.SEL with lo := 8, w := 4 } = 7 ∧ s.get { CALWIN.SEL with w := 6 } ≤ 37))) ∧
    (∃ (s : State) (a : Fin 2048), s.pw.phase = .active ∧ s.pw.leave = none ∧ s.guardArmed = true ∧ a.val = FAULT.ERRCTL.MINW.addr) ∧
    (∃ (s : State), s.pw.phase = .active ∧ s.guardArmed = true) ∧
    (∃ (s : State), s.pw.phase = .active ∧ s.guardArmed = true ∧ s.get IMPWIN.SEL.CLASS = 1) ∧
    (∃ (s : State), s.pw.phase = .active ∧ s.guardArmed = true ∧ s.get { CALWIN.SEL with lo := 8, w := 4 } = 7 ∧ s.get { CALWIN.SEL with w := 6 } ≤ 37) ∧
    (∃ (s : State), s.pw.phase = .active) ∧
    (∃ (s : State) (a : Fin 2048), s.pw.phase = .active ∧ s.pw.leave = none ∧ s.guardArmed = false ∧ s.rwLocked = true ∧ a.val = CELLCFG.COUNT.COUNT.addr) :=
  ⟨⟨armed, 0x108, by decide +kernel⟩,
    ⟨armed, 0x108, by decide +kernel⟩,
    ⟨armed, 1500, by decide +kernel⟩,
    ⟨armed, by decide +kernel⟩,
    ⟨armed.set IMPWIN.SEL.CLASS 1, by decide +kernel⟩,
    ⟨armed.set { CALWIN.SEL with lo := 8, w := 4 } 7, by decide +kernel⟩,
    ⟨armed, by decide +kernel⟩,
    ⟨up.setB CFGGUARD.STATUS.RWLOCK true, 0x1C8, by decide +kernel⟩⟩

theorem test_meets_SupplyFaults :
    (∃ (s : State), s.powered = true) ∧
    (∃ (s : State), s.powered = true) ∧
    (∃ (s : State), s.powered = true) ∧
    (∃ (s : State), s.powered = true) ∧
    (∃ (s : State) (m : Monitor) (i : Nat), s.powered = true ∧ (m, i) ∈ [(Monitor.v33, 0), (.v18, 1), (.v09, 2)]) ∧
    (∃ (s : State) (n : Nat), s.pw.phase = .starting n ∧ s.pw.leave = none) ∧
    (∃ (s : State), s.pw.phase = .active ∧ s.pw.leave = none) ∧
    (∃ (s : State), s.powered = true ∧ s.pw.leave = none ∧ s.pw.buckStopped = true) :=
  ⟨⟨up, by decide +kernel⟩,
    ⟨up, by decide +kernel⟩,
    ⟨up, by decide +kernel⟩,
    ⟨up, by decide +kernel⟩,
    ⟨up, .v33, 0, by decide +kernel⟩,
    ⟨{ up with pw.phase := .starting 1 }, 1, by decide +kernel⟩,
    ⟨up, by decide +kernel⟩,
    ⟨{ up with pw.buckStopped := true }, by decide +kernel⟩⟩

theorem test_meets_ResetAndSleepRequests :
    (∃ (s : State) (key : Byte), s.pw.phase = .active ∧ s.pw.leave = none ∧ key ≠ 0xA5#8) ∧
    (∃ (s : State), s.pw.phase = .active ∧ s.pw.leave = none ∧ s.pw.closing = none ∧ s.flState ≠ 1) ∧
    (∃ (s : State), s.pw.phase = .active ∧ s.pw.leave = none ∧ s.pw.closing = none ∧ s.flState = 1) ∧
    (∃ (s : State) (e : OpEnd), s.pw.phase = .active ∧ s.pw.leave = none ∧ s.pw.closing = some .swrst ∧ (s.opDone e).flushOver = true) ∧
    (∃ (s : State), s.pw.phase = .active ∧ s.pw.leave = none ∧ s.pw.closing = some .swrst) ∧
    (∃ (s : State), s.pw.phase = .active ∧ s.pw.leave = none ∧ s.pw.closing = some (.sleep .commLoss)) ∧
    (∃ (s : State), s.pw.phase = .active ∧ s.pw.leave = none ∧ s.pw.sleepReq = none) ∧
    (∃ (s : State), s.pw.phase = .active ∧ s.pw.leave = none ∧ s.pw.sleepReq = some .commLoss ∧ s.pw.hostWait = none) ∧
    (∃ (s : State), s.pw.phase = .active ∧ s.pw.leave = none ∧ s.pw.sleepReq = some .host) :=
  ⟨⟨up, default, by decide +kernel⟩,
    ⟨up, by decide +kernel⟩,
    ⟨(up.set FLASH.STATUS.STATE 1), by decide +kernel⟩,
    ⟨{ up with pw.closing := some .swrst }, .failed, by decide +kernel⟩,
    ⟨{ up with pw.closing := some .swrst }, by decide +kernel⟩,
    ⟨{ up with pw.closing := some (.sleep .commLoss) }, by decide +kernel⟩,
    ⟨up, by decide +kernel⟩,
    ⟨{ up with pw.sleepReq := some .commLoss }, by decide +kernel⟩,
    ⟨{ up with pw.sleepReq := some .host }, by decide +kernel⟩⟩

theorem test_meets_SleepEntryAndEnd :
    (∃ (s : State), s.pw.phase = .active ∧ s.pw.leave = none ∧ s.used LINK.LOSS_TO ≤ s.link.loss ∧ s.safe.commOut = false ∧ s.pw.sleepReq = none) ∧
    (∃ (s : State), s.pw.phase = .active ∧ s.pw.leave = none ∧ s.pw.sleepReq = some .host ∧ s.pw.closing = none ∧ s.pw.reqAt < s.tm.tread) ∧
    (∃ (s : State), s.pw.phase = .active ∧ s.pw.leave = none ∧ s.pw.sleepReq = some .host ∧ s.tm.tread ≤ s.pw.reqAt) ∧
    (∃ (s : State), s.pw.phase = .active ∧ s.pw.leave = none ∧ s.pw.sleepReq = some .commLoss ∧ s.pw.closing = none) ∧
    (∃ (s : State) (r : SleepReq) (w : WakeNow) (i : Instr), s.pw.phase = .active ∧ s.pw.leave = none ∧ s.pw.closing = some (.sleep r) ∧ (¬ (r = .commLoss ∧ s.link.sleepAbort = true)) ∧ (i = .sleepFlushTimeout w ∨ (i = .sleepFlushDone w ∧ s.flushOver = true))) ∧
    (∃ (s : State) (w : WakeNow) (i : Instr), s.pw.phase = .active ∧ s.pw.leave = none ∧ s.pw.closing = some (.sleep .commLoss) ∧ s.link.sleepAbort = true ∧ s.pw.rstWait = false ∧ (i = .sleepFlushTimeout w ∨ (i = .sleepFlushDone w ∧ s.flushOver = true))) ∧
    (∃ (s : State) (w : WakeNow) (i : Instr), s.pw.phase = .active ∧ s.pw.leave = none ∧ s.pw.closing = some (.sleep .commLoss) ∧ s.link.sleepAbort = true ∧ s.pw.rstWait = true ∧ (i = .sleepFlushTimeout w ∨ (i = .sleepFlushDone w ∧ s.flushOver = true))) ∧
    (∃ (s : State), s.pw.phase = .active ∧ s.pw.leave = none ∧ s.pw.toneOut = true) :=
  ⟨⟨{ up with link.loss := up.used LINK.LOSS_TO }, by decide +kernel⟩,
    ⟨{ up with pw.sleepReq := some .host, pw.reqAt := 4, tm.tread := 5 }, by decide +kernel⟩,
    ⟨{ up with pw.sleepReq := some .host }, by decide +kernel⟩,
    ⟨{ up with pw.sleepReq := some .commLoss }, by decide +kernel⟩,
    ⟨{ up with pw.closing := some (.sleep .host) }, .host, ⟨true, false, false⟩, .sleepFlushTimeout ⟨true, false, false⟩, by decide +kernel⟩,
    ⟨{ up with pw.closing := some (.sleep .commLoss), link.sleepAbort := true, pw.hostWait := some 3 }, ⟨true, false, false⟩, .sleepFlushDone ⟨true, false, false⟩, by decide +kernel⟩,
    ⟨{ up with pw.closing := some (.sleep .commLoss), link.sleepAbort := true, pw.rstWait := true }, ⟨true, false, false⟩, .sleepFlushTimeout ⟨true, false, false⟩, by decide +kernel⟩,
    ⟨{ up with pw.toneOut := true }, by decide +kernel⟩⟩

theorem test_meets_MarkKeepsAwake :
    (∃ (s : State) (p : Port) (m : Mark), s.pw.phase = .active ∧ s.pw.closing = some (.sleep .commLoss) ∧ s.linkUp p = true ∧ m.rate.toNat = s.pRateOf p ∧ m.origin = originOf p ∧ s.source? = some p) ∧
    (∃ (s : State) (w : WakeNow) (i : Instr), s.pw.phase = .active ∧ s.pw.leave = none ∧ s.pw.closing = some (.sleep .commLoss) ∧ s.link.sleepAbort = true ∧ s.pw.rstWait = false ∧ s.pw.hostWait = none ∧ (i = .sleepFlushTimeout w ∨ (i = .sleepFlushDone w ∧ s.flushOver = true))) ∧
    (∃ (s : State) (w : WakeNow) (i : Instr), s.pw.phase = .active ∧ s.pw.leave = none ∧ s.pw.closing = some (.sleep .host) ∧ (i = .sleepFlushTimeout w ∨ (i = .sleepFlushDone w ∧ s.flushOver = true))) :=
  ⟨⟨{ ((up.set LINK.UPSTAT.STATE 6).set TIME.STATUS.SRC 1) with pw.closing := some (.sleep .commLoss) }, .up, { (default : Mark) with origin := 1 }, by decide +kernel⟩,
    ⟨{ up with pw.closing := some (.sleep .commLoss), link.sleepAbort := true }, ⟨true, false, false⟩, .sleepFlushDone ⟨true, false, false⟩, by decide +kernel⟩,
    ⟨{ up with pw.closing := some (.sleep .host) }, ⟨false, false, false⟩, .sleepFlushTimeout ⟨false, false, false⟩, by decide +kernel⟩⟩

theorem test_meets_TreadCounters : ∃ (s : State), s.pw.phase = .active ∧ 0 < s.tm.tread :=
  ⟨{ up with tm.tread := 7, tm.stn := 4294967295 }, by decide +kernel⟩

theorem test_meets_AlignmentAndSlips :
    (∃ (s : State), s.pw.phase = .active ∧ 16 ≤ s.tm.misses) ∧
    (∃ (s : State), s.pw.phase = .active ∧ s.tm.misses < 16) ∧
    (∃ (s : State), s.pw.phase = .active ∧ s.source? = some .up ∧ 4 ≤ s.link.upMiss ∧ s.qualifies .dnTx = true) ∧
    (∃ (s : State), s.pw.phase = .active ∧ s.source? = some .dn ∧ 64 ≤ s.link.upGood) ∧
    (∃ (s : State), s.pw.phase = .active ∧ s.tm.stepPend = none) ∧
    (∃ (s : State) (e : Int), s.pw.phase = .active ∧ s.tm.stepPend = some e ∧ 0 ≤ e) ∧
    (∃ (s : State) (e : Int), s.pw.phase = .active ∧ s.tm.stepPend = some e ∧ e < 0) :=
  ⟨⟨{ up with tm.misses := 16 }, by decide +kernel⟩,
    ⟨up, by decide +kernel⟩,
    ⟨{ (up.set TIME.STATUS.SRC 1) with link.upMiss := 4, link.dn.before := true }, by decide +kernel⟩,
    ⟨{ (up.set TIME.STATUS.SRC 2) with link.upGood := 64 }, by decide +kernel⟩,
    ⟨up, by decide +kernel⟩,
    ⟨{ up with tm.stepPend := some 0 }, 0, by decide +kernel⟩,
    ⟨{ up with tm.stepPend := some (-300) }, -300, by decide +kernel⟩⟩

theorem test_meets_MarkAccepted :
    (∃ (s : State) (p : Port) (m : Mark), s.pw.phase = .active ∧ s.linkUp p = true ∧ m.rate.toNat = s.pRateOf p ∧ m.origin = originOf p ∧ s.source? = some p) ∧
    (∃ (s : State) (p : Port) (m : Mark) (crc : Word), s.pw.phase = .active ∧ s.linkUp p = true ∧ crc ≠ markCrc m) ∧
    (∃ (s : State) (p : Port), s.pw.phase = .active ∧ s.linkUp p = false) :=
  ⟨⟨((up.set LINK.UPSTAT.STATE 6).set TIME.STATUS.SRC 1), .up, { (default : Mark) with origin := 1, stn := 9 }, by decide +kernel⟩,
    ⟨(up.set LINK.UPSTAT.STATE 6), .up, default, default, by decide +kernel⟩,
    ⟨up, default, by decide +kernel⟩⟩

theorem test_meets_VaultBoundAndPlantTime :
    (∃ (s : State), s.pw.phase = .active ∧ s.bit SYS.STATUS.LTCRES = true ∧ s.tm.ltc / 16777216 + 1 ≠ s.tm.hiWritten ∧ s.vault.ringBad < 128) ∧
    (∃ (s : State), s.pw.phase = .active ∧ s.bit SYS.STATUS.LTCRES = true ∧ s.tm.ltc / 16777216 + 1 ≠ s.tm.hiWritten) ∧
    (∃ (s : State), s.pw.phase = .active ∧ s.tm.ltc / 16777216 + 1 = s.tm.hiWritten) ∧
    (∃ (s : State), s.pw.phase = .active ∧ s.ptDue = true) :=
  ⟨⟨up.setB SYS.STATUS.LTCRES true, by decide +kernel⟩,
    ⟨up.setB SYS.STATUS.LTCRES true, by decide +kernel⟩,
    ⟨{ up with tm.hiWritten := 1 }, by decide +kernel⟩,
    ⟨up.setB TIME.STATUS.PTPEND true, by decide +kernel⟩⟩

theorem test_meets_SnapshotImages :
    (∃ (s : State) (l : List (List Int)), s.pw.phase = .active ∧ imageShape l ∧ 0 < s.tm.tread ∧ s.tm.noSnap = false ∧ s.cells.fresh = false) ∧
    (∃ (s : State) (l : List (List Int)), s.pw.phase = .active ∧ imageShape l ∧ 0 < s.tm.tread ∧ s.tm.noSnap = false ∧ s.cells.fresh = false) ∧
    (∃ (s : State) (l : List (List Int)), s.pw.phase = .active ∧ imageShape l ∧ (s.tm.tread = 0 ∨ s.tm.noSnap = true ∨ s.cells.fresh = true)) :=
  ⟨⟨{ up with tm.tread := 2 }, List.replicate 38 (List.replicate 393 100), by decide +kernel, ⟨by decide +kernel, by decide +kernel⟩, by decide +kernel, by decide +kernel, by decide +kernel⟩,
    ⟨{ up with tm.tread := 2 }, List.replicate 38 (List.replicate 393 100), by decide +kernel, ⟨by decide +kernel, by decide +kernel⟩, by decide +kernel, by decide +kernel, by decide +kernel⟩,
    ⟨up, List.replicate 38 (List.replicate 393 100), by decide +kernel, ⟨by decide +kernel, by decide +kernel⟩, by decide +kernel⟩⟩

theorem test_meets_FineStreams :
    (∃ (s : State) (clk : Fin 4096) (l : List (List Int)) (ch : Nat), s.pw.phase = .active ∧ l.length = 38 ∧ s.cells.finePend = none ∧ s.bit CELLCFG.CTRL.FINEEN = true ∧ s.isBoundary (s.used CELLCFG.FINE.OSR) clk.val = true ∧ (∀ c ∈ l, c.length = s.osr) ∧ 4096 < s.absClk clk.val ∧ ch < 38 ∧ s.chanOn ch = true ∧ (s.inOverload ch (s.absClk clk.val) = true ∨ s.chainReady (s.runChain ch (s.absClk clk.val) (l.getD ch [])) (s.absClk clk.val) = true)) ∧
    (∃ (s : State) (clk : Fin 4096) (l : List (List Int)), s.pw.phase = .active ∧ l.length = 38 ∧ s.cells.finePend = none ∧ s.isBoundary (s.used CELLCFG.FINE.OSR) clk.val = false) ∧
    (∃ (s : State) (ch : Nat), s.pw.phase = .active ∧ ch < 38) ∧
    (∃ (s : State) (ch : Nat), s.pw.phase = .active ∧ ch < 38 ∧ s.bit CELLCFG.CTRL.FINEEN = false) ∧
    (∃ (s : State), s.pw.phase = .active ∧ s.bit CELLCFG.CTRL.FINEEN = true) ∧
    (∃ (s : State), s.pw.phase = .active) ∧
    (∃ (s : State) (clk : Fin 4096) (l : List (List Int)), s.pw.phase = .active ∧ l.length = 38 ∧ s.cells.finePend = none ∧ s.bit CELLCFG.CTRL.FINEEN = false ∧ s.isBoundary (s.used CELLCFG.FINE.OSR) clk.val = true) :=
  ⟨⟨{ up.set CELLCFG.FINE.OSR 0 with tm.tread := 3, cells.chains := put up.cells.chains 5 ({ (default : Chain) with start := 0, buf := [0, 0], n := 5000, primed := true, hist := List.replicate 24 0 }) }, 256, List.replicate 38 (List.replicate 256 7), 5, by decide +kernel⟩,
    ⟨up, 1, List.replicate 38 [], by decide +kernel⟩,
    ⟨up, default, by decide +kernel⟩,
    ⟨up.setB CELLCFG.CTRL.FINEEN false, 37, by decide +kernel⟩,
    ⟨up, by decide +kernel⟩,
    ⟨up, by decide +kernel⟩,
    ⟨up.setB CELLCFG.CTRL.FINEEN false, 0, List.replicate 38 [], by decide +kernel⟩⟩

theorem test_meets_OverloadDetector :
    (∃ (s : State) (ch : Chan), s.pw.phase = .active ∧ s.chanOn ch.val = true ∧ (look s.cells.ovl ch.val).on = false) ∧
    (∃ (s : State) (ch : Chan), s.pw.phase = .active ∧ (look s.cells.ovl ch.val).on = true) ∧
    (∃ (s : State) (ch : Chan), s.pw.phase = .active ∧ s.chanOn ch.val = false) :=
  ⟨⟨up, default, by decide +kernel⟩,
    ⟨ovlOn up 5, 5, by decide +kernel⟩,
    ⟨up.set CELLCFG.COUNT.COUNT 12, 12, by decide +kernel⟩⟩

theorem test_meets_CurrentSubscription :
    (∃ (s : State) (p : Port) (x : Slot) (b : BlockRx), s.pw.phase = .active ∧ s.framed p = true ∧ s.subscribes p x = true ∧ b = blockOf x ∧ s.rxCause x.crcOk b = 0 ∧ stnBefore b.stn.toNat s.tm.stn 4 = false) ∧
    (∃ (s : State) (p : Port) (x : Slot) (b : BlockRx) (n d : Nat), s.pw.phase = .active ∧ s.framed p = true ∧ s.subscribes p x = true ∧ b = blockOf x ∧ s.rxCause x.crcOk b ≠ 0 ∧ n = s.rxTread x.crcOk b ∧ d = (s.tm.stn + 4294967296 - n) % 4294967296) ∧
    (∃ (s : State) (p : Port) (sos : Bool) (x : Slot), s.pw.phase = .active ∧ (sos = false ∨ s.framed p = false ∨ s.subscribes p x = false)) ∧
    (∃ (s : State), s.pw.phase = .active ∧ s.subscribed = true ∧ s.gapPaired = false ∧ s.curr.judged ≠ some s.gapStn) ∧
    (∃ (s : State), s.pw.phase = .active ∧ s.curr.judged = some s.gapStn) :=
  ⟨⟨subs, .up, blk, blockOf blk, by decide +kernel, by decide +kernel, by rw [State.subscribes, State.planSubscribes, State.slotStn, show blk.crcOk = true from seal_ok _]; decide +kernel, rfl, by rw [show blk.crcOk = true from seal_ok _]; decide +kernel, by decide +kernel⟩,
    ⟨subs, .up, spoil blk, blockOf (spoil blk), 0, 0, by decide +kernel, by decide +kernel, by rw [State.subscribes, State.planSubscribes, State.slotStn, spoil_bad]; decide +kernel, rfl, by rw [spoil_bad]; decide +kernel, by rw [spoil_bad]; decide +kernel, by decide +kernel⟩,
    ⟨up, .up, true, default, by decide +kernel⟩,
    ⟨{ subs with curr.judged := some 3 }, by decide +kernel⟩,
    ⟨{ up with curr.judged := some 4294967292 }, by decide +kernel⟩⟩

theorem test_meets_CalibrationRequests :
    (∃ (s : State), s.pw.phase = .active ∧ s.cal.run = none ∧ s.cal.sz = none ∧ s.cal.runReq = false ∧ s.cal.szReq = false) ∧
    (∃ (s : State), s.pw.phase = .active ∧ (s.cal.run.isSome = true ∨ s.cal.sz.isSome = true ∨ s.cal.runReq = true ∨ s.cal.szReq = true)) ∧
    (∃ (s : State), s.pw.phase = .active) ∧
    (∃ (s : State), s.pw.phase = .active ∧ s.get CAL.AUTO = 1 ∧ s.calDue = true ∧ s.cal.run = none ∧ s.cal.sz = none ∧ s.cal.szReq = false ∧ s.bit CAL.CTRL.HOLD = false ∧ 48 ≤ s.tm.tread ∧ s.cal.rejEnd = none) :=
  ⟨⟨up, by decide +kernel⟩,
    ⟨{ up with cal.szReq := true }, by decide +kernel⟩,
    ⟨up, by decide +kernel⟩,
    ⟨{ up with tm.tread := 48 }, by decide +kernel⟩⟩

theorem test_meets_CalibrationTreads :
    (∃ (s : State) (t0 : Nat), s.pw.phase = .active ∧ s.cal.dueSince = some t0 ∧ t0 + 3600000 ≤ s.tm.ltc) ∧
    (∃ (s : State) (st : CrcState), s.pw.phase = .active ∧ s.tm.ltc % 16 = 0 ∧ st.ramOk = false) ∧
    (∃ (s : State) (st : CrcState), s.pw.phase = .active ∧ s.tm.ltc % 16 = 0 ∧ st.ramOk = true) ∧
    (∃ (s : State), s.pw.phase = .active ∧ (s.vault.guard + 100 ≤ s.cal.guard ∨ (s.vault.guard < s.cal.guard ∧ s.vault.guardLtc + 604800000 ≤ s.tm.ltc))) ∧
    (∃ (s : State) (z : SysZ), s.pw.phase = .active ∧ s.cal.sz = some z ∧ z.t < 255) ∧
    (∃ (s : State) (r : CalRun) (ch : Nat), s.pw.phase = .active ∧ s.cal.run = some r ∧ r.dead = false ∧ r.slip = false ∧ r.t % 4 = 1 ∧ ch ∈ groupChans (r.t / 4)) ∧
    (∃ (s : State) (m : CalMeas) (r : CalRun), s.pw.phase = .active ∧ s.cal.run = some r ∧ r.dead = false ∧ r.slip = false ∧ r.t % 4 = 2 ∧ m.ch.val ∈ groupChans (r.t / 4) ∧ s.calNow m.ch.val = true ∧ m.ch.val < 38) ∧
    (∃ (s : State) (r : CalRun), s.pw.phase = .active ∧ s.cal.run = some r ∧ r.dead = false ∧ r.slip = false ∧ r.t % 4 = 3) ∧
    (∃ (s : State) (m : CalMeas) (r : CalRun) (c : CalChan) (f : Int × Int) (o g : Int), s.pw.phase = .active ∧ s.cal.run = some r ∧ r.t % 4 = 3 ∧ r.dead = false ∧ r.slip = false ∧ s.cal.abortReq = false ∧ s.cal.reloadDue = false ∧ s.cfg.defPend = false ∧ r.meas = [m] ∧ c = look s.cal.chans m.ch.val ∧ f = s.factory m.ch.val (look r.temps m.ch.val) ∧ o = roundRat ((m.zero : Rat) - (f.1 : Rat) / 256) ∧ g = roundRat ((((CalMeas.standard m : Int) : Rat) / ((m.std - m.zero : Int) : Rat) - 1) * 100000000 - (f.2 : Rat) / 256) ∧ m.std ≠ m.zero ∧ (o.natAbs : Int) ≤ (fieldLimit m.ch.val).1 ∧ (g.natAbs : Int) ≤ (fieldLimit m.ch.val).2) ∧
    (∃ (s : State) (m : CalMeas) (r : CalRun) (c : CalChan) (f : Int × Int) (o g : Int), s.pw.phase = .active ∧ s.cal.run = some r ∧ r.t % 4 = 3 ∧ r.dead = false ∧ r.slip = false ∧ s.cal.abortReq = false ∧ s.cal.reloadDue = false ∧ s.cfg.defPend = false ∧ r.meas = [m] ∧ c = look s.cal.chans m.ch.val ∧ f = s.factory m.ch.val (look r.temps m.ch.val) ∧ o = roundRat ((m.zero : Rat) - (f.1 : Rat) / 256) ∧ g = roundRat ((((CalMeas.standard m : Int) : Rat) / ((m.std - m.zero : Int) : Rat) - 1) * 100000000 - (f.2 : Rat) / 256) ∧ (m.std = m.zero ∨ (fieldLimit m.ch.val).1 < (o.natAbs : Int) ∨ (fieldLimit m.ch.val).2 < (g.natAbs : Int))) ∧
    (∃ (s : State), s.pw.phase = .active ∧ s.trioDue = true) :=
  ⟨⟨{ up with cal.dueSince := some 5, tm.ltc := 3600005 }, 5, by decide +kernel⟩,
    ⟨up, default, by decide +kernel⟩,
    ⟨up, ⟨true, true⟩, by decide +kernel⟩,
    ⟨{ up with cal.guard := 100 }, by decide +kernel⟩,
    ⟨{ up with cal.sz := some ⟨254, [], [], false, false⟩ }, ⟨254, [], [], false, false⟩, by decide +kernel⟩,
    ⟨{ up with cal.run := some { (default : CalRun) with t := 1, scope := 1 } }, { (default : CalRun) with t := 1, scope := 1 }, 0, by decide +kernel⟩,
    ⟨{ up with cal.run := some { (default : CalRun) with t := 2, scope := 1 } }, { (default : CalMeas) with ch := 0, elems := List.replicate 18 4 }, { (default : CalRun) with t := 2, scope := 1 }, by decide +kernel⟩,
    ⟨{ up with cal.run := some { (default : CalRun) with t := 3, scope := 1 } }, { (default : CalRun) with t := 3, scope := 1 }, by decide +kernel⟩,
    ⟨{ up with cal.run := some { (default : CalRun) with t := 3, scope := 1, meas := [{ (default : CalMeas) with ch := 0, zero := 5, std := 4000005, resOfs := 2, resGain := 3 }] } }, { (default : CalMeas) with ch := 0, zero := 5, std := 4000005, resOfs := 2, resGain := 3 }, { (default : CalRun) with t := 3, scope := 1, meas := [{ (default : CalMeas) with ch := 0, zero := 5, std := 4000005, resOfs := 2, resGain := 3 }] }, look State.reset.cal.chans 0, (0, 0), 5, 0, by decide +kernel⟩,
    ⟨{ up with cal.run := some { (default : CalRun) with t := 3, scope := 1, meas := [{ (default : CalMeas) with ch := 0, zero := 5, std := 5 }] } }, { (default : CalMeas) with ch := 0, zero := 5, std := 5 }, { (default : CalRun) with t := 3, scope := 1, meas := [{ (default : CalMeas) with ch := 0, zero := 5, std := 5 }] }, look State.reset.cal.chans 0, (0, 0), 5, -100000000, by decide +kernel⟩,
    ⟨up, by decide +kernel⟩⟩

theorem test_meets_SlotCommits :
    (∃ (s : State), s.pw.phase = .active ∧ s.cal.commitDue = true ∧ s.fl.usable = true ∧ s.fl.busy = false) ∧
    (∃ (s : State), s.pw.phase = .active ∧ (s.cal.commitDue = false ∨ (s.fl.usable = true ∧ s.fl.busy = true))) ∧
    (∃ (s : State) (sl : CalSlot) (p : Option (Option CfgImage)), s.pw.phase = .active ∧ s.pw.leave = none ∧ s.pw.closing = none ∧ s.fl.op = some (.slot true) ∧ s.fl.slotNew = some (sl, p)) ∧
    (∃ (s : State) (e : OpEnd) (ok : Bool) (sl : CalSlot) (p : Option (Option CfgImage)), s.pw.phase = .active ∧ s.pw.leave = none ∧ s.pw.closing = none ∧ s.fl.op = some (.slot ok) ∧ s.fl.slotNew = some (sl, p) ∧ ((ok = false ∧ e ≠ .failed) ∨ (e = .failed ∧ 2 ≤ s.fl.tries))) ∧
    (∃ (s : State), s.pw.phase = .active ∧ s.cal.commitDue = true ∧ s.fl.usable = false ∧ s.vaultFree = true) ∧
    (∃ (s : State), s.pw.phase = .active ∧ s.cal.commitDue = true ∧ s.fl.usable = false ∧ s.vaultFree = true) ∧
    (∃ (s : State), s.pw.phase = .active ∧ s.cal.commitDue = true ∧ s.fl.usable = false ∧ s.vaultFree = false) ∧
    (∃ (s : State), s.pw.phase = .active ∧ s.cal.deferred = true ∧ s.vaultFree = true ∧ s.fl.usable = false) ∧
    (∃ (s : State), s.pw.phase = .active ∧ s.cal.deferred = true ∧ s.vaultFree = true ∧ s.fl.usable = true) :=
  ⟨⟨{ up with cal.commitDue := true, fl.usable := true }, by decide +kernel⟩,
    ⟨up, by decide +kernel⟩,
    ⟨{ (up.set FLASH.STATUS.STATE 1) with fl.op := some (.slot true), fl.slotNew := some (default, none) }, default, none, by decide +kernel⟩,
    ⟨{ (up.set FLASH.STATUS.STATE 1) with fl.op := some (.slot false), fl.slotNew := some (default, none) }, .ok 0, false, default, none, by decide +kernel⟩,
    ⟨{ up with cal.commitDue := true }, by decide +kernel⟩,
    ⟨{ up with cal.commitDue := true }, by decide +kernel⟩,
    ⟨{ up with cal.commitDue := true, vault.commitLtc := some 0 }, by decide +kernel⟩,
    ⟨{ up with cal.deferred := true }, by decide +kernel⟩,
    ⟨{ up with cal.deferred := true, fl.usable := true }, by decide +kernel⟩⟩

theorem test_meets_HealthAndTrims :
    (∃ (s : State), s.pw.phase = .active ∧ s.tm.ltc % 1000 = 0 ∧ 0 < s.tm.tread ∧ s.qEnabled 54 = true) ∧
    (∃ (s : State), s.pw.phase = .active ∧ s.tm.ltc % 1000 ≠ 0) ∧
    (∃ (s : State), s.pw.phase = .active ∧ s.guardArmed = true ∧ s.cfgClass (linear 0x11 0x0C) = true) ∧
    (∃ (s : State) (v : Word) (ch : Nat) (o g : Int), s.pw.phase = .active ∧ s.guardArmed = false ∧ s.staged = [] ∧ s.get { CALWIN.SEL with lo := 8, w := 4 } = 7 ∧ s.get { CALWIN.SEL with w := 6 } = ch ∧ ch ≤ 37 ∧ (look s.cal.trims ch).o1 = 256 * o ∧ o.natAbs ≤ 32767 ∧ g = signed 24 (twos 24 ((look s.cal.trims ch).g1 / 256) % 65536 + 65536 * (v.toNat % 256))) :=
  ⟨⟨{ up with tm.tread := 9 }, by decide +kernel⟩,
    ⟨{ up with tm.ltc := 1001 }, by decide +kernel⟩,
    ⟨(armed.set { CALWIN.SEL with lo := 8, w := 4 } 7), by decide +kernel⟩,
    ⟨{ (up.set { CALWIN.SEL with lo := 8, w := 4 } 7) with cal.trims := [(0, ⟨0, 256 * 32767, 0, 0, 0, 0⟩)] }, 0x80#16, 0, 32767, -8388608, by decide +kernel⟩⟩

theorem test_meets_ImpedanceCommands :
    (∃ (s : State) (k : Nat), s.pw.phase = .active ∧ s.bit IMP.CTRL.STARTAT = false ∧ k < 8 ∧ s.laneEn k = true ∧ s.laneRuns k = false) ∧
    (∃ (s : State) (k : Nat), s.pw.phase = .active ∧ s.bit IMP.CTRL.STARTAT = false ∧ k < 8 ∧ (s.laneEn k = false ∨ s.laneRuns k = true)) ∧
    (∃ (s : State), s.pw.phase = .active ∧ s.bit IMP.CTRL.STARTAT = true ∧ s.bit TIME.STATUS.STNVALID = false) ∧
    (∃ (s : State) (d : Nat), s.pw.phase = .active ∧ s.bit IMP.CTRL.STARTAT = true ∧ d < 4294967296 ∧ (d < 2 ∨ 65535 < d) ∧ s.tm.stn < 4294967296 ∧ s.get2 IMP.STARTSTN0 = (s.tm.stn + d) % 4294967296) ∧
    (∃ (s : State) (k d : Nat), s.pw.phase = .active ∧ s.bit IMP.CTRL.STARTAT = true ∧ s.bit TIME.STATUS.STNVALID = true ∧ 2 ≤ d ∧ d ≤ 65535 ∧ s.tm.stn < 4294967296 ∧ s.get2 IMP.STARTSTN0 = (s.tm.stn + d) % 4294967296 ∧ k < 8 ∧ s.laneEn k = true ∧ s.laneRuns k = false) ∧
    (∃ (s : State) (k : Nat), s.pw.phase = .active ∧ k < 8) ∧
    (∃ (s : State), s.pw.phase = .active ∧ s.get IMPWIN.SEL.CLASS = 1 ∧ s.guardArmed = false ∧ s.imp.frozen = none) ∧
    (∃ (s : State), s.pw.phase = .active ∧ s.get IMPWIN.SEL.CLASS = 1 ∧ s.guardArmed = true) ∧
    (∃ (s : State), s.pw.phase = .active ∧ s.get IMPWIN.SEL.CLASS ≠ 1 ∧ s.guardArmed = false) ∧
    (∃ (s : State), s.pw.phase = .active ∧ s.get IMPWIN.SEL.CLASS = 0) ∧
    (∃ (s : State), s.pw.phase = .active ∧ s.get IMPWIN.SEL.CLASS ≠ 0 ∧ s.count ≤ 36) ∧
    (∃ (s : State), s.pw.phase = .active ∧ s.bit IMPWIN.SEL.FREEZE = false) ∧
    (∃ (s : State), s.pw.phase = .active) :=
  ⟨⟨up.setB (laneFld IMP.LANEkCFG.EN 7) true, 7, by decide +kernel⟩,
    ⟨up, 7, by decide +kernel⟩,
    ⟨up.setB IMP.CTRL.STARTAT true, by decide +kernel⟩,
    ⟨(up.setB IMP.CTRL.STARTAT true).set2 IMP.STARTSTN0 65536, 65536, by decide +kernel⟩,
    ⟨(((up.setB IMP.CTRL.STARTAT true).setB TIME.STATUS.STNVALID true).set2 IMP.STARTSTN0 65535).setB (laneFld IMP.LANEkCFG.EN 7) true, 7, 65535, by decide +kernel⟩,
    ⟨up, 7, by decide +kernel⟩,
    ⟨up.set IMPWIN.SEL.CLASS 1, by decide +kernel⟩,
    ⟨armed.set IMPWIN.SEL.CLASS 1, by decide +kernel⟩,
    ⟨up, by decide +kernel⟩,
    ⟨up.setV IMP.CELLMAP0 35 true, by decide +kernel⟩,
    ⟨up.set IMPWIN.SEL.CLASS 1, by decide +kernel⟩,
    ⟨up, by decide +kernel⟩,
    ⟨up, by decide +kernel⟩⟩

theorem test_meets_ImpedanceIntegrations :
    (∃ (s : State) (k : Fin 8), s.pw.phase = .active ∧ s.startDue k.val = true ∧ s.laneEn k.val = true ∧ s.outOfRange k.val = false) ∧
    (∃ (s : State) (k : Fin 8) (i : Integ) (l : List Integ), s.pw.phase = .active ∧ (look s.imp.lanes k.val).fin = i :: l ∧ s.resultsDue i = true) ∧
    (∃ (s : State) (k : Fin 8) (t0 : Nat), s.pw.phase = .active ∧ (look s.imp.lanes k.val).mode = .armed none t0 ∧ t0 < s.tm.tread ∧ s.laneEn k.val = true ∧ s.outOfRange k.val = true) ∧
    (∃ (s : State) (k : Fin 8), s.pw.phase = .active ∧ (look s.imp.lanes k.val).fin = []) ∧
    (∃ (s : State) (k : Nat), s.pw.phase = .active ∧ s.tm.stn % 1024 = 0 ∧ s.bit CELLCFG.STATUS.FINEVALID = true ∧ k < 8 ∧ (look s.imp.lanes k).mode = .waiting ∧ s.laneEn k = true ∧ s.outOfRange k = false) :=
  ⟨⟨{ (up.setB (laneFld IMP.LANEkCFG.EN 2) true) with imp.lanes := [(2, { (default : ImpLane) with mode := .armed none 0 })], tm.tread := 1 }, 2, by decide +kernel⟩,
    ⟨{ up with imp.lanes := [(2, { (default : ImpLane) with fin := [{ (default : Integ) with size := 1024 }] })] }, 2, { (default : Integ) with size := 1024 }, [], by decide +kernel⟩,
    ⟨{ (up.setB (laneFld IMP.LANEkCFG.EN 2) true).set (laneFld IMP.LANEkCFG.NHI 2) 3 with imp.lanes := [(2, { (default : ImpLane) with mode := .armed none 0 })], tm.tread := 1 }, 2, 0, by decide +kernel⟩,
    ⟨up, default, by decide +kernel⟩,
    ⟨{ ((up.setB (laneFld IMP.LANEkCFG.EN 7) true).setB CELLCFG.STATUS.FINEVALID true) with imp.lanes := [(7, { (default : ImpLane) with mode := .waiting })] }, 7, by decide +kernel⟩⟩

theorem test_meets_NoForbiddenRun :
    (∃ (s t : State) (r : Fin 16) (meas : List SwitchMeas) (n : Nat), s.pw.phase = .active ∧ s.extFet = false ∧ s.usedB BAL.CFG.NBR = false ∧ exec (.balRiserAlloc r meas) s = .next t ∧ look t.bal.on n ≠ 0) ∧
    (∃ (s t : State) (r : Fin 16) (meas : List SwitchMeas) (n : Nat), s.pw.phase = .active ∧ s.extFet = false ∧ s.usedB BAL.CFG.NBR = true ∧ exec (.balRiserAlloc r meas) s = .next t ∧ look t.bal.on n ≠ 0 ∧ look t.bal.on (n + 1) ≠ 0) ∧
    (∃ (s : State) (r : Fin 16), s.pw.phase = .active ∧ s.extFet = true ∧ s.balFirst ≤ r.val ∧ (r.val = 15 → s.learnTread = false) ∧ s.excRuns = false ∧ s.diag.groups = none ∧ s.diag.testing = [] ∧ s.diag.verdict = [] ∧ s.diag.fallback = [] ∧ r.val ≠ 7 ∧ r.val ≠ 10) :=
  ⟨⟨{ ((up.setB (dutyFld 3 10 1) true).setB (dutyFld 4 10 1) true) with bal.owed := [(3, 5), (4, 6)] }, nextOf (exec (.balRiserAlloc 5 []) { ((up.setB (dutyFld 3 10 1) true).setB (dutyFld 4 10 1) true) with bal.owed := [(3, 5), (4, 6)] }), 5, [], 4, by decide +kernel, by decide +kernel, by decide +kernel, nextOf_eq (by decide +kernel), by decide +kernel⟩,
    ⟨{ ((up.setB (dutyFld 3 10 1) true).setB (dutyFld 4 10 1) true).setB BAL.CFG.NBR true with bal.owed := [(3, 5), (4, 6)] }, nextOf (exec (.balRiserAlloc 5 []) { ((up.setB (dutyFld 3 10 1) true).setB (dutyFld 4 10 1) true).setB BAL.CFG.NBR true with bal.owed := [(3, 5), (4, 6)] }), 5, [], 3, by decide +kernel, by decide +kernel, by decide +kernel, nextOf_eq (by decide +kernel), by decide +kernel, by decide +kernel⟩,
    ⟨up.setB BAL.CFG.EXTFET true, 5, by decide +kernel⟩⟩

theorem test_meets_RiserAllocated :
    (∃ (s : State), s.pw.phase = .active ∧ 0 < s.count) ∧
    (∃ (s : State) (r : Fin 16), s.pw.phase = .active ∧ r.val < s.balFirst) ∧
    (∃ (s : State) (r : Fin 16) (n : Nat), s.pw.phase = .active ∧ s.balFirst ≤ r.val ∧ (r.val = 15 → s.learnTread = false) ∧ s.excRuns = false ∧ s.diag.groups = none ∧ s.diag.testing = [] ∧ s.diag.verdict = [] ∧ s.diag.fallback = [] ∧ r.val ≠ 7 ∧ r.val ≠ 10 ∧ n ∈ s.switches ∧ s.dutyRun n = true ∧ 0 < look s.bal.owed n ∧ look s.bal.given n = false ∧ (∀ m ∈ s.switches, m ≠ n → s.dutyRun m = false ∨ look s.bal.owed m = 0) ∧ s.balHeld r.val n = false ∧ (s.extFet = true ∨ 0 < s.used { BAL.MAXON with w := 6 })) :=
  ⟨⟨up, by decide +kernel⟩,
    ⟨up, default, by decide +kernel⟩,
    ⟨{ up.setB (dutyFld 4 10 1) true with bal.owed := [(4, 3)] }, 5, 4, by decide +kernel⟩⟩

theorem test_meets_BalanceCommands :
    (∃ (s : State), s.pw.phase = .active) ∧
    (∃ (s : State) (c : Cell), s.pw.phase = .active ∧ s.stopDue (c.val + 1) = true) ∧
    (∃ (s : State) (c : Cell) (k : SwitchFault), s.pw.phase = .active ∧ s.swBad (c.val + 1) k = true ∧ s.vbit BAL.SWFAIL0 c.val = false) ∧
    (∃ (s : State) (c : Cell), s.pw.phase = .active ∧ s.vbit BAL.SWFAIL0 c.val = true) ∧
    (∃ (s : State), s.pw.phase = .active) ∧
    (∃ (s : State), s.pw.phase = .active) ∧
    (∃ (s : State) (tap : Tap) (r : Rat), s.pw.phase = .active ∧ 1024 ≤ (look s.bal.edge tap.val).n ∧ (look s.bal.edge tap.val).ii ≠ 0 ∧ r = 100000 * (look s.bal.edge tap.val).vi / (look s.bal.edge tap.val).ii) ∧
    (∃ (s : State) (on : Bool) (clk : Fin 4096), s.pw.phase = .active ∧ s.excRuns = true ∧ s.tonePhase (s.absClk clk.val) = on) ∧
    (∃ (s : State) (on : Bool) (clk : Fin 4096), s.pw.phase = .active ∧ (s.excRuns = false ∨ s.tonePhase (s.absClk clk.val) ≠ on)) :=
  ⟨⟨up, by decide +kernel⟩,
    ⟨{ ((up.set (dutyFld 36 8 2) 2).setB (dutyFld 36 10 1) true) with bal.timer := [(36, 1000 * up.used BAL.TIME)] }, 35, by decide +kernel⟩,
    ⟨{ up with bal.stuckOn := [(36, 4)] }, 35, .stuckOn, by decide +kernel⟩,
    ⟨up.setV BAL.SWFAIL0 35 true, 35, by decide +kernel⟩,
    ⟨up, by decide +kernel⟩,
    ⟨up, by decide +kernel⟩,
    ⟨{ up with bal.edge := [(35, ⟨1024, 3, 5⟩)] }, 35, 100000 * 3 / 5, by decide +kernel⟩,
    ⟨{ (up.setB IMP.EXCCFG.ACTEN true).setB (laneFld IMP.LANEkCFG.EN 0) true with imp.lanes := [(0, { (default : ImpLane) with mode := .running, cur := some { (default : Integ) with n := 1024 } })], bal.on := [(4, 2)] }, true, default, by decide +kernel⟩,
    ⟨up, default, default, by decide +kernel⟩⟩

theorem test_meets_AuxPasses :
    (∃ (s : State) (c : Conv), s.pw.phase = .active ∧ s.passDue c (s.tm.tread + 1) = true ∧ (s.conv c).passOn = false) ∧
    (∃ (s : State) (c : Conv) (w : Word), s.pw.phase = .active ∧ s.passDue c s.tm.tread = true ∧ (s.conv c).passOn = false ∧ s.auxCal c = false ∧ (s.conv c).urg = none ∧ w = s.reg (c.fld AUXA.ENTRY0).addr ∧ eEn w = true ∧ s.passedOver w = false) ∧
    (∃ (s : State) (c : Conv), s.pw.phase = .active ∧ s.passDue c s.tm.tread = true ∧ (s.conv c).passOn = true ∧ (s.conv c).regrid = false ∧ (s.conv c).late = false) ∧
    (∃ (s : State) (c : Conv), s.pw.phase = .active ∧ s.passDue c s.tm.tread = false) ∧
    (∃ (s : State) (c : Conv) (i : Nat) (l : List Nat), s.pw.phase = .active ∧ s.bit (c.fld AUXA.STATUS.QWAIT) = true ∧ (s.conv c).urg = none ∧ s.auxCal c = false ∧ (s.conv c).passOn = true ∧ (s.conv c).todo = i :: l ∧ i < 16 ∧ s.passedOver (s.itemWord (s.conv c) i) = false) :=
  ⟨⟨up, default, by decide +kernel⟩,
    ⟨auxUp, default, 0x8005#16, by decide +kernel⟩,
    ⟨{ auxUp with aux.a.passOn := true }, default, by decide +kernel⟩,
    ⟨up.setB AUXA.CTRL.EN false, default, by decide +kernel⟩,
    ⟨{ (auxUp.setB AUXA.STATUS.QWAIT true) with aux.a.passOn := true, aux.a.todo := [15, 16], aux.a.entries := List.replicate 16 0xA005#16 }, default, 15, [16], by decide +kernel⟩⟩

theorem test_meets_AuxConversions :
    (∃ (s : State) (c : Conv) (raw : List Int) (i j : Nat) (l : List Nat) (w w' : Word), s.pw.phase = .active ∧ (s.conv c).passOn = true ∧ (s.conv c).todo = i :: j :: l ∧ i < 16 ∧ j < 16 ∧ i ≠ j ∧ (s.conv c).busy = true ∧ (s.conv c).urg = none ∧ (s.conv c).urgPend = none ∧ s.aux.latch = [] ∧ s.auxCal c = false ∧ w = s.itemWord (s.conv c) i ∧ (eType w = 1 ∨ eType w = 2) ∧ raw.length = auxOsr (eOsr w) ∧ w' = s.itemWord (s.conv c) j ∧ s.passedOver w' = false ∧ eQuiet w' = false ∧ s.diag.groups = none ∧ s.diag.verdict = [] ∧ s.diag.fallback = []) ∧
    (∃ (s : State) (c : Conv), s.pw.phase = .active ∧ (s.conv c).busy = false) ∧
    (∃ (s : State), s.pw.phase = .active ∧ s.auxCal .a = false ∧ s.auxOn .a = true ∧ (s.conv .a).urgPend = none ∧ (s.conv .a).urg = none ∧ (s.conv .a).busy = false) ∧
    (∃ (s : State), s.pw.phase = .active ∧ s.auxCal .a = false ∧ s.auxOn .a = false) ∧
    (∃ (s : State) (c : Conv) (raw : List Int) (w : Word), s.pw.phase = .active ∧ (s.conv c).urg = some ⟨3, w, false⟩ ∧ (s.conv c).urgPend = none ∧ (s.conv c).passOn = false ∧ s.aux.latch = [] ∧ s.diag.verdict = [] ∧ s.diag.fallback = [] ∧ (eType w = 1 ∨ eType w = 2) ∧ raw.length = auxOsr (eOsr w)) ∧
    (∃ (s : State) (c : Conv), s.pw.phase = .active ∧ (s.conv c).urg = none) :=
  ⟨⟨{ auxUp with aux.a.passOn := true, aux.a.busy := true, aux.a.todo := [0, 15], aux.a.entries := List.replicate 16 0x8005#16 }, default, List.replicate 64 1000, 0, 15, [], 0x8005#16, 0x8005#16, by decide +kernel⟩,
    ⟨up, default, by decide +kernel⟩,
    ⟨up, by decide +kernel⟩,
    ⟨up.setB AUXA.CTRL.EN false, by decide +kernel⟩,
    ⟨{ auxUp with aux.a.urg := some ⟨3, 0x0005#16, false⟩ }, default, List.replicate 64 70000, 0x0005#16, by decide +kernel⟩,
    ⟨up, default, by decide +kernel⟩⟩

theorem test_meets_AuxComparisons :
    (∃ (s : State), s.pw.phase = .active ∧ 4 * s.used AUXCTL.SHCFG.WIN ≤ s.tm.tread - s.aux.shLast) ∧
    (∃ (s : State) (c : Conv) (w : XWait) (l : List XWait), s.pw.phase = .active ∧ (s.conv c).waits = w :: l ∧ w.at4 ≤ 4 * s.cells.fineAt) ∧
    (∃ (s : State) (c : Conv) (w : XWait) (l : List XWait), s.pw.phase = .active ∧ (s.conv c).waits = w :: l ∧ s.bit CELLCFG.CTRL.FINEEN = true ∧ w.at4 ≤ 4 * s.cells.fineAt ∧ 4 * s.cells.prevAt ≤ w.at4 ∧ s.cells.prevAt < s.cells.fineAt ∧ w.bad = false ∧ (look s.cells.chains w.cell).start ≤ w.centre ∧ (∀ r ∈ [look s.cells.prev w.cell, look s.cells.fine w.cell], r.ovr = false ∧ r.nbr = false ∧ r.stale = false ∧ r.unc ≠ 15)) ∧
    (∃ (s : State) (c : Conv), s.pw.phase = .active ∧ s.auxOn c = true ∧ (s.release (· == (c.fld AUXA.CTRL.EN).addr)).auxOn c = false) ∧
    (∃ (s : State), s.pw.phase = .active ∧ s.auxOn .a = true ∧ (s.release (· == ((Conv.a).fld AUXA.CTRL.EN).addr)).auxOn .a = false ∧ s.auxOn .b = false ∧ s.tm.ltc % 16 = 0 ∧ s.auxCal .a = false ∧ (s.conv .a).urgPend = none ∧ s.aux.latch = []) ∧
    (∃ (s : State) (c : Conv), s.pw.phase = .active ∧ s.auxOn c = false ∧ s.auxCal c = true ∧ (s.release (· == (c.fld AUXA.CTRL.EN).addr)).auxOn c = true) ∧
    (∃ (s : State) (c : Conv), s.pw.phase = .active ∧ s.auxOn c = false ∧ s.auxCal c = false ∧ (s.release (· == (c.fld AUXA.CTRL.EN).addr)).auxOn c = true) :=
  ⟨⟨{ up with tm.tread := 4 * up.used AUXCTL.SHCFG.WIN }, by decide +kernel⟩,
    ⟨{ auxUp with aux.a.waits := [⟨3, 500, 8, 1, false⟩], cells.fineAt := 2 }, default, ⟨3, 500, 8, 1, false⟩, [], by decide +kernel⟩,
    ⟨{ auxUp with aux.a.waits := [⟨3, 500, 8, 1, false⟩], cells.fineAt := 2 }, default, ⟨3, 500, 8, 1, false⟩, [], by decide +kernel⟩,
    ⟨auxOff, default, by decide +kernel⟩,
    ⟨{ (up.setB AUXA.CTRL.EN false).setB AUXB.CTRL.EN false with held := [(AUXA.CTRL.EN.addr, some (up.reg AUXA.CTRL.EN.addr))] }, by decide +kernel⟩,
    ⟨{ (up.setB AUXA.CTRL.EN true) with held := [(AUXA.CTRL.EN.addr, some 0#16)], cal.run := some { (default : CalRun) with t := 4 * groupOf 38, scope := 65535 } }, default, by decide +kernel⟩,
    ⟨{ (up.setB AUXA.CTRL.EN true) with held := [(AUXA.CTRL.EN.addr, some 0#16)] }, default, by decide +kernel⟩⟩

theorem test_meets_DiagnosticTests :
    (∃ (s : State) (g : Nat × Nat), s.pw.phase = .active ∧ s.diagGroups = some g) ∧
    (∃ (s : State), s.pw.phase = .active ∧ s.diagGroups = none) ∧
    (∃ (s : State), s.pw.phase = .active ∧ s.usedB DIAG.CFG.EN = true ∧ s.diag.called = []) ∧
    (∃ (s : State), s.pw.phase = .active ∧ s.usedB DIAG.CFG.EN = false) ∧
    (∃ (s : State) (n : Tap) (r0 : Nat), s.pw.phase = .active ∧ s.tapRiser? n.val = some r0 ∧ n.val ∉ s.diag.began ∧ s.diagSkip n.val = false) ∧
    (∃ (s : State) (n : Tap) (r0 : Nat), s.pw.phase = .active ∧ s.tapRiser? n.val = some r0 ∧ n.val ∉ s.diag.began ∧ s.diagSkip n.val = true) ∧
    (∃ (s : State) (n : Tap) (r0 : Nat), s.pw.phase = .active ∧ s.tapRiser? n.val = some r0 ∧ n.val ∈ s.diag.testing) ∧
    (∃ (s : State) (n : Tap) (r0 : Nat), s.pw.phase = .active ∧ s.tapRiser? n.val = some r0 ∧ n.val ∈ s.diag.testing) ∧
    (∃ (s : State) (n : Tap), s.pw.phase = .active ∧ n.val ∈ s.diag.began) ∧
    (∃ (s : State) (n : Tap), s.pw.phase = .active ∧ s.tapRiser? n.val = none) ∧
    (∃ (s : State), s.pw.phase = .active) :=
  ⟨⟨{ (up.setB DIAG.CFG.EN true) with tm.tread := 4, diag.called := [(4, 2, 3)] }, (2, 3), by decide +kernel⟩,
    ⟨up, by decide +kernel⟩,
    ⟨up, by decide +kernel⟩,
    ⟨up.setB DIAG.CFG.EN false, by decide +kernel⟩,
    ⟨{ diagUp with cells.snap := [(1, { (default : Res) with v := 3200000 }), (2, { (default : Res) with v := 3200000 })] }, 2, 4, by decide +kernel⟩,
    ⟨diagUp, 3, 7, by decide +kernel⟩,
    ⟨{ diagUp with diag.testing := [2] }, 2, 4, by decide +kernel⟩,
    ⟨{ diagUp with diag.testing := [3] }, 3, 7, by decide +kernel⟩,
    ⟨{ diagUp with diag.began := [3] }, 3, by decide +kernel⟩,
    ⟨up, default, by decide +kernel⟩,
    ⟨up, by decide +kernel⟩⟩

theorem test_meets_TripsOpenTheOutput :
    (∃ (s : State), s.pw.phase = .active) ∧
    (∃ (s : State), s.pw.phase = .active ∧ s.safe.wd = some 0 ∧ s.safe.wdOut = false) ∧
    (∃ (s : State) (x : Sentinel), s.pw.phase = .active ∧ s.senActs x = true ∧ look s.safe.asserted (senNo x) = true ∧ look s.safe.tripped (senNo x) = false) ∧
    (∃ (s : State), s.pw.phase = .active ∧ s.bit BAN.ROLE.USED = true ∧ s.bit BAN.STATUS.OVSOK = true) :=
  ⟨⟨up, by decide +kernel⟩,
    ⟨{ up with safe.wd := some 0 }, by decide +kernel⟩,
    ⟨{ up with safe.armed := true, safe.asserted := [(senNo (.uv 35), true)] }, .uv 35, by decide +kernel⟩,
    ⟨(up.setB BAN.ROLE.USED true).setB BAN.STATUS.OVSOK true, by decide +kernel⟩⟩

theorem test_meets_SafetyCommands :
    (∃ (s : State) (key : Byte), s.pw.phase = .active ∧ key ≠ 0xA5#8) ∧
    (∃ (s : State) (v : Word), s.pw.phase = .active ∧ v ≠ 0xC35A#16) ∧
    (∃ (s : State), s.pw.phase = .active) ∧
    (∃ (s : State), s.pw.phase = .active ∧ s.tightResult.1 = true) ∧
    (∃ (s : State), s.pw.phase = .active ∧ s.tightResult.1 = false) ∧
    (∃ (s : State) (x : Sentinel), s.pw.phase = .active ∧ s.senActs x = true) ∧
    (∃ (s : State) (x : Sentinel), s.pw.phase = .active ∧ s.senActs x = false) ∧
    (∃ (s : State) (x : Sentinel), s.pw.phase = .active ∧ look s.safe.tripped (senNo x) = true) ∧
    (∃ (s : State), s.pw.phase = .active) :=
  ⟨⟨up, default, by decide +kernel⟩,
    ⟨up, default, by decide +kernel⟩,
    ⟨up, by decide +kernel⟩,
    ⟨tight, by decide +kernel⟩,
    ⟨up, by decide +kernel⟩,
    ⟨{ up with safe.armed := true }, .ov 35, by decide +kernel⟩,
    ⟨up, default, by decide +kernel⟩,
    ⟨{ up with safe.tripped := [(senNo .die, true)] }, .die, by decide +kernel⟩,
    ⟨up, by decide +kernel⟩⟩

theorem test_meets_SafetyChecks :
    (∃ (s : State), s.pw.phase = .active ∧ s.safe.armed = true ∧ 0 < s.tm.tread) ∧
    (∃ (s : State), s.pw.phase = .active ∧ s.tm.tread = 0) ∧
    (∃ (s : State), s.pw.phase = .active ∧ s.safe.armed = true ∧ s.safe.senAgain = [] ∧ s.tm.ltc % 40 < 38 ∧ s.senSkip (s.tm.ltc % 40) = false ∧ look s.safe.senOut (s.tm.ltc % 40) = false) ∧
    (∃ (s : State) (i : Nat) (l : List Nat), s.pw.phase = .active ∧ s.safe.armed = true ∧ s.safe.senAgain = i :: l ∧ i < 38 ∧ s.senSkip i = false) :=
  ⟨⟨{ up with safe.armed := true, tm.tread := 1 }, by decide +kernel⟩,
    ⟨{ up with tm.tread := 0 }, by decide +kernel⟩,
    ⟨{ up with safe.armed := true }, by decide +kernel⟩,
    ⟨{ up with safe.armed := true, safe.senAgain := [3, 5] }, 3, [5], by decide +kernel⟩⟩

theorem test_meets_BanisterEdges :
    (∃ (s : State), s.pw.phase = .active ∧ s.bit BAN.STATUS.HBPRES = false) ∧
    (∃ (s : State) (e : Nat), s.pw.phase = .active ∧ s.bit BAN.STATUS.HBPRES = true ∧ s.ban.hbLast + 3000 ≤ e ∧ e ≤ s.ban.hbLast + 5000) ∧
    (∃ (s : State) (e : Nat), s.pw.phase = .active ∧ s.bit BAN.STATUS.HBPRES = true ∧ s.ban.hbLast + 16000 ≤ e) ∧
    (∃ (s : State) (e : Nat), s.pw.phase = .active ∧ e < s.ban.hbLast + 16000) ∧
    (∃ (s : State), s.pw.phase = .active ∧ s.ban.ackFirst = none) ∧
    (∃ (s : State) (e f : Nat), s.pw.phase = .active ∧ s.ban.ackFirst = some f ∧ s.ban.ackLast + 12000 ≤ e ∧ e ≤ s.ban.ackLast + 20000) ∧
    (∃ (s : State) (e f : Nat), s.pw.phase = .active ∧ s.ban.ackFirst = some f ∧ s.ban.ackHeld = false ∧ s.ban.ackLast + 64000 ≤ e ∧ s.ban.ackLast + 64000 < f + 200000000) ∧
    (∃ (s : State) (e f : Nat), s.pw.phase = .active ∧ s.ban.ackFirst = some f ∧ s.ban.ackHeld = false ∧ s.ban.ackUnquiet = false ∧ s.ban.ackLast + 64000 ≤ e ∧ f + 200000000 ≤ s.ban.ackLast + 64000 ∧ s.ban.ackLast + 64000 < f + 3000000000) ∧
    (∃ (s : State) (e f : Nat), s.pw.phase = .active ∧ s.ban.ackFirst = some f ∧ s.ban.ackHeld = false ∧ f + 3000000000 ≤ e) ∧
    (∃ (s : State) (e : Nat), s.pw.phase = .active ∧ s.ban.ackFirst = none ∧ 1000000000 ≤ s.quietNs e) :=
  ⟨⟨up, by decide +kernel⟩,
    ⟨up.setB BAN.STATUS.HBPRES true, 5000, by decide +kernel⟩,
    ⟨up.setB BAN.STATUS.HBPRES true, 16000, by decide +kernel⟩,
    ⟨up, default, by decide +kernel⟩,
    ⟨up, by decide +kernel⟩,
    ⟨{ up with ban.ackFirst := some 0 }, 20000, 0, by decide +kernel⟩,
    ⟨{ up with ban.ackFirst := some 0, ban.ackLast := 199000000 }, 199064000, 0, by decide +kernel⟩,
    ⟨{ up with ban.ackFirst := some 0, ban.ackLast := 200000000 }, 200064000, 0, by decide +kernel⟩,
    ⟨{ up with ban.ackFirst := some 0 }, 3000000000, 0, by decide +kernel⟩,
    ⟨up, 1000000000, by decide +kernel⟩⟩

theorem test_meets_OutputTests :
    (∃ (s : State) (mV : Nat), s.pw.phase = .active ∧ 17000 < mV) ∧
    (∃ (s : State) (mV : Nat), s.pw.phase = .active ∧ mV < 16000) ∧
    (∃ (s : State) (mV : Nat), s.pw.phase = .active ∧ 16000 ≤ mV ∧ mV ≤ 17000) ∧
    (∃ (s : State) (c0 : Nat) (sw : Bool), s.pw.phase = .active ∧ s.testTread = true ∧ s.bit BAN.ROLE.USED = true ∧ ((s.get BAN.ROLE.MODE = 1 ∧ sw = s.bit BAN.STATUS.NEXTSW) ∨ (s.get BAN.ROLE.MODE = 2 ∧ sw = false)) ∧ s.bit BAN.STATUS.PERMIT = true ∧ s.bit BAN.STATUS.OVSOK = true ∧ s.ban.closedAt = some c0 ∧ c0 + 1000000 ≤ s.nowNs + 750000) ∧
    (∃ (s : State), s.pw.phase = .active ∧ s.testTread = false) ∧
    (∃ (s : State) (sw : Bool), s.pw.phase = .active ∧ s.ban.test = .opening sw) ∧
    (∃ (s : State) (sw : Bool), s.pw.phase = .active ∧ s.ban.test = .opening sw) ∧
    (∃ (s : State) (sw : Bool), s.pw.phase = .active ∧ s.ban.test = .passed sw) ∧
    (∃ (s : State) (sw : Bool), s.pw.phase = .active ∧ s.ban.test = .reclosing sw ∧ s.get BAN.ROLE.MODE = 1) ∧
    (∃ (s : State) (sw : Bool), s.pw.phase = .active ∧ s.ban.test = .reclosing sw) ∧
    (∃ (s : State), s.pw.phase = .active ∧ s.testTread = true ∧ s.stageMay = true ∧ s.bit BAN.STATUS.PERMIT = false ∧ s.get BAN.ROLE.MODE ≤ 1) ∧
    (∃ (s : State), s.pw.phase = .active ∧ s.testTread = true ∧ s.stageMay = true ∧ s.bit BAN.STATUS.PERMIT = false ∧ s.get BAN.ROLE.MODE ≤ 1 ∧ s.ban.test = .check) ∧
    (∃ (s : State), s.pw.phase = .active ∧ s.testTread = true ∧ s.stageMay = true ∧ s.bit BAN.STATUS.PERMIT = false ∧ s.get BAN.ROLE.MODE ≤ 1 ∧ s.ban.test = .check) ∧
    (∃ (s : State) (ph : Fin 3), s.pw.phase = .active ∧ s.testTread = true ∧ s.stageMay = true ∧ s.bit BAN.STATUS.PERMIT = false ∧ s.get BAN.ROLE.MODE ≠ 3 ∧ (ph.val = 0 ∨ (ph.val = 1 ∧ s.ban.test = .check))) ∧
    (∃ (s : State), s.pw.phase = .active ∧ s.testTread = true ∧ s.stageMay = true ∧ s.bit BAN.STATUS.PERMIT = false ∧ s.get BAN.ROLE.MODE = 2) ∧
    (∃ (s : State) (ph : Fin 3), s.pw.phase = .active ∧ (s.testTread = false ∨ s.stageMay = false ∨ s.bit BAN.STATUS.PERMIT = true ∨ s.get BAN.ROLE.MODE = 3 ∨ (ph.val ≠ 0 ∧ s.ban.test ≠ .check))) :=
  ⟨⟨up, 17001, by decide +kernel⟩,
    ⟨(up.set BAN.VOVS 1700).setB BAN.ROLE.USED true, 15999, by decide +kernel⟩,
    ⟨up, 17000, by decide +kernel⟩,
    ⟨{ (((((up.set BAN.ROLE.MODE 1).setB BAN.ROLE.USED true).setB BAN.STATUS.NEXTSW true).setB BAN.STATUS.PERMIT true).setB BAN.STATUS.OVSOK true) with ban.closedAt := some 0, tm.tread := 100000 }, 0, true, by decide +kernel⟩,
    ⟨{ up with tm.stn := 1 }, by decide +kernel⟩,
    ⟨{ up with ban.test := .opening true }, true, by decide +kernel⟩,
    ⟨{ up with ban.test := .opening true }, true, by decide +kernel⟩,
    ⟨{ up with ban.test := .passed true }, true, by decide +kernel⟩,
    ⟨{ (up.set BAN.ROLE.MODE 1) with ban.test := .reclosing true }, true, by decide +kernel⟩,
    ⟨{ (up.set BAN.ROLE.MODE 1) with ban.test := .reclosing true }, true, by decide +kernel⟩,
    ⟨stage.set BAN.VOVS 1600, by decide +kernel⟩,
    ⟨{ stage.set BAN.VOVS 1600 with ban.test := .check }, by decide +kernel⟩,
    ⟨{ stage.set BAN.VOVS 1600 with ban.test := .check }, by decide +kernel⟩,
    ⟨stage.set BAN.VOVS 1600, 0, by decide +kernel⟩,
    ⟨(stage.set BAN.VOVS 1600).set BAN.ROLE.MODE 2, by decide +kernel⟩,
    ⟨up, 0, by decide +kernel⟩⟩

theorem test_meets_FaultCollector :
    (∃ (s : State), s.pw.phase = .active ∧ 1 ≤ s.tm.tread) ∧
    (∃ (s : State), s.pw.phase = .active ∧ s.tm.tread = 0) ∧
    (∃ (s : State) (e : Nat), s.pw.phase = .active ∧ s.col.pulseEnd = some e ∧ e ≤ s.tm.ltc) ∧
    (∃ (s : State) (e : Nat), s.pw.phase = .active ∧ s.col.pulseEnd = some e ∧ s.tm.ltc < e) ∧
    (∃ (s : State), s.pw.phase = .active) ∧
    (∃ (s : State), s.pw.phase = .active) ∧
    (∃ (s : State), s.pw.phase = .active ∧ s.guardArmed = false ∧ s.locked = false) ∧
    (∃ (s : State) (w : Fin 8) (v : Word), s.pw.phase = .active ∧ s.guardArmed = false ∧ s.locked = true ∧ s.lowersClass w.val v = true) :=
  ⟨⟨{ up with tm.tread := 1, condNow := 8#64 }, by decide +kernel⟩,
    ⟨up, by decide +kernel⟩,
    ⟨{ up with col.pulseEnd := some 7, tm.ltc := 7 }, 7, by decide +kernel⟩,
    ⟨{ up with col.pulseEnd := some 7, tm.ltc := 6 }, 7, by decide +kernel⟩,
    ⟨{ up with condNow := 8#64 }, by decide +kernel⟩,
    ⟨up, by decide +kernel⟩,
    ⟨up, by decide +kernel⟩,
    ⟨up.setB SAFE.STATUS.LOCKOUT true, 2, default, by decide +kernel⟩⟩

theorem test_meets_LinkTraining :
    (∃ (s : State), s.pw.phase = .active) ∧
    (∃ (s : State) (p : Port) (f : Byte), s.pw.phase = .active ∧ s.pState p = 1 ∧ f.toNat % 4 < 3) ∧
    (∃ (s : State), s.pw.phase = .active) ∧
    (∃ (s : State) (p : Port), s.pw.phase = .active ∧ s.pState p = 2) ∧
    (∃ (s : State) (p : Port), s.pw.phase = .active ∧ s.pState p = 2 ∧ (s.port p).fromUp = true) ∧
    (∃ (s : State) (p : Port), s.pw.phase = .active ∧ (s.pState p ≠ 2 ∨ ((s.port p).fromUp = false ∧ s.linkUp p.other = true))) ∧
    (∃ (s : State) (p : Port) (pos : List Bool), s.pw.phase = .active ∧ pos.length = 64 ∧ s.pState p = 3 ∧ (s.port p).full = false) ∧
    (∃ (s : State) (p : Port) (pos : List Bool), s.pw.phase = .active ∧ pos.length = 64 ∧ s.pState p = 3 ∧ (s.port p).full = true ∧ (s.port p).sweep < 2) ∧
    (∃ (s : State) (p : Port) (pos : List Bool), s.pw.phase = .active ∧ pos.length = 64 ∧ s.pState p = 3 ∧ (s.port p).full = true ∧ 2 ≤ (s.port p).sweep) ∧
    (∃ (s : State) (p : Port), s.pw.phase = .active ∧ s.phaseOf p = 4) ∧
    (∃ (s : State) (p : Port) (id : Byte), s.pw.phase = .active ∧ s.phaseOf p = 4 ∧ (s.port p).echoes < 128 ∧ id.toNat ∈ (s.port p).prbOpen) ∧
    (∃ (s : State) (p : Port) (id : Byte), s.pw.phase = .active ∧ id.toNat ∉ (s.port p).prbOpen) ∧
    (∃ (s : State) (p : Port), s.pw.phase = .active ∧ s.pState p = 4 ∧ 128 ≤ (s.port p).echoes ∧ 128 ≤ (s.port p).probes) ∧
    (∃ (s : State) (p : Port), s.pw.phase = .active ∧ ((s.port p).echoes < 128 ∨ (s.port p).probes < 128)) ∧
    (∃ (s : State) (p : Port) (eyes : List Byte) (d : BitVec 32), s.pw.phase = .active ∧ eyes.length = 3 ∧ s.pState p = 5 ∧ ((s.hopD p : Int) - d.toNat).natAbs ≤ 8 ∧ s.linkUp p.other = false) ∧
    (∃ (s : State) (p : Port) (eyes : List Byte) (d : BitVec 32), s.pw.phase = .active ∧ eyes.length = 3 ∧ s.pState p = 5 ∧ 8 < ((s.hopD p : Int) - d.toNat).natAbs) ∧
    (∃ (s : State) (p : Port), s.pw.phase = .active ∧ s.pState p = 2 ∧ (s.port p).fromUp = false ∧ s.linkUp p.other = false) ∧
    (∃ (s : State) (p : Port) (eyes : List Byte) (d : BitVec 32), s.pw.phase = .active ∧ eyes.length = 3 ∧ s.pState p = 5 ∧ ((s.hopD p : Int) - d.toNat).natAbs ≤ 8 ∧ s.linkUp p.other = true ∧ s.pRateOf p = s.pRateOf p.other ∧ s.link.rate = s.pRateOf p) :=
  ⟨⟨up.set LINK.UPSTAT.STATE 1, by decide +kernel⟩,
    ⟨up.set LINK.UPSTAT.STATE 1, .up, 0xFE#8, by decide +kernel⟩,
    ⟨up, by decide +kernel⟩,
    ⟨up.set LINK.UPSTAT.STATE 2, .up, by decide +kernel⟩,
    ⟨{ (up.set LINK.UPSTAT.STATE 2) with link.up.fromUp := true }, default, by decide +kernel⟩,
    ⟨up, .up, by decide +kernel⟩,
    ⟨up.set LINK.UPSTAT.STATE 3, default, List.replicate 64 true, by decide +kernel⟩,
    ⟨{ (up.set LINK.UPSTAT.STATE 3) with link.up.full := true, link.up.sweep := 1 }, default, List.replicate 64 true, by decide +kernel⟩,
    ⟨{ (up.set LINK.UPSTAT.STATE 3) with link.up.full := true, link.up.sweep := 2 }, default, List.replicate 64 true, by decide +kernel⟩,
    ⟨up.set LINK.UPSTAT.STATE 4, default, by decide +kernel⟩,
    ⟨{ (up.set LINK.UPSTAT.STATE 4) with link.up.echoes := 127, link.up.prbOpen := [9] }, default, 9, by decide +kernel⟩,
    ⟨up.set LINK.UPSTAT.STATE 2, default, default, by decide +kernel⟩,
    ⟨{ (up.set LINK.UPSTAT.STATE 4) with link.up.echoes := 128, link.up.probes := 128, link.up.dSum := 100000 }, default, by decide +kernel⟩,
    ⟨up, default, by decide +kernel⟩,
    ⟨(up.set LINK.UPSTAT.STATE 5).set2 (hopFld .up) 1000, default, [1, 2, 3], 992#32, by decide +kernel⟩,
    ⟨(up.set LINK.UPSTAT.STATE 5).set2 (hopFld .up) 1000, default, [1, 2, 3], 1009#32, by decide +kernel⟩,
    ⟨up.set LINK.UPSTAT.STATE 2, .up, by decide +kernel⟩,
    ⟨{ (((up.set LINK.UPSTAT.STATE 5).set LINK.DNSTAT.STATE 6).set2 (hopFld .up) 1000) with link.rate := 0 }, .up, [1, 2, 3], 992#32, by decide +kernel⟩⟩

theorem test_meets_LinkAndRateChanges :
    (∃ (s : State) (p : Port) (why : DownCause), s.pw.phase = .active ∧ s.linkUp p = true ∧ s.downDue p why = true) ∧
    (∃ (s : State) (p : Port) (why : DownCause), s.pw.phase = .active ∧ (s.pState p = 0 ∨ (why ≠ .los ∧ why ≠ .signal ∧ (s.linkUp p = false ∨ s.downDue p why = false)))) ∧
    (∃ (s : State) (p : Port), s.pw.phase = .active ∧ s.pState p ≠ 0 ∧ s.linkUp p = false) ∧
    (∃ (s : State) (p : Port), s.pw.phase = .active ∧ s.linkUp p = true) ∧
    (∃ (s : State) (p : Port) (pos : List Bool), s.pw.phase = .active ∧ pos.length = 64 ∧ s.linkUp p = true) ∧
    (∃ (s : State) (p : Port) (pos : List Bool), s.pw.phase = .active ∧ pos.length = 64 ∧ s.linkUp p = false) ∧
    (∃ (s : State), s.pw.phase = .active ∧ s.tm.ltc % 1000 = 0 ∧ s.link.window = true) ∧
    (∃ (s : State), s.pw.phase = .active ∧ s.tm.ltc % 1000 ≠ 0) ∧
    (∃ (s : State) (a : Announce), s.pw.phase = .active ∧ s.link.ann = some a ∧ s.reached a.t = true) ∧
    (∃ (s : State), s.pw.phase = .active ∧ (∀ a, s.link.ann = some a → s.reached a.t = false)) ∧
    (∃ (s : State) (p : Port), s.pw.phase = .active ∧ s.pState p = 7 ∧ (s.port p).rt = 2) ∧
    (∃ (s : State) (p : Port), s.pw.phase = .active ∧ s.pState p = 7 ∧ (s.port p).rt = 4 ∧ 128 ≤ (s.port p).echoes ∧ 128 ≤ (s.port p).probes) ∧
    (∃ (s : State) (p : Port) (eyes : List Byte) (d : BitVec 32), s.pw.phase = .active ∧ eyes.length = 3 ∧ s.pState p = 7 ∧ (s.port p).rt = 5 ∧ ((s.hopD p : Int) - d.toNat).natAbs ≤ 8) ∧
    (∃ (s : State) (p : Port) (f : Byte), s.pw.phase = .active ∧ s.pState p = 7 ∧ (s.port p).rt = 6 ∧ f.getLsbD 4 = true ∧ (s.linkUp p.other = false ∨ s.pRateOf p = s.pRateOf p.other)) ∧
    (∃ (s : State) (p : Port) (f : Byte), s.pw.phase = .active ∧ (s.pState p ≠ 7 ∨ (s.port p).rt ≠ 6 ∨ f.getLsbD 4 = false)) ∧
    (∃ (s : State) (p : Port) (t0 : Nat), s.pw.phase = .active ∧ s.pState p = 7 ∧ s.link.rateAt = some t0 ∧ t0 + 8 ≤ s.tm.tread) ∧
    (∃ (s : State) (t0 : Nat), s.pw.phase = .active ∧ s.link.rateAt = some t0 ∧ s.tm.tread < t0 + 8) ∧
    (∃ (s : State), s.pw.phase = .active ∧ s.rsArmed = true ∧ (s.tm.stn + 1) % 4294967296 = s.get2 XACT.RSTN0 ∧ s.link.ann = none) ∧
    (∃ (s : State) (b : Nat), s.pw.phase = .active ∧ s.xact.bankNext = some b ∧ b < 2) ∧
    (∃ (s : State) (p : Port), s.pw.phase = .active ∧ s.pState p = 2 ∧ (s.port p).fromUp = false ∧ s.linkUp p.other = false) :=
  ⟨⟨(up.set LINK.UPSTAT.STATE 6), default, .los, by decide +kernel⟩,
    ⟨(up.set LINK.UPSTAT.STATE 6), default, .violations, by decide +kernel⟩,
    ⟨up.set LINK.UPSTAT.STATE 1, .up, by decide +kernel⟩,
    ⟨(up.set LINK.UPSTAT.STATE 6), default, by decide +kernel⟩,
    ⟨(up.set LINK.UPSTAT.STATE 6), default, List.replicate 64 true, by decide +kernel⟩,
    ⟨up, default, List.replicate 64 true, by decide +kernel⟩,
    ⟨{ up with link.window := true, link.up.errs := 70000 }, by decide +kernel⟩,
    ⟨{ up with tm.ltc := 1001 }, by decide +kernel⟩,
    ⟨{ up with link.ann := some ⟨0, 1, false⟩ }, ⟨0, 1, false⟩, by decide +kernel⟩,
    ⟨up, by decide +kernel⟩,
    ⟨{ (up.set LINK.UPSTAT.STATE 7) with link.up.rt := 2 }, default, by decide +kernel⟩,
    ⟨{ (up.set LINK.UPSTAT.STATE 7) with link.up.rt := 4, link.up.echoes := 128, link.up.probes := 128, link.up.dSum := 100000 }, default, by decide +kernel⟩,
    ⟨{ (up.set LINK.UPSTAT.STATE 7).set2 (hopFld .up) 1000 with link.up.rt := 5 }, default, [1, 2, 3], 992#32, by decide +kernel⟩,
    ⟨{ (up.set LINK.UPSTAT.STATE 7) with link.up.rt := 6 }, default, 0x10, by decide +kernel⟩,
    ⟨up, default, default, by decide +kernel⟩,
    ⟨{ (up.set LINK.UPSTAT.STATE 7) with link.rateAt := some 1, tm.tread := 9 }, default, 1, by decide +kernel⟩,
    ⟨{ up with link.rateAt := some 1, tm.tread := 8 }, 1, by decide +kernel⟩,
    ⟨{ ((up.setB XACT.STATUS.RSARMED true)) with tm.stn := 4294967295 }, by decide +kernel⟩,
    ⟨{ up with xact.bankNext := some 1 }, 1, by decide +kernel⟩,
    ⟨up.set LINK.UPSTAT.STATE 2, .up, by decide +kernel⟩⟩

theorem test_meets_Slots :
    (∃ (s : State) (p : Port) (sos : Bool) (x : Slot), s.pw.phase = .active ∧ s.linkUp p = true ∧ (s.port p).lost = false ∧ (sos = false ∨ slotCount (s.pRateOf p) ≤ x.slot)) ∧
    (∃ (s : State) (p : Port) (x : Slot), s.pw.phase = .active ∧ s.forwards p = true ∧ (s.port p).lost = false ∧ x.slot < slotCount (s.pRateOf p) ∧ s.owns p.other.lane x.slot (s.frameStn p.other.lane) = false ∧ oddCommand x = false) ∧
    (∃ (s : State) (p : Port) (x : Slot), s.pw.phase = .active ∧ (s.port p).lost = false ∧ x.slot < slotCount (s.pRateOf p) ∧ oddCommand x = true ∧ s.arrives (slotOp x) (slotCmd p x) ∧ Cmd.silent (slotCmd p x) = false ∧ s.qRoom 3 8 = true) ∧
    (∃ (s : State) (l : Lane), s.pw.phase = .active ∧ s.linkUp l.port = false) ∧
    (∃ (s : State) (l : Lane) (slot q i : Nat) (stn : BitVec 32) (b : Block), s.pw.phase = .active ∧ s.linkUp l.port = true ∧ s.leanSlot l slot stn.toNat = false ∧ s.planQueue l slot stn.toNat = some q ∧ s.pick q l false = some i ∧ (look s.xact.queues q).blocks[i]? = some b ∧ slot < slotCount (s.pRateOf l.port) ∧ (s.port l.port.other).lost = false) ∧
    (∃ (s : State) (l : Lane) (slot q i : Nat) (stn : BitVec 32), s.pw.phase = .active ∧ s.linkUp l.port = true ∧ s.leanSlot l slot stn.toNat = false ∧ s.planQueue l slot stn.toNat = some q ∧ s.pick q l false = some i ∧ slot < slotCount (s.pRateOf l.port) ∧ (s.port l.port.other).lost = false) ∧
    (∃ (s : State) (l : Lane) (slot q i : Nat) (stn : BitVec 32), s.pw.phase = .active ∧ s.linkUp l.port = true ∧ s.leanSlot l slot stn.toNat = false ∧ s.planQueue l slot stn.toNat = some q ∧ s.pick q l false = some i ∧ slot < slotCount (s.pRateOf l.port) ∧ (s.port l.port.other).lost = true) ∧
    (∃ (s : State) (l : Lane) (slot : Nat) (stn : BitVec 32), s.pw.phase = .active ∧ s.makesFrame l = true ∧ s.linkUp l.port = true ∧ slot < slotCount (s.pRateOf l.port) ∧ s.owns l slot stn.toNat = false) ∧
    (∃ (s : State) (l : Lane) (slot q : Nat) (stn : BitVec 32), s.pw.phase = .active ∧ s.linkUp l.port = true ∧ s.leanSlot l slot stn.toNat = false ∧ s.planQueue l slot stn.toNat = some q ∧ s.pick q l false = none ∧ slot < slotCount (s.pRateOf l.port)) ∧
    (∃ (s : State) (l : Lane) (slot q i : Nat) (stn : BitVec 32) (b : Block), s.pw.phase = .active ∧ s.linkUp l.port = true ∧ s.leanSlot l slot stn.toNat = true ∧ s.leanPick l = some (q, i) ∧ (look s.xact.queues q).blocks[i]? = some b ∧ slot < slotCount (s.pRateOf l.port) ∧ (s.port l.port.other).lost = false) ∧
    (∃ (s : State) (l : Lane) (slot : Nat) (stn : BitVec 32), s.pw.phase = .active ∧ s.linkUp l.port = true ∧ s.leanSlot l slot stn.toNat = true ∧ s.leanPick l = none ∧ slot < slotCount (s.pRateOf l.port)) :=
  ⟨⟨(up.set LINK.UPSTAT.STATE 6), .up, default, default, by decide +kernel⟩,
    ⟨((up.set LINK.UPSTAT.STATE 6).set LINK.DNSTAT.STATE 6), .up, default, by decide +kernel⟩,
    ⟨cmdUp, .up, (cmd 9 4 0 [] 0).raw, by decide +kernel, by decide +kernel, by decide +kernel, by decide +kernel, ⟨by decide +kernel, by decide +kernel, by decide +kernel, seal_ok _, by decide +kernel, by decide +kernel⟩, by decide +kernel, by decide +kernel⟩,
    ⟨up, .dnTx, by decide +kernel⟩,
    ⟨queued, .dnTx, 70, 5, 0, default, { (default : Block) with bytes := [1, 2, 3], up := true, dn := true }, by decide +kernel⟩,
    ⟨queued, .dnTx, 70, 5, 0, default, by decide +kernel⟩,
    ⟨{ queued with link.up.lost := true }, .dnTx, 70, 5, 0, default, by decide +kernel⟩,
    ⟨queued, .dnTx, 71, default, by decide +kernel⟩,
    ⟨planned.set LINK.DNSTAT.STATE 6, .dnTx, 70, 5, default, by decide +kernel⟩,
    ⟨{ ((up.set LINK.DNSTAT.STATE 6).setReg XACT.POSDN.addr 0x8005#16) with link.dn.before := true, xact.queues := [(1, ⟨[{ (default : Block) with bytes := [1, 2, 3], up := true, dn := true, seq := 7 }], 1⟩)] }, .dnTx, 69, 1, 0, default, { (default : Block) with bytes := [1, 2, 3], up := true, dn := true, seq := 7 }, by decide +kernel⟩,
    ⟨{ ((up.set LINK.DNSTAT.STATE 6).setReg XACT.POSDN.addr 0x8005#16) with link.dn.before := true }, .dnTx, 69, default, by decide +kernel⟩⟩

theorem test_meets_ReadsAnswer :
    (∃ (s : State) (c : Cmd), s.pw.phase = .active ∧ s.arrives 1 c ∧ s.cmdStatus 1 c = 0 ∧ s.qRoom 3 (8 + 2 * c.count.toNat) = true) ∧
    (∃ (s : State) (c : Cmd), s.pw.phase = .active ∧ s.arrives 6 c ∧ s.cmdStatus 6 c = 0 ∧ Cmd.silent c = false ∧ s.qRoom 3 (28 + 2 * c.count.toNat) = true) ∧
    (∃ (s : State) (c : Cmd), s.pw.phase = .active ∧ (s.linkUp c.port = false ∨ s.framed c.port = false ∨ Cmd.addressed c 1 = false)) ∧
    (∃ (s : State) (c : Cmd), s.pw.phase = .active ∧ s.linkUp c.port = true ∧ s.framed c.port = true ∧ Cmd.addressed c 1 = true ∧ (c.crcOk = false ∨ c.ver ≠ 1#4)) ∧
    (∃ (s : State) (k : Fin 8), s.pw.phase = .active ∧ (s.reg (QUEUE.MIRkA.plus (2 * k.val)).addr).getLsbD 15 = true ∧ s.tm.stn % max (fieldOf (s.reg (QUEUE.MIRkB.plus (2 * k.val)).addr) 8 8) 1 = 0 ∧ 1 ≤ s.tm.tread ∧ s.qEnabled (55 + k.val) = true) ∧
    (∃ (s : State) (k : Fin 8), s.pw.phase = .active ∧ (s.reg (QUEUE.MIRkA.plus (2 * k.val)).addr).getLsbD 15 = false) :=
  ⟨⟨cmdUp, cmd 1 8 0x400 [] 0, by decide +kernel, ⟨by decide +kernel, by decide +kernel, by decide +kernel, seal_ok _, by decide +kernel, by decide +kernel⟩, by decide +kernel, by decide +kernel⟩,
    ⟨cmdUp, cmd 6 0 0 [] 0, by decide +kernel, ⟨by decide +kernel, by decide +kernel, by decide +kernel, seal_ok _, by decide +kernel, by decide +kernel⟩, by decide +kernel, by decide +kernel, by decide +kernel⟩,
    ⟨up, default, by decide +kernel⟩,
    ⟨cmdUp, { cmd 1 8 0 [] 0 with raw := spoil (cmd 1 8 0 [] 0).raw }, by decide +kernel, by decide +kernel, by decide +kernel, by decide +kernel, .inl (spoil_bad _)⟩,
    ⟨{ ((up.setReg (QUEUE.MIRkA.plus 14).addr 0x8400#16).setV QUEUE.QEN0 62 true) with tm.tread := 3 }, 7, by decide +kernel⟩,
    ⟨up, default, by decide +kernel⟩⟩

theorem test_meets_WritesStore :
    (∃ (s u : State) (c : Cmd), s.pw.phase = .active ∧ s.arrives 2 c ∧ s.cmdStatus 2 c = 0 ∧ s.qRoom 3 8 = true ∧ u = s.writeBegin.writeWords c.addr.toNat ((Cmd.words c).take c.count.toNat) ∧ u.pw.leave = none) ∧
    (∃ (s u : State) (c : Cmd), s.pw.phase = .active ∧ s.arrives 3 c ∧ s.cmdStatus 3 c = 0 ∧ s.qRoom 3 8 = true ∧ u = s.writeBegin.maskWords c.addr.toNat ((Cmd.words c).take (2 * c.count.toNat)) ∧ u.pw.leave = none) ∧
    (∃ (s u : State) (c : Cmd), s.pw.phase = .active ∧ s.arrives 4 c ∧ s.cmdStatus 4 c = 0 ∧ Cmd.silent c = true ∧ u = s.writeBegin.writeWords c.addr.toNat ((Cmd.words c).take c.count.toNat) ∧ u.pw.leave = none) ∧
    (∃ (s : State) (c : Cmd) (e : CacheEnt) (r : List Byte), s.pw.phase = .active ∧ s.pw.leave = none ∧ s.linkUp c.port = true ∧ s.framed c.port = true ∧ Cmd.addressed c 2 = true ∧ c.crcOk = true ∧ c.ver = 1#4 ∧ (s.cache c.port).find? (fun e => e.tid == c.tid.toNat) = some e ∧ e.crc = crc32 (Cmd.payload c) ∧ e.resp = some r ∧ s.qRoom 3 r.length = true) ∧
    (∃ (s : State) (c : Cmd), s.pw.phase = .active ∧ s.pw.leave = none ∧ s.arrives 2 c ∧ s.cmdStatus 2 c ≠ 0 ∧ s.qRoom 3 8 = true ∧ Cmd.silent c = false) :=
  ⟨⟨cmdUp, cmdUp.writeBegin.writeWords 0x181 [0x1234#16], cmd 2 1 0x181 [0x1234#16] 0, by decide +kernel, ⟨by decide +kernel, by decide +kernel, by decide +kernel, seal_ok _, by decide +kernel, by decide +kernel⟩, by decide +kernel, by decide +kernel, by decide +kernel, by decide +kernel⟩,
    ⟨cmdUp, cmdUp.writeBegin.maskWords 0x181 [0x1234#16, 0xFF#16], cmd 3 1 0x181 [0x1234#16, 0xFF#16] 0, by decide +kernel, ⟨by decide +kernel, by decide +kernel, by decide +kernel, seal_ok _, by decide +kernel, by decide +kernel⟩, by decide +kernel, by decide +kernel, by decide +kernel, by decide +kernel⟩,
    ⟨cmdUp, cmdUp.writeBegin.writeWords 0x181 [0x1234#16], cmd 4 1 0x181 [0x1234#16] 5, by decide +kernel, ⟨by decide +kernel, by decide +kernel, by decide +kernel, seal_ok _, by decide +kernel, by decide +kernel⟩, by decide +kernel, by decide +kernel, by decide +kernel, by decide +kernel⟩,
    ⟨{ cmdUp with xact.cacheUp := [⟨0, crc32 (Cmd.payload wr), some [1, 2, 3]⟩] }, wr, ⟨0, crc32 (Cmd.payload wr), some [1, 2, 3]⟩, [1, 2, 3], by decide +kernel, by decide +kernel, by decide +kernel, by decide +kernel, by decide +kernel, seal_ok _, by decide +kernel, rfl, rfl, rfl, by decide +kernel⟩,
    ⟨cmdUp, wr, by decide +kernel, by decide +kernel, ⟨by decide +kernel, by decide +kernel, by decide +kernel, seal_ok _, by decide +kernel, by decide +kernel⟩, by decide +kernel, by decide +kernel, by decide +kernel⟩⟩

theorem test_meets_NoRoomForResponse :
    (∃ (s : State) (i : Instr) (c : Cmd) (op n : Nat) (a : Bool), s.pw.phase = .active ∧ s.pw.leave = none ∧ transaction i = some (op, c, n, a) ∧ s.arrives op c ∧ Cmd.silent c = false ∧ (s.cmdStatus op c = 0 → a = true ∧ s.qRoom 3 (8 + n) = false) ∧ (s.cmdStatus op c ≠ 0 → s.qRoom 3 8 = false)) ∧
    (∃ (s : State) (i : Instr) (c : Cmd) (op n : Nat) (a : Bool) (e : CacheEnt) (r : List Byte), s.pw.phase = .active ∧ s.pw.leave = none ∧ transaction i = some (op, c, n, a) ∧ s.linkUp c.port = true ∧ s.framed c.port = true ∧ Cmd.addressed c op = true ∧ c.crcOk = true ∧ c.ver = 1#4 ∧ (s.cache c.port).find? (fun e => e.tid == c.tid.toNat) = some e ∧ e.crc = crc32 (Cmd.payload c) ∧ e.resp = some r ∧ s.qRoom 3 r.length = false) ∧
    (∃ (s : State) (i : Instr) (c : Cmd) (op n : Nat) (a : Bool) (e : CacheEnt), s.pw.phase = .active ∧ s.pw.leave = none ∧ transaction i = some (op, c, n, a) ∧ s.linkUp c.port = true ∧ s.framed c.port = true ∧ Cmd.addressed c op = true ∧ c.crcOk = true ∧ c.ver = 1#4 ∧ (s.cache c.port).find? (fun e => e.tid == c.tid.toNat) = some e ∧ e.crc ≠ crc32 (Cmd.payload c) ∧ Cmd.silent c = false ∧ s.qRoom 3 8 = false) :=
  ⟨⟨cmdFull, .read (cmd 1 8 0 [] 0), cmd 1 8 0 [] 0, 1, 16, true, by decide +kernel, by decide +kernel, rfl, ⟨by decide +kernel, by decide +kernel, by decide +kernel, seal_ok _, by decide +kernel, by decide +kernel⟩, by decide +kernel, by decide +kernel, by decide +kernel⟩,
    ⟨{ cmdFull with xact.cacheUp := [⟨0, crc32 (Cmd.payload wr), some [1, 2, 3, 4]⟩] }, .write wr, wr, 2, 0, true, ⟨0, crc32 (Cmd.payload wr), some [1, 2, 3, 4]⟩, [1, 2, 3, 4], by decide +kernel, by decide +kernel, rfl, by decide +kernel, by decide +kernel, by decide +kernel, seal_ok _, by decide +kernel, rfl, rfl, rfl, by decide +kernel⟩,
    ⟨{ cmdFull with xact.cacheUp := [⟨0, crc32 (Cmd.payload wr) + 1, some [1, 2, 3, 4]⟩] }, .write wr, wr, 2, 0, true, ⟨0, crc32 (Cmd.payload wr) + 1, some [1, 2, 3, 4]⟩, by decide +kernel, by decide +kernel, rfl, by decide +kernel, by decide +kernel, by decide +kernel, seal_ok _, by decide +kernel, rfl, plus_one_ne _, by decide +kernel, by decide +kernel⟩⟩

theorem test_meets_RegisterWrites :
    (∃ (s : State) (a : Fin 2048), s.pw.phase = .active ∧ s.pw.leave = none ∧ a.val % 64 < 8 ∧ a.val % 64 ≠ 1) ∧
    (∃ (s : State) (i : Instr) (a : Fin 2048) (n : Nat) (v : Word), s.pw.phase = .active ∧ s.pw.leave = none ∧ actionWord i = some (n, v) ∧ a.val = n ∧ (s.guardArmed = false ∨ s.cfgClass n = false)) ∧
    (∃ (s : State) (i : Instr) (a : Fin 2048) (n : Nat) (w m : Word), s.pw.phase = .active ∧ s.pw.leave = none ∧ actionBit i = some (n, w, m) ∧ a.val = n) ∧
    (∃ (s : State) (a : Fin 2048) (p w : Nat) (m : Word), s.pw.phase = .active ∧ s.pw.leave = none ∧ (p, w, m) ∈ rwWords ∧ a.val = linear p w ∧ (s.guardArmed = false ∨ s.cfgClass a.val = false) ∧ look s.staged a.val = none) ∧
    (∃ (s : State) (a : Fin 2048) (p w : Nat) (m v : Word) (ok : Word → Bool) (ev : Fld), s.pw.phase = .active ∧ s.pw.leave = none ∧ (p, w, m, ok, ev) ∈ checkedWords ∧ a.val = linear p w ∧ (s.guardArmed = false ∨ s.cfgClass a.val = false) ∧ look s.staged a.val = none ∧ ok v = true) ∧
    (∃ (s : State) (a : Fin 2048) (p w : Nat) (m v : Word) (ok : Word → Bool) (ev : Fld), s.pw.phase = .active ∧ s.pw.leave = none ∧ (p, w, m, ok, ev) ∈ checkedWords ∧ a.val = linear p w ∧ (s.guardArmed = false ∨ s.cfgClass a.val = false) ∧ ok v = false) ∧
    (∃ (s : State) (a : Fin 2048), s.pw.phase = .active ∧ s.pw.leave = none ∧ readOnly (a.val / 64) (a.val % 64) = true) ∧
    (∃ (s : State) (a : Fin 2048) (p w : Nat), s.pw.phase = .active ∧ s.pw.leave = none ∧ (p, w) ∈ writeOnly ∧ a.val = linear p w ∧ look s.staged a.val = none ∧ (s.reg a.val = 0 ∨ (p = 0x1E ∧ w ≤ 0x0C))) ∧
    (∃ (s : State) (a : Fin 2048) (v : Word), s.pw.phase = .active ∧ s.pw.leave = none ∧ (s.guardArmed = false ∨ s.cfgClass a.val = false) ∧ s.rwLocked = false ∧ a.val = CELLCFG.COUNT.COUNT.addr ∧ 12 ≤ v.toNat % 64 ∧ v.toNat % 64 ≤ 36) ∧
    (∃ (s : State) (a b : Fin 2048) (p w : Nat), s.pw.phase = .active ∧ s.pw.leave = none ∧ (p, w) ∈ pairWords ∧ a.val = linear p w ∧ b.val = a.val + 1 ∧ (s.guardArmed = false ∨ s.cfgClass a.val = false) ∧ (s.guardArmed = false ∨ s.cfgClass b.val = false)) ∧
    (∃ (s : State) (a b c : Fin 2048), s.pw.phase = .active ∧ s.pw.leave = none ∧ a.val = IMP.CELLMAP0.addr ∧ b.val = a.val + 1 ∧ c.val = a.val + 2 ∧ (s.guardArmed = false ∨ s.cfgClass c.val = false)) ∧
    (∃ (s : State) (a b : Fin 2048) (i : Nat), s.pw.phase = .active ∧ s.pw.leave = none ∧ i < 3 ∧ a.val = QUEUE.QEN0.addr + i ∧ b.val = QUEUE.QEN3.addr ∧ (s.guardArmed = false ∨ s.cfgClass a.val = false) ∧ (s.guardArmed = false ∨ s.cfgClass b.val = false)) :=
  ⟨⟨armed, 0x1C3, by decide +kernel⟩,
    ⟨up, .stopall, 0x481, 0x481, 1, by decide +kernel⟩,
    ⟨up, .run, 0x401, 0x401, 1, 8, by decide +kernel⟩,
    ⟨up, 0x030, 0, 0x30, 0x1FF, by decide +kernel⟩,
    ⟨up, 0x11F, 4, 0x1F, 3, 2, fun v => fieldOf v 0 2 != 3, LINK.EVT.CFGREJ, by decide +kernel, by decide +kernel, .head _, by decide +kernel, by decide +kernel, by decide +kernel, by decide +kernel⟩,
    ⟨up, 0x11F, 4, 0x1F, 3, 3, fun v => fieldOf v 0 2 != 3, LINK.EVT.CFGREJ, by decide +kernel, by decide +kernel, .head _, by decide +kernel, by decide +kernel, by decide +kernel⟩,
    ⟨up, 0x0C8, by decide +kernel⟩,
    ⟨up, 0x141, 5, 1, by decide +kernel⟩,
    ⟨up, 0x1C8, 20#16, by decide +kernel⟩,
    ⟨up, 0x088, 0x089, 2, 8, by decide +kernel⟩,
    ⟨up, 1256, 1257, 1258, by decide +kernel⟩,
    ⟨up, 0x189, 0x18B, 1, by decide +kernel⟩⟩

theorem test_meets_SetupCommands :
    (∃ (s : State) (c : Cmd), s.pw.phase = .active ∧ s.arrives 5 c ∧ s.cmdStatus 5 c = 0 ∧ s.qRoom 3 22 = true) ∧
    (∃ (s : State) (c : Cmd), s.pw.phase = .active ∧ s.arrives 7 c ∧ s.cmdStatus 7 c = 0 ∧ s.qRoom 3 18 = true) ∧
    (∃ (s : State) (c : Cmd), s.pw.phase = .active ∧ s.arrives 8 c ∧ s.cmdStatus 8 c = 0 ∧ s.qRoom 3 8 = true) ∧
    (∃ (s : State), s.pw.phase = .active) ∧
    (∃ (s : State), s.pw.phase = .active) :=
  ⟨⟨cmdUp, cmd 5 1 0 [5#16] 2, by decide +kernel, ⟨by decide +kernel, by decide +kernel, by decide +kernel, seal_ok _, by decide +kernel, by decide +kernel⟩, by decide +kernel, by decide +kernel⟩,
    ⟨cmdUp.setB TIME.STATUS.STNVALID true, cmd 7 3 0 [1#16, 20#16, 0#16] 0, by decide +kernel, ⟨by decide +kernel, by decide +kernel, by decide +kernel, seal_ok _, by decide +kernel, by decide +kernel⟩, by decide +kernel, by decide +kernel⟩,
    ⟨cmdUp.setB TIME.STATUS.STNVALID true, cmd 8 5 0 [0#16, 0#16, 5#16, 10#16, 0#16] 0, by decide +kernel, ⟨by decide +kernel, by decide +kernel, by decide +kernel, seal_ok _, by decide +kernel, by decide +kernel⟩, by decide +kernel, by decide +kernel⟩,
    ⟨up, by decide +kernel⟩,
    ⟨up, by decide +kernel⟩⟩

theorem test_meets_PlanBanks :
    (∃ (s : State) (b : Nat), s.pw.phase = .active ∧ b = s.get { QUEUE.PLANSEL with w := 1 }) ∧
    (∃ (s : State) (b p : Nat), s.pw.phase = .active ∧ b = s.get { QUEUE.PLANSEL with w := 1 } ∧ p = s.get { QUEUE.PLANPTR with w := 11 } ∧ p ≤ 1031 ∧ (b ≠ s.activeBank ∨ s.get (planState b) ≠ 2)) ∧
    (∃ (s : State) (b : Nat), s.pw.phase = .active ∧ b = s.get { QUEUE.PLANSEL with w := 1 } ∧ b = s.activeBank ∧ s.get (planState b) = 2) ∧
    (∃ (s : State) (p : Nat), s.pw.phase = .active ∧ p = s.get { QUEUE.PLANPTR with w := 11 }) ∧
    (∃ (s : State) (q : Nat), s.pw.phase = .active ∧ q = s.get { QUEUE.QSEL with w := 6 }) ∧
    (∃ (s : State) (q : Fin 38) (o : OpenBlk), s.pw.phase = .active ∧ look s.cells.openBlk q.val = some o ∧ o.born + s.get { QUEUE.FSAGE with w := 7 } ≤ s.tm.tread ∧ 1 ≤ s.tm.tread ∧ s.qEnabled (4 + q.val) = true) ∧
    (∃ (s : State) (q : Fin 38) (o : OpenBlk), s.pw.phase = .active ∧ look s.cells.openBlk q.val = some o ∧ s.tm.tread < o.born + s.get { QUEUE.FSAGE with w := 7 }) :=
  ⟨⟨up, default, by decide +kernel⟩,
    ⟨up.set { QUEUE.PLANPTR with w := 11 } 1031, 0, 1031, by decide +kernel⟩,
    ⟨up.set (planState 0) 2, 0, by decide +kernel⟩,
    ⟨up, default, by decide +kernel⟩,
    ⟨up, default, by decide +kernel⟩,
    ⟨{ up with cells.openBlk := [(37, some { (default : OpenBlk) with born := 3, samples := [5] })], tm.tread := 200 }, 37, { (default : OpenBlk) with born := 3, samples := [5] }, by decide +kernel⟩,
    ⟨{ up with cells.openBlk := [(37, some { (default : OpenBlk) with born := 3 })], tm.tread := 3 }, 37, { (default : OpenBlk) with born := 3 }, by decide +kernel⟩⟩

theorem test_meets_EventSummary : ∃ (s : State) (p : Nat), p < 32 ∧ look s.staged (linear 0x1F (0x08 + p / 16)) = none :=
  ⟨up, 31, by decide +kernel⟩

theorem test_meets_GalleryCounts :
    (∃ (s : State), s.pw.phase = .active ∧ 1 ≤ s.tm.tread ∧ s.life ≠ 3 ∧ s.gal.stopped = false ∧ s.gal.clearAt = [] ∧ (s.edgesOf 0).length = 64) ∧
    (∃ (s : State), s.pw.phase = .active ∧ (s.tm.tread = 0 ∨ s.life = 3 ∨ (s.gal.stopped = true ∧ s.gal.clearAt = []))) ∧
    (∃ (s : State), s.pw.phase = .active ∧ s.epochEnd = true ∧ s.life ≠ 3 ∧ mapWf (fun _ => 0) s.gal.rv = true ∧ (∀ k, look s.gal.img.hv k ≤ 4294967295)) ∧
    (∃ (s : State), s.pw.phase = .active ∧ (s.epochEnd = false ∨ s.life = 3)) ∧
    (∃ (s : State), s.pw.phase = .active ∧ 1 ≤ s.tm.tread ∧ s.life ≠ 3 ∧ s.gal.stopped = false ∧ s.gal.clearAt = [] ∧ (s.edgesOf 1).length = 32 ∧ s.count ≤ 36) ∧
    (∃ (s : State) (r : Res) (sh : Nat) (i : Int) (q : Rat), s.pw.phase = .active ∧ 1 ≤ s.tm.tread ∧ s.life ≠ 3 ∧ s.gal.stopped = false ∧ s.gal.clearAt = [] ∧ s.irec = true ∧ r = look s.cells.snap 36 ∧ sh = s.get2 CURR.RSHUNT0 ∧ i = r.v * 200 / (sh : Int) ∧ q = ((r.v * 20000 : Int) : Rat) / (sh : Rat) ∧ s.count ≤ 36) ∧
    (∃ (s : State), s.pw.phase = .active ∧ 1 ≤ s.tm.tread ∧ s.life ≠ 3 ∧ s.gal.stopped = false ∧ s.gal.clearAt = [] ∧ s.irec = false ∧ s.count ≤ 36) :=
  ⟨⟨{ up with tm.tread := 1 }, by decide +kernel⟩,
    ⟨up, by decide +kernel⟩,
    ⟨{ up with tm.tread := 1 }, by decide +kernel, by decide +kernel, by decide +kernel, by decide +kernel, fun _ => Nat.zero_le _⟩,
    ⟨up, by decide +kernel⟩,
    ⟨{ up with tm.tread := 1 }, by decide +kernel⟩,
    ⟨{ (up.set2 CURR.RSHUNT0 100).setB CURR.BCAST.BCAST true with tm.tread := 1 }, look up.cells.snap 36, 100, 0, 0, by decide +kernel⟩,
    ⟨{ up with tm.tread := 1 }, by decide +kernel⟩⟩

theorem test_meets_GalleryAccess :
    (∃ (s : State) (g : GalSet), s.pw.phase = .active ∧ s.gal.restored = false ∧ s.flState = 1 ∧ s.restoreSet = some g ∧ 2 ≤ s.life) ∧
    (∃ (s : State), s.pw.phase = .active ∧ s.gal.restored = false ∧ s.flState ≠ 0 ∧ (s.flState ≠ 1 ∨ s.restoreSet = none)) ∧
    (∃ (s : State), s.pw.phase = .active ∧ (s.gal.restored = true ∨ s.flState = 0)) ∧
    (∃ (s : State) (k t0 : Nat) (p : Option (List Int)), s.pw.phase = .active ∧ s.life = 1 ∧ k < 3 ∧ look s.gal.edgePend k = [(t0, p)] ∧ t0 < s.tm.tread) ∧
    (∃ (s : State), s.pw.phase = .active) ∧
    (∃ (s : State), s.pw.phase = .active ∧ s.bit { GAL.CURSOR with lo := 15, w := 1 } = false) ∧
    (∃ (s : State), s.pw.phase = .active) ∧
    (∃ (s : State) (b : Nat), s.pw.phase = .active ∧ s.get { GAL.CURSOR with w := 3 } = 3 ∧ b = s.get { GAL.BIN with w := 6 }) ∧
    (∃ (s : State) (b i : Nat), s.pw.phase = .active ∧ s.get { GAL.CURSOR with w := 3 } = 0 ∧ b = s.get { GAL.BIN with w := 6 } ∧ i = s.get { GAL.INDEX with w := 6 }) ∧
    (∃ (s : State), s.pw.phase = .active ∧ s.gal.xport = none) ∧
    (∃ (s : State), s.pw.phase = .active ∧ s.gal.xport.isSome = true) ∧
    (∃ (s : State) (e : GalExport), s.pw.phase = .active ∧ s.gal.xport = some e ∧ 1 ≤ s.tm.tread ∧ s.qEnabled 52 = true ∧ s.qRoom 52 448 = true) ∧
    (∃ (s : State), s.pw.phase = .active ∧ s.qRoom 52 448 = false) ∧
    (∃ (s : State), s.pw.phase = .active ∧ (∀ k < 3, ∀ e ∈ look s.gal.edgePend k, s.tm.tread ≤ e.1)) ∧
    (∃ (s : State) (k t0 t1 : Nat) (p q : Option (List Int)), s.pw.phase = .active ∧ s.life = 1 ∧ k < 3 ∧ look s.gal.edgePend k = [(t0, p), (t1, q)] ∧ t0 < s.tm.tread ∧ s.tm.tread ≤ t1) ∧
    (∃ (s : State) (k : Nat) (e : Nat × Option (List Int)), s.pw.phase = .active ∧ s.life ≠ 1 ∧ k < 3 ∧ e ∈ look s.gal.edgePend k ∧ e.1 < s.tm.tread) ∧
    (∃ (s : State) (t0 : Nat), s.pw.phase = .active ∧ 1 ≤ s.tm.tread ∧ s.life ≠ 3 ∧ s.gal.stopped = true ∧ s.gal.clearAt = [t0] ∧ t0 < s.tm.tread) ∧
    (∃ (s : State) (t0 t1 : Nat), s.pw.phase = .active ∧ 1 ≤ s.tm.tread ∧ s.life ≠ 3 ∧ s.gal.stopped = true ∧ s.gal.clearAt = [t0, t1] ∧ t0 < s.tm.tread ∧ s.tm.tread ≤ t1) ∧
    (∃ (s : State) (g : GalSet) (o : GalObj), s.pw.phase = .active ∧ s.gal.restored = false ∧ s.flState = 1 ∧ s.restoreSet = some g ∧ s.life < 2 ∧ (o = { g.img with hv := if s.life = 1 ∧ look g.edges 0 ≠ look s.gal.edges 0 then [] else g.img.hv, ht := if s.life = 1 ∧ look g.edges 1 ≠ look s.gal.edges 1 then [] else g.img.ht, hi := if s.life = 1 ∧ look g.edges 2 ≠ look s.gal.edges 2 then [] else g.img.hi })) :=
  ⟨⟨{ (up.set FLASH.STATUS.STATE 1) with vault.life := 2, vault.segment := 1, fl.sets := [{ (default : GalSet) with segment := 1, ltc := 9 }] }, { (default : GalSet) with segment := 1, ltc := 9 }, by decide +kernel⟩,
    ⟨up.set FLASH.STATUS.STATE 2, by decide +kernel⟩,
    ⟨up, by decide +kernel⟩,
    ⟨{ up with vault.life := 1, gal.edgePend := [(0, [(3, some [1, 2])])], tm.tread := 4 }, 0, 3, some [1, 2], by decide +kernel⟩,
    ⟨{ up with vault.life := 1, tm.tread := 4 }, by decide +kernel⟩,
    ⟨up, by decide +kernel⟩,
    ⟨up, by decide +kernel⟩,
    ⟨(up.set { GAL.CURSOR with w := 3 } 3).set { GAL.BIN with w := 6 } 63, 63, by decide +kernel⟩,
    ⟨(up.set { GAL.BIN with w := 6 } 60).set { GAL.INDEX with w := 6 } 36, 60, 36, by decide +kernel⟩,
    ⟨up, by decide +kernel⟩,
    ⟨{ up with gal.xport := some default }, by decide +kernel⟩,
    ⟨{ up with gal.xport := some default, tm.tread := 5 }, default, by decide +kernel⟩,
    ⟨{ up with xact.depthUse := [(52, some 0)], xact.depth := [(52, some 0)] }, by decide +kernel⟩,
    ⟨up, by decide +kernel⟩,
    ⟨{ up with vault.life := 1, gal.edgePend := [(1, [(3, none), (4, some [1])])], tm.tread := 4 }, 1, 3, 4, none, some [1], by decide +kernel⟩,
    ⟨{ up with gal.edgePend := [(0, [(3, none)])], tm.tread := 4 }, 0, (3, none), by decide +kernel⟩,
    ⟨{ up with tm.tread := 4, gal.stopped := true, gal.clearAt := [3] }, 3, by decide +kernel⟩,
    ⟨{ up with tm.tread := 4, gal.stopped := true, gal.clearAt := [3, 4] }, 3, 4, by decide +kernel⟩,
    ⟨{ (up.set FLASH.STATUS.STATE 1) with fl.sets := [default] }, default, default, by decide +kernel⟩⟩

theorem test_meets_FlashStarts :
    (∃ (s : State), s.pw.phase = .active ∧ s.flState = 0) ∧
    (∃ (s : State) (f : FlashFind), s.pw.phase = .active ∧ s.flState = 0 ∧ s.findSteps f ≤ s.fl.step) ∧
    (∃ (s : State) (f : FlashFind), s.pw.phase = .active ∧ (s.flState ≠ 0 ∨ s.fl.step < s.findSteps f)) ∧
    (∃ (s : State) (key : Byte), s.pw.phase = .active ∧ (key ≠ 0xA5 ∨ (s.holds 44 = false ∧ (s.fl.anchAok = true ∨ s.fl.anchBok = true) ∧ s.life ≠ 0))) ∧
    (∃ (s : State), s.pw.phase = .active ∧ (s.holds 44 = true ∨ s.life = 0 ∨ (s.fl.anchAok = false ∧ s.fl.anchBok = false)) ∧ (s.flState = 1 ∨ s.flState = 3)) ∧
    (∃ (s : State) (n : Nat), n < 256 ∧ s.formatsUsed.contains n = false) :=
  ⟨⟨up, by decide +kernel⟩,
    ⟨{ up with fl.step := 6 }, { (default : FlashFind) with sfdp := true, density := 128, erase4k := true, page256 := true, anchorA := some default }, by decide +kernel⟩,
    ⟨up, { (default : FlashFind) with sfdp := true }, by decide +kernel⟩,
    ⟨up, 0, by decide +kernel⟩,
    ⟨(up.set FLASH.STATUS.STATE 1), by decide +kernel⟩,
    ⟨up, 7, by decide +kernel⟩⟩

theorem test_meets_FlashWrites :
    (∃ (s : State) (r : Record) (d : Draft) (c : Nat), s.pw.phase = .active ∧ s.pw.leave = none ∧ s.flState = 1 ∧ s.fl.op = some (.page 2) ∧ s.fl.cur = some r ∧ s.fl.draft = some d ∧ s.fl.flushed = false ∧ c < 3 ∧ s.fl.progs < 4) ∧
    (∃ (s : State) (r : Record) (d : Draft) (c : Nat), s.pw.phase = .active ∧ s.pw.leave = none ∧ s.flState = 1 ∧ s.fl.op = some (.page 1) ∧ s.fl.cur = some r ∧ s.fl.draft = some d ∧ s.fl.flushed = false ∧ d.closing = false ∧ s.fl.weak = false ∧ c < 3) ∧
    (∃ (s : State) (r : Record) (d : Draft) (n : Nat), s.pw.phase = .active ∧ s.pw.leave = none ∧ s.pw.closing = none ∧ s.fl.op = some (.page n) ∧ s.fl.cur = some r ∧ s.fl.draft = some d ∧ 2 ≤ s.fl.tries) ∧
    (∃ (s : State) (o : FlashOp), s.pw.phase = .active ∧ s.pw.leave = none ∧ s.pw.closing = none ∧ s.fl.tries < 2 ∧ s.fl.op = some o ∧ (∀ n, o ≠ .page n)) ∧
    (∃ (s : State), s.pw.phase = .active ∧ s.fl.op.isSome = true ∧ s.fl.late < 2) ∧
    (∃ (s : State), s.pw.phase = .active ∧ s.fl.op.isSome = true ∧ 2 ≤ s.fl.late ∧ s.flState ≠ 3) ∧
    (∃ (s : State), s.pw.phase = .active ∧ s.fl.tombDue = true ∧ s.tombFree = true) ∧
    (∃ (s : State), s.pw.phase = .active ∧ s.tombFree = false) ∧
    (∃ (s : State) (r : Record), s.pw.phase = .active ∧ s.pw.leave = none ∧ s.pw.closing = none ∧ s.fl.tries < 2 ∧ s.flState = 1 ∧ s.fl.op = some (.page s.fl.page) ∧ s.fl.cur = some r) ∧
    (∃ (s : State) (r : Record) (d : Draft) (c : Nat), s.pw.phase = .active ∧ s.pw.leave = none ∧ s.flState = 1 ∧ s.fl.op = some (.page 2) ∧ s.fl.cur = some r ∧ s.fl.draft = some d ∧ s.fl.flushed = false ∧ c < 3 ∧ 4 ≤ s.fl.progs) :=
  ⟨⟨{ (up.set FLASH.STATUS.STATE 1) with fl.op := some (.page 2), fl.cur := some default, fl.draft := some default }, default, default, default, by decide +kernel⟩,
    ⟨{ (up.set FLASH.STATUS.STATE 1) with fl.op := some (.page 1), fl.cur := some default, fl.draft := some default }, default, default, 2, by decide +kernel⟩,
    ⟨{ (up.set FLASH.STATUS.STATE 1) with fl.op := some (.page 1), fl.cur := some default, fl.draft := some default, fl.tries := 2 }, default, default, 1, by decide +kernel⟩,
    ⟨{ (up.set FLASH.STATUS.STATE 1) with fl.op := some .erase }, .erase, by decide +kernel, by decide +kernel, by decide +kernel, by decide +kernel, by decide +kernel, fun _ h => nomatch h⟩,
    ⟨{ (up.set FLASH.STATUS.STATE 1) with fl.op := some .anchor, fl.late := 1 }, by decide +kernel⟩,
    ⟨{ (up.set FLASH.STATUS.STATE 1) with fl.op := some .anchor, fl.late := 2 }, by decide +kernel⟩,
    ⟨{ (up.set FLASH.STATUS.STATE 1) with fl.tombDue := true }, by decide +kernel⟩,
    ⟨{ up with vault.tombAt := some 0, tm.ltc := 86399999 }, by decide +kernel⟩,
    ⟨{ (up.set FLASH.STATUS.STATE 1) with fl.op := some (.page 2), fl.page := 2, fl.cur := some default, fl.draft := some default }, default, by decide +kernel⟩,
    ⟨{ (up.set FLASH.STATUS.STATE 1) with fl.op := some (.page 2), fl.cur := some default, fl.draft := some default, fl.progs := 4 }, default, default, 0, by decide +kernel⟩⟩

theorem test_meets_FlashKeeps :
    (∃ (s : State), s.pw.phase = .active ∧ s.tm.ltc % 3600000 = 0 ∧ 1 ≤ s.tm.tread ∧ s.flState = 1 ∧ s.waitRoom false = true) ∧
    (∃ (s : State), s.pw.phase = .active ∧ (s.tm.ltc % 3600000 ≠ 0 ∨ s.tm.tread = 0)) ∧
    (∃ (s : State), s.pw.phase = .active ∧ s.tm.ltc % 86400000 = 0 ∧ 1 ≤ s.tm.tread ∧ s.flState = 1 ∧ s.bit IDENT.STATUS.KEYOK = true ∧ s.waitRoom false = true) ∧
    (∃ (s : State), s.pw.phase = .active ∧ s.tm.ltc % 86400000 = 0 ∧ 1 ≤ s.tm.tread ∧ s.flState = 1 ∧ s.bit IDENT.STATUS.KEYOK = true) ∧
    (∃ (s : State) (q : Nat), s.pw.phase = .active ∧ s.flFree = true ∧ q = s.fl.tail ∧ q ≠ s.fl.next / 8 ∧ s.fl.dump = none ∧ s.dropMonth.copyNext q = none ∧ look s.fl.wear q < s.endurance) ∧
    (∃ (s : State) (q : Nat), s.pw.phase = .active ∧ s.flFree = true ∧ q = s.fl.tail ∧ q ≠ s.fl.next / 8 ∧ s.fl.dump = none ∧ s.dropMonth.copyNext q = none ∧ s.endurance ≤ look s.fl.wear q) ∧
    (∃ (s : State), s.pw.phase = .active ∧ (s.flFree = false ∨ s.fl.tail = s.fl.next / 8 ∨ (s.dumpHolds s.fl.tail = true ∧ 8 ≤ s.fl.erased))) ∧
    (∃ (s : State) (errs : List Nat) (q : Nat), s.pw.phase = .active ∧ errs.length = 8 ∧ s.flFree = true ∧ s.scrubDue = true ∧ s.cleanDue = false ∧ s.fl.fixes = [] ∧ q = max 4 (s.get FLASH.SCRUBPOS)) ∧
    (∃ (s : State) (errs : List Nat), s.pw.phase = .active ∧ errs.length = 8 ∧ (s.flFree = false ∨ s.scrubDue = false ∨ s.cleanDue = true ∨ s.fl.fixes ≠ [])) ∧
    (∃ (s : State), s.pw.phase = .active) ∧
    (∃ (s : State), s.pw.phase = .active ∧ s.flState = 1) ∧
    (∃ (s : State), s.pw.phase = .active ∧ s.flState ≠ 1) ∧
    (∃ (s : State) (k n : Nat), s.pw.phase = .active ∧ s.fl.dump = some (k, n) ∧ 1 ≤ s.tm.tread ∧ s.qEnabled 63 = true ∧ s.qRoom 63 528 = true ∧ s.flFree = true ∧ s.cleanDue = false ∧ s.scrubDue = false ∧ s.fl.fixes = []) ∧
    (∃ (s : State), s.pw.phase = .active ∧ (s.fl.dump = none ∨ s.qRoom 63 528 = false ∨ s.flFree = false ∨ s.cleanDue = true ∨ s.scrubDue = true)) ∧
    (∃ (s : State) (q : Nat), s.pw.phase = .active ∧ s.pw.leave = none ∧ s.pw.closing = none ∧ s.flState = 1 ∧ s.fl.op = some .erase ∧ q = s.fl.tail ∧ s.fl.evac = [] ∧ s.fl.clean = false) ∧
    (∃ (s : State), s.pw.phase = .active ∧ s.pw.leave = none ∧ s.pw.closing = none ∧ s.fl.op = some .erase ∧ 2 ≤ s.fl.tries) ∧
    (∃ (s : State) (q k : Nat), s.pw.phase = .active ∧ s.flFree = true ∧ q = s.fl.tail ∧ q ≠ s.fl.next / 8 ∧ s.fl.dump = none ∧ s.dropMonth.copyNext q = some k ∧ s.fl.progs < 4) ∧
    (∃ (s : State) (r : Record) (k c : Nat) (fix : Bool), s.pw.phase = .active ∧ s.pw.leave = none ∧ s.pw.closing = none ∧ s.flState = 1 ∧ s.fl.op = some (.page 1) ∧ s.fl.cur = some r ∧ s.fl.draft = none ∧ s.fl.copyOf = some (k, fix) ∧ s.fl.weak = false ∧ c < 3) ∧
    (∃ (s : State) (q : Nat) (m : Nat × Nat × Bool), s.pw.phase = .active ∧ s.flFree = true ∧ q = s.fl.tail ∧ q ≠ s.fl.next / 8 ∧ s.fl.dump = none ∧ 8 * (s.ringN - s.get FLASH.RETIRED) < s.keptCount + 64 ∧ (s.fl.ms.filter (fun m => !m.2.2)).getLast? = some m) ∧
    (∃ (s : State) (q : Nat), s.pw.phase = .active ∧ s.flFree = true ∧ q = s.fl.tail ∧ q ≠ s.fl.next / 8 ∧ s.fl.dump = none ∧ s.keptCount + 64 ≤ 8 * (s.ringN - s.get FLASH.RETIRED)) ∧
    (∃ (s : State), s.pw.phase = .active ∧ s.flFree = true ∧ s.fl.tail ≠ s.fl.next / 8 ∧ s.dumpHolds s.fl.tail = true ∧ s.fl.erased < 8) :=
  ⟨⟨{ (up.set FLASH.STATUS.STATE 1) with fl.op := some .anchor, tm.tread := 6 }, by decide +kernel⟩,
    ⟨up, by decide +kernel⟩,
    ⟨{ (up.set FLASH.STATUS.STATE 1).setB IDENT.STATUS.KEYOK true with fl.op := some .anchor, tm.tread := 6 }, by decide +kernel⟩,
    ⟨{ (up.set FLASH.STATUS.STATE 1).setB IDENT.STATUS.KEYOK true with tm.tread := 6 }, by decide +kernel⟩,
    ⟨{ ((up.set FLASH.STATUS.STATE 1).set FLASH.RINGSEC 4000) with fl.tail := 3, fl.next := 80 }, 3, by decide +kernel⟩,
    ⟨{ ((up.set FLASH.STATUS.STATE 1).set FLASH.RINGSEC 4000) with fl.tail := 3, fl.next := 80, fl.wear := [(3, 4000000)] }, 3, by decide +kernel⟩,
    ⟨up, by decide +kernel⟩,
    ⟨{ ((up.set FLASH.STATUS.STATE 1).set FLASH.RINGSEC 4000) with fl.tail := 3, fl.next := 80, fl.erased := 100, fl.scrubLeft := 5, fl.ring := [(32, some { (default : Record) with type := 1, cls := 1 })] }, List.replicate 8 0, 4, by decide +kernel⟩,
    ⟨up, List.replicate 8 0, by decide +kernel⟩,
    ⟨up, by decide +kernel⟩,
    ⟨(up.set FLASH.STATUS.STATE 1), by decide +kernel⟩,
    ⟨up, by decide +kernel⟩,
    ⟨{ ((up.set FLASH.STATUS.STATE 1).set FLASH.RINGSEC 4000) with fl.dump := some (4, 9), tm.tread := 6, fl.erased := 100 }, 4, 9, by decide +kernel⟩,
    ⟨up, by decide +kernel⟩,
    ⟨{ (up.set FLASH.STATUS.STATE 1) with fl.op := some .erase, fl.tail := 9 }, 9, by decide +kernel⟩,
    ⟨{ (up.set FLASH.STATUS.STATE 1) with fl.op := some .erase, fl.tail := 9, fl.tries := 2 }, by decide +kernel⟩,
    ⟨{ ((up.set FLASH.STATUS.STATE 1).set FLASH.RINGSEC 4000) with fl.tail := 4, fl.next := 80, fl.ring := [(33, some { (default : Record) with type := 1, cls := 1 })] }, 4, 33, by decide +kernel⟩,
    ⟨{ (up.set FLASH.STATUS.STATE 1) with fl.op := some (.page 1), fl.cur := some default, fl.copyOf := some (33, true) }, default, 33, 1, true, by decide +kernel⟩,
    ⟨{ (up.set FLASH.STATUS.STATE 1) with fl.tail := 4, fl.next := 80, fl.ms := [(5, 6, true), (3, 4, false)] }, 4, (3, 4, false), by decide +kernel⟩,
    ⟨{ ((up.set FLASH.STATUS.STATE 1).set FLASH.RINGSEC 4000) with fl.tail := 3, fl.next := 80 }, 3, by decide +kernel⟩,
    ⟨{ ((up.set FLASH.STATUS.STATE 1).set FLASH.RINGSEC 4000) with fl.tail := 3, fl.next := 80, fl.dump := some (24, 5) }, by decide +kernel⟩⟩

theorem test_meets_TipolBus :
    (∃ (s : State), s.pw.phase = .active ∧ s.tipOn = true ∧ s.tip.op ≠ .idle ∧ s.tip.called = false ∧ s.tip.winAt ≠ some s.tm.tread ∧ s.tm.idle = false) ∧
    (∃ (s : State), s.pw.phase = .active ∧ (s.tip.op = .idle ∨ s.tip.called = true ∨ s.tip.winAt = some s.tm.tread ∨ s.tm.idle = true ∨ s.tipOn = false)) ∧
    (∃ (s : State), s.pw.phase = .active ∧ s.tipOn = true ∧ s.tip.op = .idle ∧ s.tip.search = none) ∧
    (∃ (s : State), s.pw.phase = .active ∧ s.usedB TIPOL.CFG.POLLEN = true ∧ s.tip.pollLast + s.used TIPOL.PERIOD ≤ s.tm.tread ∧ s.tipOn = true ∧ s.tip.op = .idle ∧ s.tip.searchReq = false) ∧
    (∃ (s : State), s.pw.phase = .active ∧ s.tm.tread < s.tip.pollLast + s.used TIPOL.PERIOD) ∧
    (∃ (s : State), s.pw.phase = .active ∧ s.usedB TIPOL.CFG.POLLEN = true ∧ s.tipOn = true ∧ s.tip.op = .idle ∧ s.tip.searchReq = false) ∧
    (∃ (s : State) (n : TipNode) (k : Nat) (l : List Nat), s.pw.phase = .active ∧ s.tipOn = true ∧ s.tip.op = .latch ∧ s.tip.called = true ∧ s.tip.due ≤ s.tm.tread ∧ s.tipNode 0 = some n ∧ n.polled = k :: l) ∧
    (∃ (s : State), s.pw.phase = .active ∧ s.tm.tread < s.tip.due) ∧
    (∃ (s : State), s.pw.phase = .active ∧ s.usedB TIPOL.CFG.EN = true ∧ s.tip.low = 1 ∧ s.bit TIPOL.STATUS.SHORTLIVE = false) ∧
    (∃ (s : State), s.pw.phase = .active ∧ s.usedB TIPOL.CFG.EN = true ∧ s.tip.high = 1 ∧ s.bit TIPOL.STATUS.SHORTLIVE = true) ∧
    (∃ (s : State), s.pw.phase = .active) ∧
    (∃ (s : State) (f : TipolFrame) (e k v tick : Nat) (l : List Nat) (n : TipNode), s.pw.phase = .active ∧ s.tipOn = true ∧ s.tip.called = true ∧ s.tm.idle = false ∧ s.tip.due ≤ s.tm.tread ∧ s.tip.op = .fetch e (k :: l) ∧ s.tipNode e = some n ∧ tipDecode k f = .valid v tick) ∧
    (∃ (s : State) (f : TipolFrame) (e k : Nat) (l : List Nat) (n : TipNode), s.pw.phase = .active ∧ s.tipOn = true ∧ s.tip.called = true ∧ s.tm.idle = false ∧ s.tip.due ≤ s.tm.tread ∧ s.tip.op = .fetch e (k :: l) ∧ s.tipNode e = some n ∧ f.edge = false) ∧
    (∃ (s : State), s.pw.phase = .active ∧ (s.tip.called = false ∨ s.tm.tread < s.tip.due ∨ s.tm.idle = true ∨ s.tipOn = false)) ∧
    (∃ (s : State) (maps : List Word) (x : TipSearch), s.pw.phase = .active ∧ maps.length ≤ 16 ∧ s.tipOn = true ∧ s.tip.op = .scan ∧ s.tip.called = true ∧ s.tip.due ≤ s.tm.tread ∧ s.tip.search = some x ∧ s.tip.answered = false ∧ x.first = true ∧ s.tip.searchReq = false) ∧
    (∃ (s : State) (maps : List Word) (x : TipSearch), s.pw.phase = .active ∧ maps.length ≤ 16 ∧ s.tipOn = true ∧ s.tip.op = .scan ∧ s.tip.called = true ∧ s.tip.due ≤ s.tm.tread ∧ s.tip.search = some x ∧ s.tip.answered = false ∧ x.first = false ∧ x.tries < 3) ∧
    (∃ (s : State) (maps : List Word) (x : TipSearch), s.pw.phase = .active ∧ maps.length ≤ 16 ∧ s.tipOn = true ∧ s.tip.op = .scan ∧ s.tip.called = true ∧ s.tip.due ≤ s.tm.tread ∧ s.tip.search = some x ∧ s.tip.answered = false ∧ x.first = false ∧ 3 ≤ x.tries) ∧
    (∃ (s : State) (maps : List Word) (x : TipSearch) (num : List Nat) (new : List (Nat × List Nat)), s.pw.phase = .active ∧ maps.length ≤ 16 ∧ s.tipOn = true ∧ s.tip.op = .scan ∧ s.tip.called = true ∧ s.scanOver maps = true ∧ s.tip.search = some x ∧ s.tip.answered = true ∧ scanWalk x.lv x.pre maps 16 0 [] [] = some (num, new) ∧ numOk (nibbles num) = true ∧ s.tipKnown (nibbles num) = false ∧ s.tipCount < 32) ∧
    (∃ (s : State) (maps : List Word), s.pw.phase = .active ∧ maps.length ≤ 16 ∧ s.scanOver maps = false) ∧
    (∃ (s : State), s.pw.phase = .active ∧ s.tipOn = true ∧ s.tip.op ≠ .idle ∧ s.tip.called = false ∧ s.tip.winAt ≠ some s.tm.tread ∧ s.tm.idle = false ∧ s.tip.low = 0) ∧
    (∃ (s : State) (e k j : Nat) (l : List Nat), s.pw.phase = .active ∧ s.tipOn = true ∧ s.tip.called = true ∧ s.tm.idle = false ∧ s.tip.due ≤ s.tm.tread ∧ s.tip.op = .fetch e (k :: j :: l)) ∧
    (∃ (s : State) (maps : List Word) (x : TipSearch), s.pw.phase = .active ∧ maps.length ≤ 16 ∧ s.tipOn = true ∧ s.tip.op = .scan ∧ s.tip.called = true ∧ s.scanOver maps = true ∧ s.tip.search = some x ∧ s.tip.answered = true ∧ scanWalk x.lv x.pre maps 16 0 [] [] = none ∧ x.tries < 3) ∧
    (∃ (s : State) (x : TipSearch), s.tip.search = some x) :=
  ⟨⟨{ up.setB TIPOL.CFG.EN true with tip.op := .scan }, by decide +kernel⟩,
    ⟨up, by decide +kernel⟩,
    ⟨up, by decide +kernel⟩,
    ⟨{ (up.setB TIPOL.CFG.POLLEN true) with tm.tread := 70000 }, by decide +kernel⟩,
    ⟨up, by decide +kernel⟩,
    ⟨up, by decide +kernel⟩,
    ⟨{ up with tip.op := .latch, tip.called := true, tip.nodes := [(0, some { (default : TipNode) with chmap := 5, info := some 0x3F3 })] }, { (default : TipNode) with chmap := 5, info := some 0x3F3 }, 0, [2], by decide +kernel⟩,
    ⟨{ up with tip.due := 4 }, by decide +kernel⟩,
    ⟨{ up with tip.low := 1 }, by decide +kernel⟩,
    ⟨{ (up.setB TIPOL.STATUS.SHORTLIVE true) with tip.high := 1 }, by decide +kernel⟩,
    ⟨up, by decide +kernel⟩,
    ⟨{ up with tip.op := .fetch 3 [1], tip.called := true, tip.nodes := [(3, some default)] }, frame, 3, 1, 0, 98, [], default, by decide +kernel⟩,
    ⟨{ up with tip.op := .fetch 3 [1, 2], tip.called := true, tip.nodes := [(3, some default)] }, default, 3, 1, [2], default, by decide +kernel⟩,
    ⟨up, by decide +kernel⟩,
    ⟨{ up with tip.op := .scan, tip.called := true, tip.search := some { (default : TipSearch) with first := true } }, default, { (default : TipSearch) with first := true }, by decide +kernel⟩,
    ⟨{ up with tip.op := .scan, tip.called := true, tip.search := some { (default : TipSearch) with tries := 2 } }, default, { (default : TipSearch) with tries := 2 }, by decide +kernel⟩,
    ⟨{ up with tip.op := .scan, tip.called := true, tip.search := some { (default : TipSearch) with tries := 3 } }, default, { (default : TipSearch) with tries := 3 }, by decide +kernel⟩,
    ⟨{ up with tip.op := .scan, tip.called := true, tip.answered := true, tip.search := some default }, List.replicate 14 1#16 ++ [8#16, 0x200#16], default, List.replicate 14 0 ++ [3, 9], [], by decide +kernel⟩,
    ⟨up, [1, 2], by decide +kernel⟩,
    ⟨{ up.setB TIPOL.CFG.EN true with tip.op := .scan }, by decide +kernel⟩,
    ⟨{ up.setB TIPOL.CFG.EN true with tip.op := .fetch 3 [1, 2], tip.called := true, tip.nodes := [(3, some default)] }, 3, 1, 2, [], by decide +kernel⟩,
    ⟨{ up.setB TIPOL.CFG.EN true with tip.op := .scan, tip.called := true, tip.answered := true, tip.search := some default, tm.tread := 40 }, [0], default, by decide +kernel⟩,
    ⟨{ up with tip.search := some default }, default, by decide +kernel⟩⟩

theorem test_meets_ConfigGuard :
    (∃ (s : State) (key : Byte), s.pw.phase = .active ∧ key ≠ 0xA5) ∧
    (∃ (s : State), s.pw.phase = .active ∧ s.get2 CFGGUARD.CRC0 = s.cfgCheck) ∧
    (∃ (s : State), s.pw.phase = .active ∧ s.get2 CFGGUARD.CRC0 ≠ s.cfgCheck) ∧
    (∃ (s : State), s.pw.phase = .active) ∧
    (∃ (s : State), s.pw.phase = .active ∧ s.guardArmed = true ∧ s.tm.ltc % 16 = 0 ∧ s.get2 CFGGUARD.CRC0 ≠ s.cfgCheck) ∧
    (∃ (s : State), s.pw.phase = .active ∧ (s.guardArmed = false ∨ s.tm.ltc % 16 ≠ 0 ∨ s.get2 CFGGUARD.CRC0 = s.cfgCheck)) ∧
    (∃ (s : State), s.pw.phase = .active) ∧
    (∃ (s : State), s.pw.phase = .active) ∧
    (∃ (s : State) (i : CfgImage), s.pw.phase = .active ∧ s.cfg.image = some i ∧ s.cfg.imageDone = true ∧ 1 ≤ s.tm.tread) :=
  ⟨⟨up, default, by decide +kernel⟩,
    ⟨guarded 0 up.cfgCheck, by decide +kernel, guarded_eq 0⟩,
    ⟨guarded 0 ((up.cfgCheck + 1) % 4294967296), by decide +kernel, guarded_ne 0⟩,
    ⟨up, by decide +kernel⟩,
    ⟨guarded 1 ((up.cfgCheck + 1) % 4294967296), by decide +kernel, by decide +kernel, by decide +kernel, guarded_ne 1⟩,
    ⟨up, by decide +kernel⟩,
    ⟨armed, by decide +kernel⟩,
    ⟨up, by decide +kernel⟩,
    ⟨{ up with cfg.image := some default, cfg.imageDone := true, tm.tread := 1 }, default, by decide +kernel⟩⟩

theorem test_meets_TablesAndLife :
    (∃ (s : State), s.pw.phase = .active ∧ s.tptr ≤ 67) ∧
    (∃ (s : State), s.pw.phase = .active ∧ s.tptr ≤ 67) ∧
    (∃ (s : State), s.pw.phase = .active ∧ 67 < s.tptr) ∧
    (∃ (s : State) (v : Word), s.pw.phase = .active ∧ v.toNat % 8 ≠ 0) ∧
    (∃ (s : State) (v : Word), s.pw.phase = .active ∧ v.toNat % 8 = 0) ∧
    (∃ (s : State) (l : List Word), s.pw.phase = .active ∧ l = (List.range 68).map (fun i => (look s.cfg.stage i).getD 0)) ∧
    (∃ (s : State), s.pw.phase = .active) ∧
    (∃ (s : State) (k : Nat) (l : List Word), s.pw.phase = .active ∧ s.cfg.adopt = [(k, some l)] ∧ s.cfg.adoptAt < s.tm.tread) ∧
    (∃ (s : State), s.pw.phase = .active ∧ s.tm.tread ≤ s.cfg.adoptAt) ∧
    (∃ (s : State) (k : Fin 7), s.pw.phase = .active ∧ s.tm.ltc % 16 = 0 ∧ look s.cfg.tblState (k.val + 1) = .valid) ∧
    (∃ (s : State), s.pw.phase = .active ∧ s.tm.ltc % 16 ≠ 0) ∧
    (∃ (s : State) (w : Word), s.pw.phase = .active ∧ s.armNumber w = s.vault.fnum) ∧
    (∃ (s : State) (w : Word), s.pw.phase = .active ∧ s.armNumber w ≠ s.vault.fnum) ∧
    (∃ (s : State) (a : Nat), s.pw.phase = .active ∧ s.cfg.armAt = some a) ∧
    (∃ (s : State) (a g : Nat), s.pw.phase = .active ∧ s.pw.leave = none ∧ s.pw.closing = none ∧ s.bit LIFE.STATUS.BUSY = false ∧ g = s.get { LIFE.TARGET with w := 2 } ∧ lifeOk s.life g s.vault.segment = true ∧ (g = 3 → s.bit BAN.STATUS.HSCMD = false ∧ s.bit BAN.STATUS.LSCMD = false) ∧ s.cfg.armAt = some a ∧ s.tm.tread < a + 10 ∧ s.flState ≠ 1) ∧
    (∃ (s : State), s.pw.phase = .active ∧ s.pw.leave = none ∧ s.bit LIFE.STATUS.BUSY = false ∧ lifeOk s.life (s.get { LIFE.TARGET with w := 2 }) s.vault.segment = false) ∧
    (∃ (s : State), s.pw.phase = .active) ∧
    (∃ (s : State) (a g : Nat), s.pw.phase = .active ∧ s.pw.leave = none ∧ s.pw.closing = none ∧ s.bit LIFE.STATUS.BUSY = false ∧ g = s.get { LIFE.TARGET with w := 2 } ∧ lifeOk s.life g s.vault.segment = true ∧ (g = 3 → s.bit BAN.STATUS.HSCMD = false ∧ s.bit BAN.STATUS.LSCMD = false) ∧ s.cfg.armAt = some a ∧ s.tm.tread < a + 10 ∧ s.flState = 1) ∧
    (∃ (s : State) (e : OpEnd) (g : Nat), s.pw.phase = .active ∧ s.pw.leave = none ∧ s.pw.closing = some .life ∧ s.cfg.target = some g ∧ (s.opDone e).flState ≠ 1) ∧
    (∃ (s : State) (e : OpEnd) (g : Nat), s.pw.phase = .active ∧ s.pw.leave = none ∧ s.pw.closing = some .life ∧ s.cfg.target = some g ∧ (s.opDone e).flushOver = true ∧ (s.opDone e).flState = 1) ∧
    (∃ (s : State) (g : Nat), s.pw.phase = .active ∧ s.pw.leave = none ∧ s.pw.closing = some .life ∧ s.cfg.target = some g ∧ s.flState = 1) ∧
    (∃ (s : State) (sl : CalSlot) (p : Option (Option CfgImage)), s.pw.phase = .active ∧ s.pw.leave = none ∧ s.pw.closing = some .wipe ∧ s.fl.op = some (.slot true) ∧ s.fl.slotNew = some (sl, p)) ∧
    (∃ (s : State) (g : Nat), s.pw.phase = .active ∧ s.pw.leave = none ∧ s.pw.closing = some .life ∧ s.cfg.target = some g ∧ s.flState ≠ 1) ∧
    (∃ (s : State), s.pw.phase = .active ∧ s.pw.leave = none ∧ s.bit LIFE.STATUS.BUSY = false ∧ s.get { LIFE.TARGET with w := 2 } = 3 ∧ s.life = 2 ∧ (s.bit BAN.STATUS.HSCMD = true ∨ s.bit BAN.STATUS.LSCMD = true)) ∧
    (∃ (s : State) (g : Nat), s.pw.phase = .active ∧ s.pw.leave = none ∧ s.bit LIFE.STATUS.BUSY = false ∧ g = s.get { LIFE.TARGET with w := 2 } ∧ lifeOk s.life g s.vault.segment = true ∧ (g = 3 → s.bit BAN.STATUS.HSCMD = false ∧ s.bit BAN.STATUS.LSCMD = false) ∧ (∀ a, s.cfg.armAt = some a → a + 10 ≤ s.tm.tread)) ∧
    (∃ (s : State) (v : Word) (a g : Nat), s.pw.phase = .active ∧ s.pw.leave = none ∧ s.bit LIFE.STATUS.BUSY = false ∧ g = s.get { LIFE.TARGET with w := 2 } ∧ lifeOk s.life g s.vault.segment = true ∧ (g = 3 → s.bit BAN.STATUS.HSCMD = false ∧ s.bit BAN.STATUS.LSCMD = false) ∧ s.cfg.armAt = some a ∧ s.tm.tread < a + 10 ∧ v ≠ 0x5AC3) ∧
    (∃ (s : State), s.pw.phase = .active ∧ s.pw.leave = none ∧ s.bit LIFE.STATUS.BUSY = true) ∧
    (∃ (s : State) (a g : Nat), s.pw.phase = .active ∧ s.pw.leave = none ∧ s.pw.closing.isSome = true ∧ s.bit LIFE.STATUS.BUSY = false ∧ g = s.get { LIFE.TARGET with w := 2 } ∧ lifeOk s.life g s.vault.segment = true ∧ (g = 3 → s.bit BAN.STATUS.HSCMD = false ∧ s.bit BAN.STATUS.LSCMD = false) ∧ s.cfg.armAt = some a ∧ s.tm.tread < a + 10) :=
  ⟨⟨up.set { TABLE.TPTR with w := 7 } 67, by decide +kernel⟩,
    ⟨up.set { TABLE.TPTR with w := 7 } 67, by decide +kernel⟩,
    ⟨up.set { TABLE.TPTR with w := 7 } 68, by decide +kernel⟩,
    ⟨up, 7, by decide +kernel⟩,
    ⟨up, default, by decide +kernel⟩,
    ⟨up, List.replicate 68 0#16, by decide +kernel⟩,
    ⟨up, by decide +kernel⟩,
    ⟨{ up with cfg.adopt := [(2, some (List.replicate 68 1#16))], tm.tread := 4 }, 2, List.replicate 68 1#16, by decide +kernel⟩,
    ⟨up, by decide +kernel⟩,
    ⟨{ up with cfg.tblState := [(7, .valid)] }, 6, by decide +kernel⟩,
    ⟨{ up with tm.ltc := 17 }, by decide +kernel⟩,
    ⟨up, default, by decide +kernel⟩,
    ⟨up, 1, by decide +kernel⟩,
    ⟨{ up with cfg.armAt := some 3, tm.tread := 13 }, 3, by decide +kernel⟩,
    ⟨{ (up.set { LIFE.TARGET with w := 2 } 1) with cfg.armAt := some 0 }, 0, 1, by decide +kernel⟩,
    ⟨{ (up.set { LIFE.TARGET with w := 2 } 3) with cfg.armAt := some 0 }, by decide +kernel⟩,
    ⟨up, by decide +kernel⟩,
    ⟨{ ((up.set FLASH.STATUS.STATE 1).set { LIFE.TARGET with w := 2 } 1) with cfg.armAt := some 0 }, 0, 1, by decide +kernel⟩,
    ⟨{ up with pw.closing := some .life, cfg.target := some 1 }, .failed, 1, by decide +kernel⟩,
    ⟨{ (up.set FLASH.STATUS.STATE 1) with pw.closing := some .life, cfg.target := some 1, fl.flushed := true }, .failed, 1, by decide +kernel⟩,
    ⟨{ (up.set FLASH.STATUS.STATE 1) with pw.closing := some .life, cfg.target := some 1 }, 1, by decide +kernel⟩,
    ⟨{ (up.set FLASH.STATUS.STATE 1) with pw.closing := some .wipe, fl.op := some (.slot true), fl.slotNew := some (default, none) }, default, none, by decide +kernel⟩,
    ⟨{ up with pw.closing := some .life, cfg.target := some 2, vault.life := 1 }, 2, by decide +kernel⟩,
    ⟨{ ((up.setB BAN.STATUS.HSCMD true).set { LIFE.TARGET with w := 2 } 3) with vault.life := 2 }, by decide +kernel⟩,
    ⟨{ (up.set { LIFE.TARGET with w := 2 } 1) with cfg.armAt := some 0, tm.tread := 10 }, 1, by decide +kernel, by decide +kernel, by decide +kernel, by decide +kernel, by decide +kernel, by decide +kernel, fun a h => Option.some.inj (show some 0 = some a from h) ▸ by decide +kernel⟩,
    ⟨{ (up.set { LIFE.TARGET with w := 2 } 2) with cfg.armAt := some 0, vault.life := 1 }, 3, 0, 2, by decide +kernel⟩,
    ⟨up.setB LIFE.STATUS.BUSY true, by decide +kernel⟩,
    ⟨{ (up.set { LIFE.TARGET with w := 2 } 1) with cfg.armAt := some 0, vault.life := 3, pw.closing := some .swrst }, 0, 1, by decide +kernel⟩⟩

end Sys2Proof.Tests
end

