-- ==== Sys2Proof/Proofs/Without.lean ====
section
/-! SUPPORT. What a command leaves alone, said as an equation: the state without the parts it acts on. -/
namespace Sys2Proof.Machine

/-- A field taken in the parts `c` and then in more parts is taken in those. -/
theorem pick_pick {α : Type} {c d : List Part} (hcd : c ⊆ d) (p : Part) (x y z : α) :
    (if d.contains p then z else if c.contains p then y else x) = if d.contains p then z else x := by
  by_cases hd : p ∈ d
  · simp [hd]
  · simp [hd, show p ∉ c from fun hc => hd (hcd hc)]

theorem State.only_only (s t u : State) {c d : List Part} (hcd : c ⊆ d) : (s.only t c).only u d = s.only u d := by
  have hv : ((s.only t c).keep u).vault = (s.keep u).vault := by
    simp only [State.only, State.keep]
    split <;> rfl
  simp only [State.only, pick_pick hcd] at hv ⊢
  rw [hv]

/-- Everything of a state but the register words, the fault conditions, the counter of free values and the parts `c`. -/
def State.without (s : State) (c : List Part) : State := s.only State.reset c

theorem State.without_mono {s t : State} {c d : List Part} (hcd : c ⊆ d) (h : t.without c = s.without c) :
    t.without d = s.without d := by
  have key (x : State) : (x.without c).without d = x.without d := State.only_only x _ _ hcd
  rw [← key t, h, key]

/-- A command that changes only the parts `c` ends where the gate on these parts ends. -/
theorem State.only_of_without {s t : State} {c : List Part} (h : t.without c = s.without c) : s.only t c = t :=
  calc s.only t c = (s.without c).only t c := (State.only_only s _ _ (List.Subset.refl c)).symm
    _ = (t.without c).only t c := by rw [h]
    _ = t.only t c := State.only_only t _ _ (List.Subset.refl c)
    _ = t := State.only_same t c

theorem State.settle_only (s t : State) (c : List Part) (hl : s.pw.leave = none) : s.settle (s.only t c) = s.only t c := by
  rw [State.settle_stay s (s.only t c) hl]
  simp only [State.only, State.keep, State.mk.injEq, true_and, and_true]
  split <;> rfl

theorem State.settle_of_without {s t : State} {c : List Part} (hl : s.pw.leave = none) (h : t.without c = s.without c) :
    s.settle t = t := by
  rw [← State.only_of_without h, State.settle_only s t c hl]

theorem State.staged_of_without {s t : State} {c : List Part} (hc : Part.staged ∉ c) (h : t.without c = s.without c) :
    t.staged = s.staged := by
  rw [← State.only_of_without h]
  simp [State.only, hc]

/-- What every turn of a loop keeps, the loop keeps. -/
theorem forEach_keeps {α σ β : Type} (g : σ → β) (f : α → σ → σ) (l : List α) (h : ∀ a ∈ l, ∀ s, g (f a s) = g s) (s : σ) :
    g (forEach l f s) = g s := by
  induction l generalizing s with
  | nil => rfl
  | cons a l ih =>
    calc g (forEach l f (f a s)) = g (f a s) := ih (fun b hb => h b (List.mem_cons_of_mem a hb)) (f a s)
      _ = g s := h a List.mem_cons_self s

theorem State.forEach_without {α : Type} (c : List Part) (f : α → State → State) (l : List α)
    (h : ∀ a ∈ l, ∀ s, (f a s).without c = s.without c) (s : State) : (forEach l f s).without c = s.without c :=
  forEach_keeps (fun s => s.without c) f l h s

section
variable (s : State) (c : List Part)
@[simp] theorem State.setReg_without (a : Nat) (w : Word) : (s.setReg a w).without c = s.without c := (rfl)
@[simp] theorem State.set_without (f : Fld) (v : Nat) : (s.set f v).without c = s.without c := (rfl)
@[simp] theorem State.setB_without (f : Fld) (b : Bool) : (s.setB f b).without c = s.without c := (rfl)
@[simp] theorem State.setV_without (f : Fld) (i : Nat) (b : Bool) : (s.setV f i b).without c = s.without c := (rfl)
@[simp] theorem State.set2_without (f : Fld) (v : Nat) : (s.set2 f v).without c = s.without c := (rfl)
@[simp] theorem State.set3_without (f : Fld) (v : Nat) : (s.set3 f v).without c = s.without c := (rfl)
@[simp] theorem State.setVec_without (f : Fld) (v : Nat) : (s.setVec f v).without c = s.without c := (rfl)
@[simp] theorem State.evt_without (f : Fld) : (s.evt f).without c = s.without c := (rfl)
@[simp] theorem State.inc_without (f : Fld) : (s.inc f).without c = s.without c := (rfl)
@[simp] theorem State.occur_without (i : Nat) : (s.occur i).without c = s.without c := (rfl)
@[simp] theorem State.tick_without : s.tick.without c = s.without c := (rfl)
@[simp] theorem State.store_without (a : Nat) (m v : Word) : (s.store a m v).without c = s.without c := (rfl)
@[simp] theorem State.cond_without (i : Nat) (b : Bool) : (s.cond i b).without c = s.without c := by cases b <;> rfl
@[simp] theorem State.clearV_without (f : Fld) (n : Nat) : (s.clearV f n).without c = s.without c :=
  State.forEach_without c (fun i s => s.setV f i false) _ (fun _ _ _ => rfl) s
end
end Sys2Proof.Machine
end

