-- ==== Sys2Proof/Proofs/WithoutParts.lean ====
section
/-! SUPPORT. The state operations that replace one part or only register words, and the parts they leave alone. -/
namespace Sys2Proof.Machine

section
variable {c : List Part} (s : State)

/-! ### One part replaced -/

@[simp] theorem State.withHeld_without (h : Part.held ∈ c) (x) : ({ s with held := x }).without c = s.without c :=
  State.without_mono (c := [.held]) (by simpa using h) rfl
@[simp] theorem State.withStaged_without (h : Part.staged ∈ c) (x) : ({ s with staged := x }).without c = s.without c :=
  State.without_mono (c := [.staged]) (by simpa using h) rfl
@[simp] theorem State.withCells_without (h : Part.cells ∈ c) (x) : ({ s with cells := x }).without c = s.without c :=
  State.without_mono (c := [.cells]) (by simpa using h) rfl
@[simp] theorem State.withCal_without (h : Part.cal ∈ c) (x) : ({ s with cal := x }).without c = s.without c :=
  State.without_mono (c := [.cal]) (by simpa using h) rfl
@[simp] theorem State.withBal_without (h : Part.bal ∈ c) (x) : ({ s with bal := x }).without c = s.without c :=
  State.without_mono (c := [.bal]) (by simpa using h) rfl
@[simp] theorem State.withXact_without (h : Part.xact ∈ c) (x) : ({ s with xact := x }).without c = s.without c :=
  State.without_mono (c := [.xact]) (by simpa using h) rfl
@[simp] theorem State.withAux_without (h : Part.aux ∈ c) (x) : ({ s with aux := x }).without c = s.without c :=
  State.without_mono (c := [.aux]) (by simpa using h) rfl
@[simp] theorem State.withImp_without (h : Part.imp ∈ c) (x) : ({ s with imp := x }).without c = s.without c :=
  State.without_mono (c := [.imp]) (by simpa using h) rfl
@[simp] theorem State.withDiag_without (h : Part.diag ∈ c) (x) : ({ s with diag := x }).without c = s.without c :=
  State.without_mono (c := [.diag]) (by simpa using h) rfl
@[simp] theorem State.withSafe_without (h : Part.safe ∈ c) (x) : ({ s with safe := x }).without c = s.without c :=
  State.without_mono (c := [.safe]) (by simpa using h) rfl
@[simp] theorem State.withBan_without (h : Part.ban ∈ c) (x) : ({ s with ban := x }).without c = s.without c :=
  State.without_mono (c := [.ban]) (by simpa using h) rfl
@[simp] theorem State.withCol_without (h : Part.col ∈ c) (x) : ({ s with col := x }).without c = s.without c :=
  State.without_mono (c := [.col]) (by simpa using h) rfl
@[simp] theorem State.withLink_without (h : Part.link ∈ c) (x) : ({ s with link := x }).without c = s.without c :=
  State.without_mono (c := [.link]) (by simpa using h) rfl
@[simp] theorem State.withGal_without (h : Part.gal ∈ c) (x) : ({ s with gal := x }).without c = s.without c :=
  State.without_mono (c := [.gal]) (by simpa using h) rfl
@[simp] theorem State.withCfg_without (h : Part.cfg ∈ c) (x) : ({ s with cfg := x }).without c = s.without c :=
  State.without_mono (c := [.cfg]) (by simpa using h) rfl
@[simp] theorem State.withFl_without (h : Part.fl ∈ c) (x) : ({ s with fl := x }).without c = s.without c :=
  State.without_mono (c := [.fl]) (by simpa using h) rfl
@[simp] theorem State.withTip_without (h : Part.tip ∈ c) (x) : ({ s with tip := x }).without c = s.without c :=
  State.without_mono (c := [.tip]) (by simpa using h) rfl

/-! ### Register words and conditions only -/

@[simp] theorem State.calStatus_without : s.calStatus.without c = s.without c := by simp [State.calStatus]
@[simp] theorem State.balStatus_without : s.balStatus.without c = s.without c := by simp [State.balStatus]
@[simp] theorem State.linkStatus_without : s.linkStatus.without c = s.without c := by simp [State.linkStatus]
@[simp] theorem State.errStatus_without : s.errStatus.without c = s.without c := by simp [State.errStatus]
@[simp] theorem State.tblStatus_without : s.tblStatus.without c = s.without c := by simp [State.tblStatus]
@[simp] theorem State.flStatus_without : s.flStatus.without c = s.without c := by simp [State.flStatus]
@[simp] theorem State.auxStatus_without (v : Conv) (q p : Bool) : (s.auxStatus v q p).without c = s.without c := by simp [State.auxStatus]
@[simp] theorem State.fault41_without : s.fault41.without c = s.without c := by simp [State.fault41]
@[simp] theorem State.fault44_without : s.fault44.without c = s.without c := by simp [State.fault44]
@[simp] theorem State.copyCands_without : s.copyCands.without c = s.without c := by
  refine State.forEach_without c _ _ (fun _ _ _ => ?_) s
  simp
@[simp] theorem State.impNewer_without : s.impNewer.without c = s.without c := by
  unfold State.impNewer; split <;> simp
@[simp] theorem State.impStatus_without : s.impStatus.without c = s.without c := by
  simp only [State.impStatus, State.setB_without]
  refine State.forEach_without c _ _ (fun _ _ _ => ?_) s
  simp
@[simp] theorem State.classStore_without (w : Nat) (v : Word) : (s.classStore w v).without c = s.without c := by
  unfold State.classStore; split <;> simp
@[simp] theorem State.stairId_without (v : Word) : (s.stairId v).without c = s.without c := by simp [State.stairId]
@[simp] theorem State.tipStatus_without : s.tipStatus.without c = s.without c := by
  simp only [State.tipStatus, State.cond_without, State.setB_without, State.set_without]
  refine State.forEach_without c _ _ (fun _ _ _ => ?_) s
  simp

end
end Sys2Proof.Machine
end

