-- ==== Sys2Proof/Proofs/WithoutCommands.lean ====
section
/-! SUPPORT. Queues, ports, chains, switches, conversions, safety: the parts that the meaning of an action word acts on. -/
namespace Sys2Proof.Machine

section
variable {c : List Part} (s : State)

theorem State.ite_without (p : Prop) [Decidable p] (t : State) :
    (if p then s else t).without c = if p then s.without c else t.without c := apply_ite (fun t : State => t.without c) p s t

/-! ### Queues, plans and caches -/

theorem State.setQueue_without (h : Part.xact ∈ c) (q : Nat) (x : Queue) : (s.setQueue q x).without c = s.without c :=
  State.withXact_without s h _

theorem State.noteDrop_without (h : Part.xact ∈ c) (q : Nat) : (s.noteDrop q).without c = s.without c := by
  simp only [State.noteDrop, State.occur_without, State.evt_without, State.setV_without]
  exact State.withXact_without s h _

theorem State.dropOne_without (h : Part.xact ∈ c) (q : Nat) : (s.dropOne q).without c = s.without c := by
  simp only [State.dropOne, State.ite_without, State.noteDrop_without _ h, State.setQueue_without _ h,
    ite_self]

theorem State.dropNew_without (h : Part.xact ∈ c) (q : Nat) : (s.dropNew q).without c = s.without c := by
  simp only [State.dropNew, State.noteDrop_without _ h, State.setQueue_without _ h]

theorem State.makeRoom_without (h : Part.xact ∈ c) (fuel q n : Nat) :
    (State.makeRoom fuel s q n).without c = s.without c := by
  induction fuel generalizing s with
  | zero => rfl
  | succ fuel ih =>
    unfold State.makeRoom
    split
    · rfl
    · rw [ih, State.dropOne_without _ h]

theorem State.post_without (h : Part.xact ∈ c) (q : Nat) (l : List Byte) : (s.post q l).without c = s.without c := by
  simp only [State.post, State.ite_without, State.dropNew_without _ h, State.append, State.setQueue_without _ h,
    State.makeRoom_without _ h, State.dropOne_without _ h, ite_self]

theorem State.discardWaiting_without (h : Part.xact ∈ c) (q : Nat) : (s.discardWaiting q).without c = s.without c :=
  State.setQueue_without s h q _

theorem State.leanQ1_without (h : Part.xact ∈ c) : s.leanQ1.without c = s.without c :=
  State.forEach_without c _ _ (fun _ _ t => State.dropOne_without t h 1) s

theorem State.planEval_without (h : Part.xact ∈ c) : s.planEval.without c = s.without c := by
  simp only [State.planEval, State.ite_without, State.leanQ1_without _ h, State.setB_without, State.set_without,
    ite_self]

theorem State.planWrite_without (h : Part.xact ∈ c) (v : Word) : (s.planWrite v).without c = s.without c := by
  simp only [State.planWrite, State.ite_without, State.planEval_without _ h, State.fault41_without,
    State.set_without, State.evt_without, State.withXact_without _ h, ite_self]

theorem State.planChk_without (h : Part.xact ∈ c) : s.planChk.without c = s.without c := by
  simp only [State.planChk, State.ite_without, State.planEval_without _ h, State.fault41_without,
    State.set_without, State.evt_without, State.withXact_without _ h, ite_self]

/-! ### Ports -/

theorem State.setPort_without (h : Part.link ∈ c) (p : Port) (x : LinkPort) : (s.setPort p x).without c = s.without c := by
  cases p <;> exact State.withLink_without s h _

theorem State.toListen_without (p : Port) : (s.toListen p).without c = s.without c := by
  simp only [State.toListen, State.linkStatus_without, State.set_without]

theorem State.toT0_without (h : Part.link ∈ c) (p : Port) (r : Nat) (u : Bool) : (s.toT0 p r u).without c = s.without c := by
  simp only [State.toT0, State.linkStatus_without, State.setPort_without _ h, State.inc_without, State.set_without]

theorem State.retrain_without (h : Part.link ∈ c) (p : Port) (full : Bool) : (s.retrain p full).without c = s.without c := by
  simp only [State.retrain, State.portDown, State.besideEnd, State.ite_without, State.toListen_without, State.toT0_without _ h,
    State.inc_without, State.evt_without, State.setPort_without _ h, ite_self]

/-! ### Chains and switches -/

theorem State.restartChain_without (h : Part.cells ∈ c) (ch t : Nat) (b : Bool) :
    (s.restartChain ch t b).without c = s.without c := by
  simp only [State.restartChain, State.set_without, State.evt_without, State.withCells_without _ h]

theorem State.restartNow_without (hc : Part.cells ∈ c) (ha : Part.aux ∈ c) : s.restartNow.without c = s.without c :=
  (State.withAux_without _ ha _).trans
    (State.forEach_without c _ _ (fun ch _ t => State.restartChain_without t hc ch _ false) s)

theorem State.writeFineen_without (hc : Part.cells ∈ c) (ha : Part.aux ∈ c) (on : Bool) :
    (s.writeFineen on).without c = s.without c := by
  simp only [State.writeFineen, State.ite_without, State.restartNow_without _ hc ha, State.setB_without, ite_self]

theorem State.resolveSw_without (h : Part.bal ∈ c) (t : Nat) : (s.resolveSw t).without c = s.without c :=
  State.forEach_without c _ _ (fun _ _ t => State.withBal_without t h _) s

theorem State.cutSwitch_without (h : Part.bal ∈ c) (n t : Nat) : (s.cutSwitch n t).without c = s.without c := by
  simp only [State.cutSwitch, State.ite_without, State.resolveSw_without _ h, State.withBal_without _ h, ite_self]

theorem State.cutSwitches_without (h : Part.bal ∈ c) (l : List Nat) : (s.cutSwitches l).without c = s.without c :=
  State.forEach_without c _ _ (fun _ _ t => State.cutSwitch_without t h _ _) s

theorem State.excTrim_without (h : Part.bal ∈ c) (t : Nat) : (s.excTrim t).without c = s.without c :=
  State.forEach_without c _ _ (fun _ _ t => State.cutSwitch_without t h _ _) s

theorem State.relearn_without (h : Part.bal ∈ c) : s.relearn.without c = s.without c := by
  simp only [State.relearn, State.balStatus_without, State.withBal_without _ h]

theorem State.dutySet_without (hb : Part.bal ∈ c) (hh : Part.held ∈ c) (n : Nat) (v : Word) :
    (s.dutySet n v).without c = s.without c := by
  simp only [State.dutySet, State.holdReg, State.ite_without, State.withBal_without _ hb, State.setReg_without,
    State.withHeld_without _ hh, ite_self]

/-! ### Urgent conversions -/

theorem State.setConv_without (h : Part.aux ∈ c) (v : Conv) (x : AuxConv) : (s.setConv v x).without c = s.without c := by
  cases v <;> exact State.withAux_without s h _

theorem State.tapSkip_without (h : Part.diag ∈ c) (n : Nat) : (s.tapSkip n).without c = s.without c := by
  simp only [State.tapSkip, State.evt_without, State.inc_without, State.withDiag_without _ h]

theorem State.urgMeets_without (hb : Part.bal ∈ c) (hd : Part.diag ∈ c) (w : Word) : (s.urgMeets w).without c = s.without c :=
  (State.cutSwitches_without _ hb _).trans (State.forEach_without c _ _ (fun _ _ t => State.tapSkip_without t hd _) s)

theorem State.urgStart_without (ha : Part.aux ∈ c) (hb : Part.bal ∈ c) (hd : Part.diag ∈ c) (v : Conv) (q : UrgReq) :
    (s.urgStart v q).without c = s.without c := by
  simp only [State.urgStart, State.auxStatus_without, State.setConv_without _ ha, State.urgMeets_without _ hb hd, State.ite_without,
    State.inc_without, State.evt_without, ite_self]

theorem State.urgRequest_without (ha : Part.aux ∈ c) (hb : Part.bal ∈ c) (hd : Part.diag ∈ c) (v : Conv) (q : UrgReq) :
    (s.urgRequest v q).without c = s.without c := by
  cases hp : (s.conv v).urgPend <;>
    simp only [State.urgRequest, hp, State.ite_without, State.auxStatus_without, State.setConv_without _ ha, State.urgStart_without _ ha hb hd,
      State.evt_without, State.tick_without, ite_self]

theorem State.urgReq_without (ha : Part.aux ∈ c) (hb : Part.bal ∈ c) (hd : Part.diag ∈ c) (v : Word) :
    (s.urgReq v).without c = s.without c := by
  simp only [State.urgReq, State.hostUrgent, State.ite_without, State.urgRequest_without _ ha hb hd, State.evt_without, ite_self]

/-! ### Calibration and impedance -/

theorem State.trimTo_without (h : Part.cal ∈ c) (ch : Nat) (o g : Int) : (s.trimTo ch o g).without c = s.without c :=
  State.withCal_without s h _

theorem State.trimWrite_without (h : Part.cal ∈ c) (hs : Part.staged ∈ c) (v : Word) :
    (s.trimWrite v).without c = s.without c := by
  simp only [State.trimWrite, State.ite_without, State.calStatus_without, State.trimTo_without _ h, State.set_without,
    State.withStaged_without _ hs, ite_self]

theorem State.calRun_without (h : Part.cal ∈ c) : s.calRun.without c = s.without c := by
  simp only [State.calRun, State.ite_without, State.withCal_without _ h, State.evt_without, ite_self]

theorem State.calAbort_without (h : Part.cal ∈ c) : s.calAbort.without c = s.without c := by
  simp only [State.calAbort, State.ite_without, State.withCal_without _ h, ite_self]

theorem State.sysZero_without (h : Part.cal ∈ c) : s.sysZero.without c = s.without c := by
  simp only [State.sysZero, State.ite_without, State.withCal_without _ h, State.evt_without, ite_self]

theorem State.tofsLoad_without (h : Part.imp ∈ c) (v : Word) : (s.tofsLoad v).without c = s.without c := by
  simp only [State.tofsLoad, State.ite_without, State.impNewer_without, State.withImp_without _ h, State.set_without, ite_self]

theorem State.setLane_without (h : Part.imp ∈ c) (k : Nat) (x : ImpLane) : (s.setLane k x).without c = s.without c :=
  State.withImp_without s h _

theorem State.impGo_without (h : Part.imp ∈ c) : s.impGo.without c = s.without c := by
  have loop (m : LaneMode) : (forEach (List.range 8) (fun k s => if s.laneEn k && !s.laneRuns k then
      s.setLane k { look s.imp.lanes k with mode := m } else s) s).without c = s.without c :=
    State.forEach_without c _ _ (fun _ _ _ => by simp only [State.ite_without, State.setLane_without _ h, ite_self]) s
  simp only [State.impGo, State.ite_without, State.impStatus_without, State.evt_without, loop, ite_self]

theorem State.impAbort_without (hb : Part.bal ∈ c) (hi : Part.imp ∈ c) (stop : Bool) :
    (s.impAbort stop).without c = s.without c := by
  simp only [State.impAbort, State.impStatus_without, State.excTrim_without _ hb, State.ite_without, State.evt_without,
    State.inc_without, ite_self]
  exact State.forEach_without c _ _
    (fun _ _ _ => by simp only [State.ite_without, State.setLane_without _ hi, ite_self]) s

theorem State.restartCmd_without (hb : Part.bal ∈ c) (hi : Part.imp ∈ c) (hc : Part.cells ∈ c) (ha : Part.aux ∈ c) :
    s.restartCmd.without c = s.without c :=
  (State.impAbort_without _ hb hi false).trans (State.restartNow_without s hc ha)

theorem State.diagNow_without (h : Part.diag ∈ c) : s.diagNow.without c = s.without c := by
  simp only [State.diagNow, State.ite_without, State.withDiag_without _ h, ite_self]

/-! ### Safety, banister and fault collector -/

theorem State.hbGate_without (h : Part.ban ∈ c) : s.hbGate.without c = s.without c := by
  simp only [State.hbGate, State.setB_without, State.withBan_without _ h]

theorem State.nextSw_without : s.nextSw.without c = s.without c := by
  simp only [State.nextSw, State.ite_without, State.setB_without, ite_self]

theorem State.testDemand_without (h : Part.ban ∈ c) : s.testDemand.without c = s.without c := by
  cases ht : s.ban.test <;>
    simp only [State.testDemand, ht, State.testDiscard, State.nextSw_without, State.evt_without, State.inc_without, State.set_without,
      State.withBan_without _ h]

theorem State.permitUpdate_without (h : Part.ban ∈ c) (t : Nat) : (s.permitUpdate t).without c = s.without c := by
  simp only [State.permitUpdate, State.closeAll, State.openAll, State.ite_without, State.withBan_without _ h, State.setB_without,
    State.testDemand_without _ h, State.hbGate_without _ h, ite_self]

theorem State.causes_without (h : Part.safe ∈ c) : s.causes.without c = s.without c := by
  simp only [State.causes, State.withSafe_without _ h, State.ite_without, State.set_without, State.setB_without, ite_self]

theorem State.lockCause_without (hs : Part.safe ∈ c) (hb : Part.ban ∈ c) (b i t : Nat) (ev : Bool) :
    (s.lockCause b i t ev).without c = s.without c := by
  simp only [State.lockCause, State.permitUpdate_without _ hb, State.causes_without _ hs, State.ite_without, State.set_without,
    State.set2_without, State.set3_without, State.setB_without, State.inc_without, State.evt_without, State.clearV_without,
    State.cond_without, State.withSafe_without _ hs, ite_self]

theorem State.sfGone_without (h : Part.safe ∈ c) : s.sfGone.without c = s.without c := by
  simp only [State.sfGone, State.causes_without _ h, State.ite_without, State.cond_without, ite_self]

theorem State.kick_without (h : Part.safe ∈ c) : s.kick.without c = s.without c := by
  simp only [State.kick, State.sfGone_without _ h, State.withSafe_without _ h]

theorem State.tightCommit_without (h : Part.safe ∈ c) (v : Word) : (s.tightCommit v).without c = s.without c := by
  simp only [State.tightCommit, State.ite_without, State.evt_without, State.withSafe_without _ h, State.copyCands_without,
    State.set_without, ite_self]

theorem State.safeTrip_without (hs : Part.safe ∈ c) (hb : Part.ban ∈ c) (key : Byte) :
    (s.safeTrip key).without c = s.without c := by
  simp only [State.safeTrip, State.ite_without, State.lockCause_without _ hs hb, State.withSafe_without _ hs, State.evt_without,
    ite_self]

theorem State.safeRetest_without (h : Part.safe ∈ c) (key : Byte) : (s.safeRetest key).without c = s.without c := by
  simp only [State.safeRetest, State.ite_without, State.withSafe_without _ h, State.set_without, State.clearV_without,
    State.evt_without, ite_self]

theorem State.stickyDrop_without (hs : Part.safe ∈ c) (hb : Part.ban ∈ c) (v : Nat) :
    (s.stickyDrop v).1.without c = s.without c := by
  simp only [State.stickyDrop, State.classCause, State.ite_without, State.lockCause_without _ hs hb, State.causes_without _ hs,
    State.setB_without, State.withSafe_without _ hs, State.errStatus_without, State.setVec_without, ite_self]

theorem State.stickyClear_without (hs : Part.safe ∈ c) (hb : Part.ban ∈ c) (hc : Part.col ∈ c) (w : Nat) (v : Word) :
    (s.stickyClear w v).without c = s.without c := by
  cases hl : lowest (s.stickyDrop (no63 (v.toNat * 2 ^ (16 * w)))).2 <;>
    simp only [State.stickyClear, hl, State.set_without, State.evt_without, State.withCol_without _ hc, State.stickyDrop_without _ hs hb]

end
end Sys2Proof.Machine
end

