-- ==== Sys2Proof/Proofs/WithoutStores.lean ====
section
/-! SUPPORT. Gallery, flash, Tipol, guard, tables and life: the parts that the meaning of an action word acts on. -/
namespace Sys2Proof.Machine

section
variable {c : List Part} (s : State)

/-! ### Gallery -/

theorem State.setGal_without (h : Part.gal ∈ c) (g : Gal) : (s.setGal g).without c = s.without c :=
  State.withGal_without s h g

theorem State.galClear_without (h : Part.gal ∈ c) (key : Byte) : (s.galClear key).without c = s.without c := by
  simp only [State.galClear, State.ite_without, State.setGal_without _ h, State.evt_without, ite_self]

theorem State.xfer_without (h : Part.gal ∈ c) : s.xfer.without c = s.without c := by
  simp only [State.xfer, State.ite_without, State.setGal_without _ h, State.evt_without, State.inc_without, State.setB_without,
    ite_self]

/-! ### Flash -/

/-- What the device itself writes into the vault leaves what the factory wrote there. -/
theorem State.withVault_without (h : Part.vault ∈ c) (v : Vault) (hf : v.factory = s.vault.factory) :
    ({ s with vault := v }).without c = s.without c := by
  refine State.without_mono (c := [.vault]) (by simpa using h) ?_
  simp only [Vault.factory, Prod.mk.injEq] at hf
  obtain ⟨hfac, hcustom, hfnum, hrev, hkey, hpub, hcert, hlen⟩ := hf
  simp [State.without, State.only, State.keep, *]

theorem State.withTmFl_without (ht : Part.tm ∈ c) (hf : Part.fl ∈ c) (x : Time) (f : Flash) :
    ({ s with tm := x, fl := f }).without c = s.without c :=
  State.without_mono (c := [.tm, .fl]) (by simp [ht, hf]) (rfl)

theorem State.withCalCfg_without (ht : Part.cal ∈ c) (hf : Part.cfg ∈ c) (x : Cal) (f : Cfg) :
    ({ s with cal := x, cfg := f }).without c = s.without c :=
  State.without_mono (c := [.cal, .cfg]) (by simp [ht, hf]) (rfl)

theorem State.setFl_without (h : Part.fl ∈ c) (f : Flash) : (s.setFl f).without c = s.without c :=
  State.withFl_without s h f

theorem State.dumpStart_without (h : Part.fl ∈ c) : s.dumpStart.without c = s.without c := by
  simp only [State.dumpStart, State.ite_without, State.flStatus_without, State.setFl_without _ h, ite_self]

theorem State.tombWrite_without (hf : Part.fl ∈ c) (hv : Part.vault ∈ c) : s.tombWrite.without c = s.without c := by
  simp only [State.tombWrite, State.flStatus_without, State.setFl_without _ hf]
  exact State.withVault_without s hv _ rfl

theorem State.progNext_without (h : Part.fl ∈ c) : s.progNext.without c = s.without c := by
  simp only [State.progNext, State.ite_without, State.setFl_without _ h, ite_self]

theorem State.copyBegin_without (h : Part.fl ∈ c) (k : Nat) (fix : Bool) : (s.copyBegin k fix).without c = s.without c :=
  State.setFl_without s h _

theorem State.recBegin_without (ht : Part.tm ∈ c) (h : Part.fl ∈ c) (d : Draft) : (s.recBegin d).without c = s.without c :=
  State.withTmFl_without s ht h _ _

theorem State.draftNext_without (ht : Part.tm ∈ c) (h : Part.fl ∈ c) (d : Draft) (l : List Draft) :
    (s.draftNext d l).without c = s.without c := by
  simp only [State.draftNext, State.ite_without, State.occur_without, State.progNext_without _ h, State.recBegin_without _ ht h,
    State.tick_without, State.setFl_without _ h, ite_self]

end

/-- The parts that the flash's own work acts on: its journal, the marks of its records, the commit and the tables it carries, and the
tombstone (R411, R418). -/
def flashParts : List Part := [.tm, .cal, .cfg, .fl, .vault]

section
variable (s : State)

theorem State.flAbort_without : s.flAbort.without flashParts = s.without flashParts := by
  have hu : s.uncarry.without flashParts = s.without flashParts := State.withTmFl_without s (by decide) (by decide) _ _
  rw [← hu]
  cases hn : s.uncarry.fl.slotNew with
  | none => simp only [State.flAbort, hn, State.setFl_without _ (show Part.fl ∈ flashParts by decide)]
  | some p =>
    simp only [State.flAbort, hn, State.setFl_without _ (show Part.fl ∈ flashParts by decide)]
    exact State.withCalCfg_without _ (by decide) (by decide) _ _

theorem State.flAbort_vault : s.flAbort.vault = s.vault := by
  cases hn : s.uncarry.fl.slotNew with
  | none => simp only [State.flAbort, hn]; rfl
  | some p => simp only [State.flAbort, hn]; rfl

theorem State.flFail_without : s.flFail.without flashParts = s.without flashParts := by
  have hf : Part.fl ∈ flashParts := by decide
  simp only [State.flFail, State.ite_without, State.flStatus_without, State.fault44_without,
    State.tombWrite_without _ hf (show Part.vault ∈ flashParts by decide), State.set_without, State.setFl_without _ hf,
    State.flAbort_without, State.evt_without, ite_self]

theorem State.retireNow_without (q : Nat) : (s.retireNow q).without flashParts = s.without flashParts := by
  simp only [State.retireNow, State.failCheck, State.ite_without, State.flFail_without, State.occur_without, State.evt_without,
    State.inc_without, State.setFl_without _ (show Part.fl ∈ flashParts by decide), ite_self]

theorem State.tidyNext_without : s.tidyNext.without flashParts = s.without flashParts := by
  have hf : Part.fl ∈ flashParts := by decide
  unfold State.tidyNext
  split
  · split <;> simp only [State.progNext_without _ hf, State.copyBegin_without _ hf, State.retireNow_without]
  · dsimp only
    split
    · split <;> simp only [State.ite_without, State.progNext_without _ hf, State.copyBegin_without _ hf, State.retireNow_without,
        State.setFl_without _ hf, ite_self]
    · split <;> simp only [State.progNext_without _ hf, State.copyBegin_without _ hf, State.setFl_without _ hf]

theorem State.opNext_without : s.opNext.without flashParts = s.without flashParts := by
  have hf : Part.fl ∈ flashParts := by decide
  have ht : Part.tm ∈ flashParts := by decide
  cases hw : s.fl.wait <;>
    simp only [State.opNext, hw, State.ite_without, State.flStatus_without, State.progNext_without _ hf, State.setFl_without _ hf,
      State.draftNext_without _ ht hf, State.tidyNext_without, ite_self]

theorem State.withFailOpen_without (b : Bool) :
    ({ s with vault := { s.vault with failOpen := b } }).without flashParts = s.without flashParts :=
  State.withVault_without s (by decide) _ rfl

theorem State.flFormat_without : s.flFormat.without flashParts = s.without flashParts := by
  refine (State.setFl_without _ (show Part.fl ∈ flashParts by decide) _).trans ?_
  refine (State.withVault_without (c := flashParts) (State.flAbort _) (by decide) _ (by rw [State.flAbort_vault]; rfl)).trans ?_
  rw [State.flAbort_without, State.set2_without, State.set_without, State.set_without]

theorem State.flReady_without (reset : Bool) : (s.flReady reset).without flashParts = s.without flashParts := by
  have hf : Part.fl ∈ flashParts := by decide
  simp only [State.flReady, State.opNext_without, State.fault44_without, State.ite_without, State.evt_without, State.setFl_without _ hf,
    State.set_without]
  split
  · exact (State.withFailOpen_without _ false).trans (by simp only [State.ite_without, State.setFl_without _ hf, State.set_without, ite_self])
  · simp only [ite_self]

theorem State.format_without (key : Byte) : (s.format key).without flashParts = s.without flashParts := by
  simp only [State.format, State.ite_without, State.flReady_without, State.flFormat_without, State.evt_without, ite_self]

end

section
variable {c : List Part} (s : State)

/-! ### Tipol -/

theorem State.setTip_without (h : Part.tip ∈ c) (t : Tip) : (s.setTip t).without c = s.without c :=
  State.withTip_without s h t

theorem State.tipOp_without (h : Part.tip ∈ c) (o : TipOp) : (s.tipOp o).without c = s.without c := by
  simp only [State.tipOp, State.tipStatus_without, State.setTip_without _ h]

theorem State.tipNext_without (h : Part.tip ∈ c) : s.tipNext.without c = s.without c := by
  simp only [State.tipNext, State.tipSearch, State.tipPoll, State.ite_without, State.tipOp_without _ h, State.setTip_without _ h,
    ite_self]

theorem State.tipClose_without (h : Part.tip ∈ c) (hx : Part.xact ∈ c) : s.tipClose.without c = s.without c := by
  simp only [State.tipClose, State.ite_without, State.post_without _ hx, State.setTip_without _ h, ite_self]

theorem State.tipSearchReq_without (h : Part.tip ∈ c) : s.tipSearchReq.without c = s.without c := by
  simp only [State.tipSearchReq, State.tipNext_without _ h, State.setTip_without _ h]

theorem State.tipPollNow_without (h : Part.tip ∈ c) : s.tipPollNow.without c = s.without c := by
  simp only [State.tipPollNow, State.ite_without, State.tipNext_without _ h, State.setTip_without _ h, ite_self]

theorem State.tipClear_without (h : Part.tip ∈ c) (hx : Part.xact ∈ c) : s.tipClear.without c = s.without c := by
  simp only [State.tipClear, State.tipNext_without _ h, State.tipOp_without _ h, State.setTip_without _ h, State.ite_without,
    State.tipClose_without _ h hx, State.inc_without, State.evt_without, ite_self]

/-! ### Configuration guard, tables and life-cycle -/

theorem State.cfgArm_without (h : Part.cfg ∈ c) : s.cfgArm.without c = s.without c := by
  simp only [State.cfgArm, State.cfgDefault, State.ite_without, State.occur_without, State.evt_without, State.inc_without,
    State.setB_without, State.set_without, State.withCfg_without _ h, ite_self]

theorem State.cfgKeyed_without (key : Byte) {k : State → State} (h : ∀ t, (k t).without c = t.without c) :
    (s.cfgKeyed key k).without c = s.without c := by
  simp only [State.cfgKeyed, State.ite_without, h, State.evt_without, ite_self]

theorem State.unpersist_without (h : Part.cal ∈ c) (hc : Part.cfg ∈ c) : s.unpersist.without c = s.without c :=
  State.withCalCfg_without s h hc _ _

theorem State.persist_without (h : Part.cal ∈ c) (hc : Part.cfg ∈ c) : s.persist.without c = s.without c := by
  simp only [State.persist, State.ite_without, State.withCalCfg_without _ h hc, State.evt_without, ite_self]

theorem State.tselWrite_without (h : Part.cfg ∈ c) (v : Word) : (s.tselWrite v).without c = s.without c := by
  simp only [State.tselWrite, State.ite_without, State.tblStatus_without, State.set_without, State.withCfg_without _ h,
    State.evt_without, ite_self]

theorem State.tdata_without (h : Part.cfg ∈ c) (wr : Option Word) : (s.tdata wr).without c = s.without c := by
  cases wr <;> simp only [State.tdata, State.ite_without, State.tblStatus_without, State.set_without, State.withCfg_without _ h,
    State.evt_without, ite_self]

theorem State.tblCheck_without (h : Part.cfg ∈ c) : s.tblCheck.without c = s.without c := by
  simp only [State.tblCheck, State.ite_without, State.tblStatus_without, State.evt_without, State.withCfg_without _ h, ite_self]

theorem State.tblDel_without (h : Part.cfg ∈ c) : s.tblDel.without c = s.without c := by
  simp only [State.tblDel, State.tblStatus_without, State.withCfg_without _ h]

theorem State.lifeArm_without (h : Part.cfg ∈ c) (v : Word) : (s.lifeArm v).without c = s.without c := by
  simp only [State.lifeArm, State.ite_without, State.evt_without, State.setB_without, State.set_without, State.withCfg_without _ h,
    ite_self]

end
end Sys2Proof.Machine
end

