-- ==== Sys2Proof/Proofs/WriteWord.lean ====
section
/-! SUPPORT. The write of one word, its page's rule; key bytes. -/
namespace Sys2Proof.Machine

@[simp] theorem linear_div (p : Nat) {w : Nat} (h : w < 64) : linear p w / 64 = p := by unfold linear; omega
@[simp] theorem linear_mod (p : Nat) {w : Nat} (h : w < 64) : linear p w % 64 = w := by unfold linear; omega

/-- A word of the guard's class is not written while the guard is armed (R440). -/
def State.writable (s : State) (a : Nat) : Prop := s.guardArmed = false ∨ s.cfgClass a = false

theorem State.not_locked {s : State} {a : Nat} (h : s.writable a) : (s.guardArmed && s.cfgClass a) = false := by
  rcases h with h | h <;> simp [h]

theorem State.writeWord_ctrl {s : State} {p : Nat} (hp : p < 32) (hw : s.writable (linear p 1)) (v : Word) :
    s.writeWord (linear p 1) v = s.ctrlWrite p v := by
  have ha : ¬ 2048 ≤ linear p 1 := by unfold linear; omega
  simp [State.writeWord, ha, State.not_locked hw]

theorem State.writeWord_body {s : State} {p w : Nat} (hp : p < 32) (h8 : 8 ≤ w) (h64 : w < 64) (hw : s.writable (linear p w)) (v : Word) :
    s.writeWord (linear p w) v = s.bodyWrite p w v := by
  have ha : ¬ 2048 ≤ linear p w := by unfold linear; omega
  have hne : w ≠ 1 ∧ w ≠ 3 ∧ w ≠ 4 ∧ ¬ w < 8 := by omega
  simp [State.writeWord, ha, State.not_locked hw, h64, hne]

theorem exec_registerWrite {s : State} (h : s.pw.phase = .active) (a : Fin 2048) (v : Word) :
    exec (.registerWrite a v) s = .next (s.settle (s.writeBegin.writeWord a.val v)) :=
  whenActing_active s (fun s => s.writeBegin.writeWord a.val v) h

theorem keyOf_keyed (key : Byte) {n : Nat} (h : n < 256) : keyOf (keyed key n) = key := by
  have hk := key.isLt
  apply BitVec.eq_of_toNat_eq
  simp only [keyOf, keyed, BitVec.toNat_ofNat]
  omega

theorem keyed_bit (key : Byte) (n : Nat) {i : Nat} (h : i < 8) : (keyed key n).getLsbD i = n.testBit i := by
  have e : (256 * key.toNat + n) % 2 ^ 8 = n % 2 ^ 8 := by omega
  have low (m : Nat) : m.testBit i = (m % 2 ^ 8).testBit i := by
    rw [Nat.testBit_mod_two_pow, decide_eq_true h, Bool.true_and]
  simp only [keyed, BitVec.getLsbD_ofNat, show i < 16 by omega, decide_true, Bool.true_and]
  rw [low, e, ← low]
end Sys2Proof.Machine
end

