-- ==== Sys2Proof/Proofs/KeyedWords.lean ====
section
/-! SUPPORT. CTRL words with a key byte; when the write of a word is a command. -/
namespace Sys2Proof.Machine

section
variable {s : State} (hact : s.pw.phase = .active) (hstay : s.pw.leave = none)
include hact hstay

/-- A word whose write is the meaning `k` of a command that acts on the parts `c` is that command. -/
theorem write_is_command {i : Instr} {c : List Part} {k : State → State} (a : Fin 2048) (v : Word)
    (hx : exec i s.writeBegin = whenActive c s.writeBegin k) (hk : s.writeBegin.writeWord a.val v = k s.writeBegin)
    (hc : (k s.writeBegin).without c = s.writeBegin.without c) : exec (.registerWrite a v) s = exec i s.writeBegin := by
  rw [exec_registerWrite hact, hx, whenActive_active c s.writeBegin k hact, hk, State.only_of_without hc]
  exact congrArg Host.Outcome.next (State.settle_of_without (s := s.writeBegin) hstay hc)

theorem ctrl_is_command {i : Instr} {c : List Part} {k : State → State} {a : Fin 2048} {p : Nat} {v : Word}
    (hx : exec i s.writeBegin = whenActive c s.writeBegin k) (ha : a.val = linear p 1) (hp : p < 32) (hw : s.writable (linear p 1))
    (hk : s.writeBegin.ctrlWrite p v = k s.writeBegin)
    (hc : (k s.writeBegin).without c = s.writeBegin.without c) : exec (.registerWrite a v) s = exec i s.writeBegin :=
  write_is_command hact hstay a v hx (by rw [ha, State.writeWord_ctrl (s := s.writeBegin) hp hw, hk]) hc

theorem body_is_command {i : Instr} {c : List Part} {k : State → State} {a : Fin 2048} {p w : Nat} {v : Word}
    (hx : exec i s.writeBegin = whenActive c s.writeBegin k) (ha : a.val = linear p w) (hp : p < 32) (h8 : 8 ≤ w) (h64 : w < 64)
    (hw : s.writable (linear p w)) (hk : s.writeBegin.bodyWrite p w v = k s.writeBegin)
    (hc : (k s.writeBegin).without c = s.writeBegin.without c) : exec (.registerWrite a v) s = exec i s.writeBegin :=
  write_is_command hact hstay a v hx (by rw [ha, State.writeWord_body (s := s.writeBegin) hp h8 h64 hw, hk]) hc

end

section
variable (s : State) (key : Byte)

theorem keyed_bit0 (n : Nat) : (keyed key n).getLsbD 0 = n.testBit 0 := keyed_bit key n (by decide)
theorem keyed_bit1 (n : Nat) : (keyed key n).getLsbD 1 = n.testBit 1 := keyed_bit key n (by decide)
theorem keyed_bit2 (n : Nat) : (keyed key n).getLsbD 2 = n.testBit 2 := keyed_bit key n (by decide)
theorem keyed_bit3 (n : Nat) : (keyed key n).getLsbD 3 = n.testBit 3 := keyed_bit key n (by decide)

theorem State.sysCtrl_swrst : s.sysCtrl (keyed key 1) = s.swrst key := by
  rw [State.sysCtrl, keyOf_keyed key (by decide), keyed_bit0, keyed_bit1]
  by_cases hk : key = 0xA5#8
  · simp [hk, Nat.testBit]
  · simp [hk, State.swrst]

theorem State.sysCtrl_sleep : s.sysCtrl (keyed key 2) = s.sleepHost key := by
  rw [State.sysCtrl, keyOf_keyed key (by decide), keyed_bit0, keyed_bit1]
  by_cases hk : key = 0xA5#8
  · simp [hk, Nat.testBit]
  · simp [hk, State.sleepHost]

theorem State.safeCtrl_trip : s.safeCtrl (keyed key 1) = s.safeTrip key := by
  rw [State.safeCtrl, keyOf_keyed key (by decide), keyed_bit0, keyed_bit1]
  by_cases hk : key = 0xA5#8
  · simp [hk, Nat.testBit]
  · simp [hk, State.safeTrip]

theorem State.safeCtrl_retest : s.safeCtrl (keyed key 2) = s.safeRetest key := by
  rw [State.safeCtrl, keyOf_keyed key (by decide), keyed_bit0, keyed_bit1]
  by_cases hk : key = 0xA5#8
  · simp [hk, Nat.testBit]
  · simp [hk, State.safeRetest]

/-- One action bit of CFGGUARD.CTRL: its own command under the key. -/
theorem State.guardCtrl_keyed (n : Nat) (hn : n < 256) : s.guardCtrl (keyed key n) = s.cfgKeyed key (fun s =>
    let s := if n.testBit 0 then s.cfgArm else s
    let s := if n.testBit 1 then s.cfgOpen else s
    let s := if n.testBit 2 then s.persist else s
    if n.testBit 3 then s.unpersist else s) := by
  rw [State.guardCtrl, keyOf_keyed key hn, keyed_bit0, keyed_bit1, keyed_bit2, keyed_bit3]

theorem State.ctrlWrite_galClear : s.ctrlWrite 0x18 (keyed key 1) = s.galClear key := by
  simp only [State.ctrlWrite, keyed_bit0, keyed_bit1, keyOf_keyed key (show 1 < 256 by decide)]
  simp [Nat.testBit]

theorem State.ctrlWrite_format : s.ctrlWrite 0x19 (keyed key 1) = s.format key := by
  simp only [State.ctrlWrite, keyed_bit0, keyed_bit1, keyed_bit2, keyOf_keyed key (show 1 < 256 by decide)]
  simp [Nat.testBit]

end

/-- Every CLASS word is of the guard's class (R440). -/
theorem cfgMask_class (w : Fin 8) : cfgMask (linear 0x17 (0x14 + w.val)) ≠ 0 := by
  revert w; decide

end Sys2Proof.Machine
end

