-- ==== Sys2Proof/Proofs/ActionWords.lean ====
section
/-! SUPPORT. The write of an action word is the command of that word (R8, log 30). -/
namespace Sys2Proof.Machine

theorem State.writable_class {s : State} {w : Fin 8} (h : s.writable (linear 0x17 (0x14 + w.val))) : s.guardArmed = false :=
  h.resolve_right fun hc => by
    rw [State.cfgClass, bne_iff_ne.mpr (cfgMask_class w)] at hc
    simp at hc

theorem State.ctrlWrite_fineen (s : State) (on : Bool) : s.ctrlWrite 0x07 (if on then 1 else 0) = s.writeFineen on := by
  have h0 : BitVec.getLsbD (if on then (1 : Word) else 0) 0 = on := by cases on <;> rfl
  have h1 : BitVec.getLsbD (if on then (1 : Word) else 0) 1 = false := by cases on <;> rfl
  simp only [State.ctrlWrite, h0, h1, Bool.false_eq_true, if_false]

theorem State.bodyWrite_duty (s : State) (n : Cell) (v : Word) : s.bodyWrite 0x12 (0x09 + n.val) v = s.dutySet (n.val + 1) v := by
  have hn : 0x09 ≤ 0x09 + n.val ∧ 0x09 + n.val ≤ 0x2C := by have := n.isLt; omega
  have he : 0x09 + n.val - 8 = n.val + 1 := by omega
  simp only [State.bodyWrite, State.balWrite, if_pos hn, he]

theorem State.bodyWrite_sticky (s : State) (w : Fin 4) (v : Word) : s.bodyWrite 0x17 (0x08 + w.val) v = s.stickyClear w.val v := by
  have hw : 0x08 ≤ 0x08 + w.val ∧ 0x08 + w.val ≤ 0x0B := by have := w.isLt; omega
  simp only [State.bodyWrite, State.faultWrite, if_pos hw, Nat.add_sub_cancel_left]

theorem State.bodyWrite_class (s : State) (w : Fin 8) (v : Word) : s.bodyWrite 0x17 (0x14 + w.val) v = s.classStore w.val v := by
  have hw : (0x14 ≤ 0x14 + w.val ∧ 0x14 + w.val ≤ 0x1B) ∧ ¬ (0x08 ≤ 0x14 + w.val ∧ 0x14 + w.val ≤ 0x0B) ∧
      ¬ (0x10 ≤ 0x14 + w.val ∧ 0x14 + w.val ≤ 0x13) := by have := w.isLt; omega
  simp only [State.bodyWrite, State.faultWrite, if_pos hw.1, if_neg hw.2.1, if_neg hw.2.2, Nat.add_sub_cancel_left]

/-- A write of an action word is the command of that word (log 30). -/
theorem write_actionWord {s : State} {i : Instr} {a : Fin 2048} {n : Nat} {v : Word} (hact : s.pw.phase = .active)
    (hstay : s.pw.leave = none) (h : actionWord i = some (n, v)) (ha : a.val = n) (hw : s.writable n) :
    exec (.registerWrite a v) s = exec i s.writeBegin := by
  have ctrl {c k p v} := @ctrl_is_command s hact hstay i c k a p v
  have body {c k p w v} := @body_is_command s hact hstay i c k a p w v
  cases i with
  | swrst key =>
    cases h
    rw [exec_registerWrite hact, ha, State.writeWord_ctrl (s := s.writeBegin) (by decide) hw]
    exact (congrArg (fun t => Host.Outcome.next (s.settle t)) (State.sysCtrl_swrst _ key)).trans
      (whenActing_active s.writeBegin (fun s => s.swrst key) hact).symm
  | sleep key =>
    cases h
    rw [exec_registerWrite hact, ha, State.writeWord_ctrl (s := s.writeBegin) (by decide) hw]
    exact (congrArg (fun t => Host.Outcome.next (s.settle t)) (State.sysCtrl_sleep _ key)).trans
      (whenActing_active s.writeBegin (fun s => s.sleepHost key) hact).symm
  | lifeCommit v =>
    cases h
    rw [exec_registerWrite hact, ha, State.writeWord_body (s := s.writeBegin) (by decide) (by decide) (by decide) hw]
    exact (whenActing_active s.writeBegin (fun s => s.lifeCommit v) hact).symm
  | cfgArm key =>
    cases h
    exact ctrl (c := [.cfg]) (k := fun s => s.cfgKeyed key State.cfgArm) rfl
      ha (by decide) hw (State.guardCtrl_keyed _ key 1 (by decide))
      (State.cfgKeyed_without _ key fun t => t.cfgArm_without (by decide))
  | cfgOpen key =>
    cases h
    exact ctrl (c := []) (k := fun s => s.cfgKeyed key State.cfgOpen) rfl
      ha (by decide) hw (State.guardCtrl_keyed _ key 2 (by decide)) (State.cfgKeyed_without _ key fun t => t.set_without _ _ _)
  | persist key =>
    cases h
    exact ctrl (c := [.cal, .safe, .cfg]) (k := fun s => s.cfgKeyed key State.persist) rfl
      ha (by decide) hw (State.guardCtrl_keyed _ key 4 (by decide))
      (State.cfgKeyed_without _ key fun t => t.persist_without (by decide) (by decide))
  | unpersist key =>
    cases h
    exact ctrl (c := [.cal, .safe, .cfg]) (k := fun s => s.cfgKeyed key State.unpersist) rfl
      ha (by decide) hw (State.guardCtrl_keyed _ key 8 (by decide))
      (State.cfgKeyed_without _ key fun t => t.unpersist_without (by decide) (by decide))
  | retrain p =>
    cases h
    refine ctrl (c := [.link]) (k := fun s => s.retrain p false) rfl
      ha (by decide) hw ?_ ?_
    · cases p <;> rfl
    · exact State.retrain_without _ (by decide) _ _
  | fullTraining p =>
    cases h
    refine ctrl (c := [.link]) (k := fun s => s.retrain p true) rfl
      ha (by decide) hw ?_ ?_
    · cases p <;> rfl
    · exact State.retrain_without _ (by decide) _ _
  | clrcache =>
    cases h
    exact ctrl (c := [.xact]) (k := fun s => s.clearCaches) rfl ha (by decide) hw rfl (State.withXact_without _ (by decide) _)
  | flush =>
    cases h
    exact ctrl (c := [.xact]) (k := fun s => s.discardWaiting (s.get { QUEUE.QSEL with w := 6 })) rfl
      ha (by decide) hw rfl (State.discardWaiting_without _ (by decide) _)
  | fineen on =>
    cases h
    exact ctrl (c := [.cells, .aux]) (k := fun s => s.writeFineen on) rfl
      ha (by decide) hw (State.ctrlWrite_fineen _ on) (State.writeFineen_without _ (by decide) (by decide) _)
  | stopall =>
    cases h
    exact ctrl (c := [.bal]) (k := fun s => { s with bal := { s.bal with stopReq := true } }) rfl
      ha (by decide) hw rfl (State.withBal_without _ (by decide) _)
  | relearn =>
    cases h
    exact ctrl (c := [.bal]) (k := fun s => s.relearn) rfl ha (by decide) hw rfl (State.relearn_without _ (by decide))
  | balRetest =>
    cases h
    exact ctrl (c := [.bal]) (k := fun s => { s with bal := { s.bal with retestReq := true } }) rfl
      ha (by decide) hw rfl (State.withBal_without _ (by decide) _)
  | safeTrip key =>
    cases h
    exact ctrl (c := [.safe, .ban]) (k := fun s => s.safeTrip key) rfl
      ha (by decide) hw (State.safeCtrl_trip _ key) (State.safeTrip_without _ (by decide) (by decide) key)
  | safeRetest key =>
    cases h
    exact ctrl (c := [.safe]) (k := fun s => s.safeRetest key) rfl
      ha (by decide) hw (State.safeCtrl_retest _ key) (State.safeRetest_without _ (by decide) key)
  | clrall =>
    cases h
    exact ctrl (c := [.safe, .ban, .col]) (k := fun s => s.clrAll) rfl
      ha (by decide) hw rfl (State.stickyDrop_without _ (by decide) (by decide) _)
  | galClear key =>
    cases h
    exact ctrl (c := [.gal]) (k := fun s => s.galClear key) rfl
      ha (by decide) hw (State.ctrlWrite_galClear _ key) (State.galClear_without _ (by decide) key)
  | galXfer =>
    cases h
    exact ctrl (c := [.gal]) (k := fun s => s.xfer) rfl ha (by decide) hw rfl (State.xfer_without _ (by decide))
  | format key =>
    cases h
    exact ctrl (c := [.tm, .cal, .cfg, .fl, .vault]) (k := fun s => s.format key) rfl
      ha (by decide) hw (State.ctrlWrite_format _ key) (State.format_without _ key)
  | dump =>
    cases h
    exact ctrl (c := [.fl]) (k := fun s => s.dumpStart) rfl ha (by decide) hw rfl (State.dumpStart_without _ (by decide))
  | scrubnow =>
    cases h
    refine ctrl (c := [.fl]) (k := fun s => if s.flState = 1 then s.setFl { s.fl with scrubLeft := s.ringN } else s) rfl
      ha (by decide) hw rfl ?_
    simp only [State.ite_without, State.setFl_without _ (show Part.fl ∈ [Part.fl] by decide), ite_self]
  | search =>
    cases h
    exact ctrl (c := [.tip]) (k := fun s => s.tipSearchReq) rfl ha (by decide) hw rfl (State.tipSearchReq_without _ (by decide))
  | pollnow =>
    cases h
    exact ctrl (c := [.tip]) (k := fun s => s.tipPollNow) rfl ha (by decide) hw rfl (State.tipPollNow_without _ (by decide))
  | clearreg =>
    cases h
    exact ctrl (c := [.xact, .tip]) (k := fun s => s.tipClear) rfl
      ha (by decide) hw rfl (State.tipClear_without _ (by decide) (by decide))
  | tableCheck =>
    cases h
    exact ctrl (c := [.cfg]) (k := fun s => s.tblCheck) rfl ha (by decide) hw rfl (State.tblCheck_without _ (by decide))
  | tableDel =>
    cases h
    exact ctrl (c := [.cfg]) (k := fun s => s.tblDel) rfl ha (by decide) hw rfl (State.tblDel_without _ (by decide))
  | now =>
    cases h
    exact ctrl (c := [.diag]) (k := fun s => s.diagNow) rfl ha (by decide) hw rfl (State.diagNow_without _ (by decide))
  | stairidWrite v =>
    cases h
    exact body (c := []) (k := fun s => s.stairId v) rfl ha (by decide) (by decide) (by decide) hw rfl (State.stairId_without _ v)
  | planchk =>
    cases h
    exact body (c := [.xact]) (k := fun s => s.planChk) rfl
      ha (by decide) (by decide) (by decide) hw rfl (State.planChk_without _ (by decide))
  | urgreq v =>
    cases h
    exact body (c := [.bal, .aux, .diag]) (k := fun s => s.urgReq v) rfl
      ha (by decide) (by decide) (by decide) hw rfl (State.urgReq_without _ (by decide) (by decide) (by decide) v)
  | dutyWrite n v =>
    cases h
    exact body (c := [.held, .bal]) (k := fun s => s.dutySet (n.val + 1) v) rfl
      ha (by decide) (by have := n.isLt; omega) (by have := n.isLt; omega) hw (State.bodyWrite_duty _ n v)
      (State.dutySet_without _ (by decide) (by decide) _ v)
  | tcommit v =>
    cases h
    exact body (c := [.safe]) (k := fun s => s.tightCommit v) rfl
      ha (by decide) (by decide) (by decide) hw rfl (State.tightCommit_without _ (by decide) v)
  | kick =>
    cases h
    exact body (c := [.safe]) (k := fun s => s.kick) rfl
      ha (by decide) (by decide) (by decide) hw rfl (State.kick_without _ (by decide))
  | stickyClear w v =>
    cases h
    exact body (c := [.safe, .ban, .col]) (k := fun s => s.writeBegin.stickyClear w.val v) rfl
      ha (by decide) (by have := w.isLt; omega) (by have := w.isLt; omega) hw (State.bodyWrite_sticky _ w v)
      (State.stickyClear_without _ (by decide) (by decide) (by decide) _ v)
  | tselWrite v =>
    cases h
    exact body (c := [.cfg]) (k := fun s => s.tselWrite v) rfl
      ha (by decide) (by decide) (by decide) hw rfl (State.tselWrite_without _ (by decide) v)
  | lifeArm v =>
    cases h
    exact body (c := [.cfg]) (k := fun s => s.lifeArm v) rfl
      ha (by decide) (by decide) (by decide) hw rfl (State.lifeArm_without _ (by decide) v)
  | plandataAccess wr =>
    cases wr with
    | none => cases h
    | some v =>
      cases h
      exact body (c := [.xact]) (k := fun s => s.planWrite v) rfl
        ha (by decide) (by decide) (by decide) hw rfl (State.planWrite_without _ (by decide) v)
  | tdataAccess wr =>
    cases wr with
    | none => cases h
    | some v =>
      cases h
      exact body (c := [.cfg]) (k := fun s => s.tdata (some v)) rfl
        ha (by decide) (by decide) (by decide) hw rfl (State.tdata_without _ (by decide) _)
  | userTrimWrite v =>
    cases h
    have hopen : (s.writeBegin.guardArmed && s.writeBegin.cfgClass (linear 0x11 0x0C)) = false := State.not_locked hw
    refine body (c := [.staged, .cal]) (k := fun s => if s.guardArmed && s.cfgClass (linear 0x11 0x0C) then s.wlock else s.trimWrite v) rfl
      ha (by decide) (by decide) (by decide) hw ?_ ?_
    · simp only [hopen]
      rfl
    · simp only [hopen]
      exact State.trimWrite_without _ (by decide) (by decide) v
  | tofsWrite v =>
    cases h
    have hopen : (s.writeBegin.guardArmed && s.writeBegin.cfgClass (linear 0x14 0x0C)) = false := State.not_locked hw
    refine body (c := [.imp]) (k := fun s => if s.guardArmed && s.cfgClass (linear 0x14 0x0C) then s.wlock else s.tofsLoad v) rfl
      ha (by decide) (by decide) (by decide) hw ?_ ?_
    · simp only [hopen]
      rfl
    · simp only [hopen]
      exact State.tofsLoad_without _ (by decide) v
  | classWrite w v =>
    cases h
    have hopen : s.writeBegin.guardArmed = false := State.writable_class hw
    refine body (c := []) (k := fun s => if s.guardArmed then s.wlock else s.classStore w.val v) rfl
      ha (by decide) (by have := w.isLt; omega) (by have := w.isLt; omega) hw ?_ ?_
    · simp only [hopen]
      exact State.bodyWrite_class _ w v
    · simp only [hopen]
      exact State.classStore_without _ _ v
  | _ => cases h

end Sys2Proof.Machine
end

