-- ==== Sys2Proof/Proofs/Alike.lean ====
section
/-! SUPPORT. States that differ at most in how their register table is written, and the commands that keep them so. -/
namespace Sys2Proof.Machine

/-- The two states read the same in every register word and agree in everything else: their register tables may differ as lists. -/
structure Alike (s t : State) : Prop where
  reg : ∀ b, t.reg b = s.reg b
  rest : t = { s with regs := t.regs }

section
variable {s t : State} (h : Alike s t)
include h

theorem Alike.held : t.held = s.held := by rw [h.rest]
theorem Alike.condNow : t.condNow = s.condNow := by rw [h.rest]
theorem Alike.tm : t.tm = s.tm := by rw [h.rest]
theorem Alike.cells : t.cells = s.cells := by rw [h.rest]
theorem Alike.cal : t.cal = s.cal := by rw [h.rest]
theorem Alike.bal : t.bal = s.bal := by rw [h.rest]
theorem Alike.aux : t.aux = s.aux := by rw [h.rest]
theorem Alike.imp : t.imp = s.imp := by rw [h.rest]

/-! #### Reading -/

theorem Alike.get (f : Fld) : t.get f = s.get f := by simp only [State.get, h.reg]
theorem Alike.bit (f : Fld) : t.bit f = s.bit f := by simp only [State.bit, h.get]
theorem Alike.vbit (f : Fld) (i : Nat) : t.vbit f i = s.vbit f i := by simp only [State.vbit, h.bit]
theorem Alike.get2 (f : Fld) : t.get2 f = s.get2 f := by simp only [State.get2, h.get]
theorem Alike.used (f : Fld) : t.used f = s.used f := by simp only [State.used, State.useReg, h.held, h.reg]
theorem Alike.holds (i : Nat) : t.holds i = s.holds i := by simp only [State.holds, h.condNow]
theorem Alike.count : t.count = s.count := h.used _
theorem Alike.absClk (c : Nat) : t.absClk c = s.absClk c := by simp only [State.absClk, h.tm]
theorem Alike.newestClk : t.newestClk = s.newestClk := by simp only [State.newestClk, h.cells, h.absClk, h.bal]
theorem Alike.extFet : t.extFet = s.extFet := by simp only [State.extFet, State.usedB, h.used]
theorem Alike.rPath (n : Nat) : t.rPath n = s.rPath n := by simp only [State.rPath, State.ronOf, h.extFet, h.used, h.bal]
theorem Alike.vsOf (m : List SwitchMeas) (n : Nat) : t.vsOf m n = s.vsOf m n := by rw [h.rest]; rfl
theorem Alike.swI (m : List SwitchMeas) (k : List Nat) (n : Nat) : t.swI m k n = s.swI m k n := by
  simp only [State.swI, h.rPath, h.vsOf, h.used, h.extFet]
theorem Alike.laneEn (k : Nat) : t.laneEn k = s.laneEn k := h.bit _
theorem Alike.laneRuns (k : Nat) : t.laneRuns k = s.laneRuns k := by simp only [State.laneRuns, h.imp]
theorem Alike.isActive (k : Nat) : t.isActive k = s.isActive k := by simp only [State.isActive, h.bit, h.get]
theorem Alike.excRuns : t.excRuns = s.excRuns := by simp only [State.excRuns, h.isActive, h.laneRuns]
theorem Alike.mapCells : t.mapCells = s.mapCells := by simp only [State.mapCells, h.vbit, h.count]
theorem Alike.excCells : t.excCells = s.excCells := by
  simp only [State.excCells, h.imp, h.get, h.mapCells, h.vbit, h.count]
theorem Alike.excDriven : t.excDriven = s.excDriven := by
  simp only [State.excDriven, State.excOff, State.followsBal, h.excRuns, h.excCells, h.get, h.bit, h.bal]

/-! #### Writing -/

theorem Alike.setReg (a : Nat) (w : Word) : Alike (s.setReg a w) (t.setReg a w) where
  reg b := by simp only [State.reg_setReg, h.reg]
  rest := by rw [h.rest]; rfl
theorem Alike.set (f : Fld) (v : Nat) : Alike (s.set f v) (t.set f v) := by simpa only [State.set, h.reg] using h.setReg _ _
theorem Alike.setB (f : Fld) (b : Bool) : Alike (s.setB f b) (t.setB f b) := h.set f _
theorem Alike.evt (f : Fld) : Alike (s.evt f) (t.evt f) := h.set f 1
theorem Alike.inc (f : Fld) : Alike (s.inc f) (t.inc f) := by simpa only [State.inc, h.get] using h.set f _
theorem Alike.withCal (x : Cal) : Alike { s with cal := x } { t with cal := x } := ⟨h.reg, by rw [h.rest]⟩
theorem Alike.withBal (x : Bal) : Alike { s with bal := x } { t with bal := x } := ⟨h.reg, by rw [h.rest]⟩
theorem Alike.withCells (x : Cells) : Alike { s with cells := x } { t with cells := x } := ⟨h.reg, by rw [h.rest]⟩
theorem Alike.withAux (x : Aux) : Alike { s with aux := x } { t with aux := x } := ⟨h.reg, by rw [h.rest]⟩
theorem Alike.withImp (x : Imp) : Alike { s with imp := x } { t with imp := x } := ⟨h.reg, by rw [h.rest]⟩
theorem Alike.setLane (k : Nat) (x : ImpLane) : Alike (s.setLane k x) (t.setLane k x) := by
  simpa only [State.setLane, h.imp] using h.withImp _

theorem Alike.forEach {α : Type} {f : α → State → State} (step : ∀ a s t, Alike s t → Alike (f a s) (f a t)) (l : List α) :
    Alike (forEach l f s) (forEach l f t) := by
  induction l generalizing s t with
  | nil => exact h
  | cons a l ih => exact ih (step a s t h)

/-! #### Commands beside stored bits -/

theorem Alike.restartChain (ch n : Nat) (b : Bool) : Alike (s.restartChain ch n b) (t.restartChain ch n b) := by
  simpa only [State.restartChain, h.cells] using ((h.withCells _).evt _).set _ 0

theorem Alike.restartNow : Alike s.restartNow t.restartNow := by
  have hall : Alike (s.restartAll (max s.cells.boundAt (s.absClk 0) + 1)) (t.restartAll (max t.cells.boundAt (t.absClk 0) + 1)) := by
    simpa only [State.restartAll, h.cells, h.absClk] using h.forEach (fun ch s t hst => hst.restartChain ch _ false) _
  simpa only [State.restartNow, State.waitsStale, hall.aux] using hall.withAux _

theorem Alike.resolveSw (n : Nat) : Alike (s.resolveSw n) (t.resolveSw n) := by
  simpa only [State.resolveSw, h.bal] using h.forEach (fun m s t hst => by
    simpa only [hst.bal, hst.swI] using hst.withBal _) _

theorem Alike.cutSwitch (n m : Nat) : Alike (s.cutSwitch n m) (t.cutSwitch n m) := by
  simp only [State.cutSwitch, h.bal]
  split
  · exact h
  · exact (h.withBal _).resolveSw m

theorem Alike.excTrim (m : Nat) : Alike (s.excTrim m) (t.excTrim m) := by
  simpa only [State.excTrim, h.excRuns, h.excCells, h.bal] using h.forEach (fun n s t hst => hst.cutSwitch n m) _

theorem Alike.impStatus : Alike s.impStatus t.impStatus := by
  unfold State.impStatus
  generalize hs : Machine.forEach _ _ s = s', ht : Machine.forEach _ _ t = t'
  have hl : Alike s' t' := by
    rw [← hs, ← ht]
    exact h.forEach (fun k s t hst => by simpa only [hst.imp, hst.bit, hst.laneRuns, hst.isActive] using hst.set _ _) _
  have runs : t'.laneRuns = s'.laneRuns := funext hl.laneRuns
  simp only [runs, hl.excDriven, hl.holds, hl.mapCells, hl.imp]
  exact (((((hl.setB _ _).setB _ _).setB _ _).setB _ _).setB _ _).setB _ _

theorem Alike.impGo : Alike s.impGo t.impGo := by
  simp only [State.impGo, h.get2, h.tm, h.bit]
  split
  · exact h.evt _
  · refine Alike.impStatus (h.forEach (fun k s t hst => ?_) _)
    simp only [hst.laneEn, hst.laneRuns, hst.imp]
    split
    · exact hst.setLane _ _
    · exact hst

theorem Alike.impAbort (b : Bool) : Alike (s.impAbort b) (t.impAbort b) := by
  have runs : t.laneRuns = s.laneRuns := funext h.laneRuns
  unfold State.impAbort
  generalize hs : Machine.forEach _ _ s = s', ht : Machine.forEach _ _ t = t'
  have hl : Alike s' t' := by
    rw [← hs, ← ht]
    refine h.forEach (fun k s t hst => ?_) _
    simp only [hst.laneRuns, hst.imp]
    split
    · exact hst.setLane _ _
    · split
      · exact hst.setLane _ _
      · exact hst
  simp only [runs, hl.newestClk]
  refine Alike.impStatus (Alike.excTrim ?_ _)
  split
  · exact (hl.inc _).evt _
  · exact hl

theorem Alike.restartCmd : Alike s.restartCmd t.restartCmd := h.restartNow.impAbort false

theorem Alike.calRun : Alike s.calRun t.calRun := by
  simp only [State.calRun, h.cal]
  split
  · exact h.evt _
  · exact h.withCal _

theorem Alike.calAbort : Alike s.calAbort t.calAbort := by
  simp only [State.calAbort, h.cal]
  split
  · exact h.withCal _
  · exact h

theorem Alike.sysZero : Alike s.sysZero t.sysZero := by
  simp only [State.sysZero, h.cal]
  split
  · exact h.evt _
  · exact h.withCal _

end
end Sys2Proof.Machine
end

