-- ==== Sys2Proof/Proofs/ActionBits.lean ====
section
/-! SUPPORT. The write of an action bit beside stored bits is the command of that bit (R74, R102, R177, R208). -/
namespace Sys2Proof.Machine

/-- A word that is in no row of the guard's class and is no queue depth, user trim or TOFS (R438, R440). -/
theorem State.cfgClass_eq_false (s : State) {a : Nat} (hm : cfgMask a = 0) (hd : a ≠ linear 0x06 0x0D)
    (ht : ¬ (linear 0x11 0x09 ≤ a ∧ a ≤ linear 0x11 0x0C)) (ho : a ≠ linear 0x14 0x0C) : s.cfgClass a = false := by
  simp [State.cfgClass, hm, hd, ht, ho]

theorem Alike.without {s t : State} (h : Alike s t) (c : List Part) : t.without c = s.without c := by rw [h.rest]; rfl

theorem Alike.setReg_same (s : State) (a : Nat) : Alike s (s.setReg a (s.reg a)) where
  reg b := by
    by_cases hb : b = a
    · rw [hb, State.reg_setReg_self]
    · exact State.reg_setReg_ne s a b _ hb
  rest := rfl

/-- The stored bits of a word beside action bits that are not stored. -/
theorem storeBits_same {w m : Word} (h : w &&& m = 0) (x : Word) : (x &&& ~~~m) ||| ((w ||| (x &&& m)) &&& m) = x := by
  refine BitVec.eq_of_getLsbD_eq fun i hi => ?_
  have hw : (w &&& m).getLsbD i = false := by rw [h]; exact BitVec.getLsbD_zero
  rw [BitVec.getLsbD_and] at hw
  simp only [BitVec.getLsbD_or, BitVec.getLsbD_and, BitVec.getLsbD_not, hi, decide_true, Bool.true_and]
  revert hw
  cases x.getLsbD i <;> cases w.getLsbD i <;> cases m.getLsbD i <;> decide

theorem Alike.store_same (s : State) (a : Nat) {w m : Word} (h : w &&& m = 0) : Alike s (s.store a m (w ||| (s.reg a &&& m))) := by
  simpa only [State.store, storeBits_same h] using Alike.setReg_same s a

/-- An action bit beside stored bits is the action bit. -/
theorem actionBit_or {w x m : Word} {i : Nat} (h : m.getLsbD i = false) : (w ||| (x &&& m)).getLsbD i = w.getLsbD i := by
  rw [BitVec.getLsbD_or, BitVec.getLsbD_and, h, Bool.and_false, Bool.or_false]

/-- Writing FINEEN as it stands changes nothing. -/
theorem Alike.writeFineen_same (s : State) : Alike s (s.writeFineen ((s.reg (linear 0x07 1)).getLsbD 0)) := by
  have hx := (s.reg (linear 0x07 1)).isLt
  have hbit : s.bit CELLCFG.CTRL.FINEEN = (s.reg (linear 0x07 1)).getLsbD 0 := by
    simp [State.bit, State.get, Fld.addr, fieldOf, BitVec.getLsbD, Nat.testBit_zero, BEq.beq]
  have hset : s.setB CELLCFG.CTRL.FINEEN ((s.reg (linear 0x07 1)).getLsbD 0) = s.setReg (linear 0x07 1) (s.reg (linear 0x07 1)) := by
    refine congrArg (s.setReg (linear 0x07 1)) (BitVec.eq_of_toNat_eq ?_)
    simp [withField, fieldOf, Fld.addr, BitVec.getLsbD, Nat.testBit_zero]
    split <;> omega
  simpa only [State.writeFineen, hbit, Bool.and_not_self, Bool.false_eq_true, if_false, hset] using Alike.setReg_same s _

/-- The action bits of CAL.CTRL beside WORK (R177), one at a time. -/
theorem State.ctrlWrite_calBit (s : State) {w : Word} (h : w &&& 8#16 = 0) {b0 b1 b2 : Bool} (h0 : w.getLsbD 0 = b0) (h1 : w.getLsbD 1 = b1)
    (h2 : w.getLsbD 2 = b2) : ∃ t, Alike s t ∧
      s.ctrlWrite 0x10 (w ||| (s.reg (linear 0x10 1) &&& 8#16)) =
      (let t := if b0 then t.calRun else t
       let t := if b1 then t.calAbort else t
       if b2 then t.sysZero else t) := by
  refine ⟨_, Alike.store_same s (linear 0x10 1) h, ?_⟩
  simp only [State.ctrlWrite, actionBit_or (show BitVec.getLsbD 8#16 0 = false from rfl),
    actionBit_or (show BitVec.getLsbD 8#16 1 = false from rfl),
    actionBit_or (show BitVec.getLsbD 8#16 2 = false from rfl), h0, h1, h2]

/-- The action bits of IMP.CTRL beside STARTAT (R208), one at a time. -/
theorem State.ctrlWrite_impBit (s : State) {w : Word} (h : w &&& 4#16 = 0) {b0 b1 : Bool} (h0 : w.getLsbD 0 = b0) (h1 : w.getLsbD 1 = b1) :
    ∃ t, Alike s t ∧ s.ctrlWrite 0x13 (w ||| (s.reg (linear 0x13 1) &&& 4#16)) =
      (let t := if b0 then t.impGo else t
       if b1 then t.impAbort true else t) := by
  refine ⟨_, Alike.store_same s (linear 0x13 1) h, ?_⟩
  simp only [State.ctrlWrite, actionBit_or (show BitVec.getLsbD 4#16 0 = false from rfl),
    actionBit_or (show BitVec.getLsbD 4#16 1 = false from rfl),
    h0, h1]

/-- RESTART beside FINEEN as it stands (R102). -/
theorem State.ctrlWrite_restart (s : State) : ∃ t, Alike s t ∧ s.ctrlWrite 0x07 (2 ||| (s.reg (linear 0x07 1) &&& 1)) = t.restartCmd := by
  refine ⟨_, Alike.writeFineen_same s, ?_⟩
  have h0 : BitVec.getLsbD (2 ||| (s.reg (linear 0x07 1) &&& 1)) 0 = (s.reg (linear 0x07 1)).getLsbD 0 := by
    rw [BitVec.getLsbD_or, BitVec.getLsbD_and, show (1 : Word).getLsbD 0 = true from rfl, show (2 : Word).getLsbD 0 = false from rfl,
      Bool.and_true, Bool.false_or]
  have h1 : BitVec.getLsbD (2 ||| (s.reg (linear 0x07 1) &&& 1)) 1 = true :=
    actionBit_or (show (1 : Word).getLsbD 1 = false from rfl)
  simp only [State.ctrlWrite, h0, h1, if_true]

section
variable {s : State} (hact : s.pw.phase = .active) (hstay : s.pw.leave = none)
include hact hstay

/-- A CTRL word written with an action bit and its stored bits as they stand is the command `k` of that bit. -/
theorem bits_are_command {i : Instr} {c : List Part} {k : State → State} {a : Fin 2048} {p : Nat} {v : Word}
    (hx : exec i s.writeBegin = whenActive c s.writeBegin k) (ha : a.val = linear p 1) (hp : p < 32) (hw : s.cfgClass (linear p 1) = false)
    (hk : Alike (k s.writeBegin) (s.writeBegin.ctrlWrite p v)) (hc : (k s.writeBegin).without c = s.writeBegin.without c) :
    ∃ t u, exec (.registerWrite a v) s = .next t ∧ exec i s.writeBegin = .next u ∧ (∀ b, t.reg b = u.reg b) ∧ t.cal = u.cal ∧
      t.imp = u.imp ∧ t.cells = u.cells ∧ t.bal = u.bal := by
  refine ⟨s.writeBegin.ctrlWrite p v, k s.writeBegin, ?_, ?_, hk.reg, hk.cal, hk.imp, hk.cells, hk.bal⟩
  · rw [exec_registerWrite hact, ha, State.writeWord_ctrl (s := s.writeBegin) hp (Or.inr hw)]
    exact congrArg Host.Outcome.next (State.settle_of_without (s := s.writeBegin) hstay ((hk.without c).trans hc))
  · rw [hx, whenActive_active c s.writeBegin k hact, State.only_of_without hc]

/-- A write of an action bit beside the bits that its word stores is the command of that bit (R74, R102, R177, R208). -/
theorem write_actionBit {i : Instr} {a : Fin 2048} {n : Nat} {w m : Word} (h : actionBit i = some (n, w, m)) (ha : a.val = n) :
    ∃ t u, exec (.registerWrite a (w ||| (s.reg n &&& m))) s = .next t ∧ exec i s.writeBegin = .next u ∧ (∀ b, t.reg b = u.reg b) ∧
      t.cal = u.cal ∧ t.imp = u.imp ∧ t.cells = u.cells ∧ t.bal = u.bal := by
  have free {p : Nat} (hm : cfgMask (linear p 1) = 0) : s.cfgClass (linear p 1) = false :=
    s.cfgClass_eq_false hm (by unfold linear; omega) (by unfold linear; omega) (by unfold linear; omega)
  have bits {c k p v} := @bits_are_command s hact hstay i c k a p v
  cases i with
  | restart =>
    cases h
    refine bits (c := [.cells, .bal, .aux, .imp]) (k := State.restartCmd) rfl ha (by decide) (free (by decide)) ?_
      (State.restartCmd_without _ (by decide) (by decide) (by decide) (by decide))
    obtain ⟨t, ht, he⟩ := s.writeBegin.ctrlWrite_restart
    have h := ht.restartCmd
    rw [← he] at h
    exact h
  | run =>
    cases h
    refine bits (c := [.cal]) (k := State.calRun) rfl ha (by decide) (free (by decide)) ?_ (State.calRun_without _ (by decide))
    obtain ⟨t, ht, he⟩ := s.writeBegin.ctrlWrite_calBit (w := 1) (by decide) rfl rfl rfl
    exact he ▸ ht.calRun
  | calAbort =>
    cases h
    refine bits (c := [.cal]) (k := State.calAbort) rfl ha (by decide) (free (by decide)) ?_ (State.calAbort_without _ (by decide))
    obtain ⟨t, ht, he⟩ := s.writeBegin.ctrlWrite_calBit (w := 2) (by decide) rfl rfl rfl
    exact he ▸ ht.calAbort
  | syszero =>
    cases h
    refine bits (c := [.cal]) (k := State.sysZero) rfl ha (by decide) (free (by decide)) ?_ (State.sysZero_without _ (by decide))
    obtain ⟨t, ht, he⟩ := s.writeBegin.ctrlWrite_calBit (w := 4) (by decide) rfl rfl rfl
    exact he ▸ ht.sysZero
  | go =>
    cases h
    refine bits (c := [.imp]) (k := State.impGo) rfl ha (by decide) (free (by decide)) ?_ (State.impGo_without _ (by decide))
    obtain ⟨t, ht, he⟩ := s.writeBegin.ctrlWrite_impBit (w := 1) (by decide) rfl rfl
    exact he ▸ ht.impGo
  | stop =>
    cases h
    refine bits (c := [.bal, .imp]) (k := fun s => s.impAbort true) rfl ha (by decide) (free (by decide)) ?_
      (State.impAbort_without _ (by decide) (by decide) true)
    obtain ⟨t, ht, he⟩ := s.writeBegin.ctrlWrite_impBit (w := 2) (by decide) rfl rfl
    exact he ▸ ht.impAbort true
  | _ => cases h

end
end Sys2Proof.Machine
end

