-- ==== Sys2Proof/Proofs/WriteOnlyWords.lean ====
section
/-! SUPPORT. The words of WO fields alone: no command of such a word writes one. -/
namespace Sys2Proof.Machine

/-- The addresses of `writeOnly`. -/
def woAddrs : List Nat := writeOnly.map (fun e => linear e.1 e.2)

/-- The stored words of `writeOnly`. -/
def State.woWords (s : State) : List Word := woAddrs.map s.reg

theorem State.reg_of_woWords {s t : State} (h : t.woWords = s.woWords) {a : Nat} (ha : a ∈ woAddrs) : t.reg a = s.reg a :=
  List.map_inj_left.mp h a ha

section
variable (s : State)

theorem State.setReg_woWords {a : Nat} (ha : a ∉ woAddrs) (w : Word) : (s.setReg a w).woWords = s.woWords :=
  List.map_inj_left.mpr fun b hb => s.reg_setReg_ne a b w fun h => ha (h ▸ hb)
theorem State.set_woWords {f : Fld} (hf : f.addr ∉ woAddrs) (v : Nat) : (s.set f v).woWords = s.woWords := s.setReg_woWords hf _
theorem State.setB_woWords {f : Fld} (hf : f.addr ∉ woAddrs) (b : Bool) : (s.setB f b).woWords = s.woWords := s.set_woWords hf _
theorem State.evt_woWords {f : Fld} (hf : f.addr ∉ woAddrs) : (s.evt f).woWords = s.woWords := s.set_woWords hf 1
theorem State.inc_woWords {f : Fld} (hf : f.addr ∉ woAddrs) : (s.inc f).woWords = s.woWords := s.set_woWords hf _
theorem State.set2_woWords {f : Fld} (hf : f.addr ∉ woAddrs) (hg : (f.plus 1).addr ∉ woAddrs) (v : Nat) :
    (s.set2 f v).woWords = s.woWords := by
  rw [State.set2, State.set_woWords _ hg, State.set_woWords _ hf]
theorem State.set3_woWords {f : Fld} (hf : f.addr ∉ woAddrs) (hg : (f.plus 1).addr ∉ woAddrs) (hh : (f.plus 2).addr ∉ woAddrs) (v : Nat) :
    (s.set3 f v).woWords = s.woWords := by
  rw [State.set3, State.set_woWords _ hh, State.set2_woWords _ hf hg]
theorem State.setV_woWords {f : Fld} {i : Nat} (hf : linear f.page (f.word + i / 16) ∉ woAddrs) (b : Bool) :
    (s.setV f i b).woWords = s.woWords :=
  State.setB_woWords s (f := { f with word := f.word + i / 16, lo := i % 16, w := 1 }) hf b
theorem State.cond_woWords (i : Nat) (b : Bool) : (s.cond i b).woWords = s.woWords := by cases b <;> rfl
theorem State.occur_woWords (i : Nat) : (s.occur i).woWords = s.woWords := (rfl)
theorem State.ite_woWords (p : Prop) [Decidable p] (t : State) :
    (if p then s else t).woWords = if p then s.woWords else t.woWords := apply_ite State.woWords p s t
theorem State.forEach_woWords {α : Type} (f : α → State → State) (l : List α) (h : ∀ a ∈ l, ∀ s, (f a s).woWords = s.woWords) :
    (forEach l f s).woWords = s.woWords := forEach_keeps State.woWords f l h s
theorem State.clearV_woWords {f : Fld} {n : Nat}
    (hf : ∀ i ∈ List.range n, linear f.page (f.word + i / 16) ∉ woAddrs) :
    (s.clearV f n).woWords = s.woWords := s.forEach_woWords _ _ fun i hi t => t.setV_woWords (hf i hi) false

theorem State.withBal_woWords (x : Bal) : ({ s with bal := x }).woWords = s.woWords := (rfl)
theorem State.withXact_woWords (x : Xact) : ({ s with xact := x }).woWords = s.woWords := (rfl)
theorem State.withSafe_woWords (x : Safe) : ({ s with safe := x }).woWords = s.woWords := (rfl)
theorem State.withBan_woWords (x : Ban) : ({ s with ban := x }).woWords = s.woWords := (rfl)
theorem State.withCfg_woWords (x : Cfg) : ({ s with cfg := x }).woWords = s.woWords := (rfl)
theorem State.withDiag_woWords (x : Diag) : ({ s with diag := x }).woWords = s.woWords := (rfl)
theorem State.setQueue_woWords (q : Nat) (x : Queue) : (s.setQueue q x).woWords = s.woWords := (rfl)
theorem State.setGal_woWords (g : Gal) : (s.setGal g).woWords = s.woWords := (rfl)
theorem State.setTip_woWords (t : Tip) : (s.setTip t).woWords = s.woWords := (rfl)
theorem State.discardWaiting_woWords (q : Nat) : (s.discardWaiting q).woWords = s.woWords := (rfl)

/-! ### Balancing, gallery, tables, diagnosis, life -/

theorem State.relearn_woWords : s.relearn.woWords = s.woWords := by
  simp (disch := decide) only [State.relearn, State.balStatus, State.setB_woWords, State.cond_woWords, State.withBal_woWords]

theorem State.galClear_woWords (key : Byte) : (s.galClear key).woWords = s.woWords := by
  simp (disch := decide) only [State.galClear, State.ite_woWords, State.setGal_woWords, State.evt_woWords, ite_self]

theorem State.xfer_woWords : s.xfer.woWords = s.woWords := by
  simp (disch := decide) only [State.xfer, State.ite_woWords, State.setGal_woWords, State.setB_woWords, State.evt_woWords, State.inc_woWords,
    ite_self]

theorem State.tblStatus_woWords : s.tblStatus.woWords = s.woWords := by
  simp (disch := decide) only [State.tblStatus, State.setB_woWords]

theorem State.tblCheck_woWords : s.tblCheck.woWords = s.woWords := by
  simp (disch := decide) only [State.tblCheck, State.ite_woWords, State.tblStatus_woWords, State.evt_woWords, State.withCfg_woWords, ite_self]

theorem State.tblDel_woWords : s.tblDel.woWords = s.woWords := by
  simp only [State.tblDel, State.tblStatus_woWords, State.withCfg_woWords]

theorem State.diagNow_woWords : s.diagNow.woWords = s.woWords := by
  simp only [State.diagNow, State.ite_woWords, State.withDiag_woWords, ite_self]

theorem State.lifeArm_woWords (v : Word) : (s.lifeArm v).woWords = s.woWords := by
  simp (disch := decide) only [State.lifeArm, State.ite_woWords, State.evt_woWords, State.setB_woWords, State.set_woWords,
    State.withCfg_woWords, ite_self]

/-! ### Queues and Tipol -/

theorem State.noteDrop_woWords {q : Nat} (hq : q < 64) : (s.noteDrop q).woWords = s.woWords := by
  have hm : linear QUEUE.DROPMAP0.page (QUEUE.DROPMAP0.word + q / 16) ∉ woAddrs := by
    have near : ∀ k < 4, linear QUEUE.DROPMAP0.page (QUEUE.DROPMAP0.word + k) ∉ woAddrs := by decide
    exact near _ (by omega)
  simp (disch := decide) only [State.noteDrop, State.occur_woWords, State.evt_woWords, State.setV_woWords _ hm, State.withXact_woWords]

theorem State.dropOne_woWords {q : Nat} (hq : q < 64) : (s.dropOne q).woWords = s.woWords := by
  simp only [State.dropOne, State.ite_woWords, State.noteDrop_woWords _ hq, State.setQueue_woWords, ite_self]

theorem State.makeRoom_woWords {q : Nat} (hq : q < 64) (fuel n : Nat) : (State.makeRoom fuel s q n).woWords = s.woWords := by
  induction fuel generalizing s with
  | zero => rfl
  | succ fuel ih => rw [State.makeRoom, State.ite_woWords, ih, State.dropOne_woWords _ hq, ite_self]

theorem State.post_woWords {q : Nat} (hq : q < 64) (l : List Byte) : (s.post q l).woWords = s.woWords := by
  simp only [State.post, State.dropNew, State.append, State.ite_woWords, State.noteDrop_woWords _ hq, State.setQueue_woWords,
    State.makeRoom_woWords _ hq, State.dropOne_woWords _ (show 1 < 64 by decide),
    State.dropOne_woWords _ (show 2 < 64 by decide), ite_self]

theorem State.tipStatus_woWords : s.tipStatus.woWords = s.woWords := by
  simp (disch := decide) only [State.tipStatus, State.cond_woWords, State.setB_woWords, State.set_woWords]
  refine s.forEach_woWords _ _ fun e he t => t.setV_woWords ?_ _
  revert e
  decide

theorem State.tipOp_woWords (o : TipOp) : (s.tipOp o).woWords = s.woWords := by
  simp only [State.tipOp, State.tipStatus_woWords, State.setTip_woWords]

theorem State.tipNext_woWords : s.tipNext.woWords = s.woWords := by
  simp only [State.tipNext, State.tipSearch, State.tipPoll, State.ite_woWords, State.tipOp_woWords, State.setTip_woWords, ite_self]

theorem State.tipSearchReq_woWords : s.tipSearchReq.woWords = s.woWords := by
  simp only [State.tipSearchReq, State.tipNext_woWords, State.setTip_woWords]

theorem State.tipPollNow_woWords : s.tipPollNow.woWords = s.woWords := by
  simp only [State.tipPollNow, State.ite_woWords, State.tipNext_woWords, State.setTip_woWords, ite_self]

theorem State.tipClear_woWords : s.tipClear.woWords = s.woWords := by
  simp (disch := decide) only [State.tipClear, State.tipClose, State.ite_woWords, State.tipNext_woWords, State.tipOp_woWords,
    State.post_woWords, State.setTip_woWords, State.evt_woWords, State.inc_woWords, ite_self]

/-! ### Safety and fault collector -/

theorem State.causes_woWords : s.causes.woWords = s.woWords := by
  simp (disch := decide) only [State.causes, State.withSafe_woWords, State.ite_woWords, State.setB_woWords, State.set_woWords, ite_self]

theorem State.nextSw_woWords : s.nextSw.woWords = s.woWords := by
  simp (disch := decide) only [State.nextSw, State.ite_woWords, State.setB_woWords, ite_self]

theorem State.testDemand_woWords : s.testDemand.woWords = s.woWords := by
  cases ht : s.ban.test <;>
    simp (disch := decide) only [State.testDemand, ht, State.testDiscard, State.nextSw_woWords, State.evt_woWords, State.inc_woWords,
      State.set_woWords, State.withBan_woWords]

theorem State.hbGate_woWords : s.hbGate.woWords = s.woWords := by
  simp (disch := decide) only [State.hbGate, State.setB_woWords, State.withBan_woWords]

theorem State.permitUpdate_woWords (t : Nat) : (s.permitUpdate t).woWords = s.woWords := by
  simp (disch := decide) only [State.permitUpdate, State.closeAll, State.openAll, State.ite_woWords, State.withBan_woWords,
    State.setB_woWords, State.testDemand_woWords, State.hbGate_woWords, ite_self]

theorem State.lockCause_woWords (b i t : Nat) (ev : Bool) : (s.lockCause b i t ev).woWords = s.woWords := by
  have hb : ({ SAFE.LOCKCAUSE.word with lo := b, w := 1 } : Fld).addr ∉ woAddrs := show SAFE.LOCKCAUSE.word.addr ∉ woAddrs by decide
  simp (disch := decide) only [State.lockCause, State.permitUpdate_woWords, State.causes_woWords, State.ite_woWords, State.set_woWords _ hb,
    State.set_woWords, State.set2_woWords, State.set3_woWords, State.setB_woWords, State.inc_woWords, State.evt_woWords,
    State.clearV_woWords, State.cond_woWords, State.withSafe_woWords, ite_self]

theorem State.errStatus_woWords : s.errStatus.woWords = s.woWords := by
  simp (disch := decide) only [State.errStatus, State.setB_woWords]

theorem State.classCause_woWords (t : Nat) : (s.classCause t).woWords = s.woWords := by
  simp (disch := decide) only [State.classCause, State.ite_woWords, State.lockCause_woWords, State.causes_woWords, State.setB_woWords,
    State.withSafe_woWords, ite_self]

theorem State.clrAll_woWords : s.clrAll.woWords = s.woWords := by
  simp (disch := decide) only [State.clrAll, State.stickyDrop, State.classCause_woWords, State.errStatus_woWords, State.setVec,
    State.set2_woWords]

theorem State.sfGone_woWords : s.sfGone.woWords = s.woWords := by
  simp only [State.sfGone, State.causes_woWords, State.ite_woWords, State.cond_woWords, ite_self]

theorem State.kick_woWords : s.kick.woWords = s.woWords := by
  simp only [State.kick, State.sfGone_woWords, State.withSafe_woWords]

theorem State.copyCands_woWords : s.copyCands.woWords = s.woWords := by
  refine s.forEach_woWords _ _ fun p hp t => t.setReg_woWords ?_ _
  have near : ∀ k < 10, (SAFE.NEWOVLIM.plus k).addr ∉ woAddrs := by decide
  exact near p.2 (by simpa [State.limWords] using List.snd_lt_of_mem_zipIdx hp)

theorem State.tightCommit_woWords (v : Word) : (s.tightCommit v).woWords = s.woWords := by
  simp (disch := decide) only [State.tightCommit, State.ite_woWords, State.evt_woWords, State.withSafe_woWords, State.copyCands_woWords,
    State.set_woWords, ite_self]

end
end Sys2Proof.Machine
end

