-- ==== Sys2Proof/Proofs/WriteOnly.lean ====
section
/-! SUPPORT. WO fields read 0 (R9). -/
namespace Sys2Proof.Machine

/-! ### The write of one word that stays within the device's parts -/

/-- A write that leaves all but the parts `c` alone ends where its meaning does. -/
theorem exec_write_of_without {s : State} {c : List Part} (hact : s.pw.phase = .active) (hstay : s.pw.leave = none) (a : Fin 2048) (v : Word)
    (h : (s.writeBegin.writeWord a.val v).without c = s.writeBegin.without c) :
    exec (.registerWrite a v) s = .next (s.writeBegin.writeWord a.val v) :=
  (exec_registerWrite hact a v).trans (congrArg Host.Outcome.next (State.settle_of_without (s := s.writeBegin) hstay h))

/-- A word that is neither staged nor formed reads as stored. -/
theorem State.readWord_stored {s : State} {a : Nat} (hs : look s.staged a = none) (hf : s.formedWord (a / 64) (a % 64) = none) :
    s.readWord a = s.reg a := by
  simp only [State.readWord, hs, hf]

theorem State.readWord_staged {s : State} {a : Nat} {v : Word} (hs : look s.staged a = some v) : s.readWord a = v := by
  simp only [State.readWord, hs]

theorem State.readWord_formed {s : State} {a n : Nat} (hs : look s.staged a = none) (hf : s.formedWord (a / 64) (a % 64) = some n) :
    s.readWord a = BitVec.ofNat 16 n := by
  simp only [State.readWord, hs, hf]

/-! ### Words of WO fields alone -/

/-- The parts that the action words of `writeOnly` act on. -/
def woParts : List Part := [.bal, .xact, .diag, .safe, .ban, .col, .gal, .cfg, .tip]

/-- The pages whose CTRL word is in `writeOnly`. -/
def woPages : List Nat := [0x05, 0x06, 0x12, 0x17, 0x18, 0x1A, 0x1C, 0x1D]

theorem woPages_lt : ∀ p ∈ woPages, p < 32 ∧ p ≠ 0x1E := by decide

theorem State.formedWord_woPages (s : State) : ∀ p ∈ woPages, s.formedWord p 1 = none := by
  simp only [woPages, List.forall_mem_cons]
  exact ⟨rfl, rfl, rfl, rfl, rfl, rfl, rfl, rfl, by simp⟩

/-- The CTRL words of `writeOnly`. -/
theorem State.ctrlWrite_writeOnly (s : State) {p : Nat} (h : p ∈ woPages) (v : Word) :
    (s.ctrlWrite p v).woWords = s.woWords ∧ (s.ctrlWrite p v).without woParts = s.without woParts := by
  have hb : Part.bal ∈ woParts := by decide
  have hx : Part.xact ∈ woParts := by decide
  have hd : Part.diag ∈ woParts := by decide
  have hs : Part.safe ∈ woParts := by decide
  have hn : Part.ban ∈ woParts := by decide
  have hg : Part.gal ∈ woParts := by decide
  have hc : Part.cfg ∈ woParts := by decide
  have ht : Part.tip ∈ woParts := by decide
  simp only [woPages, List.mem_cons, List.not_mem_nil, or_false] at h
  rcases h with rfl | rfl | rfl | rfl | rfl | rfl | rfl | rfl
  · constructor
    · simp only [State.ctrlWrite, State.clearCaches, State.ite_woWords, State.withXact_woWords, ite_self]
    · simp only [State.ctrlWrite, State.clearCaches, State.ite_without, State.withXact_without _ hx, ite_self]
  · constructor
    · simp only [State.ctrlWrite, State.ite_woWords, State.discardWaiting_woWords, ite_self]
    · simp only [State.ctrlWrite, State.ite_without, State.discardWaiting_without _ hx, ite_self]
  · constructor
    · simp only [State.ctrlWrite, State.ite_woWords, State.withBal_woWords, State.relearn_woWords, ite_self]
    · simp only [State.ctrlWrite, State.ite_without, State.withBal_without _ hb, State.relearn_without _ hb, ite_self]
  · constructor
    · simp only [State.ctrlWrite, State.ite_woWords, State.clrAll_woWords, ite_self]
    · simp only [State.ctrlWrite, State.clrAll, State.ite_without, State.stickyDrop_without _ hs hn, ite_self]
  · constructor
    · simp only [State.ctrlWrite, State.ite_woWords, State.galClear_woWords, State.xfer_woWords, ite_self]
    · simp only [State.ctrlWrite, State.ite_without, State.galClear_without _ hg, State.xfer_without _ hg, ite_self]
  · constructor
    · simp only [State.ctrlWrite, State.ite_woWords, State.tipSearchReq_woWords, State.tipPollNow_woWords, State.tipClear_woWords, ite_self]
    · simp only [State.ctrlWrite, State.ite_without, State.tipSearchReq_without _ ht, State.tipPollNow_without _ ht,
        State.tipClear_without _ ht hx, ite_self]
  · constructor
    · simp only [State.ctrlWrite, State.ite_woWords, State.tblCheck_woWords, State.tblDel_woWords, ite_self]
    · simp only [State.ctrlWrite, State.ite_without, State.tblCheck_without _ hc, State.tblDel_without _ hc, ite_self]
  · constructor
    · simp only [State.ctrlWrite, State.ite_woWords, State.diagNow_woWords, ite_self]
    · simp only [State.ctrlWrite, State.ite_without, State.diagNow_without _ hd, ite_self]

theorem writeOnly_cases {p w : Nat} (h : (p, w) ∈ writeOnly) : (w = 1 ∧ p ∈ woPages) ∨ (p = 0x15 ∧ (w = 0x24 ∨ w = 0x26)) ∨
    (p = 0x1E ∧ (w = 0x0A ∨ w = 0x0B ∨ w = 0x0C)) ∨ (p = 0x1E ∧ w = 0x0D) := by
  have all : ∀ e ∈ writeOnly, (e.2 = 1 ∧ e.1 ∈ woPages) ∨ (e.1 = 0x15 ∧ (e.2 = 0x24 ∨ e.2 = 0x26)) ∨
      (e.1 = 0x1E ∧ (e.2 = 0x0A ∨ e.2 = 0x0B ∨ e.2 = 0x0C)) ∨ (e.1 = 0x1E ∧ e.2 = 0x0D) := by decide
  exact all (p, w) h

/-- No word of `writeOnly` is of the guard's class. -/
theorem State.writable_writeOnly (s : State) {p w : Nat} (h : (p, w) ∈ writeOnly) : s.writable (linear p w) := by
  have hall : ∀ e ∈ writeOnly, cfgMask (linear e.1 e.2) = 0 ∧ linear e.1 e.2 ≠ linear 0x06 0x0D ∧
      ¬ (linear 0x11 0x09 ≤ linear e.1 e.2 ∧ linear e.1 e.2 ≤ linear 0x11 0x0C) ∧ linear e.1 e.2 ≠ linear 0x14 0x0C := by decide
  obtain ⟨hm, hd, ht, ho⟩ := hall (p, w) h
  exact Or.inr (s.cfgClass_eq_false (a := linear p w) hm hd ht ho)

section
variable {s : State} (hact : s.pw.phase = .active) (hstay : s.pw.leave = none)
include hact hstay

/-- An action word that reads 0 still reads 0 after a write that acts elsewhere. -/
theorem quiet_write_reads_zero {a : Fin 2048} {v : Word} (ha : a.val ∈ woAddrs)
    (hq : (s.writeBegin.writeWord a.val v).woWords = s.writeBegin.woWords)
    (hc : (s.writeBegin.writeWord a.val v).without woParts = s.writeBegin.without woParts)
    (hf : (s.writeBegin.writeWord a.val v).formedWord (a.val / 64) (a.val % 64) = none) (hs : look s.staged a.val = none)
    (hr : s.reg a.val = 0) : ∃ t, exec (.registerWrite a v) s = .next t ∧ t.readWord a.val = 0 := by
  refine ⟨_, exec_write_of_without hact hstay a v hc, ?_⟩
  have hst : (s.writeBegin.writeWord a.val v).staged = s.staged := State.staged_of_without (s := s.writeBegin) (by decide) hc
  rw [State.readWord_stored (by rw [hst]; exact hs) hf, State.reg_of_woWords hq ha]
  exact hr

/-- WO fields read 0 (R9). -/
theorem write_writeOnly {a : Fin 2048} {p w : Nat} (v : Word) (h : (p, w) ∈ writeOnly) (ha : a.val = linear p w)
    (hs : look s.staged a.val = none) (hr : s.reg a.val = 0 ∨ (p = 0x1E ∧ w ≤ 0x0C)) :
    ∃ t, exec (.registerWrite a v) s = .next t ∧ t.readWord a.val = 0 := by
  have hmem : a.val ∈ woAddrs := by
    rw [ha]
    exact List.mem_map.mpr ⟨(p, w), h, rfl⟩
  have hw : s.writable (linear p w) := s.writable_writeOnly h
  rcases writeOnly_cases h with ⟨rfl, hp⟩ | ⟨rfl, hw'⟩ | ⟨rfl, hw'⟩ | ⟨rfl, rfl⟩
  · obtain ⟨hp32, hlife⟩ := woPages_lt p hp
    obtain ⟨hq, hc⟩ := s.writeBegin.ctrlWrite_writeOnly hp v
    rw [← State.writeWord_ctrl (s := s.writeBegin) hp32 hw, ← ha] at hq hc
    refine quiet_write_reads_zero hact hstay hmem hq hc ?_ hs (hr.resolve_right fun h => hlife h.1)
    rw [ha, linear_div _ (by decide), linear_mod _ (by decide)]
    exact State.formedWord_woPages _ p hp
  · have he : s.writeBegin.writeWord a.val v = s.writeBegin.bodyWrite 0x15 w v := by
      rw [ha, State.writeWord_body (s := s.writeBegin) (by decide) (by omega) (by omega) hw]
    have hf (t : State) : t.formedWord (a.val / 64) (a.val % 64) = none := by
      rw [ha, linear_div _ (by omega), linear_mod _ (by omega)]
      rfl
    refine quiet_write_reads_zero hact hstay hmem ?_ ?_ (hf _) hs (hr.resolve_right fun h => absurd h.1 (by decide))
    · rw [he]
      rcases hw' with rfl | rfl
      · exact State.tightCommit_woWords _ v
      · exact State.kick_woWords _
    · rw [he]
      rcases hw' with rfl | rfl
      · exact State.tightCommit_without _ (by decide) v
      · exact State.kick_without _ (by decide)
  · have he : s.writeBegin.writeWord a.val v = s.writeBegin.setReg a.val v := by
      rw [ha, State.writeWord_body (s := s.writeBegin) (by decide) (by omega) (by omega) hw]
      rcases hw' with rfl | rfl | rfl <;> rfl
    refine ⟨_, exec_write_of_without (c := []) hact hstay a v (by rw [he, State.setReg_without]), ?_⟩
    rw [he]
    refine (State.readWord_formed (s := s.writeBegin.setReg a.val v) (n := 0) hs ?_).trans rfl
    · rw [ha, linear_div _ (by omega), linear_mod _ (by omega)]
      rcases hw' with rfl | rfl | rfl <;> rfl
  · have he : s.writeBegin.writeWord a.val v = s.writeBegin.lifeArm v := by
      rw [ha, State.writeWord_body (s := s.writeBegin) (by decide) (by decide) (by decide) hw]
      rfl
    refine quiet_write_reads_zero hact hstay hmem (by rw [he, State.lifeArm_woWords]) (by rw [he, State.lifeArm_without _ (by decide)])
      ?_ hs (hr.resolve_right fun h => absurd h.2 (by decide))
    rw [ha, linear_div _ (by decide), linear_mod _ (by decide)]
    rfl

end
end Sys2Proof.Machine
end

