-- ==== Sys2Proof/Proofs/StoredWords.lean ====
section
/-! SUPPORT. Header words, and words that store their bits or refuse the value (R459 to R461). -/
namespace Sys2Proof.Machine

/-! ### Header words (R459, R460) -/

/-- No header word but CTRL is of the guard's class. -/
theorem cfgMask_header {a : Nat} (ha : a < 2048) (h8 : a % 64 < 8) (h1 : a % 64 ≠ 1) : cfgMask a = 0 := by
  have all : ∀ p : Fin 32, ∀ w : Fin 8, w.val ≠ 1 → cfgMask (linear p.val w.val) = 0 := by decide
  have he : linear (a / 64) (a % 64) = a := by unfold linear; omega
  exact he ▸ all ⟨a / 64, by omega⟩ ⟨a % 64, h8⟩ h1

theorem State.writable_header (s : State) {a : Nat} (ha : a < 2048) (h8 : a % 64 < 8) (h1 : a % 64 ≠ 1) : s.writable a :=
  Or.inr (s.cfgClass_eq_false (cfgMask_header ha h8 h1) (by unfold linear; omega) (by unfold linear; omega) (by unfold linear; omega))

theorem State.writeWord_header {s : State} {a : Nat} (ha : a < 2048) (h8 : a % 64 < 8) (h1 : a % 64 ≠ 1) (v : Word) :
    s.writeWord a v = if a % 64 = 3 then s.setReg a (s.reg a &&& ~~~v) else if a % 64 = 4 then s.store a (evtMask (a / 64)) v else s := by
  simp [State.writeWord, State.not_locked (s.writable_header ha h8 h1), h8, h1, show ¬ 2048 ≤ a by omega]

/-! ### Stored words -/

theorem State.reg_store_self (s : State) (a : Nat) (m v : Word) : (s.store a m v).reg a = (s.reg a &&& ~~~m) ||| (v &&& m) :=
  State.reg_setReg_self _ _ _

theorem State.reg_store_ne (s : State) {a b : Nat} (m v : Word) (h : b ≠ a) : (s.store a m v).reg b = s.reg b :=
  State.reg_setReg_ne _ _ _ _ h

theorem State.bodyWrite_rwWords (s : State) (v : Word) :
    ∀ e ∈ rwWords, s.bodyWrite e.1 e.2.1 v = s.store (linear e.1 e.2.1) e.2.2 v := by
  iterate 25 refine List.forall_mem_cons.mpr ⟨rfl, ?_⟩
  exact List.forall_mem_nil _

theorem State.formedWord_rwWords (s : State) : ∀ e ∈ rwWords, s.formedWord e.1 e.2.1 = none := by
  iterate 25 refine List.forall_mem_cons.mpr ⟨rfl, ?_⟩
  exact List.forall_mem_nil _

theorem State.bodyWrite_checkedWords (s : State) (v : Word) :
    ∀ e ∈ checkedWords, s.bodyWrite e.1 e.2.1 v = s.storeIf (e.2.2.2.1 v) e.2.2.2.2 (linear e.1 e.2.1) e.2.2.1 v := by
  iterate 9 refine List.forall_mem_cons.mpr ⟨rfl, ?_⟩
  exact List.forall_mem_nil _

theorem State.formedWord_checkedWords (s : State) : ∀ e ∈ checkedWords, s.formedWord e.1 e.2.1 = none := by
  iterate 9 refine List.forall_mem_cons.mpr ⟨rfl, ?_⟩
  exact List.forall_mem_nil _

theorem State.bodyWrite_pairWords (s : State) (v : Word) : ∀ e ∈ pairWords, s.bodyWrite e.1 e.2 v = s.stageWord (linear e.1 e.2) v ∧
    s.bodyWrite e.1 (e.2 + 1) v = s.storePair (linear e.1 e.2) 0xFFFF#16 v := by
  simp only [pairWords, List.forall_mem_cons]
  exact ⟨⟨rfl, rfl⟩, ⟨rfl, rfl⟩, ⟨rfl, rfl⟩, ⟨rfl, rfl⟩, by simp⟩

theorem rwWords_lt : ∀ e ∈ rwWords, e.1 < 32 ∧ 8 ≤ e.2.1 ∧ e.2.1 < 64 := by decide
theorem checkedWords_lt : ∀ e ∈ checkedWords, e.1 < 32 ∧ 8 ≤ e.2.1 ∧ e.2.1 < 64 := by
  simp only [checkedWords, List.forall_mem_cons]; simp
theorem pairWords_lt : ∀ e ∈ pairWords, e.1 < 32 ∧ 8 ≤ e.2 ∧ e.2 + 1 < 64 := by decide

section
variable {s : State} (hact : s.pw.phase = .active) (hstay : s.pw.leave = none)
include hact hstay

/-- EVT clears where ones are written, EVT_EN stores the bits its EVT defines, the rest but CTRL stays (R459, R460). -/
theorem write_header {a : Fin 2048} (v : Word) (h8 : a.val % 64 < 8) (h1 : a.val % 64 ≠ 1) :
    ∃ t, exec (.registerWrite a v) s = .next t ∧ (∀ b, b ≠ a.val → t.reg b = s.reg b) ∧
    t.reg a.val = (if a.val % 64 = 3 then s.reg a.val &&& ~~~v else if a.val % 64 = 4 then
      (s.reg a.val &&& ~~~(evtMask (a.val / 64))) ||| (v &&& evtMask (a.val / 64)) else s.reg a.val) ∧
    t.bal = s.bal ∧ t.xact = s.xact ∧ t.safe = s.safe := by
  have hw := State.writeWord_header (s := s.writeBegin) a.isLt h8 h1 v
  have hx := exec_write_of_without (c := []) hact hstay a v (by
    rw [hw, State.ite_without, State.ite_without, State.setReg_without, State.store_without, ite_self, ite_self])
  refine ⟨_, hx, ?_⟩
  rw [hw]
  by_cases h3 : a.val % 64 = 3
  · simp only [if_pos h3]
    exact ⟨fun b hb => State.reg_setReg_ne _ _ _ _ hb, State.reg_setReg_self _ _ _, rfl, rfl, rfl⟩
  · by_cases h4 : a.val % 64 = 4
    · simp only [if_neg h3, if_pos h4]
      exact ⟨fun b hb => State.reg_store_ne _ _ _ hb, State.reg_store_self _ _ _ _, rfl, rfl, rfl⟩
    · simp only [if_neg h3, if_neg h4]
      exact ⟨fun _ _ => rfl, rfl, rfl, rfl, rfl⟩

/-- A word that stores its bits and nothing else: the store, and what a read then shows (R8, R9). -/
theorem exec_stored_word {a : Fin 2048} {p w : Nat} {m v : Word} (ha : a.val = linear p w) (hp : p < 32) (h8 : 8 ≤ w) (h64 : w < 64)
    (hw : s.writable a.val) (hb : s.writeBegin.bodyWrite p w v = s.writeBegin.store a.val m v) :
    exec (.registerWrite a v) s = .next (s.writeBegin.store a.val m v) := by
  have he : s.writeBegin.writeWord a.val v = s.writeBegin.store a.val m v := by
    rw [← hb, ha]
    exact State.writeWord_body hp h8 h64 (ha ▸ hw) v
  rw [exec_write_of_without (c := []) hact hstay a v (by rw [he, State.store_without]), he]

omit hact hstay in
theorem State.readWord_store {a p w : Nat} (m v : Word) (ha : a = linear p w) (h64 : w < 64) (hs : look s.staged a = none)
    (hf : ∀ t : State, t.formedWord p w = none) : (s.writeBegin.store a m v).readWord a = (s.writeBegin.store a m v).reg a :=
  State.readWord_stored (s := s.writeBegin.store a m v) hs (by rw [ha, linear_div _ h64, linear_mod _ h64, hf])

theorem write_rwWord {a : Fin 2048} {p w : Nat} {m : Word} (v : Word) (h : (p, w, m) ∈ rwWords) (ha : a.val = linear p w)
    (hw : s.writable a.val) (hs : look s.staged a.val = none) : ∃ t, exec (.registerWrite a v) s = .next t ∧
    t.reg a.val = (s.reg a.val &&& ~~~m) ||| (v &&& m) ∧ t.readWord a.val = t.reg a.val ∧ (∀ b, b ≠ a.val → t.reg b = s.reg b) ∧
    t.xact = s.xact ∧ t.imp = s.imp ∧ t.safe = s.safe := by
  obtain ⟨hp, h8, h64⟩ := rwWords_lt _ h
  have hb : s.writeBegin.bodyWrite p w v = s.writeBegin.store a.val m v := by rw [ha]; exact State.bodyWrite_rwWords _ v _ h
  exact ⟨_, exec_stored_word hact hstay ha hp h8 h64 hw hb, State.reg_store_self _ _ _ _,
    State.readWord_store m v ha h64 hs fun t => t.formedWord_rwWords _ h, fun b hb => State.reg_store_ne _ _ _ hb, rfl, rfl, rfl⟩

theorem write_checkedWord {a : Fin 2048} {p w : Nat} {m : Word} {ok : Word → Bool} {ev : Fld} {v : Word}
    (h : (p, w, m, ok, ev) ∈ checkedWords) (ha : a.val = linear p w) (hw : s.writable a.val) (hs : look s.staged a.val = none) (hok : ok v = true) :
    ∃ t, exec (.registerWrite a v) s = .next t ∧ t.reg a.val = (s.reg a.val &&& ~~~m) ||| (v &&& m) ∧ t.readWord a.val = t.reg a.val ∧
    (∀ b, b ≠ a.val → t.reg b = s.reg b) := by
  obtain ⟨hp, h8, h64⟩ := checkedWords_lt _ h
  have hb : s.writeBegin.bodyWrite p w v = s.writeBegin.store a.val m v := by
    rw [ha]
    exact (State.bodyWrite_checkedWords _ v _ h).trans (if_pos hok)
  exact ⟨_, exec_stored_word hact hstay ha hp h8 h64 hw hb, State.reg_store_self _ _ _ _,
    State.readWord_store m v ha h64 hs fun t => t.formedWord_checkedWords _ h, fun b hb => State.reg_store_ne _ _ _ hb⟩

theorem write_refused {a : Fin 2048} {p w : Nat} {m : Word} {ok : Word → Bool} {ev : Fld} {v : Word} (h : (p, w, m, ok, ev) ∈ checkedWords)
    (ha : a.val = linear p w) (hw : s.writable a.val) (hok : ok v = false) : exec (.registerWrite a v) s = .next (s.writeBegin.evt ev) := by
  obtain ⟨hp, h8, h64⟩ := checkedWords_lt _ h
  have he : s.writeBegin.writeWord a.val v = s.writeBegin.evt ev := by
    rw [ha, State.writeWord_body (s := s.writeBegin) hp h8 h64 (ha ▸ hw)]
    exact (State.bodyWrite_checkedWords _ v _ h).trans (if_neg (by simp [hok]))
  rw [exec_write_of_without (c := []) hact hstay a v (by rw [he, State.evt_without]), he]

end
end Sys2Proof.Machine
end

