-- ==== Sys2Proof/Proofs/StagedWords.lean ====
section
/-! SUPPORT. Words that a write leaves alone, COUNT, and values of two words (R8, R9, R462). -/
namespace Sys2Proof.Machine

/-! ### Words that a write leaves alone (R9, R459, R465) -/

/-- The pages of counters, results and totals: from word 0x08 upward nothing there is written. -/
def resultPages : List Nat := [0x03, 0x08, 0x09, 0x0A, 0x0B, 0x1B, 0x1F]

/-- The pages whose chapter defines no CTRL word. -/
def plainCtrlPages : List Nat := [0x00, 0x03, 0x08, 0x09, 0x0A, 0x0B, 0x0F, 0x11, 0x14, 0x16, 0x1B, 0x1E, 0x1F]

/-- What a write leaves alone from 0x08 upward, page by page. -/
theorem readOnly_body {p w : Nat} (h8 : 8 ≤ w) (h : readOnly p w = true) :
    p ∈ resultPages ∨ (p = 0x00 ∧ w ≠ 0x30) ∨ (p = 0x16 ∧ w ≠ 0x09) ∨ (p = 0x05 ∧ w ≠ 0x08) ∨
      (p = 0x17 ∧ 0x0C ≤ w ∧ w ≤ 0x0F) ∨ (p = 0x15 ∧ (w ≤ 0x17 ∨ w = 0x25 ∨ 0x27 ≤ w)) := by
  have h1 : (w == 1) = false := by simp; omega
  simpa [readOnly, resultPages, h8, h1, or_assoc] using h

theorem readOnly_ctrl {p w : Nat} (h8 : ¬ 8 ≤ w) (h : readOnly p w = true) :
    w = 1 ∧ p ∈ plainCtrlPages := by
  simpa [readOnly, plainCtrlPages, h8] using h

theorem State.bodyWrite_resultPages (s : State) (w : Nat) (v : Word) : ∀ p ∈ resultPages, s.bodyWrite p w v = s := by
  simp only [resultPages, List.forall_mem_cons]
  exact ⟨rfl, rfl, rfl, rfl, rfl, rfl, rfl, by simp⟩

theorem State.bodyWrite_readOnly (s : State) {p w : Nat} (h8 : 8 ≤ w) (h : readOnly p w = true) (v : Word) : s.bodyWrite p w v = s := by
  rcases readOnly_body h8 h with hp | ⟨rfl, hw⟩ | ⟨rfl, hw⟩ | ⟨rfl, hw⟩ | ⟨rfl, hw⟩ | ⟨rfl, hw⟩
  · exact s.bodyWrite_resultPages w v p hp
  · exact if_neg hw
  · exact if_neg hw
  · exact if_neg hw
  · have hno : ¬ (0x08 ≤ w ∧ w ≤ 0x0B) ∧ ¬ (0x10 ≤ w ∧ w ≤ 0x13) ∧ ¬ (0x14 ≤ w ∧ w ≤ 0x1B) ∧ w ≠ 0x1C := by omega
    obtain ⟨hs, hc, hk, he⟩ := hno
    simp only [State.bodyWrite, State.faultWrite, if_neg hs, if_neg hc, if_neg hk, if_neg he]
  · have hno : ¬ (0x18 ≤ w ∧ w ≤ 0x21) := by omega
    simp only [State.bodyWrite, State.safeWrite, if_neg hno]
    split
    case h_5 => rfl
    all_goals omega

theorem State.ctrlWrite_readOnly (s : State) (v : Word) :
    ∀ p ∈ plainCtrlPages, s.ctrlWrite p v = s := by
  simp only [plainCtrlPages, List.forall_mem_cons]
  exact ⟨rfl, rfl, rfl, rfl, rfl, rfl, rfl, rfl, rfl, rfl, rfl, rfl, rfl, by simp⟩

theorem cfgRows_resultPages : ∀ p ∈ resultPages, cfgRows p = [] := by decide

theorem cfgMask_readOnly {p w : Nat} (h64 : w < 64) (h : readOnly p w = true) : cfgMask (linear p w) = 0 := by
  unfold cfgMask
  rw [linear_div _ h64, linear_mod _ h64]
  by_cases h8 : 8 ≤ w
  · rcases readOnly_body h8 h with hp | ⟨rfl, hw⟩ | ⟨rfl, hw⟩ | ⟨rfl, hw⟩ | ⟨rfl, hw⟩ | ⟨rfl, hw⟩
    · rw [cfgRows_resultPages p hp]
      rfl
    · rfl
    · have : ¬ (9 ≤ w ∧ w < 10) := by omega
      simp [cfgRows, rowVal, this]
    · rfl
    · have : ¬ 0x10 ≤ w := by omega
      simp [cfgRows, rowVal, this]
    · rfl
  · obtain ⟨rfl, hp⟩ := readOnly_ctrl h8 h
    revert p
    decide

theorem State.writable_readOnly (s : State) {p w : Nat} (h64 : w < 64) (h : readOnly p w = true) : s.writable (linear p w) := by
  have far : w = 1 ∨ (p ≠ 0x06 ∧ p ≠ 0x11 ∧ p ≠ 0x14) := by
    by_cases h8 : 8 ≤ w
    · have hp := readOnly_body h8 h
      simp only [resultPages, List.mem_cons, List.not_mem_nil, or_false] at hp
      omega
    · exact Or.inl (readOnly_ctrl h8 h).1
  refine Or.inr (s.cfgClass_eq_false (cfgMask_readOnly h64 h) ?_ ?_ ?_) <;> unfold linear <;> omega

theorem readOnly_lt {p w : Nat} (h : readOnly p w = true) : p < 32 ∧ (w = 1 ∨ 8 ≤ w) := by
  by_cases h8 : 8 ≤ w
  · have hp := readOnly_body h8 h
    simp only [resultPages, List.mem_cons, List.not_mem_nil, or_false] at hp
    omega
  · obtain ⟨rfl, hp⟩ := readOnly_ctrl h8 h
    simp only [plainCtrlPages, List.mem_cons, List.not_mem_nil, or_false] at hp
    omega

theorem State.writeWord_readOnly (s : State) {p w : Nat} (h64 : w < 64) (h : readOnly p w = true) (v : Word) :
    s.writeWord (linear p w) v = s := by
  have hw := s.writable_readOnly h64 h
  obtain ⟨hp, rfl | h8⟩ := readOnly_lt h
  · rw [State.writeWord_ctrl hp hw]
    exact s.ctrlWrite_readOnly v p (readOnly_ctrl (by decide) h).2
  · rw [State.writeWord_body hp h8 h64 hw, s.bodyWrite_readOnly h8 h]

/-! ### Fields and staged words -/

theorem fieldOf_low (x : Word) (n : Nat) : fieldOf x 0 n = x.toNat % 2 ^ n := by simp [fieldOf]

/-- The low bits of a word whose stored bits are the low ones. -/
theorem storeBits_low (x v : Word) : ((x &&& ~~~0x3F#16) ||| (v &&& 0x3F#16)).toNat % 64 = v.toNat % 64 := by
  have low (y : Word) : y.toNat % 64 = (y &&& 0x3F#16).toNat := (Nat.and_two_pow_sub_one_eq_mod y.toNat 6).symm
  have hb : ((x &&& ~~~0x3F#16) ||| (v &&& 0x3F#16)) &&& 0x3F#16 = v &&& 0x3F#16 := by
    refine BitVec.eq_of_getLsbD_eq fun i hi => ?_
    simp only [BitVec.getLsbD_or, BitVec.getLsbD_and, BitVec.getLsbD_not, hi, decide_true, Bool.true_and]
    cases x.getLsbD i <;> cases v.getLsbD i <;> cases BitVec.getLsbD 0x3F#16 i <;> decide
  rw [low, hb, ← low]

theorem storeBits_all (x v : Word) : (x &&& ~~~0xFFFF#16) ||| (v &&& 0xFFFF#16) = v := by
  have hx : x &&& ~~~0xFFFF#16 = 0#16 := BitVec.and_zero
  have hv : v &&& 0xFFFF#16 = v := BitVec.and_allOnes
  rw [hx, hv, BitVec.zero_or]

theorem State.useReg_holdReg_self (s : State) (a : Nat) (w : Word) : (s.holdReg a w).useReg a = s.useReg a := by
  simp [State.useReg, State.holdReg]

theorem State.reg_holdReg (s : State) (a b : Nat) (w : Word) : (s.holdReg a w).reg b = if b = a then w else s.reg b :=
  State.reg_setReg _ _ _ _

theorem State.staged_stageWord (s : State) (a : Nat) (v : Word) : (s.stageWord a v).staged = put s.staged a (some v) := (rfl)

theorem State.stageWord_without (s : State) {c : List Part} (h : Part.staged ∈ c) (a : Nat) (v : Word) :
    (s.stageWord a v).without c = s.without c := State.withStaged_without s h _

/-! ### A staged word taken up (R462) -/

/-- The word at `a` becomes what was staged there. -/
def State.takeLow (s : State) (a : Nat) : State := (s.setReg a (s.stagedLow a)).unstage a

theorem State.reg_takeLow (s : State) (a b : Nat) : (s.takeLow a).reg b = if b = a then s.stagedLow a else s.reg b :=
  State.reg_setReg _ _ _ _

theorem State.staged_takeLow (s : State) (a : Nat) : (s.takeLow a).staged = put s.staged a none := (rfl)

theorem State.look_takeLow (s : State) (a b : Nat) : look (s.takeLow a).staged b = if b = a then none else look s.staged b := by
  rw [State.staged_takeLow, look_put]

/-- What waits at any address is the same after some of it is taken up. -/
theorem State.stagedLow_takeLow (s : State) (a b : Nat) : (s.takeLow a).stagedLow b = s.stagedLow b := by
  rw [State.stagedLow, State.look_takeLow, State.reg_takeLow]
  by_cases hb : b = a
  · rw [if_pos hb, if_pos hb, hb]
    rfl
  · rw [if_neg hb, if_neg hb]
    rfl

theorem State.takeLow_without (s : State) {c : List Part} (h : Part.staged ∈ c) (a : Nat) : (s.takeLow a).without c = s.without c :=
  State.withStaged_without (s.setReg a (s.stagedLow a)) h _

theorem State.storePair_eq (s : State) (lo : Nat) (m v : Word) : s.storePair lo m v = (s.takeLow lo).store (lo + 1) m v := (rfl)

theorem State.storePair_without (s : State) {c : List Part} (h : Part.staged ∈ c) (lo : Nat) (m v : Word) :
    (s.storePair lo m v).without c = s.without c := by
  rw [State.storePair_eq, State.store_without, State.takeLow_without _ h]

section
variable {s : State} (hact : s.pw.phase = .active) (hstay : s.pw.leave = none)
include hact hstay

theorem write_readOnly {a : Fin 2048} (v : Word) (h : readOnly (a.val / 64) (a.val % 64) = true) :
    exec (.registerWrite a v) s = .next s.writeBegin := by
  have ha : linear (a.val / 64) (a.val % 64) = a.val := by unfold linear; omega
  have he : s.writeBegin.writeWord a.val v = s.writeBegin := by
    rw [← ha]
    exact s.writeBegin.writeWord_readOnly (Nat.mod_lt _ (by decide)) h v
  rw [exec_write_of_without (c := []) hact hstay a v (by rw [he]), he]

/-- COUNT is stored; the old one stays in use (R8, R102). -/
theorem write_count {a : Fin 2048} {v : Word} (hw : s.writable a.val) (hrw : s.rwLocked = false) (ha : a.val = CELLCFG.COUNT.COUNT.addr)
    (hlo : 12 ≤ v.toNat % 64) (hhi : v.toNat % 64 ≤ 36) : ∃ t, exec (.registerWrite a v) s = .next t ∧
    t.get CELLCFG.COUNT.COUNT = v.toNat % 64 ∧ t.used CELLCFG.COUNT.COUNT = s.used CELLCFG.COUNT.COUNT ∧
    (∀ b, b ≠ a.val → t.reg b = s.reg b) := by
  have he : s.writeBegin.writeWord a.val v = s.writeBegin.storeHeld a.val 0x3F#16 v := by
    have hwa : s.writable CELLCFG.COUNT.COUNT.addr := ha ▸ hw
    have hlock : s.writeBegin.rwLocked = false := hrw
    have hok : within 12 36 (v.toNat % 64) = true := by simp [within, hlo, hhi]
    rw [ha]
    refine (State.writeWord_body (s := s.writeBegin) (p := 0x07) (w := 0x08) (by decide) (by decide) (by decide) hwa v).trans ?_
    show s.writeBegin.countWrite v = _
    simp only [State.countWrite, hlock, State.heldIf, hok, if_true, Bool.false_eq_true, if_false]
  have hc : (s.writeBegin.storeHeld a.val 0x3F#16 v).without [.held] = s.writeBegin.without [.held] := by
    rw [State.storeHeld, State.holdReg, State.setReg_without, State.withHeld_without _ (by decide)]
  refine ⟨_, exec_write_of_without (c := [.held]) hact hstay a v (by rw [he, hc]), ?_⟩
  rw [he]
  refine ⟨?_, ?_, fun b hb => ?_⟩
  · have hr : (s.writeBegin.storeHeld a.val 0x3F#16 v).reg CELLCFG.COUNT.COUNT.addr = (s.reg a.val &&& ~~~0x3F#16) ||| (v &&& 0x3F#16) := by
      rw [← ha, State.storeHeld, State.reg_holdReg, if_pos rfl]
      rfl
    rw [State.get, hr]
    exact (fieldOf_low _ 6).trans (storeBits_low _ v)
  · rw [State.used, ← ha, State.storeHeld, State.useReg_holdReg_self, ha]
    rfl
  · rw [State.storeHeld, State.reg_holdReg, if_neg hb]
    rfl

/-- The lower word of a two-word value is staged. -/
theorem write_pair_low {a : Fin 2048} {p w : Nat} (v : Word) (h : (p, w) ∈ pairWords) (ha : a.val = linear p w) (hw : s.writable a.val) :
    ∃ t, exec (.registerWrite a v) s = .next t ∧ (∀ k, t.reg k = s.reg k) ∧ look t.staged a.val = some v ∧ t.readWord a.val = v ∧
      (∀ k, k ≠ a.val → look t.staged k = look s.staged k) := by
  obtain ⟨hp, h8, h64⟩ := pairWords_lt _ h
  have he : s.writeBegin.writeWord a.val v = s.writeBegin.stageWord a.val v := by
    rw [ha, State.writeWord_body (s := s.writeBegin) hp h8 (by omega) (ha ▸ hw)]
    exact (State.bodyWrite_pairWords _ v _ h).1
  have hst : look (s.writeBegin.stageWord a.val v).staged a.val = some v := by rw [State.staged_stageWord, look_put_self]
  refine ⟨_, exec_write_of_without (c := [.staged]) hact hstay a v (by rw [he, State.stageWord_without _ (by decide)]), ?_⟩
  rw [he]
  refine ⟨fun _ => rfl, hst, State.readWord_staged hst, fun k hk => ?_⟩
  rw [State.staged_stageWord, look_put_ne _ _ _ _ hk]
  rfl

/-- The higher word takes up both. -/
theorem write_pair_high {b : Fin 2048} {p w : Nat} (v : Word) (h : (p, w) ∈ pairWords) (hb : b.val = linear p w + 1) (hw : s.writable b.val) :
    ∃ t, exec (.registerWrite b v) s = .next t ∧ t.reg b.val = v ∧
      t.reg (linear p w) = (look s.staged (linear p w)).getD (s.reg (linear p w)) ∧ look t.staged (linear p w) = none ∧
      (∀ k, k ≠ linear p w → k ≠ b.val → t.reg k = s.reg k) := by
  obtain ⟨hp, h8, h64⟩ := pairWords_lt _ h
  have hn : b.val = linear p (w + 1) := by rw [hb]; rfl
  have he : s.writeBegin.writeWord b.val v = s.writeBegin.storePair (linear p w) 0xFFFF#16 v := by
    rw [hn, State.writeWord_body (s := s.writeBegin) hp (by omega) h64 (hn ▸ hw)]
    exact (State.bodyWrite_pairWords _ v _ h).2
  refine ⟨_, exec_write_of_without (c := [.staged]) hact hstay b v (by rw [he, State.storePair_without _ (by decide)]), ?_⟩
  rw [he]
  refine ⟨?_, ?_, ?_, fun k hk hkb => ?_⟩
  · rw [State.storePair_eq, hb, State.reg_store_self, storeBits_all]
  · rw [State.storePair_eq, State.reg_store_ne _ _ _ (by omega), State.reg_takeLow, if_pos rfl]
    rfl
  · exact (State.look_takeLow _ _ _).trans (if_pos rfl)
  · rw [State.storePair_eq, State.reg_store_ne _ _ _ (hb ▸ hkb), State.reg_takeLow, if_neg hk]
    rfl

end
end Sys2Proof.Machine
end

