-- ==== Sys2Proof/Proofs/RegisterWrites.lean ====
section
/-! SUPPORT. CELLMAP and QEN, values of three and four words (R462, log 98); the writes of register words settled. -/
namespace Sys2Proof.Machine

/-! ### CELLMAP, the value of three words (R462) -/

/-- What IMP's status shows leaves the cell map alone. -/
theorem State.reg_impStatus (s : State) {b : Nat} (hb : b ∈ [linear 0x13 0x28, linear 0x13 0x29, linear 0x13 0x2A]) :
    s.impStatus.reg b = s.reg b := by
  have hstat : b ≠ IMP.STATUS.ANYRUN.addr := by revert b; decide
  have hlane : ∀ k ∈ List.range 8, b ≠ (laneFld IMP.LANEkSTAT.word k).addr := by revert b; decide
  have frame (t : State) (f : Fld) (x : Bool) (hf : f.addr = IMP.STATUS.ANYRUN.addr) : (t.setB f x).reg b = t.reg b :=
    State.reg_set_ne _ _ _ _ (hf ▸ hstat)
  rw [State.impStatus, frame _ IMP.STATUS.BASELINE _ rfl, frame _ IMP.STATUS.TBLLIVE _ rfl, frame _ IMP.STATUS.EXCLIVE _ rfl,
    frame _ IMP.STATUS.COHLIVE _ rfl, frame _ IMP.STATUS.EXC _ rfl, frame _ IMP.STATUS.ANYRUN _ rfl]
  exact forEach_keeps (fun s => s.reg b) _ _ (fun k hk s => State.reg_set_ne _ _ _ _ (hlane k hk)) s

theorem State.staged_impStatus (s : State) : s.impStatus.staged = s.staged := State.staged_of_without (c := []) (by decide) s.impStatus_without

theorem State.bodyWrite_cellmap (s : State) (v : Word) : s.bodyWrite 0x13 0x2A v =
    (((s.takeLow (linear 0x13 0x28)).takeLow (linear 0x13 0x29)).store (linear 0x13 0x2A) 0xF#16 v).impStatus := (rfl)

/-! ### QEN, the value of four words (log 98) -/

/-- QEN3 takes up the lower words of QEN and is stored itself. -/
def State.qenTaken (s : State) (v : Word) : State :=
  (((s.takeLow (linear 0x06 0x08)).takeLow (linear 0x06 0x09)).takeLow (linear 0x06 0x0A)).setReg (linear 0x06 0x0B) v

theorem State.qenTaken_low (s : State) (v : Word) {i : Nat} (hi : i < 3) :
    (s.qenTaken v).reg (linear 0x06 (0x08 + i)) = s.stagedLow (linear 0x06 (0x08 + i)) ∧
    look (s.qenTaken v).staged (linear 0x06 (0x08 + i)) = none := by
  have hne : linear 0x06 (0x08 + i) ≠ linear 0x06 0x0B := by unfold linear; omega
  rw [State.qenTaken, State.reg_setReg_ne _ _ _ _ hne]
  show _ ∧ look (((s.takeLow (linear 0x06 0x08)).takeLow (linear 0x06 0x09)).takeLow (linear 0x06 0x0A)).staged (linear 0x06 (0x08 + i)) = none
  simp only [State.reg_takeLow, State.look_takeLow, State.stagedLow_takeLow]
  interval_cases i <;> simp [linear]

/-- A queue switched off loses its waiting blocks, a cell's also its open one (R361). -/
def State.qOff (q : Nat) (s : State) : State :=
  if s.qEnabled q then s
  else if 4 ≤ q ∧ q ≤ 41 then { s.discardWaiting q with cells := { s.cells with openBlk := put s.cells.openBlk (q - 4) none } }
  else s.discardWaiting q

theorem State.bodyWrite_qenLow (s : State) {i : Nat} (hi : i < 3) (v : Word) :
    s.bodyWrite 0x06 (0x08 + i) v = s.stageWord (linear 0x06 (0x08 + i)) (if i = 0 then v ||| 0xD#16 else v) := by
  interval_cases i <;> rfl

theorem State.bodyWrite_qenHigh (s : State) (v : Word) : s.bodyWrite 0x06 0x0B v = forEach (List.range 64) State.qOff (s.qenTaken v) := (rfl)

theorem State.reg_qOff (s : State) (q b : Nat) : (State.qOff q s).reg b = s.reg b := by
  unfold State.qOff
  split
  · rfl
  · split <;> rfl

theorem State.qOff_without (s : State) {c : List Part} (hx : Part.xact ∈ c) (hc : Part.cells ∈ c) (q : Nat) :
    (State.qOff q s).without c = s.without c := by
  simp only [State.qOff, State.ite_without, State.withCells_without _ hc, State.discardWaiting_without _ hx, ite_self]

theorem State.reg_qOffs (s : State) (l : List Nat) (b : Nat) : (forEach l State.qOff s).reg b = s.reg b :=
  forEach_keeps (fun s => s.reg b) _ _ (fun q _ s => s.reg_qOff q b) s

theorem State.qOffs_without (s : State) (l : List Nat) : (forEach l State.qOff s).without [.xact, .cells] = s.without [.xact, .cells] :=
  State.forEach_without _ _ _ (fun q _ s => s.qOff_without (by decide) (by decide) q) s

theorem State.staged_qOffs (s : State) (l : List Nat) : (forEach l State.qOff s).staged = s.staged :=
  State.staged_of_without (by decide) (s.qOffs_without l)

theorem State.qenHigh_without (s : State) (v : Word) : (forEach (List.range 64) State.qOff (s.qenTaken v)).without [.staged, .xact, .cells] =
    s.without [.staged, .xact, .cells] := by
  have h : Part.staged ∈ [Part.staged, .xact, .cells] := by decide
  rw [State.without_mono (by decide) ((s.qenTaken v).qOffs_without (List.range 64)), State.qenTaken, State.setReg_without,
    State.takeLow_without _ h, State.takeLow_without _ h, State.takeLow_without _ h]

section
variable {s : State} (hact : s.pw.phase = .active) (hstay : s.pw.leave = none)
include hact hstay

/-- The highest word of CELLMAP takes up all three. -/
theorem write_cellmap {c : Fin 2048} (v : Word) (hc : c.val = linear 0x13 0x2A) (hw : s.writable c.val) :
    ∃ t, exec (.registerWrite c v) s = .next t ∧
    t.reg (linear 0x13 0x28) = (look s.staged (linear 0x13 0x28)).getD (s.reg (linear 0x13 0x28)) ∧
    t.reg (linear 0x13 0x29) = (look s.staged (linear 0x13 0x29)).getD (s.reg (linear 0x13 0x29)) ∧
    t.reg c.val = (s.reg c.val &&& ~~~15#16) ||| (v &&& 15#16) ∧
    look t.staged (linear 0x13 0x28) = none ∧ look t.staged (linear 0x13 0x29) = none := by
  have he : s.writeBegin.writeWord c.val v =
      (((s.writeBegin.takeLow (linear 0x13 0x28)).takeLow (linear 0x13 0x29)).store c.val 0xF#16 v).impStatus := by
    rw [hc, State.writeWord_body (s := s.writeBegin) (by decide) (by decide) (by decide) (hc ▸ hw), State.bodyWrite_cellmap]
  have hout := exec_write_of_without (c := [.staged]) hact hstay c v (by
    rw [he, State.impStatus_without, State.store_without, State.takeLow_without _ (by decide), State.takeLow_without _ (by decide)])
  refine ⟨_, hout, ?_⟩
  have hne1 : linear 0x13 0x28 ≠ linear 0x13 0x29 := by decide
  have hne2 : linear 0x13 0x28 ≠ c.val := by rw [hc]; decide
  have hne3 : linear 0x13 0x29 ≠ c.val := by rw [hc]; decide
  have hst (b : Nat) : look (((s.writeBegin.takeLow (linear 0x13 0x28)).takeLow (linear 0x13 0x29)).store c.val 0xF#16 v).impStatus.staged b =
      if b = linear 0x13 0x29 then none else if b = linear 0x13 0x28 then none else look s.staged b := by
    rw [State.staged_impStatus]
    exact (State.look_takeLow _ _ _).trans (by rw [State.look_takeLow]; rfl)
  rw [he]
  refine ⟨?_, ?_, ?_, ?_, ?_⟩
  · rw [State.reg_impStatus _ (by decide), State.reg_store_ne _ _ _ hne2, State.reg_takeLow, if_neg hne1, State.reg_takeLow, if_pos rfl]
    rfl
  · rw [State.reg_impStatus _ (by decide), State.reg_store_ne _ _ _ hne3, State.reg_takeLow, if_pos rfl, State.stagedLow_takeLow]
    rfl
  · rw [State.reg_impStatus _ (by rw [hc]; decide), State.reg_store_self, State.reg_takeLow, if_neg hne3.symm, State.reg_takeLow,
      if_neg hne2.symm]
    rfl
  · rw [hst, if_neg hne1, if_pos rfl]
  · rw [hst, if_pos rfl]

/-- A lower word of QEN is staged, Q0, Q2 and Q3 with ones. -/
theorem write_qen_low {a : Fin 2048} {i : Nat} (v : Word) (hi : i < 3) (ha : a.val = linear 0x06 (0x08 + i)) (hw : s.writable a.val) :
    ∃ t, exec (.registerWrite a v) s = .next t ∧ (∀ k, t.reg k = s.reg k) ∧
      look t.staged a.val = some (if i = 0 then v ||| 0xD#16 else v) ∧ t.readWord a.val = (if i = 0 then v ||| 0xD#16 else v) := by
  have he : s.writeBegin.writeWord a.val v = s.writeBegin.stageWord a.val (if i = 0 then v ||| 0xD#16 else v) := by
    rw [ha, State.writeWord_body (s := s.writeBegin) (by decide) (by omega) (by omega) (ha ▸ hw), State.bodyWrite_qenLow _ hi]
  have hst (x : Word) : look (s.writeBegin.stageWord a.val x).staged a.val = some x := by rw [State.staged_stageWord, look_put_self]
  refine ⟨_, exec_write_of_without (c := [.staged]) hact hstay a v (by rw [he, State.stageWord_without _ (by decide)]), ?_⟩
  rw [he]
  exact ⟨fun _ => rfl, hst _, State.readWord_staged (hst _)⟩

/-- QEN3 takes up the lower words of QEN. -/
theorem write_qen_high {b : Fin 2048} {i : Nat} (v : Word) (hi : i < 3) (hb : b.val = linear 0x06 0x0B) (hw : s.writable b.val) :
    ∃ t, exec (.registerWrite b v) s = .next t ∧ t.reg b.val = v ∧
      t.reg (linear 0x06 (0x08 + i)) = (look s.staged (linear 0x06 (0x08 + i))).getD (s.reg (linear 0x06 (0x08 + i))) ∧
      look t.staged (linear 0x06 (0x08 + i)) = none := by
  have he : s.writeBegin.writeWord b.val v = forEach (List.range 64) State.qOff (s.writeBegin.qenTaken v) := by
    rw [hb, State.writeWord_body (s := s.writeBegin) (by decide) (by decide) (by decide) (hb ▸ hw), State.bodyWrite_qenHigh]
  refine ⟨_, exec_write_of_without (c := [.staged, .xact, .cells]) hact hstay b v (by rw [he, State.qenHigh_without]), ?_⟩
  obtain ⟨hr, hs⟩ := s.writeBegin.qenTaken_low v hi
  rw [he, State.reg_qOffs, State.reg_qOffs, State.staged_qOffs]
  refine ⟨?_, hr, hs⟩
  rw [hb, State.qenTaken, State.reg_setReg_self]

end

/-- Settles O49, clause by clause: the write of a word is unfolded once into its page's rule (`State.writeWord_ctrl`,
`State.writeWord_body`), and what a rule leaves alone shows that the write ends where its meaning does (`exec_write_of_without`). -/
theorem registerWrites : Obligations.RegisterWrites := by
  refine ⟨?_, ?_, ?_, ?_, ?_, ?_, ?_, ?_, ?_, ?_, ?_, ?_⟩
  · intro s a v hact hstay h8 h1
    exact write_header hact hstay v h8 h1
  · intro s i a n v hact hstay h ha hw
    exact write_actionWord hact hstay h ha hw
  · intro s i a n w m hact hstay h ha
    exact write_actionBit hact hstay h ha
  · intro s a p w m v hact hstay h ha hw hs
    exact write_rwWord hact hstay v h ha hw hs
  · intro s a p w m v ok ev hact hstay h ha hw hs hok
    exact write_checkedWord hact hstay h ha hw hs hok
  · intro s a p w m v ok ev hact hstay h ha hw hok
    exact write_refused hact hstay h ha hw hok
  · intro s a v hact hstay h
    exact write_readOnly hact hstay v h
  · intro s a p w v hact hstay h ha hs hr
    exact write_writeOnly hact hstay v h ha hs hr
  · intro s a v hact hstay hw hrw ha hlo hhi
    exact write_count hact hstay hw hrw ha hlo hhi
  · intro s a b p w v hact hstay h ha hb hwa hwb
    refine ⟨write_pair_low hact hstay v h ha hwa, ?_⟩
    rw [ha] at hb ⊢
    exact write_pair_high hact hstay v h hb hwb
  · intro s a b c v hact hstay ha hb hc hw
    have hb' : b.val = linear 0x13 0x29 := by rw [hb, ha]; rfl
    have hc' : c.val = linear 0x13 0x2A := by rw [hc, ha]; rfl
    rw [ha, hb']
    exact write_cellmap hact hstay v hc' hw
  · intro s a b i v hact hstay hi ha hb hwa hwb
    have ha' : a.val = linear 0x06 (0x08 + i) := ha.trans (Nat.add_assoc (0x06 * 64) 0x08 i)
    refine ⟨write_qen_low hact hstay v hi ha' hwa, ?_⟩
    rw [ha']
    exact write_qen_high hact hstay v hi hb hwb

end Sys2Proof.Machine
end

