-- ==== Sys2Proof/Proofs/Gate.lean ====
section
/-! SUPPORT. The gate of a running device's commands, and the counters of time as one of the parts. -/
namespace Sys2Proof.Machine

/-! ### The counters of time -/

theorem State.withTm_without {c : List Part} (s : State) (h : Part.tm ∈ c) (x : Time) : ({ s with tm := x }).without c = s.without c :=
  State.without_mono (c := [.tm]) (by simpa using h) rfl

theorem State.withTm_bit (s : State) (x : Time) (f : Fld) : ({ s with tm := x } : State).bit f = s.bit f := (rfl)

theorem State.tm_of_without {s t : State} {c : List Part} (hc : Part.tm ∉ c) (h : t.without c = s.without c) : t.tm = s.tm := by
  rw [← State.only_of_without h]
  simp [State.only, hc]

theorem State.only_tm (s t : State) {c : List Part} (hc : Part.tm ∈ c) : (s.only t c).tm = t.tm := by
  simp [State.only, hc]

/-! ### The gate -/

/-- A command of a running device that ends where its meaning does. -/
theorem whenActive_next {s : State} {c : List Part} {k : State → State} (hact : s.pw.phase = .active)
    (h : (k s).without c = s.without c) : whenActive c s k = .next (k s) := by
  rw [whenActive_active c s k hact, State.only_of_without h]

/-- A command of a running device whose condition does not hold leaves the state as it is. -/
theorem whenActive_same {s : State} {c : List Part} {k : State → State} (hact : s.pw.phase = .active) (h : k s = s) :
    whenActive c s k = .next s := by
  rw [whenActive_active c s k hact, h, State.only_same]

section
variable {s : State} {c : List Part} {b : State → Bool} {k : State → State}

theorem whenActive_when_true (hact : s.pw.phase = .active) (hb : b s = true) (h : (k s).without c = s.without c) :
    whenActive c s (fun s => s.when (b s) k) = .next (k s) := by
  have hw : s.when (b s) k = k s := if_pos hb
  exact (whenActive_next hact (by rw [hw, h])).trans (by rw [hw])

theorem whenActive_when_false (hact : s.pw.phase = .active) (hb : b s = false) :
    whenActive c s (fun s => s.when (b s) k) = .next s :=
  whenActive_same hact (if_neg (by rw [hb]; decide))

end

end Sys2Proof.Machine
end

