-- ==== Sys2Proof/Proofs/PageWords.lean ====
section
/-! SUPPORT. The register words of one page, and the operations that leave a page alone. -/
namespace Sys2Proof.Machine

/-- The 64 stored words of a page. -/
def State.pageWords (s : State) (p : Nat) : List Word := (List.range 64).map (fun w => s.reg (linear p w))

section
variable {s t : State} {p : Nat} (h : t.pageWords p = s.pageWords p)
include h

theorem State.reg_of_pageWords {a : Nat} (ha : a / 64 = p) : t.reg a = s.reg a := by
  have hw : linear p (a % 64) = a := by unfold linear; omega
  rw [← hw]
  exact List.map_inj_left.mp h (a % 64) (List.mem_range.mpr (Nat.mod_lt a (by decide)))
theorem State.get_of_pageWords {f : Fld} (hf : f.addr / 64 = p) : t.get f = s.get f := by
  rw [State.get, State.get, State.reg_of_pageWords h hf]
theorem State.bit_of_pageWords {f : Fld} (hf : f.addr / 64 = p) : t.bit f = s.bit f := by
  rw [State.bit, State.bit, State.get_of_pageWords h hf]
end

section
variable (s : State) {p : Nat}

/-! ### Register words, conditions, loops -/

theorem State.setReg_pageWords {a : Nat} (ha : a / 64 ≠ p) (w : Word) : (s.setReg a w).pageWords p = s.pageWords p :=
  List.map_inj_left.mpr fun _ hb => s.reg_setReg_ne a _ w fun e => ha (e ▸ linear_div p (List.mem_range.mp hb))
theorem State.set_pageWords {f : Fld} (hf : f.addr / 64 ≠ p) (v : Nat) : (s.set f v).pageWords p = s.pageWords p :=
  s.setReg_pageWords hf _
theorem State.setB_pageWords {f : Fld} (hf : f.addr / 64 ≠ p) (b : Bool) : (s.setB f b).pageWords p = s.pageWords p :=
  s.set_pageWords hf _
theorem State.evt_pageWords {f : Fld} (hf : f.addr / 64 ≠ p) : (s.evt f).pageWords p = s.pageWords p := s.set_pageWords hf 1
theorem State.inc_pageWords {f : Fld} (hf : f.addr / 64 ≠ p) : (s.inc f).pageWords p = s.pageWords p := s.set_pageWords hf _
theorem State.set2_pageWords {f : Fld} (hf : f.addr / 64 ≠ p) (hg : (f.plus 1).addr / 64 ≠ p) (v : Nat) :
    (s.set2 f v).pageWords p = s.pageWords p := by
  rw [State.set2, State.set_pageWords _ hg, State.set_pageWords _ hf]
theorem State.setV_pageWords {f : Fld} {i : Nat} (hf : linear f.page (f.word + i / 16) / 64 ≠ p) (b : Bool) :
    (s.setV f i b).pageWords p = s.pageWords p :=
  State.setB_pageWords s (f := { f with word := f.word + i / 16, lo := i % 16, w := 1 }) hf b
theorem State.cond_pageWords (i : Nat) (b : Bool) : (s.cond i b).pageWords p = s.pageWords p := by cases b <;> rfl
theorem State.occur_pageWords (i : Nat) : (s.occur i).pageWords p = s.pageWords p := (rfl)
theorem State.ite_pageWords (c : Prop) [Decidable c] (t : State) :
    (if c then s else t).pageWords p = if c then s.pageWords p else t.pageWords p := apply_ite (fun u : State => u.pageWords p) c s t
theorem State.forEach_pageWords {α : Type} (f : α → State → State) (l : List α)
    (h : ∀ a ∈ l, ∀ s, (f a s).pageWords p = s.pageWords p) : (forEach l f s).pageWords p = s.pageWords p :=
  forEach_keeps (fun s => s.pageWords p) f l h s

theorem State.withTm_pageWords (x : Time) : ({ s with tm := x }).pageWords p = s.pageWords p := (rfl)
theorem State.withCells_pageWords (x : Cells) : ({ s with cells := x }).pageWords p = s.pageWords p := (rfl)
theorem State.withCal_pageWords (x : Cal) : ({ s with cal := x }).pageWords p = s.pageWords p := (rfl)
theorem State.withBal_pageWords (x : Bal) : ({ s with bal := x }).pageWords p = s.pageWords p := (rfl)
theorem State.withXact_pageWords (x : Xact) : ({ s with xact := x }).pageWords p = s.pageWords p := (rfl)
theorem State.withBan_pageWords (x : Ban) : ({ s with ban := x }).pageWords p = s.pageWords p := (rfl)

theorem State.setTip_pageWords (t : Tip) : (s.setTip t).pageWords p = s.pageWords p := (rfl)
theorem State.setLane_pageWords (k : Nat) (x : ImpLane) : (s.setLane k x).pageWords p = s.pageWords p := (rfl)
theorem State.setQueue_pageWords (q : Nat) (x : Queue) : (s.setQueue q x).pageWords p = s.pageWords p := (rfl)

/-! ### Queues and plans (page 0x06), currents (0x0C, 0x18) -/

theorem State.noteDrop_pageWords (h : 0x06 ≠ p) {q : Nat} (hq : q < 64) : (s.noteDrop q).pageWords p = s.pageWords p := by
  have hv : linear QUEUE.DROPMAP0.page (QUEUE.DROPMAP0.word + q / 16) / 64 ≠ p := by
    rw [linear_div _ (show 0x15 + q / 16 < 64 by omega)]
    exact h
  simp (disch := simpa [Fld.addr, linear] using h) only [State.noteDrop, State.occur_pageWords, State.evt_pageWords,
    State.setV_pageWords _ hv, State.withXact_pageWords]

theorem State.dropOne_pageWords (h : 0x06 ≠ p) {q : Nat} (hq : q < 64) : (s.dropOne q).pageWords p = s.pageWords p := by
  simp only [State.dropOne, State.ite_pageWords, State.noteDrop_pageWords _ h hq, State.setQueue_pageWords, ite_self]

theorem State.leanQ1_pageWords (h : 0x06 ≠ p) : s.leanQ1.pageWords p = s.pageWords p :=
  State.forEach_pageWords s _ _ fun _ _ t => t.dropOne_pageWords h (by decide)

theorem State.planEval_pageWords (h : 0x06 ≠ p) : s.planEval.pageWords p = s.pageWords p := by
  simp (disch := simpa [Fld.addr, linear] using h) only [State.planEval, State.ite_pageWords, State.leanQ1_pageWords _ h,
    State.setB_pageWords, State.set_pageWords, ite_self]

theorem State.currStatus_pageWords (h : 0x0C ≠ p) (hg : 0x18 ≠ p) : s.currStatus.pageWords p = s.pageWords p := by
  have hi : GAL.STATUS.IREC.addr / 64 ≠ p := hg
  simp (disch := simpa [Fld.addr, linear] using h) only [State.currStatus, State.setB_pageWords _ hi, State.setB_pageWords]

/-! ### Fine chains (0x07), calibration (0x10), lanes (0x13) -/

theorem State.restartAll_pageWords (h : 0x07 ≠ p) (t : Nat) : (s.restartAll t).pageWords p = s.pageWords p :=
  State.forEach_pageWords s _ _ fun _ _ u => by
    simp (disch := simpa [Fld.addr, linear] using h) only [State.restartChain, State.set_pageWords, State.evt_pageWords,
      State.withCells_pageWords]

theorem State.cutSwitch_pageWords (n t : Nat) : (s.cutSwitch n t).pageWords p = s.pageWords p := by
  have hr (u : State) : (u.resolveSw t).pageWords p = u.pageWords p := State.forEach_pageWords u _ _ fun _ _ _ => rfl
  simp only [State.cutSwitch, State.ite_pageWords, hr, State.withBal_pageWords, ite_self]

theorem State.calSlip_pageWords (h : 0x10 ≠ p) : s.calSlip.pageWords p = s.pageWords p := by
  cases hr : s.cal.run <;> simp (disch := simpa [Fld.addr, linear] using h) only [State.calSlip, hr, State.ite_pageWords,
    State.evt_pageWords, State.withCal_pageWords, ite_self]

theorem State.impStatus_pageWords (h : 0x13 ≠ p) : s.impStatus.pageWords p = s.pageWords p := by
  have hl : ∀ k ∈ List.range 8, (laneFld IMP.LANEkSTAT.word k).addr / 64 ≠ p := fun k hk => by
    have hw : 0x0B + 4 * k < 64 := by have := List.mem_range.mp hk; omega
    rw [Fld.addr, laneFld, Fld.plus, linear_div _ hw]
    exact h
  simp (disch := simpa [Fld.addr, linear] using h) only [State.impStatus, State.setB_pageWords]
  exact State.forEach_pageWords s _ _ fun k hk t => t.set_pageWords (hl k hk) _

theorem State.impAbort_pageWords (h : 0x13 ≠ p) (stop : Bool) : (s.impAbort stop).pageWords p = s.pageWords p := by
  have hx (u : State) (t : Nat) : (u.excTrim t).pageWords p = u.pageWords p :=
    State.forEach_pageWords u _ _ fun n _ v => v.cutSwitch_pageWords n t
  simp (disch := simpa [Fld.addr, linear] using h) only [State.impAbort, State.impStatus_pageWords _ h, hx, State.ite_pageWords,
    State.evt_pageWords, State.inc_pageWords, ite_self]
  exact State.forEach_pageWords s _ _ fun _ _ t => by simp only [State.ite_pageWords, State.setLane_pageWords, ite_self]

/-! ### Banister (0x16), Tipol (0x1A) -/

theorem State.testBegin_pageWords (h : 0x16 ≠ p) (r : Nat) : (s.testBegin r).pageWords p = s.pageWords p := by
  simp (disch := simpa [Fld.addr, Fld.plus, linear] using h) only [State.testBegin, State.set2_pageWords, State.set_pageWords]

theorem State.testSkip_pageWords (h : 0x16 ≠ p) : s.testSkip.pageWords p = s.pageWords p := by
  simp (disch := simpa [Fld.addr, linear] using h) only [State.testSkip, State.evt_pageWords, State.inc_pageWords, State.set_pageWords]

theorem State.testSlip_pageWords (h : 0x16 ≠ p) : s.testSlip.pageWords p = s.pageWords p := by
  cases ht : s.ban.test <;> simp (disch := simpa [Fld.addr, linear] using h) only [State.testSlip, ht, State.testDiscard,
    State.openAll, State.closeAll, State.setB_pageWords, State.withBan_pageWords, State.evt_pageWords, State.inc_pageWords,
    State.set_pageWords]

theorem State.tipStatus_pageWords (h : 0x1A ≠ p) : s.tipStatus.pageWords p = s.pageWords p := by
  have hv : ∀ e ∈ List.range 32, linear TIPOL.MISSMAP0.page (TIPOL.MISSMAP0.word + e / 16) / 64 ≠ p := fun e he => by
    have hw : 0x1C + e / 16 < 64 := by have := List.mem_range.mp he; omega
    rw [linear_div _ hw]
    exact h
  simp (disch := simpa [Fld.addr, linear] using h) only [State.tipStatus, State.cond_pageWords, State.setB_pageWords, State.set_pageWords]
  exact State.forEach_pageWords s _ _ fun e he t => t.setV_pageWords (hv e he) _

theorem State.tipOp_pageWords (h : 0x1A ≠ p) (o : TipOp) : (s.tipOp o).pageWords p = s.pageWords p := by
  simp only [State.tipOp, State.tipStatus_pageWords _ h, State.setTip_pageWords]

theorem State.tipSlip_pageWords (h : 0x1A ≠ p) : s.tipSlip.pageWords p = s.pageWords p := by
  cases ho : s.tip.op <;> simp only [State.tipSlip, ho, State.ite_pageWords, State.tipOp_pageWords _ h, ite_self]

end
end Sys2Proof.Machine
end

