-- ==== Sys2Proof/Proofs/SlippedTreads.lean ====
section
/-! SUPPORT. What a slipped tread does to the parts beside the counters of time (R37); loss and change of alignment (R35, R336). -/
namespace Sys2Proof.Machine

/-! ### The parts of a slipped tread -/

section
variable {c : List Part} (s : State)

theorem State.restartAll_without (h : Part.cells ∈ c) (t : Nat) : (s.restartAll t).without c = s.without c :=
  State.forEach_without c _ _ (fun ch _ u => u.restartChain_without h ch t false) s

theorem State.calSlip_without (h : Part.cal ∈ c) : s.calSlip.without c = s.without c := by
  cases hr : s.cal.run <;> simp only [State.calSlip, hr, State.ite_without, State.evt_without, State.withCal_without _ h, ite_self]

theorem State.testSlip_without (h : Part.ban ∈ c) : s.testSlip.without c = s.without c := by
  cases ht : s.ban.test <;> simp only [State.testSlip, ht, State.testDiscard, State.openAll, State.closeAll, State.setB_without,
    State.withBan_without _ h, State.evt_without, State.inc_without, State.set_without]

theorem State.tipSlip_without (h : Part.tip ∈ c) : s.tipSlip.without c = s.without c := by
  cases ho : s.tip.op <;> simp only [State.tipSlip, ho, State.ite_without, State.tipOp_without _ h, ite_self]

end

/-- The drops of a shortened tread beside its missing image: switches, the test of the tread, the Tipol transaction (R37, R298,
R424). -/
def State.shortenedRest (s : State) (t cut : Nat) : State :=
  let s := forEach ((List.range 36).map (· + 1)) (fun (n : Nat) (s : State) => s.cutSwitch n t) s
  let m := s.get BAN.ROLE.MODE
  let s := if cut < 49152 && s.testTread && s.ban.test == .none && (m == 1 || m == 2) then
      (s.testBegin ((if m = 1 ∧ s.bit BAN.STATUS.NEXTSW = true then 1 else 0) + 0xFF00)).testSkip
    else s.testSlip
  if cut < 65535 then s.tipSlip else s

theorem State.shortened_eq (s : State) (cut : Nat) : s.shortened cut =
    State.shortenedRest (if cut < 12288 then { s with tm := { s.tm with noSnap := true } } else s) (s.absClk (cut / 16)) cut := by
  simp only [State.shortened, State.shortenedRest]

section
variable (s : State)

theorem State.shortenedRest_without {c : List Part} (hs : Part.bal ∈ c) (hb : Part.ban ∈ c) (ht : Part.tip ∈ c) (t cut : Nat) :
    (s.shortenedRest t cut).without c = s.without c := by
  have hcut (u : State) : (forEach ((List.range 36).map (· + 1)) (fun (n : Nat) (s : State) => s.cutSwitch n t) u).without c = u.without c :=
    State.forEach_without c _ _ (fun n _ v => v.cutSwitch_without hs n t) u
  simp only [State.shortenedRest, State.ite_without, State.tipSlip_without _ ht, State.testSlip_without _ hb, State.testSkip,
    State.testBegin, State.evt_without, State.inc_without, State.set_without, State.set2_without, hcut, ite_self]

theorem State.shortenedRest_pageWords {p : Nat} (hb : 0x16 ≠ p) (ht : 0x1A ≠ p) (t cut : Nat) :
    (s.shortenedRest t cut).pageWords p = s.pageWords p := by
  have hcut (u : State) : (forEach ((List.range 36).map (· + 1)) (fun (n : Nat) (s : State) => s.cutSwitch n t) u).pageWords p =
      u.pageWords p := State.forEach_pageWords u _ _ fun n _ v => v.cutSwitch_pageWords n t
  simp only [State.shortenedRest, State.ite_pageWords, State.tipSlip_pageWords _ ht, State.testSlip_pageWords _ hb,
    State.testSkip_pageWords _ hb, State.testBegin_pageWords _ hb, hcut, ite_self]

theorem State.shortened_tm (cut : Nat) :
    (s.shortened cut).tm = { s.tm with noSnap := s.tm.noSnap || decide (cut < 12288) } := by
  rw [State.shortened_eq, State.tm_of_without (c := [.bal, .ban, .tip]) (by decide)
    (State.shortenedRest_without _ (by decide) (by decide) (by decide) _ _)]
  by_cases h : cut < 12288 <;> simp [h]

theorem State.shortened_pageWords {p : Nat} (hb : 0x16 ≠ p) (ht : 0x1A ≠ p) (cut : Nat) :
    (s.shortened cut).pageWords p = s.pageWords p := by
  rw [State.shortened_eq, State.shortenedRest_pageWords _ hb ht, State.ite_pageWords, State.withTm_pageWords, ite_self]

/-! ### The end of a slipped tread -/

/-- The counters of time when a pending step of either sign takes effect. -/
def Time.stepDone (t : Time) : Time := { t with stepPend := none, phaseLeft := 0, adjust := 0, slipped := true }

/-- The state as a pending step takes effect: the slip is an event and counts (R37). -/
def State.slipBegun (s : State) : State := (({ s with tm := s.tm.stepDone }).evt TIME.EVT.SLIP).inc TIME.SLIPCNT

/-- What every slip ends with: the calibration group is discarded, integrations abort, chains restart (R89, R157, R184). -/
def State.slipEnd (s : State) : State := (s.calSlip.impAbort false).restartAll (s.absClk 4096)

theorem State.slipEnd_tm : s.slipEnd.tm = s.tm := by
  refine State.tm_of_without (c := [.cells, .cal, .bal, .imp]) (by decide) ?_
  rw [State.slipEnd, State.restartAll_without _ (by decide), State.impAbort_without _ (by decide) (by decide),
    State.calSlip_without _ (by decide)]

theorem State.slipEnd_pageWords : s.slipEnd.pageWords 3 = s.pageWords 3 := by
  rw [State.slipEnd, State.restartAll_pageWords _ (by decide), State.impAbort_pageWords _ (by decide),
    State.calSlip_pageWords _ (by decide)]

theorem State.slipBegun_counts : s.slipBegun.get TIME.SLIPCNT = min (s.get TIME.SLIPCNT + 1) 65535 ∧
    s.slipBegun.bit TIME.EVT.SLIP = true := by
  constructor
  · have hcnt : (({ s with tm := s.tm.stepDone } : State).evt TIME.EVT.SLIP).get TIME.SLIPCNT = s.get TIME.SLIPCNT :=
      State.get_set_ne _ _ _ _ rfl rfl
    rw [State.slipBegun, State.inc, State.get_set _ _ _ rfl, hcnt]
    exact Nat.mod_eq_of_lt (by show min _ (2 ^ 16 - 1) < 2 ^ 16; omega)
  · rw [State.slipBegun, State.inc, State.bit_set_ne _ _ _ _ rfl rfl]
    exact State.bit_evt _ _ _ _ (by decide)

end

/-- The parts that a slipped tread acts on. -/
def slipParts : List Part := [.tm, .cells, .cal, .bal, .imp, .ban, .tip]

theorem exec_slippedTread_eq (s : State) (cut : Fin 65536) :
    exec (.slippedTread cut) s = whenActive slipParts s fun s => s.slipTread cut.val := (rfl)

/-- A pending step as a command: what it leaves of the counters of time, and the slip as it shows. -/
theorem exec_slippedTread {s u : State} {cut : Fin 65536} {e : Int} (hact : s.pw.phase = .active) (he : s.tm.stepPend = some e)
    (hu : (if e < 0 then s.slipBegun.shortened cut.val else { s.slipBegun with tm := { s.slipBegun.tm with idle := true } }) = u)
    (hp : u.pageWords 3 = s.slipBegun.pageWords 3) :
    ∃ t, exec (.slippedTread cut) s = .next t ∧ t.tm = u.tm ∧
      t.get TIME.SLIPCNT = min (s.get TIME.SLIPCNT + 1) 65535 ∧ t.bit TIME.EVT.SLIP = true := by
  have hslip : s.slipTread cut.val = u.slipEnd := by
    simp only [State.slipTread, he, ← hu]
    rfl
  have hpage : u.slipEnd.pageWords 3 = s.slipBegun.pageWords 3 := u.slipEnd_pageWords.trans hp
  refine ⟨_, (exec_slippedTread_eq s cut).trans (whenActive_active _ s _ hact), ?_, ?_, ?_⟩
  · rw [State.only_tm _ _ (by decide), hslip, State.slipEnd_tm]
  · rw [State.only_get, hslip, State.get_of_pageWords hpage rfl, s.slipBegun_counts.1]
  · rw [State.only_bit, hslip, State.bit_of_pageWords hpage rfl, s.slipBegun_counts.2]

/-! ### Alignment lost and moved -/

/-- ALIGNED clears; that it did is an event (R35). -/
theorem State.aligned_lost (s : State) : s.aligned false =
    if s.bit TIME.STATUS.ALIGNED then (s.setB TIME.STATUS.ALIGNED false).evt TIME.EVT.SYNCLOST
    else s.setB TIME.STATUS.ALIGNED false := by
  cases h : s.bit TIME.STATUS.ALIGNED <;> simp [State.aligned, h]

theorem exec_alignmentLost_eq (s : State) : exec .alignmentLost s =
    whenActive [] s fun s => s.when (decide (16 ≤ s.tm.misses)) fun s => (s.aligned false).cond 37 true := (rfl)

theorem exec_alignSourceChange_dn_eq (s : State) : exec (.alignSourceChange .dn) s =
    whenActive [] s fun s => s.when (s.source? == some .up && decide (4 ≤ s.link.upMiss) && s.qualifies .dnTx) fun s =>
      (s.set TIME.STATUS.SRC 2).evt TIME.EVT.SRCCHG := (rfl)

theorem exec_alignSourceChange_up_eq (s : State) : exec (.alignSourceChange .up) s =
    whenActive [] s fun s => s.when (s.source? == some .dn && decide (64 ≤ s.link.upGood)) fun s =>
      (s.set TIME.STATUS.SRC 1).evt TIME.EVT.SRCCHG := (rfl)

theorem exec_alignmentLost {s : State} (hact : s.pw.phase = .active) (h : 16 ≤ s.tm.misses) :
    exec .alignmentLost s = .next ((s.aligned false).cond 37 true) := by
  rw [exec_alignmentLost_eq, whenActive_when_true hact (decide_eq_true h)]
  simp only [State.cond_without, State.aligned_lost, State.ite_without, State.evt_without, State.setB_without, ite_self]

theorem State.lost_tells (s : State) :
    ((s.aligned false).cond 37 true).bit TIME.STATUS.ALIGNED = false ∧
    (s.bit TIME.STATUS.ALIGNED = true → ((s.aligned false).cond 37 true).bit TIME.EVT.SYNCLOST = true) ∧
    (∀ a, a ≠ TIME.STATUS.ALIGNED.addr → a ≠ TIME.EVT.SYNCLOST.addr → ((s.aligned false).cond 37 true).reg a = s.reg a) := by
  simp only [State.cond_bit, State.cond_reg, State.aligned_lost]
  have hclear : (s.setB TIME.STATUS.ALIGNED false).bit TIME.STATUS.ALIGNED = false := State.bit_setB s _ _ _ _ (by decide)
  cases s.bit TIME.STATUS.ALIGNED with
  | true =>
    refine ⟨?_, fun _ => State.bit_evt _ _ _ _ (by decide), fun a hs he => ?_⟩
    · exact (State.bit_set_ne _ _ _ _ rfl rfl).trans hclear
    · exact (State.reg_set_ne _ _ _ _ he).trans (State.reg_set_ne _ _ _ _ hs)
  | false => exact ⟨hclear, fun h => absurd h Bool.false_ne_true, fun a hs _ => State.reg_set_ne _ _ _ _ hs⟩

theorem exec_alignSourceChange_dn {s : State} (hact : s.pw.phase = .active) (hs : s.source? = some .up) (hm : 4 ≤ s.link.upMiss)
    (hq : s.qualifies .dnTx = true) :
    exec (.alignSourceChange .dn) s = .next ((s.set TIME.STATUS.SRC 2).evt TIME.EVT.SRCCHG) :=
  (exec_alignSourceChange_dn_eq s).trans (whenActive_when_true hact (by simp [hs, hm, hq]) (by simp))

theorem exec_alignSourceChange_up {s : State} (hact : s.pw.phase = .active) (hs : s.source? = some .dn) (hg : 64 ≤ s.link.upGood) :
    exec (.alignSourceChange .up) s = .next ((s.set TIME.STATUS.SRC 1).evt TIME.EVT.SRCCHG) :=
  (exec_alignSourceChange_up_eq s).trans (whenActive_when_true hact (by simp [hs, hg]) (by simp))

/-- Settles O17: the misses alone decide on the loss of alignment, the source moves on its own counts, and a pending step is
`State.slipBegun`, then its shortening or idle time, then `State.slipEnd`, which leaves the counters of time and page 0x03 alone. -/
theorem alignmentAndSlips : Obligations.AlignmentAndSlips := by
  refine ⟨fun s hact hm => ?_, fun s hact hm => ?_, fun s hact hs hm hq => ?_, fun s hact hs hg => ?_, fun s cut hact hn => ?_,
    fun s cut e hact he h0 => ?_, fun s cut e hact he h0 => ?_⟩
  · obtain ⟨hbit, hev, hreg⟩ := s.lost_tells
    refine ⟨_, exec_alignmentLost hact hm, hbit, ?_, hev, hreg, ?_⟩
    · rw [State.holds_cond _ _ _ _ (by decide), if_pos rfl]
    · rw [State.cond_tm, State.aligned_lost, apply_ite State.tm]
      exact ite_self _
  · exact (exec_alignmentLost_eq s).trans (whenActive_when_false hact (decide_eq_false (Nat.not_le.mpr hm)))
  · exact exec_alignSourceChange_dn hact hs hm hq
  · exact exec_alignSourceChange_up hact hs hg
  · exact (exec_slippedTread_eq s cut).trans (whenActive_same hact (by simp only [State.slipTread, hn]))
  · exact exec_slippedTread hact he (if_neg (by omega)) rfl
  · obtain ⟨t, ht, htm, hshow⟩ := exec_slippedTread hact he (if_pos h0) (State.shortened_pageWords _ (by decide) (by decide) _)
    exact ⟨t, ht, htm.trans (State.shortened_tm _ _), hshow⟩

end Sys2Proof.Machine
end

