-- ==== Sys2Proof/Proofs/TreadCounters.lean ====
section
/-! SUPPORT. Master clock 0 of a tread and the counters of time (R34, R35, R38, R44, R47). -/
namespace Sys2Proof.Machine

/-! ### The flash's work leaves the counters of time alone but for the mark of a step (R411) -/

/-- The counters of time without the mark of a step, which the flash's records carry. -/
def State.clock (s : State) : Time := { s.tm with stepMark := false }

section
variable (s : State)

theorem State.clock_of_without {t : State} {c : List Part} (hc : Part.tm ∉ c) (h : t.without c = s.without c) : t.clock = s.clock := by
  rw [State.clock, State.clock, State.tm_of_without hc h]

theorem State.ite_clock (p : Prop) [Decidable p] (t : State) : (if p then s else t).clock = if p then s.clock else t.clock :=
  apply_ite State.clock p s t
theorem State.setFl_clock (f : Flash) : (s.setFl f).clock = s.clock := (rfl)
theorem State.set_clock (f : Fld) (v : Nat) : (s.set f v).clock = s.clock := (rfl)
theorem State.inc_clock (f : Fld) : (s.inc f).clock = s.clock := (rfl)
theorem State.evt_clock (f : Fld) : (s.evt f).clock = s.clock := (rfl)
theorem State.occur_clock (i : Nat) : (s.occur i).clock = s.clock := (rfl)
theorem State.tick_clock : s.tick.clock = s.clock := (rfl)
theorem State.flStatus_clock : s.flStatus.clock = s.clock := s.clock_of_without (c := []) (by decide) s.flStatus_without
theorem State.fault44_clock : s.fault44.clock = s.clock := s.clock_of_without (c := []) (by decide) s.fault44_without
theorem State.tombWrite_clock : s.tombWrite.clock = s.clock :=
  s.clock_of_without (c := [.fl, .vault]) (by decide) (s.tombWrite_without (by decide) (by decide))
theorem State.progNext_clock : s.progNext.clock = s.clock := s.clock_of_without (c := [.fl]) (by decide) (s.progNext_without (by decide))
theorem State.copyBegin_clock (k : Nat) (fix : Bool) : (s.copyBegin k fix).clock = s.clock := (rfl)
theorem State.recBegin_clock (d : Draft) : (s.recBegin d).clock = s.clock := (rfl)

theorem State.flAbort_clock : s.flAbort.clock = s.clock := by
  cases h : s.uncarry.fl.slotNew <;> simp only [State.flAbort, h] <;> rfl

theorem State.flFail_clock : s.flFail.clock = s.clock := by
  simp only [State.flFail, State.ite_clock, State.flStatus_clock, State.fault44_clock, State.tombWrite_clock, State.set_clock,
    State.setFl_clock, State.flAbort_clock, State.evt_clock, ite_self]

theorem State.retireNow_clock (q : Nat) : (s.retireNow q).clock = s.clock := by
  simp only [State.retireNow, State.failCheck, State.ite_clock, State.flFail_clock, State.occur_clock, State.evt_clock,
    State.inc_clock, State.setFl_clock, ite_self]

theorem State.draftNext_clock (d : Draft) (l : List Draft) : (s.draftNext d l).clock = s.clock := by
  simp only [State.draftNext, State.ite_clock, State.occur_clock, State.progNext_clock, State.recBegin_clock, State.tick_clock,
    State.setFl_clock, ite_self]

theorem State.tidyNext_clock : s.tidyNext.clock = s.clock := by
  unfold State.tidyNext
  split
  · split <;> simp only [State.progNext_clock, State.copyBegin_clock, State.retireNow_clock]
  · dsimp only
    split
    · split <;> simp only [State.ite_clock, State.progNext_clock, State.copyBegin_clock, State.retireNow_clock, State.setFl_clock,
        ite_self]
    · split <;> simp only [State.progNext_clock, State.copyBegin_clock, State.setFl_clock]

theorem State.opNext_clock : s.opNext.clock = s.clock := by
  cases hw : s.fl.wait <;> simp only [State.opNext, hw, State.ite_clock, State.flStatus_clock, State.progNext_clock,
    State.setFl_clock, State.draftNext_clock, State.tidyNext_clock, ite_self]

theorem State.flTurn_clock : s.flTurn.clock = s.clock := by
  rw [State.flTurn, State.opNext_clock, State.setFl_clock]

end

/-! ### The tread that ends -/

section
variable (s : State)

theorem State.portEnd_tm (p : Port) (cv : Nat) : (s.portEnd p cv).tm = s.tm := by
  cases p <;> rfl

theorem State.linkEnd_tm (cvUp cvDn : Nat) : (s.linkEnd cvUp cvDn).tm = s.tm :=
  calc (s.linkEnd cvUp cvDn).tm = ((s.portEnd .up cvUp).portEnd .dn cvDn).tm := State.cond_tm _ _ _
    _ = s.tm := by rw [State.portEnd_tm, State.portEnd_tm]

theorem State.portEnd_pageWords {p : Nat} (h : 0x04 ≠ p) (q : Port) (cv : Nat) : (s.portEnd q cv).pageWords p = s.pageWords p := by
  have hp (t : State) (x : LinkPort) : (t.setPort q x).pageWords p = t.pageWords p := by cases q <;> rfl
  simp only [State.portEnd, hp]
  cases q <;> simp (disch := simpa [Fld.addr, Fld.plus, pstat, linear] using h) only [State.setB_pageWords, State.set_pageWords]

theorem State.ringEval_pageWords {p : Nat} (h : 0x04 ≠ p) : s.ringEval.pageWords p = s.pageWords p := by
  simp (disch := simpa [Fld.addr, linear] using h) only [State.ringEval, State.setB_pageWords, State.cond_pageWords]

theorem State.linkEnd_pageWords {p : Nat} (h : 0x04 ≠ p) (cvUp cvDn : Nat) :
    (s.linkEnd cvUp cvDn).pageWords p = s.pageWords p :=
  calc (s.linkEnd cvUp cvDn).pageWords p = ((s.portEnd .up cvUp).portEnd .dn cvDn).pageWords p := State.ringEval_pageWords _ h
    _ = s.pageWords p := by rw [State.portEnd_pageWords _ h, State.portEnd_pageWords _ h]

theorem State.markEnd_tm : s.markEnd.tm = { s.tm with
    misses := if s.bit TIME.STATUS.STNVALID then (if s.tm.marked then 0 else s.tm.misses + 1) else s.tm.misses } := by
  cases hv : s.bit TIME.STATUS.STNVALID with
  | false => simp only [State.markEnd, hv, if_true]; rfl
  | true => cases hm : s.tm.marked <;> simp [State.markEnd, hv, hm]

theorem State.markEnd_ptvalid : s.markEnd.bit TIME.STATUS.PTVALID = s.bit TIME.STATUS.PTVALID := by
  have hold (u : State) : ((u.setB TIME.STATUS.LOCK false).inc TIME.HOLDCNT).bit TIME.STATUS.PTVALID = u.bit TIME.STATUS.PTVALID :=
    (State.bit_set_ne _ _ _ _ rfl rfl).trans (State.bit_set_ne _ _ _ _ rfl rfl)
  unfold State.markEnd
  split
  · rfl
  · split
    · rfl
    · exact hold _

/-! ### The tread that begins -/

theorem adjustOf_eq (left : Int) : adjustOf left = max (-2) (min 2 ((left + 128) / 256)) := by
  unfold adjustOf clampI
  split_ifs <;> omega

/-- Plant time's second and millisecond of the tread that begins (R47). -/
def Time.nextSec (t : Time) : Nat := if t.ptMs = 999 then (t.ptSec + 1) % 4294967296 else t.ptSec
def Time.nextMs (t : Time) : Nat := if t.ptMs = 999 then 0 else t.ptMs + 1

theorem Time.ptStep_eq (t : Time) : t.ptStep = { t with ptSec := t.nextSec, ptMs := t.nextMs } := by
  unfold Time.ptStep Time.nextSec Time.nextMs
  split <;> rfl

/-- The counters of the tread that begins, plant time aside (R34, R38, R44). -/
def Time.ticked (t : Time) : Time :=
  { t with tread := t.tread + 1, ltc := (t.ltc + 1) % 281474976710656, stn := (t.stn + 1) % 4294967296, marked := false, noSnap := false,
           idle := false, slipped := false, phaseLeft := t.phaseLeft - 256 * t.adjust, adjust := adjustOf (t.phaseLeft - 256 * t.adjust) }

theorem State.clockTick_tm (h : 0 < s.tm.tread) : s.clockTick.tm =
    if s.bit TIME.STATUS.PTVALID then s.tm.ticked.ptStep.ptMark else s.tm.ticked := by
  simp only [State.clockTick, if_neg h.ne', apply_ite State.tm, State.setB_tm, ite_self]
  rfl

theorem State.treadStart_clock (cvUp cvDn : Nat) :
    (s.treadStart cvUp cvDn).clock = (s.linkEnd cvUp cvDn).markEnd.clockTick.clock := by
  rw [State.treadStart, State.flTurn_clock]
  rfl

/-- The counters of time after master clock 0, but for the instant kept of plant time. -/
theorem State.treadStart_counts (cvUp cvDn : Nat) (h : 0 < s.tm.tread) : ∃ pt0, (s.treadStart cvUp cvDn).clock =
    { s.tm.ticked with
      misses := if s.bit TIME.STATUS.STNVALID then (if s.tm.marked then 0 else s.tm.misses + 1) else s.tm.misses
      ptSec := if s.bit TIME.STATUS.PTVALID then s.tm.nextSec else s.tm.ptSec
      ptMs := if s.bit TIME.STATUS.PTVALID then s.tm.nextMs else s.tm.ptMs
      pt0 := pt0, stepMark := false } := by
  have hpage := s.linkEnd_pageWords (p := 3) (by decide) cvUp cvDn
  have hend : (s.linkEnd cvUp cvDn).markEnd.tm = { s.tm with
      misses := if s.bit TIME.STATUS.STNVALID then (if s.tm.marked then 0 else s.tm.misses + 1) else s.tm.misses } := by
    rw [State.markEnd_tm, State.linkEnd_tm, State.bit_of_pageWords hpage rfl]
  have hvalid : (s.linkEnd cvUp cvDn).markEnd.bit TIME.STATUS.PTVALID = s.bit TIME.STATUS.PTVALID := by
    rw [State.markEnd_ptvalid, State.bit_of_pageWords hpage rfl]
  have htm := (s.linkEnd cvUp cvDn).markEnd.clockTick_tm (by rw [hend]; exact h)
  rw [hvalid, hend, Time.ptStep_eq] at htm
  rw [State.treadStart_clock, State.clock, htm]
  cases s.bit TIME.STATUS.PTVALID
  · exact ⟨_, rfl⟩
  · exact ⟨_, rfl⟩

end

/-- The parts that master clock 0 of a tread acts on. -/
def treadParts : List Part :=
  [.held, .tm, .cells, .curr, .cal, .bal, .xact, .aux, .imp, .diag, .safe, .ban, .col, .link, .gal, .cfg, .fl, .tip, .vault]

theorem exec_treadStart_eq (s : State) (cvUp cvDn : Nat) :
    exec (.treadStart cvUp cvDn) s = whenActive treadParts s fun s => s.treadStart cvUp cvDn := (rfl)

/-- Settles O16: only the end of the ended tread's marks (`State.markEnd`) and the tick (`State.clockTick`) touch the counters; the
boundary restores them after every engine, and the flash's turn at its end moves the mark of a step alone (`State.flTurn_clock`). -/
theorem treadCounters : Obligations.TreadCounters := by
  intro s cvUp cvDn hact h
  obtain ⟨pt0, hclock⟩ := s.treadStart_counts cvUp cvDn h
  have hleft : (s.treadStart cvUp cvDn).tm.phaseLeft = s.tm.phaseLeft - 256 * s.tm.adjust := congrArg Time.phaseLeft hclock
  have hsec : (s.treadStart cvUp cvDn).tm.ptSec = if s.bit TIME.STATUS.PTVALID then s.tm.nextSec else s.tm.ptSec :=
    congrArg Time.ptSec hclock
  have hms : (s.treadStart cvUp cvDn).tm.ptMs = if s.bit TIME.STATUS.PTVALID then s.tm.nextMs else s.tm.ptMs :=
    congrArg Time.ptMs hclock
  refine ⟨_, (exec_treadStart_eq s cvUp cvDn).trans (whenActive_active _ s _ hact), ?_⟩
  rw [State.only_tm _ _ (by decide)]
  refine ⟨congrArg Time.tread hclock, congrArg Time.ltc hclock, congrArg Time.stn hclock, congrArg Time.marked hclock,
    congrArg Time.misses hclock, hleft, ?_, fun hv => ?_, fun hv hlt => ?_, fun hv hlast => ?_⟩
  · rw [hleft, ← adjustOf_eq]
    exact congrArg Time.adjust hclock
  · simp [hsec, hms, hv]
  · simp [hsec, hms, hv, Time.nextSec, Time.nextMs, hlt.ne]
  · simp [hsec, hms, hv, Time.nextSec, Time.nextMs, hlast]

end Sys2Proof.Machine
end

