-- ==== Sys2Proof/Proofs/VaultBound.lean ====
section
/-! SUPPORT. The vault bound of the LTC (R40, R41) and plant time taking effect (R48). -/
namespace Sys2Proof.Machine

/-! ### The vault bound -/

/-- A bound waits for its ring write: the LTC is resumed and the bound differs from the last one written (R40). -/
def State.boundDue (s : State) : Bool := s.bit SYS.STATUS.LTCRES && decide (s.ltcBound ≠ s.tm.hiWritten)

theorem exec_ltchiWrite_eq (s : State) (ok : Bool) : exec (.ltchiWrite ok) s =
    whenActive [.tm, .vault] s fun s => s.when s.boundDue fun s =>
      if ok then s.ringWrite s.ltcBound s.vault.closed else s.ringRetire 1 := (rfl)

section
variable {s : State}

theorem State.boundDue_of_ne (hres : s.bit SYS.STATUS.LTCRES = true) (hne : s.tm.ltc / 16777216 + 1 ≠ s.tm.hiWritten) :
    s.boundDue = true := by
  rw [State.boundDue, hres, State.ltcBound, decide_eq_true hne]
  rfl

theorem State.boundDue_of_eq (h : s.tm.ltc / 16777216 + 1 = s.tm.hiWritten) : s.boundDue = false := by
  simp [State.boundDue, State.ltcBound, h]

/-- A verified write, taken apart: the vault, the bound noted with the counters of time, and the wear bit. -/
theorem State.ringWrite_eq (h : s.vault.ringBad < 128) (hi : Nat) (closed : Bool) : ∃ worn, s.ringWrite hi closed =
    ({ ({ s with vault := { s.vault with ltchi := hi, closed := closed, ringWrites := s.vault.ringWrites + 1 } } : State) with
      tm := { s.tm with hiWritten := hi } }).setB TIME.STATUS.VLTWORN worn :=
  ⟨_, by rw [State.ringWrite, if_neg (by omega)]⟩

/-- A verified write where an entry is left. -/
theorem State.ringWrite_left (h : s.vault.ringBad < 128) (hi : Nat) (closed : Bool) :
    (s.ringWrite hi closed).vault = { s.vault with ltchi := hi, closed := closed, ringWrites := s.vault.ringWrites + 1 } ∧
    (s.ringWrite hi closed).tm = { s.tm with hiWritten := hi } := by
  obtain ⟨worn, heq⟩ := State.ringWrite_eq h hi closed
  rw [heq]
  exact ⟨rfl, rfl⟩

theorem State.ringWrite_without (h : s.vault.ringBad < 128) (hi : Nat) (closed : Bool) :
    (s.ringWrite hi closed).without [.tm, .vault] = s.without [.tm, .vault] := by
  obtain ⟨worn, heq⟩ := State.ringWrite_eq h hi closed
  rw [heq]
  exact (State.setB_without _ _ _ _).trans
    ((State.withTm_without _ (by decide) _).trans (State.withVault_without s (by decide) _ rfl))

theorem State.ringRetire_without (n : Nat) : (s.ringRetire n).without [.tm, .vault] = s.without [.tm, .vault] := by
  rw [State.ringRetire, State.setB_without]
  exact State.withVault_without s (by decide) _ rfl

theorem exec_ltchiWrite_verified (hact : s.pw.phase = .active) (hdue : s.boundDue = true) (hleft : s.vault.ringBad < 128) :
    exec (.ltchiWrite true) s = .next (s.ringWrite s.ltcBound s.vault.closed) := by
  rw [exec_ltchiWrite_eq]
  simp only [if_true]
  exact whenActive_when_true hact hdue (State.ringWrite_without hleft _ _)

theorem exec_ltchiWrite_failed (hact : s.pw.phase = .active) (hdue : s.boundDue = true) :
    exec (.ltchiWrite false) s = .next (s.ringRetire 1) := by
  rw [exec_ltchiWrite_eq]
  simp only [Bool.false_eq_true, if_false]
  exact whenActive_when_true hact hdue (State.ringRetire_without 1)

end

/-! ### Plant time taking effect -/

/-- A step of valid plant time counts, and one back by more than a second is an event (R48, R49). -/
def State.ptStepped (s : State) : State :=
  let step := ptTotal (s.get2 TIME.PEND0) (s.get TIME.PEND2) - ptTotal s.tm.ptSec s.tm.ptMs
  let valid := s.bit TIME.STATUS.PTVALID
  let s := if valid && decide (step ≠ 0) then
      (s.inc TIME.STEPCNT).set TIME.LASTSTEP (twos 16 (clampI (-32767) 32767 (step.tdiv 1000))) else s
  if valid && decide (step < -1000) then s.evt TIME.EVT.PTBACK else s

section
variable (s : State)

theorem State.ptStepped_tm : s.ptStepped.tm = s.tm := by
  simp only [State.ptStepped, apply_ite State.tm, State.evt_tm, State.set_tm, State.inc_tm, ite_self]

theorem State.ptStepped_without (c : List Part) : s.ptStepped.without c = s.without c := by
  simp only [State.ptStepped, State.ite_without, State.evt_without, State.set_without, State.inc_without, ite_self]

/-- The registers as a pending set takes effect. -/
def State.ptShown (s : State) : State := ((s.ptStepped.setB TIME.STATUS.PTPEND false).setB TIME.STATUS.PTVALID true).evt TIME.EVT.PTSET

theorem State.ptShown_bits : s.ptShown.bit TIME.STATUS.PTVALID = true ∧ s.ptShown.bit TIME.STATUS.PTPEND = false ∧
    s.ptShown.bit TIME.EVT.PTSET = true := by
  refine ⟨?_, ?_, State.bit_evt _ _ _ _ (by decide)⟩
  · exact (State.bit_set_ne _ _ _ _ rfl rfl).trans (State.bit_setB _ _ _ _ _ (by decide))
  · exact (State.bit_set_ne _ _ _ _ rfl rfl).trans ((State.bit_set_ne _ _ _ _ rfl rfl).trans (State.bit_setB _ _ _ _ _ (by decide)))

theorem State.ptApply_eq : ∃ back, s.ptApply =
    { s.ptShown with tm := { s.tm with ptSec := s.get2 TIME.PEND0, ptMs := s.get TIME.PEND2, stepMark := back } } := by
  refine ⟨s.ptApply.tm.stepMark, ?_⟩
  have htm : s.ptShown.tm = s.tm := s.ptStepped_tm
  rw [← htm]
  rfl

end

theorem exec_plantTimeApply_eq (s : State) : exec .plantTimeApply s =
    whenActive [.tm] s fun s => s.when s.ptDue fun s => { s.ptApply with tm := s.ptApply.tm.ptMark } := (rfl)

/-- A due set leaves the registers of `State.ptShown` and, of the counters of time, moves plant time and its marks. -/
theorem exec_plantTimeApply {s : State} (hact : s.pw.phase = .active) (hdue : s.ptDue = true) : ∃ back,
    exec .plantTimeApply s = .next { s.ptShown with
      tm := Time.ptMark { s.tm with ptSec := s.get2 TIME.PEND0, ptMs := s.get TIME.PEND2, stepMark := back } } := by
  obtain ⟨back, happly⟩ := s.ptApply_eq
  refine ⟨back, ?_⟩
  rw [exec_plantTimeApply_eq, whenActive_when_true hact hdue, happly]
  rw [happly, State.withTm_without _ (by decide), State.withTm_without _ (by decide), State.ptShown]
  simp only [State.evt_without, State.setB_without, State.ptStepped_without]

/-- Settles O19: a due bound goes into the ring or retires an entry (`State.ringWrite`, `State.ringRetire`), one that is not due leaves
everything as it is, and a due plant time is what `State.ptApply` sets. -/
theorem vaultBoundAndPlantTime : Obligations.VaultBoundAndPlantTime := by
  refine ⟨fun s hact hres hne hleft => ?_, fun s hact hres hne => ?_, fun s ok hact heq => ?_, fun s hact hdue => ?_⟩
  · obtain ⟨hvault, htm⟩ := State.ringWrite_left hleft s.ltcBound s.vault.closed
    refine ⟨_, exec_ltchiWrite_verified hact (State.boundDue_of_ne hres hne) hleft, ?_⟩
    rw [hvault, htm]
    exact ⟨rfl, rfl, rfl, rfl, rfl⟩
  · exact exec_ltchiWrite_failed hact (State.boundDue_of_ne hres hne)
  · exact (exec_ltchiWrite_eq s ok).trans (whenActive_when_false hact (State.boundDue_of_eq heq))
  · obtain ⟨back, hexec⟩ := exec_plantTimeApply hact hdue
    refine ⟨_, hexec, rfl, rfl, ?_⟩
    simp only [State.withTm_bit, s.ptShown_bits]
    exact ⟨trivial, trivial, trivial, rfl, rfl, rfl⟩

end Sys2Proof.Machine
end

