-- ==== Sys2Proof/Proofs/SetupCommands.lean ====
section
/-! SUPPORT. The commands of the stair's set-up (R46, R348, R349, R376): a command that arrives in order is executed. -/
namespace Sys2Proof.Machine

/-! ### Values of two words -/

section
variable (s : State) {f g : Fld} (v : Nat)

theorem State.get2_set_ne (h : f.ok = true) (hg : f.apart g = true) (hg' : f.apart (g.plus 1) = true) :
    (s.set f v).get2 g = s.get2 g := by
  rw [State.get2, State.get2, State.get_set_ne _ _ _ _ h hg, State.get_set_ne _ _ _ _ h hg']

theorem State.get_set2_ne (h : f.ok = true) (hg : f.apart g = true) (hg' : (f.plus 1).apart g = true) :
    (s.set2 f v).get g = s.get g := by
  rw [State.set2, State.get_set_ne _ (f.plus 1) _ _ h hg', State.get_set_ne _ _ _ _ h hg]

/-- A value of two whole words reads as it was stored (R6). -/
theorem State.get2_set2 (hlo : f.lo = 0) (hw : f.w = 16) (hv : v < 2 ^ 32) : (s.set2 f v).get2 f = v := by
  have hok : f.ok = true := by simp [Fld.ok, hlo, hw]
  have hne : (f.plus 1).apart f = true := by simp [Fld.apart, Fld.addr, Fld.plus, linear]
  have hlow : (s.set2 f v).get f = v % 2 ^ 16 := by
    rw [State.set2, State.get_set_ne _ (f.plus 1) _ _ hok hne, State.get_set _ _ _ hok, hw]
  have hhigh : (s.set2 f v).get (f.plus 1) = v / 65536 % 2 ^ 16 := by
    rw [State.set2, State.get_set _ (f.plus 1) _ hok, Fld.plus, hw]
  rw [State.get2, hlow, hhigh]
  omega

end

theorem Cmd.dat_lt (c : Cmd) (i : Nat) : Cmd.dat c i < 65536 := BitVec.isLt _

theorem Cmd.dat2_lt (c : Cmd) (i : Nat) : Cmd.dat2 c i < 2 ^ 32 := by
  have hlow := Cmd.dat_lt c i
  have hhigh := Cmd.dat_lt c (i + 1)
  unfold Cmd.dat2
  omega

/-! ### A command that is executed (R347, R348, R357, R359) -/

section
variable {s : State} {op : Nat} {c : Cmd}

theorem Cmd.badArg_of_status (h : s.cmdStatus op c = 0) : Cmd.badArg c op = false := by
  unfold State.cmdStatus at h
  split_ifs at h
  all_goals exact Bool.eq_false_iff.mpr ‹¬ Cmd.badArg c op = true›

/-- A command slot that goes on is executed or rejected by its status. -/
theorem State.command_of_arrives (harr : s.arrives op c) (n : Nat) (ans : Bool) (run : State → State × List Byte) :
    s.command op c n ans run = s.perform op c (s.cmdStatus op c) n ans run := by
  obtain ⟨hup, hfr, haddr, hcrc, hver, hnew⟩ := harr
  have hfind : (s.cache c.port).find? (fun e => e.tid == c.tid.toNat) = none :=
    List.find?_eq_none.mpr fun e he => by simpa using hnew e he
  have h1 : ¬ (s.linkUp c.port = false ∨ s.framed c.port = false ∨ Cmd.addressed c op = false) := by simp [hup, hfr, haddr]
  have h2 : ¬ (c.crcOk = false ∨ c.ver ≠ 1#4) := by simp [hcrc, hver]
  simp only [State.command, if_neg h1, if_neg h2, hfind]

theorem State.respond_regs (p : Port) (l : List Byte) : (s.respond p l).regs = s.regs := (rfl)
theorem State.enter_regs (p : Port) (e : CacheEnt) : (s.enter p e).regs = s.regs := by cases p <;> rfl

/-- Execution with room for the answer writes the registers of the command's effect and one more in CMDCNT. -/
theorem State.perform_regs {n : Nat} (hroom : s.qRoom 3 (8 + n) = true) (ans : Bool) (run : State → State × List Byte) :
    (s.perform op c 0 n ans run).regs = ((run s).1.inc XACT.CMDCNT).regs := by
  simp only [State.perform, hroom, if_true, Bool.not_true, Bool.and_false, Bool.false_eq_true, if_false, apply_ite State.regs,
    State.enter_regs, State.respond_regs, ite_self]

/-- A command of the part xact that is executed: the registers are those of its effect, with one more in CMDCNT. -/
theorem exec_command {n : Nat} {ans : Bool} {run : State → State × List Byte} (hact : s.pw.phase = .active) (harr : s.arrives op c)
    (hst : s.cmdStatus op c = 0) (hroom : s.qRoom 3 (8 + n) = true) :
    ∃ t, whenActive [.xact] s (fun s => s.command op c n ans run) = .next t ∧ t.regs = ((run s).1.inc XACT.CMDCNT).regs ∧
      t.tm = s.tm ∧ t.link = s.link := by
  refine ⟨_, whenActive_active _ s _ hact, ?_, rfl, rfl⟩
  rw [State.only_regs, State.command_of_arrives harr, hst, State.perform_regs hroom]

end

/-- A field of the state after an executed command, beside the count of commands. -/
theorem State.get_of_executed {t u : State} {f : Fld} (h : t.regs = (u.inc XACT.CMDCNT).regs)
    (hf : Fld.apart XACT.CMDCNT f = true) : t.get f = u.get f := by
  have hreg : t.get f = (u.inc XACT.CMDCNT).get f := by simp only [State.get, State.reg, h]
  rw [hreg, State.inc, State.get_set_ne _ _ _ _ rfl hf]

theorem State.bit_of_executed {t u : State} {f : Fld} (h : t.regs = (u.inc XACT.CMDCNT).regs)
    (hf : Fld.apart XACT.CMDCNT f = true) : t.bit f = u.bit f := by
  rw [State.bit, State.bit, State.get_of_executed h hf]

theorem State.get2_of_executed {t u : State} {f : Fld} (h : t.regs = (u.inc XACT.CMDCNT).regs)
    (hf : Fld.apart XACT.CMDCNT f = true) (hf' : Fld.apart XACT.CMDCNT (f.plus 1) = true) : t.get2 f = u.get2 f := by
  rw [State.get2, State.get2, State.get_of_executed h hf, State.get_of_executed h hf']

/-! ### COUNT-OFF (R349) -/

/-- The position register of a port. -/
def posFld : Port → Fld
  | .up => XACT.POSUP
  | .dn => XACT.POSDN

/-- The valid bit of a port's position. -/
def posValid : Port → Fld
  | .up => XACT.STATUS.POSUPV
  | .dn => XACT.STATUS.POSDNV

/-- The registers of page 0x05 after a COUNT-OFF. -/
def State.countedOff (s : State) (c : Cmd) : State :=
  let s := (s.set (posFld c.port) (Cmd.position c + 32768)).setB (posValid c.port) true
  (if Cmd.dat c 0 = 0 then s else (s.set XACT.STAIRLEN (Cmd.dat c 0 + 32768)).setB XACT.STATUS.LENV true).evt XACT.EVT.COUNTOFF

section
variable (s : State) (c : Cmd)

theorem State.runCountOff_eq : (s.runCountOff c).1 = (s.countedOff c).planEval.currStatus := by
  rw [State.runCountOff, State.countedOff]
  cases c.port <;> rfl

theorem State.runCountOff_page : (s.runCountOff c).1.pageWords 5 = (s.countedOff c).pageWords 5 := by
  rw [State.runCountOff_eq, State.currStatus_pageWords _ (by decide) (by decide), State.planEval_pageWords _ (by decide)]

theorem State.countedOff_event : (s.countedOff c).bit XACT.EVT.COUNTOFF = true := State.bit_evt _ _ _ _ (by decide)

theorem State.countedOff_pos : (s.countedOff c).get (posFld c.port) = Cmd.position c + 32768 := by
  have hpos : Cmd.position c < 256 := Nat.mod_lt _ (by decide)
  have hset : ((s.set (posFld c.port) (Cmd.position c + 32768)).setB (posValid c.port) true).get (posFld c.port) =
      Cmd.position c + 32768 := by
    cases c.port <;>
      exact (State.get_set_ne _ _ _ _ rfl rfl).trans ((State.get_set _ _ _ rfl).trans (Nat.mod_eq_of_lt (show _ < 2 ^ 16 by omega)))
  have hlen (u : State) : ((u.set XACT.STAIRLEN (Cmd.dat c 0 + 32768)).setB XACT.STATUS.LENV true).get (posFld c.port) =
      u.get (posFld c.port) := by
    cases c.port <;> exact (State.get_set_ne _ _ _ _ rfl rfl).trans (State.get_set_ne _ _ _ _ rfl rfl)
  have hev (u : State) : (u.evt XACT.EVT.COUNTOFF).get (posFld c.port) = u.get (posFld c.port) := by
    cases c.port <;> exact State.get_set_ne _ _ _ _ rfl rfl
  rw [State.countedOff, hev, apply_ite (fun u : State => u.get (posFld c.port)), hlen, hset, ite_self]

theorem State.countedOff_len_kept (h : Cmd.dat c 0 = 0) : (s.countedOff c).get XACT.STAIRLEN = s.get XACT.STAIRLEN := by
  rw [State.countedOff, if_pos h, State.evt, State.get_set_ne _ _ _ _ rfl rfl]
  cases c.port <;> exact (State.get_set_ne _ _ _ _ rfl rfl).trans (State.get_set_ne _ _ _ _ rfl rfl)

theorem State.countedOff_len (h : Cmd.dat c 0 ≠ 0) (hle : Cmd.dat c 0 ≤ 256) :
    (s.countedOff c).get XACT.STAIRLEN = Cmd.dat c 0 + 32768 ∧ (s.countedOff c).bit XACT.STATUS.LENV = true := by
  rw [State.countedOff, if_neg h, State.evt]
  constructor
  · rw [State.get_set_ne _ _ _ _ rfl rfl, State.setB, State.get_set_ne _ _ _ _ rfl rfl, State.get_set _ _ _ rfl]
    exact Nat.mod_eq_of_lt (show _ < 2 ^ 16 by omega)
  · rw [State.bit_set_ne _ _ _ _ rfl rfl]
    exact State.bit_setB _ _ _ _ _ (by decide)

end

theorem countOff_executed {s : State} {c : Cmd} (hact : s.pw.phase = .active) (harr : s.arrives 5 c) (hst : s.cmdStatus 5 c = 0)
    (hroom : s.qRoom 3 22 = true) : ∃ t, exec (.countOff c) s = .next t ∧ t.bit XACT.EVT.COUNTOFF = true ∧
    t.get (posFld c.port) = Cmd.position c + 32768 ∧
    (Cmd.dat c 0 = 0 → t.get XACT.STAIRLEN = s.get XACT.STAIRLEN) ∧
    (Cmd.dat c 0 ≠ 0 → t.get XACT.STAIRLEN = Cmd.dat c 0 + 32768 ∧ t.bit XACT.STATUS.LENV = true) := by
  obtain ⟨t, ht, hregs, -, -⟩ := exec_command (n := 14) (ans := Cmd.dat c 0 == 0) (run := fun s => s.runCountOff c) hact harr hst hroom
  have hpage := s.runCountOff_page c
  have hget {f : Fld} (hf : f.addr / 64 = 5) (hne : Fld.apart XACT.CMDCNT f = true) : t.get f = (s.countedOff c).get f :=
    (State.get_of_executed hregs hne).trans (State.get_of_pageWords hpage hf)
  have hbit {f : Fld} (hf : f.addr / 64 = 5) (hne : Fld.apart XACT.CMDCNT f = true) : t.bit f = (s.countedOff c).bit f :=
    (State.bit_of_executed hregs hne).trans (State.bit_of_pageWords hpage hf)
  have hpos : (posFld c.port).addr / 64 = 5 ∧ Fld.apart XACT.CMDCNT (posFld c.port) = true := by cases c.port <;> exact ⟨rfl, rfl⟩
  have hle : Cmd.dat c 0 ≤ 256 := by simpa [Cmd.badArg] using Cmd.badArg_of_status hst
  refine ⟨t, ht, (hbit rfl rfl).trans (s.countedOff_event c), (hget hpos.1 hpos.2).trans (s.countedOff_pos c), fun h => ?_, fun h => ?_⟩
  · exact (hget rfl rfl).trans (s.countedOff_len_kept c h)
  · obtain ⟨hlen, hvalid⟩ := s.countedOff_len c h hle
    exact ⟨(hget rfl rfl).trans hlen, (hbit rfl rfl).trans hvalid⟩

/-! ### RATE-SET (R376) and PLANT-TIME (R46, R48) -/

theorem State.runRateSet_shows (s : State) (c : Cmd) : (s.runRateSet c).1.bit XACT.STATUS.RSARMED = true ∧
    (s.runRateSet c).1.get XACT.RSARM = Cmd.dat c 0 % 8 + 8 ∧ (s.runRateSet c).1.get2 XACT.RSTN0 = Cmd.dat2 c 1 := by
  refine ⟨State.bit_setB _ _ _ _ _ (by decide), ?_, ?_⟩
  · rw [State.runRateSet, State.setB, State.get_set_ne _ _ _ _ rfl rfl, State.get_set2_ne _ _ rfl rfl rfl, State.get_set _ _ _ rfl]
    exact Nat.mod_eq_of_lt (show _ < 2 ^ 16 by omega)
  · rw [State.runRateSet, State.setB, State.get2_set_ne _ _ rfl rfl rfl]
    exact State.get2_set2 _ _ rfl rfl (Cmd.dat2_lt c 1)

theorem State.runPlantTime_shows (s : State) (c : Cmd) : (s.runPlantTime c).1.bit TIME.STATUS.PTPEND = true ∧
    (s.runPlantTime c).1.get2 TIME.PEND0 = Cmd.dat2 c 0 ∧ (s.runPlantTime c).1.get (TIME.PEND0.plus 2) = Cmd.dat c 2 ∧
    (s.runPlantTime c).1.get2 TIME.PENDT0 = Cmd.dat2 c 3 := by
  refine ⟨State.bit_setB _ _ _ _ _ (by decide), ?_, ?_, ?_⟩
  · rw [State.runPlantTime, State.setB, State.get2_set_ne _ _ rfl rfl rfl, State.get2, State.get_set2_ne _ _ rfl rfl rfl,
      State.get_set2_ne _ _ rfl rfl rfl, ← State.get2, State.get2_set_ne _ _ rfl rfl rfl]
    exact State.get2_set2 _ _ rfl rfl (Cmd.dat2_lt c 0)
  · rw [State.runPlantTime, State.setB, State.get_set_ne _ _ _ _ rfl rfl, State.get_set2_ne _ _ rfl rfl rfl, State.get_set _ _ _ rfl]
    exact Nat.mod_eq_of_lt (Cmd.dat_lt c 2)
  · rw [State.runPlantTime, State.setB, State.get2_set_ne _ _ rfl rfl rfl]
    exact State.get2_set2 _ _ rfl rfl (Cmd.dat2_lt c 3)

theorem exec_stairidWrite_eq (s : State) (v : Word) : exec (.stairidWrite v) s = whenActive [] s fun s => s.stairId v := (rfl)
theorem exec_clrcache_eq (s : State) : exec .clrcache s = whenActive [.xact] s State.clearCaches := (rfl)

/-- Settles O50: a command that arrives with status 0 and room for its answer is executed (`exec_command`); its registers are those of
its effect, and the rest of the engine that COUNT-OFF wakes writes other pages. -/
theorem setupCommands : Obligations.SetupCommands := by
  refine ⟨fun s c hact harr hst hroom => countOff_executed hact harr hst hroom, fun s c hact harr hst hroom => ?_,
    fun s c hact harr hst hroom => ?_, fun s v hact => ?_,
    fun s hact => ?_⟩
  · obtain ⟨t, ht, hregs, -, hlink⟩ := exec_command (n := 10) (ans := true) (run := fun s => s.runRateSet c) hact harr hst hroom
    obtain ⟨harmed, hrate, htread⟩ := s.runRateSet_shows c
    exact ⟨t, ht, (State.bit_of_executed hregs rfl).trans harmed, (State.get_of_executed hregs rfl).trans hrate,
      (State.get2_of_executed hregs rfl rfl).trans htread, hlink⟩
  · obtain ⟨t, ht, hregs, htm, -⟩ := exec_command (n := 0) (ans := true) (run := fun s => s.runPlantTime c) hact harr hst hroom
    obtain ⟨hpend, hsec, hms, htread⟩ := s.runPlantTime_shows c
    exact ⟨t, ht, (State.bit_of_executed hregs rfl).trans hpend, (State.get2_of_executed hregs rfl rfl).trans hsec,
      (State.get_of_executed hregs rfl).trans hms, (State.get2_of_executed hregs rfl rfl).trans htread, htm⟩
  · exact (exec_stairidWrite_eq s v).trans (whenActive_next hact (s.stairId_without v))
  · exact (exec_clrcache_eq s).trans (whenActive_next hact (State.withXact_without s (by decide) _))

end Sys2Proof.Machine
end

