-- ==== Sys2Proof/Proofs/Resets.lean ====
section
/-! SUPPORT. What a reset clears and what it leaves (R66, R67), and how a command that ends ACTIVE ends (R66, R69, R71). -/
namespace Sys2Proof.Machine

/-! ### What a reset clears -/

/-- What a reset clears says nothing of power, vault, free values and queue, nor of the always-on words. -/
theorem State.Cleared.carry {s : State} (h : s.Cleared) {r : SMap Word} (hr : ∀ a, alwaysOn a = false → mapGet resetWord r a = s.reg a)
    (n : Nat) (p : Power) (v : Vault) (q : List Instr) :
    ({ s with regs := r, free := n, pw := p, vault := v, pending := q } : State).Cleared :=
  { h with words := fun a ha => (hr a ha).trans (h.words a ha) }

theorem State.Cleared.withPw {s : State} (h : s.Cleared) (p : Power) : ({ s with pw := p } : State).Cleared :=
  h.carry (fun _ _ => rfl) _ p _ _

theorem State.Cleared.withPending {s : State} (h : s.Cleared) (q : List Instr) : ({ s with pending := q } : State).Cleared :=
  h.carry (fun _ _ => rfl) _ _ _ q

theorem State.Cleared.keep {t : State} (h : t.Cleared) (s : State) : (s.keep t).Cleared := h.carry (fun _ _ => rfl) _ _ _ _

theorem State.Cleared.setReg {s : State} (h : s.Cleared) {a : Nat} (ha : alwaysOn a = true) (w : Word) : (s.setReg a w).Cleared :=
  h.carry (fun b hb => s.reg_setReg_ne a b w (fun e => by rw [e, ha] at hb; cases hb)) _ _ _ _

/-- Any state with the vault, the flash's content and the power state of its own, and all else as right after a power-on reset. -/
theorem State.reset_cleared (p : Power) (v : Vault) (f : Flash) (n : Nat) (q : List Instr) :
    ({ State.reset with pw := p, vault := v, fl := f.kept, free := n, pending := q } : State).Cleared :=
  ⟨fun _ _ => rfl, ⟨rfl, rfl, rfl⟩, rfl, rfl, rfl, rfl, rfl, rfl, rfl, rfl, rfl, rfl, rfl, rfl, rfl, rfl, rfl, rfl, rfl, rfl, rfl⟩

/-! ### The state after a reset -/

section
variable (s : State) (c : Nat)

theorem State.afterReset_cleared (por : Bool) : (s.afterReset por c).Cleared := by
  cases por with
  | true => exact State.reset_cleared _ _ _ _ _
  | false => exact ((((State.reset_cleared _ _ _ _ _).setReg rfl _).setReg rfl _).setReg rfl _).setReg rfl _

/-- A power-on reset clears the always-on words too. -/
theorem State.afterReset_por_reg (a : Nat) : (s.afterReset true c).reg a = resetWord a := (rfl)

/-- Any other reset leaves them (R66). -/
theorem State.afterReset_alwaysOn {a : Nat} (ha : alwaysOn a = true) : (s.afterReset false c).reg a = s.reg a := by
  simp only [alwaysOn, Bool.or_eq_true, beq_iff_eq] at ha
  rcases ha with ((rfl | rfl) | rfl) | rfl
  all_goals simp [State.afterReset, State.reg_setReg, Fld.addr, linear]

@[simp] theorem State.afterReset_phase (por : Bool) : (s.afterReset por c).pw.phase = .off := by cases por <;> rfl
@[simp] theorem State.afterReset_leave (por : Bool) : (s.afterReset por c).pw.leave = none := by cases por <;> rfl
@[simp] theorem State.afterReset_causes : (s.afterReset false c).pw.causes = s.pw.causes ||| c := (rfl)
@[simp] theorem State.afterReset_rstnLow (por : Bool) : (s.afterReset por c).pw.rstnLow = s.pw.rstnLow := by cases por <;> rfl
@[simp] theorem State.afterReset_thermHold (por : Bool) : (s.afterReset por c).pw.thermHold = s.pw.thermHold := by cases por <;> rfl
@[simp] theorem State.afterReset_vault (por : Bool) : (s.afterReset por c).vault = s.vault := by cases por <;> rfl
@[simp] theorem State.afterReset_fl (por : Bool) : (s.afterReset por c).fl = s.fl.kept := by cases por <;> rfl

end

/-! ### The end of a command that leaves ACTIVE -/

section
variable (s : State)

theorem State.left_reset (c : Nat) : s.left (.reset c) = s.afterReset false c := (rfl)

/-- With no wake present the device stays asleep (R69). -/
theorem State.left_asleep : s.left (.sleep 0) =
    { s.afterReset false 0 with pw := { (s.afterReset false 0).pw with phase := .sleep } } := (rfl)

/-- A wake present starts the device again at once (R71). -/
theorem State.left_woken {b : Nat} (h : b ≠ 0) : s.left (.sleep b) = { s.afterReset false 0 with
    pw := { (s.afterReset false 0).pw with causes := (s.afterReset false 0).pw.causes ||| b ||| 256, woken := true, wakeHeld := true } } :=
  if_neg h

/-- However ACTIVE ends, it ends in a reset; only the power state differs. -/
theorem State.left_resets (l : Leave) : ∃ (c : Nat) (p : Power), s.left l = { s.afterReset false c with pw := p } ∧ p.leave = none := by
  cases l with
  | reset c => exact ⟨c, _, s.left_reset c, s.afterReset_leave c false⟩
  | sleep b =>
    by_cases h : b = 0
    · subst h
      exact ⟨0, _, s.left_asleep, s.afterReset_leave 0 false⟩
    · exact ⟨0, _, s.left_woken h, s.afterReset_leave 0 false⟩

theorem State.left_cleared (l : Leave) : (s.left l).Cleared := by
  obtain ⟨c, p, heq, -⟩ := s.left_resets l
  exact heq ▸ (s.afterReset_cleared c false).withPw p

theorem State.left_leave (l : Leave) : (s.left l).pw.leave = none := by
  obtain ⟨c, p, heq, hp⟩ := s.left_resets l
  rw [heq, hp]

end

/-- Settles O5: the power-on state names the reset value of every part. -/
theorem coldAtReset : Obligations.ColdAtReset :=
  ⟨fun _ => State.reset_cleared _ _ default _ _, rfl, rfl, rfl, fun _ => rfl⟩

theorem State.powered_ne_off {s : State} (h : s.powered = true) : s.pw.phase ≠ .off ∧ s.pw.phase ≠ .sleep := by
  unfold State.powered at h
  constructor <;> intro hp <;> simp [hp] at h

theorem execPinReset_powered {s : State} (h : s.powered = true) :
    exec .pinReset s = .next (({ s with pw := { s.pw with rstnLow := true } } : State).afterReset false 4) := by
  obtain ⟨hoff, hsleep⟩ := State.powered_ne_off h
  show execPinReset s = _
  unfold execPinReset
  cases hp : s.pw.phase with
  | off => exact absurd hp hoff
  | sleep => exact absurd hp hsleep
  | starting n => simp [hp]
  | active => simp [hp]

/-- Settles O8: each reset is `State.afterReset`, which clears all but the always-on words, the vault and the flash's content. -/
theorem resetsClear : Obligations.ResetsClear := by
  refine ⟨fun s => ?_, fun s h => ?_, fun s h => ?_, fun s die h hdie => ?_⟩
  · exact ⟨_, rfl, (s.afterReset_cleared 1 true).keep s, fun _ => rfl, rfl, rfl, rfl, rfl⟩
  · exact ⟨s.afterReset false 2, by simp [exec, execBrownOutReset, h], s.afterReset_cleared 2 false,
      fun a ha => s.afterReset_alwaysOn 2 ha, by simp⟩
  · exact ⟨_, execPinReset_powered h, State.afterReset_cleared _ 4 false, fun a ha => State.afterReset_alwaysOn _ 4 ha, by simp⟩
  · refine ⟨({ s with pw := { s.pw with thermHold := true } } : State).afterReset false 16, by simp [exec, execThermalShutdown, h, hdie],
      State.afterReset_cleared _ 16 false, fun a ha => State.afterReset_alwaysOn _ 16 ha, by simp⟩

end Sys2Proof.Machine
end

