-- ==== Sys2Proof/Proofs/Gates.lean ====
section
/-! SUPPORT. The gate of every command (R58, R59, R72, R283): which device takes it, and what it then may change. -/
namespace Sys2Proof.Machine

/-! ### Operands of no possible form -/

/-- What a command answers behind the check of its operands. -/
def stopOr (m : Option String) (o : Host.Outcome State Fault Refusal) : Host.Outcome State Fault Refusal :=
  match m with
  | none => o
  | some why => .fault (.malformed why)

section
variable (c : Prop) [Decidable c] (why : String) (o : Host.Outcome State Fault Refusal)

theorem stopOr_ite : stopOr (if c then none else some why) o = if c then o else .fault (.malformed why) := by
  split <;> rfl
theorem stopOr_ite_not : stopOr (if c then some why else none) o = if c then .fault (.malformed why) else o := by
  split <;> rfl

end

/-! ### The three gates of the commands that are no event of a start -/

/-- A command that may act on everything acts on an ACTIVE device only. -/
theorem exec_acting {i : Instr} (s : State) (hup : startsUp i = false) (hall : commandParts i = Part.all) :
    ∃ u, exec i s = if s.pw.phase = .active then .next (s.settle u) else .next s := by
  cases i
  case wakeToneEnd | swrst | sleep | commLossTimeout | sleepEntry | sleepFlushDone | sleepFlushTimeout | flashOpDone | lifeCommit |
    write | writeMask | bcastWrite | registerWrite | closingFlushTimeout => exact ⟨_, rfl⟩
  case powerOnReset | brownOutReset | pinReset | thermalShutdown | supplyMonitor | buckFault | buckRetry | suppliesValid | vaultRead |
    strapLatch | sentinelArm | wakePin | wakeToneDetect | rstnWake => cases hup
  all_goals cases hall

/-- The banister's receivers work from 0.15 ms after supplies are valid (R283). -/
theorem exec_receiving {i : Instr} (s : State) {t : Nat} (hr : receives i = some t) : ∃ u, exec i s =
    if s.powered && (decide (s.pw.phase = .active) || decide (150000 ≤ t)) then .next (s.only u (commandParts i)) else .next s := by
  cases i
  case heartbeatEdge | heartbeatLoss | ackEdge | ackBurstEnd | ackHeld | ackQuiet => cases hr; exact ⟨_, rfl⟩
  all_goals cases hr

/-- Every other command acts on its parts of an ACTIVE device. -/
theorem exec_active {i : Instr} (s : State) (hall : commandParts i ≠ Part.all) (hr : receives i = none) : ∃ u, exec i s =
    stopOr i.malformed (if s.pw.phase = .active then .next (s.only u (commandParts i)) else .next s) := by
  cases i
  case heartbeatEdge | heartbeatLoss | ackEdge | ackBurstEnd | ackHeld | ackQuiet => cases hr
  case wakeToneEnd | swrst | sleep | commLossTimeout | sleepEntry | sleepFlushDone | sleepFlushTimeout | flashOpDone | lifeCommit |
    write | writeMask | bcastWrite | registerWrite | closingFlushTimeout | powerOnReset | brownOutReset | pinReset | thermalShutdown |
    supplyMonitor | buckFault | buckRetry | suppliesValid | vaultRead | strapLatch | sentinelArm | wakePin | wakeToneDetect |
    rstnWake => exact absurd rfl hall
  case snapshotImage | fineBoundary | eyeSweepDone | trainingReportDone | eyeMonitor | scrubSector => exact ⟨_, (stopOr_ite _ _ _).symm⟩
  case searchTransactionEnd => exact ⟨_, (stopOr_ite_not _ _ _).symm⟩
  all_goals exact ⟨_, rfl⟩

/-- Settles O6: behind each gate of a command that is no event of chapter 03 a device that is not ACTIVE stays as it is. -/
theorem notActiveIgnores : Obligations.NotActiveIgnores := by
  refine ⟨fun i s hph hup hr hwf => ?_, fun i s t hph hr hearly => ?_⟩
  · by_cases hall : commandParts i = Part.all
    · obtain ⟨u, hexec⟩ := exec_acting s hup hall
      rw [hexec, if_neg hph]
    · obtain ⟨u, hexec⟩ := exec_active s hall hr
      rw [hexec, Option.isNone_iff_eq_none.mp hwf, stopOr, if_neg hph]
  · obtain ⟨u, hexec⟩ := exec_receiving s hr
    rw [hexec, if_neg]
    rcases hearly with hoff | hlt
    · simp [hoff]
    · simp [hph, Nat.not_le.mpr hlt]

end Sys2Proof.Machine
end
-- ==== Sys2Proof/Proofs/ColdRule.lean ====
section
/-! SUPPORT. The rule of resets (R66) as an invariant of every step. -/
namespace Sys2Proof.Machine

/-- The rule of resets, and no command in progress. -/
def State.Rests (s : State) : Prop := s.Cold ∧ s.pw.leave = none

section
variable {s t : State}

theorem State.rests_of_powered (hp : t.powered = true) (hl : t.pw.leave = none) : t.Rests := by
  obtain ⟨hoff, hsleep⟩ := State.powered_ne_off hp
  exact ⟨fun h => absurd h (not_or.mpr ⟨hoff, hsleep⟩), hl⟩

theorem State.rests_of_cleared (hc : t.Cleared) (hl : t.pw.leave = none) : t.Rests := ⟨fun _ => hc, hl⟩

theorem State.powered_of_phase (h : t.pw.phase = s.pw.phase) : t.powered = s.powered := by
  rw [State.powered, State.powered, h]

/-- A new power state whose phase is no colder. -/
theorem State.Rests.withPw (h : s.Rests) {p : Power} (hph : p.phase = .off ∨ p.phase = .sleep → s.pw.phase = .off ∨ s.pw.phase = .sleep)
    (hl : p.leave = none) : ({ s with pw := p } : State).Rests :=
  ⟨fun hc => (h.1 (hph hc)).withPw p, hl⟩

theorem State.Rests.withPending (h : s.Rests) (q : List Instr) : ({ s with pending := q } : State).Rests :=
  ⟨fun hc => (h.1 hc).withPending q, h.2⟩

/-- A command that acts on a device whose rails are up leaves it so, or in the state of a reset. -/
theorem State.settle_rests (hp : s.powered = true) (u : State) : (s.settle u).Rests := by
  cases hl : u.pw.leave with
  | none =>
    rw [State.settle_stay s u hl]
    exact State.rests_of_powered (t := s.keep _) ((State.powered_of_phase (s := s) rfl).trans hp) hl
  | some l =>
    rw [State.settle_leave s u l hl]
    exact State.rests_of_cleared ((u.left_cleared l).keep s) (u.left_leave l)

theorem State.only_rests (h : s.Rests) (hp : s.powered = true) (u : State) (c : List Part) : (s.only u c).Rests :=
  State.rests_of_powered (t := s.only u c) hp h.2

theorem State.afterReset_rests (por : Bool) (c : Nat) : (s.afterReset por c).Rests :=
  State.rests_of_cleared (s.afterReset_cleared c por) (s.afterReset_leave c por)

theorem State.powered_of_active (h : s.pw.phase = .active) : s.powered = true := by rw [State.powered, h]

/-! ### The commands behind a gate -/

theorem exec_gated_rests {i : Instr} (h : s.Rests) (hup : startsUp i = false) (ht : exec i s = .next t) : t.Rests := by
  by_cases hall : commandParts i = Part.all
  · obtain ⟨u, hexec⟩ := exec_acting s hup hall
    rw [hexec] at ht
    split at ht
    · cases ht; exact State.settle_rests (State.powered_of_active ‹_›) u
    · cases ht; exact h
  · cases hr : receives i with
    | some n =>
      obtain ⟨u, hexec⟩ := exec_receiving s hr
      rw [hexec] at ht
      split at ht
      · cases ht; exact State.only_rests h (by simp_all) u _
      · cases ht; exact h
    | none =>
      obtain ⟨u, hexec⟩ := exec_active s hall hr
      rw [hexec] at ht
      cases hm : i.malformed with
      | some why => rw [hm] at ht; cases ht
      | none =>
        rw [hm, stopOr] at ht
        split at ht
        · cases ht; exact State.only_rests h (State.powered_of_active ‹_›) u _
        · cases ht; exact h

/-! ### The events of chapter 03 -/

/-- A wake takes a sleeping device, which holds nothing, into a start (R72). -/
theorem State.wake_rests (h : s.Rests) (hp : s.pw.phase = .sleep) (bits : Nat) : (s.wake bits).Rests :=
  h.withPw (fun _ => .inr hp) h.2

/-- A new power state that keeps the phase. -/
theorem State.Rests.withSamePhase (h : s.Rests) {p : Power} (hph : p.phase = s.pw.phase) (hl : p.leave = none) :
    ({ s with pw := p } : State).Rests :=
  h.withPw (fun hc => hph ▸ hc) hl

theorem State.ite_rests {c : Prop} [Decidable c] {u v : State} (hu : c → u.Rests) (hv : ¬ c → v.Rests) :
    (if c then u else v).Rests := by
  split
  · exact hu ‹_›
  · exact hv ‹_›

theorem powered_rests {u : State} (h : s.Rests)
    (ht : (if s.powered then .next (s.settle u) else .next s : Host.Outcome State Fault Refusal) = .next t) : t.Rests := by
  split at ht
  · cases ht; exact State.settle_rests ‹_› u
  · cases ht; exact h

theorem execPinReset_rests (h : s.Rests) (ht : execPinReset s = .next t) : t.Rests := by
  unfold execPinReset at ht
  dsimp only at ht
  cases hp : s.pw.phase with
  | off => rw [hp] at ht; cases ht; exact h.withPw (fun _ => .inl hp) h.2
  | sleep => rw [hp] at ht; cases ht; exact h.withPw (fun _ => .inr hp) h.2
  | starting n => rw [hp] at ht; cases ht; exact State.afterReset_rests false 4
  | active => rw [hp] at ht; cases ht; exact State.afterReset_rests false 4

theorem Power.reading_phase (p : Power) (m : Monitor) (v : Nat) : (p.reading m v).phase = p.phase := by cases m <;> rfl
theorem Power.reading_leave (p : Power) (m : Monitor) (v : Nat) : (p.reading m v).leave = p.leave := by cases m <;> rfl

/-- An event of chapter 03 resets, starts or wakes the device, or leaves it as it is. -/
theorem exec_start_rests {i : Instr} (h : s.Rests) (hup : startsUp i = true) (ht : exec i s = .next t) : t.Rests := by
  cases i
  case powerOnReset => cases ht; exact State.rests_of_cleared ((s.afterReset_cleared 1 true).keep s) (s.afterReset_leave 1 true)
  case brownOutReset => cases ht; exact State.ite_rests (fun _ => State.afterReset_rests false 2) (fun _ => h)
  case pinReset => exact execPinReset_rests h ht
  case thermalShutdown =>
    cases ht
    exact State.ite_rests (fun _ => State.afterReset_rests false 16)
      (fun _ => State.ite_rests (fun _ => h.withSamePhase rfl h.2) (fun _ => h))
  case supplyMonitor m v =>
    cases ht
    exact State.ite_rests (fun hp => State.rests_of_powered ((State.powered_of_phase (s := s) (Power.reading_phase _ m v)).trans hp)
      ((Power.reading_leave _ m v).trans h.2)) (fun _ => h)
  case buckFault => exact powered_rests h ht
  case buckRetry => exact powered_rests h ht
  case suppliesValid =>
    cases ht
    exact State.ite_rests (fun _ => State.ite_rests (fun _ => State.rests_of_powered rfl h.2) (fun _ => State.rests_of_powered rfl h.2))
      (fun _ => h)
  case vaultRead => cases ht; exact State.ite_rests (fun _ => State.rests_of_powered rfl h.2) (fun _ => h)
  case strapLatch => cases ht; exact State.ite_rests (fun _ => State.rests_of_powered rfl h.2) (fun _ => h)
  case sentinelArm => cases ht; exact State.ite_rests (fun _ => State.rests_of_powered rfl h.2) (fun _ => h)
  case wakePin => cases ht; exact State.ite_rests (fun hc => State.wake_rests h hc.1 _) (fun _ => h)
  case wakeToneDetect p =>
    cases p <;> (cases ht; exact State.ite_rests (fun hc => State.wake_rests h hc.1 _) (fun _ => h))
  case rstnWake =>
    have hlow : ({ s with pw := { s.pw with rstnLow := false } } : State).Rests := h.withSamePhase rfl h.2
    cases ht
    exact State.ite_rests (fun _ => State.ite_rests (fun hp => State.wake_rests hlow hp _) (fun _ => hlow)) (fun _ => h)
  all_goals cases hup

end

/-- Settles O4: a command behind a gate leaves the device with its rails up or in the state of a reset (`exec_gated_rests`), and an
event of chapter 03 resets, starts or wakes it (`exec_start_rests`). -/
theorem coldStaysCleared : Obligations.ColdStaysCleared := by
  intro s t h ht
  unfold step at ht
  cases hq : s.pending with
  | nil => rw [hq] at ht; cases ht; exact h
  | cons i q =>
    rw [hq] at ht
    have hs : ({ s with pending := q } : State).Rests := State.Rests.withPending h q
    cases hup : startsUp i with
    | true => exact exec_start_rests hs hup ht
    | false => exact exec_gated_rests hs hup ht

end Sys2Proof.Machine
end

