-- ==== Sys2Proof/Proofs/LockOut.lean ====
section
/-! SUPPORT. What a cause of lock-out, the permit and SF6 leave of the status and event words (R261, R266, R274, R292). -/
namespace Sys2Proof.Machine

/-! ### Register fields beside those of the output and the lock-out -/

/-- A field of the banister's page, or of a word above the header of its page. -/
def Fld.beside (f : Fld) : Bool := decide (f.word < 64) && (f.page == 0x16 || decide (8 ≤ f.word))

/-- A field of a header word of another page, apart from the four that the causes of a lock-out and the heartbeat gate show. -/
def Fld.calm (g : Fld) : Bool := decide (g.word < 8) && g.page != 0x16 &&
  SYS.STATUS.STARTLOCK.apart g && SAFE.STATUS.RELPEND.apart g && SAFE.STATUS.HBFWD.apart g && SAFE.STATUS.HBIN.apart g

section
variable (s : State) {g : Fld}

theorem State.get_withSafe (x : Safe) : ({ s with safe := x } : State).get g = s.get g := (rfl)
theorem State.get_withBan (x : Ban) : ({ s with ban := x } : State).get g = s.get g := (rfl)
theorem State.get_ite (p : Prop) [Decidable p] (t : State) : (if p then s else t).get g = if p then s.get g else t.get g :=
  apply_ite (fun u : State => u.get g) p s t

variable (hg : g.calm = true)
include hg

theorem State.get_set_beside {f : Fld} (hf : f.beside = true) (v : Nat) : (s.set f v).get g = s.get g := by
  simp only [Fld.calm, Fld.beside, Bool.and_eq_true, Bool.or_eq_true, bne_iff_ne, decide_eq_true_eq, beq_iff_eq] at hg hf
  have hne : g.addr ≠ f.addr := by unfold Fld.addr linear; omega
  rw [State.get, State.get, State.reg_set_ne s f v _ hne]

theorem State.get_set_startlock (v : Nat) : (s.set SYS.STATUS.STARTLOCK v).get g = s.get g :=
  State.get_set_ne s _ g v rfl (by simp_all [Fld.calm])
theorem State.get_set_relpend (v : Nat) : (s.set SAFE.STATUS.RELPEND v).get g = s.get g :=
  State.get_set_ne s _ g v rfl (by simp_all [Fld.calm])
theorem State.get_set_hbfwd (v : Nat) : (s.set SAFE.STATUS.HBFWD v).get g = s.get g :=
  State.get_set_ne s _ g v rfl (by simp_all [Fld.calm])
theorem State.get_set_hbin (v : Nat) : (s.set SAFE.STATUS.HBIN v).get g = s.get g :=
  State.get_set_ne s _ g v rfl (by simp_all [Fld.calm])

/-! ### The permit and the causes -/

theorem State.causes_get : s.causes.get g = s.get g := by
  simp (disch := decide) only [State.causes, State.setB, State.get_withSafe, State.get_ite, State.get_set_beside _ hg,
    State.get_set_startlock _ hg, State.get_set_relpend _ hg, ite_self]

theorem State.hbGate_get : s.hbGate.get g = s.get g := by
  simp (disch := decide) only [State.hbGate, State.setB, State.get_withBan, State.get_set_beside _ hg, State.get_set_hbfwd _ hg,
    State.get_set_hbin _ hg]

theorem State.nextSw_get : s.nextSw.get g = s.get g := by
  simp (disch := decide) only [State.nextSw, State.setB, State.get_ite, State.get_set_beside _ hg, ite_self]

theorem State.testDemand_get : s.testDemand.get g = s.get g := by
  cases ht : s.ban.test <;> simp (disch := decide) only [State.testDemand, ht, State.testDiscard, State.evt, State.inc,
    State.nextSw_get _ hg, State.get_withBan, State.get_set_beside _ hg]

theorem State.permitUpdate_get (t : Nat) : (s.permitUpdate t).get g = s.get g := by
  simp (disch := decide) only [State.permitUpdate, State.closeAll, State.openAll, State.setB, State.get_ite, State.get_withBan,
    State.testDemand_get _ hg, State.hbGate_get _ hg, State.get_set_beside _ hg, ite_self]

/-! ### A cause of lock-out -/

theorem State.clearV_get {f : Fld} (h8 : 8 ≤ f.word) (n : Nat) (hn : f.word + n / 16 < 64) :
    (s.clearV f n).get g = s.get g :=
  forEach_keeps (fun s => s.get g) (fun i s => s.setV f i false) _ (fun i hi t => by
    have hlt := List.mem_range.mp hi
    refine State.get_set_beside t hg (f := { f with word := f.word + i / 16, lo := i % 16, w := 1 }) ?_ _
    simp only [Fld.beside, Bool.and_eq_true, Bool.or_eq_true, beq_iff_eq, decide_eq_true_eq]
    omega) s

end

/-- A lock-out that begins (R274). -/
def State.lockBegin (s : State) (bit info t : Nat) : State :=
  let s := ((((s.set SAFE.LOCKCAUSE.word (2 ^ bit)).setB SAFE.STATUS.LOCKOUT true).inc SAFE.LOCKCNT).set SAFE.TRIPINFO.word info).set3
    SAFE.TRIPLTC0 s.tm.ltc
  let s := ((s.set2 SAFE.CONF0 0).clearV SAFE.OVTRIP0 48).clearV SAFE.UVTRIP0 48
  ({ s with safe := { s.safe with lockAt := t, ackAt := none, first := none } }).cond 8 true

/-- A cause added to a lock-out (R274). -/
def State.lockAdd (s : State) (bit info : Nat) (ev : Bool) : State :=
  (if ev && s.untripped then (s.set SAFE.TRIPINFO.word info).set3 SAFE.TRIPLTC0 s.tm.ltc else s).set
    { SAFE.LOCKCAUSE.word with lo := bit, w := 1 } 1

/-- The acknowledge and the release time of the causes so far no longer count, but for cause 8. -/
def State.lockClock (s : State) (bit : Nat) : State :=
  if bit = 8 then s else { s with safe := { s.safe with ackAt := none, goneAt := none } }

/-- A cause arises, its event aside. -/
def State.lockShow (s : State) (bit info t : Nat) (ev : Bool) : State :=
  let s := s.lockClock bit
  let s := if s.locked then s.lockAdd bit info ev else s.lockBegin bit info t
  (if bit = 0 then s.set { SAFE.LIVECAUSE with w := 1 } 1 else s).causes.permitUpdate t

theorem State.lockCause_eq (s : State) (bit info t : Nat) (ev : Bool) :
    s.lockCause bit info t ev = (if ev then s.evt SAFE.EVT.TRIP else s).lockShow bit info t ev := (rfl)

section
variable (s : State) {g : Fld} (bit info t : Nat) (ev : Bool)

theorem State.lockClock_get : (s.lockClock bit).get g = s.get g := by
  unfold State.lockClock
  split <;> rfl

theorem State.lockAdd_get (hg : g.calm = true) : (s.lockAdd bit info ev).get g = s.get g := by
  rw [State.lockAdd, State.get_set_beside _ hg rfl]
  simp (disch := decide) only [State.set3, State.set2, State.get_ite, State.get_set_beside _ hg, ite_self]

/-- Of the calm fields a lock-out that begins touches LOCKOUT alone. -/
theorem State.lockBegin_get (hg : g.calm = true) :
    (s.lockBegin bit info t).get g = ((s.set SAFE.LOCKCAUSE.word (2 ^ bit)).setB SAFE.STATUS.LOCKOUT true).get g := by
  simp (disch := decide) only [State.lockBegin, State.set3, State.set2, State.inc, State.cond_get, State.get_withSafe,
    State.clearV_get _ hg, State.get_set_beside _ hg]

theorem State.lockShow_get (hg : g.calm = true) (hl : SAFE.STATUS.LOCKOUT.apart g = true) :
    (s.lockShow bit info t ev).get g = s.get g := by
  simp (disch := decide) only [State.lockShow, State.permitUpdate_get _ hg, State.causes_get _ hg, State.get_ite,
    State.get_set_beside _ hg, State.lockAdd_get _ _ _ _ hg, State.lockBegin_get _ _ _ _ hg, State.lockClock_get, State.setB,
    State.get_set_ne _ _ _ _ (show SAFE.STATUS.LOCKOUT.ok = true from rfl) hl, ite_self]

theorem State.lockShow_locked : (s.lockShow bit info t ev).locked = true := by
  have hg : SAFE.STATUS.LOCKOUT.calm = true := by decide
  have hbegin : ((s.lockClock bit).lockBegin bit info t).locked = true := by
    rw [State.locked, State.bit, State.lockBegin_get _ _ _ _ hg]
    exact State.bit_setB _ _ _ _ _ (by decide)
  have hadd (h : (s.lockClock bit).locked = true) : ((s.lockClock bit).lockAdd bit info ev).locked = true := by
    rwa [State.locked, State.bit, State.lockAdd_get _ _ _ _ hg]
  rw [State.locked, State.bit]
  simp (disch := decide) only [State.lockShow, State.permitUpdate_get _ hg, State.causes_get _ hg, State.get_ite,
    State.get_set_beside _ hg, ite_self]
  split
  · exact hadd ‹_›
  · exact hbegin

end

section
variable (s : State) (bit info t : Nat) (ev : Bool)

/-- A cause leaves the calm fields but TRIP and LOCKOUT alone. -/
theorem State.lockCause_get {g : Fld} (hg : g.calm = true) (hl : SAFE.STATUS.LOCKOUT.apart g = true) (he : SAFE.EVT.TRIP.apart g = true) :
    (s.lockCause bit info t ev).get g = s.get g := by
  rw [State.lockCause_eq, State.lockShow_get _ _ _ _ _ hg hl, State.get_ite, State.evt, State.get_set_ne _ _ _ _ rfl he, ite_self]

theorem State.lockCause_locked : (s.lockCause bit info t ev).locked = true := by
  rw [State.lockCause_eq]
  exact State.lockShow_locked _ _ _ _ _

theorem State.lockCause_trip : (s.lockCause bit info t true).bit SAFE.EVT.TRIP = true := by
  rw [State.lockCause_eq, State.bit, State.lockShow_get _ _ _ _ _ (by decide) (by decide)]
  exact State.bit_evt _ _ _ _ (by decide)

/-! ### Conditions and communication loss -/

theorem State.permitUpdate_condNow : (s.permitUpdate t).condNow = s.condNow := by
  have htest (u : State) : u.testDemand.condNow = u.condNow := by
    cases ht : u.ban.test <;> simp [State.testDemand, ht, State.testDiscard, State.nextSw, apply_ite State.condNow, State.inc, State.evt, State.setB]
  simp [State.permitUpdate, State.closeAll, State.openAll, State.hbGate, apply_ite State.condNow, htest, State.setB]

theorem State.causes_condNow : s.causes.condNow = s.condNow := by
  simp [State.causes, apply_ite State.condNow]

theorem State.lockBegin_holds {j : Nat} (hj : j ≠ 8) : (s.lockBegin bit info t).holds j = s.holds j := by
  have hclear (u : State) (f : Fld) (n : Nat) : (u.clearV f n).condNow = u.condNow :=
    forEach_keeps State.condNow (fun i s => s.setV f i false) _ (fun _ _ _ => rfl) u
  rw [State.lockBegin, State.holds_cond _ _ _ _ (by decide), if_neg hj, State.holds, State.holds]
  simp only [hclear]
  rfl

theorem State.lockAdd_condNow : (s.lockAdd bit info ev).condNow = s.condNow := by
  simp only [State.lockAdd, State.set_condNow, apply_ite State.condNow, State.set3, State.set2, ite_self]

theorem State.lockCause_holds {j : Nat} (hj : j ≠ 8) : (s.lockCause bit info t ev).holds j = s.holds j := by
  have hite (p : Prop) [Decidable p] (u v : State) : (if p then u else v).holds j = if p then u.holds j else v.holds j :=
    apply_ite (fun w : State => w.holds j) p u v
  have hsame {u v : State} (h : u.condNow = v.condNow) : u.holds j = v.holds j := by rw [State.holds, State.holds, h]
  have hclock (u : State) : (u.lockClock bit).condNow = u.condNow := by unfold State.lockClock; split <;> rfl
  simp only [State.lockCause_eq, State.lockShow, hsame (State.permitUpdate_condNow _ _), hsame (State.causes_condNow _), hite,
    hsame (State.set_condNow _ _ _), hsame (State.lockAdd_condNow _ _ _ _), State.lockBegin_holds _ _ _ _ hj, hsame (hclock _),
    hsame (State.evt_condNow _ _), ite_self]

theorem State.safe_of_without {s t : State} {c : List Part} (hc : Part.safe ∉ c) (h : t.without c = s.without c) : t.safe = s.safe := by
  rw [← State.only_of_without h]
  simp [State.only, hc]

theorem State.permitUpdate_safe : (s.permitUpdate t).safe = s.safe :=
  State.safe_of_without (c := [.ban]) (by decide) (s.permitUpdate_without (by decide) t)

theorem State.lockBegin_commOut : (s.lockBegin bit info t).safe.commOut = s.safe.commOut := by
  have hclear (u : State) (f : Fld) (n : Nat) : (u.clearV f n).safe = u.safe :=
    forEach_keeps State.safe (fun i s => s.setV f i false) _ (fun _ _ _ => rfl) u
  simp only [State.lockBegin, State.cond_safe, hclear]
  rfl

theorem State.lockCause_commOut : (s.lockCause bit info t ev).safe.commOut = s.safe.commOut := by
  have hite (p : Prop) [Decidable p] (u v : State) : (if p then u else v).safe.commOut = if p then u.safe.commOut else v.safe.commOut :=
    apply_ite (fun w : State => w.safe.commOut) p u v
  have hclock (u : State) : (u.lockClock bit).safe.commOut = u.safe.commOut := by unfold State.lockClock; split <;> rfl
  have hadd (u : State) : (u.lockAdd bit info ev).safe = u.safe := by
    simp only [State.lockAdd, State.set_safe, apply_ite State.safe, State.set3, State.set2, ite_self]
  have hcauses (u : State) : u.causes.safe.commOut = u.safe.commOut := by simp [State.causes, apply_ite State.safe]
  simp only [State.lockCause_eq, State.lockShow, State.permitUpdate_safe, hcauses, hite, State.set_safe, hadd,
    State.lockBegin_commOut, hclock, State.evt_safe, ite_self]

/-! ### SF6 -/

theorem State.sf6Update_get {g : Fld} (hg : g.calm = true) (hp : SAFE.STATUS.PROCOK.apart g = true) (hs : SAFE.STATUS.SENOK.apart g = true)
    (hl : SAFE.STATUS.LOCKOUT.apart g = true) (he : SAFE.EVT.TRIP.apart g = true) : s.sf6Update.get g = s.get g := by
  have hset (u : State) (a b : Bool) : ((u.setB SAFE.STATUS.PROCOK a).setB SAFE.STATUS.SENOK b).get g = u.get g :=
    (State.get_set_ne _ _ _ _ rfl hs).trans (State.get_set_ne _ _ _ _ rfl hp)
  simp only [State.sf6Update, State.trip, State.get_ite, State.permitUpdate_get _ hg, State.causes_get _ hg,
    State.lockCause_get _ _ _ _ _ hg hl he, State.cond_get, hset, ite_self]

end
end Sys2Proof.Machine
end

