-- ==== Sys2Proof/Proofs/StartSequence.lean ====
section
/-! SUPPORT. The start, entry by entry, what holds it off, and waking (R56 to R59, R65, R67, R72, R450). -/
namespace Sys2Proof.Machine

/-! ### HEALTH values (R179) -/

section
variable (s : State) (f : Fld) (v : Nat) (ev : Option Fld)

theorem State.healthSet_without (c : List Part) : (s.healthSet f v ev).without c = s.without c := by
  cases ev <;> simp only [State.healthSet, State.ite_without, State.evt_without, State.set3_without, State.set_without, ite_self]

theorem State.healthSet_condNow : (s.healthSet f v ev).condNow = s.condNow := by
  have h3 (u : State) (n : Nat) : (u.set3 HEALTH.LTC0 n).condNow = u.condNow := rfl
  cases ev <;> simp only [State.healthSet, apply_ite State.condNow, State.evt_condNow, h3, State.set_condNow, ite_self]

theorem State.vault_of_without {s t : State} {c : List Part} (hc : Part.vault ∉ c) (h : t.without c = s.without c) : t.vault = s.vault := by
  rw [← State.only_of_without h]
  simp [State.only, hc]

theorem State.cal_of_without {s t : State} {c : List Part} (hc : Part.cal ∉ c) (h : t.without c = s.without c) : t.cal = s.cal := by
  rw [← State.only_of_without h]
  simp [State.only, hc]

theorem State.fl_of_without {s t : State} {c : List Part} (hc : Part.fl ∉ c) (h : t.without c = s.without c) : t.fl = s.fl := by
  rw [← State.only_of_without h]
  simp [State.only, hc]

theorem State.healthSet_pageWords {p : Nat} (h : 0x1B ≠ p) (hf : f.addr / 64 ≠ p) (he : ∀ e, ev = some e → e.addr / 64 ≠ p) :
    (s.healthSet f v ev).pageWords p = s.pageWords p := by
  have hold : ((s.set f v).set3 HEALTH.LTC0 s.tm.ltc).pageWords p = s.pageWords p := by
    simp (disch := simpa [Fld.addr, Fld.plus, linear] using h) only [State.set3, State.set2, State.set_pageWords]
    exact s.set_pageWords hf v
  cases ev with
  | none => exact hold
  | some e => simp only [State.healthSet, State.ite_pageWords, State.evt_pageWords _ (he e rfl), hold, ite_self]

end

/-! ### The vault read -/

/-- The vault read up to the choice of a calibration slot (R167, R175, R450). -/
def State.vaultKnown (s : State) (crcOk sigOk : Bool) : State :=
  let s := ((s.setB IDENT.STATUS.VAULTOK crcOk).setB IDENT.STATUS.KEYOK (crcOk && sigOk)).cond 59 (!(crcOk && sigOk))
  let s := { s with cal := { s.cal with guard := s.vault.guard }, tm := { s.tm with hiWritten := s.vault.ltchi } }
  s.healthSet HEALTH.GUARD s.vault.guard (some hGUARD)

section
variable (s : State) (crcOk sigOk : Bool)

theorem State.vaultKnown_tells : (s.vaultKnown crcOk sigOk).bit IDENT.STATUS.VAULTOK = crcOk ∧
    (s.vaultKnown crcOk sigOk).bit IDENT.STATUS.KEYOK = (crcOk && sigOk) ∧
    (s.vaultKnown crcOk sigOk).holds 59 = !(crcOk && sigOk) ∧ (s.vaultKnown crcOk sigOk).cal.guard = s.vault.guard ∧
    (s.vaultKnown crcOk sigOk).vault = s.vault ∧ (s.vaultKnown crcOk sigOk).fl = s.fl := by
  have hpage (u : State) (v : Nat) : (u.healthSet HEALTH.GUARD v (some hGUARD)).pageWords 0 = u.pageWords 0 :=
    State.healthSet_pageWords u _ _ _ (by decide) (by decide) (by rintro _ ⟨⟩; decide)
  have hsame (u : State) (v : Nat) := u.healthSet_without HEALTH.GUARD v (some hGUARD) []
  refine ⟨?_, ?_, ?_, ?_, ?_, ?_⟩
  · rw [State.vaultKnown, State.bit_of_pageWords (hpage _ _) rfl]
    refine (State.cond_bit _ _ _ _).trans ?_
    exact (State.bit_set_ne _ _ _ _ rfl rfl).trans (State.bit_setB _ _ _ _ _ (by decide))
  · rw [State.vaultKnown, State.bit_of_pageWords (hpage _ _) rfl]
    exact (State.cond_bit _ _ _ _).trans (State.bit_setB _ _ _ _ _ (by decide))
  · rw [State.vaultKnown, State.holds, State.healthSet_condNow]
    exact (State.holds_cond _ _ _ _ (by decide)).trans (if_pos rfl)
  · rw [State.vaultKnown, State.cal_of_without (by decide) (hsame _ _)]
    simp
  · rw [State.vaultKnown, State.vault_of_without (by decide) (hsame _ _)]
    simp
  · rw [State.vaultKnown, State.fl_of_without (by decide) (hsame _ _)]
    simp

/-- The rest of the vault read: the slot in use, the wear bit, a committed transition (R41, R167, R453). -/
def State.vaultApply (s : State) : State :=
  let s := match s.newestSlot with
    | some (sl, v) => s.applySlot sl v false
    | none => s.set CAL.STATUS.NOSLOT 1
  let s := s.setB TIME.STATUS.VLTWORN (decide (128000 ≤ s.vault.ringWrites))
  if s.vault.lifeDone then ({ s with vault := { s.vault with lifeDone := false } }).set LIFE.RESULT 1 |>.occur 58 else s

theorem State.vaultRead_eq : s.vaultRead crcOk sigOk = (s.vaultKnown crcOk sigOk).vaultApply := (rfl)

theorem State.vaultApply_noSlot {u : State} (hs : u.newestSlot = none) (hl : u.vault.lifeDone = false) :
    u.vaultApply = (u.set CAL.STATUS.NOSLOT 1).setB TIME.STATUS.VLTWORN (decide (128000 ≤ u.vault.ringWrites)) := by
  simp [State.vaultApply, hs, hl]

theorem State.vaultRead_noSlot (hs : s.newestSlot = none) (hl : s.vault.lifeDone = false) : ∃ worn,
    s.vaultRead crcOk sigOk = ((s.vaultKnown crcOk sigOk).set CAL.STATUS.NOSLOT 1).setB TIME.STATUS.VLTWORN worn := by
  obtain ⟨-, -, -, -, hvault, hfl⟩ := s.vaultKnown_tells crcOk sigOk
  have hslot : (s.vaultKnown crcOk sigOk).newestSlot = none := by
    rw [← hs, State.newestSlot, State.newestSlot, hvault, hfl]
  exact ⟨_, (s.vaultRead_eq crcOk sigOk).trans (State.vaultApply_noSlot hslot (by rw [hvault, hl]))⟩

end

theorem exec_vaultRead {s : State} {crcOk sigOk : Bool} (h : s.startAt 0 = true) : exec (.vaultRead crcOk sigOk) s =
    .next (s.keep { s.vaultRead crcOk sigOk with pw := { s.pw with phase := .starting 1 } }) := by
  simp [exec, execVaultRead, h]

/-! ### The end of a start -/

theorem State.withCfg_get (s : State) (x : Cfg) (g : Fld) : ({ s with cfg := x } : State).get g = s.get g := (rfl)

/-- The last of the arming: both bits that show the sentinels armed, the check value of master clock 0, SF6. -/
def State.armEnd (s : State) : State := ((s.setB SAFE.STATUS.SENARM true).setB SYS.STATUS.SENTARM true).cfgTread.sf6Update

theorem State.armEnd_shows (s : State) : s.armEnd.bit SYS.STATUS.SENTARM = true ∧ s.armEnd.bit SAFE.STATUS.SENARM = true := by
  constructor
  · rw [State.armEnd, State.bit, State.sf6Update_get _ (by decide) (by decide) (by decide) (by decide) (by decide), State.cfgTread,
      State.withCfg_get]
    exact State.bit_setB _ _ _ _ _ (by decide)
  · rw [State.armEnd, State.bit, State.sf6Update_get _ (by decide) (by decide) (by decide) (by decide) (by decide), State.cfgTread,
      State.withCfg_get]
    exact (State.bit_set_ne _ _ _ _ rfl rfl).trans (State.bit_setB _ _ _ _ _ (by decide))

theorem State.arm_eq (s : State) : ∃ u : State, s.arm = u.armEnd := ⟨_, rfl⟩

theorem exec_sentinelArm {s : State} (h : s.startAt 2 = true) : exec .sentinelArm s = .next { s.keep s.arm with pw := s.armPower } := by
  simp [exec, execSentinelArm, h]

theorem sentinelArm_active {s : State} (h : s.startAt 2 = true) : ∃ t, exec .sentinelArm s = .next t ∧ t.pw.phase = .active ∧
    t.pw.toneOut = (s.pw.woken && s.bit SYS.WAKECFG.RESEND) ∧ t.bit SYS.STATUS.SENTARM = true ∧ t.bit SAFE.STATUS.SENARM = true := by
  obtain ⟨u, hu⟩ := s.arm_eq
  obtain ⟨hsys, hsafe⟩ := u.armEnd_shows
  exact ⟨_, exec_sentinelArm h, rfl, rfl, (congrArg (State.bit · SYS.STATUS.SENTARM) hu).trans hsys,
    (congrArg (State.bit · SAFE.STATUS.SENARM) hu).trans hsafe⟩

/-! ### The other entries -/

theorem vaultRead_reads {s : State} {crcOk sigOk : Bool} (h : s.startAt 0 = true) (hs : s.newestSlot = none)
    (hl : s.vault.lifeDone = false) : ∃ t, exec (.vaultRead crcOk sigOk) s = .next t ∧ t.pw.phase = .starting 1 ∧
      t.bit IDENT.STATUS.VAULTOK = crcOk ∧ t.bit IDENT.STATUS.KEYOK = (crcOk && sigOk) ∧
      t.holds 59 = !(crcOk && sigOk) ∧ t.cal.guard = s.vault.guard ∧ t.bit CAL.STATUS.NOSLOT = true ∧ t.vault = s.vault := by
  obtain ⟨hcrc, hkey, hfault, hguard, hvault, -⟩ := s.vaultKnown_tells crcOk sigOk
  obtain ⟨worn, hread⟩ := s.vaultRead_noSlot crcOk sigOk hs hl
  have hv : (s.vaultRead crcOk sigOk).vault = s.vault := by rw [hread, State.setB_vault, State.set_vault, hvault]
  have hg : (s.vaultRead crcOk sigOk).cal.guard = s.vault.guard := by rw [hread, State.setB_cal, State.set_cal, hguard]
  have hf : (s.vaultRead crcOk sigOk).holds 59 = !(crcOk && sigOk) := by
    rw [hread, State.holds, State.setB_condNow, State.set_condNow]
    exact hfault
  have hbit {f : Fld} (hw : TIME.STATUS.VLTWORN.apart f = true) :
      (s.vaultRead crcOk sigOk).bit f = ((s.vaultKnown crcOk sigOk).set CAL.STATUS.NOSLOT 1).bit f := by
    rw [hread, State.setB, State.bit_set_ne _ _ _ _ rfl hw]
  have hnone : (s.vaultRead crcOk sigOk).bit CAL.STATUS.NOSLOT = true := (hbit rfl).trans (State.bit_evt _ _ _ _ (by decide))
  have hok : (s.vaultRead crcOk sigOk).bit IDENT.STATUS.VAULTOK = crcOk :=
    (hbit rfl).trans ((State.bit_set_ne _ _ _ _ rfl rfl).trans hcrc)
  have hk : (s.vaultRead crcOk sigOk).bit IDENT.STATUS.KEYOK = (crcOk && sigOk) :=
    (hbit rfl).trans ((State.bit_set_ne _ _ _ _ rfl rfl).trans hkey)
  rw [exec_vaultRead h]
  generalize s.vaultRead crcOk sigOk = u at hv hg hf hnone hok hk
  refine ⟨_, rfl, rfl, hok, hk, hf, hg, hnone, ?_⟩
  simp [State.keep, hv]

theorem strapLatch_holds {s : State} {safcfg : BitVec 4} {brole : BitVec 2} (h : s.startAt 1 = true) :
    ∃ t, exec (.strapLatch safcfg brole) s = .next t ∧ t.pw.phase = .starting 2 ∧
      t.get SYS.STRAP.SAFCFG = safcfg.toNat ∧ t.get SYS.STRAP.BROLE = brole.toNat ∧
      (∀ a, a ≠ SYS.STRAP.SAFCFG.addr → t.reg a = s.reg a) ∧ t.vault = s.vault := by
  refine ⟨{ (s.set SYS.STRAP.SAFCFG safcfg.toNat).set SYS.STRAP.BROLE brole.toNat with pw := { s.pw with phase := .starting 2 } },
    by simp [exec, execStrapLatch, h], rfl, ?_, ?_, fun a ha => ?_, rfl⟩
  · exact (State.get_set_ne _ _ _ _ rfl rfl).trans ((State.get_set _ _ _ rfl).trans (Nat.mod_eq_of_lt safcfg.isLt))
  · exact (State.get_set _ _ _ rfl).trans (Nat.mod_eq_of_lt brole.isLt)
  · exact (State.reg_set_ne _ SYS.STRAP.BROLE _ _ ha).trans (State.reg_set_ne _ SYS.STRAP.SAFCFG _ _ ha)

/-- The state as a start begins, before the event of a wake held (R67). -/
def State.startBegun (s : State) (aux : Bool) : State :=
  ({ s with pw := { s.pw with phase := .starting 0, causes := 0, auxSupply := aux, vauxOk := aux || s.pw.vauxOk, wakeHeld := false } } : State).setReg
    SYS.RSTCAUSE.POR.addr (s.reg SYS.RSTCAUSE.POR.addr ||| BitVec.ofNat 16 (s.pw.causes % 512))

theorem exec_suppliesValid {s : State} {aux : Bool} (hph : s.pw.phase = .off) (hr : s.pw.rstnLow = false) (ht : s.pw.thermHold = false) :
    exec (.suppliesValid aux) s = .next (if s.pw.wakeHeld then (s.startBegun aux).evt SYS.EVT.WAKEHELD else s.startBegun aux) := by
  show Host.Outcome.next (if _ then _ else s) = _
  rw [if_pos ⟨hph, hr, ht⟩]
  rfl

theorem suppliesValid_starts {s : State} {aux : Bool} (hph : s.pw.phase = .off) (hr : s.pw.rstnLow = false) (ht : s.pw.thermHold = false) :
    ∃ t, exec (.suppliesValid aux) s = .next t ∧ t.pw.phase = .starting 0 ∧ t.pw.causes = 0 ∧
      t.reg SYS.RSTCAUSE.POR.addr = s.reg SYS.RSTCAUSE.POR.addr ||| BitVec.ofNat 16 (s.pw.causes % 512) ∧
      (∀ a, a ≠ SYS.RSTCAUSE.POR.addr → a ≠ SYS.EVT.WAKEHELD.addr → t.reg a = s.reg a) ∧ t.vault = s.vault := by
  have hcause : (s.startBegun aux).reg SYS.RSTCAUSE.POR.addr = s.reg SYS.RSTCAUSE.POR.addr ||| BitVec.ofNat 16 (s.pw.causes % 512) :=
    State.reg_setReg_self _ _ _
  have hrest (a : Nat) (ha : a ≠ SYS.RSTCAUSE.POR.addr) : (s.startBegun aux).reg a = s.reg a := State.reg_setReg_ne _ _ _ _ ha
  refine ⟨_, exec_suppliesValid hph hr ht, ?_⟩
  split
  · exact ⟨rfl, rfl, (State.reg_set_ne _ _ _ _ (by decide)).trans hcause, fun a ha he => (State.reg_set_ne _ _ _ _ he).trans (hrest a ha), rfl⟩
  · exact ⟨rfl, rfl, hcause, fun a ha _ => hrest a ha, rfl⟩

/-- Settles O9: each entry of the start in its turn. -/
theorem startSequence : Obligations.StartSequence :=
  ⟨fun _ _ hph hr ht => suppliesValid_starts hph hr ht, fun _ _ _ h hs hl => vaultRead_reads h hs hl,
    fun _ _ _ h => strapLatch_holds h, fun _ h => sentinelArm_active h⟩

/-! ### What holds a start off; waking -/

/-- Settles O10: each condition of an entry, and of a wake source, is the condition under which its command acts. -/
theorem startRefusals : Obligations.StartRefusals := by
  refine ⟨fun s die hd => ⟨_, ?_, rfl⟩, fun s die hlo hhi => ?_, fun s aux h => ?_, fun s hph hr => ⟨_, ?_, rfl⟩, fun s crcOk sigOk h => ?_,
    fun s safcfg brole h => ?_, fun s h => ?_, fun s hph hb => ⟨_, ?_, rfl⟩, fun s hph hb => ⟨_, ?_, rfl⟩, fun s hph hb => ⟨_, ?_, rfl⟩,
    fun s hph hr => ⟨_, ?_, rfl⟩, fun s p hph => ⟨fun hb => ?_, fun hb => ?_, fun hr => ?_⟩⟩
  · simp [exec, execThermalShutdown, show ¬ (2400 : Int) ≤ die by omega, hd]
  · simp [exec, execThermalShutdown, show ¬ (2400 : Int) ≤ die by omega, show ¬ die < 2160 by omega]
  · show Host.Outcome.next (if _ then _ else s) = _
    rw [if_neg]
    rintro ⟨-, hr, ht⟩
    simp [hr, ht] at h
  · simp [exec, execRstnWake, hr, hph]
  · simp [exec, execVaultRead, h]
  · simp [exec, execStrapLatch, h]
  · simp [exec, execSentinelArm, h]
  · simp [exec, execWakePin, hph, hb, State.wake]
  · simp [exec, execWakeToneDetect, hph, hb, State.wake]
  · simp [exec, execWakeToneDetect, hph, hb, State.wake]
  · simp [exec, execRstnWake, hr, hph, State.wake]
  · simp [exec, execWakePin, hb]
  · cases p with
    | up => simp only at hb; simp [exec, execWakeToneDetect, hb]
    | dn => simp only at hb; simp [exec, execWakeToneDetect, hb]
  · simp [exec, execRstnWake, hr]

end Sys2Proof.Machine
end

