-- ==== Sys2Proof/Proofs/SupplyFaults.lean ====
section
/-! SUPPORT. The supervisors' thresholds and the buck fault in a start and in operation (R56, R57). -/
namespace Sys2Proof.Machine

/-! ### Supervisors -/

theorem exec_supplyMonitor {s : State} (m : Monitor) (v : Nat) (h : s.powered = true) :
    ∃ t, exec (.supplyMonitor m v) s = .next t ∧ t.pw = s.pw.reading m v :=
  ⟨{ s.only (s.supply (s.pw.reading m v)) [.safe, .ban] with pw := s.pw.reading m v }, by simp [exec, execSupplyMonitor, h], rfl⟩

/-- Bit `i` of the supervisors' word follows the window, the others stay. -/
theorem railBits_testBit (r i : Nat) (b : Bool) : (railBits r i b).testBit i = b := by
  cases b with
  | true => simp [railBits]
  | false =>
    have hpow : 0 < 2 ^ i := Nat.two_pow_pos i
    rw [railBits, if_neg Bool.false_ne_true, Nat.and_two_pow]
    cases hr : r.testBit i with
    | false => simpa using hr
    | true =>
      have hodd : r / 2 ^ i % 2 = 1 := by simpa [Nat.testBit_eq_decide_div_mod_eq] using hr
      rw [Bool.toNat_true, Nat.one_mul, Nat.testBit_eq_decide_div_mod_eq, decide_eq_false]
      have hdiv : (r - 2 ^ i) / 2 ^ i = r / 2 ^ i - 1 := by simpa using Nat.sub_mul_div r (2 ^ i) 1
      omega

/-! ### The buck fault -/

/-- A command that stays in its phase and leaves the vault and the queue alone ends where its meaning does. -/
theorem State.settle_same {s t : State} (hl : t.pw.leave = none) (hph : t.pw.phase = s.pw.phase) (hv : t.vault = s.vault)
    (hq : t.pending = s.pending) : s.settle t = t := by
  rw [State.settle_stay s t hl, ← hph]
  obtain ⟨⟩ := t
  obtain ⟨⟩ := s
  simp only at hv hq
  subst hv hq
  rfl

/-- The meaning of a buck fault (R56). -/
def State.buckHit (s : State) : State :=
  match s.pw.phase with
  | .starting _ => (({ s with pw := { s.pw with buckStopped := true } } : State).evt SYS.EVT.BUCK).cond 54 true
  | _ => (s.evt SYS.EVT.BUCK).occur 54

theorem exec_buckFault_eq (s : State) (c : BuckCause) : exec (.buckFault c) s = whenPowered s State.buckHit := by
  unfold State.buckHit
  rfl

/-- The meaning of the buck's retry (R56). -/
def State.buckBegin (s : State) : State :=
  (({ s with pw := { s.pw with buckStopped := false, retries := s.pw.retries + 1 } } : State).inc SYS.RETRYCNT).cond 54 false

theorem exec_buckRetry_eq (s : State) : exec .buckRetry s = whenPowered s fun s => s.when s.pw.buckStopped State.buckBegin := (rfl)

section
variable {s : State}

theorem buckFault_starting {n : Nat} (c : BuckCause) (hph : s.pw.phase = .starting n) (hl : s.pw.leave = none) :
    ∃ t, exec (.buckFault c) s = .next t ∧ t.pw = { s.pw with buckStopped := true } ∧ t.bit SYS.EVT.BUCK = true ∧
      t.holds 54 = true ∧ t.vault = s.vault := by
  have hp : s.powered = true := by rw [State.powered, hph]
  have hhit : s.buckHit = (({ s with pw := { s.pw with buckStopped := true } } : State).evt SYS.EVT.BUCK).cond 54 true := by
    simp [State.buckHit, hph]
  refine ⟨s.buckHit, ?_, ?_, ?_, ?_, ?_⟩
  · rw [exec_buckFault_eq, whenPowered_on s _ hp, State.settle_same] <;> simp [hhit, hl]
  · simp [hhit]
  · rw [hhit, State.cond_bit]
    exact State.bit_evt _ _ _ _ (by decide)
  · rw [hhit, State.holds_cond _ _ _ _ (by decide), if_pos rfl]
  · simp [hhit]

theorem buckFault_active (c : BuckCause) (hph : s.pw.phase = .active) (hl : s.pw.leave = none) :
    ∃ t, exec (.buckFault c) s = .next t ∧ t.pw = s.pw ∧ t.bit SYS.EVT.BUCK = true ∧ t.condNow = s.condNow ∧
      t.occurred.getLsbD 54 = true ∧ t.evented.getLsbD 54 = true ∧ t.vault = s.vault := by
  have hhit : s.buckHit = (s.evt SYS.EVT.BUCK).occur 54 := by simp [State.buckHit, hph]
  refine ⟨s.buckHit, ?_, ?_, ?_, ?_, ?_, ?_, ?_⟩
  · rw [exec_buckFault_eq, whenPowered_on s _ (State.powered_of_active hph), State.settle_same] <;> simp [hhit, hl]
  · simp [hhit]
  · rw [hhit, State.occur_bit]
    exact State.bit_evt _ _ _ _ (by decide)
  · simp [hhit]
  · simp [hhit, State.occur]
  · simp [hhit, State.occur]
  · simp [hhit]

theorem buckRetry_begins (hp : s.powered = true) (hl : s.pw.leave = none) (hb : s.pw.buckStopped = true) :
    ∃ t, exec .buckRetry s = .next t ∧ t.pw = { s.pw with buckStopped := false, retries := s.pw.retries + 1 } ∧
      t.get SYS.RETRYCNT = min (s.get SYS.RETRYCNT + 1) 65535 ∧ t.holds 54 = false ∧
      (∀ a, a ≠ SYS.RETRYCNT.addr → t.reg a = s.reg a) := by
  have hwhen : s.when s.pw.buckStopped State.buckBegin = s.buckBegin := if_pos hb
  refine ⟨s.buckBegin, ?_, ?_, ?_, ?_, fun a ha => ?_⟩
  · rw [exec_buckRetry_eq, whenPowered_on s _ hp, hwhen, State.settle_same] <;> simp [State.buckBegin, hl]
  · simp [State.buckBegin]
  · rw [State.buckBegin, State.cond_get, State.inc, State.get_set _ _ _ rfl]
    exact Nat.mod_eq_of_lt (by show min _ (2 ^ 16 - 1) < 2 ^ 16; omega)
  · rw [State.buckBegin, State.holds_cond _ _ _ _ (by decide), if_pos rfl]
  · rw [State.buckBegin, State.cond_reg, State.inc, State.reg_set_ne _ _ _ _ ha]
    rfl

end

/-- Settles O12: the supervisors are `Power.reading`, a bit of which is the window (`railBits_testBit`); the buck fault and its retry
end where their meanings do. -/
theorem supplyFaults : Obligations.SupplyFaults := by
  refine ⟨fun s v hp => exec_supplyMonitor .vstk v hp, fun s v hp => exec_supplyMonitor .vaux v hp,
    fun s v hp => exec_supplyMonitor .vpre v hp, fun s v hp => exec_supplyMonitor .senLdo v hp, fun s v m i hp hm => ?_,
    fun s n c hph hl => buckFault_starting c hph hl, fun s c hph hl => buckFault_active c hph hl,
    fun s hp hl hb => buckRetry_begins hp hl hb⟩
  obtain ⟨t, ht, hpw⟩ := exec_supplyMonitor (s := s) m v hp
  refine ⟨t, ht, ?_⟩
  simp only [List.mem_cons, Prod.mk.injEq, List.not_mem_nil, or_false] at hm
  rw [hpw]
  rcases hm with ⟨rfl, rfl⟩ | ⟨rfl, rfl⟩ | ⟨rfl, rfl⟩ <;> exact railBits_testBit _ _ _

end Sys2Proof.Machine
end

