-- ==== Sys2Proof/Proofs/FlashOperations.lean ====
section
/-! SUPPORT. The end of a flash operation, and the flush of the gallery: the parts and pages they act on (R168, R390, R412, R415). -/
namespace Sys2Proof.Machine

/-! ### The parts that the end of an operation acts on -/

section
variable (s : State)

theorem State.pw_of_without {s t : State} {c : List Part} (h : t.without c = s.without c) : t.pw = s.pw := by
  rw [← State.only_of_without h]
  rfl

theorem State.setFl_flash (f : Flash) : (s.setFl f).without flashParts = s.without flashParts := s.setFl_without (by decide) f

theorem State.retire_without (q : Nat) : (s.retire q).without flashParts = s.without flashParts := by
  simp only [State.retire, State.ite_without, State.setFl_flash, ite_self]

theorem State.failCheck_without : s.failCheck.without flashParts = s.without flashParts := by
  simp only [State.failCheck, State.ite_without, State.flFail_without, ite_self]

theorem State.anchorDone_without (ok : Bool) : (s.anchorDone ok).without flashParts = s.without flashParts := by
  rw [State.anchorDone, State.failCheck_without, State.setFl_flash]

theorem State.eraseDone_without : s.eraseDone.without flashParts = s.without flashParts := by
  simp only [State.eraseDone, State.flWear, State.healthSet_without, State.ite_without, State.set2_without, State.setFl_flash, ite_self]

theorem State.placeAt_without (r : Record) : (s.placeAt r).without flashParts = s.without flashParts := s.setFl_flash _

theorem State.setBegun_without (d : Draft) (r : Record) : (s.setBegun d r).without flashParts = s.without flashParts := by
  unfold State.setBegun
  split
  · exact s.setFl_flash _
  · rfl

theorem State.setDone_without (d : Draft) (r : Record) : (s.setDone d r).without flashParts = s.without flashParts := by
  unfold State.setDone
  split
  · simp only [State.ite_without, State.setFl_flash, ite_self]
  · rfl

theorem State.keepLists_without (d : Draft) (r : Record) : (s.keepLists d r).without flashParts = s.without flashParts := by
  have hend (u : State) : (if d.setLen ≠ 39 then u else if d.setIdx = 0 then u.setBegun d r else
      if d.setIdx = 38 then u.setDone d r else u).without flashParts = u.without flashParts := by
    simp only [State.ite_without, State.setBegun_without, State.setDone_without, ite_self]
  unfold State.keepLists
  refine (hend _).trans ?_
  split <;> simp only [State.ite_without, State.setFl_flash, ite_self]

theorem State.recordDone_without (r : Record) (d : Draft) (errs : Nat) : (s.recordDone r d errs).without flashParts = s.without flashParts := by
  simp only [State.recordDone, State.ite_without, State.retire_without, State.evt_without, State.inc_without, State.keepLists_without,
    State.setFl_flash, State.placeAt_without, State.set_without, ite_self]

theorem State.copyDone_without (r : Record) (k : Nat) (fix : Bool) (errs : Nat) :
    (s.copyDone r k fix errs).without flashParts = s.without flashParts := by
  simp only [State.copyDone, State.ite_without, State.retire_without, State.occur_without, State.evt_without, State.inc_without,
    State.setFl_flash, State.placeAt_without, ite_self]

theorem State.uncarry_without : s.uncarry.without flashParts = s.without flashParts := State.withTmFl_without s (by decide) (by decide) _ _

theorem State.pageDone_without (n : Nat) (e : OpEnd) : (s.pageDone n e).without flashParts = s.without flashParts := by
  cases e with
  | ok c =>
    have hweak : (if 3 ≤ c then s.setFl { s.fl with weak := true } else s).without flashParts = s.without flashParts := by
      simp only [State.ite_without, State.setFl_flash, ite_self]
    simp only [State.pageDone]
    split
    · rw [State.setFl_flash, hweak]
    · split
      · rw [State.recordDone_without, hweak]
      · rw [State.copyDone_without, hweak]
      · exact hweak
  | failed =>
    simp only [State.pageDone]
    split
    · rw [State.recBegin_without _ (by decide) (by decide), State.uncarry_without, State.retire_without]
    · rw [State.setFl_flash, State.retire_without]

theorem State.writeSlot_without (sl : CalSlot) (ok : Bool) : (s.writeSlot sl false ok).without flashParts = s.without flashParts := by
  have hf : Part.fl ∈ flashParts := by decide
  simp only [State.writeSlot, Bool.false_eq_true, if_false, State.ite_without, State.withFl_without _ hf, ite_self]

theorem State.persistDone_without (v ok : Bool) : (s.persistDone v ok).without flashParts = s.without flashParts := by
  unfold State.persistDone
  split
  · rfl
  · simp only [State.ite_without, State.evt_without, State.withCfg_without _ (show Part.cfg ∈ flashParts by decide), ite_self]

theorem State.slotWritten_without (sl : CalSlot) (ok : Bool) : (s.slotWritten sl false ok).without flashParts = s.without flashParts := by
  simp only [State.slotWritten, State.pimg, Bool.false_eq_true, if_false, State.ite_without, State.persistDone_without, State.setB_without,
    State.evt_without, State.set2_without, State.withCal_without _ (show Part.cal ∈ flashParts by decide), ite_self]

/-- A pending wipe taken back, and what waits for the next commit (R442, R454). -/
theorem State.withWipe_without (x : Cfg) (w : Bool) :
    ({ s with cfg := x, vault := { s.vault with wipe := w } } : State).without flashParts = s.without flashParts :=
  (State.withVault_without { s with cfg := x } (by decide) { s.vault with wipe := w } rfl).trans (s.withCfg_without (by decide) x)

theorem State.withSlot_without (x : Cfg) (f : Flash) : ({ s with fl := f, cfg := x } : State).without flashParts = s.without flashParts :=
  (State.withCfg_without { s with fl := f } (by decide) x).trans (s.withFl_without (by decide) f)

theorem State.slotDone_without (ok : Bool) : (s.slotDone ok).without flashParts = s.without flashParts := by
  unfold State.slotDone
  split
  · rfl
  · rw [State.withWipe_without, State.slotWritten_without, State.writeSlot_without, State.withSlot_without]

/-- The end of an operation changes no part but those of the flash's work. -/
theorem State.opDone_without (e : OpEnd) : (s.opDone e).without flashParts = s.without flashParts := by
  unfold State.opDone
  dsimp only
  split
  · rw [State.flStatus_without, State.setFl_flash]
  · simp only [State.opNext_without, State.ite_without, State.pageDone_without, State.setFl_flash, ite_self]
  · split
    · rw [State.flStatus_without, State.setFl_flash]
    · rw [State.opNext_without]
      split <;> simp only [State.ite_without, State.anchorDone_without, State.eraseDone_without, State.retire_without,
        State.slotDone_without, State.setFl_flash, ite_self]

end

/-! ### The flush of the gallery -/

section
variable {c : List Part} (s : State)

theorem State.handOne_without (h : Part.fl ∈ c) (d : Draft) : (s.handOne d).without c = s.without c := by
  simp only [State.handOne, State.ite_without, State.setFl_without _ h, State.inc_without, ite_self]

theorem State.handSeal_without (h : Part.fl ∈ c) (cls flags rank : Nat) (closing : Bool) :
    (s.handSeal cls flags rank closing).without c = s.without c := by
  simp only [State.handSeal, State.ite_without, State.handOne_without _ h, ite_self]

theorem State.handSet_without (h : Part.fl ∈ c) (flags cls rank : Nat) (closing segend : Bool) :
    (s.handSet flags cls rank closing segend).without c = s.without c := by
  simp only [State.handSet, State.ite_without, State.setFl_without _ h, State.inc_without, ite_self]

theorem State.galNewer_without : s.galNewer.without c = s.without c := by
  simp only [State.galNewer, State.ite_without, State.setB_without, ite_self]

theorem State.galFlush_without (h : Part.fl ∈ c) (hg : Part.gal ∈ c) (segend : Bool) : (s.galFlush segend).without c = s.without c := by
  simp only [State.galFlush, State.flStatus_without, State.galNewer_without, State.ite_without, State.setGal_without _ hg,
    State.xfer_without _ hg, State.setFl_without _ h, State.handSeal_without _ h, State.handSet_without _ h, ite_self]

theorem State.gal_of_without {s t : State} {c : List Part} (hc : Part.gal ∉ c) (h : t.without c = s.without c) : t.gal = s.gal := by
  rw [← State.only_of_without h]
  simp [State.only, hc]

theorem State.xfer_stopped : s.xfer.gal.stopped = s.gal.stopped := by
  unfold State.xfer
  split <;> rfl

/-- A flush leaves the gallery stopped or running as it was. -/
theorem State.galFlush_stopped (segend : Bool) : (s.galFlush segend).gal.stopped = s.gal.stopped := by
  have hite (p : Prop) [Decidable p] (u v : State) : (if p then u else v).gal.stopped = if p then u.gal.stopped else v.gal.stopped :=
    apply_ite (fun w : State => w.gal.stopped) p u v
  have hsame {u v : State} (h : v.without [.fl] = u.without [.fl]) : v.gal.stopped = u.gal.stopped := by
    rw [State.gal_of_without (by decide) h]
  have hfold (u : State) : (u.setGal (u.gal.fold u.tm.ltc false)).gal.stopped = u.gal.stopped := rfl
  have hdrop (u : State) : (u.setGal u.gal.dropRem).gal.stopped = u.gal.stopped := rfl
  have hfl (u : State) (f : Flash) : (u.setFl f).gal.stopped = u.gal.stopped := rfl
  simp only [State.galFlush, hsame (State.flStatus_without _), hsame (State.galNewer_without _), hite, hdrop, hfold, hfl,
    State.xfer_stopped, hsame (State.handSeal_without _ (show Part.fl ∈ [Part.fl] by decide) _ _ _ _),
    hsame (State.handSet_without _ (show Part.fl ∈ [Part.fl] by decide) _ _ _ _ _), ite_self]

/-! ### The pages -/

variable {p : Nat}

theorem State.setFl_pageWords (f : Flash) : (s.setFl f).pageWords p = s.pageWords p := (rfl)
theorem State.setGal_pageWords (g : Gal) : (s.setGal g).pageWords p = s.pageWords p := (rfl)
theorem State.tick_pageWords : s.tick.pageWords p = s.pageWords p := (rfl)

theorem State.galNewer_pageWords (h : 0x18 ≠ p) : s.galNewer.pageWords p = s.pageWords p := by
  simp (disch := simpa [Fld.addr, linear] using h) only [State.galNewer, State.ite_pageWords, State.setB_pageWords, ite_self]

theorem State.xfer_pageWords (h : 0x18 ≠ p) : s.xfer.pageWords p = s.pageWords p := by
  simp (disch := simpa [Fld.addr, linear] using h) only [State.xfer, State.ite_pageWords, State.setB_pageWords, State.evt_pageWords,
    State.inc_pageWords, State.setGal_pageWords, ite_self]

theorem State.progNext_pageWords : s.progNext.pageWords p = s.pageWords p := by
  simp only [State.progNext, State.ite_pageWords, State.setFl_pageWords, ite_self]

theorem State.draftNext_pageWords (d : Draft) (l : List Draft) : (s.draftNext d l).pageWords p = s.pageWords p := by
  have hrec (u : State) : (u.recBegin d).pageWords p = u.pageWords p := rfl
  simp only [State.draftNext, State.ite_pageWords, State.occur_pageWords, State.progNext_pageWords, hrec, State.tick_pageWords,
    State.setFl_pageWords, ite_self]

section
variable (h : 0x19 ≠ p)
include h

theorem State.flStatus_pageWords : s.flStatus.pageWords p = s.pageWords p := by
  simp (disch := simpa [Fld.addr, Fld.plus, linear] using h) only [State.flStatus, State.setB_pageWords, State.set_pageWords,
    State.set2_pageWords]

theorem State.handOne_pageWords (d : Draft) : (s.handOne d).pageWords p = s.pageWords p := by
  simp (disch := simpa [Fld.addr, linear] using h) only [State.handOne, State.ite_pageWords, State.inc_pageWords, State.setFl_pageWords,
    ite_self]

theorem State.handSeal_pageWords (cls flags rank : Nat) (closing : Bool) :
    (s.handSeal cls flags rank closing).pageWords p = s.pageWords p := by
  simp only [State.handSeal, State.ite_pageWords, State.handOne_pageWords _ h, ite_self]

theorem State.handSet_pageWords (flags cls rank : Nat) (closing segend : Bool) :
    (s.handSet flags cls rank closing segend).pageWords p = s.pageWords p := by
  simp (disch := simpa [Fld.addr, linear] using h) only [State.handSet, State.ite_pageWords, State.inc_pageWords, State.setFl_pageWords,
    ite_self]

theorem State.galFlush_pageWords (hg : 0x18 ≠ p) (segend : Bool) : (s.galFlush segend).pageWords p = s.pageWords p := by
  simp only [State.galFlush, State.flStatus_pageWords _ h, State.galNewer_pageWords _ hg, State.ite_pageWords, State.setGal_pageWords,
    State.xfer_pageWords _ hg, State.setFl_pageWords, State.handSeal_pageWords _ h, State.handSet_pageWords _ h, ite_self]

theorem State.flFail_pageWords : s.flFail.pageWords p = s.pageWords p := by
  have habort (u : State) : u.flAbort.pageWords p = u.pageWords p := by
    cases hn : u.uncarry.fl.slotNew <;> simp only [State.flAbort, hn] <;> rfl
  have htomb (u : State) : u.tombWrite.pageWords p = u.pageWords p := by
    rw [State.tombWrite, State.flStatus_pageWords _ h]
    rfl
  simp (disch := simpa [Fld.addr, linear] using h) only [State.flFail, State.ite_pageWords, State.flStatus_pageWords _ h, State.fault44,
    State.cond_pageWords, htomb, State.set_pageWords, State.setFl_pageWords, habort, State.evt_pageWords, ite_self]

theorem State.retireNow_pageWords (q : Nat) : (s.retireNow q).pageWords p = s.pageWords p := by
  simp (disch := simpa [Fld.addr, linear] using h) only [State.retireNow, State.failCheck, State.ite_pageWords,
    State.flFail_pageWords _ h, State.occur_pageWords, State.evt_pageWords, State.inc_pageWords, State.setFl_pageWords, ite_self]

theorem State.tidyNext_pageWords : s.tidyNext.pageWords p = s.pageWords p := by
  have hcopy (u : State) (k : Nat) (fix : Bool) : (u.copyBegin k fix).pageWords p = u.pageWords p := rfl
  unfold State.tidyNext
  split
  · split <;> simp only [State.progNext_pageWords, hcopy, State.retireNow_pageWords _ h]
  · dsimp only
    split
    · split <;> simp only [State.ite_pageWords, State.progNext_pageWords, hcopy, State.retireNow_pageWords _ h,
        State.setFl_pageWords, ite_self]
    · split <;> simp only [State.progNext_pageWords, hcopy, State.setFl_pageWords]

theorem State.opNext_pageWords : s.opNext.pageWords p = s.pageWords p := by
  cases hw : s.fl.wait <;> simp only [State.opNext, hw, State.ite_pageWords, State.flStatus_pageWords _ h, State.progNext_pageWords,
    State.setFl_pageWords, State.draftNext_pageWords, State.tidyNext_pageWords _ h, ite_self]

end
end
end Sys2Proof.Machine
end

