-- ==== Sys2Proof/Proofs/ClosingSteps.lean ====
section
/-! SUPPORT. The gate of an acting command, and software reset and SLEEP as requests (R66, R68). -/
namespace Sys2Proof.Machine

/-! ### How an acting command ends -/

theorem State.leave_pw {s : State} (h : s.pw.leave = none) (l : Leave) : (s.leave l).pw = { s.pw with leave := some l } := by
  simp [State.leave, h]

section
variable {s u : State}

/-- A command that keeps the phase and does not leave ACTIVE: the vault and the queue aside, its meaning is its end. -/
theorem State.settle_keep (hl : u.pw.leave = none) (hph : u.pw.phase = s.pw.phase) : s.settle u = s.keep u := by
  rw [State.settle_stay s u hl, ← hph]

theorem State.settle_pw (hl : u.pw.leave = none) (hph : u.pw.phase = s.pw.phase) : (s.settle u).pw = u.pw := by
  rw [State.settle_keep hl hph]
  rfl

/-- A command that leaves ACTIVE through a reset: what stands afterwards (R66). -/
theorem State.settle_reset (hl : u.pw.leave = none) (c : Nat) : (s.settle (u.leave (.reset c))).Cleared ∧
    (s.settle (u.leave (.reset c))).pw.phase = .off ∧ (s.settle (u.leave (.reset c))).pw.causes = u.pw.causes ||| c ∧
    ∀ a, alwaysOn a = true → (s.settle (u.leave (.reset c))).reg a = u.reg a := by
  have hpw := State.leave_pw hl (.reset c)
  have hcauses : (u.leave (.reset c)).pw.causes = u.pw.causes := by rw [hpw]
  have hreg (a : Nat) : (u.leave (.reset c)).reg a = u.reg a := u.leave_reg _ a
  rw [State.settle_leave s _ (.reset c) (by rw [hpw]), State.left_reset]
  generalize u.leave (.reset c) = v at hcauses hreg
  refine ⟨(v.afterReset_cleared c false).keep s, v.afterReset_phase c false, ?_, fun a ha => ?_⟩
  · exact (v.afterReset_causes c).trans (by rw [hcauses])
  · exact (v.afterReset_alwaysOn c ha).trans (hreg a)

end

/-! ### The ring write of a closing step (R40) -/

section
variable (s : State)

theorem State.vaultRing_without (hi : Nat) (closed : Bool) : (s.vaultRing hi closed).without [.tm, .vault] = s.without [.tm, .vault] := by
  rw [State.vaultRing]
  have hret := s.ringRetire_without (Config.ringFails s.vault.ringWrites)
  by_cases h : (s.ringRetire (Config.ringFails s.vault.ringWrites)).vault.ringBad < 128
  · rw [State.ringWrite_without h, hret]
  · rw [State.ringWrite, if_pos (by omega), hret]

theorem State.vaultClose_without : s.vaultClose.without [.tm, .vault] = s.without [.tm, .vault] := by
  simp only [State.vaultClose, State.ite_without, State.vaultRing_without, ite_self]

theorem State.vaultClose_pw : s.vaultClose.pw = s.pw := State.pw_of_without s.vaultClose_without

theorem State.withRing_pageWords (v : Vault) (x : Time) {p : Nat} : ({ s with vault := v, tm := x } : State).pageWords p = s.pageWords p :=
  (rfl)

theorem State.ringRetire_pageWords {p : Nat} (h : 3 ≠ p) (n : Nat) : (s.ringRetire n).pageWords p = s.pageWords p :=
  (State.setB_pageWords _ (f := TIME.STATUS.VLTWORN) h _).trans (s.withRing_pageWords _ s.tm)

theorem State.ringWrite_pageWords {p : Nat} (h : 3 ≠ p) (hi : Nat) (closed : Bool) : (s.ringWrite hi closed).pageWords p = s.pageWords p := by
  rw [State.ringWrite]
  split
  · rfl
  · exact (State.setB_pageWords _ (f := TIME.STATUS.VLTWORN) h _).trans (s.withRing_pageWords _ _)

theorem State.vaultClose_pageWords {p : Nat} (h : 3 ≠ p) : s.vaultClose.pageWords p = s.pageWords p := by
  simp only [State.vaultClose, State.vaultRing, State.ite_pageWords, State.ringWrite_pageWords _ h, State.ringRetire_pageWords _ h, ite_self]

/-! ### Software reset -/

theorem State.closingEnd_swrst (h : s.pw.closing = some .swrst) : s.closingEnd = s.vaultClose.leave (.reset 8) := by
  simp [State.closingEnd, h]

/-- The end of a software reset's closing step is the reset. -/
theorem swrst_ends {u : State} (hl : u.pw.leave = none) (hc : u.pw.closing = some .swrst) : (s.settle u.closingEnd).Cleared ∧
    (s.settle u.closingEnd).pw.phase = .off ∧ (s.settle u.closingEnd).pw.causes = u.pw.causes ||| 8 ∧
    ∀ a, alwaysOn a = true → (s.settle u.closingEnd).reg a = u.reg a := by
  have hpw := u.vaultClose_pw
  obtain ⟨hcl, hph, hcauses, hon⟩ := State.settle_reset (s := s) (u := u.vaultClose) (by rw [hpw, hl]) 8
  rw [u.closingEnd_swrst hc]
  refine ⟨hcl, hph, by rw [hcauses, hpw], fun a ha => (hon a ha).trans ?_⟩
  refine State.reg_of_pageWords (u.vaultClose_pageWords (p := 1) (by decide)) ?_
  simp only [alwaysOn, Bool.or_eq_true, beq_iff_eq] at ha
  rcases ha with ((rfl | rfl) | rfl) | rfl <;> rfl

end

/-- A closing step begins: what is noted. -/
def State.closeNoted (s : State) (k : Closing) : State :=
  { s with pw := { s.pw with closing := some k }, fl := { s.fl with flushed := false } }

section
variable {s : State}

theorem State.closeBegin_ready (h : s.flState = 1) (k : Closing) (segend : Bool) :
    s.closeBegin k segend = { ((s.closeNoted k).galFlush segend).opNext with pw := (s.closeNoted k).pw } := by
  have hr : (s.closeNoted k).flState = 1 := h
  exact if_pos hr

theorem State.closeBegin_none (h : s.flState ≠ 1) (k : Closing) (segend : Bool) : s.closeBegin k segend = (s.closeNoted k).closingEnd := by
  have hr : (s.closeNoted k).flState ≠ 1 := h
  exact if_neg hr

theorem exec_swrst_eq (s : State) (key : Byte) : exec (.swrst key) s = whenActing s fun s => s.swrst key := (rfl)
theorem exec_sleep_eq (s : State) (key : Byte) : exec (.sleep key) s = whenActing s fun s => s.sleepHost key := (rfl)
theorem exec_closingFlushTimeout_eq (s : State) : exec .closingFlushTimeout s = whenActing s State.closingEnd := (rfl)
theorem exec_flashOpDone_eq (s : State) (e : OpEnd) : exec (.flashOpDone e) s =
    whenActing s fun s => if (s.opDone e).flushOver then (s.opDone e).closingEnd else s.opDone e := (rfl)

/-- A command that notes something in the power state alone. -/
theorem whenActing_notes (hact : s.pw.phase = .active) {k : State → State} {p : Power} (hk : k s = { s with pw := p })
    (hph : p.phase = s.pw.phase) (hpl : p.leave = none) : whenActing s k = .next { s with pw := p } := by
  rw [whenActing_active s _ hact, hk, State.settle_same (s := s) (t := { s with pw := p }) hpl hph rfl rfl]

theorem State.swrst_begins (hc : s.pw.closing = none) : s.swrst 0xA5#8 = s.closeBegin .swrst false := by
  simp [State.swrst, hc]

variable (hact : s.pw.phase = .active) (hl : s.pw.leave = none)
include hact hl

theorem exec_key_rejected {key : Byte} (hk : key ≠ 0xA5#8) :
    exec (.swrst key) s = .next (s.evt SYS.EVT.KEYREJ) ∧ exec (.sleep key) s = .next (s.evt SYS.EVT.KEYREJ) := by
  have hplain : s.settle (s.evt SYS.EVT.KEYREJ) = s.evt SYS.EVT.KEYREJ := State.settle_plain _ _ hl rfl rfl rfl
  rw [exec_swrst_eq, exec_sleep_eq, whenActing_active s _ hact, whenActing_active s _ hact, State.swrst, State.sleepHost, if_pos hk,
    if_pos hk, hplain]
  exact ⟨rfl, rfl⟩

theorem swrst_at_once (hc : s.pw.closing = none) (hf : s.flState ≠ 1) : ∃ t, exec (.swrst 0xA5#8) s = .next t ∧ t.Cleared ∧
    t.pw.phase = .off ∧ t.pw.causes = s.pw.causes ||| 8 ∧ (∀ a, alwaysOn a = true → t.reg a = s.reg a) := by
  refine ⟨_, (exec_swrst_eq s _).trans (whenActing_active s _ hact), ?_⟩
  rw [State.swrst_begins hc, State.closeBegin_none hf]
  exact swrst_ends s (u := s.closeNoted .swrst) hl rfl

theorem swrst_flushes (hc : s.pw.closing = none) (hf : s.flState = 1) : ∃ t, exec (.swrst 0xA5#8) s = .next t ∧
    t.pw = { s.pw with closing := some .swrst } := by
  refine ⟨_, (exec_swrst_eq s _).trans (whenActing_active s _ hact), ?_⟩
  rw [State.swrst_begins hc, State.closeBegin_ready hf, State.settle_pw]
  · rfl
  · exact hl
  · rfl

theorem flashOpDone_resets (e : OpEnd) (hc : s.pw.closing = some .swrst) (ho : (s.opDone e).flushOver = true) :
    ∃ t, exec (.flashOpDone e) s = .next t ∧ t.Cleared ∧ t.pw.phase = .off ∧ t.pw.causes = s.pw.causes ||| 8 := by
  have hpw : (s.opDone e).pw = s.pw := State.pw_of_without (s.opDone_without e)
  obtain ⟨hcl, hph, hcauses, -⟩ := swrst_ends s (u := s.opDone e) (by rw [hpw, hl]) (by rw [hpw, hc])
  refine ⟨_, (exec_flashOpDone_eq s e).trans ((whenActing_active s _ hact).trans (by rw [if_pos ho])), hcl, hph, ?_⟩
  rw [hcauses, hpw]

theorem closingFlushTimeout_resets (hc : s.pw.closing = some .swrst) :
    ∃ t, exec .closingFlushTimeout s = .next t ∧ t.Cleared ∧ t.pw.phase = .off ∧ t.pw.causes = s.pw.causes ||| 8 := by
  obtain ⟨hcl, hph, hcauses, -⟩ := swrst_ends s (u := s) hl hc
  exact ⟨_, (exec_closingFlushTimeout_eq s).trans (whenActing_active s _ hact), hcl, hph, hcauses⟩

end

/-- Settles O13: without a READY flash, at the end of the flush, and at its timeout a software reset ends in `State.closingEnd`, which is
the reset (`swrst_ends`); every other request is noted in the power state alone. -/
theorem resetAndSleepRequests : Obligations.ResetAndSleepRequests := by
  refine ⟨fun s key hact hl hk => exec_key_rejected hact hl hk, fun s hact hl hc hf => swrst_at_once hact hl hc hf,
    fun s hact hl hc hf => swrst_flushes hact hl hc hf, fun s e hact hl hc ho => flashOpDone_resets hact hl e hc ho,
    fun s hact hl hc => closingFlushTimeout_resets hact hl hc, fun s hact hl hc => ?_, fun s hact hl hr => ?_,
    fun s hact hl hr hw => ?_, fun s hact hl hr => ?_⟩
  · exact (exec_swrst_eq s _).trans (whenActing_notes hact (by simp [State.swrst, hc]) rfl hl)
  · exact (exec_sleep_eq s _).trans (whenActing_notes hact (by simp [State.sleepHost, hr]) rfl hl)
  · exact (exec_sleep_eq s _).trans (whenActing_notes hact (by simp [State.sleepHost, hr, hw]) rfl hl)
  · exact (exec_sleep_eq s _).trans (whenActing_notes (p := s.pw) hact (by simp [State.sleepHost, hr]) rfl hl)

end Sys2Proof.Machine
end

