-- ==== Sys2Proof/Proofs/SleepSteps.lean ====
section
/-! SUPPORT. SLEEP from its request to power-down or a new start, and the communication-loss path that a mark ends (R68 to R73). -/
namespace Sys2Proof.Machine

/-! ### Communication loss (R68, R267) -/

/-- The loss of communication noted. -/
def State.commNoted (s : State) : State := { s with safe := { s.safe with commOut := true } }

/-- SF7 trips (R267). -/
def State.commTrip (s : State) : State := s.commNoted.trip 6 false 0 false s.commNoted.nowNs

/-- SLEEP is asked for where it is not already (R68). -/
def State.askSleep (s : State) : State :=
  if s.pw.sleepReq.isSome then s
  else { s with pw := { s.pw with sleepReq := some .commLoss, reqAt := s.tm.tread }, link := { s.link with sleepAbort := false } }

theorem exec_commLossTimeout_eq (s : State) : exec .commLossTimeout s =
    whenActing s fun s => s.when (decide (s.used LINK.LOSS_TO ≤ s.link.loss) && !s.safe.commOut) fun s => s.commTrip.askSleep := (rfl)

section
variable (s : State) (k : Nat) (sen : Bool) (index : Nat) (fast : Bool) (t : Nat)

theorem State.trip_without {c : List Part} (hs : Part.safe ∈ c) (hb : Part.ban ∈ c) :
    (s.trip k sen index fast t).without c = s.without c := by
  rw [State.trip, State.lockCause_without _ hs hb, State.cond_without]

theorem State.trip_holds (hk : k < 8) : (s.trip k sen index fast t).holds k = true := by
  rw [State.trip, State.lockCause_holds _ _ _ _ _ (by omega), State.holds_cond _ _ _ _ (by omega), if_pos rfl]

theorem State.trip_commOut : (s.trip k sen index fast t).safe.commOut = s.safe.commOut := by
  rw [State.trip, State.lockCause_commOut, State.cond_safe]

theorem State.trip_locked : (s.trip k sen index fast t).locked = true := State.lockCause_locked _ _ _ _ _
theorem State.trip_event : (s.trip k sen index fast t).bit SAFE.EVT.TRIP = true := State.lockCause_trip _ _ _ _

end

theorem State.commTrip_without (s : State) : s.commTrip.without [.safe, .ban] = s.without [.safe, .ban] :=
  (State.trip_without _ _ _ _ _ _ (by decide) (by decide)).trans (s.withSafe_without (by decide) _)

theorem State.askSleep_asks {u : State} (h : u.pw.sleepReq = none) : u.askSleep =
    { u with pw := { u.pw with sleepReq := some .commLoss, reqAt := u.tm.tread }, link := { u.link with sleepAbort := false } } :=
  if_neg (by simp [h])

theorem commLossTimeout_trips {s : State} (hact : s.pw.phase = .active) (hl : s.pw.leave = none)
    (hloss : s.used LINK.LOSS_TO ≤ s.link.loss) (hout : s.safe.commOut = false) (hr : s.pw.sleepReq = none) :
    ∃ t, exec .commLossTimeout s = .next t ∧ t.pw = { s.pw with sleepReq := some .commLoss, reqAt := s.tm.tread } ∧
      t.safe.commOut = true ∧ t.holds 6 = true ∧ t.locked = true ∧ t.bit SAFE.EVT.TRIP = true := by
  have hpw := State.pw_of_without s.commTrip_without
  have htm := State.tm_of_without (by decide) s.commTrip_without
  have hcomm : s.commTrip.safe.commOut = true := State.trip_commOut _ _ _ _ _ _
  have hholds : s.commTrip.holds 6 = true := State.trip_holds _ _ _ _ _ _ (by decide)
  have hlock : s.commTrip.locked = true := State.trip_locked _ _ _ _ _ _
  have hev : s.commTrip.bit SAFE.EVT.TRIP = true := State.trip_event _ _ _ _ _ _
  have hwhen : (s.when (decide (s.used LINK.LOSS_TO ≤ s.link.loss) && !s.safe.commOut) fun s => s.commTrip.askSleep) =
      s.commTrip.askSleep := if_pos (by simp [hloss, hout])
  rw [exec_commLossTimeout_eq, whenActing_active s _ hact, hwhen, State.askSleep_asks (by rw [hpw, hr])]
  generalize s.commTrip = u at hpw htm hcomm hholds hlock hev
  refine ⟨_, rfl, ?_⟩
  rw [State.settle_keep]
  · exact ⟨by rw [← hpw, ← htm]; rfl, hcomm, hholds, hlock, hev⟩
  · show u.pw.leave = none
    rw [hpw, hl]
  · show u.pw.phase = s.pw.phase
    rw [hpw]

/-! ### The beginning of an entry (R69, R381, R424) -/

/-- Step 1 of an entry up to its flush: what both kinds of request stop. -/
def State.sleepStops (s : State) : State :=
  ((s.setGal { s.gal with stopped := true }).tipStop).cutSwitches ((List.range 36).map (· + 1))

/-- The lock-out of a host request. -/
def State.hostLock (s : State) : State :=
  ({ s with safe := { s.safe with hostAt := some s.tm.tread } }).lockCause 12 0 s.nowNs true

theorem State.sleepBegin_host (s : State) :
    s.sleepBegin .host = ((s.setB SYS.STATUS.SLEEPPEND true).hostLock.sleepStops).closeBegin (.sleep .host) false := (rfl)

theorem State.sleepBegin_commLoss (s : State) :
    s.sleepBegin .commLoss = ((s.setB SYS.STATUS.SLEEPPEND true).sleepStops).closeBegin (.sleep .commLoss) false := (rfl)

section
variable (s : State)

theorem State.sleepStops_pw : s.sleepStops.pw = s.pw := by
  have hg : Part.gal ∈ [Part.gal, .tip, .bal] := by decide
  have ht : Part.tip ∈ [Part.gal, .tip, .bal] := by decide
  refine State.pw_of_without (c := [.gal, .tip, .bal]) ?_
  rw [State.sleepStops, State.cutSwitches_without _ (by decide), State.tipStop, State.tipOp_without _ ht, State.setTip_without _ ht,
    State.setGal_without _ hg]

theorem State.sleepStops_stopped : s.sleepStops.gal.stopped = true := by
  have ht : Part.tip ∈ [Part.tip, .bal] := by decide
  have h : s.sleepStops.gal = (s.setGal { s.gal with stopped := true }).gal := by
    refine State.gal_of_without (c := [.tip, .bal]) (by decide) ?_
    rw [State.sleepStops, State.cutSwitches_without _ (by decide), State.tipStop, State.tipOp_without _ ht, State.setTip_without _ ht]
  rw [h]
  rfl

theorem State.sleepStops_pageWords {p : Nat} (h : 0x1A ≠ p) : s.sleepStops.pageWords p = s.pageWords p := by
  have hcut (u : State) (l : List Nat) : (u.cutSwitches l).pageWords p = u.pageWords p :=
    State.forEach_pageWords u _ _ fun n _ v => v.cutSwitch_pageWords n _
  rw [State.sleepStops, hcut, State.tipStop, State.tipOp_pageWords _ h, State.setTip_pageWords, State.setGal_pageWords]

theorem State.hostLock_pw : s.hostLock.pw = s.pw := by
  refine State.pw_of_without (c := [.safe, .ban]) ?_
  rw [State.hostLock, State.lockCause_without _ (by decide) (by decide)]
  exact s.withSafe_without (by decide) _

theorem State.hostLock_pending : s.hostLock.get SYS.STATUS.SLEEPPEND = s.get SYS.STATUS.SLEEPPEND := by
  rw [State.hostLock, State.lockCause_get _ _ _ _ _ (by decide) (by decide) (by decide)]
  rfl

theorem State.hostLock_locked : s.hostLock.locked = true := State.lockCause_locked _ _ _ _ _

/-- Nothing follows the flush of an entry but the end of the entry. -/
theorem State.closingEnd_sleep {r : SleepReq} (h : s.pw.closing = some (.sleep r)) : s.closingEnd = s := by
  simp [State.closingEnd, h]

/-- The flush of an entry leaves the power state, the stop of the gallery, and the words beside GAL and FLASH. -/
theorem State.closeBegin_sleep (r : SleepReq) : (s.closeBegin (.sleep r) false).pw = { s.pw with closing := some (.sleep r) } ∧
    (s.closeBegin (.sleep r) false).gal.stopped = s.gal.stopped ∧
    ∀ p, 0x18 ≠ p → 0x19 ≠ p → (s.closeBegin (.sleep r) false).pageWords p = s.pageWords p := by
  by_cases hf : s.flState = 1
  · have hstop : ((s.closeNoted (.sleep r)).galFlush false).opNext.gal.stopped = s.gal.stopped := by
      rw [State.gal_of_without (by decide) (State.opNext_without _), State.galFlush_stopped]
      rfl
    have hpage (p : Nat) (hg : 0x18 ≠ p) (hfl : 0x19 ≠ p) :
        ((s.closeNoted (.sleep r)).galFlush false).opNext.pageWords p = s.pageWords p := by
      rw [State.opNext_pageWords _ hfl, State.galFlush_pageWords _ hfl hg]
      rfl
    rw [State.closeBegin_ready hf]
    exact ⟨rfl, hstop, hpage⟩
  · rw [State.closeBegin_none hf, State.closingEnd_sleep (r := r) _ rfl]
    exact ⟨rfl, rfl, fun _ _ _ => rfl⟩

end

/-- What an entry does at its master clock 0. -/
def State.sleepStep (s : State) : State :=
  match s.pw.sleepReq with
  | some .host => if s.pw.closing.isNone && decide (s.pw.reqAt < s.tm.tread) then s.sleepBegin .host else s
  | some .commLoss => if s.pw.closing.isNone then s.sleepBegin .commLoss else s
  | none => s

theorem exec_sleepEntry_eq (s : State) : exec .sleepEntry s = whenActing s State.sleepStep := by
  unfold State.sleepStep
  rfl

section
variable {s : State}

/-- An entry that has stopped what it stops begins its flush: what then shows. -/
theorem State.closeBegin_shows {u : State} (r : SleepReq) (hpw : u.pw = s.pw) (hpend : u.bit SYS.STATUS.SLEEPPEND = true)
    (hl : s.pw.leave = none) :
    (s.settle (u.sleepStops.closeBegin (.sleep r) false)).pw = { s.pw with closing := some (.sleep r) } ∧
    (s.settle (u.sleepStops.closeBegin (.sleep r) false)).bit SYS.STATUS.SLEEPPEND = true ∧
    (s.settle (u.sleepStops.closeBegin (.sleep r) false)).gal.stopped = true ∧
    (s.settle (u.sleepStops.closeBegin (.sleep r) false)).locked = u.locked := by
  obtain ⟨hcpw, hstop, hpage⟩ := u.sleepStops.closeBegin_sleep r
  rw [State.sleepStops_pw, hpw] at hcpw
  rw [State.sleepStops_stopped] at hstop
  have hbit {f : Fld} {p : Nat} (hg : 0x18 ≠ p) (hfl : 0x19 ≠ p) (ht : 0x1A ≠ p) (hf : f.addr / 64 = p) :
      (u.sleepStops.closeBegin (.sleep r) false).bit f = u.bit f :=
    (State.bit_of_pageWords (hpage p hg hfl) hf).trans (State.bit_of_pageWords (u.sleepStops_pageWords ht) hf)
  have hshow : (u.sleepStops.closeBegin (.sleep r) false).bit SYS.STATUS.SLEEPPEND = true :=
    (hbit (p := 1) (by decide) (by decide) (by decide) rfl).trans hpend
  have hlock : (u.sleepStops.closeBegin (.sleep r) false).locked = u.locked :=
    hbit (p := 0x15) (by decide) (by decide) (by decide) rfl
  rw [State.settle_keep (by rw [hcpw]; exact hl) (by rw [hcpw])]
  generalize u.sleepStops.closeBegin (.sleep r) false = v at hcpw hstop hshow hlock
  exact ⟨hcpw, hshow, hstop, hlock⟩

variable (hact : s.pw.phase = .active) (hl : s.pw.leave = none)
include hact hl

theorem sleepEntry_host (hr : s.pw.sleepReq = some .host) (hc : s.pw.closing = none) (hat : s.pw.reqAt < s.tm.tread) :
    ∃ t, exec .sleepEntry s = .next t ∧ t.pw = { s.pw with closing := some (.sleep .host) } ∧
      t.bit SYS.STATUS.SLEEPPEND = true ∧ t.gal.stopped = true ∧ t.locked = true := by
  have hstep : s.sleepStep = s.sleepBegin .host := by simp [State.sleepStep, hr, hc, hat]
  have hpend : (s.setB SYS.STATUS.SLEEPPEND true).hostLock.bit SYS.STATUS.SLEEPPEND = true := by
    rw [State.bit, State.hostLock_pending]
    exact State.bit_setB _ _ _ _ _ (by decide)
  obtain ⟨hpw, hshow, hstop, hlock⟩ := State.closeBegin_shows (s := s) .host
    ((State.hostLock_pw (s.setB SYS.STATUS.SLEEPPEND true)).trans (State.setB_pw _ _ _)) hpend hl
  refine ⟨_, (exec_sleepEntry_eq s).trans (whenActing_active s _ hact), ?_⟩
  rw [hstep, State.sleepBegin_host]
  exact ⟨hpw, hshow, hstop, hlock.trans (State.hostLock_locked _)⟩

theorem sleepEntry_commLoss (hr : s.pw.sleepReq = some .commLoss) (hc : s.pw.closing = none) :
    ∃ t, exec .sleepEntry s = .next t ∧ t.pw = { s.pw with closing := some (.sleep .commLoss) } ∧
      t.bit SYS.STATUS.SLEEPPEND = true ∧ t.gal.stopped = true := by
  have hstep : s.sleepStep = s.sleepBegin .commLoss := by simp [State.sleepStep, hr, hc]
  have hpend : (s.setB SYS.STATUS.SLEEPPEND true).bit SYS.STATUS.SLEEPPEND = true := State.bit_setB _ _ _ _ _ (by decide)
  obtain ⟨hpw, hshow, hstop, -⟩ := State.closeBegin_shows (s := s) (u := s.setB SYS.STATUS.SLEEPPEND true) .commLoss
    (State.setB_pw _ _ _) hpend hl
  refine ⟨_, (exec_sleepEntry_eq s).trans (whenActing_active s _ hact), ?_⟩
  rw [hstep, State.sleepBegin_commLoss]
  exact ⟨hpw, hshow, hstop⟩

theorem sleepEntry_waits (hr : s.pw.sleepReq = some .host) (hat : s.tm.tread ≤ s.pw.reqAt) : exec .sleepEntry s = .next s := by
  have hstep : s.sleepStep = s := by simp [State.sleepStep, hr, Nat.not_lt.mpr hat]
  rw [exec_sleepEntry_eq, whenActing_active s _ hact, hstep, State.settle_plain s s hl rfl rfl rfl]

end
end Sys2Proof.Machine
end

