-- ==== Sys2Proof/Proofs/SleepEnd.lean ====
section
/-! SUPPORT. The end of an entry into SLEEP: power-down, an immediate new start, or ACTIVE after a mark; the end of a wake tone
(R69 to R73). -/
namespace Sys2Proof.Machine

/-! ### Power-down and an immediate new start -/

section
variable (s : State) {v : State}

/-- A command that leaves ACTIVE into SLEEP: what stands afterwards (R69, R71). -/
theorem State.settle_sleep (hl : v.pw.leave = none) (b : Nat) : (s.settle (v.leave (.sleep b))).Cleared ∧
    (∀ a, alwaysOn a = true → (s.settle (v.leave (.sleep b))).reg a = v.reg a) ∧
    (if b = 0 then (s.settle (v.leave (.sleep b))).pw.phase = .sleep
     else (s.settle (v.leave (.sleep b))).pw.phase = .off ∧ (s.settle (v.leave (.sleep b))).pw.woken = true ∧
       (s.settle (v.leave (.sleep b))).pw.causes = v.pw.causes ||| b ||| 256) := by
  have hpw := State.leave_pw hl (.sleep b)
  have hcauses : (v.leave (.sleep b)).pw.causes = v.pw.causes := by rw [hpw]
  have hreg (a : Nat) : (v.leave (.sleep b)).reg a = v.reg a := v.leave_reg _ a
  rw [State.settle_leave s _ (.sleep b) (by rw [hpw])]
  generalize v.leave (.sleep b) = u at hcauses hreg
  refine ⟨(u.left_cleared (.sleep b)).keep s, fun a ha => ?_, ?_⟩
  · have hon := (u.afterReset_alwaysOn 0 ha).trans (hreg a)
    by_cases hb : b = 0
    · subst hb
      exact hon
    · rw [u.left_woken hb]
      exact hon
  · have hc : (u.afterReset false 0).pw.causes = v.pw.causes := by rw [State.afterReset_causes, Nat.or_zero, hcauses]
    split
    · subst b
      rfl
    · rw [u.left_woken ‹_›, hc]
      exact ⟨u.afterReset_phase 0 false, rfl, rfl⟩

/-- The field of SLEEPCAUSE for each request (R69). -/
def SleepReq.code : SleepReq → Nat
  | .host => 1
  | .commLoss => 2

/-- The state that goes down: the ring closed, the cause of SLEEP noted. -/
def State.sleepNoted (r : SleepReq) : State := s.vaultClose.set SYS.SLEEPCAUSE.CAUSE r.code

theorem State.powerDown_eq (r : SleepReq) (w : WakeNow) :
    s.powerDown r w = (s.sleepNoted r).leave (.sleep ((s.sleepNoted r).wakeBits w)) := by cases r <;> rfl

theorem State.sleepNoted_pw (r : SleepReq) : (s.sleepNoted r).pw = s.pw := (State.set_pw _ _ _).trans s.vaultClose_pw

theorem State.sleepNoted_wakes (r : SleepReq) (w : WakeNow) : (s.sleepNoted r).wakeBits w = s.wakeBits w := by
  have hbit {f : Fld} (hne : SYS.SLEEPCAUSE.CAUSE.apart f = true) (hf : f.addr / 64 = 1) : (s.sleepNoted r).bit f = s.bit f :=
    (State.bit_set_ne _ _ _ _ rfl hne).trans (State.bit_of_pageWords (s.vaultClose_pageWords (by decide)) hf)
  rw [State.wakeBits, State.wakeBits, hbit rfl rfl, hbit rfl rfl, hbit rfl rfl]

theorem State.sleepNoted_cause (r : SleepReq) : (s.sleepNoted r).get SYS.SLEEPCAUSE.CAUSE = r.code := by
  rw [State.sleepNoted, State.get_set _ _ _ rfl]
  cases r <;> rfl

/-- Power-down, or a new start where a wake source is present. -/
theorem State.powerDown_ends {u : State} (hl : u.pw.leave = none) (r : SleepReq) (w : WakeNow) : (s.settle (u.powerDown r w)).Cleared ∧
    (s.settle (u.powerDown r w)).get SYS.SLEEPCAUSE.CAUSE = r.code ∧
    (if u.wakeBits w = 0 then (s.settle (u.powerDown r w)).pw.phase = .sleep
     else (s.settle (u.powerDown r w)).pw.phase = .off ∧ (s.settle (u.powerDown r w)).pw.woken = true ∧
       (s.settle (u.powerDown r w)).pw.causes = u.pw.causes ||| u.wakeBits w ||| 256) := by
  have hpw := u.sleepNoted_pw r
  have hcause := u.sleepNoted_cause r
  obtain ⟨hcl, hon, hph⟩ := State.settle_sleep s (v := u.sleepNoted r) (by rw [hpw, hl]) (u.wakeBits w)
  rw [u.powerDown_eq, u.sleepNoted_wakes]
  refine ⟨hcl, ?_, by rwa [hpw] at hph⟩
  rw [← hcause, State.get, State.get, hon _ rfl]

end

/-! ### ACTIVE after a mark (R70) -/

section
variable (s : State)

theorem State.sleepCancel_pw : s.sleepCancel.pw = { s.pw with
    closing := none, sleepReq := s.pw.hostWait.map (fun _ => SleepReq.host), reqAt := s.pw.hostWait.getD s.pw.reqAt, hostWait := none,
    rstWait := false } := (rfl)
theorem State.sleepCancel_stopped : s.sleepCancel.gal.stopped = false := (rfl)
theorem State.sleepCancel_vault : s.sleepCancel.vault = s.vault := (rfl)
theorem State.sleepCancel_shown : s.sleepCancel.bit SYS.STATUS.SLEEPPEND = false := State.bit_setB _ _ _ _ _ (by decide)
theorem State.sleepCancel_bit {f : Fld} (h : SYS.STATUS.SLEEPPEND.apart f = true) : s.sleepCancel.bit f = s.bit f :=
  State.bit_set_ne _ _ _ _ rfl h

end

/-! ### The end of step 2 -/

/-- The flash with the closing flush given up (R69). -/
def State.flushGiven (s : State) : Flash := { s.fl with wait := s.fl.wait.filter (fun d => !d.closing), flush := 0 }

/-- The two commands that end step 2 of an entry: its flush is over, or it is given up. -/
def endsFlush (s : State) (w : WakeNow) (i : Instr) : Prop := i = .sleepFlushTimeout w ∨ (i = .sleepFlushDone w ∧ s.flushOver = true)

section
variable {s : State} {w : WakeNow} {i : Instr} (hact : s.pw.phase = .active) (hl : s.pw.leave = none) (hi : endsFlush s w i)
include hact hi

/-- Either command is the end of the step; what the flash still held may be given up. -/
theorem exec_endsFlush : ∃ f : Flash, exec i s = .next (s.settle (({ s with fl := f } : State).sleepEnd w)) := by
  rcases hi with rfl | ⟨rfl, hover⟩
  · exact ⟨s.flushGiven, whenActing_active s (fun s => State.sleepEnd { s with fl := s.flushGiven } w) hact⟩
  · refine ⟨s.fl, (whenActing_active s (fun s => s.when s.flushOver (·.sleepEnd w)) hact).trans ?_⟩
    exact congrArg (fun u => Host.Outcome.next (s.settle u)) (if_pos hover)

include hl

theorem sleepEnd_powersDown {r : SleepReq} (hc : s.pw.closing = some (.sleep r)) (hm : ¬ (r = .commLoss ∧ s.link.sleepAbort = true)) :
    ∃ t, exec i s = .next t ∧ t.Cleared ∧ t.get SYS.SLEEPCAUSE.CAUSE = r.code ∧
      (if s.wakeBits w = 0 then t.pw.phase = .sleep
       else t.pw.phase = .off ∧ t.pw.woken = true ∧ t.pw.causes = s.pw.causes ||| s.wakeBits w ||| 256) := by
  obtain ⟨f, hexec⟩ := exec_endsFlush hact hi
  have hend : ({ s with fl := f } : State).sleepEnd w = ({ s with fl := f } : State).powerDown r w := by
    simp [State.sleepEnd, hc, hm]
  refine ⟨_, hexec, ?_⟩
  rw [hend]
  exact State.powerDown_ends s (u := { s with fl := f }) hl r w

theorem sleepEnd_staysActive (hc : s.pw.closing = some (.sleep .commLoss)) (hm : s.link.sleepAbort = true) (hw : s.pw.rstWait = false) :
    ∃ t, exec i s = .next t ∧ t.pw = { s.pw with
        closing := none, sleepReq := s.pw.hostWait.map (fun _ => SleepReq.host), reqAt := s.pw.hostWait.getD s.pw.reqAt,
        hostWait := none } ∧ t.bit SYS.STATUS.SLEEPPEND = false ∧ t.gal.stopped = false ∧ t.vault = s.vault ∧
      ∀ f, SYS.STATUS.SLEEPPEND.apart f = true → t.bit f = s.bit f := by
  obtain ⟨f, hexec⟩ := exec_endsFlush hact hi
  have hend : ({ s with fl := f } : State).sleepEnd w = ({ s with fl := f } : State).sleepCancel := by
    simp [State.sleepEnd, hc, hm, hw]
  have hpw := State.sleepCancel_pw { s with fl := f }
  refine ⟨_, hexec, ?_⟩
  have hsettle : s.settle (State.sleepCancel { s with fl := f }) = State.sleepCancel { s with fl := f } :=
    State.settle_same (by rw [hpw]; exact hl) (by rw [hpw]) (State.sleepCancel_vault { s with fl := f }) rfl
  rw [hend, hsettle, hpw]
  refine ⟨?_, State.sleepCancel_shown _, State.sleepCancel_stopped _, State.sleepCancel_vault _, fun g hg => State.sleepCancel_bit _ hg⟩
  simp [hw]

theorem sleepEnd_resets (hc : s.pw.closing = some (.sleep .commLoss)) (hm : s.link.sleepAbort = true) (hw : s.pw.rstWait = true) :
    ∃ t, exec i s = .next t ∧ t.Cleared ∧ t.pw.phase = .off ∧ t.pw.causes = s.pw.causes ||| 8 := by
  obtain ⟨f, hexec⟩ := exec_endsFlush hact hi
  have hend : ({ s with fl := f } : State).sleepEnd w = ({ s with fl := f } : State).sleepCancel.vaultClose.leave (.reset 8) := by
    simp [State.sleepEnd, hc, hm, hw]
  have hpw := (State.sleepCancel { s with fl := f }).vaultClose_pw
  rw [State.sleepCancel_pw] at hpw
  obtain ⟨hcl, hph, hcauses, -⟩ := State.settle_reset (s := s) (u := (State.sleepCancel { s with fl := f }).vaultClose) (by rw [hpw]; exact hl) 8
  refine ⟨_, hexec, ?_⟩
  rw [hend]
  exact ⟨hcl, hph, by rw [hcauses, hpw]⟩

end

/-! ### The end of a wake tone (R73, R328) -/

section
variable {c : List Part} (s : State)

theorem State.besideEnd_without (p : Port) : (s.besideEnd p).without c = s.without c := by
  simp only [State.besideEnd, State.ite_without, State.toListen_without, ite_self]

theorem State.toOff_without (h : Part.link ∈ c) (p : Port) : (s.toOff p).without c = s.without c := by
  simp only [State.toOff, State.ite_without, State.besideEnd_without, State.linkStatus_without, State.set_without,
    State.setPort_without _ h, ite_self]

theorem State.trainBeside_without (h : Part.link ∈ c) (p : Port) : (s.trainBeside p).without c = s.without c := by
  simp only [State.trainBeside, State.ite_without, State.toT0_without _ h, ite_self]

theorem State.portsAdopt_without (h : Part.link ∈ c) : s.portsAdopt.without c = s.without c :=
  State.forEach_without c _ _ (fun p _ u => by
    simp only [State.ite_without, State.trainBeside_without _ h, State.toListen_without, State.toOff_without _ h, ite_self]) s

end

theorem State.portsShown_vault (s : State) : s.portsAdopt.linkStatus.vault = s.vault :=
  State.vault_of_without (c := [.link]) (by decide) (by rw [State.linkStatus_without, State.portsAdopt_without _ (by decide)])

/-- The tone is over, and the enabled ports begin. -/
def State.toneEnd (s : State) : State :=
  let s := { s with pw := { s.pw with toneOut := false } }
  { s.portsAdopt.linkStatus with pw := s.pw }

theorem exec_wakeToneEnd_eq (s : State) : exec .wakeToneEnd s = whenActing s fun s => s.when s.pw.toneOut State.toneEnd := (rfl)

theorem wakeToneEnd_ends {s : State} (hact : s.pw.phase = .active) (hl : s.pw.leave = none) (ht : s.pw.toneOut = true) :
    ∃ t, exec .wakeToneEnd s = .next t ∧ t.pw = { s.pw with toneOut := false } ∧ t.vault = s.vault := by
  have hwhen : s.when s.pw.toneOut State.toneEnd = s.toneEnd := if_pos ht
  have hv : s.toneEnd.vault = s.vault := State.portsShown_vault { s with pw := { s.pw with toneOut := false } }
  have hpw : s.toneEnd.pw = { s.pw with toneOut := false } := rfl
  rw [exec_wakeToneEnd_eq, whenActing_active s _ hact, hwhen, State.settle_keep (by rw [hpw]; exact hl) (by rw [hpw])]
  generalize s.toneEnd = u at hv hpw
  refine ⟨_, rfl, hpw, ?_⟩
  simp [State.keep, hv]

/-- Settles O14: the request, the entry and the end of its step 2, each by what it leaves of the power state. -/
theorem sleepEntryAndEnd : Obligations.SleepEntryAndEnd := by
  refine ⟨fun s hact hl hloss hout hr => commLossTimeout_trips hact hl hloss hout hr,
    fun s hact hl hr hc hat => sleepEntry_host hact hl hr hc hat, fun s hact hl hr hat => sleepEntry_waits hact hl hr hat,
    fun s hact hl hr hc => sleepEntry_commLoss hact hl hr hc, fun s r w i hact hl hc hm hi => ?_, fun s w i hact hl hc hm hw hi => ?_,
    fun s w i hact hl hc hm hw hi => sleepEnd_resets hact hl hi hc hm hw, fun s hact hl ht => wakeToneEnd_ends hact hl ht⟩
  · obtain ⟨t, hexec, hcl, hcause, hph⟩ := sleepEnd_powersDown hact hl hi hc hm
    exact ⟨t, hexec, hcl, by cases r <;> exact hcause, hph⟩
  · obtain ⟨t, hexec, hpw, hpend, hstop, hv, -⟩ := sleepEnd_staysActive hact hl hi hc hm hw
    exact ⟨t, hexec, hpw, hpend, hstop, hv⟩

end Sys2Proof.Machine
end

