-- ==== Sys2Proof/Proofs/AbortNote.lean ====
section
/-! SUPPORT. What a mark does once SLEEPABORT is set: it leaves the words of page SYS and the note of the link as they are. -/
namespace Sys2Proof.Machine

/-- The words of page SYS, EVT.SLEEPABORT among them, and the note that an accepted mark ended a communication loss (R70). -/
def State.abortNote (s : State) : List Word × Bool := (s.pageWords 1, s.link.sleepAbort)

theorem State.link_of_without {s t : State} {c : List Part} (hc : Part.link ∉ c) (h : t.without c = s.without c) : t.link = s.link := by
  rw [← State.only_of_without h]
  simp [State.only, hc]

theorem State.abortNote_of {s t : State} (c : List Part) (hp : t.pageWords 1 = s.pageWords 1) (h : t.without c = s.without c)
    (hc : Part.link ∉ c) : t.abortNote = s.abortNote := by
  rw [State.abortNote, State.abortNote, hp, State.link_of_without hc h]

theorem State.bit_of_abortNote {s t : State} (h : t.abortNote = s.abortNote) : t.bit SYS.EVT.SLEEPABORT = s.bit SYS.EVT.SLEEPABORT :=
  State.bit_of_pageWords (congrArg Prod.fst h) rfl

theorem State.sleepAbort_of_abortNote {s t : State} (h : t.abortNote = s.abortNote) : t.link.sleepAbort = s.link.sleepAbort :=
  congrArg Prod.snd h

section
variable (s : State)

/-! ### The state's operations -/

theorem State.set_abortNote {f : Fld} (hf : f.addr / 64 ≠ 1) (v : Nat) : (s.set f v).abortNote = s.abortNote :=
  State.abortNote_of [] (s.set_pageWords hf v) (s.set_without [] f v) List.not_mem_nil
theorem State.setB_abortNote {f : Fld} (hf : f.addr / 64 ≠ 1) (b : Bool) : (s.setB f b).abortNote = s.abortNote := s.set_abortNote hf _
theorem State.setS_abortNote {f : Fld} (hf : f.addr / 64 ≠ 1) (v : Int) : (s.setS f v).abortNote = s.abortNote := s.set_abortNote hf _
theorem State.evt_abortNote {f : Fld} (hf : f.addr / 64 ≠ 1) : (s.evt f).abortNote = s.abortNote := s.set_abortNote hf 1
theorem State.inc_abortNote {f : Fld} (hf : f.addr / 64 ≠ 1) : (s.inc f).abortNote = s.abortNote := s.set_abortNote hf _
theorem State.cond_abortNote (i : Nat) (b : Bool) : (s.cond i b).abortNote = s.abortNote := by cases b <;> rfl
theorem State.occur_abortNote (i : Nat) : (s.occur i).abortNote = s.abortNote := (rfl)
theorem State.withTm_abortNote (x : Time) : ({ s with tm := x }).abortNote = s.abortNote := (rfl)
theorem State.withXact_abortNote (x : Xact) : ({ s with xact := x }).abortNote = s.abortNote := (rfl)
theorem State.setPort_abortNote (p : Port) (x : LinkPort) : (s.setPort p x).abortNote = s.abortNote := by cases p <;> rfl
theorem State.ite_abortNote (c : Prop) [Decidable c] (t : State) :
    (if c then s else t).abortNote = if c then s.abortNote else t.abortNote := apply_ite State.abortNote c s t
theorem State.forEach_abortNote {α : Type} (f : α → State → State) (l : List α) (h : ∀ a ∈ l, ∀ s, (f a s).abortNote = s.abortNote) :
    (forEach l f s).abortNote = s.abortNote := forEach_keeps State.abortNote f l h s

/-! ### Links and eyes -/

theorem State.linkStatus_abortNote : s.linkStatus.abortNote = s.abortNote := by
  simp (disch := decide) only [State.linkStatus, State.setB_abortNote, State.cond_abortNote]

theorem State.toT0_abortNote (p : Port) (r : Nat) (u : Bool) : (s.toT0 p r u).abortNote = s.abortNote := by
  cases p <;> simp (disch := decide) only [State.toT0, State.linkStatus_abortNote, State.setPort_abortNote, State.inc_abortNote,
    State.set_abortNote]

theorem State.useRate_abortNote (r : Nat) : (s.useRate r).abortNote = s.abortNote := by
  rw [State.useRate, State.ite_abortNote]
  exact ite_self _

theorem State.healthSet_abortNote {f : Fld} (hf : f.addr / 64 ≠ 1) (v : Nat) {ev : Option Fld} (he : ∀ e, ev = some e → e.addr / 64 ≠ 1) :
    (s.healthSet f v ev).abortNote = s.abortNote :=
  State.abortNote_of [] (State.healthSet_pageWords s f v ev (by decide) hf he) (State.healthSet_without s f v ev []) List.not_mem_nil

theorem State.eyeEval_abortNote : s.eyeEval.abortNote = s.abortNote := by
  have hrec (n : Nat) : (s.healthSet { HEALTH.RATEREC with w := 2 } n (some hRATEREC)).abortNote = s.abortNote :=
    s.healthSet_abortNote (by decide) n (by rintro _ ⟨⟩; decide)
  simp (disch := decide) only [State.eyeEval, State.healthStatus, State.set_abortNote, State.cond_abortNote, State.ite_abortNote, hrec,
    ite_self]

theorem State.eyeNew_abortNote {lane : Nat} (hl : (HEALTH.EYEURX.plus lane).addr / 64 ≠ 1) (r w : Nat) :
    (s.eyeNew lane r w).abortNote = s.abortNote := by
  rw [State.eyeNew, State.eyeEval_abortNote, State.healthSet_abortNote _ hl _ (by rintro _ ⟨⟩), State.ite_abortNote]
  exact ite_self _

theorem State.eyeSet_abortNote (p : Port) (w : Nat) : (s.eyeSet (2 + p.no) w).abortNote = s.abortNote :=
  State.eyeNew_abortNote s (by cases p <;> decide) _ _

/-! ### Plans -/

theorem State.planEval_abortNote : s.planEval.abortNote = s.abortNote :=
  State.abortNote_of [.xact] (s.planEval_pageWords (by decide)) (s.planEval_without (by decide)) (by decide)

theorem State.fault42_abortNote (b : Bool) : (s.fault42 b).abortNote = s.abortNote := by
  simp (disch := decide) only [State.fault42, State.setB_abortNote, State.cond_abortNote]

theorem State.setBank_abortNote (b : Nat) (ev : Bool) : (s.setBank b ev).abortNote = s.abortNote := by
  simp (disch := decide) only [State.setBank, State.planEval_abortNote, State.fault42_abortNote, State.ite_abortNote, State.evt_abortNote,
    State.withXact_abortNote, State.set_abortNote, ite_self]

theorem State.takeBank_abortNote (b : Nat) : (s.takeBank b).abortNote = s.abortNote := by
  simp only [State.takeBank, State.ite_abortNote, State.setBank_abortNote, State.fault42_abortNote, State.withXact_abortNote, ite_self]

/-! ### Rate changes -/

theorem State.rsDisarm_abortNote : s.rsDisarm.abortNote = s.abortNote := by
  simp (disch := decide) only [State.rsDisarm, State.setB_abortNote, State.set_abortNote]

/-- One port begins its rate tread. -/
def State.portRates (s : State) (a : Announce) (p : Port) : State :=
  let s := s.toT0 p a.rate true
  ((s.setPort p { s.port p with rt := pT0, full := false }).set (pstat p LINK.UPSTAT.STATE) pRate).linkStatus

theorem State.portRates_abortNote (a : Announce) (p : Port) : (s.portRates a p).abortNote = s.abortNote := by
  cases p <;> simp (disch := decide) only [State.portRates, State.linkStatus_abortNote, State.set_abortNote, State.setPort_abortNote,
    State.toT0_abortNote]

/-- The enabled ports begin their rate treads at the announced rate. -/
def State.ratesBegin (s : State) (a : Announce) : State :=
  forEach [Port.up, Port.dn] (fun (p : Port) (s : State) => if s.portOn p then s.portRates a p else s)
    (({ s with link := { s.link with ann := none, rateAt := some s.tm.tread } }).useRate a.rate)

theorem State.ratesBegin_abortNote (a : Announce) : (s.ratesBegin a).abortNote = s.abortNote :=
  (State.forEach_abortNote _ _ _ fun p _ t => by simp only [State.ite_abortNote, State.portRates_abortNote, ite_self]).trans
    (State.useRate_abortNote _ _)

/-- The rest of a rate change: RCHG ends, the armed change is over, the announced bank becomes active. -/
def State.ratesShown (s : State) (a : Announce) (old : Nat) : State :=
  let s := (s.setB LINK.STATUS.RCHG false).evt LINK.EVT.RATECHG
  let s := if s.get2 XACT.RSTN0 = a.t then s.rsDisarm else s
  let s := if old < a.rate then s.occur 35 else s
  (s.setBank (if a.bank then 1 else 0) true).planEval.eyeEval

theorem State.ratesShown_abortNote (a : Announce) (old : Nat) : (s.ratesShown a old).abortNote = s.abortNote := by
  rw [State.ratesShown, State.eyeEval_abortNote, State.planEval_abortNote, State.setBank_abortNote]
  simp (disch := decide) only [State.ite_abortNote, State.occur_abortNote, State.rsDisarm_abortNote, State.evt_abortNote,
    State.setB_abortNote, ite_self]

theorem State.rateGo_eq (a : Announce) : s.rateGo a = (s.ratesBegin a).ratesShown a s.link.rate := (rfl)

theorem State.rateGo_abortNote (a : Announce) : (s.rateGo a).abortNote = s.abortNote := by
  rw [State.rateGo_eq, State.ratesShown_abortNote, State.ratesBegin_abortNote]

/-! ### Jumps of the tread number -/

theorem State.impAbort_abortNote (stop : Bool) : (s.impAbort stop).abortNote = s.abortNote :=
  State.abortNote_of [.bal, .imp] (s.impAbort_pageWords (by decide) stop) (s.impAbort_without (by decide) (by decide) stop) (by decide)

theorem State.waitsStale_pageWords (p : Nat) : s.waitsStale.pageWords p = s.pageWords p := (rfl)

theorem State.restartNow_abortNote : s.restartNow.abortNote = s.abortNote :=
  State.abortNote_of [.cells, .aux] ((State.waitsStale_pageWords _ 1).trans (s.restartAll_pageWords (by decide) _))
    (s.restartNow_without (by decide) (by decide)) (by decide)

theorem State.ptApply_abortNote : s.ptApply.abortNote = s.abortNote := by
  simp (disch := decide) only [State.ptApply, State.withTm_abortNote, State.evt_abortNote, State.setB_abortNote, State.ite_abortNote,
    State.set_abortNote, State.inc_abortNote, ite_self]

theorem State.excTrim_abortNote (t : Nat) : (s.excTrim t).abortNote = s.abortNote :=
  State.abortNote_of [.bal] (State.forEach_pageWords s _ _ fun n _ u => u.cutSwitch_pageWords n t) (s.excTrim_without (by decide) t) (by decide)

theorem State.setLane_abortNote (k : Nat) (x : ImpLane) : (s.setLane k x).abortNote = s.abortNote := (rfl)

theorem State.beginInteg_abortNote (k c : Nat) : (s.beginInteg k c).abortNote = s.abortNote := by
  simp (disch := decide) only [State.beginInteg, State.ite_abortNote, State.excTrim_abortNote, State.setLane_abortNote, State.evt_abortNote,
    ite_self]

theorem State.impStatus_abortNote : s.impStatus.abortNote = s.abortNote :=
  State.abortNote_of [] (s.impStatus_pageWords (by decide)) s.impStatus_without List.not_mem_nil

theorem State.integBegin_abortNote (k : Nat) : (s.integBegin k).abortNote = s.abortNote := by
  rw [State.integBegin, State.impStatus_abortNote, State.beginInteg_abortNote]

end

end Sys2Proof.Machine
end

