-- ==== Sys2Proof/Proofs/AcceptedMarks.lean ====
section
/-! O15. A mark accepted in step 2 of the communication-loss path, and the end of that step (R69, R70, R320). -/
namespace Sys2Proof.Machine

/-! ### What an accepted mark does after SLEEPABORT -/

section
variable (s : State)

theorem State.aligned_abortNote (b : Bool) : (s.aligned b).abortNote = s.abortNote := by
  simp (disch := decide) only [State.aligned, State.ite_abortNote, State.evt_abortNote, State.cond_abortNote, State.setB_abortNote, ite_self]

theorem State.phase_abortNote (e : Int) : (s.phase e).abortNote = s.abortNote := by
  simp (disch := decide) only [State.phase, State.ite_abortNote, State.withTm_abortNote, State.aligned_abortNote, State.setS_abortNote,
    ite_self]

theorem State.takeStn_abortNote (n : Nat) : (s.takeStn n).abortNote = s.abortNote := by
  have hstn : ({ s with tm := { s.tm with stn := n } }.setB TIME.STATUS.STNVALID true).abortNote = s.abortNote :=
    State.setB_abortNote _ (by decide) true
  rw [State.takeStn, State.ite_abortNote, hstn, State.ite_abortNote, State.rsDisarm_abortNote, ite_self]
  split
  · rfl
  · split
    on_goal 1 => rw [State.ite_abortNote, State.rateGo_abortNote, ite_self]
    all_goals
      refine (State.forEach_abortNote _ _ _ fun k _ u => ?_).trans ?_
      · split
        · rw [State.ite_abortNote, State.integBegin_abortNote, ite_self]
        · rfl
      · simp (disch := decide) only [State.ite_abortNote, State.ptApply_abortNote, State.restartNow_abortNote, State.impAbort_abortNote,
          State.evt_abortNote, ite_self, hstn]

theorem State.announce_abortNote (m : Mark) : (s.announce m).abortNote = s.abortNote := by
  rw [State.announce, State.ite_abortNote, State.ite_abortNote, State.evt_abortNote _ (by decide), ite_self,
    State.setB_abortNote _ (by decide), State.setB_abortNote _ (by decide)]
  exact ite_self _

/-- What an accepted mark does once the communication loss has ended: eye, phase, tread number and bank. -/
def State.markTaken (s : State) (p : Port) (m : Mark) (t : Int) : State :=
  let s := if m.reyeValid && look s.link.eyeNow (2 + p.no) != some m.reye.toNat then s.eyeSet (2 + p.no) m.reye.toNat else s
  let s := s.phase (phaseErr t m.acc.toNat (s.hopD p) (s.pRateOf p))
  (s.takeStn m.stn.toNat).takeBank (if m.bank then 1 else 0)

theorem State.markTaken_abortNote (p : Port) (m : Mark) (t : Int) : (s.markTaken p m t).abortNote = s.abortNote := by
  simp only [State.markTaken, State.takeBank_abortNote, State.takeStn_abortNote, State.phase_abortNote, State.ite_abortNote,
    State.eyeSet_abortNote, ite_self]

/-! ### An accepted mark -/

/-- An accepted mark ends a communication loss and the treads without a mark, and locks the master clock. -/
def State.markEnds (s : State) : State :=
  let s := if s.safe.commOut then ({ s with safe := { s.safe with commOut := false } }).sfGone else s
  (({ s with tm := { s.tm with marked := true, misses := 0 } }).setB TIME.STATUS.HOLDOVER false).lock

theorem State.lock_pw : s.lock.pw = s.pw := by
  simp only [State.lock, State.healthStatus, apply_ite State.pw, State.set_pw, State.cond_pw,
    State.pw_of_without (State.healthSet_without _ _ _ _ []), State.tick_pw, State.setB_pw, ite_self]

theorem State.markEnds_pw : s.markEnds.pw = s.pw := by
  have hgone : ({ s with safe := { s.safe with commOut := false } } : State).sfGone.pw = s.pw :=
    State.pw_of_without (State.sfGone_without (c := [.safe]) _ (by decide))
  rw [State.markEnds, State.lock_pw, State.setB_pw]
  simp only [apply_ite State.pw, hgone, ite_self]

/-- The end of the communication-loss path is noted and shown in EVT.SLEEPABORT (R70). -/
def State.abortNoted (s : State) : State := ({ s with link := { s.link with sleepAbort := true } }).evt SYS.EVT.SLEEPABORT

theorem State.accepted_commLoss (hc : s.pw.closing = some (.sleep .commLoss)) (p : Port) (m : Mark) (t : Int) :
    s.accepted p m t = s.markEnds.abortNoted.markTaken p m t := by
  have heq : s.accepted p m t = (match s.markEnds.pw.closing with
      | some (.sleep .commLoss) => s.markEnds.abortNoted
      | _ => s.markEnds).markTaken p m t := rfl
  rwa [s.markEnds_pw, hc] at heq

theorem State.accepted_aborts (hc : s.pw.closing = some (.sleep .commLoss)) (p : Port) (m : Mark) (t : Int) :
    (s.accepted p m t).bit SYS.EVT.SLEEPABORT = true ∧ (s.accepted p m t).link.sleepAbort = true := by
  have hkeep := s.markEnds.abortNoted.markTaken_abortNote p m t
  rw [s.accepted_commLoss hc]
  exact ⟨(State.bit_of_abortNote hkeep).trans (State.bit_evt _ _ _ _ (by decide)), State.sleepAbort_of_abortNote hkeep⟩

/-! ### A valid mark on the alignment source port -/

/-- What a valid mark shows before its port is asked for: its tread number, ACC and RING, and the lanes. -/
def State.markSeen (s : State) (p : Port) (m : Mark) : State :=
  let s := s.setPort p { s.port p with mark := some m.stn.toNat }
  let s := (s.set2 (match p with | .up => LINK.ACCUP0 | .dn => LINK.ACCDN0) m.acc.toNat).setB LINK.STATUS.RING m.ring
  let s := { s with link := { s.link with loss := 0 } }
  let s := match (s.port p.other).mark with | some n => if n = m.stn.toNat then s else s.inc LINK.STNMIS | none => s
  s.ringEval.lanesNow

theorem State.setPort_pageWords (p : Port) (x : LinkPort) (n : Nat) : (s.setPort p x).pageWords n = s.pageWords n := by cases p <;> rfl

theorem State.stnMis_pageWords (o : Option Nat) (n : Nat) :
    (match o with | some k => if k = n then s else s.inc LINK.STNMIS | none => s).pageWords 3 = s.pageWords 3 := by
  split
  · rw [State.ite_pageWords, State.inc_pageWords _ (by decide), ite_self]
  · rfl

theorem State.stnMis_pw (o : Option Nat) (n : Nat) :
    (match o with | some k => if k = n then s else s.inc LINK.STNMIS | none => s).pw = s.pw := by
  split
  · rw [apply_ite State.pw, State.inc_pw, ite_self]
  · rfl

theorem State.lanesNow_pageWords (n : Nat) : s.lanesNow.pageWords n = s.pageWords n := (rfl)

theorem State.markSeen_pageWords (p : Port) (m : Mark) : (s.markSeen p m).pageWords 3 = s.pageWords 3 := by
  have hloss (u : State) : ({ u with link := { u.link with loss := 0 } }).pageWords 3 = u.pageWords 3 := rfl
  rw [State.markSeen.eq_def, State.lanesNow_pageWords, State.ringEval_pageWords _ (by decide), State.stnMis_pageWords, hloss,
    State.setB_pageWords _ (by decide)]
  cases p <;> rw [State.set2_pageWords _ (by decide) (by decide), State.setPort_pageWords]

theorem State.lanesNow_pw : s.lanesNow.pw = s.pw := (rfl)

theorem State.markSeen_pw (p : Port) (m : Mark) : (s.markSeen p m).pw = s.pw := by
  have hloss (u : State) : ({ u with link := { u.link with loss := 0 } }).pw = u.pw := rfl
  rw [State.markSeen.eq_def, State.lanesNow_pw, State.ringEval, State.setB_pw, State.cond_pw, State.stnMis_pw, hloss, State.setB_pw]
  cases p <;> rfl

theorem State.source?_of_pageWords {s t : State} (h : t.pageWords 3 = s.pageWords 3) : t.source? = s.source? := by
  rw [State.source?, State.source?, State.get_of_pageWords h rfl]

theorem State.validMark_eq (p : Port) (m : Mark) (t : Int) : s.validMark p m t =
    (let u := (s.markSeen p m).firstSource p
     (if u.source? = some p then u.accepted p m t else u).announce m) := (rfl)

theorem State.validMark_aborts (hc : s.pw.closing = some (.sleep .commLoss)) {p : Port} (hs : s.source? = some p) (m : Mark) (t : Int) :
    (s.validMark p m t).bit SYS.EVT.SLEEPABORT = true ∧ (s.validMark p m t).link.sleepAbort = true := by
  have hseen : (s.markSeen p m).source? = some p := (State.source?_of_pageWords (s.markSeen_pageWords p m)).trans hs
  have hfirst : (s.markSeen p m).firstSource p = s.markSeen p m := if_pos (by rw [hseen]; rfl)
  have heq : s.validMark p m t = ((s.markSeen p m).accepted p m t).announce m := by
    rw [State.validMark_eq, hfirst]
    exact congrArg (State.announce · m) (if_pos hseen)
  rw [← s.markSeen_pw p m] at hc
  obtain ⟨hevt, hnote⟩ := (s.markSeen p m).accepted_aborts hc p m t
  rw [heq]
  exact ⟨(State.bit_of_abortNote (State.announce_abortNote _ m)).trans hevt,
    (State.sleepAbort_of_abortNote (State.announce_abortNote _ m)).trans hnote⟩

/-! ### A mark's arrival on a port in link-up -/

/-- The mark's frame begins: framing is restored and the mark passed on (R321, R325, R326). -/
def State.markArrives (s : State) (p : Port) (m : Mark) (crc : Word) (t : Int) : State :=
  let s := s.earlyTmk p t
  let x := s.port p
  let crcOk := crc == markCrc m
  let s := s.setPort p { x with lost := false, tmk := x.tmk || crcOk, wait := x.wait && x.own }
  let s := if crcOk then s.set (pstat p LINK.UPSTAT.LORIG) m.origin.toNat else s
  if s.forwards p then s.idlComp p |>.relay p m crc else s

theorem State.tmkRx_eq (p : Port) (m : Mark) (clean : Bool) (crc : Word) (t : Int) : s.tmkRx p m clean crc t =
    if s.linkUp p = false then s
    else if clean && crc == markCrc m && m.rate.toNat == (s.markArrives p m crc t).pRateOf p && m.origin == originOf p then
      (s.markArrives p m crc t).validMark p m t
    else s.markArrives p m crc t := (rfl)

/-- The power state, the words of page TIME and a port's rate, all that decides whether a mark is accepted. -/
def State.acceptView (s : State) (p : Port) : Power × List Word × Nat := (s.pw, s.pageWords 3, s.pRateOf p)

theorem State.setPort_acceptView (p q : Port) (x : LinkPort) : (s.setPort q x).acceptView p = s.acceptView p := by cases q <;> rfl

theorem State.relay_acceptView (p q : Port) (m : Mark) (crc : Word) : (s.relay q m crc).acceptView p = s.acceptView p := (rfl)

theorem State.tick_acceptView (p : Port) : s.tick.acceptView p = s.acceptView p := (rfl)

theorem State.set_acceptView {f : Fld} (p : Port) (hp : f.addr / 64 ≠ 3) (hok : f.ok = true) (hf : f.apart (pstat p LINK.UPSTAT.RATE) = true)
    (v : Nat) : (s.set f v).acceptView p = s.acceptView p := by
  rw [State.acceptView, State.acceptView, State.set_pw, State.set_pageWords _ hp, State.pRateOf, State.pRateOf,
    State.get_set_ne _ _ _ _ hok hf]

theorem State.ite_acceptView (p : Port) (c : Prop) [Decidable c] (t : State) :
    (if c then s else t).acceptView p = if c then s.acceptView p else t.acceptView p := apply_ite (fun u : State => u.acceptView p) c s t

theorem State.earlyTmk_acceptView (p : Port) (t : Int) : (s.earlyTmk p t).acceptView p = s.acceptView p := by
  have hreport : ((s.inc LINK.FRMERR).evt LINK.EVT.FRAMING).acceptView p = s.acceptView p := by
    cases p <;> exact (State.set_acceptView _ _ (by decide) (by decide) (by decide) _).trans
      (State.set_acceptView _ _ (by decide) (by decide) (by decide) _)
  simp only [State.earlyTmk, State.setPort_acceptView, State.ite_acceptView, hreport, ite_self]

theorem State.idlComp_acceptView (p : Port) : (s.idlComp p).acceptView p = s.acceptView p := by
  cases p <;> simp (disch := decide) only [State.idlComp, fwdFld, State.ite_acceptView, State.tick_acceptView, State.set_acceptView, ite_self]

theorem State.markArrives_acceptView (p : Port) (m : Mark) (crc : Word) (t : Int) :
    (s.markArrives p m crc t).acceptView p = s.acceptView p := by
  have horig (u : State) (n : Nat) : (u.set (pstat p LINK.UPSTAT.LORIG) n).acceptView p = u.acceptView p := by
    cases p <;> exact State.set_acceptView _ _ (by decide) (by decide) (by decide) _
  simp only [State.markArrives, State.ite_acceptView, State.relay_acceptView, State.idlComp_acceptView, horig, State.setPort_acceptView,
    State.earlyTmk_acceptView, ite_self]

theorem State.tmkRx_aborts (hc : s.pw.closing = some (.sleep .commLoss)) {p : Port} (hup : s.linkUp p = true) {m : Mark}
    (hr : m.rate.toNat = s.pRateOf p) (ho : m.origin = originOf p) (hs : s.source? = some p) (t : Int) :
    (s.tmkRx p m true (markCrc m) t).bit SYS.EVT.SLEEPABORT = true ∧ (s.tmkRx p m true (markCrc m) t).link.sleepAbort = true := by
  have hview := s.markArrives_acceptView p m (markCrc m) t
  simp only [State.acceptView, Prod.mk.injEq] at hview
  obtain ⟨hpw, htime, hrate⟩ := hview
  have heq : s.tmkRx p m true (markCrc m) t = (s.markArrives p m (markCrc m) t).validMark p m t := by
    rw [State.tmkRx_eq, if_neg (by simp [hup]), if_pos (by simp [hrate, hr, ho])]
  rw [heq]
  exact State.validMark_aborts _ (by rw [hpw]; exact hc) ((State.source?_of_pageWords htime).trans hs) m t

end

/-- Settles O15: the mark sets SLEEPABORT on its way to be accepted; the end of step 2 reads it, and reads it not after a host's request. -/
theorem markKeepsAwake : Obligations.MarkKeepsAwake := by
  refine ⟨fun s p m tArr hact hc hup hr ho hs => ?_, fun s w i hact hl hc hm hr hh hi => ?_, fun s w i hact hl hc hi => ?_⟩
  · obtain ⟨hevt, hnote⟩ := s.tmkRx_aborts hc hup hr ho hs tArr
    exact ⟨_, whenActive_active _ s (fun s => s.tmkRx p m true (markCrc m) tArr) hact, hevt, hnote, rfl⟩
  · obtain ⟨t, hexec, hpw, -, -, -, hbits⟩ := sleepEnd_staysActive hact hl hi hc hm hr
    rw [hh] at hpw
    exact ⟨t, hexec, by rw [hpw]; exact hact, by rw [hpw], by rw [hpw]; rfl, hbits SAFE.STATUS.LOCKOUT (by decide), hbits _ (by decide)⟩
  · obtain ⟨t, hexec, -, hcause, hph⟩ := sleepEnd_powersDown hact hl hi (r := .host) hc (by rintro ⟨⟨⟩, -⟩)
    refine ⟨t, hexec, fun hon => ?_, hcause⟩
    rw [hon] at hph
    split at hph
    · cases hph
    · cases hph.1

end Sys2Proof.Machine
end

