-- ==== Sys2Proof/Proofs/ChainRestarts.lean ====
section
/-! SUPPORT. The cells' part of the state behind the gate; what a restart does to the fine chains (R89, R94). -/
namespace Sys2Proof.Machine

/-! ### The cells' part -/

section
variable {s t : State} {c : List Part}

theorem State.only_cells (hc : Part.cells ∈ c) : (s.only t c).cells = t.cells := by simp [State.only, hc]

theorem State.cells_of_without (hc : Part.cells ∉ c) (h : t.without c = s.without c) : t.cells = s.cells := by
  rw [← State.only_of_without h]
  simp [State.only, hc]

end

/-! ### One chain restarted -/

/-- A chain restarted at clock `t`: no samples, no history, nothing posted (R89). -/
def Chain.restarted (x : Chain) (t : Nat) (afterOvr : Bool) : Chain :=
  { x with start := t, buf := [], n := 0, primed := false, hist := [], corner := [], notch := [], posted := false, afterOvr := afterOvr }

theorem Chain.restarted_twice (x : Chain) (t : Nat) (b : Bool) : (x.restarted t b).restarted t b = x.restarted t b := (rfl)

section
variable (s : State) (ch t : Nat) (b : Bool)

theorem State.restartChain_cells : (s.restartChain ch t b).cells =
    { s.cells with chains := put s.cells.chains ch ((look s.cells.chains ch).restarted t b) } := (rfl)

theorem State.restartChain_restart : (s.restartChain ch t b).bit CELLCFG.EVT.RESTART = true :=
  (State.bit_set_ne _ _ _ _ (by decide) (by decide)).trans (State.bit_evt _ _ _ _ (by decide))

theorem State.restartChain_fineValid : (s.restartChain ch t b).bit CELLCFG.STATUS.FINEVALID = false := by
  rw [State.bit, State.restartChain, State.get_set _ _ _ (by decide)]
  rfl

end

/-! ### Several chains restarted at one clock -/

/-- Restart the chains of a list of channels. -/
def State.restartChains (s : State) (l : List Nat) (t : Nat) (afterOvr : Bool) : State :=
  forEach l (fun ch s => s.restartChain ch t afterOvr) s

section
variable (s : State) (t : Nat) (b : Bool)

theorem State.restartChains_chain (l : List Nat) (ch : Nat) : look (s.restartChains l t b).cells.chains ch =
    if ch ∈ l then (look s.cells.chains ch).restarted t b else look s.cells.chains ch := by
  induction l generalizing s with
  | nil => rfl
  | cons k l ih =>
    have hstep : look (s.restartChain k t b).cells.chains ch =
        if ch = k then (look s.cells.chains ch).restarted t b else look s.cells.chains ch := by
      rw [State.restartChain_cells, look_put]
      split <;> simp [*]
    have hloop : s.restartChains (k :: l) t b = (s.restartChain k t b).restartChains l t b := rfl
    rw [hloop, ih, hstep]
    by_cases hk : ch = k <;> by_cases hl : ch ∈ l <;> simp [hk, hl, Chain.restarted_twice]

theorem State.restartChains_ovl (l : List Nat) : (s.restartChains l t b).cells.ovl = s.cells.ovl :=
  forEach_keeps (fun u : State => u.cells.ovl) _ l (fun ch _ u => by rw [u.restartChain_cells ch t b]) s

theorem State.restartChains_snap (l : List Nat) : (s.restartChains l t b).cells.snap = s.cells.snap :=
  forEach_keeps (fun u : State => u.cells.snap) _ l (fun ch _ u => by rw [u.restartChain_cells ch t b]) s

end

end Sys2Proof.Machine
end

