-- ==== Sys2Proof/Proofs/OverloadDetectors.lean ====
section
/-! O22. Assertion and release of an overload detector (R93, R94, R96). -/
namespace Sys2Proof.Machine

theorem exec_overloadAssert_eq (ch : Chan) (high : Bool) (clk : Fin 4096) (s : State) :
    exec (.overloadAssert ch high clk) s = whenActive [.cells] s fun s => s.overloadOn ch.val high clk.val := (rfl)

theorem exec_overloadRelease_eq (ch : Chan) (clk : Fin 4096) (s : State) :
    exec (.overloadRelease ch clk) s = whenActive [.cells] s fun s => s.overloadOff ch.val clk.val := (rfl)

section
variable (s : State) (ch clk : Nat)

/-- The live bits of the detectors are register words and a condition. -/
theorem State.ovlLive_cells : s.ovlLive.cells = s.cells := by
  simp only [State.ovlLive, State.setB_cells, State.cond_cells]
  exact forEach_keeps State.cells _ _ (fun _ _ _ => by rfl) s

/-- The detector after an assertion at clock `clk` (R93, R96). -/
def State.ovlAsserted (high : Bool) : Ovl :=
  { on := true, high := high, since := s.absClk clk, tEnd := none,
    win := (look s.cells.ovl ch).win || decide (99 ≤ clk ∧ clk ≤ 507) }

/-- The detector after its release at clock `clk` (R94, R96). -/
def State.ovlReleased : Ovl :=
  { look s.cells.ovl ch with
    on := false, tEnd := some (s.absClk clk),
    win := (look s.cells.ovl ch).win || (decide (99 ≤ clk) && decide ((look s.cells.ovl ch).since ≤ s.absClk 507)) }

theorem State.overloadOn_off (high : Bool) (h : s.chanOn ch = false) : s.overloadOn ch high clk = s := if_pos (.inl h)

theorem State.overloadOn_cells (high : Bool) (hon : s.chanOn ch = true) (hov : (look s.cells.ovl ch).on = false) :
    (s.overloadOn ch high clk).cells = { s.cells with ovl := put s.cells.ovl ch (s.ovlAsserted ch clk high) } := by
  have hact : ¬ (s.chanOn ch = false ∨ (look s.cells.ovl ch).on = true) := by simp [hon, hov]
  rw [State.overloadOn, if_neg hact, State.ovlLive_cells]
  split <;> rfl

theorem State.overloadOn_detector (high : Bool) (hon : s.chanOn ch = true) (hov : (look s.cells.ovl ch).on = false) (k : Nat) :
    look (s.overloadOn ch high clk).cells.ovl k = if k = ch then s.ovlAsserted ch clk high else look s.cells.ovl k := by
  rw [s.overloadOn_cells ch clk high hon hov]
  exact look_put s.cells.ovl ch k (s.ovlAsserted ch clk high)

/-- A release restarts the channel's chain and those beside it. -/
theorem State.overloadOff_cells (hov : (look s.cells.ovl ch).on = true) : (s.overloadOff ch clk).cells =
    (({ s with cells := { s.cells with ovl := put s.cells.ovl ch (s.ovlReleased ch clk) } }).restartChains
      (ch :: if ch < 36 then s.beside ch else []) (s.absClk clk) true).cells := by
  have hact : ¬ (look s.cells.ovl ch).on = false := by simp [hov]
  rw [State.overloadOff, if_neg hact, State.ovlLive_cells]
  rfl

end

/-- Settles O22: an assertion and a release by what they leave of the cells' part; a release restarts the channel's own chain first. -/
theorem overloadDetector : Obligations.OverloadDetector := by
  refine ⟨fun s ch high clk hact hon hov => ?_, fun s ch clk hact hov => ?_, fun s ch high clk hact hoff => ?_⟩
  · rw [exec_overloadAssert_eq, whenActive_active _ s _ hact]
    refine ⟨_, rfl, ?_⟩
    have hovl := s.overloadOn_detector ch.val clk.val high hon hov
    have hcells := s.overloadOn_cells ch.val clk.val high hon hov
    rw [State.only_cells (by decide)]
    exact ⟨(hovl ch.val).trans (if_pos rfl), fun k hk => (hovl k).trans (if_neg hk), by rw [hcells], by rw [hcells]⟩
  · rw [exec_overloadRelease_eq, whenActive_active _ s _ hact]
    refine ⟨_, rfl, ?_⟩
    rw [State.only_cells (by decide), s.overloadOff_cells ch.val clk.val hov, State.restartChains_ovl, State.restartChains_snap,
      State.restartChains_chain, if_pos List.mem_cons_self, look_put_self]
    exact ⟨rfl, rfl, rfl, rfl, rfl⟩
  · exact (exec_overloadAssert_eq ch high clk s).trans (whenActive_same hact (s.overloadOn_off ch.val clk.val high hoff))

end Sys2Proof.Machine
end

