-- ==== Sys2Proof/Proofs/CellsKept.lean ====
section
/-! SUPPORT. Tables filled channel by channel; the operations of riser 2 and of a boundary that leave the cells' part alone. -/
namespace Sys2Proof.Machine

/-- A table filled over a list of keys reads at each of them what was put there, and elsewhere what it read before. -/
theorem look_foldl_put {α : Type} [Inhabited α] [DecidableEq α] (f : Nat → α) (l : List Nat) (m : SMap α) (c : Nat) :
    look (l.foldl (fun m k => put m k (f k)) m) c = if c ∈ l then f c else look m c := by
  induction l generalizing m with
  | nil => rfl
  | cons k l ih =>
    rw [List.foldl_cons, ih, look_put]
    by_cases hk : c = k
    · subst hk
      simp
    · simp [hk]

section
variable (s : State)

theorem State.plausibility_cells (a b : Res) : (s.plausibility a b).cells = s.cells := by
  simp only [State.plausibility, apply_ite State.cells, State.setB_cells, State.evt_cells, State.cond_cells, State.inc_cells, ite_self]

theorem State.currWords_cells : s.currWords.cells = s.cells := (rfl)

theorem State.firstImage_cells : s.firstImage.cells = s.cells := by
  simp only [State.firstImage, apply_ite State.cells, State.tick_cells, State.set_cells, State.setB_cells, ite_self]

theorem State.learnEdges_cells : s.learnEdges.cells = s.cells := by
  refine forEach_keeps State.cells _ _ (fun e _ u => ?_) s
  split
  · rfl
  · simp only [apply_ite State.cells, ite_self]

theorem State.targetSnap_cells : s.targetSnap.cells = s.cells := by
  have hloop : (forEach s.switches (fun (n : Nat) (u : State) => u.targetJudge n (look u.cells.snap (n - 1))) s).cells = s.cells :=
    forEach_keeps State.cells _ _ (fun n _ u => by simp only [State.targetJudge, apply_ite State.cells, ite_self]) s
  rw [State.targetSnap, apply_ite State.cells, hloop, ite_self]

theorem State.post_cells (q : Nat) (l : List Byte) : (s.post q l).cells = s.cells :=
  State.cells_of_without (c := [.xact]) (by decide) (s.post_without (by decide) q l)

theorem State.bcastPost_cells : s.bcastPost.cells = s.cells := by
  rw [State.bcastPost, apply_ite State.cells, State.post_cells, ite_self]

end

end Sys2Proof.Machine
end

