-- ==== Sys2Proof/Proofs/SnapshotResults.lean ====
section
/-! SUPPORT. The snapshot result of one channel (R80, R81, R90, R92, R96). -/
namespace Sys2Proof.Machine

/-- A range of corrected results is not empty (R92, R107, R110). -/
theorem State.rangeOf_le (s : State) (ch : Nat) : (s.rangeOf ch).1 ≤ (s.rangeOf ch).2 := by
  unfold State.rangeOf
  split
  · decide
  · have hnonneg (g : Nat) : (0 : Int) ≤ 5000000 / 2 ^ g := Int.ediv_nonneg (by decide) (by positivity)
    exact (Int.neg_nonpos_of_nonneg (hnonneg _)).trans (hnonneg _)

/-- A corrected result limited to its range: the clamp code of the side it lies beyond (R92). -/
def State.clamped (s : State) (ch : Nat) (v : Int) : Int :=
  if v < (s.rangeOf ch).1 then -8388608 else if (s.rangeOf ch).2 < v then 8388607 else v

/-- A corrected result lies beyond its range (R92). -/
def State.beyond (s : State) (ch : Nat) (v : Int) : Bool := decide (v < (s.rangeOf ch).1 ∨ (s.rangeOf ch).2 < v)

theorem State.clamped_eq (s : State) (ch : Nat) (v : Int) :
    (if s.beyond ch v then clampCode (decide ((s.rangeOf ch).2 < v)) else v) = s.clamped ch v := by
  have hle := s.rangeOf_le ch
  unfold State.beyond State.clamped clampCode
  by_cases hlo : v < (s.rangeOf ch).1
  · have hhi : ¬ (s.rangeOf ch).2 < v := by omega
    simp [hlo, hhi]
  · by_cases hhi : (s.rangeOf ch).2 < v <;> simp [hlo, hhi]

section
variable (s : State) (ch : Nat) (l : List Int)

theorem State.snapRes_off (hoff : s.chanOn ch = false) : s.snapRes ch l = { (default : Res) with unc := 15 } := if_pos hoff

theorem State.snapRes_hit (hon : s.chanOn ch = true) (hwin : s.winHit ch = true) : s.snapRes ch l =
    { v := clampCode (look s.cells.ovl ch).high, ovr := true, nbr := decide (ch < 36) && (s.beside ch).any s.winHit, stale := s.calNow ch,
      bal := false, pls := false, tag := s.tagNow, unc := 15 } := by
  have hoff : ¬ s.chanOn ch = false := by simp [hon]
  exact (if_neg hoff).trans (if_pos hwin)

/-- The result of a channel neither in overload nor under calibration, but for its class. -/
theorem State.snapRes_clean (hon : s.chanOn ch = true) (hwin : s.winHit ch = false) (hcal : s.calNow ch = false) {v : Int}
    (hv : v = roundRat (s.corrected ch s.cells.dieTemp (snapD l))) : ∃ unc, s.snapRes ch l =
    { v := s.clamped ch v, ovr := s.beyond ch v, nbr := decide (ch < 36) && (s.beside ch).any s.winHit, stale := false,
      bal := false, pls := false, tag := s.tagNow, unc := unc } := by
  have hoff : ¬ s.chanOn ch = false := by simp [hon]
  have hnhit : ¬ s.winHit ch = true := by simp [hwin]
  have hncal : ¬ s.calNow ch = true := by simp [hcal]
  rw [← s.clamped_eq, hv]
  exact ⟨_, (if_neg hoff).trans ((if_neg hnhit).trans (if_neg hncal))⟩

end

end Sys2Proof.Machine
end

