-- ==== Sys2Proof/Proofs/SnapshotImages.lean ====
section
/-! O20. The image that riser 2 of a tread forms (R13, R29, R37, R60, R103). -/
namespace Sys2Proof.Machine

theorem exec_snapshotImage_eq {l : List (List Int)} (hl : imageShape l) (late : Bool) (s : State) :
    exec (.snapshotImage late l) s = whenActive [.cells, .curr, .bal, .xact, .diag] s fun s => s.snapshot late l := if_pos hl

section
variable (s : State) (l : List (List Int))

/-- The state with the die temperature of the image (R136). -/
def State.imageDie : State := { s with cells := { s.cells with dieTemp := s.dieImage } }

theorem State.formImage_snap {c : Nat} (hc : c < 38) :
    look (s.formImage l).cells.snap c = s.imageDie.snapRes c (l.getD c []) := by
  have hfill : (s.formImage l).cells.snap =
      (List.range 38).foldl (fun m ch => put m ch (s.imageDie.snapRes ch (l.getD ch []))) [] := List.foldl_map
  rw [hfill, look_foldl_put, if_pos (List.mem_range.mpr hc)]

/-- PLS set in one result (R115). -/
def plsSet (m : SMap Res) (k : Nat) : SMap Res := adj m k (fun r => { r with pls := true })

theorem look_plsSet (m : SMap Res) (k c : Nat) : ∃ pls, look (plsSet m k) c = { look m c with pls := pls } := by
  by_cases hc : c = k
  · exact ⟨true, (look_adj _ _ _ _).trans (by rw [if_pos hc, hc])⟩
  · exact ⟨(look m c).pls, (look_adj _ _ _ _).trans (if_neg hc)⟩

/-- A mismatch of the two currents sets PLS in their results and nothing else of the cells' part (R115). -/
theorem State.plsFlags_cells : ∃ m : SMap Res, s.plsFlags.cells = { s.cells with snap := m } ∧
    ∀ c, ∃ pls, look m c = { look s.cells.snap c with pls := pls } := by
  unfold State.plsFlags
  split
  · refine ⟨plsSet (plsSet s.cells.snap 36) 37, rfl, fun c => ?_⟩
    obtain ⟨a, ha⟩ := look_plsSet s.cells.snap 36 c
    obtain ⟨b, hb⟩ := look_plsSet (plsSet s.cells.snap 36) 37 c
    exact ⟨b, by rw [hb, ha]⟩
  · exact ⟨_, rfl, fun c => ⟨_, rfl⟩⟩

theorem State.snapshot_none (late : Bool) (h : s.tm.tread = 0 ∨ s.tm.noSnap = true ∨ s.cells.fresh = true) : s.snapshot late l = s :=
  if_pos h

section
variable (ht : 0 < s.tm.tread) (hn : s.tm.noSnap = false) (hf : s.cells.fresh = false)
include ht hn hf

theorem State.snapshot_late : s.snapshot true l =
    ({ s with cells := { s.cells with lateRun := s.cells.lateRun + 1 } }).occur 14 := by
  have hdue : ¬ (s.tm.tread = 0 ∨ s.tm.noSnap = true ∨ s.cells.fresh = true) := by simp [hn, hf, Nat.pos_iff_ne_zero.mp ht]
  exact (if_neg hdue).trans (if_pos rfl)

/-- The image in time: what follows it in riser 2 touches nothing of the cells' part but PLS. -/
theorem State.snapshot_cells : ∃ m : SMap Res, (s.snapshot false l).cells = { (s.formImage l).cells with snap := m } ∧
    ∀ c, ∃ pls, look m c = { look (s.formImage l).cells.snap c with pls := pls } := by
  have hdue : ¬ (s.tm.tread = 0 ∨ s.tm.noSnap = true ∨ s.cells.fresh = true) := by simp [hn, hf, Nat.pos_iff_ne_zero.mp ht]
  have hcells : (s.snapshot false l).cells = ((s.formImage l).plausibility (look (s.formImage l).cells.snap 36)
      (look (s.formImage l).cells.snap 37)).plsFlags.cells := by
    rw [State.snapshot, if_neg hdue]
    simp only [Bool.false_eq_true, if_false, State.bcastPost_cells, State.post_cells, State.targetSnap_cells, State.learnEdges_cells,
      State.firstImage_cells, State.currWords_cells]
  have hpls := State.plsFlags_cells ((s.formImage l).plausibility (look (s.formImage l).cells.snap 36) (look (s.formImage l).cells.snap 37))
  rw [State.plausibility_cells] at hpls
  rw [hcells]
  exact hpls

end

end

/-- Settles O20: the image's stamps stand as they were formed, and each channel's result is read off its own rule; PLS alone is added. -/
theorem snapshotImages : Obligations.SnapshotImages := by
  refine ⟨fun s l hact hl ht hn hf => ?_, fun s l hact hl ht hn hf => ?_, fun s l late hact hl hnone => ?_⟩
  · obtain ⟨m, hcells, hm⟩ := s.snapshot_cells l ht hn hf
    have hv (c : Nat) : (look m c).v = (look (s.formImage l).cells.snap c).v := by
      obtain ⟨pls, hc⟩ := hm c
      rw [hc]
    rw [exec_snapshotImage_eq hl, whenActive_active _ s _ hact]
    refine ⟨_, rfl, ?_⟩
    rw [State.only_cells (by decide), hcells]
    refine ⟨rfl, rfl, rfl, rfl, rfl, rfl, ?_, fun c hc hon hwin => ?_, fun c v hc hon hwin hcal hcor => ?_, fun c hc hoff => ?_⟩
    · simp only [hv]
      rfl
    · obtain ⟨pls, hres⟩ := hm c
      rw [s.formImage_snap l hc, s.imageDie.snapRes_hit c _ hon hwin] at hres
      exact ⟨congrArg Res.ovr hres, congrArg Res.unc hres, congrArg Res.v hres⟩
    · obtain ⟨pls, hres⟩ := hm c
      obtain ⟨unc, hclean⟩ := s.imageDie.snapRes_clean c (l.getD c []) hon hwin hcal hcor
      rw [s.formImage_snap l hc, hclean] at hres
      exact ⟨congrArg Res.ovr hres, congrArg Res.v hres, congrArg Res.nbr hres, congrArg Res.stale hres, congrArg Res.tag hres⟩
    · obtain ⟨pls, hres⟩ := hm c
      have hchan : s.imageDie.chanOn c = false := (if_pos hc).trans (decide_eq_false (Nat.not_lt.mpr hoff))
      rw [s.formImage_snap l (hc.trans (by decide)), s.imageDie.snapRes_off c _ hchan] at hres
      exact ⟨congrArg Res.v hres, congrArg Res.unc hres⟩
  · rw [exec_snapshotImage_eq hl, ← s.snapshot_late l ht hn hf]
    refine whenActive_next (k := fun s => s.snapshot true l) hact ?_
    simp only [s.snapshot_late l ht hn hf, State.occur_without]
    exact State.withCells_without s (by decide) _
  · exact (exec_snapshotImage_eq hl late s).trans (whenActive_same hact (s.snapshot_none l late hnone))

end Sys2Proof.Machine
end

