-- ==== Sys2Proof/Proofs/FineResults.lean ====
section
/-! SUPPORT. The fine result of one channel at a boundary, and the run of all chains (R82 to R95, R99, R104). -/
namespace Sys2Proof.Machine

/-! ### One channel -/

section
variable {s : State} {ch b tag : Nat} {c : Chain} (hon : s.chanOn ch = true) (hb : 4096 < b)
include hon hb

/-- A channel in overload posts its clamp code (R94). -/
theorem State.fineRes_overload (hov : s.inOverload ch b = true) : (s.fineRes ch b tag c).2 = true ∧
    (s.fineRes ch b tag c).1.ovr = true ∧ (s.fineRes ch b tag c).1.unc = 15 ∧
    (s.fineRes ch b tag c).1.v = clampCode (look s.cells.ovl ch).high := by
  have hoff : ¬ s.chanOn ch = false := by simp [hon]
  have hlate : ¬ b ≤ 4096 := Nat.not_le.mpr hb
  rw [State.fineRes, if_neg hoff, if_neg hlate, if_pos hov]
  exact ⟨rfl, rfl, rfl, rfl⟩

/-- A channel whose chain is ready posts a result of some kind (R89, R94, R162). -/
theorem State.fineRes_posted (hready : s.chainReady c b = true) : (s.fineRes ch b tag c).2 = true := by
  by_cases hov : s.inOverload ch b = true
  · exact (State.fineRes_overload hon hb hov).1
  · cases hcal : s.calAt (lastBack (b % 4096)) ch <;> simp [State.fineRes, hon, Nat.not_le.mpr hb, hov, hcal, hready]

/-- The result of a channel neither in overload nor under calibration, in its range (R90, R92). -/
theorem State.fineRes_clean (hov : s.inOverload ch b = false) (hcal : s.calAt (lastBack (b % 4096)) ch = false)
    (hready : s.chainReady c b = true) (hlo : (s.rangeOf ch).1 ≤ c.raw) (hhi : c.raw ≤ (s.rangeOf ch).2) :
    (s.fineRes ch b tag c).1.v = c.raw ∧ (s.fineRes ch b tag c).1.ovr = false ∧ (s.fineRes ch b tag c).1.stale = false := by
  have hin : ¬ (c.raw < (s.rangeOf ch).1 ∨ (s.rangeOf ch).2 < c.raw) := by omega
  simp [State.fineRes, hon, hov, hcal, hready, Nat.not_le.mpr hb, hin]

end

/-! ### All channels -/

section
variable (s : State) (clk : Nat) (l : List (List Int))

/-- The tag of the results of a boundary: that of the tread in which the last input sample was taken (R42). -/
def State.fineTagAt : Nat := if clk = 0 then (s.tm.ltc + 15) % 16 else s.tagNow

/-- What channel `ch` shows at a boundary, and whether it is posted. -/
def State.fineOf (ch : Nat) : Res × Bool :=
  s.fineRes ch (s.absClk clk) (s.fineTagAt clk) (s.runChain ch (s.absClk clk) (l.getD ch []))

/-- Every channel with its chain after the boundary, its result and whether it is posted. -/
def State.fineResults : List (Nat × Chain × Res × Bool) :=
  ((List.range 38).map (fun ch => (ch, s.runChain ch (s.absClk clk) (l.getD ch [])))).map
    (fun p => (p.1, p.2, s.fineRes p.1 (s.absClk clk) (s.fineTagAt clk) p.2))

theorem State.fineResults_posted {ch : Nat} (hch : ch < 38) (h : (s.fineOf clk l ch).2 = true) :
    ¬ (s.fineResults clk l).all (fun p => !p.2.2.2) = true := by
  have hmem : (ch, s.runChain ch (s.absClk clk) (l.getD ch []), s.fineOf clk l ch) ∈ s.fineResults clk l :=
    List.mem_map_of_mem (List.mem_map_of_mem (List.mem_range.mpr hch))
  intro hall
  have hnot := List.all_eq_true.mp hall _ hmem
  simp [h] at hnot

theorem State.fineResults_fill {ch : Nat} (hch : ch < 38) :
    look ((s.fineResults clk l).foldl (fun m p => put m p.1 p.2.2.1) s.cells.fine) ch = (s.fineOf clk l ch).1 := by
  have hfill : (s.fineResults clk l).foldl (fun m p => put m p.1 p.2.2.1) s.cells.fine =
      (List.range 38).foldl (fun m ch => put m ch (s.fineOf clk l ch).1) s.cells.fine := List.foldl_map.trans List.foldl_map
  rw [hfill, look_foldl_put, if_pos (List.mem_range.mpr hch)]

end

/-! ### The boundary as seen and the results

The results of a boundary do not depend on the newest boundary seen before. -/

/-- The state with another newest boundary seen. -/
def State.seenAt (s : State) (n : Nat) : State := { s with cells := { s.cells with boundAt := n } }

section
variable (s : State) (n : Nat)

theorem State.seenAt_corrected (ch : Nat) (t : Int) (d : Rat) : (s.seenAt n).corrected ch t d = s.corrected ch t d := (rfl)
theorem State.seenAt_irTerm (k b : Nat) : (s.seenAt n).irTerm k b = s.irTerm k b := (rfl)
theorem State.seenAt_fed (ch b : Nat) (l : List Int) : (s.seenAt n).fed ch b l = s.fed ch b l := (rfl)
theorem State.seenAt_filters (c : Chain) (x : Rat) : (s.seenAt n).filters c x = s.filters c x := (rfl)
theorem State.seenAt_runChain (ch b : Nat) (l : List Int) : (s.seenAt n).runChain ch b l = s.runChain ch b l := by
  simp only [State.runChain, State.seenAt_corrected, State.seenAt_irTerm, State.seenAt_fed, State.seenAt_filters]
  rfl
theorem State.seenAt_fineRes (ch b tag : Nat) (c : Chain) : (s.seenAt n).fineRes ch b tag c = s.fineRes ch b tag c := (rfl)
theorem State.seenAt_absClk (clk : Nat) : (s.seenAt n).absClk clk = s.absClk clk := (rfl)
theorem State.seenAt_fineTagAt (clk : Nat) : (s.seenAt n).fineTagAt clk = s.fineTagAt clk := (rfl)
theorem State.seenAt_osr : (s.seenAt n).osr = s.osr := (rfl)

theorem State.seenAt_fineOf (clk : Nat) (l : List (List Int)) (ch : Nat) : (s.seenAt n).fineOf clk l ch = s.fineOf clk l ch := by
  simp only [State.fineOf, State.seenAt_runChain, State.seenAt_fineRes, State.seenAt_absClk, State.seenAt_fineTagAt]

theorem State.boundarySeen_eq (clk : Nat) : s.boundarySeen clk = s.seenAt (s.absClk clk) := (rfl)

end

/-! ### What a run shows -/

/-- The fine results, the clock and the number of their boundary, and the newest boundary seen. -/
def State.fineView (s : State) : SMap Res × Nat × Nat × Nat := (s.cells.fine, s.cells.fineAt, s.cells.fsx, s.cells.boundAt)

section
variable (s : State)

theorem State.nbrLive_cells : s.nbrLive.cells = s.cells := by
  rw [State.nbrLive, State.cond_cells, State.setB_cells]
  exact forEach_keeps State.cells _ _ (fun c _ u => u.setV_cells _ c _) s

theorem State.holdLast_fineView (clk ch : Nat) : (s.holdLast clk ch).fineView = s.fineView := by
  rw [State.holdLast, apply_ite State.fineView]
  exact ite_self _

theorem State.closeFine_fineView (ch : Nat) : (s.closeFine ch).fineView = s.fineView := by
  cases ho : look s.cells.openBlk ch <;> simp only [State.closeFine, ho, State.fineView, State.post_cells]

theorem State.addFine_fineView (ch fsx : Nat) (r : Res) : (s.addFine ch fsx r).fineView = s.fineView := by
  have hopen (u : State) (x : SMap (Option OpenBlk)) : ({ u with cells := { u.cells with openBlk := x } } : State).fineView = u.fineView := rfl
  cases ho : look s.cells.openBlk ch <;>
    simp only [State.addFine, ho, apply_ite State.fineView, State.closeFine_fineView, hopen, ite_self]

theorem State.withOvl_fineView (x : SMap Ovl) : ({ s with cells := { s.cells with ovl := x } } : State).fineView = s.fineView := (rfl)

theorem State.nbrLive_fineView : s.nbrLive.fineView = s.fineView := by
  rw [State.fineView, State.nbrLive_cells, ← State.fineView]

theorem State.set_fineView (f : Fld) (v : Nat) : (s.set f v).fineView = s.fineView := (rfl)

theorem State.holdLasts_fineView (clk : Nat) (l : List Nat) :
    (forEach l (fun (ch : Nat) (u : State) => u.holdLast clk ch) s).fineView = s.fineView :=
  forEach_keeps State.fineView _ _ (fun ch _ u => u.holdLast_fineView clk ch) s

theorem State.addFines_fineView (fsx : Nat) (rs : List (Nat × Chain × Res × Bool)) :
    (forEach rs (fun p (u : State) => if p.2.2.2 then u.addFine p.1 fsx p.2.2.1 else u) s).fineView = s.fineView :=
  forEach_keeps State.fineView _ _ (fun p _ u => by rw [apply_ite State.fineView, u.addFine_fineView, ite_self]) s

/-- A run at which some channel posts shows the results of its own boundary; what it does with them afterwards leaves them as they are. -/
theorem State.fineRun_fineView (clk : Nat) (l : List (List Int)) {ch : Nat} (hch : ch < 38) (h : (s.fineOf clk l ch).2 = true) :
    (s.fineRun clk l).fineView = ((s.fineResults clk l).foldl (fun m p => put m p.1 p.2.2.1) s.cells.fine, s.absClk clk,
      fsxOf s.tm.stn s.osr clk, s.cells.boundAt) := by
  refine (congrArg State.fineView (if_neg (s.fineResults_posted clk l hch h))).trans ?_
  rw [State.holdLasts_fineView, State.nbrLive_fineView, State.withOvl_fineView, apply_ite State.fineView, State.set_fineView, ite_self,
    State.addFines_fineView]
  rfl

end

end Sys2Proof.Machine
end

