-- ==== Sys2Proof/Proofs/FineStreams.lean ====
section
/-! O21. Fine boundaries, RESTART and the switch of the fine streams (R85, R89, R93, R99, R102, R104, R146). -/
namespace Sys2Proof.Machine

/-! ### A boundary -/

theorem exec_fineBoundary_eq (clk : Fin 4096) {l : List (List Int)} (hl : l.length = 38) (s : State) :
    exec (.fineBoundary clk l) s =
      whenActive [.held, .cells, .curr, .bal, .xact, .imp, .diag, .fl] s fun s => s.fineBoundary clk.val l := if_pos hl

section
variable (s : State)

theorem State.impAbort_cells (stop : Bool) : (s.impAbort stop).cells = s.cells :=
  State.cells_of_without (c := [.bal, .imp]) (by decide) (s.impAbort_without (by decide) (by decide) stop)

theorem State.excTrim_cells (t : Nat) : (s.excTrim t).cells = s.cells :=
  State.cells_of_without (c := [.bal]) (by decide) (s.excTrim_without (by decide) t)

theorem State.impStatus_cells : s.impStatus.cells = s.cells := State.cells_of_without (c := []) (by decide) s.impStatus_without

theorem State.impSample_cells (b fsx : Nat) : (s.impSample b fsx).cells = s.cells := by
  rw [State.impSample, State.impStatus_cells, State.excTrim_cells]
  refine forEach_keeps State.cells _ _ (fun k _ u => ?_) s
  dsimp only
  split
  · rfl
  · have hlane (x : ImpLane) : (u.setLane k x).cells = u.cells := rfl
    simp only [apply_ite State.cells, hlane, ite_self]

theorem State.ownSample_cells (b fsx : Nat) : (s.ownSample b fsx).cells = s.cells := (rfl)

end

section
variable {s : State} (clk : Nat) (l : List (List Int)) (hp : s.cells.finePend = none)
include hp

/-- Without a waiting FINE write a boundary adopts nothing (R89). -/
theorem State.fineBoundary_plain : s.fineBoundary clk l =
    if s.isBoundary (s.used CELLCFG.FINE.OSR) clk = false then s
    else if s.bit CELLCFG.CTRL.FINEEN = false then s.boundarySeen clk
    else if l.any (fun c => c.length != s.osr) = true then s
    else (((s.boundarySeen clk).fineRun clk l).ownSample (s.absClk clk) (fsxOf s.tm.stn s.osr clk)).impSample (s.absClk clk)
      (fsxOf s.tm.stn s.osr clk) := by
  have hnone : ¬ (s.cells.finePend.isSome && (s.fineAdopt clk).cells.finePend.isNone) = true := by simp [hp]
  exact if_neg hnone

theorem State.fineBoundary_none (hbound : s.isBoundary (s.used CELLCFG.FINE.OSR) clk = false) : s.fineBoundary clk l = s :=
  (State.fineBoundary_plain clk l hp).trans (if_pos hbound)

section
variable (hbound : s.isBoundary (s.used CELLCFG.FINE.OSR) clk = true)
include hbound

theorem State.fineBoundary_passes (hoff : s.bit CELLCFG.CTRL.FINEEN = false) : s.fineBoundary clk l = s.boundarySeen clk := by
  rw [State.fineBoundary_plain clk l hp, if_neg (by simp [hbound]), if_pos hoff]

theorem State.fineBoundary_cells (hen : s.bit CELLCFG.CTRL.FINEEN = true) (hl : ∀ c ∈ l, c.length = s.osr) :
    (s.fineBoundary clk l).cells = ((s.seenAt (s.absClk clk)).fineRun clk l).cells := by
  have hlen : ¬ l.any (fun c => c.length != s.osr) = true := by simpa using hl
  rw [State.fineBoundary_plain clk l hp, if_neg (by simp [hbound]), if_neg (by simp [hen]), if_neg hlen, State.impSample_cells,
    State.ownSample_cells, State.boundarySeen_eq]

/-- A boundary at which some channel posts: what the fine page then shows (R85, R99, R104). -/
theorem State.fineBoundary_shows (hen : s.bit CELLCFG.CTRL.FINEEN = true) (hl : ∀ c ∈ l, c.length = s.osr) {ch : Nat} (hch : ch < 38)
    (hpost : (s.fineOf clk l ch).2 = true) :
    look (s.fineBoundary clk l).cells.fine ch = (s.fineOf clk l ch).1 ∧ (s.fineBoundary clk l).cells.fineAt = s.absClk clk ∧
    (s.fineBoundary clk l).cells.fsx = fsxOf s.tm.stn s.osr clk ∧ (s.fineBoundary clk l).cells.boundAt = s.absClk clk := by
  have hview := (s.seenAt (s.absClk clk)).fineRun_fineView clk l hch (by rw [State.seenAt_fineOf, hpost])
  simp only [State.fineView, Prod.mk.injEq] at hview
  obtain ⟨hfine, hat, hfsx, hseen⟩ := hview
  rw [State.fineBoundary_cells clk l hp hbound hen hl, hfine, hat, hfsx, hseen, State.fineResults_fill _ clk l hch, State.seenAt_fineOf,
    State.seenAt_osr]
  exact ⟨rfl, rfl, rfl, rfl⟩

end

end

theorem State.absClk_mod (s : State) (clk : Fin 4096) : s.absClk clk.val % 4096 = clk.val := by
  have hlt := clk.isLt
  rw [State.absClk]
  omega

/-! ### Restarts -/

/-- What every turn of a loop ends with, a loop of at least one turn ends with. -/
theorem forEach_ends {α σ : Type} {P : σ → Prop} {f : α → σ → σ} (h : ∀ a s, P (f a s)) {l : List α} (hl : l ≠ []) (s : σ) :
    P (forEach l f s) := by
  induction l generalizing s with
  | nil => exact absurd rfl hl
  | cons a l ih =>
    by_cases hrest : l = []
    · rw [hrest]
      exact h a s
    · exact ih hrest (f a s)

section
variable (s : State)

theorem State.restartAll_shown (t : Nat) : (s.restartAll t).bit CELLCFG.EVT.RESTART = true ∧
    (s.restartAll t).bit CELLCFG.STATUS.FINEVALID = false :=
  forEach_ends (P := fun u : State => u.bit CELLCFG.EVT.RESTART = true ∧ u.bit CELLCFG.STATUS.FINEVALID = false)
    (fun ch u => ⟨u.restartChain_restart ch t false, u.restartChain_fineValid ch t false⟩) (by decide) s

/-- The clock from which a restart by command counts (R89). -/
def State.restartClk : Nat := max s.cells.boundAt (s.absClk 0) + 1

theorem State.restartClk_eq : s.restartClk = max s.cells.boundAt (s.tm.tread * 4096) + 1 := by
  simp only [State.restartClk, State.absClk, Nat.add_zero]

theorem State.restartNow_eq : s.restartNow = (s.restartChains (List.range 38) s.restartClk false).waitsStale := (rfl)

theorem State.waitsStale_cells : s.waitsStale.cells = s.cells := (rfl)

theorem State.restartNow_chain {ch : Nat} (hch : ch < 38) :
    look s.restartNow.cells.chains ch = (look s.cells.chains ch).restarted s.restartClk false := by
  rw [s.restartNow_eq, State.waitsStale_cells, State.restartChains_chain, if_pos (List.mem_range.mpr hch)]

theorem State.restartNow_waits (v : Conv) : ∀ w ∈ (s.restartNow.conv v).waits, w.bad = true := by
  have hstale (u : State) : (u.waitsStale.conv v).waits = (u.conv v).waits.map (fun w => { w with bad := true }) := by cases v <;> rfl
  intro w hw
  rw [State.restartNow, hstale] at hw
  obtain ⟨x, -, rfl⟩ := List.mem_map.mp hw
  rfl

theorem State.impAbort_conv (stop : Bool) (v : Conv) : (s.impAbort stop).conv v = s.conv v := by
  have haux : (s.impAbort stop).aux = s.aux := by
    rw [← State.only_of_without (s.impAbort_without (c := [.bal, .imp]) (by decide) (by decide) stop)]
    rfl
  cases v <;> simp only [State.conv, haux]

theorem State.restartCmd_shown : s.restartCmd.bit CELLCFG.EVT.RESTART = true ∧ s.restartCmd.bit CELLCFG.STATUS.FINEVALID = false := by
  have hpage : s.restartCmd.pageWords 7 = (s.restartAll s.restartClk).pageWords 7 := by
    rw [State.restartCmd, State.impAbort_pageWords _ (by decide), State.restartNow, State.waitsStale_pageWords, State.restartClk]
  rw [State.bit_of_pageWords hpage rfl, State.bit_of_pageWords hpage rfl]
  exact s.restartAll_shown s.restartClk

theorem exec_restart_eq : exec .restart s = whenActive [.cells, .bal, .aux, .imp] s State.restartCmd := (rfl)

theorem exec_fineen_eq (on : Bool) : exec (.fineen on) s = whenActive [.cells, .aux] s fun s => s.writeFineen on := (rfl)

variable {s}

theorem exec_restart_next (hact : s.pw.phase = .active) : exec .restart s = .next s.restartCmd :=
  (exec_restart_eq s).trans (whenActive_next hact (s.restartCmd_without (by decide) (by decide) (by decide) (by decide)))

theorem exec_fineen_next (hact : s.pw.phase = .active) (on : Bool) : exec (.fineen on) s = .next (s.writeFineen on) :=
  (exec_fineen_eq s on).trans
    (whenActive_next (k := fun s => s.writeFineen on) hact (s.writeFineen_without (by decide) (by decide) on))

theorem State.writeFineen_again (hen : s.bit CELLCFG.CTRL.FINEEN = true) :
    s.writeFineen true = s.setB CELLCFG.CTRL.FINEEN true := by
  simp [State.writeFineen, hen]

theorem State.writeFineen_starts (hoff : s.bit CELLCFG.CTRL.FINEEN = false) :
    s.writeFineen true = (s.setB CELLCFG.CTRL.FINEEN true).restartNow := by
  simp [State.writeFineen, hoff]

end

/-- Settles O21: a boundary shows what each channel's rule gives it; a restart is read off one chain, and off the last one for its bits. -/
theorem fineStreams : Obligations.FineStreams := by
  refine ⟨fun s clk l ch hact hl hp hen hbound hlen hb hch hon hpost => ?_, fun s clk l hact hl hp hbound => ?_, fun s ch hact hch => ?_,
    fun s ch hact hch hoff => ?_, fun s hact hen => ?_, fun s hact => exec_fineen_next hact false, fun s clk l hact hl hp hoff hbound => ?_⟩
  · have hposted : (s.fineOf clk.val l ch).2 = true := by
      rcases hpost with hov | hready
      · exact (State.fineRes_overload hon hb hov).1
      · exact State.fineRes_posted hon hb hready
    obtain ⟨hfine, hat, hfsx, hseen⟩ := State.fineBoundary_shows clk.val l hp hbound hen hlen hch hposted
    rw [exec_fineBoundary_eq clk hl, whenActive_active _ s _ hact]
    refine ⟨_, rfl, ?_⟩
    rw [State.only_cells (by decide), hat, hfsx, hseen, hfine]
    refine ⟨rfl, rfl, rfl, fun hov => (State.fineRes_overload hon hb hov).2, fun v hov hcal hv hlo hhi => ?_⟩
    subst hv
    have hready := hpost.resolve_left (by simp [hov])
    rw [← s.absClk_mod clk] at hcal
    exact State.fineRes_clean hon hb hov hcal hready hlo hhi
  · exact (exec_fineBoundary_eq clk hl s).trans (whenActive_same hact (State.fineBoundary_none clk.val l hp hbound))
  · have hwithout := s.restartCmd_without (c := [.cells, .bal, .aux, .imp]) (by decide) (by decide) (by decide) (by decide)
    have hchain : look s.restartCmd.cells.chains ch = (look s.cells.chains ch).restarted s.restartClk false := by
      rw [State.restartCmd, State.impAbort_cells, s.restartNow_chain hch]
    obtain ⟨hevt, hvalid⟩ := s.restartCmd_shown
    refine ⟨_, exec_restart_next hact, ?_⟩
    rw [hchain]
    refine ⟨s.restartClk_eq, rfl, rfl, rfl, hevt, hvalid, fun v => ?_, State.tm_of_without (by decide) hwithout⟩
    rw [State.restartCmd, State.impAbort_conv]
    exact s.restartNow_waits v
  · refine ⟨_, exec_fineen_next hact true, ?_⟩
    rw [State.writeFineen_starts hoff, State.restartNow_chain _ hch]
    exact ⟨(s.setB CELLCFG.CTRL.FINEEN true).restartClk_eq, rfl, rfl⟩
  · rw [exec_fineen_next hact true, State.writeFineen_again hen]
  · have hpass : s.fineBoundary clk.val l = s.boundarySeen clk.val := State.fineBoundary_passes clk.val l hp hbound hoff
    rw [exec_fineBoundary_eq clk hl, whenActive_active _ s _ hact, hpass, State.only_of_without]
    · rfl
    · exact State.withCells_without s (by decide) _

end Sys2Proof.Machine
end

