-- ==== Sys2Proof/Proofs/CurrentSubscription.lean ====
section
/-! O23. The subscription to another device's current: blocks accepted and refused, gap treads (R119 to R122). -/
namespace Sys2Proof.Machine

theorem exec_broadcastBlockRx_eq (p : Port) (sos : Bool) (x : Slot) (s : State) : exec (.broadcastBlockRx p sos x) s =
    whenActive [.curr, .imp] s fun s => if sos && s.framed p then s.bcastRx p x else s := (rfl)

theorem exec_gapTread_eq (s : State) : exec .gapTread s = whenActive [.curr] s fun s => s.gapReport := (rfl)

/-! ### The current channels' part -/

section
variable {s t : State} {c : List Part}

theorem State.only_curr (hc : Part.curr ∈ c) : (s.only t c).curr = t.curr := by simp [State.only, hc]

theorem State.only_xact (hc : Part.xact ∉ c) : (s.only t c).xact = s.xact := by simp [State.only, hc]

theorem State.curr_of_without (hc : Part.curr ∉ c) (h : t.without c = s.without c) : t.curr = s.curr := by
  rw [← State.only_of_without h]
  simp [State.only, hc]

end

section
variable {c : List Part} (s : State)

theorem State.withCurr_without (h : Part.curr ∈ c) (x : Curr) : ({ s with curr := x } : State).without c = s.without c :=
  State.without_mono (c := [.curr]) (by simpa using h) rfl

theorem State.withCurr_used (x : Curr) (f : Fld) : ({ s with curr := x } : State).used f = s.used f := (rfl)

/-- Pairing writes into the integrations of the impedance engine alone (R121). -/
theorem State.impPair_without (h : Part.imp ∈ c) (l : List (Nat × Int)) : (s.impPair l).without c = s.without c :=
  State.forEach_without c _ _ (fun k _ u => u.setLane_without h k _) s

theorem State.impPair_curr (l : List (Nat × Int)) : (s.impPair l).curr = s.curr :=
  State.curr_of_without (c := [.imp]) (by decide) (s.impPair_without (by decide) l)

end

/-! ### Blocks that arrive (R119 to R121) -/

section
variable (s : State) (p : Port) (x : Slot)

/-- The lag behind the present tread that a subscribed slot leaves: that of its block, where it came sound and at most three
treads late (R118). -/
def State.lagAfter : Nat :=
  let d := (s.tm.stn + 4294967296 - s.rxTread x.crcOk (blockOf x)) % 4294967296
  if x.crcOk && decide (d ≤ 3) then d else s.curr.lag

/-- The refusal of a block is noted with its cause under the tread it belongs to (R122). -/
def State.refusalNoted : State :=
  { s with curr := { s.curr with
      lag := s.lagAfter x
      refused := ((s.rxTread x.crcOk (blockOf x), s.rxCause x.crcOk (blockOf x)) :: s.curr.refused).take 8 } }

/-- A lag noted on a condition is a state whose lag is a conditional value. -/
theorem State.noteLag_ite (sound : Bool) (d : Nat) : (if sound then { s with curr := { s.curr with lag := d } } else s) =
    { s with curr := { s.curr with lag := if sound then d else s.curr.lag } } := by
  cases sound <;> rfl

theorem State.crcOk_of_rxCause {crcOk : Bool} {b : BlockRx} (h : s.rxCause crcOk b = 0) : crcOk = true := by
  cases crcOk with
  | true => rfl
  | false => simp [State.rxCause] at h

theorem State.refusalNoted_without {c : List Part} (h : Part.curr ∈ c) : (s.refusalNoted x).without c = s.without c :=
  s.withCurr_without h _

theorem State.bcastRx_skips (hsub : s.subscribes p x = false) : s.bcastRx p x = s := if_pos hsub

theorem State.bcastRx_refuses (hsub : s.subscribes p x = true) (hcause : s.rxCause x.crcOk (blockOf x) ≠ 0) :
    s.bcastRx p x = s.refusalNoted x := by
  have hmine : ¬ s.subscribes p x = false := by simp [hsub]
  rw [State.bcastRx, if_neg hmine]
  simp only [if_pos hcause, State.noteLag_ite, State.refusalNoted, State.lagAfter]

/-- An accepted block is kept, and the shunt it names is in use (R120, R187); pairing and fault 30 lie outside this part. -/
theorem State.bcastRx_accepts_curr (hsub : s.subscribes p x = true) (hcause : s.rxCause x.crcOk (blockOf x) = 0)
    (hlate : stnBefore (blockOf x).stn.toNat s.tm.stn 4 = false) :
    (s.bcastRx p x).curr = { s.curr with
      lag := s.lagAfter x
      rx := (RxBlk.mk (blockOf x).stn.toNat (blockOf x) :: s.curr.rx).take 8
      rsh := if s.used CURR.SUB.CH = 1 then (blockOf x).rshB.toNat else (blockOf x).rshA.toNat } := by
  have hmine : ¬ s.subscribes p x = false := by simp [hsub]
  have hkept : ¬ s.rxCause x.crcOk (blockOf x) ≠ 0 := not_not_intro hcause
  have htread : s.rxTread x.crcOk (blockOf x) = (blockOf x).stn.toNat := if_pos (s.crcOk_of_rxCause hcause)
  rw [State.bcastRx, if_neg hmine]
  simp only [if_neg hkept, State.noteLag_ite, State.lagAfter, htread, hlate, Bool.false_eq_true, if_false, apply_ite State.curr,
    State.setB_curr, State.evt_curr, State.cond_curr, State.set_curr, State.impPair_curr, State.set2_curr, State.withCurr_used, ite_self,
    beq_iff_eq]

end

/-! ### Gap treads (R121, R122) -/

section
variable (s : State)

/-- The present gap makes the run of gaps long enough for fault 30, which this run has not raised yet (R122). -/
def State.gapRaises : Bool := decide (s.used CURR.SUB.GAPLIM ≤ s.curr.gaps + 1) && !s.curr.gapRaised

/-- The current channels' part once the tread whose pairing ends is reported as a gap. -/
def State.gapJudged : Curr :=
  { s.curr with gaps := s.curr.gaps + 1, judged := some s.gapStn, gapRaised := s.curr.gapRaised || s.gapRaises }

/-- A gap with its count, event and cause, before fault 30 is judged (R121, R122). -/
def State.gapShown (cause : Nat) : State :=
  ((({ s with curr := s.gapJudged }.inc CURR.GAPCNT).evt CURR.EVT.GAP).set CURR.SUBSTAT.CAUSE cause).set CURR.SUBSTAT.PAIRED 0

theorem State.gapReport_judged (hj : s.curr.judged = some s.gapStn) : s.gapReport = s := if_pos (.inr (.inr hj))

theorem State.gapReport_reports (hsub : s.subscribed = true) (hpair : s.gapPaired = false) (hj : s.curr.judged ≠ some s.gapStn) :
    ∃ cause, s.gapReport = if s.gapRaises then
      (((s.gapShown cause).cond 30 true).evt CURR.EVT.REFLOST).setB CURR.STATUS.REFLIVE true else s.gapShown cause := by
  have hgap : ¬ (s.subscribed = false ∨ s.gapPaired = true ∨ s.curr.judged = some s.gapStn) := by simp [hsub, hpair, hj]
  exact ⟨_, if_neg hgap⟩

variable (cause : Nat)

theorem State.gapShown_curr : (s.gapShown cause).curr = s.gapJudged := (rfl)

theorem State.gapShown_count : (s.gapShown cause).get CURR.GAPCNT = min (s.get CURR.GAPCNT + 1) 65535 := by
  have hcnt : ({ s with curr := s.gapJudged }.inc CURR.GAPCNT).get CURR.GAPCNT = min (s.get CURR.GAPCNT + 1) 65535 := by
    rw [State.inc, State.get_set _ _ _ rfl]
    exact Nat.mod_eq_of_lt (by show min _ (2 ^ 16 - 1) < 2 ^ 16; omega)
  rw [State.gapShown, State.get_set_ne _ _ _ _ rfl rfl, State.get_set_ne _ _ _ _ rfl rfl, State.evt, State.get_set_ne _ _ _ _ rfl rfl,
    hcnt]

theorem State.gapShown_event : (s.gapShown cause).bit CURR.EVT.GAP = true := by
  rw [State.gapShown, State.bit_set_ne _ _ _ _ rfl rfl, State.bit_set_ne _ _ _ _ rfl rfl]
  exact State.bit_evt _ _ _ _ (by decide)

/-- Fault 30 goes live with its event and its status bit, and no other field (R122). -/
theorem State.refLost_get {f : Fld} (he : CURR.EVT.REFLOST.apart f = true) (hs : CURR.STATUS.REFLIVE.apart f = true) :
    (((s.cond 30 true).evt CURR.EVT.REFLOST).setB CURR.STATUS.REFLIVE true).get f = s.get f := by
  rw [State.setB, State.get_set_ne _ _ _ _ rfl hs, State.evt, State.get_set_ne _ _ _ _ rfl he, State.cond_get]

end

/-- Settles O23: a block is read off its acceptance or its refusal; a gap's count and event stand whether or not it raises fault 30. -/
theorem currentSubscription : Obligations.CurrentSubscription := by
  refine ⟨fun s p x b hact hfr hsub hb hcause hlate => ?_, fun s p x b n d hact hfr hsub hb hcause hn hd => ?_,
    fun s p sos x hact hnone => ?_, fun s hact hsub hpair hj => ?_, fun s hact hj => ?_⟩
  · subst hb
    have hcurr := s.bcastRx_accepts_curr p x hsub hcause hlate
    rw [exec_broadcastBlockRx_eq, whenActive_active _ s _ hact, hfr]
    refine ⟨_, rfl, ?_⟩
    rw [State.only_curr (by decide), State.only_xact (by decide), Bool.true_and, if_pos rfl, hcurr]
    exact ⟨rfl, rfl, rfl⟩
  · subst hb hn hd
    have hnoted : (if true && s.framed p then s.bcastRx p x else s) = s.refusalNoted x := by
      rw [hfr, Bool.true_and, if_pos rfl, s.bcastRx_refuses p x hsub hcause]
    rw [exec_broadcastBlockRx_eq, whenActive_active _ s _ hact, hnoted, State.only_of_without (s.refusalNoted_without x (by decide))]
    rfl
  · have hskip : (if sos && s.framed p then s.bcastRx p x else s) = s := by
      rcases hnone with hsos | hfr | hsub
      · simp [hsos]
      · simp [hfr]
      · rw [s.bcastRx_skips p x hsub, ite_self]
    exact (exec_broadcastBlockRx_eq p sos x s).trans (whenActive_same hact hskip)
  · obtain ⟨cause, hgap⟩ := s.gapReport_reports hsub hpair hj
    have hcurr : s.gapReport.curr = s.gapJudged := by
      rw [hgap, apply_ite State.curr, State.setB_curr, State.evt_curr, State.cond_curr, ite_self, s.gapShown_curr]
    have hget {f : Fld} (he : CURR.EVT.REFLOST.apart f = true) (hs : CURR.STATUS.REFLIVE.apart f = true) :
        s.gapReport.get f = (s.gapShown cause).get f := by
      rw [hgap, State.get_ite, State.refLost_get _ he hs, ite_self]
    have hevent : s.gapReport.bit CURR.EVT.GAP = (s.gapShown cause).bit CURR.EVT.GAP :=
      congrArg (· == 1) (hget rfl rfl)
    rw [exec_gapTread_eq, whenActive_active _ s _ hact]
    refine ⟨_, rfl, ?_⟩
    rw [State.only_curr (by decide), State.only_get, State.only_bit, hcurr, hget rfl rfl, s.gapShown_count, hevent, s.gapShown_event]
    exact ⟨rfl, rfl, rfl, rfl, rfl⟩
  · exact (exec_gapTread_eq s).trans (whenActive_same hact (s.gapReport_judged hj))

end Sys2Proof.Machine
end

