-- ==== Sys2Proof/Proofs/AuxConverters.lean ====
section
/-! SUPPORT. The two auxiliary converters as a part of the state: what updates leave of them, and what they read beside their own part
(06). -/
namespace Sys2Proof

theorem Conv.fld_page (c : Conv) {f : Machine.Fld} (hf : f.word < 64) : (c.fld f).addr / 64 = c.page := Machine.linear_div _ hf

end Sys2Proof

namespace Sys2Proof.Machine

/-! ### Parts left alone -/

section
variable {s t : State} {c : List Part}

theorem State.aux_of_without (hc : Part.aux ∉ c) (h : t.without c = s.without c) : t.aux = s.aux := by
  rw [← State.only_of_without h]
  simp [State.only, hc]

theorem State.diag_of_without (hc : Part.diag ∉ c) (h : t.without c = s.without c) : t.diag = s.diag := by
  rw [← State.only_of_without h]
  simp [State.only, hc]

theorem State.held_of_without (hc : Part.held ∉ c) (h : t.without c = s.without c) : t.held = s.held := by
  rw [← State.only_of_without h]
  simp [State.only, hc]

theorem State.conv_of_aux (h : t.aux = s.aux) (v : Conv) : t.conv v = s.conv v := by simp only [State.conv, h]

theorem State.only_conv (hc : Part.aux ∈ c) (v : Conv) : (s.only t c).conv v = t.conv v :=
  State.conv_of_aux (by simp [State.only, hc]) v

theorem State.only_cells_kept (hc : Part.cells ∉ c) : (s.only t c).cells = s.cells := by simp [State.only, hc]

end

/-! ### One converter stored, and its status -/

theorem apart_of_word {f g : Fld} (hf : f.word < 64) (hg : g.word < 64) (h : f.word ≠ g.word) : f.apart g = true := by
  have haddr : g.addr ≠ f.addr := by unfold Fld.addr linear; omega
  simp [Fld.apart, haddr.symm]

section
variable (s : State) (c : Conv) (x : AuxConv)

@[simp] theorem State.conv_setConv_self : (s.setConv c x).conv c = x := by cases c <;> rfl
@[simp] theorem State.conv_setConv_other : (s.setConv c x).conv c.other = s.conv c.other := by cases c <;> rfl
@[simp] theorem State.setConv_get (f : Fld) : (s.setConv c x).get f = s.get f := by cases c <;> rfl
@[simp] theorem State.setConv_latch : (s.setConv c x).aux.latch = s.aux.latch := by cases c <;> rfl
theorem State.setConv_pageWords (n : Nat) : (s.setConv c x).pageWords n = s.pageWords n := by cases c <;> rfl

@[simp] theorem State.auxStatus_conv (q p : Bool) (v : Conv) : (s.auxStatus c q p).conv v = s.conv v := (rfl)

/-- The four status bits lie apart from every field of another word and from those above them. -/
theorem State.auxStatus_get (q p : Bool) {f : Fld} (hw : f.word < 64) (hf : f.word ≠ 2 ∨ 4 ≤ f.lo) :
    (s.auxStatus c q p).get f = s.get f := by
  have hapart (l : Nat) (hl : l < 4) : (c.fld ⟨0x0D, 2, l, 1⟩).apart f = true := by
    cases c <;> simp [Fld.apart, Fld.addr, linear, Conv.fld, Conv.page] <;> omega
  simp only [State.auxStatus, State.setB]
  rw [State.get_set_ne _ _ _ _ rfl (hapart 0 (by decide)), State.get_set_ne _ _ _ _ rfl (hapart 3 (by decide)),
    State.get_set_ne _ _ _ _ rfl (hapart 2 (by decide)), State.get_set_ne _ _ _ _ rfl (hapart 1 (by decide))]

theorem State.auxStatus_pageWords (q p : Bool) {n : Nat} (hn : c.page ≠ n) : (s.auxStatus c q p).pageWords n = s.pageWords n := by
  have hstatus (l : Nat) : (c.fld ⟨0x0D, 2, l, 1⟩).addr / 64 ≠ n := by rwa [c.fld_page (show (2 : Nat) < 64 by decide)]
  simp only [State.auxStatus, State.setB_pageWords _ (hstatus _)]

/-! ### What the converters read beside their own part -/

/-- Which converter is under calibration is said by the run alone (R149, R157). -/
theorem State.auxCal_of_cal {t : State} (h : t.cal = s.cal) : t.auxCal c = s.auxCal c := by
  cases c <;> simp [State.auxCal, State.calNow, h]

theorem State.count_of {t : State} (hh : t.held = s.held) (hp : t.pageWords 7 = s.pageWords 7) : t.count = s.count := by
  rw [State.count, State.count, State.used, State.used, State.useReg, State.useReg, hh, State.reg_of_pageWords hp (by decide)]

theorem State.passedOver_of_count {t : State} (h : t.count = s.count) (w : Word) : t.passedOver w = s.passedOver w := by
  rw [State.passedOver, State.passedOver, h]

/-- Without a diagnostic tread no tap test is in the way of a conversion (R236). -/
theorem State.tapBusy_of_noGroups (h : s.diag.groups = none) (r n : Nat) : s.tapBusy r n = false := by
  simp [State.tapBusy, State.tapRiser?, h]

/-- With no tap waiting for a span conversion none is requested (R240, R243). -/
theorem State.spanFeed_none (hv : s.diag.verdict = []) (hf : s.diag.fallback = []) : s.spanFeed = s := by
  simp only [State.spanFeed, hv, hf, ite_self]
  rfl

end

/-! ### Records and their blocks (R138, R367) -/

/-- The two converters and the sentinel latch: the converters' part but for results and records on their way. -/
def State.converters (s : State) : AuxConv × AuxConv × List (Nat × Bool) := (s.aux.a, s.aux.b, s.aux.latch)

section
variable (s : State) {p : Nat}

theorem State.conv_of_converters {t : State} (h : t.converters = s.converters) (v : Conv) : t.conv v = s.conv v := by
  simp only [State.converters, Prod.mk.injEq] at h
  obtain ⟨ha, hb, _⟩ := h
  cases v
  · exact ha
  · exact hb

theorem State.latch_of_converters {t : State} (h : t.converters = s.converters) : t.aux.latch = s.aux.latch :=
  congrArg (fun x => x.2.2) h

theorem State.post_pageWords (h : 0x06 ≠ p) {q : Nat} (hq : q < 64) (l : List Byte) : (s.post q l).pageWords p = s.pageWords p := by
  have hroom (fuel : Nat) (u : State) (n : Nat) : (State.makeRoom fuel u q n).pageWords p = u.pageWords p := by
    induction fuel generalizing u with
    | zero => rfl
    | succ fuel ih => rw [State.makeRoom, State.ite_pageWords, ih, u.dropOne_pageWords h hq, ite_self]
  simp only [State.post, State.dropNew, State.append, State.ite_pageWords, State.noteDrop_pageWords _ h hq,
    State.dropOne_pageWords _ h (show 1 < 64 by decide), State.dropOne_pageWords _ h (show 2 < 64 by decide), hroom,
    State.setQueue_pageWords, ite_self]

theorem State.postTens_without {d : List Part} (hx : Part.xact ∈ d) (q : Nat) (l : List (List Byte)) :
    (s.postTens q l).without d = s.without d :=
  State.forEach_without d _ _ (fun _ _ u => u.post_without hx q _) s

theorem State.postTens_pageWords (h : 0x06 ≠ p) {q : Nat} (hq : q < 64) (l : List (List Byte)) :
    (s.postTens q l).pageWords p = s.pageWords p :=
  State.forEach_pageWords s _ _ fun _ _ u => u.post_pageWords h hq _

variable (c : Conv) (r : List Byte)

theorem State.closeAux_without {d : List Part} (ha : Part.aux ∈ d) (hx : Part.xact ∈ d) : (s.closeAux c).without d = s.without d := by
  cases c <;> exact (State.postTens_without _ hx _ _).trans (s.withAux_without ha _)

theorem State.closeAux_pageWords (h : 0x06 ≠ p) : (s.closeAux c).pageWords p = s.pageWords p := by
  cases c <;> exact State.postTens_pageWords _ h (by decide) _

theorem State.closeAux_converters : (s.closeAux c).converters = s.converters := by
  have hpost (u : State) (q : Nat) (l : List (List Byte)) : (u.postTens q l).aux = u.aux :=
    State.aux_of_without (c := [.xact]) (by decide) (u.postTens_without (by decide) q l)
  cases c <;> simp only [State.closeAux, State.converters, hpost]

theorem State.addAux_without {d : List Part} (ha : Part.aux ∈ d) (hx : Part.xact ∈ d) : (s.addAux c r).without d = s.without d := by
  cases c <;> simp only [State.addAux, State.ite_without, State.closeAux_without _ _ ha hx, State.withAux_without _ ha, ite_self]

theorem State.addAux_pageWords (h : 0x06 ≠ p) : (s.addAux c r).pageWords p = s.pageWords p := by
  cases c <;> simp only [State.addAux, State.ite_pageWords, State.closeAux_pageWords _ _ h] <;> exact ite_self _

theorem State.addAux_converters : (s.addAux c r).converters = s.converters := by
  cases c <;> simp only [State.addAux, apply_ite State.converters, State.closeAux_converters] <;> exact ite_self _

end

end Sys2Proof.Machine
end

