-- ==== Sys2Proof/Proofs/SafetyPages.lean ====
section
/-! SUPPORT. A cause of lock-out and SF6 write no word beside the pages 0x01, 0x15 and 0x16 (R261, R266, R274, R292). -/
namespace Sys2Proof.Machine

section
variable (s : State) {p : Nat} (hsys : 0x01 ≠ p) (hsafe : 0x15 ≠ p) (hban : 0x16 ≠ p)

theorem State.withSafe_pageWords (x : Safe) : ({ s with safe := x } : State).pageWords p = s.pageWords p := (rfl)

include hsys hsafe in
theorem State.causes_pageWords : s.causes.pageWords p = s.pageWords p := by
  simp (disch := simp [Fld.addr, linear] <;> omega) only [State.causes, State.withSafe_pageWords, State.ite_pageWords,
    State.setB_pageWords, State.set_pageWords, ite_self]

include hsafe hban in
theorem State.hbGate_pageWords : s.hbGate.pageWords p = s.pageWords p := by
  simp (disch := simp [Fld.addr, linear] <;> omega) only [State.hbGate, State.withBan_pageWords, State.setB_pageWords]

include hban in
theorem State.testDemand_pageWords : s.testDemand.pageWords p = s.pageWords p := by
  cases ht : s.ban.test <;> simp (disch := simp [Fld.addr, linear] <;> omega) only [State.testDemand, ht, State.testDiscard,
    State.nextSw, State.ite_pageWords, State.setB_pageWords, State.evt_pageWords, State.inc_pageWords, State.set_pageWords,
    State.withBan_pageWords, ite_self]

include hsafe hban in
theorem State.permitUpdate_pageWords (t : Nat) : (s.permitUpdate t).pageWords p = s.pageWords p := by
  simp (disch := simp [Fld.addr, linear] <;> omega) only [State.permitUpdate, State.closeAll, State.openAll, State.ite_pageWords,
    State.withBan_pageWords, State.setB_pageWords, State.testDemand_pageWords _ hban, State.hbGate_pageWords _ hsafe hban, ite_self]

include hsafe in
theorem State.clearV_pageWords {f : Fld} (n : Nat) (hf : f.page = 0x15) (hn : f.word + n / 16 < 64) :
    (s.clearV f n).pageWords p = s.pageWords p :=
  State.forEach_pageWords s _ _ fun i hi u => u.setV_pageWords (by
    have hlt := List.mem_range.mp hi
    rw [linear_div _ (by omega), hf]
    exact hsafe) _

include hsys hsafe hban in
theorem State.lockCause_pageWords (bit info t : Nat) (ev : Bool) : (s.lockCause bit info t ev).pageWords p = s.pageWords p := by
  simp (disch := simp [Fld.addr, Fld.plus, linear] <;> omega) only [State.lockCause, State.permitUpdate_pageWords _ hsafe hban,
    State.causes_pageWords _ hsys hsafe, State.withSafe_pageWords, State.ite_pageWords, State.evt_pageWords, State.set_pageWords,
    State.setB_pageWords, State.inc_pageWords, State.set3, State.set2_pageWords, State.cond_pageWords,
    State.clearV_pageWords _ hsafe, ite_self]

include hsys hsafe hban in
theorem State.sf6Update_pageWords : s.sf6Update.pageWords p = s.pageWords p := by
  simp (disch := simp [Fld.addr, linear] <;> omega) only [State.sf6Update, State.trip, State.ite_pageWords,
    State.permitUpdate_pageWords _ hsafe hban, State.causes_pageWords _ hsys hsafe, State.lockCause_pageWords _ hsys hsafe hban,
    State.cond_pageWords, State.setB_pageWords, ite_self]

theorem State.sf6Update_without {c : List Part} (hs : Part.safe ∈ c) (hb : Part.ban ∈ c) : s.sf6Update.without c = s.without c := by
  simp only [State.sf6Update, State.ite_without, State.permitUpdate_without _ hb, State.causes_without _ hs,
    State.trip_without _ _ _ _ _ _ hs hb, State.cond_without, State.setB_without, ite_self]

end

end Sys2Proof.Machine
end

