-- ==== Sys2Proof/Proofs/AuxResults.lean ====
section
/-! SUPPORT. Results of auxiliary conversions: their pair of words, their record, and how the sequence goes on behind one (R126, R133 to
R138, R140). -/
namespace Sys2Proof.Machine

/-! ### Channel words -/

theorem eType_eq (w : Word) : eType w = w.toNat % 4 := by simp [eType, fieldOf]

section
variable {w : Word} (hw : eType w = 1 ∨ eType w = 2)
include hw

/-- A cell or span channel is no die-temperature channel (R127). -/
theorem not_die_of_cellOrSpan : w.toNat % 256 ≠ 0xC0 := by
  rw [eType_eq] at hw
  omega

/-- The result of a cell or span feeds neither SF3 nor SF5 (R260, R264). -/
theorem State.auxFeed_cellOrSpan (s : State) (c : Conv) (d : Rat) (r : AuxRes) : s.auxFeed c w d r = s := by
  have hntc : eType w ≠ 0 := by rcases hw with h | h <;> simp [h]
  simp [State.auxFeed, hntc, not_die_of_cellOrSpan hw]

end

/-! ### Result pairs (R137) -/

theorem twos_lt (n : Nat) (v : Int) : twos n v < 2 ^ n := by
  have hpos : (0 : Int) < 2 ^ n := by positivity
  have hlt := Int.emod_lt_of_pos v hpos
  have hge := Int.emod_nonneg v hpos.ne'
  unfold twos
  zify
  omega

section
variable (s : State) (r : AuxRes) (stale rsm : Bool)

theorem auxWordB_lt (tag : Nat) : auxWordB r stale rsm tag < 2 ^ 16 := by
  have hv := twos_lt 24 r.v
  have hbit (b : Bool) (n : Nat) : (if b then n else 0) ≤ n := by cases b <;> simp
  have hovr := hbit r.ovr 0x100
  have hna := hbit r.na 0x200
  have hstale := hbit stale 0x400
  have hrsm := hbit rsm 0x800
  unfold auxWordB
  omega

theorem State.setPair_value {p n : Nat} (hn : n < 63) :
    (s.setPair ⟨p, n, 0, 16⟩ r stale rsm).get ⟨p, n, 0, 16⟩ = twos 16 r.v := by
  have hapart : (Fld.plus ⟨p, n, 0, 16⟩ 1).apart ⟨p, n, 0, 16⟩ = true :=
    apart_of_word (show n + 1 < 64 by omega) (show n < 64 by omega) (show n + 1 ≠ n by omega)
  rw [State.setPair, State.get_set_ne _ _ _ _ rfl hapart, State.get_set _ _ _ rfl]
  exact Nat.mod_eq_of_lt (twos_lt 16 r.v)

theorem State.setPair_tag (p n : Nat) :
    (s.setPair ⟨p, n, 0, 16⟩ r stale rsm).get ⟨p, n + 1, 0, 16⟩ = auxWordB r stale rsm s.tagNow := by
  rw [State.setPair, Fld.plus, State.get_set _ _ _ rfl]
  exact Nat.mod_eq_of_lt (auxWordB_lt r stale rsm _)

theorem State.setPair_pageWords {p n m : Nat} (hn : n < 63) (h : p ≠ m) :
    (s.setPair ⟨p, n, 0, 16⟩ r stale rsm).pageWords m = s.pageWords m := by
  have hword (k : Nat) (hk : k < 64) : Fld.addr ⟨p, k, 0, 16⟩ / 64 ≠ m := by rwa [Fld.addr, linear_div _ hk]
  rw [State.setPair, Fld.plus, State.set_pageWords _ (hword (n + 1) (by omega)), State.set_pageWords _ (hword n (by omega))]

theorem State.setPair_without (f : Fld) (c : List Part) : (s.setPair f r stale rsm).without c = s.without c := (rfl)
theorem State.setPair_conv (f : Fld) (c : Conv) : (s.setPair f r stale rsm).conv c = s.conv c := (rfl)

end

/-! ### A result noted (R137, R138) -/

/-- A result beyond its range shows OVR; its record is appended. -/
def State.resultNoted (s : State) (c : Conv) (clk index : Nat) (w : Word) (r : AuxRes) (stale rsm : Bool) : State :=
  let s := if r.ovr then s.evt (c.fld AUXA.EVT.OVR) else s
  s.addAux c (auxRecord s.tm.stn clk index w r stale rsm s.tagNow)

section
variable (s : State) (c : Conv) (clk index : Nat) (w : Word) (r : AuxRes) (stale rsm : Bool)

theorem State.resultNoted_converters : (s.resultNoted c clk index w r stale rsm).converters = s.converters := by
  simp only [State.resultNoted, State.addAux_converters, apply_ite State.converters]
  exact ite_self _

theorem State.resultNoted_conv (v : Conv) : (s.resultNoted c clk index w r stale rsm).conv v = s.conv v :=
  State.conv_of_converters s (s.resultNoted_converters c clk index w r stale rsm) v

theorem State.resultNoted_latch : (s.resultNoted c clk index w r stale rsm).aux.latch = s.aux.latch :=
  State.latch_of_converters s (s.resultNoted_converters c clk index w r stale rsm)

theorem State.resultNoted_without : (s.resultNoted c clk index w r stale rsm).without [.xact, .aux] = s.without [.xact, .aux] := by
  have ha : Part.aux ∈ [Part.xact, .aux] := by decide
  have hx : Part.xact ∈ [Part.xact, .aux] := by decide
  simp only [State.resultNoted, State.addAux_without _ _ _ ha hx, State.ite_without, State.evt_without, ite_self]

theorem State.resultNoted_pageWords {n : Nat} (hq : 0x06 ≠ n) (hc : c.page ≠ n) :
    (s.resultNoted c clk index w r stale rsm).pageWords n = s.pageWords n := by
  have hevt : (c.fld AUXA.EVT.OVR).addr / 64 ≠ n := by rwa [c.fld_page (show (3 : Nat) < 64 by decide)]
  simp only [State.resultNoted, State.addAux_pageWords _ _ _ hq, State.ite_pageWords, State.evt_pageWords _ hevt, ite_self]

theorem State.resultNoted_get {f : Fld} (hp : f.page = c.page) (hw : f.word < 64) (h3 : f.word ≠ 3) :
    (s.resultNoted c clk index w r stale rsm).get f = s.get f := by
  have hpage : f.addr / 64 = c.page := by rw [Fld.addr, hp, linear_div _ hw]
  have hqueue : 0x06 ≠ c.page := by cases c <;> decide
  have hapart : (c.fld AUXA.EVT.OVR).apart f = true := apart_of_word (show 3 < 64 by decide) hw h3.symm
  simp only [State.resultNoted, State.get_of_pageWords (State.addAux_pageWords _ _ _ hqueue) hpage, State.get_ite, State.evt,
    State.get_set_ne _ _ _ _ (show (c.fld AUXA.EVT.OVR).ok = true from rfl) hapart, ite_self]

end

/-! ### The sequence goes on (R133 to R135, R140) -/

section
variable {s : State} {c : Conv} {clk fuel i : Nat} {l : List Nat}

theorem State.confFeed_noLatch (h : s.aux.latch = []) : s.confFeed = s := by
  cases hc : s.confConv <;> simp [State.confFeed, State.confFeedN, h, hc]

/-- Where no urgent request waits, the end of a conversion takes the sequence on (R140). -/
theorem State.auxNext_advances (hp : (s.conv c).urgPend = none) (hl : s.aux.latch = []) (hu : (s.conv c).urg = none) :
    s.auxNext c clk = State.advance 40 s c clk := by
  simp [State.auxNext, hp, State.confFeed_noLatch hl, hu]

/-- A converter whose pass is not on keeps all but whether its lone conversion runs (R136, R149). -/
theorem State.advance_passOff (hoff : (s.conv c).passOn = false) : ∃ busy q p,
    State.advance (fuel + 1) s c clk = (s.setConv c { s.conv c with busy := busy }).auxStatus c q p := by
  cases hcal : s.auxCal c with
  | true => exact ⟨_, _, _, if_pos hcal⟩
  | false => exact ⟨_, _, _, (if_neg (by simp [hcal])).trans (if_pos hoff)⟩

theorem State.itemWord_entry (x : AuxConv) (hi : i < 16) : s.itemWord x i = x.entries.getD i 0 := if_pos hi

theorem State.itemBegin_todo (x : AuxConv) (w : Word) : (s.itemBegin c x w).todo = x.todo := by
  simp only [State.itemBegin, apply_ite AuxConv.todo, ite_self]

theorem State.itemBegin_busy (x : AuxConv) (w : Word) : (s.itemBegin c x w).busy = true := by
  simp only [State.itemBegin, apply_ite AuxConv.busy, ite_self]

/-- The next entry of a pass begins to settle: it is shown, and its conversion runs (R135). -/
def State.entryBegun (s : State) (c : Conv) (i : Nat) : State :=
  let t := s.set (c.fld AUXA.STATUS.ENTRY) i
  (t.setConv c (t.itemBegin c (s.conv c) (s.itemWord (s.conv c) i))).auxStatus c false true

theorem State.advance_entry (hcal : s.auxCal c = false) (hon : (s.conv c).passOn = true) (htodo : (s.conv c).todo = i :: l)
    (hi : i < 16) (hquiet : eQuiet (s.itemWord (s.conv c) i) = false) (hover : s.passedOver (s.itemWord (s.conv c) i) = false)
    (hg : s.diag.groups = none) : State.advance (fuel + 1) s c clk = s.entryBegun c i := by
  have hfree (r n : Nat) : (s.set (c.fld AUXA.STATUS.ENTRY) i).tapBusy r n = false :=
    State.tapBusy_of_noGroups _ (show (s.set _ i).diag.groups = none from hg) r n
  simp [State.advance, hcal, hon, htodo, hi, hquiet, hover, State.entryBegun, hfree]

theorem State.entryBegun_conv : (s.entryBegun c i).conv c =
    (s.set (c.fld AUXA.STATUS.ENTRY) i).itemBegin c (s.conv c) (s.itemWord (s.conv c) i) := by
  rw [State.entryBegun, State.auxStatus_conv, State.conv_setConv_self]

theorem State.entryBegun_without : (s.entryBegun c i).without [.aux] = s.without [.aux] := by
  rw [State.entryBegun, State.auxStatus_without, State.setConv_without _ (by decide), State.set_without]

theorem State.entryBegun_get {f : Fld} (hw : f.word < 64) (h2 : f.word ≠ 2) : (s.entryBegun c i).get f = s.get f := by
  have hapart : (c.fld AUXA.STATUS.ENTRY).apart f = true := apart_of_word (show 2 < 64 by decide) hw h2.symm
  rw [State.entryBegun, State.auxStatus_get _ _ _ _ hw (.inl h2), State.setConv_get, State.get_set_ne _ _ _ _ rfl hapart]

theorem State.entryBegun_shown (hi : i < 16) : (s.entryBegun c i).get (c.fld AUXA.STATUS.ENTRY) = i := by
  rw [State.entryBegun, State.auxStatus_get _ _ _ _ (show 2 < 64 by decide) (.inr (show 4 ≤ 4 by decide)), State.setConv_get,
    State.get_set _ _ _ rfl]
  exact Nat.mod_eq_of_lt hi

end

end Sys2Proof.Machine
end

