-- ==== Sys2Proof/Proofs/AuxConversions.lean ====
section
/-! O34. The end of a conversion of a pass, urgent requests and their ends (R126, R135, R137, R139, R140, R142). -/
namespace Sys2Proof.Machine

theorem exec_auxConversionEnd_eq (c : Conv) (raw : List Int) (clk : Fin 4096) (s : State) : exec (.auxConversionEnd c raw clk) s =
    whenActive [.held, .bal, .xact, .aux, .diag, .safe, .ban] s fun s => s.convEnd c raw clk.val := (rfl)

theorem exec_urgentConversionEnd_eq (c : Conv) (raw : List Int) (clk : Fin 4096) (s : State) :
    exec (.urgentConversionEnd c raw clk) s =
      whenActive [.held, .bal, .xact, .aux, .diag, .safe, .ban] s fun s => s.urgentEnd c raw clk.val := (rfl)

theorem exec_urgreq_eq (v : Word) (s : State) : exec (.urgreq v) s = whenActive [.bal, .aux, .diag] s fun s => s.urgReq v := (rfl)

/-! ### The end of a conversion of a pass -/

theorem Conv.resultPair (c : Conv) (i : Nat) : (c.fld AUXA.RES0A).plus (2 * i) = ⟨c.page, 0x18 + 2 * i, 0, 16⟩ := (rfl)

/-- A converter whose current item has ended, before the items `l` (R140, R145). -/
def AuxConv.turned (x : AuxConv) (l : List Nat) : AuxConv := { x with todo := l, rsm := false, busy := false, rr := none }

/-- The result of entry `i` in its pair and noted, before the sequence turns to the items `l` (R137, R138). -/
def State.entryEnded (s : State) (c : Conv) (i : Nat) (l : List Nat) (d : Rat) (clk : Nat) : State :=
  let w := s.itemWord (s.conv c) i
  let r := s.auxConvert c w d
  let t := (s.setPair ((c.fld AUXA.RES0A).plus (2 * i)) r false (s.conv c).rsm).resultNoted c clk i w r false (s.conv c).rsm
  t.setConv c ((t.conv c).turned l)

/-- Converter `c` runs entry `i`, a cell or a span, in a pass that nothing halts or calls away, and the entry `j` behind it converts
and need not wait. -/
structure State.BetweenEntries (s : State) (c : Conv) (i j : Nat) (l : List Nat) : Prop where
  passOn : (s.conv c).passOn = true
  todo : (s.conv c).todo = i :: j :: l
  current : i < 16
  next : j < 16
  cellOrSpan : eType (s.itemWord (s.conv c) i) = 1 ∨ eType (s.itemWord (s.conv c) i) = 2
  noUrgent : (s.conv c).urg = none
  noPending : (s.conv c).urgPend = none
  noLatch : s.aux.latch = []
  noCal : s.auxCal c = false
  converts : s.passedOver (s.itemWord (s.conv c) j) = false
  prompt : eQuiet (s.itemWord (s.conv c) j) = false
  noTests : s.diag.groups = none

section
variable {s : State} {c : Conv} {i j clk : Nat} {l : List Nat} {d : Rat}

theorem State.entryEnded_conv : (s.entryEnded c i l d clk).conv c = (s.conv c).turned l := by
  rw [State.entryEnded, State.conv_setConv_self, State.resultNoted_conv, State.setPair_conv]

theorem State.entryEnded_without : (s.entryEnded c i l d clk).without [.xact, .aux] = s.without [.xact, .aux] := by
  rw [State.entryEnded, State.setConv_without _ (by decide), State.resultNoted_without, State.setPair_without]

theorem State.entryEnded_latch : (s.entryEnded c i l d clk).aux.latch = s.aux.latch := by
  rw [State.entryEnded, State.setConv_latch, State.resultNoted_latch]
  rfl

theorem State.entryEnded_get {f : Fld} (hp : f.page = c.page) (hw : f.word < 64) (h3 : f.word ≠ 3) : (s.entryEnded c i l d clk).get f =
    (s.setPair ((c.fld AUXA.RES0A).plus (2 * i)) (s.auxConvert c (s.itemWord (s.conv c) i) d) false (s.conv c).rsm).get f := by
  rw [State.entryEnded, State.setConv_get, State.resultNoted_get _ _ _ _ _ _ _ _ hp hw h3]

theorem State.entryEnded_count (hi : i < 16) : (s.entryEnded c i l d clk).count = s.count := by
  have hpage : c.page ≠ 7 := by cases c <;> decide
  refine State.count_of s (State.held_of_without (by decide) State.entryEnded_without) ?_
  rw [State.entryEnded, State.setConv_pageWords, State.resultNoted_pageWords _ _ _ _ _ _ _ _ (by decide) hpage, Conv.resultPair,
    State.setPair_pageWords _ _ _ _ (by omega) hpage]

/-- A cell or span entry that is not the last item of its pass ends with its pair and its record alone (R137, R138). -/
theorem State.seqEnd_cellOrSpan (htodo : (s.conv c).todo = i :: j :: l) (hi : i < 16)
    (hw : eType (s.itemWord (s.conv c) i) = 1 ∨ eType (s.itemWord (s.conv c) i) = 2) :
    s.seqEnd c d clk = (s.entryEnded c i (j :: l) d clk).auxNext c clk := by
  have hrr : eType (s.itemWord (s.conv c) i) ≠ 3 := by rcases hw with h | h <;> simp [h]
  have hsh : i ≠ 16 := by omega
  simp only [State.seqEnd, htodo, if_pos hi, if_neg hrr, if_neg hsh, if_neg (not_die_of_cellOrSpan hw), List.isEmpty_cons,
    Bool.and_false, Bool.false_eq_true, if_false]
  rfl

/-- Behind the result of entry `i`, entry `j` begins to settle at once (R134). -/
theorem State.seqEnd_nextEntry (h : s.BetweenEntries c i j l) :
    s.seqEnd c d clk = (s.entryEnded c i (j :: l) d clk).entryBegun c j := by
  have hconv : (s.entryEnded c i (j :: l) d clk).conv c = (s.conv c).turned (j :: l) := State.entryEnded_conv
  have hword : (s.entryEnded c i (j :: l) d clk).itemWord ((s.conv c).turned (j :: l)) j = s.itemWord (s.conv c) j := by
    rw [State.itemWord_entry _ h.next, State.itemWord_entry _ h.next, AuxConv.turned]
  have hcal : (s.entryEnded c i (j :: l) d clk).auxCal c = false :=
    (State.auxCal_of_cal s c (State.cal_of_without (by decide) State.entryEnded_without)).trans h.noCal
  have hgroups : (s.entryEnded c i (j :: l) d clk).diag.groups = none := by
    rw [State.diag_of_without (by decide) State.entryEnded_without, h.noTests]
  rw [State.seqEnd_cellOrSpan h.todo h.current h.cellOrSpan, State.auxNext_advances (by rw [hconv]; exact h.noPending)
    (State.entryEnded_latch.trans h.noLatch) (by rw [hconv]; exact h.noUrgent)]
  refine State.advance_entry (l := l) hcal ?_ ?_ h.next ?_ ?_ hgroups <;> rw [hconv]
  · exact h.passOn
  · rfl
  · rw [hword, h.prompt]
  · rw [hword, State.passedOver_of_count s (State.entryEnded_count h.current), h.converts]

variable {raw : List Int}

theorem State.convEnd_idle (h : (s.conv c).busy = false) : s.convEnd c raw clk = s := by
  cases htodo : (s.conv c).todo <;> simp [State.convEnd, htodo, h]

/-- With the samples of its OSR the running conversion of entry `i` ends and that of entry `j` begins (R126, R134, R137). -/
theorem State.convEnd_nextEntry (h : s.BetweenEntries c i j l) (hb : (s.conv c).busy = true)
    (hraw : raw.length = auxOsr (eOsr (s.itemWord (s.conv c) i))) (hv : s.diag.verdict = []) (hf : s.diag.fallback = []) :
    s.convEnd c raw clk = (s.entryEnded c i (j :: l) (triMean raw) clk).entryBegun c j := by
  have hdiag : ((s.entryEnded c i (j :: l) (triMean raw) clk).entryBegun c j).diag = s.diag :=
    (State.diag_of_without (by decide) State.entryBegun_without).trans (State.diag_of_without (by decide) State.entryEnded_without)
  have hruns : s.convEnd c raw clk = ((s.seqEnd c (triMean raw) clk).auxFeed c (s.itemWord (s.conv c) i) (triMean raw)
      (s.auxConvert c (s.itemWord (s.conv c) i) (triMean raw))).spanFeed := by
    simp [State.convEnd, h.todo, hb, h.noUrgent, h.noCal, hraw]
  rw [hruns, State.auxFeed_cellOrSpan h.cellOrSpan, State.seqEnd_nextEntry h,
    State.spanFeed_none _ (by rw [hdiag, hv]) (by rw [hdiag, hf])]

/-- The words from the results on read what the pair of entry `i` holds, before and after entry `j` begins. -/
theorem State.nextEntry_get {f : Fld} (hp : f.page = c.page) (hw : f.word < 64) (h3 : 3 < f.word) :
    ((s.entryEnded c i l d clk).entryBegun c j).get f =
      (s.setPair ((c.fld AUXA.RES0A).plus (2 * i)) (s.auxConvert c (s.itemWord (s.conv c) i) d) false (s.conv c).rsm).get f := by
  rw [State.entryBegun_get hw (by omega), State.entryEnded_get hp hw (by omega)]

end

/-! ### Urgent requests (R139, R140) -/

section
variable {s : State} {c : Conv} {q : UrgReq}

/-- What an urgent conversion meets at the pins lies beside the converters (R142, R236). -/
theorem State.urgMeets_conv (w : Word) (v : Conv) : (s.urgMeets w).conv v = s.conv v :=
  State.conv_of_aux (State.aux_of_without (c := [.bal, .diag]) (by decide) (s.urgMeets_without (by decide) (by decide) w)) v

theorem State.urgStart_conv : (s.urgStart c q).conv c =
    { s.conv c with urg := some q, busy := false, rsm := (s.conv c).rsm || (s.conv c).busy } := by
  rw [State.urgStart, State.auxStatus_conv, State.conv_setConv_self]

theorem State.urgStart_other : (s.urgStart c q).conv c.other = s.conv c.other := by
  rw [State.urgStart, State.auxStatus_conv, State.conv_setConv_other, State.urgMeets_conv]
  split <;> rfl

/-- A request to a converter that runs no conversion and holds no request starts at once (R139). -/
theorem State.urgRequest_starts (hp : (s.conv c).urgPend = none) (hu : (s.conv c).urg = none) (hb : (s.conv c).busy = false) :
    s.urgRequest c q = s.tick.urgStart c q := by
  simp [State.urgRequest, State.longRun, hp, hu, hb]

theorem State.urgReq_a : s.urgReq 0x0001#16 = s.hostUrgent .a := (rfl)

theorem State.hostUrgent_off (hcal : s.auxCal .a = false) (hoff : s.auxOn .a = false) : s.hostUrgent .a = s.evt AUXCTL.EVT.URGREJ := by
  simp [State.hostUrgent, State.urgRoute, hcal, hoff]

theorem State.hostUrgent_on (hcal : s.auxCal .a = false) (hon : s.auxOn .a = true) :
    s.hostUrgent .a = s.urgRequest .a ⟨3, s.reg AUXCTL.URGA.addr, false⟩ := by
  simp [State.hostUrgent, State.urgRoute, hcal, hon]

end

/-! ### The end of an urgent conversion (R142) -/

/-- Where a converter's urgent result goes. -/
def urgResultFld : Conv → Fld
  | .a => AUXCTL.URGRESA0
  | .b => AUXCTL.URGRESB0

/-- Where the requester and the channel of a converter's urgent result go. -/
def urgInfoFld : Conv → Fld
  | .a => AUXCTL.URGINFOA
  | .b => AUXCTL.URGINFOB

/-- The urgent result of request `q`: none for a cell above COUNT (R133). -/
def State.urgResult (s : State) (c : Conv) (q : UrgReq) (d : Rat) : AuxRes :=
  if s.passedOver q.word then ⟨0, false, true⟩ else s.auxConvert c q.word d

/-- An urgent result in its pair with its requester and channel. -/
def State.urgStored (s : State) (c : Conv) (q : UrgReq) (r : AuxRes) : State :=
  (s.setPair (urgResultFld c) r (s.auxCal c) false).set (urgInfoFld c) (q.who + 4 * (q.word.toNat % 256))

/-- The urgent result stored and noted, the converter free of its request. -/
def State.urgEnded (s : State) (c : Conv) (q : UrgReq) (d : Rat) (clk : Nat) : State :=
  let r := s.urgResult c q d
  let t := s.urgStored c q r
  let t := t.resultNoted c clk 18 q.word r (t.auxCal c) false
  t.setConv c { t.conv c with urg := none }

/-- The state an urgent conversion leaves outside a pass, before the safety channels take its result. -/
def State.urgFreed (s : State) (c : Conv) (q : UrgReq) (d : Rat) (clk : Nat) (busy qwait pwr : Bool) : State :=
  ((s.urgEnded c q d clk).setConv c { s.conv c with urg := none, busy := busy }).auxStatus c qwait pwr

section
variable {s : State} {c : Conv} {q : UrgReq} {clk : Nat} {d : Rat}

theorem State.urgStored_result (r : AuxRes) : (s.urgStored c q r).get (urgResultFld c) = twos 16 r.v := by
  have hapart : (urgInfoFld c).apart (urgResultFld c) = true := by cases c <;> rfl
  have hok : (urgInfoFld c).ok = true := by cases c <;> rfl
  rw [State.urgStored, State.get_set_ne _ _ _ _ hok hapart]
  cases c <;> exact State.setPair_value _ _ _ _ (by decide)

theorem State.urgStored_info (r : AuxRes) (hq : q.who ≤ 3) :
    (s.urgStored c q r).get (urgInfoFld c) = q.who + 4 * (q.word.toNat % 256) := by
  have hok : (urgInfoFld c).ok = true := by cases c <;> rfl
  have hw : (urgInfoFld c).w = 16 := by cases c <;> rfl
  rw [State.urgStored, State.get_set _ _ _ hok, hw]
  exact Nat.mod_eq_of_lt (by omega)

theorem State.urgEnded_conv : (s.urgEnded c q d clk).conv c = { s.conv c with urg := none } := by
  simp only [State.urgEnded, State.conv_setConv_self, State.resultNoted_conv]
  rfl

theorem State.urgEnded_latch : (s.urgEnded c q d clk).aux.latch = s.aux.latch := by
  simp only [State.urgEnded, State.setConv_latch, State.resultNoted_latch]
  rfl

theorem State.urgEnded_without : (s.urgEnded c q d clk).without [.xact, .aux] = s.without [.xact, .aux] := by
  simp only [State.urgEnded, State.setConv_without _ (show Part.aux ∈ [Part.xact, .aux] by decide), State.resultNoted_without]
  rfl

theorem State.urgEnded_pageWords : (s.urgEnded c q d clk).pageWords 0x0F = (s.urgStored c q (s.urgResult c q d)).pageWords 0x0F := by
  have hpage : c.page ≠ 0x0F := by cases c <;> decide
  simp only [State.urgEnded, State.setConv_pageWords,
    State.resultNoted_pageWords _ _ _ _ _ _ _ _ (show 0x06 ≠ 0x0F by decide) hpage]

theorem State.urgEnd_cellOrSpan (hu : (s.conv c).urg = some q) (hw : eType q.word = 1 ∨ eType q.word = 2) :
    s.urgEnd c d clk = ((s.urgEnded c q d clk).auxNext c clk, some (q, s.urgResult c q d)) := by
  have hcal (t : State) (b : Bool) : (if b then t.evt (c.fld AUXA.EVT.OVR) else t).auxCal c = t.auxCal c :=
    State.auxCal_of_cal t c (by cases b <;> rfl)
  simp only [State.urgEnd, hu, if_neg (not_die_of_cellOrSpan hw), hcal]
  cases c <;> rfl

variable {busy qwait pwr : Bool}

theorem State.urgFreed_conv : (s.urgFreed c q d clk busy qwait pwr).conv c = { s.conv c with urg := none, busy := busy } := by
  rw [State.urgFreed, State.auxStatus_conv, State.conv_setConv_self]

theorem State.urgFreed_diag : (s.urgFreed c q d clk busy qwait pwr).diag = s.diag := by
  refine State.diag_of_without (c := [.xact, .aux]) (by decide) ?_
  rw [State.urgFreed, State.auxStatus_without, State.setConv_without _ (by decide), State.urgEnded_without]

theorem State.urgFreed_pageWords : (s.urgFreed c q d clk busy qwait pwr).pageWords 0x0F =
    (s.urgStored c q (s.urgResult c q d)).pageWords 0x0F := by
  rw [State.urgFreed, State.auxStatus_pageWords _ _ _ _ (by cases c <;> decide), State.setConv_pageWords, State.urgEnded_pageWords]

/-- With no pass on and no further request, the converter is free once its urgent conversion has ended (R140). -/
theorem State.urgEnded_auxNext (hp : (s.conv c).urgPend = none) (hoff : (s.conv c).passOn = false) (hl : s.aux.latch = []) :
    ∃ busy qwait pwr, (s.urgEnded c q d clk).auxNext c clk = s.urgFreed c q d clk busy qwait pwr := by
  have hconv : (s.urgEnded c q d clk).conv c = { s.conv c with urg := none } := State.urgEnded_conv
  have hnext : (s.urgEnded c q d clk).auxNext c clk = State.advance 40 (s.urgEnded c q d clk) c clk :=
    State.auxNext_advances (by rw [hconv]; exact hp) (State.urgEnded_latch.trans hl) (by rw [hconv])
  obtain ⟨busy, qwait, pwr, hadv⟩ := State.advance_passOff (fuel := 39) (clk := clk)
    (show ((s.urgEnded c q d clk).conv c).passOn = false by rw [hconv]; exact hoff)
  rw [hconv] at hadv
  exact ⟨busy, qwait, pwr, hnext.trans hadv⟩

variable {raw : List Int}

theorem State.urgentEnd_idle (hu : (s.conv c).urg = none) : s.urgentEnd c raw clk = s := by
  simp [State.urgentEnd, hu]

/-- A host's urgent conversion of a cell or span outside a pass ends: its requester has no use of it in the device, so that beside the
freed converter only the health of the safety channels is judged anew (R142, R266). -/
theorem State.urgentEnd_host (hu : (s.conv c).urg = some q) (hq : q.who = 3) (hw : eType q.word = 1 ∨ eType q.word = 2)
    (hp : (s.conv c).urgPend = none) (hoff : (s.conv c).passOn = false) (hl : s.aux.latch = []) (hv : s.diag.verdict = [])
    (hf : s.diag.fallback = []) (hraw : raw.length = auxOsr (eOsr q.word)) :
    ∃ busy qwait pwr, s.urgentEnd c raw clk = (s.urgFreed c q (triMean raw) clk busy qwait pwr).sf6Update := by
  obtain ⟨busy, qwait, pwr, hnext⟩ := State.urgEnded_auxNext (q := q) (d := triMean raw) (clk := clk) hp hoff hl
  have hfeed (t : State) (r : AuxRes) : t.urgFeed q r = t := by simp [State.urgFeed, hq]
  have hspan : (s.urgFreed c q (triMean raw) clk busy qwait pwr).spanFeed = s.urgFreed c q (triMean raw) clk busy qwait pwr :=
    State.spanFeed_none _ (by rw [State.urgFreed_diag, hv]) (by rw [State.urgFreed_diag, hf])
  refine ⟨busy, qwait, pwr, ?_⟩
  simp only [State.urgentEnd, hu, hraw, beq_self_eq_true, if_true, State.urgEnd_cellOrSpan hu hw, hnext, hfeed,
    State.auxFeed_cellOrSpan hw, hspan]

end

/-- Settles O34: the end of an entry's conversion is `State.entryEnded`, then `State.entryBegun` of the next; a host's request starts
on an idle converter and ends as `State.urgFreed`, of which the judging of SF6 changes nothing that is stated. -/
theorem auxConversions : Obligations.AuxConversions := by
  refine ⟨fun s c raw clk i j l w w' hact hon htodo hi hj _ hb hu hp hl hcal hwi hty hraw hwj hover hquiet hg hv hf => ?_,
    fun s c raw clk hact hb => ?_, fun s hact hcal hon hp hu hb => ?_, fun s hact hcal hoff => ?_,
    fun s c raw clk w hact hu hp hoff hl hv hf hty hraw => ?_, fun s c raw clk hact hu => ?_⟩
  · subst hwi hwj
    have hnext := State.convEnd_nextEntry (clk := clk.val) ⟨hon, htodo, hi, hj, hty, hu, hp, hl, hcal, hover, hquiet, hg⟩ hb hraw hv hf
    rw [exec_auxConversionEnd_eq, whenActive_active _ s _ hact, hnext]
    refine ⟨_, rfl, ?_⟩
    rw [State.only_get, State.only_get, State.only_get, State.only_conv (by decide), State.only_cells_kept (by decide),
      State.entryBegun_conv, State.itemBegin_todo, State.itemBegin_busy, State.entryEnded_conv, State.entryBegun_shown hj]
    refine ⟨?_, ?_, rfl, rfl, rfl, rfl⟩
    · rw [State.nextEntry_get rfl (show 0x18 + 2 * i < 64 by omega) (show 3 < 0x18 + 2 * i by omega)]
      exact State.setPair_value _ _ _ _ (show 0x18 + 2 * i < 63 by omega)
    · rw [State.nextEntry_get rfl (show 0x18 + (2 * i + 1) < 64 by omega) (show 3 < 0x18 + (2 * i + 1) by omega)]
      exact State.setPair_tag _ _ _ _ _ _
  · exact (exec_auxConversionEnd_eq c raw clk s).trans (whenActive_same hact (State.convEnd_idle hb))
  · rw [exec_urgreq_eq, whenActive_active _ s _ hact, State.urgReq_a, State.hostUrgent_on hcal hon, State.urgRequest_starts hp hu hb]
    refine ⟨_, rfl, ?_⟩
    rw [State.only_conv (by decide), State.only_conv (by decide), State.urgStart_conv]
    exact ⟨rfl, rfl, State.urgStart_other (c := .a)⟩
  · have hrej : s.urgReq 0x0001#16 = s.evt AUXCTL.EVT.URGREJ := State.urgReq_a.trans (State.hostUrgent_off hcal hoff)
    rw [exec_urgreq_eq, whenActive_next hact (by rw [hrej, State.evt_without]), hrej]
  · obtain ⟨busy, qwait, pwr, hend⟩ := State.urgentEnd_host (clk := clk.val) hu rfl hty hp hoff hl hv hf hraw
    have hconv : (s.urgentEnd c raw clk.val).conv c = { s.conv c with urg := none, busy := busy } := by
      rw [hend, State.conv_of_aux (State.aux_of_without (c := [.safe, .ban]) (by decide)
        (State.sf6Update_without _ (by decide) (by decide))), State.urgFreed_conv]
    have hpage : (s.urgentEnd c raw clk.val).pageWords 0x0F =
        (s.urgStored c ⟨3, w, false⟩ (s.urgResult c ⟨3, w, false⟩ (triMean raw))).pageWords 0x0F := by
      rw [hend, State.sf6Update_pageWords _ (by decide) (by decide) (by decide), State.urgFreed_pageWords]
    rw [exec_urgentConversionEnd_eq, whenActive_active _ s _ hact]
    refine ⟨_, rfl, ?_⟩
    rw [State.only_conv (by decide), hconv, State.only_get, State.only_get]
    refine ⟨rfl, hoff, ?_, ?_⟩
    · have hget := (State.get_of_pageWords hpage (f := urgResultFld c) (by cases c <;> decide)).trans (State.urgStored_result _)
      rw [State.urgResult, apply_ite AuxRes.v] at hget
      cases c <;> exact hget
    · have hget := (State.get_of_pageWords hpage (f := urgInfoFld c) (by cases c <;> decide)).trans (State.urgStored_info _ (Nat.le_refl 3))
      cases c <;> exact hget
  · exact (exec_urgentConversionEnd_eq c raw clk s).trans (whenActive_same hact (State.urgentEnd_idle hu))

end Sys2Proof.Machine
end

