-- ==== Sys2Proof/Proofs/AuxRefutations.lean ====
section
/-! O33 and O35. A converter that is being switched off is not powered for the pass it no longer has (R134, R150); a comparison that
names a cell beyond the failing-cell vector strikes the count of comparisons (R146, R147). -/
namespace Sys2Proof.Machine

theorem exec_auxPowerUp_eq (c : Conv) (s : State) : exec (.auxPowerUp c) s =
    whenActive [] s fun s => s.when (s.passNext c) fun s => s.setB (c.fld AUXA.STATUS.PWR) true := (rfl)

theorem exec_crossCompare_eq (c : Conv) (s : State) : exec (.crossCompare c) s =
    whenActive [.aux, .safe, .ban] s fun s => (s.crossCompare c).sf6Update := (rfl)

/-! ### A pass that falls away -/

/-- A converter that is off from the next master clock 0 on is not powered for a pass there (R134, R150). -/
theorem auxPowerUp_idle {s : State} {c : Conv} (hact : s.pw.phase = .active)
    (hoff : (s.release (· == (c.fld AUXA.CTRL.EN).addr)).auxOn c = false) : exec (.auxPowerUp c) s = .next s := by
  have hnext : s.passNext c = false := by simp [State.passNext, State.passDue, hoff]
  exact (exec_auxPowerUp_eq c s).trans (whenActive_when_false hact hnext)

/-- AUX-A, on since reset and before its first pass, is written off; EN = 1 is in use until the next master clock 0. -/
def auxAStopping : State :=
  { State.reset.setB AUXA.CTRL.EN false with
    pw := { State.reset.pw with phase := .active }
    held := [(AUXA.CTRL.EN.addr, some 1#16)] }

/-- Refutes O33: with EN written 0 in the tread before a pass, the pass is due by the EN still in use, yet AUX_POWER_UP, which counts
the written EN as R150 says, leaves the converter unpowered; the first clause lacks the premise that EN stays 1. -/
theorem not_auxPasses : ¬ Obligations.AuxPasses := by
  intro h
  obtain ⟨hpower, _⟩ := h
  have hpowered := hpower auxAStopping .a rfl (by decide +kernel) rfl
  have hidle : exec (.auxPowerUp .a) auxAStopping = .next auxAStopping := auxPowerUp_idle rfl (by decide +kernel)
  have hsame : auxAStopping = auxAStopping.setB AUXA.STATUS.PWR true := Host.Outcome.next.inj (hidle.symm.trans hpowered)
  have hbit : auxAStopping.bit AUXA.STATUS.PWR = true := by
    rw [hsame]
    exact State.bit_setB _ _ _ _ _ (by decide)
  exact absurd hbit (by decide +kernel)

/-! ### A cell beyond the vector -/

/-- One comparison made, and a waiting one that names cell index 80, one match short of passing. -/
def cell80Waits : State :=
  { State.reset.set AUXCTL.XCNT 1 with
    pw := { State.reset.pw with phase := .active }
    cells := { State.reset.cells with fineAt := 1 }
    aux := { State.reset.aux with a := { State.reset.aux.a with waits := [⟨80, 0, 4, 1, false⟩] }, xOk := [(80, 1)] } }

/-- Its cell passes, which clears bit 80 of the vector from XFAIL0 on: bit 0 of XCNT, five words further. The comparison is then counted
from 0. -/
theorem cell80_counted : (cell80Waits.crossCompare .a).sf6Update.get AUXCTL.XCNT = 1 := by decide +kernel

/-- Refutes O35: a comparison of cell index 80 is made, and XCNT stays 1; the clause on XCNT lacks the premise that the cell is one of
the 36 (a round-robin entry names no other, R145). -/
theorem not_auxComparisons : ¬ Obligations.AuxComparisons := by
  intro h
  obtain ⟨_, _, hcount, _⟩ := h
  obtain ⟨t, hnext, hcnt, _⟩ := hcount cell80Waits .a ⟨80, 0, 4, 1, false⟩ [] rfl rfl (by decide +kernel) (by decide) (by decide)
    (by decide) rfl (by decide) (by decide +kernel)
  have ht : cell80Waits.only (cell80Waits.crossCompare .a).sf6Update [.aux, .safe, .ban] = t :=
    Host.Outcome.next.inj ((whenActive_active _ _ _ rfl).symm.trans ((exec_crossCompare_eq .a _).symm.trans hnext))
  rw [← ht, State.only_get, cell80_counted] at hcnt
  exact absurd hcnt (by decide +kernel)

end Sys2Proof.Machine
end

