-- ==== Sys2Proof/Proofs/CalibrationRequests.lean ====
section
/-! O24. What the calibration engine makes of a request to start or to abort (R157, R161, R164, R166). -/
namespace Sys2Proof.Machine

theorem exec_run_eq (s : State) : exec .run s = whenActive [.cal] s State.calRun := (rfl)
theorem exec_syszero_eq (s : State) : exec .syszero s = whenActive [.cal] s State.sysZero := (rfl)
theorem exec_calAbort_eq (s : State) : exec .calAbort s = whenActive [.cal] s State.calAbort := (rfl)

section
variable {s : State}

/-- A run or a SYSZERO is in progress, or waits for its master clock 0 (R157, R166). -/
def State.calTaken (s : State) : Bool := s.cal.run.isSome || s.cal.sz.isSome || s.cal.runReq || s.cal.szReq

theorem State.calRun_free (h : s.calTaken = false) : s.calRun = { s with cal := { s.cal with runReq := true } } :=
  if_neg (by rw [← State.calTaken, h]; decide)

theorem State.calRun_taken (h : s.calTaken = true) : s.calRun = s.evt CAL.EVT.REFUSED := if_pos h

theorem State.sysZero_free (h : s.calTaken = false) : s.sysZero = { s with cal := { s.cal with szReq := true } } :=
  if_neg (by rw [← State.calTaken, h]; decide)

theorem State.sysZero_taken (h : s.calTaken = true) : s.sysZero = s.evt CAL.EVT.REFUSED := if_pos h

/-- An automatic run starts (R164). -/
def State.autoStarts (s : State) : Bool :=
  s.get CAL.AUTO == 1 && s.calDue && s.cal.run.isNone && s.cal.sz.isNone && !s.cal.szReq && !s.bit CAL.CTRL.HOLD &&
    decide (48 ≤ s.tm.tread) && (match s.cal.rejEnd with | some t => decide (t + 60000 ≤ s.tm.ltc) | none => true)

theorem exec_calAutoStart_eq (s : State) : exec .calAutoStart s =
    whenActive [.cal] s fun s => s.when s.autoStarts fun s => { s with cal := { s.cal with runReq := true } } := (rfl)

variable (hact : s.pw.phase = .active)
include hact

theorem exec_run_next : exec .run s = .next s.calRun := whenActive_next hact (s.calRun_without (by decide))
theorem exec_syszero_next : exec .syszero s = .next s.sysZero := whenActive_next hact (s.sysZero_without (by decide))
theorem exec_calAbort_next : exec .calAbort s = .next s.calAbort := whenActive_next hact (s.calAbort_without (by decide))

end

/-- Settles O24: a request meets an engine that is taken or free (`State.calTaken`), and an automatic run one whose conditions hold. -/
theorem calibrationRequests : Obligations.CalibrationRequests := by
  refine ⟨fun s hact hrun hsz hreq hszReq => ?_, fun s hact htaken => ?_, fun s hact => exec_calAbort_next hact,
    fun s hact hauto hdue hrun hsz hszReq hhold htread hrej => ?_⟩
  · have hfree : s.calTaken = false := by simp [State.calTaken, hrun, hsz, hreq, hszReq]
    rw [exec_run_next hact, exec_syszero_next hact, State.calRun_free hfree, State.sysZero_free hfree]
    exact ⟨rfl, rfl⟩
  · have htk : s.calTaken = true := by simpa [State.calTaken, or_assoc] using htaken
    rw [exec_run_next hact, exec_syszero_next hact, State.calRun_taken htk, State.sysZero_taken htk]
    exact ⟨rfl, rfl⟩
  · have hstarts : s.autoStarts = true := by simp [State.autoStarts, hauto, hdue, hrun, hsz, hszReq, hhold, htread, hrej]
    exact (exec_calAutoStart_eq s).trans (whenActive_when_true hact hstarts (s.withCal_without (by decide) _))

end Sys2Proof.Machine
end

