-- ==== Sys2Proof/Proofs/SlotWrites.lean ====
section
/-! SUPPORT. The write of a calibration slot and its two ends (R168, R442), and what the flash's next operation leaves of them. -/
namespace Sys2Proof.Machine

section
variable (s : State) (sl : CalSlot)

/-! ### The write -/

/-- What a slot holds after a write: the content, or nothing valid (R168). -/
def CalSlot.written (ok : Bool) : Option CalSlot := if ok then some sl else none

theorem State.writeSlot_vault (ok : Bool) :
    s.writeSlot sl true ok = { s with vault := { s.vault with slotA := sl.written ok } } ∨
    s.writeSlot sl true ok = { s with vault := { s.vault with slotB := sl.written ok } } := by
  simp only [State.writeSlot, if_true]
  exact (ite_eq_or_eq _ _ _).symm

theorem State.writeSlot_flash (ok : Bool) :
    s.writeSlot sl false ok = { s with fl := { s.fl with slotA := sl.written ok } } ∨
    s.writeSlot sl false ok = { s with fl := { s.fl with slotB := sl.written ok } } := by
  simp only [State.writeSlot, Bool.false_eq_true, if_false]
  exact (ite_eq_or_eq _ _ _).symm

/-! ### The two ends -/

theorem State.pimg_pageWords {p : Nat} (h : 0x02 ≠ p) : s.pimg.pageWords p = s.pageWords p :=
  State.setB_pageWords s (f := CFGGUARD.STATUS.PIMG) h _

theorem State.persistDone_pageWords {p : Nat} (h : 0x02 ≠ p) (toVault ok : Bool) :
    (s.persistDone toVault ok).pageWords p = s.pageWords p := by
  unfold State.persistDone
  split
  · rfl
  · simp (disch := simpa [Fld.addr, linear] using h) only [State.ite_pageWords, State.evt_pageWords, ite_self]
    rfl

/-- The end of a commit that a PERSIST waited for touches nothing but the configuration and its page. -/
theorem State.persistDone_cfg (toVault ok : Bool) : (s.persistDone toVault ok).without [.cfg] = s.without [.cfg] := by
  unfold State.persistDone
  split
  · rfl
  · simp only [State.ite_without, State.evt_without, State.withCfg_without _ (show Part.cfg ∈ [Part.cfg] by decide), ite_self]

/-- A commit that succeeded, before the PERSIST that waited for it is told (R168). -/
def State.slotShown (toVault : Bool) : State :=
  let s := { s with cal := { s.cal with slot := some sl, slotVault := toVault } }
  let s := if toVault then { s with vault := { s.vault with commitLtc := some s.tm.ltc } } else s
  (((s.set2 CAL.SLOTSEQ0 sl.seq).setB CAL.STATUS.SLOTSRC toVault).evt CAL.EVT.COMMIT).pimg

theorem State.slotWritten_ok (toVault : Bool) : s.slotWritten sl toVault true = (s.slotShown sl toVault).persistDone toVault true := (rfl)

theorem State.slotWritten_failed (toVault : Bool) :
    s.slotWritten sl toVault false = (s.evt CAL.EVT.COMMITFAIL).persistDone toVault false := (rfl)

theorem State.slotWritten_ok_cal (toVault : Bool) :
    (s.slotWritten sl toVault true).cal = { s.cal with slot := some sl, slotVault := toVault } := by
  rw [State.slotWritten_ok, State.cal_of_without (c := [.cfg]) (by decide) (State.persistDone_cfg _ _ _)]
  cases toVault <;> rfl

theorem State.slotWritten_ok_fl (toVault : Bool) : (s.slotWritten sl toVault true).fl = s.fl := by
  rw [State.slotWritten_ok, State.fl_of_without (c := [.cfg]) (by decide) (State.persistDone_cfg _ _ _)]
  cases toVault <;> rfl

theorem State.slotWritten_ok_vault (toVault : Bool) : (s.slotWritten sl toVault true).vault =
    if toVault then { s.vault with commitLtc := some s.tm.ltc } else s.vault := by
  rw [State.slotWritten_ok, State.vault_of_without (c := [.cfg]) (by decide) (State.persistDone_cfg _ _ _)]
  cases toVault <;> rfl

theorem State.slotWritten_ok_event (toVault : Bool) : (s.slotWritten sl toVault true).bit CAL.EVT.COMMIT = true := by
  rw [State.slotWritten_ok, State.bit_of_pageWords (State.persistDone_pageWords _ (by decide) _ _) rfl, State.slotShown,
    State.bit_of_pageWords (State.pimg_pageWords _ (by decide)) rfl]
  exact State.bit_evt _ _ _ _ (by decide)

theorem State.slotWritten_failed_without (toVault : Bool) : (s.slotWritten sl toVault false).without [.cfg] = s.without [.cfg] := by
  rw [State.slotWritten_failed, State.persistDone_cfg, State.evt_without]

theorem State.slotWritten_failed_event (toVault : Bool) : (s.slotWritten sl toVault false).bit CAL.EVT.COMMITFAIL = true := by
  rw [State.slotWritten_failed, State.bit_of_pageWords (State.persistDone_pageWords _ (by decide) _ _) rfl]
  exact State.bit_evt _ _ _ _ (by decide)

end

/-! ### The slots under the flash's next operation -/

/-- The slots of the flash, and the content that is being written. -/
abbrev Flash.slots (f : Flash) : Option CalSlot × Option CalSlot × Option (CalSlot × Option (Option CfgImage)) :=
  (f.slotA, f.slotB, f.slotNew)

/-- The slots wherever they lie, and the one in use. -/
def State.slots (s : State) := (s.cal.slot, s.cal.slotVault, s.vault.slotA, s.vault.slotB, s.fl.slots)

section
variable (s : State)

theorem State.slots_of_without {t : State} (h : t.without [] = s.without []) : t.slots = s.slots := by
  rw [State.slots, State.slots, State.cal_of_without (by decide) h, State.vault_of_without (by decide) h, State.fl_of_without (by decide) h]

theorem State.ite_slots (p : Prop) [Decidable p] (t : State) : (if p then s else t).slots = if p then s.slots else t.slots :=
  apply_ite State.slots p s t
theorem State.setFl_slots {f : Flash} (h : f.slots = s.fl.slots) : (s.setFl f).slots = s.slots := by
  rw [State.slots, State.slots, ← h]; rfl
theorem State.set_slots (f : Fld) (v : Nat) : (s.set f v).slots = s.slots := (rfl)
theorem State.inc_slots (f : Fld) : (s.inc f).slots = s.slots := (rfl)
theorem State.evt_slots (f : Fld) : (s.evt f).slots = s.slots := (rfl)
theorem State.occur_slots (i : Nat) : (s.occur i).slots = s.slots := (rfl)
theorem State.tick_slots : s.tick.slots = s.slots := (rfl)
theorem State.flStatus_slots : s.flStatus.slots = s.slots := s.slots_of_without s.flStatus_without
theorem State.fault44_slots : s.fault44.slots = s.slots := s.slots_of_without s.fault44_without
theorem State.tombWrite_slots : s.tombWrite.slots = s.slots := by rw [State.tombWrite, State.flStatus_slots]; rfl
theorem State.copyBegin_slots (k : Nat) (fix : Bool) : (s.copyBegin k fix).slots = s.slots := (rfl)
theorem State.recBegin_slots (d : Draft) : (s.recBegin d).slots = s.slots := (rfl)

theorem State.progNext_slots : s.progNext.slots = s.slots := by
  simp (disch := rfl) only [State.progNext, State.ite_slots, State.setFl_slots, ite_self]

theorem State.draftNext_slots (d : Draft) (l : List Draft) : (s.draftNext d l).slots = s.slots := by
  simp (disch := rfl) only [State.draftNext, State.ite_slots, State.occur_slots, State.progNext_slots, State.recBegin_slots,
    State.tick_slots, State.setFl_slots, ite_self]

variable {s} (hnew : s.fl.slotNew = none)
include hnew

/-- A flash given up with no slot in writing keeps every slot. -/
theorem State.flAbort_slots : s.flAbort.slots = s.slots := by
  have hn : s.uncarry.fl.slotNew = none := hnew
  simp only [State.flAbort, hn]
  exact State.setFl_slots s.uncarry (by rw [Flash.slots, Flash.slots, hn])

theorem State.flFail_slots : s.flFail.slots = s.slots := by
  have habort : ((s.set FLASH.STATUS.STATE 3).evt FLASH.EVT.FAIL).flAbort.slots = s.slots :=
    State.flAbort_slots (s := (s.set FLASH.STATUS.STATE 3).evt FLASH.EVT.FAIL) hnew
  simp (disch := rfl) only [State.flFail, State.ite_slots, State.flStatus_slots, State.fault44_slots, State.tombWrite_slots,
    State.set_slots, State.setFl_slots, habort, ite_self]

theorem State.failCheck_slots : s.failCheck.slots = s.slots := by
  simp only [State.failCheck, State.ite_slots, State.flFail_slots hnew, ite_self]

theorem State.retireNow_slots (q : Nat) : (s.retireNow q).slots = s.slots := by
  rw [State.retireNow]
  refine (State.failCheck_slots ?_).trans ?_
  · exact hnew
  · exact State.setFl_slots s rfl

theorem State.tidyNext_slots : s.tidyNext.slots = s.slots := by
  have hretire (f : Flash) (q : Nat) (hf : f.slots = s.fl.slots) : ((s.setFl f).retireNow q).slots = s.slots :=
    (State.retireNow_slots (s := s.setFl f) ((congrArg (fun x => x.2.2) hf).trans hnew) q).trans (State.setFl_slots s hf)
  unfold State.tidyNext
  split
  · split <;> simp only [State.progNext_slots, State.copyBegin_slots, State.retireNow_slots hnew]
  · dsimp only
    split
    · split <;> simp (disch := rfl) only [State.ite_slots, State.progNext_slots, State.copyBegin_slots, hretire,
        State.setFl_slots, ite_self]
    · split <;> simp (disch := rfl) only [State.progNext_slots, State.copyBegin_slots, State.setFl_slots]

/-- Whatever the flash does next, the slots stand. -/
theorem State.opNext_slots : s.opNext.slots = s.slots := by
  cases hw : s.fl.wait <;> simp (disch := rfl) only [State.opNext, hw, State.ite_slots, State.flStatus_slots, State.progNext_slots,
    State.setFl_slots, State.draftNext_slots, State.tidyNext_slots hnew, ite_self]

end
end Sys2Proof.Machine
end

