-- ==== Sys2Proof/Proofs/SlotCommits.lean ====
section
/-! O26. A due commit in the flash and in the vault, and its ends (R167 to R169). -/
namespace Sys2Proof.Machine

/-! ### The commands -/

/-- The parts that a commit acts on. -/
def commitParts : List Part := [.cal, .safe, .cfg, .fl, .vault]

/-- The commit that was due has been taken up (R168). -/
def State.commitTaken (s : State) : State := { s with cal := { s.cal with commitDue := false } }

/-- The commit that was due waits for the end of the vault's interval (R169). -/
def State.commitDeferred (s : State) : State := { s with cal := { s.cal with commitDue := false, deferred := true } }

/-- A deferred commit whose interval has ended (R169). -/
def State.deferEnded (s : State) : State := { s with cal := { s.cal with deferred := false } }

/-- A deferred commit that falls due in a flash that has become usable (R168). -/
def State.commitDueAgain (s : State) : State := { s with cal := { s.cal with deferred := false, commitDue := true } }

theorem exec_slotCommit_eq (ok : Bool) (s : State) : exec (.slotCommit ok) s =
    whenActive commitParts s fun s => s.when s.cal.commitDue fun s =>
      if s.fl.usable then s.when (!s.fl.busy) fun s => (s.slotBegin ok).setB FLASH.STATUS.BUSY true
      else if s.vaultFree then s.commitTaken.commitSlot none true ok else s.commitDeferred.calStatus := (rfl)

theorem exec_vaultCommitDeferEnd_eq (ok : Bool) (s : State) : exec (.vaultCommitDeferEnd ok) s =
    whenActive commitParts s fun s => s.when (s.cal.deferred && s.vaultFree) fun s =>
      (if s.fl.usable then s.commitDueAgain else s.deferEnded.commitSlot none true ok).calStatus := (rfl)

section
variable {s t : State}

theorem State.only_commit_cal : (s.only t commitParts).cal = t.cal := (rfl)
theorem State.only_commit_fl : (s.only t commitParts).fl = t.fl := (rfl)
theorem State.only_commit_cfg : (s.only t commitParts).cfg = t.cfg := (rfl)
theorem State.only_commit_vault : (s.only t commitParts).vault = (s.keep t).vault := (rfl)

/-- A commit that does not write the vault leaves it as it is. -/
theorem State.only_commit_vault_same (h : t.vault = s.vault) : (s.only t commitParts).vault = s.vault := by
  rw [State.only_commit_vault, State.keep, h]

section
variable (hact : s.pw.phase = .active) (ok : Bool)
include hact

section
variable (hdue : s.cal.commitDue = true)
include hdue

theorem exec_slotCommit_flash (hus : s.fl.usable = true) (hb : s.fl.busy = false) :
    exec (.slotCommit ok) s = .next (s.only ((s.slotBegin ok).setB FLASH.STATUS.BUSY true) commitParts) := by
  rw [exec_slotCommit_eq, whenActive_active _ _ _ hact]
  simp only [State.when, hdue, hus, hb, Bool.not_false, if_true]

theorem exec_slotCommit_vault (hus : s.fl.usable = false) (hfree : s.vaultFree = true) :
    exec (.slotCommit ok) s = .next (s.only (s.commitTaken.commitSlot none true ok) commitParts) := by
  rw [exec_slotCommit_eq, whenActive_active _ _ _ hact]
  simp only [State.when, hdue, hus, hfree, Bool.false_eq_true, if_true, if_false]

theorem exec_slotCommit_defers (hus : s.fl.usable = false) (hfree : s.vaultFree = false) :
    exec (.slotCommit ok) s = .next (s.only s.commitDeferred.calStatus commitParts) := by
  rw [exec_slotCommit_eq, whenActive_active _ _ _ hact]
  simp only [State.when, hdue, hus, hfree, Bool.false_eq_true, if_true, if_false]

end

theorem exec_slotCommit_waits (h : s.cal.commitDue = false ∨ (s.fl.usable = true ∧ s.fl.busy = true)) :
    exec (.slotCommit ok) s = .next s := by
  rw [exec_slotCommit_eq]
  refine whenActive_same hact ?_
  rcases h with hdue | ⟨hus, hb⟩
  · simp only [State.when, hdue, Bool.false_eq_true, if_false]
  · simp only [State.when, hus, hb, Bool.not_true, Bool.false_eq_true, if_false, if_true, ite_self]

section
variable (hdef : s.cal.deferred = true) (hfree : s.vaultFree = true)
include hdef hfree

theorem exec_vaultCommitDeferEnd_vault (hus : s.fl.usable = false) : exec (.vaultCommitDeferEnd ok) s =
    .next (s.only (s.deferEnded.commitSlot none true ok).calStatus commitParts) := by
  rw [exec_vaultCommitDeferEnd_eq, whenActive_active _ _ _ hact]
  simp only [State.when, hdef, hfree, hus, Bool.and_self, Bool.false_eq_true, if_true, if_false]

theorem exec_vaultCommitDeferEnd_flash (hus : s.fl.usable = true) : exec (.vaultCommitDeferEnd ok) s =
    .next (s.only s.commitDueAgain.calStatus commitParts) := by
  rw [exec_vaultCommitDeferEnd_eq, whenActive_active _ _ _ hact]
  simp only [State.when, hdef, hfree, hus, Bool.and_self, if_true]

end
end

/-! ### The commit in the vault -/

theorem State.calStatus_cal (s : State) : s.calStatus.cal = s.cal := State.cal_of_without (c := []) (by decide) s.calStatus_without
theorem State.calStatus_vault (s : State) : s.calStatus.vault = s.vault := State.vault_of_without (c := []) (by decide) s.calStatus_without

/-- The content of the next commit to the vault, which holds no image (R167, R442). -/
def State.vaultContent (s : State) : CalSlot := s.slotContent s.slotSeq none

/-- A commit to the vault that ends well: its slot is the one in use, and the interval begins (R168, R169). -/
theorem State.commitSlot_vault_ok (s : State) :
    (s.commitSlot none true true).cal = { s.cal with slot := some s.vaultContent, slotVault := true } ∧
    ((s.commitSlot none true true).vault.slotA = some s.vaultContent ∨
      (s.commitSlot none true true).vault.slotB = some s.vaultContent) ∧
    (s.commitSlot none true true).vault.commitLtc = some s.tm.ltc := by
  rw [State.commitSlot, ← State.vaultContent, State.slotWritten_ok_cal, State.slotWritten_ok_vault]
  rcases s.writeSlot_vault s.vaultContent true with h | h
  · rw [h]
    exact ⟨rfl, .inl rfl, rfl⟩
  · rw [h]
    exact ⟨rfl, .inr rfl, rfl⟩

/-- A commit to the vault that fails leaves the slot in use and the interval (R168). -/
theorem State.commitSlot_vault_failed (s : State) : (s.commitSlot none true false).cal = s.cal ∧
    (s.commitSlot none true false).bit CAL.EVT.COMMITFAIL = true ∧
    (s.commitSlot none true false).vault.commitLtc = s.vault.commitLtc := by
  have hend (u : State) (sl : CalSlot) := u.slotWritten_failed_without sl true
  rw [State.commitSlot, ← State.vaultContent, State.cal_of_without (by decide) (hend _ _), State.vault_of_without (by decide) (hend _ _),
    State.slotWritten_failed_event]
  rcases s.writeSlot_vault s.vaultContent false with h | h
  · rw [h]
    exact ⟨rfl, rfl, rfl⟩
  · rw [h]
    exact ⟨rfl, rfl, rfl⟩

/-! ### The commit in the flash -/

/-- The content of the next commit to the flash, with the image in wait (R167, R442). -/
def State.flashContent (s : State) : CalSlot := s.slotContent s.slotSeq (s.commitImage false)

/-- A commit begins in the flash (R168): the content waits for its read-back, and nothing else has changed. -/
theorem State.slotBegin_begins (s : State) (crcOk : Bool) : (s.slotBegin crcOk).cal = { s.cal with commitDue := false } ∧
    (s.slotBegin crcOk).fl.op = some (.slot crcOk) ∧ (s.slotBegin crcOk).fl.slotNew = some (s.flashContent, s.cfg.persist) ∧
    (s.slotBegin crcOk).cfg = { s.cfg with persist := none } ∧ (s.slotBegin crcOk).vault = s.vault := by
  rw [State.slotBegin, ← State.flashContent]
  rcases s.writeSlot_flash s.flashContent false with h | h
  · rw [h]
    exact ⟨rfl, rfl, rfl, rfl, rfl⟩
  · rw [h]
    exact ⟨rfl, rfl, rfl, rfl, rfl⟩

section
variable {sl : CalSlot} {p : Option (Option CfgImage)}

/-- The content is written, with what waited for this commit (R168, R442). -/
def State.slotClosing (s : State) (p : Option (Option CfgImage)) : State :=
  { s with fl := { s.fl with slotNew := none }, cfg := { s.cfg with persist := p } }

theorem State.slotDone_eq (hnew : s.fl.slotNew = some (sl, p)) (ok : Bool) : s.slotDone ok =
    (let u := ((s.slotClosing p).writeSlot sl false ok).slotWritten sl false ok
     { u with cfg := { u.cfg with persist := s.cfg.persist }, vault := { u.vault with wipe := u.vault.wipe && !ok } }) := by
  simp only [State.slotDone, hnew]
  rfl

/-- A commit in the flash that ends well: its slot is the one in use (R168). -/
theorem State.slotDone_ok (hnew : s.fl.slotNew = some (sl, p)) : (s.slotDone true).cal.slot = some sl ∧
    (s.slotDone true).cal.slotVault = false ∧ ((s.slotDone true).fl.slotA = some sl ∨ (s.slotDone true).fl.slotB = some sl) ∧
    (s.slotDone true).fl.slotNew = none ∧ (s.slotDone true).vault.slotA = s.vault.slotA ∧
    (s.slotDone true).vault.slotB = s.vault.slotB := by
  rw [State.slotDone_eq hnew]
  dsimp only
  rw [State.slotWritten_ok_cal, State.slotWritten_ok_fl, State.slotWritten_ok_vault]
  rcases (s.slotClosing p).writeSlot_flash sl true with h | h
  · rw [h]
    exact ⟨rfl, rfl, .inl rfl, rfl, rfl, rfl⟩
  · rw [h]
    exact ⟨rfl, rfl, .inr rfl, rfl, rfl, rfl⟩

theorem State.slotDone_ok_event (hnew : s.fl.slotNew = some (sl, p)) : (s.slotDone true).bit CAL.EVT.COMMIT = true := by
  rw [State.slotDone_eq hnew]
  exact State.slotWritten_ok_event _ _ _

/-- A commit in the flash that fails leaves the slot in use (R168). -/
theorem State.slotDone_failed (hnew : s.fl.slotNew = some (sl, p)) :
    (s.slotDone false).cal = s.cal ∧ (s.slotDone false).fl.slotNew = none := by
  have hend (u : State) := u.slotWritten_failed_without sl false
  rw [State.slotDone_eq hnew]
  dsimp only
  rw [State.cal_of_without (by decide) (hend _), State.fl_of_without (by decide) (hend _)]
  rcases (s.slotClosing p).writeSlot_flash sl false with h | h
  · rw [h]
    exact ⟨rfl, rfl⟩
  · rw [h]
    exact ⟨rfl, rfl⟩

theorem State.slotDone_failed_event (hnew : s.fl.slotNew = some (sl, p)) : (s.slotDone false).bit CAL.EVT.COMMITFAIL = true := by
  rw [State.slotDone_eq hnew]
  exact State.slotWritten_failed_event _ _ _

end

/-! ### The end of the flash's operation -/

/-- The flash as its operation ends for good (R412). -/
def State.opOver (s : State) : State := s.setFl { s.fl with late := 0, tries := 0, op := none }

/-- A slot's operation that is not tried again ends the commit, well where both the operation and the read-back did. -/
theorem State.opDone_slot {crcOk ok : Bool} {e : OpEnd} (hop : s.fl.op = some (.slot crcOk)) (hlast : e ≠ .failed ∨ 2 ≤ s.fl.tries)
    (hok : (decide (e ≠ .failed) && crcOk) = ok) : s.opDone e = (s.opOver.slotDone ok).opNext := by
  have hagain : (decide (e = .failed) && decide (s.fl.tries < 2)) = false := by
    rcases hlast with he | ht
    · simp [he]
    · simp [Nat.not_lt.mpr ht]
  subst hok
  simp only [State.opDone, hop, hagain, Bool.false_eq_true, if_false]
  rfl

/-- Where no closing step is under way, the end of an operation is that and no more. -/
theorem exec_flashOpDone_next (hact : s.pw.phase = .active) (hl : s.pw.leave = none) (hc : s.pw.closing = none) (e : OpEnd) :
    exec (.flashOpDone e) s = .next (s.opDone e) := by
  have hend : (s.opDone e).closingEnd = s.opDone e := by
    rw [State.closingEnd, State.pw_of_without (s.opDone_without e), hc]
  rw [exec_flashOpDone_eq, whenActing_active s _ hact, hend, ite_self, State.settle_of_without hl (s.opDone_without e)]

section
variable {sl : CalSlot} {p : Option (Option CfgImage)} {e : OpEnd} {crcOk : Bool} (hop : s.fl.op = some (.slot crcOk))
    (hnew : s.fl.slotNew = some (sl, p)) (hlast : e ≠ .failed ∨ 2 ≤ s.fl.tries)
include hop hnew hlast

/-- What the flash does after a commit that ended well leaves its slot in use (R168). -/
theorem State.opDone_commits (hok : (decide (e ≠ .failed) && crcOk) = true) : (s.opDone e).cal.slot = some sl ∧
    (s.opDone e).cal.slotVault = false ∧ ((s.opDone e).fl.slotA = some sl ∨ (s.opDone e).fl.slotB = some sl) ∧
    (s.opDone e).bit CAL.EVT.COMMIT = true ∧ (s.opDone e).vault.slotA = s.vault.slotA ∧ (s.opDone e).vault.slotB = s.vault.slotB := by
  obtain ⟨hslot, hfrom, hwritten, hnone, hA, hB⟩ := State.slotDone_ok (s := s.opOver) hnew
  have hslots := State.opNext_slots hnone
  simp only [State.slots, Flash.slots, Prod.mk.injEq] at hslots
  obtain ⟨hslot', hfrom', hvA, hvB, hfA, hfB, -⟩ := hslots
  rw [State.opDone_slot hop hlast hok, State.bit_of_pageWords (State.opNext_pageWords _ (by decide)) rfl, hslot', hfrom', hvA,
    hvB, hfA, hfB]
  exact ⟨hslot, hfrom, hwritten, State.slotDone_ok_event (s := s.opOver) hnew, hA, hB⟩

/-- What the flash does after a commit that failed leaves the slot that was in use (R168). -/
theorem State.opDone_commitFails (hok : (decide (e ≠ .failed) && crcOk) = false) : (s.opDone e).cal.slot = s.cal.slot ∧
    (s.opDone e).cal.slotVault = s.cal.slotVault ∧ (s.opDone e).fl.slotNew = none ∧ (s.opDone e).bit CAL.EVT.COMMITFAIL = true := by
  obtain ⟨hcal, hnone⟩ := State.slotDone_failed (s := s.opOver) hnew
  have hslots := State.opNext_slots hnone
  simp only [State.slots, Flash.slots, Prod.mk.injEq] at hslots
  obtain ⟨hslot', hfrom', -, -, -, -, hnew'⟩ := hslots
  rw [State.opDone_slot hop hlast hok, State.bit_of_pageWords (State.opNext_pageWords _ (by decide)) rfl, hslot', hfrom', hnew', hcal]
  exact ⟨rfl, rfl, hnone, State.slotDone_failed_event (s := s.opOver) hnew⟩

end
end

/-- Settles O26: a commit begins as `State.slotBegin` or is `State.commitSlot` into the vault; in the flash it ends with `State.slotDone`,
and what the flash does next leaves every slot (`State.opNext_slots`). -/
theorem slotCommits : Obligations.SlotCommits := by
  refine ⟨fun s ok hact hdue hus hb => ?_, fun s ok hact h => exec_slotCommit_waits hact ok h,
    fun s c sl p hact hl hc hop hnew => ?_, fun s e ok sl p hact hl hc hop hnew hend => ?_, fun s hact hdue hus hfree => ?_,
    fun s hact hdue hus hfree => ?_, fun s ok hact hdue hus hfree => ?_, fun s hact hdef hfree hus => ?_,
    fun s ok hact hdef hfree hus => ?_⟩
  · obtain ⟨hcal, hop, hnew, hcfg, hvault⟩ := s.slotBegin_begins ok
    exact ⟨_, s.flashContent, exec_slotCommit_flash hact ok hdue hus hb, hcal, hop, hnew, hcfg, State.bit_setB _ _ _ _ _ (by decide),
      rfl, rfl, rfl, State.only_commit_vault_same hvault⟩
  · exact ⟨_, exec_flashOpDone_next hact hl hc _, State.opDone_commits hop hnew (.inl (by simp)) (by simp)⟩
  · refine ⟨_, exec_flashOpDone_next hact hl hc _, ?_⟩
    rcases hend with ⟨hok, he⟩ | ⟨he, ht⟩
    · exact State.opDone_commitFails hop hnew (.inl he) (by simp [hok])
    · exact State.opDone_commitFails hop hnew (.inr ht) (by simp [he])
  · obtain ⟨hcal, hslot, hltc⟩ := s.commitTaken.commitSlot_vault_ok
    refine ⟨_, s.commitTaken.vaultContent, exec_slotCommit_vault hact true hdue hus hfree, ?_⟩
    rw [State.only_commit_cal, hcal]
    exact ⟨rfl, rfl, rfl, rfl, hslot, hltc⟩
  · obtain ⟨hcal, hevent, hltc⟩ := s.commitTaken.commitSlot_vault_failed
    refine ⟨_, exec_slotCommit_vault hact false hdue hus hfree, ?_⟩
    rw [State.only_commit_cal, hcal]
    exact ⟨rfl, rfl, hevent, hltc⟩
  · exact ⟨_, exec_slotCommit_defers hact ok hdue hus hfree, s.commitDeferred.calStatus_cal,
      State.only_commit_vault_same s.commitDeferred.calStatus_vault⟩
  · obtain ⟨hcal, hslot, hltc⟩ := s.deferEnded.commitSlot_vault_ok
    refine ⟨_, s.deferEnded.vaultContent, exec_vaultCommitDeferEnd_vault hact true hdef hfree hus, ?_⟩
    rw [State.only_commit_cal, State.calStatus_cal, State.only_commit_vault, State.keep, State.calStatus_vault, hcal]
    exact ⟨rfl, rfl, rfl, hslot, hltc⟩
  · exact ⟨_, exec_vaultCommitDeferEnd_flash hact ok hdef hfree hus, s.commitDueAgain.calStatus_cal,
      State.only_commit_vault_same s.commitDueAgain.calStatus_vault⟩

end Sys2Proof.Machine
end

