-- ==== Sys2Proof/Proofs/CalibrationRefutation.lean ====
section
/-! O25. The ramp of an accepted correction has the length in CAL.RAMP at its judging, which a drop in a queue beyond the 64 strikes in
the same master clock 0 (R163, R361). -/
namespace Sys2Proof.Machine

theorem treadStart_cal {s t : State} {cvUp cvDn : Nat} (hact : s.pw.phase = .active) (h : exec (.treadStart cvUp cvDn) s = .next t) :
    t.cal = (s.treadStart cvUp cvDn).cal := by
  rw [exec_treadStart_eq, whenActive_active _ s _ hact] at h
  cases h
  rfl

/-- Channel 0 at 4.000 V, measured without a deviation. -/
def soundMeas : CalMeas := { ch := 0, zero := 0, std := 4000000, stdVal := 0, elems := [], resOfs := 0, resGain := 0 }

/-- A run at the end of its first group, with that measurement to be judged. -/
def soundRun : CalRun :=
  { t := 3, scope := 15, acceptedAny := false, slip := false, slipped := false, dead := false, temps := [], spread := 0, dac := [],
    meas := [soundMeas] }

/-- The run, and a queue 10080 whose new depth, which waits for master clock 0, has no room for its one block. The queue's bit in DROPMAP
would lie 630 words after the first of them: it is bit 0 of CAL.RAMP, which holds its reset value 64. -/
def queue10080Shrinks : State :=
  { State.reset with
    pw := { State.reset.pw with phase := .active }
    tm := { State.reset.tm with tread := 1 }
    cal := { State.reset.cal with run := some soundRun }
    xact := { State.reset.xact with
      depth := [(10080, some 0)]
      depthUse := [(10080, some 1)]
      queues := [(10080, { (default : Queue) with blocks := [{ (default : Block) with bytes := [0] }] })] } }

/-- The block is dropped and noted before the measurement is judged, and the ramp is one tread longer. -/
theorem queue10080_ramp : (look (queue10080Shrinks.treadStart 0 0).cal.chans soundMeas.ch.val).delta.n = 65 := by decide +kernel

/-- Refutes O25: CAL.RAMP is 64 as the tread begins, yet the accepted correction comes in over 65 treads; the clause on an accepted
measurement lacks the premise that every queue whose depth waits (R361) is one of the 64. -/
theorem not_calibrationTreads : ¬ Obligations.CalibrationTreads := by
  intro h
  obtain ⟨_, _, _, _, _, _, _, _, haccept, _⟩ := h
  obtain ⟨t, hnext, hchan, _⟩ := haccept queue10080Shrinks 0 0 soundMeas soundRun _ _ _ _ rfl rfl rfl rfl rfl rfl rfl rfl rfl rfl rfl rfl
    rfl (by decide) (by decide +kernel) (by decide +kernel)
  have hlong : (look t.cal.chans soundMeas.ch.val).delta.n = 65 := by
    rw [treadStart_cal rfl hnext]
    exact queue10080_ramp
  rw [hchan] at hlong
  exact absurd hlong (by decide +kernel)

end Sys2Proof.Machine
end

