-- ==== Sys2Proof/Proofs/ImpedanceLanes.lean ====
section
/-! SUPPORT. The lanes of the impedance engine: the operations that leave its part alone, and the loops over the lanes in which each turn
concerns one of them (R183, R184). -/
namespace Sys2Proof.Machine

/-! ### One turn of a loop -/

/-- In a loop over distinct keys the turn of `a` meets what the other turns keep, and leaves what the other turns keep. -/
theorem forEach_own {α σ : Type} {f : α → σ → σ} {P Q : σ → Prop} {a : α} (before : ∀ b ≠ a, ∀ s, P s → P (f b s))
    (own : ∀ s, P s → Q (f a s)) (after : ∀ b ≠ a, ∀ s, Q s → Q (f b s)) {l : List α} (hl : l.Nodup) (ha : a ∈ l) {s : σ} (h : P s) :
    Q (forEach l f s) := by
  obtain ⟨l₁, l₂, rfl⟩ := List.append_of_mem ha
  have hne₁ : ∀ b ∈ l₁, b ≠ a := fun b hb => (List.nodup_append.mp hl).2.2 b hb a List.mem_cons_self
  have hne₂ : ∀ b ∈ l₂, b ≠ a := fun b hb e => (List.nodup_cons.mp (List.nodup_append.mp hl).2.1).1 (e ▸ hb)
  have hturn : forEach (l₁ ++ a :: l₂) f s = forEach l₂ f (f a (forEach l₁ f s)) := List.foldl_append
  have hmet : P (forEach l₁ f s) := List.foldlRecOn l₁ _ h fun t ht b hb => before b (hne₁ b hb) t ht
  rw [hturn]
  exact List.foldlRecOn l₂ _ (own _ hmet) fun t ht b hb => after b (hne₂ b hb) t ht

/-! ### The engine's part -/

section
variable {s t : State} {c : List Part}

theorem State.only_imp (hc : Part.imp ∈ c) : (s.only t c).imp = t.imp := by simp [State.only, hc]

theorem State.imp_of_without (hc : Part.imp ∉ c) (h : t.without c = s.without c) : t.imp = s.imp := by
  rw [← State.only_of_without h]
  simp [State.only, hc]

end

section
variable (s : State)

theorem State.impStatus_imp : s.impStatus.imp = s.imp := State.imp_of_without (c := []) (by decide) s.impStatus_without

theorem State.excTrim_imp (t : Nat) : (s.excTrim t).imp = s.imp :=
  State.imp_of_without (c := [.bal]) (by decide) (s.excTrim_without (by decide) t)

theorem State.excTrim_reg (t a : Nat) : (s.excTrim t).reg a = s.reg a :=
  State.reg_of_pageWords (s.forEach_pageWords _ _ fun n _ u => u.cutSwitch_pageWords n t) rfl

/-! ### One lane stored -/

theorem State.setLane_lane_self (k : Nat) (x : ImpLane) : look (s.setLane k x).imp.lanes k = x := look_put_self _ _ _

theorem State.setLane_lane_ne {j k : Nat} (h : j ≠ k) (x : ImpLane) : look (s.setLane j x).imp.lanes k = look s.imp.lanes k :=
  look_put_ne _ _ _ _ h.symm

theorem State.laneRuns_of_lane {t : State} {k : Nat} (h : look t.imp.lanes k = look s.imp.lanes k) : t.laneRuns k = s.laneRuns k := by
  rw [State.laneRuns, State.laneRuns, h]

/-! ### GO (R183) -/

/-- The named tread's distance ahead of the present one. -/
def State.startAhead (s : State) : Nat := (s.get2 IMP.STARTSTN0 + 4294967296 - s.tm.stn) % 4294967296

theorem State.startAhead_eq {d : Nat} (hd : d < 4294967296) (hstn : s.tm.stn < 4294967296)
    (h : s.get2 IMP.STARTSTN0 = (s.tm.stn + d) % 4294967296) : s.startAhead = d := by
  rw [State.startAhead, h]
  omega

/-- GO names a tread it cannot start in. -/
def State.goRefused (s : State) : Bool :=
  s.bit IMP.CTRL.STARTAT && !(s.bit TIME.STATUS.STNVALID && decide (2 ≤ s.startAhead ∧ s.startAhead ≤ 65535))

/-- What GO arms a lane for. -/
def State.goMode (s : State) : LaneMode :=
  .armed (if s.bit IMP.CTRL.STARTAT then some (s.get2 IMP.STARTSTN0) else none) s.tm.tread

/-- Lane `k`, if enabled and not running, takes mode `m`. -/
def State.armLane (m : LaneMode) (k : Nat) (s : State) : State :=
  if s.laneEn k && !s.laneRuns k then s.setLane k { look s.imp.lanes k with mode := m } else s

/-- Every enabled lane that does not run takes mode `m`. -/
def State.armLanes (s : State) (m : LaneMode) : State := forEach (List.range 8) (State.armLane m) s

theorem State.impGo_refused (h : s.goRefused = true) : s.impGo = s.evt IMP.EVT.CFGREJ := if_pos h

theorem State.impGo_imp (h : s.goRefused = false) : s.impGo.imp = (s.armLanes s.goMode).imp := by
  have hgo : s.impGo = (s.armLanes s.goMode).impStatus := if_neg (by rw [← State.startAhead, ← State.goRefused, h]; decide)
  rw [hgo, State.impStatus_imp]

theorem State.armLane_img (m : LaneMode) (k : Nat) : (s.armLane m k).imp.img = s.imp.img := by
  rw [State.armLane]
  split <;> rfl

theorem State.armLane_laneEn (m : LaneMode) (j k : Nat) : (s.armLane m j).laneEn k = s.laneEn k := by
  rw [State.armLane]
  split <;> rfl

theorem State.armLane_ne (m : LaneMode) {j k : Nat} (h : j ≠ k) : look (s.armLane m j).imp.lanes k = look s.imp.lanes k := by
  rw [State.armLane]
  split
  · exact s.setLane_lane_ne h _
  · rfl

theorem State.armLane_self (m : LaneMode) (k : Nat) : look (s.armLane m k).imp.lanes k =
    if s.laneEn k && !s.laneRuns k then { look s.imp.lanes k with mode := m } else look s.imp.lanes k := by
  rw [State.armLane]
  split
  · exact s.setLane_lane_self k _
  · rfl

theorem State.armLanes_img (m : LaneMode) : (s.armLanes m).imp.img = s.imp.img :=
  forEach_keeps (fun u : State => u.imp.img) _ _ (fun k _ u => u.armLane_img m k) s

theorem State.armLanes_lane (m : LaneMode) {k : Nat} (hk : k < 8) : look (s.armLanes m).imp.lanes k =
    if s.laneEn k && !s.laneRuns k then { look s.imp.lanes k with mode := m } else look s.imp.lanes k := by
  refine forEach_own (f := State.armLane m) (P := fun u : State => u.laneEn k = s.laneEn k ∧ look u.imp.lanes k = look s.imp.lanes k)
    (Q := fun u : State => look u.imp.lanes k = _) (fun j hj u hu => ?_) (fun u hu => ?_)
    (fun j hj u hu => (u.armLane_ne m hj).trans hu) List.nodup_range (List.mem_range.mpr hk) ⟨rfl, rfl⟩
  · obtain ⟨hen, hlane⟩ := hu
    exact ⟨(u.armLane_laneEn m j k).trans hen, (u.armLane_ne m hj).trans hlane⟩
  · obtain ⟨hen, hlane⟩ := hu
    rw [u.armLane_self, hen, s.laneRuns_of_lane hlane, hlane]

/-! ### STOP (R184) -/

/-- Lane `k`, if it runs, loses its integration; with `stop` it stops. -/
def State.abortLane (stop : Bool) (k : Nat) (s : State) : State :=
  let l := look s.imp.lanes k
  if s.laneRuns k then s.setLane k { l with cur := none, mode := if stop then .idle else .waiting }
  else if stop then s.setLane k { l with mode := .idle } else s

/-- Every running lane loses its integration; with `stop` every lane stops. -/
def State.abortLanes (s : State) (stop : Bool) : State := forEach (List.range 8) (State.abortLane stop) s

theorem State.impAbort_imp (stop : Bool) : (s.impAbort stop).imp = (s.abortLanes stop).imp := by
  rw [State.impAbort, State.impStatus_imp, State.excTrim_imp, apply_ite State.imp, State.evt, State.set_imp, State.inc_imp, ite_self]
  rfl

theorem State.abortLane_img (stop : Bool) (k : Nat) : (s.abortLane stop k).imp.img = s.imp.img := by
  have hset (x : ImpLane) : (s.setLane k x).imp.img = s.imp.img := rfl
  simp only [State.abortLane, apply_ite (fun u : State => u.imp.img), hset, ite_self]

theorem State.abortLane_ne (stop : Bool) {j k : Nat} (h : j ≠ k) : look (s.abortLane stop j).imp.lanes k = look s.imp.lanes k := by
  simp only [State.abortLane, apply_ite (fun u : State => look u.imp.lanes k), State.setLane_lane_ne _ h, ite_self]

theorem State.abortLane_self (k : Nat) : look (s.abortLane true k).imp.lanes k =
    { look s.imp.lanes k with mode := .idle, cur := if s.laneRuns k then none else (look s.imp.lanes k).cur } := by
  rw [State.abortLane]
  split
  · exact s.setLane_lane_self k _
  · exact s.setLane_lane_self k _

theorem State.abortLanes_img (stop : Bool) : (s.abortLanes stop).imp.img = s.imp.img := by
  rw [State.abortLanes]
  exact forEach_keeps (fun u : State => u.imp.img) _ _ (fun k _ u => u.abortLane_img stop k) s

theorem State.abortLanes_lane {k : Nat} (hk : k < 8) : look (s.abortLanes true).imp.lanes k =
    { look s.imp.lanes k with mode := .idle, cur := if s.laneRuns k then none else (look s.imp.lanes k).cur } := by
  rw [State.abortLanes]
  exact forEach_own (P := fun u : State => look u.imp.lanes k = look s.imp.lanes k) (Q := fun u : State => look u.imp.lanes k = _)
    (fun _ hj u hu => (u.abortLane_ne true hj).trans hu) (fun u hu => by rw [u.abortLane_self, s.laneRuns_of_lane hu, hu])
    (fun _ hj u hu => (u.abortLane_ne true hj).trans hu) List.nodup_range (List.mem_range.mpr hk) rfl

end
end Sys2Proof.Machine
end

