-- ==== Sys2Proof/Proofs/ImpedanceCommands.lean ====
section
/-! O28. GO and STOP (R182 to R184), the user offset, the cursor and the image of the impedance window (R202, R209, R210). -/
namespace Sys2Proof.Machine

theorem exec_go_eq (s : State) : exec .go s = whenActive [.imp] s State.impGo := (rfl)
theorem exec_stop_eq (s : State) : exec .stop s = whenActive [.bal, .imp] s fun s => s.impAbort true := (rfl)
theorem exec_impwinCursorAdvance_eq (s : State) : exec .impwinCursorAdvance s = whenActive [] s State.impAdvance := (rfl)
theorem exec_impwinFreeze_eq (on : Bool) (s : State) : exec (.impwinFreeze on) s = whenActive [.imp] s fun s => s.impFreeze on := (rfl)
theorem exec_tofsWrite_eq (v : Word) (s : State) : exec (.tofsWrite v) s = whenActive [.imp] s fun s =>
    if s.guardArmed && s.cfgClass (linear 0x14 0x0C) then s.wlock else s.tofsLoad v := (rfl)

/-! ### GO and STOP -/

section
variable {s : State} (hact : s.pw.phase = .active)
include hact

theorem exec_go_refused (h : s.goRefused = true) : exec .go s = .next (s.evt IMP.EVT.CFGREJ) := by
  rw [exec_go_eq, whenActive_next hact (s.impGo_without (by decide)), State.impGo_refused s h]

theorem exec_go_arms (h : s.goRefused = false) {k : Nat} (hk : k < 8) (hen : s.laneEn k = true) (hrun : s.laneRuns k = false) :
    ∃ t, exec .go s = .next t ∧ (look t.imp.lanes k).mode = s.goMode ∧ (look t.imp.lanes k).seq = (look s.imp.lanes k).seq ∧
      t.imp.img = s.imp.img := by
  refine ⟨_, (exec_go_eq s).trans (whenActive_next hact (s.impGo_without (by decide))), ?_⟩
  rw [State.impGo_imp s h, State.armLanes_img, State.armLanes_lane s _ hk, hen, hrun]
  exact ⟨rfl, rfl, rfl⟩

end

/-! ### TOFS of the cursor's cell -/

section
variable {s : State} (v : Word)

theorem State.cfgClass_tofs (h : s.get IMPWIN.SEL.CLASS = 1) : s.cfgClass (linear 0x14 0x0C) = true := by
  simp [State.cfgClass, h]

theorem State.tofsLoad_offset (h : s.get IMPWIN.SEL.CLASS = 1) (hf : s.imp.frozen = none) : s.tofsLoad v =
    { s with imp := { s.imp with tofs := put s.imp.tofs (s.get IMPWIN.CELL - 1) (some (signed 16 v.toNat)) } } := by
  rw [State.tofsLoad, if_pos h, State.impNewer, hf]
  rfl

theorem State.tofsLoad_refused (h : s.get IMPWIN.SEL.CLASS ≠ 1) : s.tofsLoad v = s.set ⟨0x14, 0x03, 0, 1⟩ 1 := if_neg h

theorem exec_tofsWrite_open (hact : s.pw.phase = .active) (hopen : s.guardArmed = false) :
    exec (.tofsWrite v) s = .next (s.tofsLoad v) := by
  rw [exec_tofsWrite_eq, whenActive_active _ s _ hact, hopen]
  exact congrArg _ (State.only_of_without (s.tofsLoad_without (by decide) v))

theorem exec_tofsWrite_locked (hact : s.pw.phase = .active) (harm : s.guardArmed = true) (h : s.get IMPWIN.SEL.CLASS = 1) :
    exec (.tofsWrite v) s = .next s.wlock := by
  rw [exec_tofsWrite_eq, whenActive_active _ s _ hact, harm, State.cfgClass_tofs h]
  exact congrArg _ (State.only_of_without (s.evt_without _ _))

end

/-! ### The cursor -/

theorem nextIn_eq (l : List Nat) (c : Nat) : nextIn l c = (l.find? fun x => decide (c < x)).getD (l.headD c) := by
  rw [← List.head?_filter, nextIn]
  cases l.filter fun x => decide (c < x) <;> rfl

theorem nextIn_range_succ {n c : Nat} (h : c + 1 < n) : nextIn (List.range n) c = c + 1 := by
  have hfind : (List.range n).find? (fun x => decide (c < x)) = some (c + 1) := by
    rw [List.find?_range_eq_some]
    exact ⟨by simp, List.mem_range.mpr h, fun j hj => by simp; omega⟩
  rw [nextIn_eq, hfind, Option.getD_some]

theorem nextIn_range_wraps {n c : Nat} (hn : 0 < n) (h : n ≤ c + 1) : nextIn (List.range n) c = 0 := by
  have hfind : (List.range n).find? (fun x => decide (c < x)) = none := by
    simp only [List.find?_eq_none, List.mem_range, decide_eq_true_eq]
    omega
  obtain ⟨m, rfl⟩ := Nat.exists_eq_succ_of_ne_zero hn.ne'
  rw [nextIn_eq, hfind, List.range_succ_eq_map]
  rfl

section
variable {s : State} (l : List Nat)

/-- The cursor's word with the next cell of the list. -/
def State.cursorTo (s : State) (l : List Nat) : State := s.set IMPWIN.CELL (nextIn l (s.get IMPWIN.CELL - 1) + 1)

theorem State.cursorTo_reg {a : Nat} (h : a ≠ IMPWIN.CELL.addr) : (s.cursorTo l).reg a = s.reg a := State.reg_set_ne _ _ _ _ h

theorem State.cursorTo_cell : (s.cursorTo l).get IMPWIN.CELL = (nextIn l (s.get IMPWIN.CELL - 1) + 1) % 2 ^ IMPWIN.CELL.w :=
  s.get_set _ _ rfl

theorem exec_cursor_cellmap (hact : s.pw.phase = .active) (h : s.get IMPWIN.SEL.CLASS = 0) : exec .impwinCursorAdvance s =
    .next (s.cursorTo ((List.range 36).filter fun c => s.vbit IMP.CELLMAP0 c)) := by
  have hgo : s.impAdvance = s.cursorTo ((List.range 36).filter fun c => s.vbit IMP.CELLMAP0 c) := by
    rw [State.impAdvance, if_pos h, State.cursorTo]
  rw [exec_impwinCursorAdvance_eq, whenActive_next hact (s.set_without [] _ _), hgo]

theorem exec_cursor_count (hact : s.pw.phase = .active) (h : s.get IMPWIN.SEL.CLASS ≠ 0) : exec .impwinCursorAdvance s =
    .next (s.cursorTo (List.range s.count)) := by
  have hgo : s.impAdvance = s.cursorTo (List.range s.count) := by
    rw [State.impAdvance, if_neg h, State.cursorTo]
  rw [exec_impwinCursorAdvance_eq, whenActive_next hact (s.set_without [] _ _), hgo]

end

/-- Settles O28: a lane by its own turn of the loop over the lanes (`State.armLanes_lane`, `State.abortLanes_lane`), the cursor by the
next cell of its list. -/
theorem impedanceCommands : Obligations.ImpedanceCommands := by
  refine ⟨fun s k hact hat hk hen hrun => ?_, fun s k hact hat hk hno => ?_, fun s hact hat hval => ?_,
    fun s d hact hat hd hfar hstn hname => ?_, fun s k d hact hat hval hlo hhi hstn hname hk hen hrun => ?_, fun s k hact hk => ?_,
    fun s v hact hcls hopen hfrz => ?_, fun s v hact hcls harm => exec_tofsWrite_locked v hact harm hcls,
    fun s v hact hcls hopen => ?_, fun s hact hcls => ?_, fun s hact hcls hcnt => ?_, fun s hact hfrz => ?_, fun s hact => ?_⟩
  · have hmode : s.goMode = .armed none s.tm.tread := by simp [State.goMode, hat]
    rw [← hmode]
    exact exec_go_arms hact (by simp [State.goRefused, hat]) hk hen hrun
  · have hkept : (s.laneEn k && !s.laneRuns k) = false := by
      rcases hno with hen | hrun
      · simp [hen]
      · simp [hrun]
    refine ⟨_, (exec_go_eq s).trans (whenActive_next hact (s.impGo_without (by decide))), ?_⟩
    rw [State.impGo_imp s (by simp [State.goRefused, hat]), State.armLanes_lane s _ hk, hkept]
    rfl
  · exact exec_go_refused hact (by simp [State.goRefused, hat, hval])
  · have hahead := s.startAhead_eq hd hstn hname
    have hnear : ¬ (2 ≤ d ∧ d ≤ 65535) := by omega
    exact exec_go_refused hact (by simp only [State.goRefused, hat, hahead, hnear, decide_false, Bool.and_false]; rfl)
  · have hahead := s.startAhead_eq (by omega) hstn hname
    have hmode : s.goMode = .armed (some (s.get2 IMP.STARTSTN0)) s.tm.tread := by simp [State.goMode, hat]
    rw [← hmode]
    exact exec_go_arms hact (by simp [State.goRefused, hat, hval, hahead, hlo, hhi]) hk hen hrun
  · refine ⟨_, (exec_stop_eq s).trans (whenActive_next hact (s.impAbort_without (by decide) (by decide) true)), ?_⟩
    rw [State.impAbort_imp, State.abortLanes_img, State.abortLanes_lane s hk]
    exact ⟨rfl, rfl, rfl⟩
  · rw [exec_tofsWrite_open v hact hopen, State.tofsLoad_offset v hcls hfrz]
  · refine ⟨_, exec_tofsWrite_open v hact hopen, ?_⟩
    rw [State.tofsLoad_refused v hcls]
    exact ⟨rfl, s.get_set _ _ rfl⟩
  · exact ⟨_, exec_cursor_cellmap hact hcls, fun a ha => s.cursorTo_reg _ ha, s.cursorTo_cell _⟩
  · refine ⟨_, exec_cursor_count hact hcls, fun a ha => s.cursorTo_reg _ ha, fun hlo hhi => ?_, fun hlast hpos => ?_⟩
    · rw [State.cursorTo_cell, nextIn_range_succ (by omega), Nat.sub_add_cancel hlo]
      exact Nat.mod_eq_of_lt (show s.get IMPWIN.CELL + 1 < 65536 by omega)
    · rw [State.cursorTo_cell, nextIn_range_wraps hpos (by omega)]
      rfl
  · refine ⟨_, (exec_impwinFreeze_eq true s).trans (whenActive_active _ s _ hact), ?_⟩
    rw [State.only_imp (by decide), State.only_bit, State.impFreeze, if_pos rfl, State.bit_set_ne _ _ _ _ rfl rfl, hfrz]
    exact ⟨rfl, rfl, State.bit_evt _ _ _ _ (by decide)⟩
  · refine ⟨_, (exec_impwinFreeze_eq false s).trans (whenActive_active _ s _ hact), ?_⟩
    rw [State.only_imp (by decide), State.only_bit, State.impFreeze, if_neg (by decide), State.bit_set_ne _ _ _ _ rfl rfl]
    exact ⟨rfl, rfl, State.bit_setB _ _ _ _ false (by decide)⟩

end Sys2Proof.Machine
end

