-- ==== Sys2Proof/Proofs/ImpedanceIntegrations.lean ====
section
/-! O29. The begin of an integration (R181 to R184), its results (R199) and the return of lanes that wait (R184). -/
namespace Sys2Proof.Machine

/-! ### An integration begins -/

section
variable (s : State)

/-- The new integration of a lane whose tone the fine stream carries (R182, R183). -/
theorem State.beginInteg_starts {k : Nat} (h : s.outOfRange k = false) (c : Nat) : ∃ i, (s.beginInteg k c).imp =
    (s.setLane k { look s.imp.lanes k with range := false, mode := .running, cur := some i }).imp ∧
    i.startStn = s.tm.stn ∧ i.samples = [] ∧ i.n = s.laneN k := by
  simp only [State.beginInteg, h, Bool.false_eq_true, if_false, apply_ite State.imp, State.evt, State.set_imp, ite_self]
  exact ⟨_, rfl, rfl, rfl, rfl⟩

/-- A tone out of range leaves the lane armed for the next tread (R181). -/
theorem State.beginInteg_outOfRange {k t : Nat} {o : Option Nat} (h : s.outOfRange k = true)
    (hm : (look s.imp.lanes k).mode = .armed o t) (c : Nat) : (s.beginInteg k c).imp =
    (s.setLane k { look s.imp.lanes k with range := true, mode := .armed none s.tm.tread }).imp := by
  simp only [State.beginInteg, h, if_true, hm, State.excTrim_imp]

theorem State.beginInteg_without {d : List Part} (hb : Part.bal ∈ d) (hi : Part.imp ∈ d) (k c : Nat) :
    (s.beginInteg k c).without d = s.without d := by
  simp only [State.beginInteg, State.ite_without, State.excTrim_without _ hb, State.setLane_without _ hi, State.evt_without, ite_self]

theorem State.beginInteg_ne {j k : Nat} (h : j ≠ k) (c : Nat) : look (s.beginInteg j c).imp.lanes k = look s.imp.lanes k := by
  simp only [State.beginInteg, apply_ite State.imp, State.excTrim_imp, State.evt, State.set_imp, ite_self,
    apply_ite (fun x : Imp => look x.lanes k), State.setLane_lane_ne _ h]

/-! ### The settings of a lane -/

theorem State.beginInteg_reg {a : Nat} (ha : a ≠ IMP.EVT.EXCSUSP.addr) (k c : Nat) : (s.beginInteg k c).reg a = s.reg a := by
  have hlane (x : ImpLane) : (s.setLane k x).reg a = s.reg a := rfl
  simp only [State.beginInteg, apply_ite (fun u : State => u.reg a), State.excTrim_reg, State.evt, State.reg_set_ne _ _ _ _ ha, hlane, ite_self]

theorem State.beginInteg_laneGet {f : Fld} (hp : f.page = 0x13) (hw : 8 ≤ f.word) (j k c : Nat) :
    (s.beginInteg j c).get (laneFld f k) = s.get (laneFld f k) := by
  have haddr : (laneFld f k).addr ≠ IMP.EVT.EXCSUSP.addr := by
    simp only [laneFld, Fld.plus, Fld.addr, linear, hp]
    omega
  rw [State.get, State.get, s.beginInteg_reg haddr]

theorem State.beginInteg_laneEn (j k c : Nat) : (s.beginInteg j c).laneEn k = s.laneEn k := by
  rw [State.laneEn, State.laneEn, State.bit, State.bit, s.beginInteg_laneGet rfl (by decide)]

theorem State.beginInteg_outOfRange_eq (j k c : Nat) : (s.beginInteg j c).outOfRange k = s.outOfRange k := by
  have hheld : (s.beginInteg j c).held = s.held :=
    State.held_of_without (c := [.bal, .imp]) (by decide) (s.beginInteg_without (by decide) (by decide) j c)
  have hosr : (s.beginInteg j c).used CELLCFG.FINE.OSR = s.used CELLCFG.FINE.OSR := by
    rw [State.used, State.used, State.useReg, State.useReg, hheld, s.beginInteg_reg (by decide)]
  have hn : (s.beginInteg j c).laneN k = s.laneN k := by
    rw [State.laneN, State.laneN, s.beginInteg_laneGet rfl (by decide), s.beginInteg_laneGet rfl (by decide)]
  rw [State.outOfRange, State.outOfRange, hosr, hn]

/-! ### The start of one lane, and the return of those that wait -/

theorem State.integStart_imp {k : Nat} (hdue : s.startDue k = true) (hen : s.laneEn k = true) :
    ∃ c, (s.integStart k).imp = (s.beginInteg k c).imp := by
  have hgo : s.integStart k = s.integBegin k := if_neg (by simp [hdue, hen])
  exact ⟨_, by rw [hgo, State.integBegin, State.impStatus_imp]⟩

/-- A lane that waits begins again if it is enabled. -/
def State.resumeLane (k : Nat) (s : State) : State :=
  match (look s.imp.lanes k).mode with
  | .waiting => if s.laneEn k then s.beginInteg k (s.absClk 0) else s
  | _ => s

theorem State.resumeLane_cases (j : Nat) : s.resumeLane j = s ∨ s.resumeLane j = s.beginInteg j (s.absClk 0) := by
  unfold State.resumeLane
  split
  · split
    · exact .inr rfl
    · exact .inl rfl
  · exact .inl rfl

/-- A lane that waits, enabled and with a tone in range, will begin. -/
def State.Resumes (s : State) (k : Nat) : Prop :=
  (look s.imp.lanes k).mode = .waiting ∧ s.laneEn k = true ∧ s.outOfRange k = false

theorem State.resumeLane_resumes {j k : Nat} (hj : j ≠ k) (h : s.Resumes k) : (s.resumeLane j).Resumes k := by
  rcases s.resumeLane_cases j with he | he
  · rwa [he]
  · rwa [he, State.Resumes, s.beginInteg_ne hj, s.beginInteg_laneEn, s.beginInteg_outOfRange_eq]

theorem State.resumeLane_runs {k : Nat} (h : s.Resumes k) : (look (s.resumeLane k).imp.lanes k).mode = .running := by
  obtain ⟨hwait, hen, hrange⟩ := h
  obtain ⟨i, himp, -⟩ := s.beginInteg_starts hrange (s.absClk 0)
  have hgo : s.resumeLane k = s.beginInteg k (s.absClk 0) := by simp only [State.resumeLane, hwait, hen, if_true]
  rw [hgo, himp, State.setLane_lane_self]

theorem State.resumeLane_running {j k : Nat} (hj : j ≠ k) (h : (look s.imp.lanes k).mode = .running) :
    (look (s.resumeLane j).imp.lanes k).mode = .running := by
  rcases s.resumeLane_cases j with he | he
  · rwa [he]
  · rwa [he, s.beginInteg_ne hj]

theorem State.impResume_runs {k : Nat} (hstn : s.tm.stn % 1024 = 0) (hval : s.bit CELLCFG.STATUS.FINEVALID = true) (hk : k < 8)
    (h : s.Resumes k) : (look s.impResume.imp.lanes k).mode = .running := by
  have hgo : s.impResume = (forEach (List.range 8) State.resumeLane s).impStatus := if_pos ⟨hstn, hval⟩
  rw [hgo, State.impStatus_imp]
  exact forEach_own (P := fun u : State => u.Resumes k) (Q := fun u : State => (look u.imp.lanes k).mode = .running)
    (fun _ hj u hu => u.resumeLane_resumes hj hu) (fun u hu => u.resumeLane_runs hu) (fun _ hj u hu => u.resumeLane_running hj hu)
    List.nodup_range (List.mem_range.mpr hk) h

end

/-! ### Results -/

/-- The lanes, the newest records and the sequence numbers. -/
def State.resultTables (s : State) : SMap ImpLane × SMap ImpRec × SMap Nat := (s.imp.lanes, s.imp.img.recs, s.imp.img.seqs)

section
variable (s : State)

theorem State.resultTables_of_without {s t : State} {c : List Part} (hc : Part.imp ∉ c) (h : t.without c = s.without c) :
    t.resultTables = s.resultTables := by
  rw [State.resultTables, State.resultTables, State.imp_of_without hc h]

theorem State.evt_resultTables (f : Fld) : (s.evt f).resultTables = s.resultTables := (rfl)

theorem State.tempUpdate_resultTables (c : Nat) (r : ImpRec) (q : Nat) : (s.tempUpdate c r q).resultTables = s.resultTables := by
  rw [State.tempUpdate]
  split <;> rfl

theorem State.trendCount_resultTables (c : Nat) (r : ImpRec) : (s.trendCount c r).resultTables = s.resultTables := by
  rw [State.trendCount]
  split <;> rfl

theorem State.fault28_without (c : List Part) : s.fault28.without c = s.without c := by
  simp only [State.fault28, State.setB_without, State.cond_without]
  exact State.forEach_without c _ _ (fun _ _ _ => by simp only [State.ite_without, State.setV_without, ite_self]) s

theorem State.excCheck_without (i : Integ) (c : List Part) : (s.excCheck i).without c = s.without c := by
  simp only [State.excCheck, State.ite_without, State.fault28_without]
  rw [State.forEach_without c _ _ (fun _ _ u => u.setV_without c _ _ _) s, ite_self]

theorem State.cohNote_resultTables (k : Nat) (l : List (Nat × ImpRec)) : (s.cohNote k l).resultTables = s.resultTables := (rfl)

theorem State.cohUpdate_without (c : List Part) : s.cohUpdate.without c = s.without c := by
  simp only [State.cohUpdate, State.setB_without, State.cond_without]
  exact State.forEach_without c _ _ (fun _ _ u => u.setV_without c _ _ _) s

theorem State.suspect_without {c : List Part} (h : Part.diag ∈ c) (n : Nat) : (s.suspect n).without c = s.without c := by
  simp only [State.suspect, State.ite_without, State.withDiag_without _ h, State.evt_without, State.setV_without, ite_self]

theorem State.zCheck_without {c : List Part} (h : Part.diag ∈ c) (l : List (Nat × ImpRec)) : (s.zCheck l).without c = s.without c := by
  simp only [State.zCheck, State.ite_without]
  rw [State.forEach_without c _ _ (fun _ _ u => by simp only [State.ite_without, State.suspect_without _ h, ite_self]) s, ite_self]

/-- Integration `i` of lane `k` taken from those that wait, its results the newest under the next sequence number. -/
def State.resultsTaken (s : State) (k : Nat) (i : Integ) (l : List Integ) : State :=
  let seq := ((look s.imp.lanes k).seq + 1) % 4294967296
  let t := s.setLane k { look s.imp.lanes k with fin := l, seq := seq }
  { t with imp := { t.imp with img := { t.imp.img with
    recs := (i.cells.map fun c => (c, s.impCell i c)).foldl (fun m r => put m (k * 64 + r.1) r.2) t.imp.img.recs
    seqs := put t.imp.img.seqs k seq } } }

theorem State.resultsTaken_lane (k : Nat) (i : Integ) (l : List Integ) : look (s.resultsTaken k i l).imp.lanes k =
    { look s.imp.lanes k with fin := l, seq := ((look s.imp.lanes k).seq + 1) % 4294967296 } := s.setLane_lane_self k _

theorem State.resultsTaken_seq (k : Nat) (i : Integ) (l : List Integ) :
    look (s.resultsTaken k i l).imp.img.seqs k = ((look s.imp.lanes k).seq + 1) % 4294967296 := look_put_self _ _ _

theorem State.resultsTaken_rec (k : Nat) (i : Integ) (l : List Integ) {c : Nat} (hc : c ∈ i.cells) :
    look (s.resultsTaken k i l).imp.img.recs (k * 64 + c) = s.impCell i c := by
  have hfill : (i.cells.map fun c => (c, s.impCell i c)).foldl (fun m r => put m (k * 64 + r.1) r.2) s.imp.img.recs =
      (i.cells.map (k * 64 + ·)).foldl (fun m n => put m n (s.impCell i (n - k * 64))) s.imp.img.recs := by
    simp only [List.foldl_map, Nat.add_sub_cancel_left]
  have hrecs : (s.resultsTaken k i l).imp.img.recs = _ := hfill
  rw [hrecs, look_foldl_put, if_pos (List.mem_map_of_mem hc), Nat.add_sub_cancel_left]

variable {s}

theorem State.impResults_tables {k : Nat} {i : Integ} {l : List Integ} (hfin : (look s.imp.lanes k).fin = i :: l)
    (hdue : s.resultsDue i = true) : (s.impResults k).resultTables = (s.resultsTaken k i l).resultTables := by
  have htemp (u : State) (rs : List (Nat × ImpRec)) (q : Nat) :
      (forEach rs (fun (r : Nat × ImpRec) (s : State) => s.tempUpdate r.1 r.2 q) u).resultTables = u.resultTables :=
    forEach_keeps State.resultTables _ rs (fun r _ v => v.tempUpdate_resultTables r.1 r.2 q) u
  have htrend (u : State) (rs : List (Nat × ImpRec)) :
      (forEach rs (fun (r : Nat × ImpRec) (s : State) => s.trendCount r.1 r.2) u).resultTables = u.resultTables :=
    forEach_keeps State.resultTables _ rs (fun r _ v => v.trendCount_resultTables r.1 r.2) u
  have hshow (u : State) : u.impNewer.impStatus.resultTables = u.resultTables :=
    State.resultTables_of_without (c := []) (by decide) (u.impNewer.impStatus_without.trans u.impNewer_without)
  have hpost (u : State) (q : Nat) (b : List Byte) : (u.post q b).resultTables = u.resultTables :=
    State.resultTables_of_without (c := [.xact]) (by decide) (u.post_without (by decide) q b)
  have hcoh (u : State) : u.cohUpdate.resultTables = u.resultTables :=
    State.resultTables_of_without (c := []) (by decide) (u.cohUpdate_without [])
  have hexc (u : State) : (u.excCheck i).resultTables = u.resultTables :=
    State.resultTables_of_without (c := []) (by decide) (u.excCheck_without i [])
  simp only [State.impResults, hfin, hdue, Bool.true_eq_false, if_false, hshow, hpost, hcoh, State.cohNote_resultTables, hexc,
    apply_ite State.resultTables, htrend, htemp, State.evt_resultTables, ite_self]
  rfl

variable {k : Fin 8}

theorem exec_impIntegrationStart_eq (k : Fin 8) (s : State) : exec (.impIntegrationStart k) s =
    whenActive [.cells, .bal, .imp] s fun s => s.integStart k.val := (rfl)
theorem exec_impResults_eq (k : Fin 8) (s : State) : exec (.impResults k) s = execImpResults k s := (rfl)
theorem exec_impResume_eq (s : State) : exec .impResume s = whenActive [.cells, .bal, .imp] s State.impResume := (rfl)

variable (hact : s.pw.phase = .active)
include hact

theorem exec_impIntegrationStart_imp (hdue : s.startDue k.val = true) (hen : s.laneEn k.val = true) :
    ∃ t c, exec (.impIntegrationStart k) s = .next t ∧ t.imp = (s.beginInteg k.val c).imp := by
  obtain ⟨c, himp⟩ := s.integStart_imp hdue hen
  refine ⟨_, c, (exec_impIntegrationStart_eq k s).trans (whenActive_active _ s _ hact), ?_⟩
  rw [State.only_imp (by decide), himp]

theorem exec_impResults_due {i : Integ} {l : List Integ} (hfin : (look s.imp.lanes k.val).fin = i :: l) (hdue : s.resultsDue i = true) :
    ∃ t, exec (.impResults k) s = .next t ∧ t.resultTables = (s.resultsTaken k.val i l).resultTables := by
  have hz (u : State) (rs : List (Nat × ImpRec)) : (u.zCheck rs).resultTables = u.resultTables :=
    State.resultTables_of_without (c := [.diag]) (by decide) (u.zCheck_without (by decide) rs)
  refine ⟨_, (exec_impResults_eq k s).trans (whenActive_active _ s _ hact), ?_⟩
  rw [State.resultTables, State.only_imp (by decide), ← State.resultTables]
  simp only [hfin, List.head?_cons, hdue, if_true]
  rw [hz, State.impResults_tables hfin hdue]

theorem exec_impResults_none (hfin : (look s.imp.lanes k.val).fin = []) : exec (.impResults k) s = .next s := by
  have hnone : s.impResults k.val = s := by simp only [State.impResults, hfin]
  refine (exec_impResults_eq k s).trans (whenActive_same hact ?_)
  simp only [hfin, List.head?_nil, hnone]

end

/-- Settles O29: what `State.beginInteg` makes of a lane, what is taken over with the results (`State.resultsTaken`), and the lane's own
turn where the lanes that wait return. -/
theorem impedanceIntegrations : Obligations.ImpedanceIntegrations := by
  refine ⟨fun s k hact hdue hen hrange => ?_, fun s k i l hact hfin hdue => ?_, fun s k t0 hact hmode hpast hen hrange => ?_,
    fun s k hact hfin => exec_impResults_none hact hfin, fun s k hact hstn hval hk hwait hen hrange => ?_⟩
  · obtain ⟨t, c, hnext, himp⟩ := exec_impIntegrationStart_imp hact hdue hen
    obtain ⟨i, hbegun, hstart, hsamples, hn⟩ := s.beginInteg_starts hrange c
    refine ⟨t, i, hnext, ?_⟩
    rw [himp, hbegun, State.setLane_lane_self]
    exact ⟨rfl, rfl, hstart, hsamples, hn, rfl⟩
  · obtain ⟨t, hnext, htables⟩ := exec_impResults_due hact hfin hdue
    simp only [State.resultTables, Prod.mk.injEq] at htables
    obtain ⟨hlanes, hrecs, hseqs⟩ := htables
    refine ⟨t, hnext, ?_⟩
    rw [hlanes, hrecs, hseqs, State.resultsTaken_lane, State.resultsTaken_seq]
    exact ⟨rfl, rfl, rfl, fun c hc => s.resultsTaken_rec _ i l hc⟩
  · have hdue : s.startDue k.val = true := by simp [State.startDue, hmode, hpast]
    obtain ⟨t, c, hnext, himp⟩ := exec_impIntegrationStart_imp hact hdue hen
    refine ⟨t, hnext, ?_⟩
    rw [himp, s.beginInteg_outOfRange hrange hmode, State.setLane_lane_self]
    exact ⟨rfl, rfl, rfl, rfl⟩
  · refine ⟨_, (exec_impResume_eq s).trans (whenActive_active _ s _ hact), ?_⟩
    rw [State.only_imp (by decide)]
    exact s.impResume_runs hstn hval hk ⟨hwait, hen, hrange⟩

end Sys2Proof.Machine
end

