-- ==== Sys2Proof/Proofs/BalanceSwitches.lean ====
section
/-! SUPPORT. The balance part of the state: the operations that open or close switches (R212, R217, R220), and those that leave it
alone. -/
namespace Sys2Proof.Machine

/-! ### The balance part left alone -/

section
variable {s t : State} {c : List Part}

theorem State.only_bal (hc : Part.bal ∈ c) : (s.only t c).bal = t.bal := by simp [State.only, hc]

theorem State.bal_of_without (hc : Part.bal ∉ c) (h : t.without c = s.without c) : t.bal = s.bal := by
  rw [← State.only_of_without h]
  simp [State.only, hc]

end

/-! ### Switches opened (R220) -/

/-- The balance part but for which switches conduct, and when they did. -/
def Bal.steady (b : Bal) : Bal := { b with on := [], cut := [], cond := [] }

theorem Bal.phase_of_steady {b c : Bal} (h : c.steady = b.steady) : c.phase = b.phase :=
  show c.steady.phase = b.steady.phase by rw [h]

/-- From `b` to `c` switches were opened, none was closed, and nothing else happened to the balance part. -/
structure Bal.Opens (b c : Bal) : Prop where
  steady : c.steady = b.steady
  on : ∀ n, look b.on n = 0 → look c.on n = 0

theorem Bal.Opens.refl (b : Bal) : b.Opens b := ⟨rfl, fun _ h => h⟩

theorem Bal.Opens.trans {b c d : Bal} (h : b.Opens c) (h' : c.Opens d) : b.Opens d :=
  ⟨h'.steady.trans h.steady, fun n hn => h'.on n (h.on n hn)⟩

theorem State.forEach_opens {α : Type} {f : α → State → State} (h : ∀ (a : α) (u : State), u.bal.Opens (f a u).bal) (l : List α)
    (s : State) : s.bal.Opens (forEach l f s).bal :=
  List.foldlRecOn (motive := fun u : State => s.bal.Opens u.bal) l _ (Bal.Opens.refl s.bal) fun u hu a _ => hu.trans (h a u)

section
variable (s : State)

theorem State.resolveSw_on (t : Nat) : (s.resolveSw t).bal.on = s.bal.on := by
  refine forEach_keeps (fun u : State => u.bal.on) _ _ (fun _ _ _ => ?_) s
  rfl

theorem State.resolveSw_steady (t : Nat) : (s.resolveSw t).bal.steady = s.bal.steady := by
  refine forEach_keeps (fun u : State => u.bal.steady) _ _ (fun _ _ _ => ?_) s
  rfl

theorem State.resolveSw_opens (t : Nat) : s.bal.Opens (s.resolveSw t).bal :=
  ⟨s.resolveSw_steady t, fun n hn => by rwa [s.resolveSw_on t]⟩

/-- Switch `n` opened at clock `t`, the currents of the others not yet established anew. -/
def State.swOpened (s : State) (n t : Nat) : State :=
  { s with bal := { s.bal with
    on := put s.bal.on n 0
    cut := put s.bal.cut n true
    cond := adj s.bal.cond n fun l => l.map fun c => if t < c.b then { c with b := max c.a t } else c } }

theorem State.cutSwitch_eq (n t : Nat) : s.cutSwitch n t = if look s.bal.on n = 0 then s else (s.swOpened n t).resolveSw t := (rfl)

theorem State.swOpened_on (n t m : Nat) : look (s.swOpened n t).bal.on m = if m = n then 0 else look s.bal.on m :=
  look_put s.bal.on n m 0

theorem State.swOpened_opens (n t : Nat) : s.bal.Opens (s.swOpened n t).bal :=
  ⟨rfl, fun m hm => by rw [s.swOpened_on, hm, ite_self]⟩

theorem State.cutSwitch_opens (n t : Nat) : s.bal.Opens (s.cutSwitch n t).bal := by
  rw [s.cutSwitch_eq]
  split
  · exact .refl _
  · exact (s.swOpened_opens n t).trans (State.resolveSw_opens _ t)

theorem State.cutSwitch_off (n t : Nat) : look (s.cutSwitch n t).bal.on n = 0 := by
  rw [s.cutSwitch_eq]
  split
  · assumption
  · rw [State.resolveSw_on, s.swOpened_on, if_pos rfl]

theorem State.cutSwitches_opens (l : List Nat) : s.bal.Opens (s.cutSwitches l).bal :=
  State.forEach_opens (fun n u => u.cutSwitch_opens n u.newestClk) l s

/-! ### Switches closed -/

/-- The switches `l` closed from clock `a` to the clock `b` that the state tells, among the conducting switches `k`. -/
def State.closeAllSw (s : State) (k l : List Nat) (why a : Nat) (b : State → Nat) : State :=
  forEach l (fun (n : Nat) (s : State) => s.closeSw k n why a (b s)) s

theorem State.closeAllSw_without {c : List Part} (h : Part.bal ∈ c) (k l : List Nat) (why a : Nat) (b : State → Nat) :
    (s.closeAllSw k l why a b).without c = s.without c :=
  State.forEach_without c _ _ (fun _ _ u => u.withBal_without h _) s

theorem State.closeAllSw_steady (k l : List Nat) (why a : Nat) (b : State → Nat) : (s.closeAllSw k l why a b).bal.steady = s.bal.steady := by
  refine forEach_keeps (fun u : State => u.bal.steady) _ l (fun _ _ _ => ?_) s
  rfl

theorem State.closeAllSw_on (k l : List Nat) (why a : Nat) (b : State → Nat) (n : Nat) :
    look (s.closeAllSw k l why a b).bal.on n = if n ∈ l then why else look s.bal.on n := by
  have hon (u : State) : (u.closeAllSw k l why a b).bal.on = l.foldl (fun m n => put m n why) u.bal.on := by
    induction l generalizing u with
    | nil => rfl
    | cons m l ih => exact ih (u.closeSw k m why a (b u))
  rw [hon, look_foldl_put]

/-! ### Candidates taken (R213, R217) -/

theorem State.mem_of_takeCands {l k p : List Nat} {m : Nat} (h : m ∈ (s.takeCands l k p).1) : m ∈ k ∨ m ∈ l := by
  induction l generalizing k p with
  | nil => exact .inl h
  | cons n l ih =>
    unfold State.takeCands at h
    split at h
    · rcases ih h with hk | hl
      · rcases List.mem_append.mp hk with hk | hn
        · exact .inl hk
        · exact .inr (List.mem_singleton.mp hn ▸ List.mem_cons_self)
      · exact .inr (List.mem_cons_of_mem n hl)
    · exact (ih h).imp_right (List.mem_cons_of_mem n)

/-! ### Flags of an integration (R197, R208) -/

theorem State.markInteg_without {c : List Part} (h : Part.imp ∈ c) (n : Nat) (susp : Bool) :
    (s.markInteg n susp).without c = s.without c := by
  rw [State.markInteg, State.forEach_without c _ _ (fun k _ u => ?_), State.ite_without, State.evt_without, ite_self]
  cases hcur : (look u.imp.lanes k).cur <;> simp only [hcur, State.ite_without, State.setLane_without _ h, ite_self]

theorem State.markIntegs_without {c : List Part} (h : Part.imp ∈ c) (l : List Nat) :
    (forEach l (fun (n : Nat) (s : State) => s.markInteg (n - 1) true) s).without c = s.without c :=
  State.forEach_without c _ _ (fun n _ u => u.markInteg_without h (n - 1) true) s

end

end Sys2Proof.Machine
end

