-- ==== Sys2Proof/Proofs/BalanceStatus.lean ====
section
/-! SUPPORT. The words and conditions that show how balancing stands (R222, R225, R229, R232), and the duty words (R215, R218). -/
namespace Sys2Proof.Machine

section
variable (s : State)

theorem State.get_of_reg {s t : State} {f : Fld} (h : t.reg f.addr = s.reg f.addr) : t.get f = s.get f := by
  rw [State.get, State.get, h]

theorem State.bit_of_reg {s t : State} {f : Fld} (h : t.reg f.addr = s.reg f.addr) : t.bit f = s.bit f := by
  rw [State.bit, State.bit, State.get_of_reg h]

theorem State.reg_setB_ne {f : Fld} (b : Bool) {a : Nat} (h : a ≠ f.addr) : (s.setB f b).reg a = s.reg a := s.reg_set_ne f _ a h

theorem State.reg_evt_ne {f : Fld} {a : Nat} (h : a ≠ f.addr) : (s.evt f).reg a = s.reg a := s.reg_set_ne f 1 a h

theorem State.withBal_reg (x : Bal) (a : Nat) : ({ s with bal := x } : State).reg a = s.reg a := (rfl)

/-- A bit of a vector reads what was stored there. -/
theorem State.vbit_setV (f : Fld) (i : Nat) (b : Bool) : (s.setV f i b).vbit f i = b :=
  s.bit_setB f.page (f.word + i / 16) (i % 16) b (Nat.mod_lt i (by decide))

/-! ### Derating and status -/

theorem State.derateJudge_without (c : List Part) : s.derateJudge.without c = s.without c := by
  simp only [State.derateJudge, State.setB_without, State.cond_without]

theorem State.derateJudge_reg {a : Nat} (h : a ≠ BAL.STATUS.DERATING.addr) : s.derateJudge.reg a = s.reg a := by
  rw [State.derateJudge, State.reg_setB_ne (f := BAL.STATUS.THERMSTOP) _ _ h, State.reg_setB_ne _ _ h, State.cond_reg,
    State.cond_reg]

theorem State.derateJudge_holds {i : Nat} (h20 : i ≠ 20) (h21 : i ≠ 21) : s.derateJudge.holds i = s.holds i := by
  have hcond (f g : Fld) (b d : Bool) (u : State) : ((u.setB f b).setB g d).holds i = u.holds i := rfl
  rw [State.derateJudge, hcond, State.holds_cond _ _ _ _ (by decide), if_neg h21, State.holds_cond _ _ _ _ (by decide), if_neg h20]

theorem State.balStatus_reg {a : Nat} (h : a ≠ BAL.STATUS.DERATING.addr) : s.balStatus.reg a = s.reg a := by
  rw [State.balStatus, State.reg_setB_ne (f := BAL.STATUS.LEARNED) _ _ h, State.reg_setB_ne (f := BAL.STATUS.WLIVE) _ _ h,
    State.cond_reg, State.reg_setB_ne (f := BAL.STATUS.SWLIVE) _ _ h, State.cond_reg]

theorem State.balStatus_fault22 : s.balStatus.holds 22 = s.anyV BAL.SWFAIL0 36 := by
  have hcond (f : Fld) (b : Bool) (u : State) : (u.setB f b).holds 22 = u.holds 22 := rfl
  rw [State.balStatus, hcond, hcond, State.holds_cond _ _ _ _ (by decide), if_neg (by decide), hcond,
    State.holds_cond _ _ _ _ (by decide), if_pos rfl]

theorem State.balStatus_learned : s.balStatus.bit BAL.STATUS.LEARNED =
    ((List.range s.count).filter (fun n => decide (1 ≤ n))).all (fun n => (look s.bal.rw n).isSome) := State.bit_setB _ _ _ _ _ (by decide)

theorem State.balStatus_bal : s.balStatus.bal = s.bal := State.bal_of_without (c := []) (by decide) s.balStatus_without

theorem State.derateJudge_bal : s.derateJudge.bal = s.bal := State.bal_of_without (c := []) (by decide) (s.derateJudge_without [])

theorem State.anyV_of_vbit {f : Fld} {i n : Nat} (hi : i < n) (h : s.vbit f i = true) : s.anyV f n = true :=
  List.any_eq_true.mpr ⟨i, List.mem_range.mpr hi, h⟩

/-! ### Duty words -/

@[simp] theorem dutyFld_addr (n lo w : Nat) : (dutyFld n lo w).addr = 0x488 + n := by simp [dutyFld, Fld.addr, linear]; omega

/-- The duty words lie above the header words of their page. -/
theorem dutyFld_addr_ne (n lo w : Nat) {f : Fld} (h : f.addr < 0x488) : (dutyFld n lo w).addr ≠ f.addr := by
  rw [dutyFld_addr]
  omega

theorem dutyFld_apart (n lo w lo' w' : Nat) (h : lo' + w' ≤ lo ∨ lo + w ≤ lo') : (dutyFld n lo w).apart (dutyFld n lo' w') = true := by
  simp [Fld.apart, dutyFld, h]

end
end Sys2Proof.Machine
end

