-- ==== Sys2Proof/Proofs/BalanceCommands.lean ====
section
/-! O32. Writes of duty words, the ends of modes, failed switches, learning and the edges of the excitation (R194, R195, R218, R219, R225,
R227 to R229). -/
namespace Sys2Proof.Machine

section
variable {s : State}

theorem State.vbit_of_reg {t : State} {f : Fld} {i : Nat} (h : t.reg (linear f.page (f.word + i / 16)) = s.reg (linear f.page (f.word + i / 16))) :
    t.vbit f i = s.vbit f i := State.bit_of_reg h

/-! ### A write of a duty word (R218) -/

section
variable (s) (n : Nat) (v : Word)

/-- The requests for the next tread after a write of switch `n`'s duty word. -/
def State.dutyPend : SMap Nat :=
  if fieldOf v 8 2 = 0 then put s.bal.pend n 2
  else if s.dutyRun n && decide (fieldOf v 8 2 = s.get (dutyFld n 8 2)) then s.bal.pend
  else put s.bal.pend n 1

/-- Switch `n`'s duty word with the low ten bits of `v`, the old word still in use. -/
def State.dutyHeld : State := s.holdReg (dutyFld n 0 16).addr (withField (s.reg (dutyFld n 0 16).addr) 0 10 (v.toNat % 1024))

/-- The state with other requests for the next tread. -/
def State.withPend (s : State) (m : SMap Nat) : State := { s with bal := { s.bal with pend := m } }

theorem State.dutySet_eq : s.dutySet n v = (s.dutyHeld n v).withPend (s.dutyPend n v) := by
  rw [State.dutyPend, apply_ite (s.dutyHeld n v).withPend, apply_ite (s.dutyHeld n v).withPend]
  rfl

theorem State.dutyHeld_reg (a : Nat) : (s.dutyHeld n v).reg a = if a = (dutyFld n 0 16).addr then
    withField (s.reg (dutyFld n 0 16).addr) 0 10 (v.toNat % 1024) else s.reg a := s.reg_holdReg _ _ _

theorem State.dutyHeld_low : (s.dutyHeld n v).get (dutyFld n 0 10) = v.toNat % 1024 := by
  have hreg : (s.dutyHeld n v).reg (dutyFld n 0 10).addr = _ := (s.dutyHeld_reg n v _).trans (if_pos rfl)
  rw [State.get, hreg]
  exact (fieldOf_withField _ 0 10 _ (by decide)).trans (Nat.mod_mod _ _)

theorem State.dutyHeld_high : (s.dutyHeld n v).get (dutyFld n 10 6) = s.get (dutyFld n 10 6) := by
  have hreg : (s.dutyHeld n v).reg (dutyFld n 10 6).addr = _ := (s.dutyHeld_reg n v _).trans (if_pos rfl)
  rw [State.get, hreg]
  exact fieldOf_withField_ne _ 0 10 _ 10 6 (by decide) (by decide)

theorem State.dutyHeld_used {f : Fld} (hf : f.addr = (dutyFld n 0 16).addr) : (s.dutyHeld n v).used f = s.used f := by
  rw [State.used, State.used, hf, State.dutyHeld, State.useReg_holdReg_self]

theorem State.dutyPend_look : look (s.dutyPend n v) n = (if v.toNat / 256 % 4 = 0 then 2
    else if s.dutyRun n = true ∧ v.toNat / 256 % 4 = s.get (dutyFld n 8 2) then look s.bal.pend n else 1) := by
  have hmode : fieldOf v 8 2 = v.toNat / 256 % 4 := rfl
  simp only [State.dutyPend, hmode, Bool.and_eq_true, decide_eq_true_eq, apply_ite (look · n), look_put_self]

end

/-! ### The end of a mode (R219) -/

section
variable (s) (n : Nat)

/-- The duty word of a cell whose mode has ended, and the event. -/
def State.stopShown (tout : Bool) : State :=
  (((s.set (dutyFld n 10 1) 0).set (dutyFld n 11 1) 1).setB (dutyFld n 13 1) tout).evt BAL.EVT.DONE

/-- The balance part once switch `n` is owed nothing more. -/
def Bal.disowed (b : Bal) (n : Nat) : Bal :=
  { b with eff := put b.eff n 0, owed := put b.owed n 0, owedSum := b.owedSum - look b.owed n }

theorem State.modeStop_due (h : s.stopDue n = true) :
    ∃ tout, s.modeStop n = { s.stopShown n tout with bal := s.bal.disowed n }.derateJudge := ⟨_, if_pos h⟩

variable (tout : Bool)

theorem State.stopShown_reg {a : Nat} (hd : a ≠ (dutyFld n 0 16).addr) (he : a ≠ BAL.EVT.DONE.addr) :
    (s.stopShown n tout).reg a = s.reg a := by
  have hfld (lo w : Nat) : a ≠ (dutyFld n lo w).addr := hd
  rw [State.stopShown, State.reg_evt_ne _ he, State.reg_setB_ne _ _ (hfld _ _), State.reg_set_ne _ _ _ _ (hfld _ _),
    State.reg_set_ne _ _ _ _ (hfld _ _)]

theorem State.stopShown_get (lo w : Nat) : (s.stopShown n tout).get (dutyFld n lo w) =
    (((s.set (dutyFld n 10 1) 0).set (dutyFld n 11 1) 1).setB (dutyFld n 13 1) tout).get (dutyFld n lo w) :=
  State.get_of_reg (State.reg_evt_ne _ (dutyFld_addr_ne n lo w (by decide)))

theorem State.stopShown_run : (s.stopShown n tout).bit (dutyFld n 10 1) = false := by
  rw [State.bit, State.stopShown_get, State.setB, State.get_set_ne _ _ _ _ rfl (dutyFld_apart n 13 1 10 1 (by decide)),
    State.get_set_ne _ _ _ _ rfl (dutyFld_apart n 11 1 10 1 (by decide)), State.get_set _ _ _ rfl]
  rfl

theorem State.stopShown_done : (s.stopShown n tout).bit (dutyFld n 11 1) = true := by
  rw [State.bit, State.stopShown_get, State.setB, State.get_set_ne _ _ _ _ rfl (dutyFld_apart n 13 1 11 1 (by decide)),
    State.get_set _ _ _ rfl]
  rfl

theorem State.stopShown_low : (s.stopShown n tout).get (dutyFld n 0 10) = s.get (dutyFld n 0 10) := by
  rw [State.stopShown_get, State.setB, State.get_set_ne _ _ _ _ rfl (dutyFld_apart n 13 1 0 10 (by decide)),
    State.get_set_ne _ _ _ _ rfl (dutyFld_apart n 11 1 0 10 (by decide)),
    State.get_set_ne _ _ _ _ rfl (dutyFld_apart n 10 1 0 10 (by decide))]

theorem State.modeStop_without {c : List Part} (h : Part.bal ∈ c) : (s.modeStop n).without c = s.without c := by
  simp only [State.modeStop, State.ite_without, State.derateJudge_without, State.withBal_without _ h, State.evt_without,
    State.setB_without, State.set_without, ite_self]

theorem State.modeStop_stops (h : s.stopDue n = true) : (s.modeStop n).bit (dutyFld n 10 1) = false ∧
    (s.modeStop n).bit (dutyFld n 11 1) = true ∧ (s.modeStop n).bit BAL.EVT.DONE = true ∧
    (s.modeStop n).get (dutyFld n 0 10) = s.get (dutyFld n 0 10) ∧
    (∀ a, a ≠ (dutyFld n 0 16).addr → a ≠ BAL.EVT.DONE.addr → a ≠ BAL.STATUS.DERATING.addr → (s.modeStop n).reg a = s.reg a) ∧
    (s.modeStop n).bal = s.bal.disowed n := by
  obtain ⟨tout, hstop⟩ := s.modeStop_due n h
  have hreg {a : Nat} (ha : a ≠ BAL.STATUS.DERATING.addr) : (s.modeStop n).reg a = (s.stopShown n tout).reg a := by
    rw [hstop, State.derateJudge_reg _ ha, State.withBal_reg]
  have hduty (lo w : Nat) : (dutyFld n lo w).addr ≠ BAL.STATUS.DERATING.addr := dutyFld_addr_ne n lo w (by decide)
  refine ⟨?_, ?_, ?_, ?_, fun a hd he hs => (hreg hs).trans (s.stopShown_reg n tout hd he), ?_⟩
  · rw [State.bit_of_reg (hreg (hduty _ _)), State.stopShown_run]
  · rw [State.bit_of_reg (hreg (hduty _ _)), State.stopShown_done]
  · rw [State.bit_of_reg (hreg (by decide))]
    exact State.bit_evt _ _ _ _ (by decide)
  · rw [State.get_of_reg (hreg (hduty _ _)), State.stopShown_low]
  · rw [hstop, State.derateJudge_bal]

end

/-! ### A failed switch (R225) -/

section
variable (s) (n : Nat)

/-- A failed switch shown: its bit, the event, and RUN of its cell clear. -/
def State.failShown : State := ((s.setV BAL.SWFAIL0 (n - 1) true).evt BAL.EVT.SWFAULT).set (dutyFld n 10 1) 0

theorem State.switchFail_bad {k : SwitchFault} (hbad : s.swBad n k = true) (hok : s.vbit BAL.SWFAIL0 (n - 1) = false) :
    s.switchFail n k = ((s.failShown n).cutSwitches [n]).balStatus.derateJudge := if_neg (by simp [hbad, hok])

theorem State.switchFail_without {c : List Part} (h : Part.bal ∈ c) (k : SwitchFault) : (s.switchFail n k).without c = s.without c := by
  simp only [State.switchFail, State.ite_without, State.derateJudge_without, State.balStatus_without, State.cutSwitches_without _ h,
    State.set_without, State.evt_without, State.setV_without, ite_self]

theorem State.cutSwitches_reg (l : List Nat) (a : Nat) : (s.cutSwitches l).reg a = s.reg a :=
  State.reg_of_pageWords (s.forEach_pageWords _ l fun m _ u => u.cutSwitch_pageWords m u.newestClk) rfl

theorem State.failShown_bit (hn : n ≤ 36) : (s.failShown n).vbit BAL.SWFAIL0 (n - 1) = true := by
  have hword : linear 0x12 (0x35 + (n - 1) / 16) ≠ (dutyFld n 10 1).addr ∧ linear 0x12 (0x35 + (n - 1) / 16) ≠ BAL.EVT.SWFAULT.addr := by
    rw [dutyFld_addr]
    simp only [Fld.addr, linear]
    omega
  rw [← s.vbit_setV BAL.SWFAIL0 (n - 1) true]
  exact State.vbit_of_reg ((State.reg_set_ne _ _ _ _ hword.1).trans (State.reg_evt_ne _ hword.2))

theorem State.failShown_event : (s.failShown n).bit BAL.EVT.SWFAULT = true := by
  have hword : BAL.EVT.SWFAULT.addr ≠ (dutyFld n 10 1).addr := (dutyFld_addr_ne n 10 1 (by decide)).symm
  rw [State.failShown, State.bit_of_reg (State.reg_set_ne _ _ _ _ hword)]
  exact State.bit_evt _ _ _ _ (by decide)

theorem State.failShown_run : (s.failShown n).bit (dutyFld n 10 1) = false := by
  rw [State.bit, State.failShown, State.get_set _ _ _ rfl]
  rfl

theorem State.switchFail_fails {k : SwitchFault} (hn : 0 < n) (hle : n ≤ 36) (hbad : s.swBad n k = true) (hok : s.vbit BAL.SWFAIL0 (n - 1) = false) :
    (s.switchFail n k).vbit BAL.SWFAIL0 (n - 1) = true ∧ (s.switchFail n k).bit BAL.EVT.SWFAULT = true ∧
    (s.switchFail n k).holds 22 = true ∧ (s.switchFail n k).bit (dutyFld n 10 1) = false ∧ look (s.switchFail n k).bal.on n = 0 := by
  have hreg {a : Nat} (ha : a ≠ BAL.STATUS.DERATING.addr) : (s.switchFail n k).reg a = (s.failShown n).reg a := by
    rw [s.switchFail_bad n hbad hok, State.derateJudge_reg _ ha, State.balStatus_reg _ ha, State.cutSwitches_reg]
  have hcut : ((s.failShown n).cutSwitches [n]).vbit BAL.SWFAIL0 (n - 1) = true :=
    (State.vbit_of_reg (State.cutSwitches_reg _ _ _)).trans (s.failShown_bit n hle)
  refine ⟨?_, ?_, ?_, ?_, ?_⟩
  · rw [State.vbit_of_reg (hreg (by simp only [Fld.addr, linear]; omega)), s.failShown_bit n hle]
  · rw [State.bit_of_reg (hreg (by decide)), s.failShown_event]
  · rw [s.switchFail_bad n hbad hok, State.derateJudge_holds _ (by decide) (by decide), State.balStatus_fault22]
    exact State.anyV_of_vbit _ (by omega) hcut
  · rw [State.bit_of_reg (hreg (dutyFld_addr_ne n 10 1 (by decide))), s.failShown_run]
  · rw [s.switchFail_bad n hbad hok, State.derateJudge_bal, State.balStatus_bal]
    exact (s.failShown n).cutSwitch_off n _

end

/-! ### Wire resistances (R227, R229) -/

theorem State.relearn_learned : s.relearn.bit BAL.STATUS.LEARNED = decide (s.count ≤ 1) := by
  rw [State.relearn, State.balStatus_learned, Bool.eq_iff_iff]
  simp only [List.all_eq_true, List.mem_filter, List.mem_range, decide_eq_true_eq]
  constructor
  · intro h
    by_contra hc
    have hin : 1 < s.count := by omega
    exact absurd (h 1 ⟨hin, le_refl 1⟩) (by decide)
  · rintro hc n ⟨hlt, hpos⟩
    have : n < s.count := hlt
    omega

section
variable (s) (n : Nat)

/-- The block of tap `n` taken. -/
def State.blockTaken : State := { s with bal := { s.bal with edge := put s.bal.edge n { n := 0, vi := 0, ii := 0 } } }

/-- A block that is discarded. -/
def State.blockDiscarded : State := (((s.blockTaken n).setV BAL.WFAIL0 n true).evt BAL.EVT.WFAULT).balStatus

/-- A block that is accepted, `v` the tap's resistance from then on. -/
def State.blockAccepted (v : Rat) : State :=
  (({ s.blockTaken n with bal := { (s.blockTaken n).bal with rw := put s.bal.rw n (some v) } }).setV BAL.WFAIL0 n false).balStatus

theorem State.learnBlock_without {c : List Part} (h : Part.bal ∈ c) : (s.learnBlock n).without c = s.without c := by
  simp only [State.learnBlock, State.ite_without, State.balStatus_without, State.evt_without, State.setV_without,
    State.withBal_without _ h, ite_self]

variable {n} {r : Rat}

theorem State.learnBlock_full (hfull : 1024 ≤ (look s.bal.edge n).n) (hii : (look s.bal.edge n).ii ≠ 0)
    (hr : r = 100000 * (look s.bal.edge n).vi / (look s.bal.edge n).ii) : s.learnBlock n =
      if r < 0 ∨ ((s.used BAL.RWMAX : Nat) : Rat) < r then s.blockDiscarded n
      else s.blockAccepted n (match look s.bal.rw n with | none => r | some o => o + (r - o) / 4) := by
  subst hr
  exact (if_neg (not_or.mpr ⟨Nat.not_lt.mpr hfull, hii⟩)).trans rfl

theorem State.blockDiscarded_bal : (s.blockDiscarded n).bal = (s.blockTaken n).bal := State.balStatus_bal _

theorem State.blockAccepted_bal (v : Rat) : (s.blockAccepted n v).bal = { (s.blockTaken n).bal with rw := put s.bal.rw n (some v) } :=
  State.balStatus_bal _

theorem State.blockDiscarded_shown (hn : n < 37) : (s.blockDiscarded n).vbit BAL.WFAIL0 n = true ∧
    (s.blockDiscarded n).bit BAL.EVT.WFAULT = true := by
  constructor
  · rw [← (s.blockTaken n).vbit_setV BAL.WFAIL0 n true]
    refine State.vbit_of_reg ((State.balStatus_reg _ ?_).trans (State.reg_evt_ne _ ?_)) <;> simp only [Fld.addr, linear] <;> omega
  · rw [State.blockDiscarded, State.bit_of_reg (State.balStatus_reg _ (by decide))]
    exact State.bit_evt _ _ _ _ (by decide)

theorem State.blockTaken_edge : look (s.blockTaken n).bal.edge n = { n := 0, vi := 0, ii := 0 } := by
  rw [State.blockTaken, look_put_self]

theorem State.learnBlock_edge (hfull : 1024 ≤ (look s.bal.edge n).n) (hii : (look s.bal.edge n).ii ≠ 0) :
    look (s.learnBlock n).bal.edge n = { n := 0, vi := 0, ii := 0 } := by
  rw [s.learnBlock_full hfull hii rfl]
  split
  · rw [State.blockDiscarded_bal, State.blockTaken_edge]
  · rw [State.blockAccepted_bal]
    exact s.blockTaken_edge

theorem State.learnBlock_rw (hfull : 1024 ≤ (look s.bal.edge n).n) (hii : (look s.bal.edge n).ii ≠ 0)
    (hr : r = 100000 * (look s.bal.edge n).vi / (look s.bal.edge n).ii) (h0 : 0 ≤ r) (hmax : r ≤ ((s.used BAL.RWMAX : Nat) : Rat)) :
    look (s.learnBlock n).bal.rw n = some (match look s.bal.rw n with | none => r | some o => o + (r - o) / 4) := by
  rw [s.learnBlock_full hfull hii hr, if_neg (not_or.mpr ⟨not_lt.mpr h0, not_lt.mpr hmax⟩), State.blockAccepted_bal,
    look_put_self]

end

/-! ### Edges of the excitation (R194, R195, R197) -/

section
variable (s) (on : Bool)

/-- The phase `on` taken, and the switches that it turns off opened. -/
def State.phaseOff (t : Nat) : State :=
  let u : State := { s with bal := { s.bal with phase := on } }
  forEach ((List.range 37).filter (fun n => look u.bal.on n == 2 && !u.excWave n)) (fun (n : Nat) (s : State) => s.cutSwitch n t) u

/-- The cells of the excited switches given to excitation for the tread (R223). -/
def State.excGiven : State :=
  { s with bal := { s.bal with given := s.excSwitches.foldl (fun (m : SMap Bool) n => put m n true) s.bal.given } }

/-- The switches that the phase turns on closed, as far as the riser takes them (R197, R217). -/
def State.phaseOn (clk t : Nat) : State :=
  let r := clk / 256
  if r < s.balFirst ∨ s.excOff = true ∨ s.tm.idle = true ∨ (r = 15 ∧ s.learnTread = true) then s
  else
    let k := (List.range 37).filter (fun n => look s.bal.on n != 0)
    let want := s.excSwitches.filter (fun n => s.excWave n && !k.contains n)
    let taken := s.takeCands (want.filter (fun n => !s.balHeld r n && look s.bal.served n == 0)) k
      (want.filter (fun n => !s.balHeld r n && look s.bal.served n != 0))
    (forEach taken.2 (fun (n : Nat) (s : State) => s.markInteg (n - 1) true)
      (s.excGiven.closeAllSw taken.1 (taken.1.filter (fun n => !k.contains n)) 2 t (fun v => v.absClk (256 * (r + 1))))).resolveSw t

theorem State.excEdge_plain (clk : Nat) (h : s.excRuns = false ∨ s.tonePhase (s.absClk clk) ≠ on) : s.excEdge on clk = s := if_pos h

theorem State.excEdge_fits {clk : Nat} (hruns : s.excRuns = true) (hphase : s.tonePhase (s.absClk clk) = on) :
    s.excEdge on clk = (s.phaseOff on (s.absClk clk)).phaseOn clk (s.absClk clk) := by
  have hgo : ¬ (s.excRuns = false ∨ s.tonePhase (s.absClk clk) ≠ on) := by simp [hruns, hphase]
  rw [State.excEdge, if_neg hgo]
  rfl

theorem State.phaseOff_phase (t : Nat) : (s.phaseOff on t).bal.phase = on :=
  Bal.phase_of_steady (State.forEach_opens (fun n u => u.cutSwitch_opens n t) _ { s with bal := { s.bal with phase := on } }).steady

theorem State.phaseOff_off (t : Nat) {n : Nat} (hn : n < 37) (hexc : look s.bal.on n = 2) (hwave : (if n % 2 = 1 then on else !on) = false) :
    look (s.phaseOff on t).bal.on n = 0 := by
  refine forEach_own (P := fun _ => True) (Q := fun u : State => look u.bal.on n = 0) (fun _ _ _ h => h) (fun u _ => u.cutSwitch_off n t)
    (fun m _ u hu => (u.cutSwitch_opens m t).on n hu) (List.nodup_range.filter _) (List.mem_filter.mpr ⟨List.mem_range.mpr hn, ?_⟩) trivial
  simp only [State.excWave, hwave, hexc]
  rfl

/-- A switch that is open and that the phase does not turn on stays open. -/
theorem State.phaseOn_keeps (clk t : Nat) : (s.phaseOn clk t).bal.phase = s.bal.phase ∧
    ∀ n, look s.bal.on n = 0 → s.excWave n = false → look (s.phaseOn clk t).bal.on n = 0 := by
  unfold State.phaseOn
  extract_lets r k want taken
  split
  · exact ⟨rfl, fun n hoff _ => hoff⟩
  · have hmark (v : State) : (forEach taken.2 (fun (n : Nat) (s : State) => s.markInteg (n - 1) true) v).bal = v.bal :=
      State.bal_of_without (c := [.imp]) (by decide) (v.markIntegs_without (by decide) _)
    constructor
    · exact Bal.phase_of_steady (b := s.excGiven.bal) ((State.resolveSw_steady _ t).trans
        ((congrArg Bal.steady (hmark _)).trans (s.excGiven.closeAllSw_steady taken.1 _ 2 t _)))
    · intro n hoff hwave
      have hn : n ∉ taken.1.filter (fun n => !k.contains n) := by
        intro hmem
        obtain ⟨htaken, hout⟩ := List.mem_filter.mp hmem
        rcases s.mem_of_takeCands htaken with hk | hex
        · simp [hk] at hout
        · have hwant := (List.mem_filter.mp (List.mem_of_mem_filter hex)).2
          simp [hwave] at hwant
      rw [State.resolveSw_on, hmark, State.closeAllSw_on, if_neg hn]
      exact hoff

end

/-! ### The commands -/

theorem exec_dutyWrite_eq (c : Cell) (v : Word) (s : State) : exec (.dutyWrite c v) s =
    whenActive [.held, .bal] s fun s => s.dutySet (c.val + 1) v := (rfl)
theorem exec_modeStop_eq (c : Cell) (s : State) : exec (.modeStop c) s = whenActive [.bal] s fun s => s.modeStop (c.val + 1) := (rfl)
theorem exec_switchFail_eq (c : Cell) (k : SwitchFault) (s : State) : exec (.switchFail c k) s =
    whenActive [.bal] s fun s => s.switchFail (c.val + 1) k := (rfl)
theorem exec_stopall_eq (s : State) : exec .stopall s =
    whenActive [.bal] s fun s => { s with bal := { s.bal with stopReq := true } } := (rfl)
theorem exec_balRetest_eq (s : State) : exec .balRetest s =
    whenActive [.bal] s fun s => { s with bal := { s.bal with retestReq := true } } := (rfl)
theorem exec_relearn_eq (s : State) : exec .relearn s = whenActive [.bal] s State.relearn := (rfl)
theorem exec_learnBlock_eq (tap : Tap) (s : State) : exec (.learnBlock tap) s = whenActive [.bal] s fun s => s.learnBlock tap.val := (rfl)
theorem exec_excitationSquareWaveEdge_eq (on : Bool) (clk : Fin 4096) (s : State) : exec (.excitationSquareWaveEdge on clk) s =
    whenActive [.bal, .imp] s fun s => s.excEdge on clk.val := (rfl)

section
variable (hact : s.pw.phase = .active)
include hact

theorem exec_dutyWrite_next (c : Cell) (v : Word) : exec (.dutyWrite c v) s = .next (s.dutySet (c.val + 1) v) :=
  (exec_dutyWrite_eq c v s).trans (whenActive_next hact (s.dutySet_without (by decide) (by decide) _ _))

theorem exec_modeStop_next (c : Cell) : exec (.modeStop c) s = .next (s.modeStop (c.val + 1)) :=
  (exec_modeStop_eq c s).trans (whenActive_next hact (s.modeStop_without _ (by decide)))

theorem exec_switchFail_next (c : Cell) (k : SwitchFault) : exec (.switchFail c k) s = .next (s.switchFail (c.val + 1) k) :=
  (exec_switchFail_eq c k s).trans (whenActive_next hact (s.switchFail_without _ (by decide) k))

theorem exec_learnBlock_next (tap : Tap) : exec (.learnBlock tap) s = .next (s.learnBlock tap.val) :=
  (exec_learnBlock_eq tap s).trans (whenActive_next hact (s.learnBlock_without _ (by decide)))

theorem excitationSquareWaveEdge_fits {on : Bool} {clk : Fin 4096} (hruns : s.excRuns = true) (hphase : s.tonePhase (s.absClk clk.val) = on) :
    ∃ t, exec (.excitationSquareWaveEdge on clk) s = .next t ∧ t.bal.phase = on ∧ t.cells = s.cells ∧ t.tm = s.tm ∧
      ∀ n, n < 37 → look s.bal.on n = 2 → (if n % 2 = 1 then on else !on) = false → look t.bal.on n = 0 := by
  refine ⟨_, (exec_excitationSquareWaveEdge_eq on clk s).trans (whenActive_active _ s _ hact), ?_⟩
  rw [State.only_bal (by decide), s.excEdge_fits on hruns hphase]
  obtain ⟨hkeep, hopen⟩ := (s.phaseOff on (s.absClk clk.val)).phaseOn_keeps clk.val (s.absClk clk.val)
  refine ⟨hkeep.trans (s.phaseOff_phase on _), rfl, rfl, fun n hn hexc hwave => hopen n (s.phaseOff_off on _ hn hexc hwave) ?_⟩
  rw [State.excWave, s.phaseOff_phase on, hwave]

end

end

/-- Settles O32: the equations of duty writes, ended modes and failed switches, of the blocks of edges, and the two halves of an edge of
the excitation (`State.phaseOff`, `State.phaseOn`). -/
theorem balanceCommands : Obligations.BalanceCommands := by
  refine ⟨fun s c v hact => ?_, fun s c hact hdue => ?_, fun s c k hact hbad hok => ?_, fun s c k hact hfail => ?_,
    fun s hact => ⟨?_, ?_⟩, fun s hact => ?_, fun s tap r hact hfull hii hr => ?_,
    fun s on clk hact hruns hphase => excitationSquareWaveEdge_fits hact hruns hphase, fun s on clk hact hout => ?_⟩
  · refine ⟨_, exec_dutyWrite_next hact c v, ?_⟩
    rw [s.dutySet_eq]
    exact ⟨s.dutyHeld_low _ v, s.dutyHeld_high _ v, fun f hf => s.dutyHeld_used _ v hf,
      fun a ha => (s.dutyHeld_reg _ v a).trans (if_neg ha), s.dutyPend_look _ v⟩
  · exact ⟨_, exec_modeStop_next hact c, s.modeStop_stops _ hdue⟩
  · exact ⟨_, exec_switchFail_next hact c k, s.switchFail_fails _ (by omega) (by omega) hbad hok⟩
  · have hsame : s.switchFail (c.val + 1) k = s := if_pos (.inr hfail)
    rw [exec_switchFail_next hact, hsame]
  · exact (exec_stopall_eq s).trans (whenActive_next hact (s.withBal_without (by decide) _))
  · exact (exec_balRetest_eq s).trans (whenActive_next hact (s.withBal_without (by decide) _))
  · exact ⟨_, (exec_relearn_eq s).trans (whenActive_next hact (s.relearn_without (by decide))), State.balStatus_bal _, s.relearn_learned⟩
  · refine ⟨_, exec_learnBlock_next hact tap, s.learnBlock_edge hfull hii, fun h0 hmax hnone => ?_, fun o h0 hmax hold => ?_, fun hout => ?_⟩
    · rw [s.learnBlock_rw hfull hii hr h0 hmax, hnone]
    · rw [s.learnBlock_rw hfull hii hr h0 hmax, hold]
    · rw [s.learnBlock_full hfull hii hr, if_pos hout, State.blockDiscarded_bal]
      exact ⟨rfl, s.blockDiscarded_shown tap.isLt⟩
  · exact (exec_excitationSquareWaveEdge_eq on clk s).trans (whenActive_same hact (s.excEdge_plain on clk.val hout))

end Sys2Proof.Machine
end

