-- ==== Sys2Proof/Proofs/WordsInUse.lean ====
section
/-! SUPPORT. The words in use on one page (R461, R462), and the operations at the end of a group of tap tests that leave them and other
parts alone (R133, R236 to R245). -/
namespace Sys2Proof.Machine

/-- The 64 words in use of a page. -/
def State.usedWords (s : State) (p : Nat) : List Word := (List.range 64).map fun w => s.useReg (linear p w)

section
variable {s t : State} {p : Nat}

theorem State.used_of_usedWords (h : t.usedWords p = s.usedWords p) {f : Fld} (hf : f.addr / 64 = p) : t.used f = s.used f := by
  have hw : linear p (f.addr % 64) = f.addr := by unfold linear; omega
  rw [State.used, State.used, ← hw, List.map_inj_left.mp h (f.addr % 64) (List.mem_range.mpr (Nat.mod_lt _ (by decide)))]

theorem State.usedWords_of (hh : t.held = s.held) (hp : t.pageWords p = s.pageWords p) : t.usedWords p = s.usedWords p :=
  List.map_inj_left.mpr fun w hw => by
    rw [State.useReg, State.useReg, hh, List.map_inj_left.mp hp w hw]

end

/-- A table reads at the keys that a filter keeps what it read before. -/
theorem look_filter_keys {α : Type} [Inhabited α] (P : Nat → Bool) (m : SMap α) {k : Nat} (h : P k = true) :
    look (m.filter fun e => P e.1) k = look m k := by
  induction m with
  | nil => rfl
  | cons e m ih =>
    obtain ⟨a, v⟩ := e
    by_cases ha : a = k
    · subst ha
      simp [look, mapGet, h]
    · cases hP : P a <;> simpa [List.filter_cons, hP, look, mapGet, ha] using ih

section
variable (s : State) {p : Nat}

theorem State.release_usedWords {q : Nat → Bool} (h : ∀ a, a / 64 = p → q a = false) : (s.release q).usedWords p = s.usedWords p :=
  List.map_inj_left.mpr fun w hw => by
    have hkept : (!q (linear p w)) = true := by rw [h _ (linear_div p (List.mem_range.mp hw))]; rfl
    have hheld : look (s.release q).held (linear p w) = look s.held (linear p w) := look_filter_keys (fun a => !q a) s.held hkept
    rw [State.useReg, State.useReg, hheld]
    rfl

/-! ### The order of a pass -/

/-- What the words of its page, its own part, the blocks of its records and the release of its entries leave as it is, a converter
keeps when it takes up the next item (R133 to R135). -/
structure ConvKeeps {β : Type} (c : Conv) (g : State → β) : Prop where
  set : ∀ (s : State) (f : Fld) (v : Nat), f.addr / 64 = c.page → g (s.set f v) = g s
  conv : ∀ (s : State) (x : AuxConv), g (s.setConv c x) = g s
  add : ∀ (s : State) (r : List Byte), g (s.addAux c r) = g s
  release : ∀ (s : State) (q : Nat → Bool), (∀ a, a / 64 ≠ c.page → q a = false) → g (s.release q) = g s

section
variable {β : Type} {c : Conv} {g : State → β} (h : ConvKeeps c g)
include h

theorem ConvKeeps.auxStatus (a b : Bool) : g (s.auxStatus c a b) = g s := by
  have hfld (l : Nat) : (c.fld ⟨0x0D, 2, l, 1⟩).addr / 64 = c.page := c.fld_page (show (2 : Nat) < 64 by decide)
  simp only [State.auxStatus, State.setB, h.set _ _ _ (hfld _)]

theorem ConvKeeps.passBegin (first : Bool) (clk : Nat) : g (s.passBegin c first clk) = g s := by
  refine (h.conv _ _).trans (h.release s _ fun a ha => decide_eq_false fun hq => ha ?_)
  cases c <;> simp [Conv.fld, Conv.page, Fld.addr, linear] at hq ⊢ <;> omega

theorem ConvKeeps.passEnd (clk : Nat) : g (s.passEnd c clk) = g s := by
  have hfld {f : Fld} (hf : f.word < 64) (u : State) (v : Nat) : g (u.set (c.fld f) v) = g u := h.set u _ v (c.fld_page hf)
  unfold State.passEnd
  extract_lets x us cnt t
  have ht : g t = g s := by
    rw [h.conv, State.evt, hfld (f := AUXA.EVT.PASSEND) (by decide), hfld (by decide), hfld (by decide)]
  rw [apply_ite g, h.passBegin, ht, ite_self]

theorem ConvKeeps.setPair {i : Nat} (hi : i < 16) (r : AuxRes) (stale rsm : Bool) :
    g (s.setPair ((c.fld AUXA.RES0A).plus (2 * i)) r stale rsm) = g s := by
  have hfld (k : Nat) (hk : k < 2) : (((c.fld AUXA.RES0A).plus (2 * i)).plus k).addr / 64 = c.page :=
    linear_div _ (show 0x18 + 2 * i + k < 64 by omega)
  rw [State.setPair, h.set _ _ _ (hfld 1 (by decide))]
  exact h.set _ _ _ (hfld 0 (by decide))

theorem ConvKeeps.advance (fuel clk : Nat) : g (State.advance fuel s c clk) = g s := by
  have hentry (u : State) (i : Nat) : g (u.set (c.fld AUXA.STATUS.ENTRY) i) = g u := h.set u _ i (c.fld_page (by decide))
  induction fuel generalizing s with
  | zero => rfl
  | succ fuel ih =>
    unfold State.advance
    extract_lets x u r
    have hu : g u = g s := h.passEnd s clk
    split
    · rw [h.auxStatus, h.conv]
    · split
      · rw [h.auxStatus, h.conv]
      · split
        · rw [apply_ite g, ih, h.auxStatus, hu, ite_self]
        · extract_lets w
          split
          · rw [h.auxStatus, h.conv]
          · split
            case isTrue hi => rw [ih, h.conv, h.add, hentry, h.setPair _ hi.1]
            case isFalse => rw [h.auxStatus, h.conv, apply_ite g, hentry, ite_self]

end

theorem convKeeps_without (c : Conv) : ConvKeeps c (fun s : State => s.without [.held, .xact, .aux]) where
  set _ _ _ _ := rfl
  conv s x := s.setConv_without (by decide) c x
  add s r := s.addAux_without c r (by decide) (by decide)
  release s _ _ := s.withHeld_without (by decide) _

theorem convKeeps_usedWords {c : Conv} (hc : c.page ≠ p) (hq : 0x06 ≠ p) : ConvKeeps c (fun s : State => s.usedWords p) where
  set s f v hf := State.usedWords_of rfl (s.set_pageWords (hf ▸ hc) v)
  conv s x := State.usedWords_of (State.held_of_without (c := [.aux]) (by decide) (s.setConv_without (by decide) c x)) (s.setConv_pageWords c x p)
  add s r := State.usedWords_of (State.held_of_without (c := [.xact, .aux]) (by decide) (s.addAux_without c r (by decide) (by decide)))
    (s.addAux_pageWords c r hq)
  release s q hq := s.release_usedWords fun a ha => hq a (ha ▸ hc.symm)

/-! ### Tap tests judged (R237 to R245) -/

theorem State.diagStatus_without (c : List Part) : s.diagStatus.without c = s.without c := by
  simp only [State.diagStatus, State.setB_without, State.cond_without]

theorem State.pinUpdate_without (n : Nat) (c : List Part) : (s.pinUpdate n).without c = s.without c := by
  simp only [State.pinUpdate, State.ite_without, State.diagStatus_without, State.evt_without, State.setV_without, ite_self]

section
variable {c : List Part} (hd : Part.diag ∈ c)
include hd

theorem State.pinObserve_without (n : Nat) (d : Int) : (s.pinObserve n d).without c = s.without c := by
  simp only [State.pinObserve, State.ite_without, State.pinUpdate_without, State.withDiag_without _ hd, ite_self]

theorem State.tapObserve_without (n : Nat) : (s.tapObserve n).without c = s.without c := by
  simp only [State.tapObserve, State.ite_without, State.pinObserve_without _ hd, ite_self]

theorem State.tapClassify_without (n k : Nat) : (s.tapClassify n k).without c = s.without c := by
  simp only [State.tapClassify, State.diagStatus_without, State.ite_without, State.evt_without, State.setV_without,
    State.withDiag_without _ hd, ite_self]

theorem State.tapFail_without (n : Nat) : (s.tapFail n).without c = s.without c := by
  simp only [State.tapFail, State.ite_without, State.tapClassify_without _ hd, State.withDiag_without _ hd, ite_self]

theorem State.rserAdd_without (n : Nat) (e : Rat) : (s.rserAdd n e).without c = s.without c := by
  simp only [State.rserAdd, State.ite_without, State.pinUpdate_without, State.withDiag_without _ hd, ite_self]

theorem State.tapPass_without (n : Nat) (d0 d1 : Int) : (s.tapPass n d0 d1).without c = s.without c := by
  simp only [State.tapPass, State.rserAdd_without _ hd, State.ite_without, State.diagStatus_without, State.evt_without,
    State.setV_without, State.withDiag_without _ hd, ite_self]

theorem State.tapJudge_without (n : Nat) : (s.tapJudge n).without c = s.without c := by
  unfold State.tapJudge
  extract_lets t
  have ht : t.without c = s.without c := s.tapObserve_without hd n
  split
  · exact ht
  · simp only [State.ite_without, State.tapFail_without _ hd, State.tapPass_without _ hd, State.withDiag_without _ hd, ite_self, ht]

end

theorem State.withDiag_pageWords (x : Diag) : ({ s with diag := x } : State).pageWords p = s.pageWords p := (rfl)

section
variable (hp : p < 0x1D)
include hp

/-- The bits of a vector of the diagnostics' page lie on it or above, whatever tap or cell they name. -/
theorem State.setV_diag_pageWords {f : Fld} (hf : f.page = 0x1D) (i : Nat) (b : Bool) : (s.setV f i b).pageWords p = s.pageWords p :=
  s.setV_pageWords (by simp only [linear, hf]; omega) b

theorem State.diagStatus_pageWords : s.diagStatus.pageWords p = s.pageWords p := by
  simp (disch := simp [Fld.addr, linear] <;> omega) only [State.diagStatus, State.setB_pageWords, State.cond_pageWords]

theorem State.evt_diag_pageWords {f : Fld} (hf : f.addr / 64 = 0x1D) : (s.evt f).pageWords p = s.pageWords p :=
  s.evt_pageWords (by omega)

theorem State.pinUpdate_pageWords (n : Nat) : (s.pinUpdate n).pageWords p = s.pageWords p := by
  simp only [State.pinUpdate, State.ite_pageWords, State.diagStatus_pageWords _ hp, State.evt_diag_pageWords _ hp (f := DIAG.EVT.PINFAIL) rfl,
    State.setV_diag_pageWords _ hp (f := DIAG.PINFAIL0) rfl, ite_self]

theorem State.pinObserve_pageWords (n : Nat) (d : Int) : (s.pinObserve n d).pageWords p = s.pageWords p := by
  simp only [State.pinObserve, State.ite_pageWords, State.pinUpdate_pageWords _ hp, State.withDiag_pageWords, ite_self]

theorem State.tapObserve_pageWords (n : Nat) : (s.tapObserve n).pageWords p = s.pageWords p := by
  simp only [State.tapObserve, State.ite_pageWords, State.pinObserve_pageWords _ hp, ite_self]

theorem State.tapClassify_pageWords (n k : Nat) : (s.tapClassify n k).pageWords p = s.pageWords p := by
  simp only [State.tapClassify, State.diagStatus_pageWords _ hp, State.ite_pageWords, State.evt_diag_pageWords _ hp (f := DIAG.EVT.OPEN) rfl,
    State.setV_diag_pageWords _ hp (f := DIAG.OPEN0) rfl, State.withDiag_pageWords, ite_self]

theorem State.tapFail_pageWords (n : Nat) : (s.tapFail n).pageWords p = s.pageWords p := by
  simp only [State.tapFail, State.ite_pageWords, State.tapClassify_pageWords _ hp, State.withDiag_pageWords, ite_self]

theorem State.rserAdd_pageWords (n : Nat) (e : Rat) : (s.rserAdd n e).pageWords p = s.pageWords p := by
  simp only [State.rserAdd, State.ite_pageWords, State.pinUpdate_pageWords _ hp, State.withDiag_pageWords, ite_self]

theorem State.tapPass_pageWords (n : Nat) (d0 d1 : Int) : (s.tapPass n d0 d1).pageWords p = s.pageWords p := by
  simp only [State.tapPass, State.rserAdd_pageWords _ hp, State.ite_pageWords, State.diagStatus_pageWords _ hp,
    State.evt_diag_pageWords _ hp (f := DIAG.EVT.CLOSED) rfl, State.setV_diag_pageWords _ hp (f := DIAG.ZSUSP0) rfl,
    State.setV_diag_pageWords _ hp (f := DIAG.OPEN0) rfl, State.withDiag_pageWords, ite_self]

theorem State.tapJudge_pageWords (n : Nat) : (s.tapJudge n).pageWords p = s.pageWords p := by
  unfold State.tapJudge
  extract_lets t
  have ht : t.pageWords p = s.pageWords p := s.tapObserve_pageWords hp n
  split
  · exact ht
  · simp only [State.ite_pageWords, State.tapFail_pageWords _ hp, State.tapPass_pageWords _ hp, State.withDiag_pageWords, ite_self, ht]

end

/-! ### The end of a group (R236, R239) -/

theorem State.diagGroupEnd_within {r : Nat} (h7 : r ≠ 7) (h10 : r ≠ 10) : s.diagGroupEnd r = s := if_neg (not_or.mpr ⟨h7, h10⟩)

/-- What the judging of a tap test and a converter's next item leave as it is, the end of a group leaves. -/
theorem State.diagGroupEnd_keeps {β : Type} {g : State → β} (hdiag : ∀ (s : State) (x : Diag), g { s with diag := x } = g s)
    (hjudge : ∀ (s : State) (n : Nat), g (s.tapJudge n) = g s)
    (hadv : ∀ (s : State) (c : Conv) (fuel clk : Nat), g (State.advance fuel s c clk) = g s) (r : Nat) : g (s.diagGroupEnd r) = g s := by
  unfold State.diagGroupEnd
  split
  · rw [forEach_keeps g _ _ fun c _ u => by rw [apply_ite g, hadv, ite_self], forEach_keeps g _ _ fun n _ u => hjudge u n]
    exact hdiag s _
  · rfl

theorem State.diagGroupEnd_without (r : Nat) :
    (s.diagGroupEnd r).without [.held, .xact, .aux, .diag] = s.without [.held, .xact, .aux, .diag] :=
  s.diagGroupEnd_keeps (g := fun s : State => s.without [.held, .xact, .aux, .diag]) (fun u x => u.withDiag_without (by decide) x)
    (fun u n => u.tapJudge_without (by decide) n)
    (fun u c fuel clk => State.without_mono (c := [.held, .xact, .aux]) (by decide) ((convKeeps_without c).advance u fuel clk)) r

theorem State.diagGroupEnd_usedWords (hp : p < 0x1D) (hq : 0x06 ≠ p) (hc : ∀ c : Conv, c.page ≠ p) (r : Nat) :
    (s.diagGroupEnd r).usedWords p = s.usedWords p :=
  s.diagGroupEnd_keeps (g := fun s : State => s.usedWords p) (fun _ _ => State.usedWords_of rfl rfl)
    (fun u n => State.usedWords_of (State.held_of_without (c := [.diag]) (by decide) (u.tapJudge_without (by decide) n))
      (u.tapJudge_pageWords hp n))
    (fun u c fuel clk => (convKeeps_usedWords (hc c) hq).advance u fuel clk) r

end
end Sys2Proof.Machine
end

