-- ==== Sys2Proof/Proofs/RiserCandidates.lean ====
section
/-! SUPPORT. The choice of a riser's switches: the order of the candidates, those taken and the neighbours among them (R213, R217,
R228). -/
namespace Sys2Proof.Machine

section
variable {s : State}

/-! ### Candidates in order -/

/-- Folding an insertion over a list gathers its members. -/
theorem mem_foldl_insert {α : Type} {ins : α → List α → List α} (h : ∀ a l m, m ∈ ins a l ↔ m = a ∨ m ∈ l) (l acc : List α) (m : α) :
    m ∈ l.foldl (fun a n => ins n a) acc ↔ m ∈ l ∨ m ∈ acc := by
  induction l generalizing acc with
  | nil => simp
  | cons a l ih => rw [List.foldl_cons, ih, h, List.mem_cons, or_left_comm, or_assoc]

theorem State.mem_insCand (a : Nat) (l : List Nat) (m : Nat) : m ∈ s.insCand a l ↔ m = a ∨ m ∈ l := by
  induction l with
  | nil => simp [State.insCand]
  | cons b l ih =>
    unfold State.insCand
    split
    · exact List.mem_cons
    · rw [List.mem_cons, ih, List.mem_cons, or_left_comm]

theorem State.mem_insRot (a : Nat) (l : List Nat) (m : Nat) : m ∈ s.insRot a l ↔ m = a ∨ m ∈ l := by
  induction l with
  | nil => simp [State.insRot]
  | cons b l ih =>
    unfold State.insRot
    split
    · exact List.mem_cons
    · rw [List.mem_cons, ih, List.mem_cons, or_left_comm]

variable (s) in
/-- A cell that is owed risers and that nothing holds off in riser `r` (R217, R220, R223). -/
def State.candidate (r n : Nat) : Bool :=
  s.dutyRun n && decide (0 < look s.bal.owed n) && !look s.bal.given n && !s.excSwitches.contains n && !s.balHeld r n

variable (s) in
/-- The candidates of riser `r` in the order in which they are taken. -/
def State.ordered (r : Nat) : List Nat := (s.switches.filter (s.candidate r)).foldl (fun (a : List Nat) n => s.insCand n a) []

theorem State.mem_ordered {r n : Nat} : n ∈ s.ordered r ↔ n ∈ s.switches ∧ s.candidate r n = true := by
  rw [State.ordered, mem_foldl_insert s.mem_insCand, List.mem_filter]
  simp

theorem State.switches_nodup : s.switches.Nodup :=
  (List.nodup_range.map fun _ _ h => Nat.succ.inj h).filter _

/-- A sole candidate is all there is to order. -/
theorem State.ordered_sole {r n : Nat} (hn : n ∈ s.switches) (hc : s.candidate r n = true)
    (hsole : ∀ m ∈ s.switches, m ≠ n → s.candidate r m = false) : s.ordered r = [n] := by
  have hfilter : s.switches.filter (s.candidate r) = s.switches.filter (· == n) := by
    refine List.filter_congr fun m hm => ?_
    by_cases h : m = n
    · rw [h, hc, beq_self_eq_true]
    · rw [hsole m hm h, beq_eq_false_iff_ne.mpr h]
  rw [State.ordered, hfilter, List.filter_beq, List.count_eq_one_of_mem s.switches_nodup hn]
  rfl

theorem State.mem_learnSet {n : Nat} (h : n ∈ s.learnSet) : n % 4 = s.tm.ltc / 16 % 4 := by
  have hmem : n ∈ (s.switches.filter (fun n => decide (n % 4 = s.tm.ltc / 16 % 4) && !s.balHeld 15 n)).foldl
      (fun (a : List Nat) n => s.insRot n a) [] := by
    unfold State.learnSet at h
    extract_lets l₁ l₂ at h
    split at h
    · exact h
    · exact List.mem_of_mem_take h
  rw [mem_foldl_insert s.mem_insRot] at hmem
  have hfilter := (List.mem_filter.mp (hmem.resolve_right List.not_mem_nil)).2
  simp only [Bool.and_eq_true, decide_eq_true_eq] at hfilter
  exact hfilter.1

/-! ### Neighbours (R213) -/

variable (s) in
/-- Among the switches `l` no run that R213 forbids: neighbours only with NBR, and never three in a row. -/
def State.Spaced (l : List Nat) : Prop := ∀ n, n ∈ l → n + 1 ∈ l → s.usedB BAL.CFG.NBR = true ∧ n + 2 ∉ l

theorem State.Spaced.of_subset {k l : List Nat} (h : s.Spaced l) (hkl : k ⊆ l) : s.Spaced k := fun n hn hn1 =>
  (h n (hkl hn) (hkl hn1)).imp_right fun hout hmem => hout (hkl hmem)

theorem State.spaced_nil : s.Spaced [] := fun _ h => absurd h List.not_mem_nil

theorem State.learnSet_spaced : s.Spaced s.learnSet := fun n hn hn1 => by
  have h := State.mem_learnSet hn
  have h1 := State.mem_learnSet hn1
  omega

section
variable {k : List Nat} {m : Nat} (hext : s.extFet = false) (hok : s.nbrOk k m = true)
include hext hok

/-- With NBR = 0 a switch is admitted where neither neighbour conducts. -/
theorem State.nbrOk_alone (hnbr : s.usedB BAL.CFG.NBR = false) : m + 1 ∉ k ∧ ∀ n, n + 1 = m → n ∉ k := by
  simp [State.nbrOk, hext, hnbr] at hok
  refine ⟨hok.1, ?_⟩
  rintro n rfl
  simpa using hok.2

/-- With NBR = 1 a switch is admitted where it completes no run of three at either end or in the middle. -/
theorem State.nbrOk_pairs (hnbr : s.usedB BAL.CFG.NBR = true) :
    (m + 1 ∈ k → m + 2 ∉ k) ∧ (∀ n, n + 1 = m → n ∈ k → m + 1 ∉ k) ∧ ∀ n, n + 2 = m → n ∈ k → n + 1 ∉ k := by
  simp [State.nbrOk, hext, hnbr] at hok
  obtain ⟨⟨habove, hbeside⟩, hbelow⟩ := hok
  refine ⟨fun h => habove.resolve_left (not_not_intro h), ?_, ?_⟩
  · rintro n rfl hn
    exact hbeside.resolve_left (by simpa using hn)
  · rintro n rfl hn
    simp at hbelow
    exact hbelow.resolve_right (not_not_intro hn)

/-- A switch that R213 admits beside the switches `k` forms no forbidden run with them. -/
theorem State.spaced_of_nbrOk (hk : s.Spaced k) : s.Spaced (k ++ [m]) := by
  intro n hn hn1
  simp only [List.mem_append, List.mem_singleton] at hn hn1 ⊢
  cases hnbr : s.usedB BAL.CFG.NBR with
  | false =>
    obtain ⟨habove, hbelow⟩ := s.nbrOk_alone hext hok hnbr
    exfalso
    rcases hn with hn | rfl <;> rcases hn1 with hn1 | hm
    · exact absurd (hk n hn hn1).1 (by simp [hnbr])
    · exact hbelow n hm hn
    · exact habove hn1
    · omega
  | true =>
    obtain ⟨habove, hbeside, hbelow⟩ := s.nbrOk_pairs hext hok hnbr
    refine ⟨rfl, ?_⟩
    rcases hn with hn | rfl <;> rcases hn1 with hn1 | hm1 <;> rintro (hn2 | hm2)
    · exact (hk n hn hn1).2 hn2
    · exact hbelow n hm2 hn hn1
    · exact hbeside n hm1 hn (hm1 ▸ hn2)
    · omega
    · exact habove hn1 hn2
    all_goals omega

end

theorem State.takeCands_spaced (hext : s.extFet = false) {l k p : List Nat} (hk : s.Spaced k) : s.Spaced (s.takeCands l k p).1 := by
  induction l generalizing k p with
  | nil => exact hk
  | cons n l ih =>
    unfold State.takeCands
    split
    case isTrue hroom => exact ih (s.spaced_of_nbrOk hext (Bool.and_eq_true_iff.mp hroom).2 hk)
    case isFalse => exact ih hk

theorem State.subset_takeCands (l k p : List Nat) : k ⊆ (s.takeCands l k p).1 := by
  induction l generalizing k p with
  | nil => exact fun _ h => h
  | cons n l ih =>
    unfold State.takeCands
    split
    · exact fun m h => ih _ _ (List.mem_append_left _ h)
    · exact ih _ _

/-- External switches are all taken (R213, R217). -/
theorem State.takeCands_ext (hext : s.extFet = true) (l k p : List Nat) : s.takeCands l k p = (k ++ l, p) := by
  induction l generalizing k with
  | nil => rw [List.append_nil]; rfl
  | cons n l ih => simp [State.takeCands, State.roomOn, State.nbrOk, hext, ih]

/-- The first candidate is taken wherever a switch may be (R217). -/
theorem State.takeCands_sole (n : Nat) (hroom : s.extFet = true ∨ 0 < s.used { BAL.MAXON with w := 6 }) : s.takeCands [n] [] [] = ([n], []) := by
  simp [State.takeCands, State.roomOn, State.nbrOk, hroom]

/-! ### The allocation -/

theorem State.allocate_before {r : Nat} (h : r < s.balFirst) : s.allocate r = ([], [], []) := if_pos h

theorem State.allocate_learns {r : Nat} (h : ¬ r < s.balFirst) (hl : r = 15 ∧ s.learnTread = true) : s.allocate r = (s.learnSet, [], []) :=
  (if_neg h).trans (if_pos hl)

theorem State.allocate_balances {r : Nat} (h : ¬ r < s.balFirst) (hl : ¬ (r = 15 ∧ s.learnTread = true)) : ∃ ex,
    (s.excSwitches = [] → ex = []) ∧ s.allocate r = ((s.takeCands (s.ordered r) [] []).1, (s.takeCands (s.ordered r) [] []).2,
      (s.takeCands ex (s.takeCands (s.ordered r) [] []).1 []).1.filter (fun n => !(s.takeCands (s.ordered r) [] []).1.contains n)) := by
  refine ⟨_, fun hno => ?_, (if_neg h).trans (if_neg hl)⟩
  rw [hno, List.filter_nil, ite_self]

/-- The switches that conduct in a riser form no run that R213 forbids. -/
theorem State.allocate_spaced (hext : s.extFet = false) (r : Nat) : s.Spaced ((s.allocate r).1 ++ (s.allocate r).2.2) := by
  by_cases hr : r < s.balFirst
  · rw [State.allocate_before hr]
    exact State.spaced_nil
  · by_cases hl : r = 15 ∧ s.learnTread = true
    · rw [State.allocate_learns hr hl, List.append_nil]
      exact State.learnSet_spaced
    · obtain ⟨ex, -, halloc⟩ := State.allocate_balances hr hl
      rw [halloc]
      refine State.Spaced.of_subset (State.takeCands_spaced hext (State.takeCands_spaced hext State.spaced_nil))
        (List.append_subset.mpr ⟨State.subset_takeCands ex _ [], List.filter_subset_self _⟩)

end
end Sys2Proof.Machine
end

