-- ==== Sys2Proof/Proofs/RiserStages.lean ====
section
/-! SUPPORT. A riser boundary in its stages: what has ended, the switches closed, their service, what is asked of the auxiliary
converters (R212 to R217, R224, R228, R240). -/
namespace Sys2Proof.Machine

/-- Risers owed, served and given to excitation, and the pointer of the tie rule. -/
def Bal.service (b : Bal) : SMap Nat × SMap Nat × SMap Bool × Nat := (b.owed, b.served, b.given, b.ptr)

/-- The riser under way: its number, its readings, and the pointer of the tie rule. -/
def Bal.place (b : Bal) : Nat × List SwitchMeas × Nat := (b.riser, b.meas, b.ptr)

theorem Bal.service_of_steady {b c : Bal} (h : c.steady = b.steady) : c.service = b.service :=
  show c.steady.service = b.steady.service by rw [h]

theorem Bal.place_of_steady {b c : Bal} (h : c.steady = b.steady) : c.place = b.place :=
  show c.steady.place = b.steady.place by rw [h]

theorem Bal.Opens.of_eq {b c : Bal} (h : c = b) : b.Opens c := h ▸ .refl b

section
variable (s : State)

/-! ### What the drop monitors read (R224, R225) -/

theorem State.ronPublish_without (n : Nat) (v : Int) : (s.ronPublish n v).without [.bal] = s.without [.bal] := by
  simp only [State.ronPublish, State.healthSet_without, State.withBal_without _ (show Part.bal ∈ [Part.bal] by decide)]

theorem State.ronPublish_pageWords {p : Nat} (h : 0x1B ≠ p) (n : Nat) (v : Int) : (s.ronPublish n v).pageWords p = s.pageWords p := by
  have hhealth (u : State) {f : Fld} (hf : f.addr / 64 = 0x1B) (x : Nat) : (u.healthSet f x none).pageWords p = u.pageWords p :=
    u.healthSet_pageWords f x none h (hf ▸ h) fun _ he => nomatch he
  simp only [State.ronPublish, hhealth _ (f := HEALTH.RONMAX) rfl, hhealth _ (f := HEALTH.RONCELL) rfl, State.withBal_pageWords]

theorem State.ronPublish_service (n : Nat) (v : Int) : (s.ronPublish n v).bal.service = s.bal.service := by
  have hhealth (u : State) (f : Fld) (x : Nat) : (u.healthSet f x none).bal = u.bal :=
    State.bal_of_without (c := []) (by decide) (u.healthSet_without f x none [])
  simp only [State.ronPublish, hhealth]
  rfl

/-- What the publication of a mean and the readings of the monitors leave as it is, the monitors leave. -/
theorem State.monitor_keeps {β : Type} {g : State → β} (hron : ∀ (s : State) (n : Nat) (v : Int), g (s.ronPublish n v) = g s)
    (hbal : ∀ (s : State) (b : Bal), b.service = s.bal.service → g { s with bal := b } = g s) (r a : Nat) : g (s.monitor r a) = g s := by
  have hval (u : State) (n : Nat) (x y : Rat) : g (u.ronValue n x y) = g u := by
    unfold State.ronValue
    split
    · rfl
    · extract_lets z sum cnt
      split
      · exact hron u n _
      · exact hbal u _ rfl
  refine forEach_keeps g _ _ (fun m _ u => ?_) s
  extract_lets n vS lim b w b' w'
  have hw : g w = g u := hbal u _ rfl
  have hw' : g w' = g u := by
    unfold w'
    split
    · exact (hbal w { w.bal with dropOk := put w.bal.dropOk n true } rfl).trans hw
    · exact hw
  split
  · split
    · exact (hval w' n vS m.vSw).trans hw'
    · exact hw'
  · split
    · exact hbal u _ rfl
    · rfl

theorem State.monitor_without (r a : Nat) : (s.monitor r a).without [.bal] = s.without [.bal] :=
  s.monitor_keeps (g := fun s : State => s.without [.bal]) (fun u n v => u.ronPublish_without n v)
    (fun u b _ => u.withBal_without (by decide) b) r a

theorem State.monitor_pageWords {p : Nat} (h : 0x1B ≠ p) (r a : Nat) : (s.monitor r a).pageWords p = s.pageWords p :=
  s.monitor_keeps (g := fun s : State => s.pageWords p) (fun u n v => u.ronPublish_pageWords h n v) (fun _ _ _ => rfl) r a

theorem State.monitor_service (r a : Nat) : (s.monitor r a).bal.service = s.bal.service :=
  s.monitor_keeps (g := fun s : State => s.bal.service) (fun u n v => u.ronPublish_service n v) (fun _ _ h => h) r a

/-! ### Before the choice -/

/-- The phase of the excitation taken at the boundary of riser `r`. -/
def State.phaseAt (s : State) (r : Nat) : State := { s with bal := { s.bal with phase := s.tonePhase (s.absClk (256 * r)) } }

/-- The boundary of riser `r` once what has ended is judged and read. -/
def State.riserReady (s : State) (r : Nat) : State :=
  let t := s.diagGroupEnd r
  (t.monitor t.bal.riser (t.absClk (256 * t.bal.riser))).phaseAt r

theorem State.phaseAt_without (r : Nat) : (s.phaseAt r).without [.bal] = s.without [.bal] := s.withBal_without (by decide) _

theorem State.riserReady_service (r : Nat) : (s.riserReady r).bal.service = s.bal.service := by
  have hgroup : (s.diagGroupEnd r).bal = s.bal := State.bal_of_without (by decide) (s.diagGroupEnd_without r)
  exact (State.monitor_service _ _ _).trans (congrArg Bal.service hgroup)

theorem State.riserReady_usedWords {p : Nat} (hp : p < 0x1B) (hq : 0x06 ≠ p) (hc : ∀ c : Conv, c.page ≠ p) (r : Nat) :
    (s.riserReady r).usedWords p = s.usedWords p := by
  have hread (u : State) (n a : Nat) : ((u.monitor n a).phaseAt r).usedWords p = u.usedWords p :=
    State.usedWords_of (State.held_of_without (c := [.bal]) (by decide) ((State.phaseAt_without _ r).trans (u.monitor_without n a)))
      ((State.withBal_pageWords _ _).trans (u.monitor_pageWords (by omega) n a))
  exact (hread _ _ _).trans (s.diagGroupEnd_usedWords (by omega) hq hc r)

theorem State.riserReady_bal_used (r : Nat) {f : Fld} (hf : f.addr / 64 = 0x12) : (s.riserReady r).used f = s.used f :=
  State.used_of_usedWords (s.riserReady_usedWords (by decide) (by decide) (fun c => by cases c <;> decide) r) hf

theorem State.riserReady_count (r : Nat) : (s.riserReady r).count = s.count :=
  State.used_of_usedWords (s.riserReady_usedWords (p := 0x07) (by decide) (by decide) (fun c => by cases c <;> decide) r) (by decide)

section
variable {r : Nat} (h7 : r ≠ 7) (h10 : r ≠ 10)
include h7 h10

theorem State.riserReady_without : (s.riserReady r).without [.bal] = s.without [.bal] := by
  rw [State.riserReady, State.phaseAt_without, State.monitor_without, s.diagGroupEnd_within h7 h10]

theorem State.riserReady_pageWords {p : Nat} (h : 0x1B ≠ p) : (s.riserReady r).pageWords p = s.pageWords p := by
  rw [State.riserReady, State.phaseAt, State.withBal_pageWords, State.monitor_pageWords _ h, s.diagGroupEnd_within h7 h10]

end

/-! ### After the choice -/

/-- Riser `r` under way, no switch closed yet. -/
def State.riserNoted (s : State) (r : Nat) (meas : List SwitchMeas) : State :=
  { s with bal := { s.bal with
    riser := r
    given := if r < s.balFirst then s.bal.given else s.excSwitches.foldl (fun (m : SMap Bool) n => put m n true) s.bal.given
    meas := meas
    on := []
    cut := []
    ptr := if s.count = 0 then 0 else (s.bal.ptr + 1) % s.count } }

/-- The switches `k` that balance or learn, and the excited ones `x`, closed for riser `r`. -/
def State.riserClosed (s : State) (r : Nat) (why : Nat) (k x : List Nat) : State :=
  let a := s.absClk (256 * r)
  (s.closeAllSw (k ++ x) k why a fun _ => a + 256).closeAllSw (k ++ x) x 2 a fun _ => a + 256

/-- The service of the cells `k` counted (R216). -/
def State.serve (s : State) (k : List Nat) : State :=
  forEach k (fun (n : Nat) (s : State) =>
    { s with bal := { s.bal with owed := adj s.bal.owed n (· - 1), served := adj s.bal.served n (· + 1) } }) s

/-- The cells passed over noted (R217). -/
def State.passOver (s : State) (p : List Nat) : State :=
  forEach p (fun (n : Nat) (s : State) => { s with bal := { s.bal with passed := put s.bal.passed n true } }) s

/-- Riser `r` carries the learning pattern (R228). -/
def State.learns (s : State) (r : Nat) : Bool := decide (r = 15) && s.learnTread && decide (s.balFirst ≤ r)

/-- The switches of riser `r` closed and its service counted. -/
def State.riserServed (s : State) (r : Nat) (meas : List SwitchMeas) : State :=
  let a := s.allocate r
  let t := (s.riserNoted r meas).riserClosed r (if s.learns r then 3 else 1) a.1 a.2.2
  (if s.learns r then t else t.serve a.1).passOver a.2.1

theorem State.riserAlloc_eq (r : Nat) (meas : List SwitchMeas) : ∃ l,
    s.riserAlloc r meas = (if 10 ≤ r
      then (forEach l (fun (n : Nat) (s : State) => s.markInteg (n - 1) true) ((s.riserReady r).riserServed r meas)).spanFeed
      else forEach l (fun (n : Nat) (s : State) => s.markInteg (n - 1) true) ((s.riserReady r).riserServed r meas)) := ⟨_, rfl⟩

/-! ### What is asked of the auxiliary converters (R139, R142, R220) -/

theorem State.setConv_bal (c : Conv) (x : AuxConv) : (s.setConv c x).bal = s.bal := by cases c <;> rfl

theorem State.urgMeets_opens (w : Word) : s.bal.Opens (s.urgMeets w).bal :=
  have htests (l : List Nat) : (forEach l (fun n s => s.tapSkip n) s).bal = s.bal :=
    forEach_keeps State.bal (fun n s => s.tapSkip n) l (fun _ _ _ => rfl) s
  (Bal.Opens.of_eq (htests _)).trans (State.cutSwitches_opens _ _)

theorem State.urgStart_opens (c : Conv) (q : UrgReq) : s.bal.Opens (s.urgStart c q).bal := by
  have hstop (b : Bool) : (if b then (s.evt (c.fld AUXA.EVT.ABANDON)).inc (c.fld AUXA.ABNCNT) else s).bal = s.bal := by cases b <;> rfl
  have hend (t : State) (x : AuxConv) (a b : Bool) : ((t.setConv c x).auxStatus c a b).bal = t.bal := t.setConv_bal c x
  unfold State.urgStart
  extract_lets x ab t u
  rw [hend]
  exact (Bal.Opens.of_eq (hstop ab)).trans (t.urgMeets_opens q.word)

theorem State.urgRequest_opens (c : Conv) (q : UrgReq) : s.bal.Opens (s.urgRequest c q).bal := by
  have hend (t : State) (x : AuxConv) (a b : Bool) : ((t.setConv c x).auxStatus c a b).bal = t.bal := t.setConv_bal c x
  have hdisp (x : AuxConv) (f : Fld) (a b : Bool) : (((s.setConv c x).evt f).auxStatus c a b).bal = s.bal := s.setConv_bal c x
  unfold State.urgRequest
  extract_lets x
  split
  · split
    · exact .of_eq (hdisp _ _ _ _)
    · split <;> exact .refl _
  · split
    · exact .of_eq (hend s.tick _ _ _)
    · exact s.tick.urgStart_opens c q

theorem State.spanFeed_opens : s.bal.Opens s.spanFeed.bal := by
  refine State.forEach_opens (fun n u => ?_) _ s
  extract_lets c full
  split
  · exact .refl _
  · exact u.urgRequest_opens _ _

/-! ### What the stages do -/

variable (r : Nat) (meas : List SwitchMeas)

theorem State.riserAlloc_opens : ((s.riserReady r).riserServed r meas).bal.Opens (s.riserAlloc r meas).bal := by
  obtain ⟨l, halloc⟩ := s.riserAlloc_eq r meas
  have hmark (u : State) : (forEach l (fun (n : Nat) (s : State) => s.markInteg (n - 1) true) u).bal = u.bal :=
    State.bal_of_without (c := [.imp]) (by decide) (u.markIntegs_without (by decide) l)
  rw [halloc]
  split
  · exact (Bal.Opens.of_eq (hmark _)).trans (State.spanFeed_opens _)
  · exact .of_eq (hmark _)

/-- Where no tap waits for a span conversion nothing follows the choice that concerns balancing. -/
theorem State.riserAlloc_bal (hv : ((s.riserReady r).riserServed r meas).diag.verdict = [])
    (hf : ((s.riserReady r).riserServed r meas).diag.fallback = []) :
    (s.riserAlloc r meas).bal = ((s.riserReady r).riserServed r meas).bal := by
  obtain ⟨l, halloc⟩ := s.riserAlloc_eq r meas
  generalize (s.riserReady r).riserServed r meas = u at halloc hv hf ⊢
  have hmark : (forEach l (fun (n : Nat) (s : State) => s.markInteg (n - 1) true) u).without [.imp] = u.without [.imp] :=
    u.markIntegs_without (by decide) l
  have hdiag := State.diag_of_without (by decide) hmark
  rw [halloc, State.spanFeed_none _ (by rw [hdiag, hv]) (by rw [hdiag, hf]), ite_self, State.bal_of_without (by decide) hmark]

theorem State.riserNoted_without : (s.riserNoted r meas).without [.bal] = s.without [.bal] := s.withBal_without (by decide) _

theorem State.riserClosed_without (why : Nat) (k x : List Nat) : (s.riserClosed r why k x).without [.bal] = s.without [.bal] := by
  rw [State.riserClosed, State.closeAllSw_without _ (by decide), State.closeAllSw_without _ (by decide)]

theorem State.riserClosed_steady (why : Nat) (k x : List Nat) : (s.riserClosed r why k x).bal.steady = s.bal.steady :=
  (State.closeAllSw_steady _ _ _ _ _ _).trans (s.closeAllSw_steady _ _ _ _ _)

theorem State.riserClosed_on (why : Nat) (k x : List Nat) (n : Nat) :
    look (s.riserClosed r why k x).bal.on n = if n ∈ x then 2 else if n ∈ k then why else look s.bal.on n := by
  rw [State.riserClosed, State.closeAllSw_on, State.closeAllSw_on]

theorem State.serve_without (k : List Nat) : (s.serve k).without [.bal] = s.without [.bal] :=
  State.forEach_without _ _ _ (fun _ _ u => u.withBal_without (by decide) _) s

theorem State.passOver_without (p : List Nat) : (s.passOver p).without [.bal] = s.without [.bal] :=
  State.forEach_without _ _ _ (fun _ _ u => u.withBal_without (by decide) _) s

theorem State.riserServed_without : (s.riserServed r meas).without [.bal] = s.without [.bal] := by
  rw [State.riserServed, State.passOver_without, State.ite_without, State.serve_without, ite_self, State.riserClosed_without,
    State.riserNoted_without]

/-- Which switches conduct, and the riser under way: neither the service counted nor the cells passed over concern them. -/
def Bal.now (b : Bal) : SMap Nat × Nat × List SwitchMeas × Nat := (b.on, b.place)

theorem State.serve_now (k : List Nat) : (s.serve k).bal.now = s.bal.now := by
  refine forEach_keeps (fun u : State => u.bal.now) _ k (fun _ _ _ => ?_) s
  rfl

theorem State.passOver_now (p : List Nat) : (s.passOver p).bal.now = s.bal.now := by
  refine forEach_keeps (fun u : State => u.bal.now) _ p (fun _ _ _ => ?_) s
  rfl

theorem State.riserServed_now : (s.riserServed r meas).bal.now =
    ((s.riserNoted r meas).riserClosed r (if s.learns r then 3 else 1) (s.allocate r).1 (s.allocate r).2.2).bal.now := by
  rw [State.riserServed, State.passOver_now, apply_ite (fun u : State => u.bal.now), State.serve_now, ite_self]

theorem State.riserServed_on (n : Nat) : look (s.riserServed r meas).bal.on n =
    if n ∈ (s.allocate r).2.2 then 2 else if n ∈ (s.allocate r).1 then (if s.learns r then 3 else 1) else 0 := by
  have hon : (s.riserServed r meas).bal.on = _ := congrArg Prod.fst (s.riserServed_now r meas)
  rw [hon]
  exact State.riserClosed_on _ _ _ _ _ _

theorem State.riserServed_place : (s.riserServed r meas).bal.place = (r, meas, if s.count = 0 then 0 else (s.bal.ptr + 1) % s.count) := by
  have hplace : (s.riserServed r meas).bal.place = _ := congrArg Prod.snd (s.riserServed_now r meas)
  rw [hplace]
  exact Bal.place_of_steady (State.riserClosed_steady _ _ _ _ _)

theorem State.passOver_service (p : List Nat) : (s.passOver p).bal.service = s.bal.service := by
  refine forEach_keeps (fun u : State => u.bal.service) _ p (fun _ _ _ => ?_) s
  rfl

theorem State.serve_sole (n : Nat) : look (s.serve [n]).bal.owed n = look s.bal.owed n - 1 ∧
    look (s.serve [n]).bal.served n = look s.bal.served n + 1 :=
  ⟨(look_adj s.bal.owed n n (· - 1)).trans (if_pos rfl), (look_adj s.bal.served n n (· + 1)).trans (if_pos rfl)⟩

theorem State.riserServed_sole {r n : Nat} (hlearn : s.learns r = false) (halloc : (s.allocate r).1 = [n]) :
    look (s.riserServed r meas).bal.owed n = look s.bal.owed n - 1 ∧
    look (s.riserServed r meas).bal.served n = look s.bal.served n + 1 := by
  have hserved : s.riserServed r meas =
      (((s.riserNoted r meas).riserClosed r 1 [n] (s.allocate r).2.2).serve [n]).passOver (s.allocate r).2.1 := by
    simp only [State.riserServed, hlearn, halloc, Bool.false_eq_true, if_false]
  generalize (s.allocate r).2.1 = p, (s.allocate r).2.2 = x at hserved
  have hpass := State.passOver_service (((s.riserNoted r meas).riserClosed r 1 [n] x).serve [n]) p
  have hclose : ((s.riserNoted r meas).riserClosed r 1 [n] x).bal.service = (s.riserNoted r meas).bal.service :=
    Bal.service_of_steady (State.riserClosed_steady _ _ _ _ _)
  rw [← hserved] at hpass
  simp only [Bal.service, Prod.mk.injEq] at hpass hclose
  obtain ⟨howed, hcount, -⟩ := hpass
  obtain ⟨howed', hcount', -⟩ := hclose
  obtain ⟨hsole, hsole'⟩ := State.serve_sole ((s.riserNoted r meas).riserClosed r 1 [n] x) n
  rw [howed, hcount, hsole, hsole', howed', hcount']
  exact ⟨rfl, rfl⟩

/-- A switch that is not chosen for riser `r` is open in it. -/
theorem State.riserAlloc_open {n : Nat} (hk : n ∉ ((s.riserReady r).allocate r).1) (hx : n ∉ ((s.riserReady r).allocate r).2.2) :
    look (s.riserAlloc r meas).bal.on n = 0 := by
  refine (s.riserAlloc_opens r meas).on n ?_
  rw [State.riserServed_on, if_neg hx, if_neg hk]

theorem State.riserAlloc_place : (s.riserAlloc r meas).bal.place = (r, meas, if s.count = 0 then 0 else (s.bal.ptr + 1) % s.count) := by
  have hptr : (s.riserReady r).bal.ptr = s.bal.ptr := congrArg (fun x => x.2.2.2) (s.riserReady_service r)
  rw [Bal.place_of_steady (s.riserAlloc_opens r meas).steady, State.riserServed_place, s.riserReady_count, hptr]

end
end Sys2Proof.Machine
end

