-- ==== Sys2Proof/Proofs/RiserAllocation.lean ====
section
/-! O30, O31. The allocation of a riser: no forbidden run, what it records, and who conducts where nothing stands in the way (R213, R217,
R220). -/
namespace Sys2Proof.Machine

/-- Riser `r` of the balancing window in which nothing learns, is excited or is tested, no group of tap tests ends and no tap waits for a
span conversion. -/
structure State.QuietRiser (s : State) (r : Nat) : Prop where
  window : s.balFirst ≤ r
  learn : r = 15 → s.learnTread = false
  exc : s.excRuns = false
  groups : s.diag.groups = none
  verdict : s.diag.verdict = []
  fallback : s.diag.fallback = []
  ne7 : r ≠ 7
  ne10 : r ≠ 10

section
variable {s : State} {r : Nat}

theorem State.riserReady_balFirst : (s.riserReady r).balFirst = s.balFirst := by
  rw [State.balFirst, State.riserReady_bal_used s r (f := { BAL.QUIET_EXT with w := 1 }) rfl, ← State.balFirst]

theorem State.riserReady_extFet : (s.riserReady r).extFet = s.extFet := by
  rw [State.extFet, State.usedB, s.riserReady_bal_used r rfl]
  rfl

theorem State.riserReady_spaced (l : List Nat) : (s.riserReady r).Spaced l ↔ s.Spaced l := by
  simp only [State.Spaced, State.usedB, s.riserReady_bal_used r (f := BAL.CFG.NBR) rfl]

/-! ### What a quiet riser meets -/

section
variable (h : s.QuietRiser r)
include h

theorem State.QuietRiser.excSwitches : s.excSwitches = [] := if_neg (by simp [h.exc])

theorem State.QuietRiser.learns : s.learns r = false := by
  by_cases hr : r = 15
  · simp [State.learns, h.learn hr]
  · simp [State.learns, hr]

theorem State.QuietRiser.allocate :
    s.allocate r = ((s.takeCands (s.ordered r) [] []).1, (s.takeCands (s.ordered r) [] []).2, []) := by
  have hlearn : ¬ (r = 15 ∧ s.learnTread = true) := fun ⟨hr, hl⟩ => by simp [h.learn hr] at hl
  obtain ⟨ex, hex, halloc⟩ := State.allocate_balances (Nat.not_lt.mpr h.window) hlearn
  rw [halloc, hex h.excSwitches]
  simp [State.takeCands]

theorem State.QuietRiser.candidate_iff (n : Nat) : s.candidate r n = true ↔
    s.dutyRun n = true ∧ 0 < look s.bal.owed n ∧ look s.bal.given n = false ∧ s.balHeld r n = false := by
  simp [State.candidate, h.excSwitches, and_assoc]

/-! ### The same riser once what has ended is read -/

theorem State.QuietRiser.ready_bit {f : Fld} (hf : f.addr / 64 = 0x12 ∨ f.addr / 64 = 0x13) : (s.riserReady r).bit f = s.bit f := by
  rcases hf with hf | hf <;> exact State.bit_of_pageWords (s.riserReady_pageWords h.ne7 h.ne10 (by decide)) hf

theorem State.QuietRiser.ready_excRuns : (s.riserReady r).excRuns = s.excRuns := by
  have hlanes : (s.riserReady r).imp = s.imp := State.imp_of_without (by decide) (s.riserReady_without h.ne7 h.ne10)
  have hlane : (s.riserReady r).get IMP.EXCCFG.ACTLANE = s.get IMP.EXCCFG.ACTLANE :=
    State.get_of_pageWords (p := 0x13) (s.riserReady_pageWords h.ne7 h.ne10 (by decide)) rfl
  simp only [State.excRuns, State.isActive, State.laneRuns, h.ready_bit (f := IMP.EXCCFG.ACTEN) (.inr rfl), hlane, hlanes]

theorem State.QuietRiser.ready_learnTread : (s.riserReady r).learnTread = s.learnTread := by
  have htm : (s.riserReady r).tm = s.tm := State.tm_of_without (by decide) (s.riserReady_without h.ne7 h.ne10)
  simp only [State.learnTread, State.usedB, s.riserReady_bal_used r (f := BAL.CFG.LEARN) rfl, htm, h.ready_excRuns]

theorem State.QuietRiser.ready : (s.riserReady r).QuietRiser r := by
  have hdiag : (s.riserReady r).diag = s.diag := State.diag_of_without (by decide) (s.riserReady_without h.ne7 h.ne10)
  refine ⟨?_, fun hr => ?_, ?_, ?_, ?_, ?_, h.ne7, h.ne10⟩
  · rw [State.riserReady_balFirst]
    exact h.window
  · rw [h.ready_learnTread, h.learn hr]
  · rw [h.ready_excRuns, h.exc]
  · rw [hdiag, h.groups]
  · rw [hdiag, h.verdict]
  · rw [hdiag, h.fallback]

theorem State.QuietRiser.ready_balHeld {n : Nat} (hn : n ≤ 36) : (s.riserReady r).balHeld r n = s.balHeld r n := by
  have hrest := s.riserReady_without h.ne7 h.ne10
  have hfail : (s.riserReady r).vbit BAL.SWFAIL0 (n - 1) = s.vbit BAL.SWFAIL0 (n - 1) :=
    h.ready_bit (.inl (linear_div 0x12 (show 0x35 + (n - 1) / 16 < 64 by omega)))
  have hurg : (s.riserReady r).urgHolds n = s.urgHolds n := by
    simp only [State.urgHolds, State.aux_of_without (by decide) hrest]
  have htest {t : State} (ht : t.diag.groups = none) : t.diagHolds r n = false := by
    simp only [State.diagHolds, State.tapBusy_of_noGroups t ht, Bool.and_false, List.any_eq_false]
    exact fun _ _ => Bool.false_ne_true
  simp only [State.balHeld, hfail, hurg, htest h.groups, htest h.ready.groups, State.safe_of_without (by decide) hrest,
    State.pw_of_without hrest]

theorem State.QuietRiser.ready_candidate {n : Nat} (hn : n ≤ 36) : (s.riserReady r).candidate r n = s.candidate r n := by
  have hservice := s.riserReady_service r
  simp only [Bal.service, Prod.mk.injEq] at hservice
  obtain ⟨howed, -, hgiven, -⟩ := hservice
  have hrun : (s.riserReady r).dutyRun n = s.dutyRun n := h.ready_bit (.inl (linear_div 0x12 (show 0x08 + n < 64 by omega)))
  rw [Bool.eq_iff_iff, h.ready.candidate_iff, h.candidate_iff, howed, hgiven, hrun, h.ready_balHeld hn]

end

theorem State.mem_switches {n : Nat} (h : n ∈ s.switches) : n ≤ 36 := by
  have hmap := List.mem_of_mem_filter h
  simp only [List.mem_map, List.mem_range] at hmap
  omega

theorem State.riserReady_switches : (s.riserReady r).switches = s.switches := by
  rw [State.switches, s.riserReady_count r, ← State.switches]

/-! ### Who conducts -/

section
variable (h : s.QuietRiser r) (meas : List SwitchMeas)
include h

theorem State.QuietRiser.riserAlloc_bal : (s.riserAlloc r meas).bal = ((s.riserReady r).riserServed r meas).bal := by
  have hdiag : ((s.riserReady r).riserServed r meas).diag = (s.riserReady r).diag :=
    State.diag_of_without (by decide) (State.riserServed_without _ r meas)
  exact s.riserAlloc_bal r meas (by rw [hdiag, h.ready.verdict]) (by rw [hdiag, h.ready.fallback])

theorem State.QuietRiser.riserAlloc_on (n : Nat) : look (s.riserAlloc r meas).bal.on n =
    if n ∈ ((s.riserReady r).takeCands ((s.riserReady r).ordered r) [] []).1 then 1 else 0 := by
  rw [h.riserAlloc_bal, State.riserServed_on, h.ready.allocate, h.ready.learns]
  simp

theorem State.QuietRiser.mem_ready_ordered {n : Nat} (hn : n ∈ s.switches) (hc : s.candidate r n = true) :
    n ∈ (s.riserReady r).ordered r := by
  have hin : n ∈ (s.riserReady r).switches := by rwa [State.riserReady_switches]
  exact State.mem_ordered.mpr ⟨hin, by rw [h.ready_candidate (State.mem_switches hn), hc]⟩

theorem State.QuietRiser.ready_ordered_sole {n : Nat} (hn : n ∈ s.switches) (hc : s.candidate r n = true)
    (hsole : ∀ m ∈ s.switches, m ≠ n → s.candidate r m = false) : (s.riserReady r).ordered r = [n] := by
  have hin : n ∈ (s.riserReady r).switches := by rwa [State.riserReady_switches]
  refine State.ordered_sole hin (by rw [h.ready_candidate (State.mem_switches hn), hc]) fun m hm hne => ?_
  rw [State.riserReady_switches] at hm
  rw [h.ready_candidate (State.mem_switches hm), hsole m hm hne]

/-- With external switches every candidate conducts (R213, R214). -/
theorem State.QuietRiser.external_conducts (hext : s.extFet = true) {n : Nat} (hn : n ∈ s.switches) (hc : s.candidate r n = true) :
    look (s.riserAlloc r meas).bal.on n = 1 := by
  have hready : (s.riserReady r).extFet = true := by rw [State.riserReady_extFet, hext]
  rw [h.riserAlloc_on, State.takeCands_ext hready, List.nil_append, if_pos (h.mem_ready_ordered hn hc)]

/-- A sole candidate conducts, alone, and is served. -/
theorem State.QuietRiser.sole_conducts {n : Nat} (hn : n ∈ s.switches) (hc : s.candidate r n = true)
    (hsole : ∀ m ∈ s.switches, m ≠ n → s.candidate r m = false) (hroom : s.extFet = true ∨ 0 < s.used { BAL.MAXON with w := 6 }) :
    look (s.riserAlloc r meas).bal.on n = 1 ∧ look (s.riserAlloc r meas).bal.owed n = look s.bal.owed n - 1 ∧
    look (s.riserAlloc r meas).bal.served n = look s.bal.served n + 1 ∧ ∀ m, m ≠ n → look (s.riserAlloc r meas).bal.on m = 0 := by
  have hready : (s.riserReady r).extFet = true ∨ 0 < (s.riserReady r).used { BAL.MAXON with w := 6 } := by
    rwa [State.riserReady_extFet, s.riserReady_bal_used r (f := { BAL.MAXON with w := 6 }) rfl]
  have htaken : (s.riserReady r).takeCands ((s.riserReady r).ordered r) [] [] = ([n], []) := by
    rw [h.ready_ordered_sole hn hc hsole, State.takeCands_sole n hready]
  have halloc : ((s.riserReady r).allocate r).1 = [n] := by rw [h.ready.allocate, htaken]
  have hservice := s.riserReady_service r
  simp only [Bal.service, Prod.mk.injEq] at hservice
  obtain ⟨howed, hserved, -⟩ := hservice
  obtain ⟨hgone, hcount⟩ := State.riserServed_sole _ meas h.ready.learns halloc
  refine ⟨?_, ?_, ?_, fun m hm => ?_⟩
  · rw [h.riserAlloc_on, htaken, if_pos (List.mem_singleton.mpr rfl)]
  · rw [h.riserAlloc_bal, hgone, howed]
  · rw [h.riserAlloc_bal, hcount, hserved]
  · rw [h.riserAlloc_on, htaken, if_neg (by simpa using hm)]

end
end

/-! ### The command -/

theorem exec_balRiserAlloc_eq (r : Fin 16) (meas : List SwitchMeas) (s : State) : exec (.balRiserAlloc r meas) s =
    whenActive [.held, .bal, .xact, .aux, .imp, .diag] s fun s => s.riserAlloc r.val meas := (rfl)

/-- The end of an allocation: balancing stands as the allocation leaves it. -/
theorem exec_balRiserAlloc_next {s : State} (hact : s.pw.phase = .active) (r : Fin 16) (meas : List SwitchMeas) :
    ∃ t, exec (.balRiserAlloc r meas) s = .next t ∧ t.bal = (s.riserAlloc r.val meas).bal ∧ t.cal = s.cal ∧ t.cells = s.cells :=
  ⟨_, (exec_balRiserAlloc_eq r meas s).trans (whenActive_active _ s _ hact), State.only_bal (by decide), rfl, rfl⟩

/-- The switches that conduct after an allocation with internal switches stand apart. -/
theorem balRiserAlloc_spaced {s t : State} {r : Fin 16} {meas : List SwitchMeas} (hact : s.pw.phase = .active) (hext : s.extFet = false)
    (hexec : exec (.balRiserAlloc r meas) s = .next t) : ∃ l, s.Spaced l ∧ ∀ n, look t.bal.on n ≠ 0 → n ∈ l := by
  obtain ⟨u, hnext, hbal, -⟩ := exec_balRiserAlloc_next hact r meas
  obtain rfl : u = t := by
    rw [hnext] at hexec
    injection hexec
  have hready : (s.riserReady r.val).extFet = false := by rw [State.riserReady_extFet, hext]
  refine ⟨_, (State.riserReady_spaced _).mp (State.allocate_spaced hready r.val), fun n hon => ?_⟩
  by_contra hout
  rw [List.mem_append, not_or] at hout
  rw [hbal] at hon
  exact hon (s.riserAlloc_open r.val meas hout.1 hout.2)

/-- Settles O30: whatever a riser closes is chosen by the allocation, whose choice is spaced; with external switches every candidate is
taken. -/
theorem noForbiddenRun : Obligations.NoForbiddenRun := by
  refine ⟨fun s t r meas n hact hext hnbr hexec hn => ?_, fun s t r meas n hact hext _ hexec hn hn1 => ?_,
    fun s r meas hact hext hwin hlearn hexc hgroups _ hverdict hfallback h7 h10 => ?_⟩
  · obtain ⟨l, hspaced, hon⟩ := balRiserAlloc_spaced hact hext hexec
    by_contra hn1
    have hset := (hspaced n (hon n hn) (hon (n + 1) hn1)).1
    simp [hnbr] at hset
  · obtain ⟨l, hspaced, hon⟩ := balRiserAlloc_spaced hact hext hexec
    by_contra hn2
    exact (hspaced n (hon n hn) (hon (n + 1) hn1)).2 (hon (n + 2) hn2)
  · have hquiet : s.QuietRiser r.val := ⟨hwin, hlearn, hexc, hgroups, hverdict, hfallback, h7, h10⟩
    obtain ⟨t, hnext, hbal, -⟩ := exec_balRiserAlloc_next hact r meas
    refine ⟨t, hnext, fun n hn hrun howed hgiven hfree => ?_⟩
    rw [hbal]
    exact hquiet.external_conducts meas hext hn ((hquiet.candidate_iff n).mpr ⟨hrun, howed, hgiven, hfree⟩)

/-- Settles O31: the place that an allocation records, the empty choice before the balancing window, and the sole candidate in it. -/
theorem riserAllocated : Obligations.RiserAllocated := by
  refine ⟨fun s r meas hact hcount => ?_, fun s r meas n hact hbefore => ?_,
    fun s r meas n hact hwin hlearn hexc hgroups _ hverdict hfallback h7 h10 hn hrun howed hgiven hothers hfree hroom => ?_⟩ <;>
    obtain ⟨t, hnext, hbal, hcal, hcells⟩ := exec_balRiserAlloc_next hact r meas <;> refine ⟨t, hnext, ?_⟩
  · have hplace := s.riserAlloc_place r.val meas
    rw [← hbal, if_neg hcount.ne'] at hplace
    simp only [Bal.place, Prod.mk.injEq] at hplace
    obtain ⟨hriser, hmeas, hptr⟩ := hplace
    exact ⟨hriser, hmeas, hptr, hcal, hcells⟩
  · have hnone : (s.riserReady r.val).allocate r.val = ([], [], []) :=
      State.allocate_before (by rwa [State.riserReady_balFirst])
    rw [hbal]
    exact s.riserAlloc_open r.val meas (by simp [hnone]) (by simp [hnone])
  · have hquiet : s.QuietRiser r.val := ⟨hwin, hlearn, hexc, hgroups, hverdict, hfallback, h7, h10⟩
    have hsole (m : Nat) (hm : m ∈ s.switches) (hne : m ≠ n) : s.candidate r.val m = false := by
      rw [Bool.eq_false_iff, ne_eq, hquiet.candidate_iff]
      rintro ⟨hrunm, howedm, -⟩
      rcases hothers m hm hne with hoff | hnone
      · simp [hoff] at hrunm
      · omega
    rw [hbal]
    exact hquiet.sole_conducts meas hn ((hquiet.candidate_iff n).mpr ⟨hrun, howed, hgiven, hfree⟩) hsole hroom

end Sys2Proof.Machine
end

