-- ==== Sys2Proof/Proofs/DiagnosticTests.lean ====
section
/-! O36. Diagnostic treads (R233, R234, R242), the three risers of a tap test (R235 to R237) and the requests of the span fallback (R243). -/
namespace Sys2Proof.Machine

/-- A 16-bit counter goes up by one and stops at its top. -/
theorem State.get_inc_saturates (s : State) (p w : Nat) :
    (s.inc ⟨p, w, 0, 16⟩).get ⟨p, w, 0, 16⟩ = min (s.get ⟨p, w, 0, 16⟩ + 1) 65535 := by
  rw [State.inc, State.get_set _ _ _ rfl]
  exact Nat.mod_eq_of_lt (by show min _ (2 ^ 16 - 1) < 2 ^ 16; omega)

theorem State.only_diag (s t : State) {c : List Part} (hc : Part.diag ∈ c) : (s.only t c).diag = t.diag := by simp [State.only, hc]

/-! ### Diagnostic treads -/

/-- A diagnostic tread for the groups `g` has begun at tread `now`: calls for it and for earlier treads are done (R233, R234). -/
def Diag.treadBegun (d : Diag) (g : Nat × Nat) (now : Nat) : Diag :=
  { d with groups := some g, called := d.called.filter (fun c => decide (now < c.1)) }

section
variable {s : State}

theorem State.diagBegin_none (h : s.diagGroups = none) : s.diagBegin = s := by rw [State.diagBegin, h]

theorem State.diagBegin_some {g : Nat × Nat} (h : s.diagGroups = some g) : s.diagBegin =
    (({ s with diag := s.diag.treadBegun g s.tm.tread }).setB DIAG.STATUS.DTREAD true).inc DIAG.DTCNT := by
  rw [State.diagBegin, h]
  rfl

theorem State.diagBegin_without {c : List Part} (hd : Part.diag ∈ c) : s.diagBegin.without c = s.without c := by
  cases h : s.diagGroups with
  | none => rw [State.diagBegin_none h]
  | some g => rw [State.diagBegin_some h, State.inc_without, State.setB_without, State.withDiag_without _ hd]

theorem State.diagBegin_count {g : Nat × Nat} (h : s.diagGroups = some g) :
    s.diagBegin.get DIAG.DTCNT = min (s.get DIAG.DTCNT + 1) 65535 := by
  have hcnt (u : State) : (u.setB DIAG.STATUS.DTREAD true).get DIAG.DTCNT = u.get DIAG.DTCNT := State.get_set_ne _ _ _ _ rfl rfl
  rw [State.diagBegin_some h, State.get_inc_saturates, hcnt]
  rfl

theorem State.diagBegin_shown {g : Nat × Nat} (h : s.diagGroups = some g) : s.diagBegin.bit DIAG.STATUS.DTREAD = true := by
  rw [State.diagBegin_some h, State.inc, State.bit_set_ne _ _ _ _ rfl rfl]
  exact State.bit_setB _ _ _ _ _ (by decide)

/-- NOW with nothing called yet calls the next two treads, one for each pair of groups (R234). -/
theorem State.diagNow_calls (hen : s.usedB DIAG.CFG.EN = true) (hcalled : s.diag.called = []) : s.diagNow =
    { s with diag := { s.diag with called := [(s.tm.tread + 1, 0, 1), (s.tm.tread + 2, 2, 3)] } } := by
  rw [State.diagNow, if_pos hen, hcalled]
  rfl

theorem State.diagNow_off (hen : s.usedB DIAG.CFG.EN = false) : s.diagNow = s := if_neg (by simp [hen])

end

/-! ### The risers of a tap test -/

/-- The test of tap `n` has begun with the reference readings `r` (R237). -/
def Diag.tapBegun (d : Diag) (n : Nat) (r : TapRef) : Diag :=
  { d with began := d.began ++ [n], testing := d.testing.filter (· ≠ n) ++ [n], ref := put d.ref n r, got := put d.got n none,
           skipped := put d.skipped n false }

theorem Diag.tapBegun_ref (d : Diag) (n : Nat) (r : TapRef) : look (d.tapBegun n r).ref n = r := by
  rw [Diag.tapBegun, look_put_self]

theorem Diag.tapBegun_skipped (d : Diag) (n : Nat) (r : TapRef) : look (d.tapBegun n r).skipped n = false := by
  rw [Diag.tapBegun, look_put_self]

/-- The sink riser of tap `n`, from clock `clk` on, has read `r`: the changes from the reference, and the current drawn (R237). -/
def Diag.tapSunk (d : Diag) (n clk : Nat) (r : TapRef) : Diag :=
  { d with got := put d.got n (some (r.vN - (look d.ref n).vN, r.vN1 - (look d.ref n).vN1)),
           drive := adj d.drive n (fun l => l ++ [TapDrive.mk clk (clk + 256) true]) }

theorem Diag.tapSunk_got (d : Diag) (n clk : Nat) (r : TapRef) :
    look (d.tapSunk n clk r).got n = some (r.vN - (look d.ref n).vN, r.vN1 - (look d.ref n).vN1) := by
  rw [Diag.tapSunk, look_put_self]

/-- The source riser of tap `n` has driven current in for `clks` clocks from clock `clk` on (R237). -/
def Diag.tapSourced (d : Diag) (n clk clks : Nat) : Diag :=
  { d with drive := adj d.drive n (fun l => l ++ [TapDrive.mk clk (clk + clks) false]) }

section
variable {s : State} {n r0 : Nat} (m : TapMeas)

theorem State.tapPhase_untested (ph : TapPhase) (h : s.tapRiser? n = none) : s.tapPhase n ph m = s := by rw [State.tapPhase, h]

/-- The reference riser of a tap whose test has passed it, or was skipped, does nothing more in the tread (R235). -/
theorem State.tapPhase_begun (hbegan : n ∈ s.diag.began) : s.tapPhase n .reference m = s := by
  cases h : s.tapRiser? n with
  | none => exact State.tapPhase_untested m .reference h
  | some r0 => simp only [State.tapPhase, h, List.contains_iff_mem.mpr hbegan, if_true]

section
variable (hr : s.tapRiser? n = some r0)
include hr

theorem State.tapPhase_reference (hbegan : n ∉ s.diag.began) : s.tapPhase n .reference m =
    if s.diagSkip n then s.tapSkip n else { s with diag := s.diag.tapBegun n (s.tapRef n m) } := by
  simp only [State.tapPhase, hr, List.contains_iff_mem, hbegan, if_false]
  rfl

theorem State.tapPhase_sink (htest : n ∈ s.diag.testing) : s.tapPhase n .sink m =
    { s with diag := s.diag.tapSunk n (s.absClk (256 * (r0 + 1))) (s.tapRef n m) } := by
  simp only [State.tapPhase, hr, List.contains_iff_mem.mpr htest, Bool.true_eq_false, if_false]
  rfl

theorem State.tapPhase_source (clks : Fin 257) (htest : n ∈ s.diag.testing) : s.tapPhase n (.source clks) m =
    { s with diag := s.diag.tapSourced n (s.absClk (256 * (r0 + 2))) clks.val } := by
  simp only [State.tapPhase, hr, List.contains_iff_mem.mpr htest, Bool.true_eq_false, if_false]
  rfl

end

theorem State.tapPhase_without {c : List Part} (hd : Part.diag ∈ c) (ph : TapPhase) : (s.tapPhase n ph m).without c = s.without c := by
  cases h : s.tapRiser? n with
  | none => rw [State.tapPhase_untested m ph h]
  | some r0 =>
    cases ph <;>
      simp only [State.tapPhase, h, State.ite_without, State.tapSkip_without _ hd, State.withDiag_without _ hd, ite_self]

end

section
variable (s : State) (n : Nat)

theorem State.tapSkip_count : (s.tapSkip n).get DIAG.SKIPCNT = min (s.get DIAG.SKIPCNT + 1) 65535 := by
  rw [State.tapSkip, State.evt, State.get_set_ne _ _ _ _ rfl rfl, State.get_inc_saturates]
  rfl

theorem State.tapSkip_event : (s.tapSkip n).bit DIAG.EVT.SKIP = true := State.bit_evt _ _ _ _ (by decide)

theorem State.tapSkip_skipped : look (s.tapSkip n).diag.skipped n = true := look_put_self s.diag.skipped n true

theorem State.tapSkip_testing : n ∉ (s.tapSkip n).diag.testing := fun h => by simpa using (List.mem_filter.mp h).2

end

/-! ### The taps of the span fallback (R243) -/

section
variable (s : State)

theorem State.tapSkip_fallback (n : Nat) : (s.tapSkip n).diag.fallback = s.diag.fallback := (rfl)

/-- The conversions asked for may abandon tap tests (R235), but leave the fallback's taps as noted. -/
theorem State.urgMeets_fallback (w : Word) : (s.urgMeets w).diag.fallback = s.diag.fallback := by
  have hcut (u : State) (l : List Nat) : (u.cutSwitches l).diag = u.diag :=
    State.diag_of_without (c := [.bal]) (by decide) (u.cutSwitches_without (by decide) l)
  rw [State.urgMeets, hcut]
  exact forEach_keeps (fun u : State => u.diag.fallback) _ _ (fun n _ u => u.tapSkip_fallback n) s

theorem State.auxStatus_diag (c : Conv) (qwait pwr : Bool) : (s.auxStatus c qwait pwr).diag = s.diag := (rfl)

theorem State.setConv_diag (c : Conv) (x : AuxConv) : (s.setConv c x).diag = s.diag := by cases c <;> rfl

theorem State.urgStart_fallback (c : Conv) (q : UrgReq) : (s.urgStart c q).diag.fallback = s.diag.fallback := by
  rw [State.urgStart, State.auxStatus_diag, State.setConv_diag, State.urgMeets_fallback]
  split <;> rfl

theorem State.urgRequest_fallback (c : Conv) (q : UrgReq) : (s.urgRequest c q).diag.fallback = s.diag.fallback := by
  unfold State.urgRequest
  extract_lets x
  split
  · simp only [apply_ite State.diag, State.auxStatus_diag, State.evt_diag, State.setConv_diag, ite_self]
  · split
    · rw [State.auxStatus_diag, State.setConv_diag, State.tick_diag]
    · rw [State.urgStart_fallback, State.tick_diag]

theorem State.spanFeed_fallback : s.spanFeed.diag.fallback = s.diag.fallback := by
  refine forEach_keeps (fun u : State => u.diag.fallback) _ _ (fun n _ u => ?_) s
  simp only [apply_ite State.diag, apply_ite Diag.fallback, State.procRequest, State.urgRequest_fallback, ite_self]

theorem State.diagStatus_diag : s.diagStatus.diag = s.diag :=
  State.diag_of_without (c := []) (by decide) (s.diagStatus_without [])

end

/-! ### The commands -/

theorem exec_diagTread_eq (s : State) : exec .diagTread s = whenActive [.diag] s State.diagBegin := (rfl)
theorem exec_now_eq (s : State) : exec .now s = whenActive [.diag] s State.diagNow := (rfl)
theorem exec_tapTestPhase_eq (n : Tap) (ph : TapPhase) (m : TapMeas) (s : State) : exec (.tapTestPhase n ph m) s =
    whenActive [.diag] s fun s => s.tapPhase n.val ph m := (rfl)
theorem exec_spanFallback_eq (s : State) : exec .spanFallback s =
    whenActive [.bal, .aux, .diag] s fun s => (({ s with diag := { s.diag with fallback := s.fallTaps } }).spanFeed).diagStatus := (rfl)

section
variable {s : State} (hact : s.pw.phase = .active)
include hact

theorem exec_diagTread_next : exec .diagTread s = .next s.diagBegin :=
  (exec_diagTread_eq s).trans (whenActive_next hact (State.diagBegin_without (by decide)))

theorem exec_now_next : exec .now s = .next s.diagNow :=
  (exec_now_eq s).trans (whenActive_next hact (s.diagNow_without (by decide)))

theorem exec_tapTestPhase_next (n : Tap) (ph : TapPhase) (m : TapMeas) : exec (.tapTestPhase n ph m) s = .next (s.tapPhase n.val ph m) :=
  (exec_tapTestPhase_eq n ph m s).trans (whenActive_next hact (State.tapPhase_without m (by decide) ph))

theorem spanFallback_notes : ∃ t, exec .spanFallback s = .next t ∧ t.diag.fallback = s.fallTaps ∧ t.cells = s.cells := by
  refine ⟨_, (exec_spanFallback_eq s).trans (whenActive_active _ s _ hact), ?_, rfl⟩
  rw [State.only_diag _ _ (by decide), State.diagStatus_diag, State.spanFeed_fallback]

end

/-- Settles O36: a tread's groups decide on its beginning (`State.diagBegin_some`), each riser of a tap test is one equation
(`State.tapPhase_reference`, `State.tapPhase_sink`, `State.tapPhase_source`), and no request takes a tap from the span fallback
(`State.spanFeed_fallback`). -/
theorem diagnosticTests : Obligations.DiagnosticTests := by
  refine ⟨fun s g hact hg => ?_, fun s hact hg => ?_, fun s hact hen hcalled => ?_, fun s hact hen => ?_,
    fun s n m r0 hact hr hbegan hskip => ?_, fun s n m r0 hact hr hbegan hskip => ?_, fun s n m r0 hact hr htest => ?_,
    fun s n m r0 clks hact hr htest => ?_, fun s n m hact hbegan => ?_, fun s n m ph hact hr => ?_, fun s hact => spanFallback_notes hact⟩
  · refine ⟨_, exec_diagTread_next hact, ?_, State.diagBegin_shown hg, State.diagBegin_count hg, ?_, ?_⟩ <;>
      rw [State.diagBegin_some hg] <;> rfl
  · rw [exec_diagTread_next hact, State.diagBegin_none hg]
  · rw [exec_now_next hact, State.diagNow_calls hen hcalled]
  · rw [exec_now_next hact, State.diagNow_off hen]
  · refine ⟨_, exec_tapTestPhase_next hact n .reference m, ?_⟩
    rw [State.tapPhase_reference m hr hbegan, if_neg (by simp [hskip])]
    exact ⟨List.mem_append_right _ List.mem_cons_self, List.mem_append_right _ List.mem_cons_self, s.diag.tapBegun_ref n.val _,
      s.diag.tapBegun_skipped n.val _⟩
  · refine ⟨_, exec_tapTestPhase_next hact n .reference m, ?_⟩
    rw [State.tapPhase_reference m hr hbegan, if_pos hskip]
    exact ⟨s.tapSkip_testing n.val, s.tapSkip_skipped n.val, s.tapSkip_count n.val, s.tapSkip_event n.val⟩
  · refine ⟨_, exec_tapTestPhase_next hact n .sink m, ?_⟩
    rw [State.tapPhase_sink m hr htest]
    exact ⟨s.diag.tapSunk_got n.val _ _, rfl⟩
  · rw [exec_tapTestPhase_next hact, State.tapPhase_source m hr clks htest]
    rfl
  · rw [exec_tapTestPhase_next hact, State.tapPhase_begun m hbegan]
  · rw [exec_tapTestPhase_next hact, State.tapPhase_untested m ph hr]

end Sys2Proof.Machine
end

