-- ==== Sys2Proof/Proofs/SafetyPart.lean ====
section
/-! SUPPORT. What a cause of lock-out, a trip and SF6 keep of the safety part (R261, R266, R274); causes that have gone (R260). -/
namespace Sys2Proof.Machine

/-- The safety part but for what times a lock-out: its beginning, the acknowledge, the release and the sentinel trip that opened it
(R269, R274, R276). -/
def Safe.untimed (x : Safe) : Safe := { x with lockAt := 0, ackAt := none, goneAt := none, first := none }

theorem State.only_safe (s t : State) {c : List Part} (hc : Part.safe ∈ c) : (s.only t c).safe = t.safe := by simp [State.only, hc]

/-! ### Causes and trips -/

section
variable (s : State)

theorem State.clearV_safe (f : Fld) (n : Nat) : (s.clearV f n).safe = s.safe :=
  forEach_keeps State.safe (fun i s => s.setV f i false) _ (fun _ _ _ => rfl) s

theorem State.untimed_ite (p : Prop) [Decidable p] (t : State) :
    (if p then s else t).safe.untimed = if p then s.safe.untimed else t.safe.untimed := apply_ite (fun u : State => u.safe.untimed) p s t

theorem State.causes_untimed : s.causes.safe.untimed = s.safe.untimed := by
  simp [State.causes, apply_ite State.safe, Safe.untimed]

variable (bit info t : Nat) (ev : Bool)

theorem State.lockClock_untimed : (s.lockClock bit).safe.untimed = s.safe.untimed := by
  unfold State.lockClock
  split <;> rfl

theorem State.lockAdd_safe : (s.lockAdd bit info ev).safe = s.safe := by
  simp only [State.lockAdd, State.set_safe, apply_ite State.safe, State.set3, State.set2, ite_self]

theorem State.lockBegin_untimed : (s.lockBegin bit info t).safe.untimed = s.safe.untimed := by
  simp only [State.lockBegin, State.cond_safe, State.clearV_safe]
  rfl

/-- A cause on record, before heartbeat and output follow it (R274). -/
def State.lockNoted : State :=
  let s := (if ev then s.evt SAFE.EVT.TRIP else s).lockClock bit
  let s := if s.locked then s.lockAdd bit info ev else s.lockBegin bit info t
  (if bit = 0 then s.set { SAFE.LIVECAUSE with w := 1 } 1 else s).causes

theorem State.lockCause_noted : s.lockCause bit info t ev = (s.lockNoted bit info t ev).permitUpdate t := (rfl)

theorem State.lockNoted_untimed : (s.lockNoted bit info t ev).safe.untimed = s.safe.untimed := by
  simp only [State.lockNoted, State.causes_untimed, State.untimed_ite, State.set_safe, State.lockAdd_safe, State.lockBegin_untimed,
    State.lockClock_untimed, State.evt_safe, ite_self]

theorem State.lockCause_untimed : (s.lockCause bit info t ev).safe.untimed = s.safe.untimed := by
  rw [State.lockCause_noted, State.permitUpdate_safe, State.lockNoted_untimed]

theorem State.trip_untimed (k : Nat) (sen : Bool) (index : Nat) (fast : Bool) :
    (s.trip k sen index fast t).safe.untimed = s.safe.untimed := by
  rw [State.trip, State.lockCause_untimed, State.cond_safe]

theorem State.trip_get {g : Fld} (hg : g.calm = true) (hl : SAFE.STATUS.LOCKOUT.apart g = true) (he : SAFE.EVT.TRIP.apart g = true)
    (k : Nat) (sen : Bool) (index : Nat) (fast : Bool) : (s.trip k sen index fast t).get g = s.get g := by
  rw [State.trip, State.lockCause_get _ _ _ _ _ hg hl he, State.cond_get]

theorem State.sf6Update_untimed : s.sf6Update.safe.untimed = s.safe.untimed := by
  simp only [State.sf6Update, State.untimed_ite, State.permitUpdate_safe, State.causes_untimed, State.trip_untimed, State.cond_safe,
    State.setB_safe, ite_self]

/-! ### Causes that have gone -/

theorem State.sfGone_untimed : s.sfGone.safe.untimed = s.safe.untimed := by
  simp only [State.sfGone, State.causes_untimed, State.untimed_ite, State.cond_safe, ite_self]

theorem State.sfGone_get {g : Fld} (hg : g.calm = true) : s.sfGone.get g = s.get g := by
  simp only [State.sfGone, State.causes_get _ hg, State.get_ite, State.cond_get, ite_self]

theorem State.sfGone_pageWords {p : Nat} (hsys : 0x01 ≠ p) (hsafe : 0x15 ≠ p) : s.sfGone.pageWords p = s.pageWords p := by
  simp only [State.sfGone, State.causes_pageWords _ hsys hsafe, State.ite_pageWords, State.cond_pageWords, ite_self]

end
end Sys2Proof.Machine
end

