-- ==== Sys2Proof/Proofs/Withdrawal.lean ====
section
/-! SUPPORT. What a cause of lock-out makes of the permit and the output switches (R274, R292, R298). -/
namespace Sys2Proof.Machine

/-- From `s` to `t` the device went into lock-out, or stayed there: the permit is withdrawn, and with it the switches (R274, R292). -/
structure State.LocksOut (s t : State) : Prop where
  locked : t.locked = true
  permit : t.bit BAN.STATUS.PERMIT = false
  opens : s.bit BAN.STATUS.PERMIT = true → t.bit BAN.STATUS.HSCMD = false ∧ t.bit BAN.STATUS.LSCMD = false

/-- Both output switches are commanded open. -/
def State.outputOpen (s : State) : Prop := s.bit BAN.STATUS.HSCMD = false ∧ s.bit BAN.STATUS.LSCMD = false

/-! ### The permit of a device in lock-out -/

section
variable (s : State)

theorem State.openAll_open : s.openAll.outputOpen :=
  ⟨(State.bit_set_ne _ _ _ _ rfl rfl).trans (State.bit_setB s 0x16 2 6 false (by decide)), State.bit_setB _ 0x16 2 7 false (by decide)⟩

theorem State.openAll_permit : s.openAll.bit BAN.STATUS.PERMIT = s.bit BAN.STATUS.PERMIT :=
  (State.bit_set_ne _ BAN.STATUS.LSCMD _ _ rfl rfl).trans (State.bit_set_ne s BAN.STATUS.HSCMD _ _ rfl rfl)

theorem State.nextSw_permit : s.nextSw.bit BAN.STATUS.PERMIT = s.bit BAN.STATUS.PERMIT := by
  unfold State.nextSw
  split
  · exact State.bit_set_ne _ _ _ _ rfl rfl
  · rfl

theorem State.testDiscard_permit : s.testDiscard.bit BAN.STATUS.PERMIT = s.bit BAN.STATUS.PERMIT := by
  rw [State.testDiscard, State.evt, State.bit_set_ne _ _ _ _ rfl rfl, State.inc, State.bit_set_ne _ _ _ _ rfl rfl,
    State.bit_set_ne _ _ _ _ rfl rfl]
  rfl

theorem State.testDemand_permit : s.testDemand.bit BAN.STATUS.PERMIT = s.bit BAN.STATUS.PERMIT := by
  cases ht : s.ban.test <;> simp only [State.testDemand, ht, State.testDiscard_permit, State.nextSw_permit] <;> rfl

theorem State.testDemand_none (h : s.ban.test = .none) : s.testDemand = s := by rw [State.testDemand, h]

/-- The heartbeat gate leaves the output's fields alone (R286). -/
theorem State.hbGate_bit {g : Fld} (hout : BAN.STATUS.HBOUT.apart g = true) (hfwd : SAFE.STATUS.HBFWD.apart g = true)
    (hin : SAFE.STATUS.HBIN.apart g = true) : s.hbGate.bit g = s.bit g := by
  rw [State.hbGate, State.setB, State.bit_set_ne _ _ _ _ rfl hin, State.setB, State.bit_set_ne _ _ _ _ rfl hout, State.setB,
    State.bit_set_ne _ _ _ _ rfl hfwd]
  rfl

/-- The heartbeat follows, and PERMIT is 0. -/
def State.permitOff : State := s.hbGate.setB BAN.STATUS.PERMIT false

theorem State.permitOff_permit : s.permitOff.bit BAN.STATUS.PERMIT = false := State.bit_setB _ 0x16 2 5 false (by decide)

theorem State.permitOff_open (h : s.outputOpen) : s.permitOff.outputOpen := by
  obtain ⟨hhs, hls⟩ := h
  constructor
  · rw [State.permitOff, State.setB, State.bit_set_ne _ _ _ _ rfl rfl, State.hbGate_bit s rfl rfl rfl, hhs]
  · rw [State.permitOff, State.setB, State.bit_set_ne _ _ _ _ rfl rfl, State.hbGate_bit s rfl rfl rfl, hls]

variable {s} (hl : s.locked = true) (t : Nat)
include hl

/-- In lock-out there is no permit; where it stood, the switches open (R292). -/
theorem State.permitUpdate_locked :
    s.permitUpdate t = if s.bit BAN.STATUS.PERMIT then s.permitOff.testDemand.openAll else s.permitOff := by
  have hp : s.permitNow = false := by simp [State.permitNow, hl]
  simp [State.permitUpdate, hp, State.permitOff]

theorem State.permitUpdate_permit : (s.permitUpdate t).bit BAN.STATUS.PERMIT = false := by
  rw [State.permitUpdate_locked hl]
  split
  · rw [State.openAll_permit, State.testDemand_permit, State.permitOff_permit]
  · exact s.permitOff_permit

theorem State.permitUpdate_opens (h : s.bit BAN.STATUS.PERMIT = true) : (s.permitUpdate t).outputOpen := by
  rw [State.permitUpdate_locked hl, if_pos h]
  exact State.openAll_open _

theorem State.permitUpdate_open (h : s.outputOpen) : (s.permitUpdate t).outputOpen := by
  rw [State.permitUpdate_locked hl]
  split
  · exact State.openAll_open _
  · exact s.permitOff_open h

/-- A device in lock-out with no test in progress has none afterwards. -/
theorem State.permitUpdate_noTest (h : s.ban.test = .none) : (s.permitUpdate t).ban.test = .none := by
  have hoff : s.permitOff.ban.test = .none := h
  rw [State.permitUpdate_locked hl, State.testDemand_none _ hoff]
  split <;> exact h

end

/-! ### A cause of lock-out and a trip -/

section
variable (s : State) (bit info t : Nat) (ev : Bool)

theorem State.lockNoted_locked : (s.lockNoted bit info t ev).locked = true := by
  rw [← s.lockCause_locked bit info t ev, s.lockCause_noted, State.locked, State.locked, State.bit, State.bit,
    State.permitUpdate_get _ (by decide)]

theorem State.lockNoted_without : (s.lockNoted bit info t ev).without [.safe] = s.without [.safe] := by
  have hs : Part.safe ∈ [Part.safe] := by decide
  simp only [State.lockNoted, State.lockClock, State.lockAdd, State.lockBegin, State.causes_without _ hs, State.ite_without,
    State.set_without, State.set2_without, State.set3_without, State.setB_without, State.inc_without, State.evt_without,
    State.clearV_without, State.cond_without, State.withSafe_without _ hs, ite_self]

theorem State.lockNoted_ban : (s.lockNoted bit info t ev).ban = s.ban := by
  rw [← State.only_of_without (s.lockNoted_without bit info t ev)]
  rfl

theorem State.lockNoted_pageWords {p : Nat} (hsys : 0x01 ≠ p) (hsafe : 0x15 ≠ p) :
    (s.lockNoted bit info t ev).pageWords p = s.pageWords p := by
  simp (disch := simp [Fld.addr, Fld.plus, linear] <;> omega) only [State.lockNoted, State.lockClock, State.lockAdd, State.lockBegin,
    State.causes_pageWords _ hsys hsafe, State.withSafe_pageWords, State.ite_pageWords, State.evt_pageWords, State.set_pageWords,
    State.setB_pageWords, State.inc_pageWords, State.set3, State.set2_pageWords, State.cond_pageWords,
    State.clearV_pageWords _ hsafe, ite_self]

theorem State.lockNoted_output {f : Fld} (hf : f.addr / 64 = 0x16) : (s.lockNoted bit info t ev).bit f = s.bit f :=
  State.bit_of_pageWords (s.lockNoted_pageWords bit info t ev (by decide) (by decide)) hf

theorem State.lockCause_locksOut : s.LocksOut (s.lockCause bit info t ev) := by
  have hl := s.lockNoted_locked bit info t ev
  refine ⟨s.lockCause_locked bit info t ev, State.permitUpdate_permit hl t, fun hp => State.permitUpdate_opens hl t ?_⟩
  rwa [s.lockNoted_output bit info t ev rfl]

theorem State.lockCause_open (h : s.outputOpen) : (s.lockCause bit info t ev).outputOpen := by
  refine State.permitUpdate_open (s.lockNoted_locked bit info t ev) t ?_
  rwa [State.outputOpen, s.lockNoted_output bit info t ev rfl, s.lockNoted_output bit info t ev rfl]

theorem State.lockCause_noTest (h : s.ban.test = .none) : (s.lockCause bit info t ev).ban.test = .none :=
  State.permitUpdate_noTest (s.lockNoted_locked bit info t ev) t (by rw [s.lockNoted_ban, h])

end

section
variable {s s' t u : State}

theorem State.LocksOut.since (h : s'.LocksOut t) (hs : s'.bit BAN.STATUS.PERMIT = s.bit BAN.STATUS.PERMIT) : s.LocksOut t :=
  ⟨h.locked, h.permit, fun hp => h.opens (hs.trans hp)⟩

/-- What follows a lock-out beside LOCKOUT and the banister's page does not undo it. -/
theorem State.LocksOut.followed (h : s.LocksOut t) (hl : u.locked = t.locked) (hb : u.pageWords 0x16 = t.pageWords 0x16) :
    s.LocksOut u := by
  have hbit {f : Fld} (hf : f.addr / 64 = 0x16) : u.bit f = t.bit f := State.bit_of_pageWords hb hf
  refine ⟨hl.trans h.locked, (hbit rfl).trans h.permit, fun hp => ?_⟩
  obtain ⟨hhs, hls⟩ := h.opens hp
  exact ⟨(hbit rfl).trans hhs, (hbit rfl).trans hls⟩

theorem State.trip_locksOut (k : Nat) (sen : Bool) (index : Nat) (fast : Bool) (time : Nat) :
    s.LocksOut (s.trip k sen index fast time) :=
  (State.lockCause_locksOut _ _ _ _ _).since (State.cond_bit _ _ _ _)

end
end Sys2Proof.Machine
end

