-- ==== Sys2Proof/Proofs/SentinelTrips.lean ====
section
/-! SUPPORT. A sentinel's trip, and what its confirmation and the switches held off leave of it (R139, R220, R256, R260, R269). -/
namespace Sys2Proof.Machine

/-- What a trip is known by: the fault conditions, LOCKOUT, the banister's page and the tripped comparators. -/
def State.tripView (s : State) : BitVec 64 × Bool × List Word × SMap Bool := (s.condNow, s.locked, s.pageWords 0x16, s.safe.tripped)

section
variable (s : State)

theorem State.set_tripView {f : Fld} (hl : SAFE.STATUS.LOCKOUT.addr ≠ f.addr) (hb : f.addr / 64 ≠ 0x16) (v : Nat) :
    (s.set f v).tripView = s.tripView := by
  have hlocked : (s.set f v).locked = s.locked := State.bit_of_reg (s.reg_set_ne f v _ hl)
  rw [State.tripView, hlocked, s.set_pageWords hb]
  rfl

theorem State.setConv_tripView (c : Conv) (x : AuxConv) : (s.setConv c x).tripView = s.tripView := by cases c <;> rfl

theorem State.auxStatus_tripView (c : Conv) (qwait pwr : Bool) : (s.auxStatus c qwait pwr).tripView = s.tripView := by
  cases c <;> simp (disch := decide) only [State.auxStatus, State.setB, Conv.fld, Conv.page, State.set_tripView]

theorem State.cutSwitches_tripView (l : List Nat) : (s.cutSwitches l).tripView = s.tripView := by
  have hsolve (u : State) (t : Nat) : (u.resolveSw t).tripView = u.tripView := by
    refine forEach_keeps State.tripView _ _ (fun _ _ _ => ?_) u
    rfl
  refine forEach_keeps State.tripView _ l (fun n _ u => ?_) s
  rw [State.cutSwitch_eq, apply_ite State.tripView, hsolve]
  exact ite_self _

theorem State.tapSkip_tripView (n : Nat) : (s.tapSkip n).tripView = s.tripView := by
  simp (disch := decide) only [State.tapSkip, State.evt, State.inc, State.set_tripView]
  rfl

theorem State.urgMeets_tripView (w : Word) : (s.urgMeets w).tripView = s.tripView := by
  rw [State.urgMeets, State.cutSwitches_tripView]
  exact forEach_keeps State.tripView _ _ (fun n _ u => u.tapSkip_tripView n) s

theorem State.urgStart_tripView (c : Conv) (q : UrgReq) : (s.urgStart c q).tripView = s.tripView := by
  rw [State.urgStart, State.auxStatus_tripView, State.setConv_tripView, State.urgMeets_tripView]
  split
  · cases c <;> simp (disch := decide) only [State.evt, State.inc, Conv.fld, Conv.page, State.set_tripView]
  · rfl

theorem State.urgRequest_tripView (c : Conv) (q : UrgReq) : (s.urgRequest c q).tripView = s.tripView := by
  have htick : s.tick.tripView = s.tripView := rfl
  cases hp : (s.conv c).urgPend <;>
    simp (disch := decide) only [State.urgRequest, hp, apply_ite State.tripView, State.auxStatus_tripView, State.setConv_tripView,
      State.urgStart_tripView, State.evt, State.set_tripView, htick, ite_self]

theorem State.confFeedN_tripView (fuel : Nat) : (State.confFeedN fuel s).tripView = s.tripView := by
  induction fuel generalizing s with
  | zero => rfl
  | succ fuel ih =>
    unfold State.confFeedN
    split
    · extract_lets w free
      rw [apply_ite State.tripView, ih, State.urgRequest_tripView]
      exact ite_self _
    · rfl

theorem State.confRequest_tripView (cell : Nat) (ov : Bool) : (s.confRequest cell ov).tripView = s.tripView :=
  State.confFeedN_tripView _ 2

/-! ### The trip and what follows it (R220, R256, R260, R269) -/

/-- The safety function a sentinel trips (R256). -/
def senFault : Sentinel → Nat
  | .ov _ => 0
  | .uv _ => 1
  | .oc => 3
  | .die => 4

/-- TRIPINFO.INDEX of a sentinel's trip. -/
def senIndex : Sentinel → Nat
  | .ov c => c.val + 1
  | .uv c => c.val + 1
  | _ => 0

/-- The comparator noted as tripped. -/
def State.senNoted (x : Sentinel) : State := { s with safe := { s.safe with tripped := put s.safe.tripped (senNo x) true } }

/-- The trip of a completed deglitch count (R260, R261). -/
def State.senTripped (x : Sentinel) : State := (s.senNoted x).trip (senFault x) true (senIndex x) false s.nowNs

/-- The trip to be confirmed, where it opens the lock-out (R269). -/
def State.senFirst (c : Nat) (ov was : Bool) : State := if was then s else { s with safe := { s.safe with first := some (c, ov) } }

/-- What follows a sentinel's trip: its cell's bit, the switches held off and the confirmation (R220, R269). -/
def State.senFollow (was : Bool) : Sentinel → State
  | .ov c => (((s.setV SAFE.OVTRIP0 c.val true).senFirst (c.val + 1) true was).cutSwitches [c.val + 1]).confRequest (c.val + 1) true
  | .uv c => (((s.setV SAFE.UVTRIP0 c.val true).senFirst (c.val + 1) false was).cutSwitches [c.val + 1]).confRequest (c.val + 1) false
  | .oc => s
  | .die => s.cutSwitches ((List.range 36).map (· + 1))

theorem State.senTrip_trips {x : Sentinel} (hacts : s.senActs x = true) (hon : look s.safe.asserted (senNo x) = true)
    (hoff : look s.safe.tripped (senNo x) = false) : s.senTrip x = (s.senTripped x).senFollow (!s.untripped) x := by
  have hgo : ¬(s.senActs x = false ∨ look s.safe.asserted (senNo x) = false ∨ look s.safe.tripped (senNo x) = true) := by
    simp [hacts, hon, hoff]
  unfold State.senTrip
  cases x <;> exact if_neg hgo

theorem State.setV_tripView {f : Fld} (hp : f.page = 0x15) (hw : 2 < f.word) {i : Nat} (hn : f.word + i / 16 < 64) (b : Bool) :
    (s.setV f i b).tripView = s.tripView := by
  refine State.set_tripView s (f := { f with word := f.word + i / 16, lo := i % 16, w := 1 }) ?_ ?_ _
  · simp only [Fld.addr, linear, hp]
    omega
  · rw [Fld.addr, linear_div _ hn, hp]
    decide

theorem State.senFirst_tripView (c : Nat) (ov was : Bool) : (s.senFirst c ov was).tripView = s.tripView := by cases was <;> rfl

theorem State.senFollow_tripView (was : Bool) (x : Sentinel) : (s.senFollow was x).tripView = s.tripView := by
  cases x with
  | ov c =>
    rw [State.senFollow, State.confRequest_tripView, State.cutSwitches_tripView, State.senFirst_tripView,
      State.setV_tripView s rfl (by decide) (show 0x31 + c.val / 16 < 64 by omega)]
  | uv c =>
    rw [State.senFollow, State.confRequest_tripView, State.cutSwitches_tripView, State.senFirst_tripView,
      State.setV_tripView s rfl (by decide) (show 0x34 + c.val / 16 < 64 by omega)]
  | oc => rfl
  | die => exact s.cutSwitches_tripView _

theorem senFault_lt (x : Sentinel) : senFault x < 8 := by cases x <;> simp [senFault]

theorem State.senTripped_holds (x : Sentinel) : (s.senTripped x).holds (senFault x) = true :=
  State.trip_holds _ _ _ _ _ _ (senFault_lt x)

theorem State.senTripped_tripped (x : Sentinel) : look (s.senTripped x).safe.tripped (senNo x) = true := by
  have htripped : (s.senTripped x).safe.tripped = put s.safe.tripped (senNo x) true :=
    congrArg Safe.tripped ((s.senNoted x).trip_untimed s.nowNs (senFault x) true (senIndex x) false)
  rw [htripped, look_put_self]

theorem State.senTripped_locksOut (x : Sentinel) : s.LocksOut (s.senTripped x) :=
  ((s.senNoted x).trip_locksOut (senFault x) true (senIndex x) false s.nowNs).since rfl

end

theorem exec_sentinelTrip_eq (x : Sentinel) (s : State) : exec (.sentinelTrip x) s =
    whenActive [.bal, .aux, .diag, .safe, .ban] s fun s => s.senTrip x := (rfl)

/-- A trip with what follows it: what is known of the trip stands. -/
theorem sentinelTrip_trips {s : State} {x : Sentinel} (hact : s.pw.phase = .active) (hacts : s.senActs x = true)
    (hon : look s.safe.asserted (senNo x) = true) (hoff : look s.safe.tripped (senNo x) = false) :
    ∃ t, exec (.sentinelTrip x) s = .next t ∧ s.LocksOut t ∧ look t.safe.tripped (senNo x) = true ∧
      t.holds (senFault x) = true := by
  have hview := (s.senTripped x).senFollow_tripView (!s.untripped) x
  simp only [State.tripView, Prod.mk.injEq] at hview
  obtain ⟨hcond, hlocked, hban, htripped⟩ := hview
  rw [exec_sentinelTrip_eq, whenActive_active _ s _ hact, s.senTrip_trips hacts hon hoff]
  have hout := (s.senTripped_locksOut x).followed hlocked hban
  refine ⟨_, rfl, ⟨hout.locked, hout.permit, hout.opens⟩, ?_, ?_⟩
  · rw [State.only_safe _ _ (by decide), htripped, s.senTripped_tripped x]
  · rw [← s.senTripped_holds x, State.holds, State.only_condNow, hcond, State.holds]

end Sys2Proof.Machine
end

