-- ==== Sys2Proof/Proofs/Trips.lean ====
section
/-! O37. The host's trip, an expired watchdog, a sentinel's trip and a readback failure (R260, R261, R267, R274, R292, R299). -/
namespace Sys2Proof.Machine

theorem exec_safeTrip_eq (key : Byte) (s : State) : exec (.safeTrip key) s = whenActive [.safe, .ban] s fun s => s.safeTrip key := (rfl)
theorem exec_readbackFailure_eq (s : State) : exec .readbackFailure s =
    whenActive [.safe, .ban] s fun s => s.when s.stageChecks State.outFail := (rfl)

/-! ### The host's trip and its watchdog (R267, R274) -/

section
variable (s : State)

theorem State.safeTrip_keyed : s.safeTrip 0xA5#8 = s.hostLock := (rfl)

theorem State.hostLock_at : s.hostLock.safe.hostAt = some s.tm.tread :=
  congrArg Safe.hostAt (State.lockCause_untimed { s with safe := { s.safe with hostAt := some s.tm.tread } } 12 0 s.nowNs true)

/-- The host watchdog noted as expired, with its event. -/
def State.watchdogNoted : State := ({ s with safe := { s.safe with wdOut := true } }).evt SAFE.EVT.WDEXP

/-- An expired host watchdog trips SF7 (R267). -/
def State.watchdogTrip : State := s.watchdogNoted.trip 6 false 0 false s.nowNs

theorem exec_hostWatchdogExpire_eq : exec .hostWatchdogExpire s =
    whenActive [.safe, .ban] s fun s => s.when (s.safe.wd == some 0 && !s.safe.wdOut) State.watchdogTrip := (rfl)

theorem State.watchdogTrip_without : s.watchdogTrip.without [.safe, .ban] = s.without [.safe, .ban] :=
  (State.trip_without _ _ _ _ _ _ (by decide) (by decide)).trans (s.withSafe_without (by decide) _)

theorem State.watchdogTrip_out : s.watchdogTrip.safe.wdOut = true :=
  congrArg Safe.wdOut (s.watchdogNoted.trip_untimed s.nowNs 6 false 0 false)

theorem State.watchdogTrip_event : s.watchdogTrip.bit SAFE.EVT.WDEXP = true := by
  rw [State.watchdogTrip, State.bit, State.trip_get _ _ (by decide) (by decide) (by decide)]
  exact State.bit_evt _ _ _ _ (by decide)

theorem State.watchdogTrip_locksOut : s.LocksOut s.watchdogTrip :=
  (State.trip_locksOut 6 false 0 false s.nowNs).since (State.bit_set_ne _ SAFE.EVT.WDEXP BAN.STATUS.PERMIT 1 rfl rfl)

end

/-! ### A readback failure (R294, R299) -/

section
variable (s : State)

/-- A readback failure shown: fault 10, its status and its event. -/
def State.failLive : State := ((s.cond 10 true).setB BAN.STATUS.OUTLIVE true).evt BAN.EVT.TESTFAIL

/-- The verdict on test phase `p`; one that had opened a switch leaves the next test to the other (R295). -/
def State.failVerdict : TestPhase → State
  | .none => s
  | .check => s.set BAN.TESTRES.FAIL 1
  | .opening _ => (s.set BAN.TESTRES.FAIL 1).nextSw
  | .passed _ => (s.set BAN.TESTRES.FAIL 1).nextSw
  | .reclosing _ => (s.set BAN.TESTRES.FAIL 1).nextSw

/-- Every switch open and no test in progress. -/
def State.failOpen : State := ({ s with ban := { s.ban with test := .none } }).openAll

theorem State.outFail_eq : s.outFail = (s.failLive.failVerdict s.ban.test).failOpen.lockCause 9 0 s.nowNs true := by
  cases ht : s.ban.test <;>
    simp only [State.outFail, State.failLive, State.failVerdict, State.failOpen, State.setB, State.evt_ban, State.set_ban,
      State.cond_ban, ht, ne_eq, reduceCtorEq, not_true_eq_false, not_false_eq_true, decide_true, decide_false, if_true, if_false,
      Bool.false_eq_true]

theorem State.failVerdict_condNow (p : TestPhase) : (s.failVerdict p).condNow = s.condNow := by
  have hnext (u : State) : u.nextSw.condNow = u.condNow := by simp [State.nextSw, apply_ite State.condNow, State.setB]
  cases p <;> simp [State.failVerdict, hnext]

theorem State.outFail_without : s.outFail.without [.safe, .ban] = s.without [.safe, .ban] := by
  have hverdict (u : State) (p : TestPhase) : (u.failVerdict p).without [.safe, .ban] = u.without [.safe, .ban] := by
    cases p <;> simp [State.failVerdict, State.nextSw_without]
  have hopen (u : State) : u.failOpen.without [.safe, .ban] = u.without [.safe, .ban] := u.withBan_without (by decide) _
  rw [State.outFail_eq, State.lockCause_without _ (by decide) (by decide), hopen, hverdict, State.failLive, State.evt_without,
    State.setB_without, State.cond_without]

theorem State.outFail_locked : s.outFail.locked = true ∧ s.outFail.bit BAN.STATUS.PERMIT = false := by
  have hlock := (s.failLive.failVerdict s.ban.test).failOpen.lockCause_locksOut 9 0 s.nowNs true
  rw [State.outFail_eq]
  exact ⟨hlock.locked, hlock.permit⟩

theorem State.outFail_holds : s.outFail.holds 10 = true := by
  have hlive : s.failLive.holds 10 = true := (s.holds_cond 10 10 true (by decide)).trans (if_pos rfl)
  rw [State.outFail_eq, State.lockCause_holds _ _ _ _ _ (by decide), ← hlive]
  exact congrArg (fun v : BitVec 64 => v.getLsbD 10) (s.failLive.failVerdict_condNow s.ban.test)

theorem State.outFail_noTest : s.outFail.ban.test = .none := by
  rw [State.outFail_eq]
  exact State.lockCause_noTest _ _ _ _ _ rfl

theorem State.outFail_open : s.outFail.outputOpen := by
  rw [State.outFail_eq]
  exact State.lockCause_open _ _ _ _ _ (State.openAll_open _)

end

/-- Settles O37: whatever trips ends in a cause of lock-out, which withdraws the permit and opens the switches
(`State.lockCause_locksOut`); what follows a sentinel's trip leaves that as it is (`State.senFollow_tripView`), and a readback failure
has opened the switches before (`State.outFail_open`). -/
theorem tripsOpenTheOutput : Obligations.TripsOpenTheOutput := by
  refine ⟨fun s hact => ?_, fun s hact hwd hout => ?_, fun s x hact hacts hon hoff => ?_, fun s hact hused hovs => ?_⟩
  · have hlock : s.LocksOut s.hostLock := State.LocksOut.since (State.lockCause_locksOut _ _ _ _ _) rfl
    refine ⟨s.hostLock, ?_, hlock.locked, hlock.permit, s.hostLock_at, hlock.opens⟩
    rw [exec_safeTrip_eq, whenActive_next hact (s.safeTrip_without (by decide) (by decide) 0xA5#8), State.safeTrip_keyed]
  · have hlock := s.watchdogTrip_locksOut
    have hdue : (s.safe.wd == some 0 && !s.safe.wdOut) = true := by simp [hwd, hout]
    exact ⟨s.watchdogTrip, (exec_hostWatchdogExpire_eq s).trans (whenActive_when_true hact hdue s.watchdogTrip_without),
      hlock.locked, hlock.permit, s.watchdogNoted.trip_holds _ _ _ _ _ (by decide), s.watchdogTrip_out, s.watchdogTrip_event, hlock.opens⟩
  · obtain ⟨t, hexec, hlock, htripped, hholds⟩ := sentinelTrip_trips hact hacts hon hoff
    refine ⟨t, hexec, hlock.locked, hlock.permit, htripped, ?_, hlock.opens⟩
    cases x <;> exact hholds
  · obtain ⟨hhs, hls⟩ := s.outFail_open
    obtain ⟨hlocked, hpermit⟩ := s.outFail_locked
    have hchecks : s.stageChecks = true := by simp [State.stageChecks, hused, hovs]
    exact ⟨s.outFail, (exec_readbackFailure_eq s).trans (whenActive_when_true hact hchecks s.outFail_without),
      hlocked, hpermit, s.outFail_holds, hhs, hls, s.outFail_noTest⟩

end Sys2Proof.Machine
end

