-- ==== Sys2Proof/Proofs/SafetyCommands.lean ====
section
/-! O38. The keyed words of the safety block, tighter limits, the sentinels' comparators and the host watchdog (R256 to R258, R261, R267,
R271, R280). -/
namespace Sys2Proof.Machine

theorem exec_safeRetest_eq (key : Byte) (s : State) : exec (.safeRetest key) s = whenActive [.safe] s fun s => s.safeRetest key := (rfl)
theorem exec_tcommit_eq (v : Word) (s : State) : exec (.tcommit v) s = whenActive [.safe] s fun s => s.tightCommit v := (rfl)
theorem exec_sentinelAssert_eq (x : Sentinel) (on : Bool) (s : State) :
    exec (.sentinelAssert x on) s = whenActive [.safe] s fun s => s.senAssert x on := (rfl)
theorem exec_sentinelRelease_eq (x : Sentinel) (s : State) :
    exec (.sentinelRelease x) s = whenActive [.safe] s fun s => s.senRelease x := (rfl)
theorem exec_kick_eq (s : State) : exec .kick s = whenActive [.safe] s State.kick := (rfl)

/-! ### Keyed words (R258, R271, R280) -/

section
variable {s : State}

theorem State.safeTrip_wrong {key : Byte} (h : key ≠ 0xA5#8) : s.safeTrip key = s.evt SAFE.EVT.KEYREJ := if_neg h
theorem State.safeRetest_wrong {key : Byte} (h : key ≠ 0xA5#8) : s.safeRetest key = s.evt SAFE.EVT.KEYREJ := if_neg h
theorem State.tightCommit_wrong {v : Word} (h : v ≠ 0xC35A#16) : s.tightCommit v = s.evt SAFE.EVT.KEYREJ := if_pos h

end

section
variable (s : State)

/-- The other bits of a vector stay as they are. -/
theorem State.vbit_setV_ne (f : Fld) {i j : Nat} (b : Bool) (h : j ≠ i) : (s.setV f i b).vbit f j = s.vbit f j := by
  refine State.bit_set_ne s _ _ _ ?_ ?_
  · simp [Fld.ok]
    omega
  · simp [Fld.apart, Fld.addr, linear]
    omega

theorem State.clearV_succ (f : Fld) (n : Nat) : s.clearV f (n + 1) = (s.clearV f n).setV f n false := by
  simp [State.clearV, forEach, List.range_succ]

theorem State.clearV_vbit (f : Fld) {n i : Nat} (h : i < n) : (s.clearV f n).vbit f i = false := by
  induction n with
  | zero => omega
  | succ n ih =>
    rw [State.clearV_succ]
    by_cases hi : i = n
    · rw [hi, State.vbit_setV]
    · rw [State.vbit_setV_ne _ _ _ hi, ih (by omega)]

/-- The failures of the sentinel test cleared from the register words. -/
def State.failsCleared : State := (s.clearV SAFE.SENFAIL0 36).set { SAFE.SENTST with lo := 7, w := 3 } 0

theorem State.safeRetest_keyed : s.safeRetest 0xA5#8 = { s.failsCleared with safe := { s.safe with senOut := [] } } := (rfl)

theorem State.withSafe_vbit (x : Safe) (f : Fld) (i : Nat) : ({ s with safe := x } : State).vbit f i = s.vbit f i := (rfl)

theorem State.failsCleared_vbit {i : Nat} (h : i < 36) : s.failsCleared.vbit SAFE.SENFAIL0 i = false := by
  rw [← s.clearV_vbit SAFE.SENFAIL0 h]
  refine State.vbit_of_reg (State.reg_set_ne _ _ _ _ ?_)
  simp only [Fld.addr, linear]
  omega

end

/-! ### Tighter limits (R257, R258) -/

section
variable (s : State)

theorem Fld.plus_addr (f : Fld) (n : Nat) : (f.plus n).addr = f.addr + n := (Nat.add_assoc _ _ _).symm

/-- Words stored one after another, the first `k` words behind `f`, and the words around them. -/
theorem State.storeWords_reg (l : List Word) (f : Fld) (k a : Nat) :
    (forEach (l.zipIdx k) (fun (p : Word × Nat) (s : State) => s.setReg (f.plus p.2).addr p.1) s).reg a =
      if f.addr + k ≤ a then (l[a - (f.addr + k)]?).getD (s.reg a) else s.reg a := by
  induction l generalizing s k with
  | nil => simp [forEach]
  | cons w l ih =>
    refine (ih (s.setReg (f.plus k).addr w) (k + 1)).trans ?_
    rw [State.reg_setReg, Fld.plus_addr]
    rcases lt_trichotomy a (f.addr + k) with h | h | h
    · rw [if_neg (by omega), if_neg (by omega), if_neg (by omega)]
    · rw [if_neg (by omega), if_pos h, if_pos (by omega), h, Nat.sub_self]
      rfl
    · rw [if_pos (by omega), if_neg (by omega), if_pos (by omega), show a - (f.addr + k) = a - (f.addr + (k + 1)) + 1 by omega]
      rfl

theorem State.copyCands_reg (a : Nat) : s.copyCands.reg a =
    if SAFE.NEWOVLIM.addr ≤ a then (s.limWords[a - SAFE.NEWOVLIM.addr]?).getD (s.reg a) else s.reg a :=
  s.storeWords_reg s.limWords SAFE.NEWOVLIM 0 a

/-- The words in use lie below the candidates, so that the copy leaves them alone (R258). -/
theorem State.copyCands_limWords : s.copyCands.limWords = s.limWords := by
  refine List.map_inj_left.mpr fun i hi => ?_
  have hlt := List.mem_range.mp hi
  rw [State.copyCands_reg, if_neg]
  rw [Fld.plus_addr]
  simp only [Fld.addr, linear]
  omega

theorem State.copyCands_candWords : s.copyCands.candWords = s.limWords := by
  refine List.ext_getElem (by simp [State.candWords, State.limWords]) fun i hi hlim => ?_
  have hcand : s.copyCands.candWords[i]'hi = s.copyCands.reg (SAFE.NEWOVLIM.plus i).addr := by simp [State.candWords]
  rw [hcand, State.copyCands_reg, Fld.plus_addr, if_pos (by omega), Nat.add_sub_cancel_left, List.getElem?_eq_getElem hlim,
    Option.getD_some]

theorem State.limWords_of_reg {t : State} (h : ∀ i, i < 10 → t.reg (SAFE.OVLIM.addr + i) = s.reg (SAFE.OVLIM.addr + i)) :
    t.limWords = s.limWords := List.map_inj_left.mpr fun i hi => by rw [Fld.plus_addr, h i (List.mem_range.mp hi)]

theorem State.candWords_of_reg {t : State} (h : ∀ i, i < 10 → t.reg (SAFE.NEWOVLIM.addr + i) = s.reg (SAFE.NEWOVLIM.addr + i)) :
    t.candWords = s.candWords := List.map_inj_left.mpr fun i hi => by rw [Fld.plus_addr, h i (List.mem_range.mp hi)]

/-- The result and the event lie beside the words in use and the candidates. -/
theorem State.set_limWords {f : Fld} (h : f.addr < SAFE.OVLIM.addr ∨ SAFE.OVLIM.addr + 10 ≤ f.addr) (v : Nat) :
    (s.set f v).limWords = s.limWords := s.limWords_of_reg fun i _ => s.reg_set_ne f v _ (by omega)

theorem State.set_candWords {f : Fld} (h : f.addr < SAFE.NEWOVLIM.addr ∨ SAFE.NEWOVLIM.addr + 10 ≤ f.addr) (v : Nat) :
    (s.set f v).candWords = s.candWords := s.candWords_of_reg fun i _ => s.reg_set_ne f v _ (by omega)

/-- The result of a commit shown. -/
def State.tightShown : State := s.set SAFE.TRESULT.word s.tightResult.2

theorem State.tightShown_limWords : s.tightShown.limWords = s.limWords := s.set_limWords (by decide) _
theorem State.tightShown_candWords : s.tightShown.candWords = s.candWords := s.set_candWords (by decide) _
theorem State.tightShown_result : s.tightShown.reg SAFE.TRESULT.word.addr = BitVec.ofNat 16 s.tightResult.2 := State.reg_set_all _ _ _ _

theorem State.tightCommit_keyed : s.tightCommit 0xC35A#16 =
    if s.tightResult.1 then ({ s.tightShown with safe := { s.safe with commit := some s.tightShown.candWords } }).evt SAFE.EVT.TACC
    else s.tightShown.copyCands.evt SAFE.EVT.TREJ := (rfl)

variable {s}

theorem State.tightCommit_accepts (h : s.tightResult.1 = true) : s.tightCommit 0xC35A#16 =
    ({ s.tightShown with safe := { s.safe with commit := some s.candWords } }).evt SAFE.EVT.TACC := by
  rw [s.tightCommit_keyed, if_pos h, s.tightShown_candWords]

theorem State.tightCommit_refuses (h : s.tightResult.1 = false) : s.tightCommit 0xC35A#16 = s.tightShown.copyCands.evt SAFE.EVT.TREJ := by
  rw [s.tightCommit_keyed, h]
  rfl

theorem tcommit_waits (hact : s.pw.phase = .active) (h : s.tightResult.1 = true) : ∃ t, exec (.tcommit 0xC35A#16) s = .next t ∧
    t.safe = { s.safe with commit := some s.candWords } ∧ t.reg SAFE.TRESULT.word.addr = BitVec.ofNat 16 s.tightResult.2 ∧
    t.bit SAFE.EVT.TACC = true ∧ t.limWords = s.limWords := by
  refine ⟨s.tightCommit 0xC35A#16, (exec_tcommit_eq _ s).trans (whenActive_next hact (s.tightCommit_without (by decide) _)), ?_⟩
  rw [State.tightCommit_accepts h]
  refine ⟨rfl, ?_, State.bit_evt _ _ _ _ (by decide), ?_⟩
  · rw [State.reg_evt_ne _ (by decide), ← s.tightShown_result]
    rfl
  · rw [State.evt, State.set_limWords _ (by decide), ← s.tightShown_limWords]
    rfl

theorem tcommit_refused (hact : s.pw.phase = .active) (h : s.tightResult.1 = false) : ∃ t, exec (.tcommit 0xC35A#16) s = .next t ∧
    t.safe = s.safe ∧ t.candWords = s.limWords ∧ t.limWords = s.limWords ∧ t.bit SAFE.EVT.TREJ = true := by
  have hsafe : s.tightShown.copyCands.safe = s.safe := State.safe_of_without (c := []) (by decide) s.tightShown.copyCands_without
  refine ⟨s.tightCommit 0xC35A#16, (exec_tcommit_eq _ s).trans (whenActive_next hact (s.tightCommit_without (by decide) _)), ?_⟩
  rw [State.tightCommit_refuses h]
  refine ⟨(State.evt_safe _ _).trans hsafe, ?_, ?_, State.bit_evt _ _ _ _ (by decide)⟩
  · rw [State.evt, State.set_candWords _ (by decide), State.copyCands_candWords, s.tightShown_limWords]
  · rw [State.evt, State.set_limWords _ (by decide), State.copyCands_limWords, s.tightShown_limWords]

end

/-! ### Sentinels and the host watchdog (R256, R261, R267) -/

section
variable {s : State}

theorem State.senAssert_acts {x : Sentinel} (h : s.senActs x = true) (on : Bool) :
    s.senAssert x on = { s with safe := { s.safe with asserted := put s.safe.asserted (senNo x) on } } := if_pos h

theorem State.senAssert_idle {x : Sentinel} (h : s.senActs x = false) (on : Bool) : s.senAssert x on = s := if_neg (by simp [h])

variable (s) in
/-- The comparator neither tripped nor asserted. -/
def State.senFreed (x : Sentinel) : State :=
  { s with safe := { s.safe with tripped := put s.safe.tripped (senNo x) false, asserted := put s.safe.asserted (senNo x) false } }

theorem State.senRelease_ends {x : Sentinel} (h : look s.safe.tripped (senNo x) = true) : s.senRelease x = (s.senFreed x).sfGone := if_pos h

theorem State.sfGone_locked : s.sfGone.locked = s.locked := by
  rw [State.locked, State.locked, State.bit, State.bit, s.sfGone_get (by decide)]

theorem sentinelRelease_ends {x : Sentinel} (hact : s.pw.phase = .active) (h : look s.safe.tripped (senNo x) = true) :
    ∃ t, exec (.sentinelRelease x) s = .next t ∧ look t.safe.tripped (senNo x) = false ∧ look t.safe.asserted (senNo x) = false ∧
      t.locked = s.locked ∧ t.bit BAN.STATUS.PERMIT = s.bit BAN.STATUS.PERMIT ∧
      (∀ k, k ≠ senNo x → look t.safe.tripped k = look s.safe.tripped k) := by
  have hsafe := (s.senFreed x).sfGone_untimed
  have htripped : (s.senFreed x).sfGone.safe.tripped = put s.safe.tripped (senNo x) false := congrArg Safe.tripped hsafe
  have hasserted : (s.senFreed x).sfGone.safe.asserted = put s.safe.asserted (senNo x) false := congrArg Safe.asserted hsafe
  have hwithout : (s.senFreed x).sfGone.without [.safe] = s.without [.safe] :=
    (State.sfGone_without _ (by decide)).trans (s.withSafe_without (by decide) _)
  refine ⟨(s.senFreed x).sfGone, ?_, ?_, ?_, State.sfGone_locked, ?_, fun k hk => ?_⟩
  · rw [exec_sentinelRelease_eq, ← State.senRelease_ends h]
    exact whenActive_next hact (by rw [State.senRelease_ends h, hwithout])
  · rw [htripped, look_put_self]
  · rw [hasserted, look_put_self]
  · exact State.bit_of_pageWords ((s.senFreed x).sfGone_pageWords (p := 0x16) (by decide) (by decide)) rfl
  · rw [htripped, look_put_ne _ _ _ _ hk]

theorem exec_kick_next (hact : s.pw.phase = .active) : exec .kick s = .next s.kick :=
  (exec_kick_eq s).trans (whenActive_next hact (s.kick_without (by decide)))

variable (s)

/-- The host watchdog reloaded (R267). -/
def State.watchdogLoaded : State :=
  { s with safe := { s.safe with wd := if s.get SAFE.HOSTWD = 0 then none else some (s.get SAFE.HOSTWD + 1), wdOut := false } }

theorem State.kick_eq : s.kick = s.watchdogLoaded.sfGone := (rfl)

theorem State.kick_watchdog : s.kick.safe.wdOut = false ∧
    s.kick.safe.wd = (if s.get SAFE.HOSTWD = 0 then none else some (s.get SAFE.HOSTWD + 1)) := by
  have hsafe := s.watchdogLoaded.sfGone_untimed
  rw [s.kick_eq]
  exact ⟨congrArg Safe.wdOut hsafe, congrArg Safe.wd hsafe⟩

theorem State.kick_locked : s.kick.locked = s.locked := by
  rw [s.kick_eq, State.sfGone_locked]
  rfl

end

/-- Settles O38: a wrong key ends in KEYREJ alone; a commit is `State.tightShown`, then held or answered by the words in use
(`State.copyCands_candWords`); what a release and a kick leave of the lock-out is read off `State.sfGone`. -/
theorem safetyCommands : Obligations.SafetyCommands := by
  refine ⟨fun s key hact hkey => ⟨?_, ?_⟩, fun s v hact hv => ?_, fun s hact => ?_, fun s hact hok => tcommit_waits hact hok,
    fun s hact hbad => tcommit_refused hact hbad, fun s x on hact hacts => ?_, fun s x on hact hacts => ?_,
    fun s x hact htrip => sentinelRelease_ends hact htrip, fun s hact => ?_⟩
  · rw [exec_safeTrip_eq, whenActive_next hact (s.safeTrip_without (by decide) (by decide) key), State.safeTrip_wrong hkey]
  · rw [exec_safeRetest_eq, whenActive_next hact (s.safeRetest_without (by decide) key), State.safeRetest_wrong hkey]
  · rw [exec_tcommit_eq, whenActive_next hact (s.tightCommit_without (by decide) v), State.tightCommit_wrong hv]
  · refine ⟨s.safeRetest 0xA5#8, (exec_safeRetest_eq _ s).trans (whenActive_next hact (s.safeRetest_without (by decide) _)), ?_⟩
    rw [State.safeRetest_keyed]
    exact ⟨rfl, fun i hi => (s.failsCleared.withSafe_vbit _ _ i).trans (s.failsCleared_vbit hi)⟩
  · rw [exec_sentinelAssert_eq, ← State.senAssert_acts hacts on]
    refine whenActive_next hact ?_
    rw [State.senAssert_acts hacts]
    exact s.withSafe_without (by decide) _
  · exact (exec_sentinelAssert_eq x on s).trans (whenActive_same hact (State.senAssert_idle hacts on))
  · obtain ⟨hout, hwd⟩ := s.kick_watchdog
    exact ⟨s.kick, exec_kick_next hact, hout, hwd, s.kick_locked⟩

end Sys2Proof.Machine
end

