-- ==== Sys2Proof/Proofs/SafetyChecks.lean ====
section
/-! O39. The safety processor's evaluation of a tread and the self-test of the sentinels (R59, R266, R270, R271). -/
namespace Sys2Proof

/-- All three parts of a sentinel test have passed (R270). -/
def SenTest.passed (r : SenTest) : Bool := r.p1 && r.p2 && r.p3

end Sys2Proof

namespace Sys2Proof.Machine

theorem exec_safetyEvaluation_eq (p : ProcState) (s : State) : exec (.safetyEvaluation p) s =
    whenActive [.bal, .aux, .diag, .safe, .ban] s fun s => s.safetyEval p := (rfl)
theorem exec_sentinelSelfTest_eq (r : SenTest) (s : State) : exec (.sentinelSelfTest r) s =
    whenActive [.safe, .ban] s fun s => s.senTest r := (rfl)

/-! ### The evaluation (R262 to R266) -/

/-- What the processor reports of itself, and that it has reported (R266). -/
def Safe.report (x : Safe) : Bool × Bool × Bool × Bool := (x.romBad, x.ramBad, x.flowBad, x.evald)

theorem Safe.report_of_untimed {x y : Safe} (h : x.untimed = y.untimed) : x.report = y.report :=
  show x.untimed.report = y.untimed.report by rw [h]

section
variable (s : State)

theorem State.report_ite (p : Prop) [Decidable p] (t : State) :
    (if p then s else t).safe.report = if p then s.safe.report else t.safe.report := apply_ite (fun u : State => u.safe.report) p s t

theorem State.trip_report (k : Nat) (sen : Bool) (index : Nat) (fast : Bool) (t : Nat) :
    (s.trip k sen index fast t).safe.report = s.safe.report := Safe.report_of_untimed (s.trip_untimed t k sen index fast)

theorem State.procConfirm_report (c : Nat) (ov : Bool) : (s.procConfirm c ov).safe.report = s.safe.report :=
  congrArg Safe.report (State.safe_of_without (c := [.aux, .bal, .diag]) (by decide)
    (State.urgRequest_without _ (by decide) (by decide) (by decide) _ _))

/-- A judged value trips, asks for a confirmation or does neither; what the processor reports of itself stands. -/
theorem State.cellJudge_report (c : Nat) (v hi lo : Int) (conf : Bool) (n : Nat) :
    (s.cellJudge c v hi lo conf n).safe.report = s.safe.report := by
  simp only [State.cellJudge, State.report_ite, State.trip_report, State.procConfirm_report, ite_self]
  rfl

theorem State.cellEval_report (c n : Nat) : (s.cellEval c n).safe.report = s.safe.report := by
  simp only [State.cellEval, State.report_ite, State.cellJudge_report]
  split
  · rfl
  · exact ite_self _

theorem State.ocEval_report (k : Nat) : (s.ocEval k).safe.report = s.safe.report := by
  simp only [State.ocEval, State.report_ite, State.trip_report]
  split
  · rfl
  · split
    · exact ite_self _
    · rfl

/-- The image of the tread judged: its cells and its current (R262, R265). -/
def State.imageEval (n : Nat) : State :=
  if s.cells.snapCount = 0 then s else (forEach (List.range s.count) (fun (c : Nat) (s : State) => s.cellEval c n) s).ocEval n

theorem State.imageEval_report (n : Nat) : (s.imageEval n).safe.report = s.safe.report := by
  unfold State.imageEval
  split
  · rfl
  · rw [State.ocEval_report]
    exact forEach_keeps (fun u : State => u.safe.report) _ _ (fun c _ u => u.cellEval_report c n) s

/-- What the processor reports in this tread, before it evaluates anything. -/
def State.procReported (p : ProcState) : State :=
  let s := s.procState p
  { s with safe := { s.safe with evald := true, crcN := if s.holds 26 then s.safe.crcN + 1 else 0 } }

theorem State.procReported_report (p : ProcState) :
    (s.procReported p).safe.report = (!p.romOk, s.safe.ramBad || !p.ramOk, !p.flowOk, true) := (rfl)

variable {s}

theorem State.safetyEval_runs {p : ProcState} (harm : s.safe.armed = true) (ht : 0 < s.tm.tread) :
    s.safetyEval p = ((s.procReported p).imageEval (if s.cells.fresh then 1 else 0)).sfGone.sf6Update :=
  if_neg (by simp [harm]; omega)

theorem State.safetyEval_waits {p : ProcState} (ht : s.tm.tread = 0) : s.safetyEval p = s := if_pos (.inr ht)

theorem safetyEvaluation_reports {p : ProcState} (hact : s.pw.phase = .active) (harm : s.safe.armed = true) (ht : 0 < s.tm.tread) :
    ∃ t, exec (.safetyEvaluation p) s = .next t ∧
      t.safe.report = (!p.romOk, s.safe.ramBad || !p.ramOk, !p.flowOk, true) ∧ t.cells = s.cells := by
  refine ⟨_, (exec_safetyEvaluation_eq p s).trans (whenActive_active _ s _ hact), ?_, rfl⟩
  rw [State.only_safe _ _ (by decide), State.safetyEval_runs harm ht, ← s.procReported_report p,
    ← (s.procReported p).imageEval_report (if s.cells.fresh then 1 else 0)]
  exact Safe.report_of_untimed ((State.sf6Update_untimed _).trans (State.sfGone_untimed _))

end

/-! ### The self-test of the sentinels (R270, R271) -/

section
variable (s : State)

/-- The safety part after item `i` (0 to 37) has passed, or failed once more (R271). -/
def Safe.tested (x : Safe) (i : Nat) (ok : Bool) : Safe :=
  let n := look x.senMiss i + 1
  if ok then { x with senMiss := put x.senMiss i 0 }
  else { x with senMiss := put x.senMiss i n, senOut := put x.senOut i (decide (2 ≤ n)),
                senAgain := if n = 1 then x.senAgain ++ [i] else x.senAgain }

theorem Safe.tested_miss (x : Safe) (i : Nat) (ok : Bool) :
    look (x.tested i ok).senMiss i = if ok then 0 else look x.senMiss i + 1 := by
  cases ok <;> simp [Safe.tested]

/-- A first failure puts the item behind those to be tested again (R270). -/
theorem Safe.tested_again (x : Safe) (i : Nat) (ok : Bool) :
    (x.tested i ok).senAgain = if ok = false ∧ look x.senMiss i = 0 then x.senAgain ++ [i] else x.senAgain := by
  cases ok
  · simp [Safe.tested]
  · rfl

theorem State.senItem_safe {i : Nat} (hi : i < 38) (ok : Bool) : (s.senItem i ok).safe = s.safe.tested i ok := by
  have hitem : ¬ 38 ≤ i := by omega
  cases ok
  · simp only [State.senItem, Safe.tested, hitem, Bool.false_eq_true, if_false, apply_ite State.safe, State.evt_safe, State.set_safe,
      State.setV_safe, ite_self]
  · simp only [State.senItem, Safe.tested, hitem, if_true, if_false, State.set_safe]

variable {s} {r : SenTest}

theorem State.senTest_scheduled (harm : s.safe.armed = true) (hagain : s.safe.senAgain = [])
    (hskip : s.senSkip (s.tm.ltc % 40) = false) (hout : look s.safe.senOut (s.tm.ltc % 40) = false) :
    s.senTest r = (s.senItem (s.tm.ltc % 40) r.passed).sf6Update := by
  simp [State.senTest, harm, hagain, hskip, hout, SenTest.passed]

variable (s) in
/-- The items still to be tested again. -/
def State.againLeft (l : List Nat) : State := { s with safe := { s.safe with senAgain := l } }

theorem State.senTest_again {i : Nat} {l : List Nat} (harm : s.safe.armed = true) (hagain : s.safe.senAgain = i :: l)
    (hskip : s.senSkip i = false) : s.senTest r = ((s.againLeft l).senItem i r.passed).sf6Update := by
  have hleft : (s.againLeft l).senSkip i = false := hskip
  rw [State.senTest, if_neg (show ¬ s.safe.armed = false by simp [harm]), hagain]
  exact congrArg State.sf6Update (if_neg (show ¬ (s.againLeft l).senSkip i = true by simp [hleft]))

end

/-- A test of item `i` as the command leaves it: its failures, and the items to test again. -/
theorem sentinelSelfTest_tests {s u : State} {r : SenTest} {i : Nat} (hact : s.pw.phase = .active) (hi : i < 38)
    (htest : s.senTest r = (u.senItem i r.passed).sf6Update) : ∃ t, exec (.sentinelSelfTest r) s = .next t ∧
      look t.safe.senMiss i = (if r.passed then 0 else look u.safe.senMiss i + 1) ∧
      t.safe.senAgain = (if r.passed = false ∧ look u.safe.senMiss i = 0 then u.safe.senAgain ++ [i] else u.safe.senAgain) := by
  have hsafe : (s.senTest r).safe.untimed = (u.safe.tested i r.passed).untimed := by
    rw [htest, State.sf6Update_untimed, u.senItem_safe hi]
  refine ⟨_, (exec_sentinelSelfTest_eq r s).trans (whenActive_active _ s _ hact), ?_⟩
  rw [State.only_safe _ _ (by decide), ← u.safe.tested_miss, ← u.safe.tested_again]
  have hmiss : (s.senTest r).safe.senMiss = (u.safe.tested i r.passed).senMiss := (congrArg Safe.senMiss hsafe :)
  exact ⟨by rw [hmiss], (congrArg Safe.senAgain hsafe :)⟩

/-- Settles O39: the processor's report comes in first and no judgement touches it (`State.imageEval_report`); a test of an item is
`Safe.tested` of its failures, whether the tread's own item or one that failed before. -/
theorem safetyChecks : Obligations.SafetyChecks := by
  refine ⟨fun s p hact harm ht => ?_, fun s p hact ht => ?_, fun s r hact harm hagain hi hskip hout => ?_,
    fun s r i l hact harm hagain hi hskip => ?_⟩
  · obtain ⟨t, hexec, hreport, hcells⟩ := safetyEvaluation_reports (p := p) hact harm ht
    simp only [Safe.report, Prod.mk.injEq] at hreport
    obtain ⟨hrom, hram, hflow, hevald⟩ := hreport
    exact ⟨t, hexec, hrom, hram, hflow, hevald, hcells⟩
  · exact (exec_safetyEvaluation_eq p s).trans (whenActive_same hact (State.safetyEval_waits ht))
  · obtain ⟨t, hexec, hmiss, hafter⟩ := sentinelSelfTest_tests hact hi (State.senTest_scheduled (r := r) harm hagain hskip hout)
    rw [hagain] at hafter
    exact ⟨t, hexec, hmiss, hafter⟩
  · exact sentinelSelfTest_tests hact hi (State.senTest_again (r := r) harm hagain hskip)

end Sys2Proof.Machine
end
-- ==== Sys2Proof/Proofs/CommandFrames.lean ====
section
/-! SUPPORT. What every command answers, and what none of them changes: the queue and what the factory wrote into the vault. -/
namespace Sys2Proof.Machine

/-! ### A step takes the front of the queue -/

section
variable {s : State}

theorem step_cons {c : Instr} {q : List Instr} (h : s.pending = c :: q) : step s = exec c { s with pending := q } := by
  rw [step, h]

theorem step_nil (h : s.pending = []) : step s = .next s := by
  rw [step, h]

end

/-- Settles O1: `step_cons` and `step_nil`. -/
theorem stepTakesFront : Obligations.StepTakesFront :=
  ⟨fun _ _ _ h => step_cons h, fun _ h => step_nil h⟩

/-! ### Every command that can arrive completes -/

/-- Only commands of a running device bring lists whose length is fixed (log 6). -/
theorem commandParts_of_malformed {i : Instr} {why : String} (h : i.malformed = some why) :
    commandParts i ≠ Part.all ∧ receives i = none := by
  cases i
  case snapshotImage | fineBoundary | eyeSweepDone | trainingReportDone | eyeMonitor | scrubSector | searchTransactionEnd =>
    exact ⟨by simp [commandParts, Part.all], rfl⟩
  all_goals cases h

theorem exec_start_next {i : Instr} (s : State) (hup : startsUp i = true) : ∃ t, exec i s = .next t := by
  cases i
  case powerOnReset | brownOutReset | pinReset | thermalShutdown | supplyMonitor | suppliesValid | vaultRead | strapLatch | sentinelArm |
    wakePin | wakeToneDetect | rstnWake => exact ⟨_, rfl⟩
  case buckFault | buckRetry => exact ⟨_, (apply_ite Host.Outcome.next _ _ _).symm⟩
  all_goals cases hup

theorem exec_completes {i : Instr} (s : State) (h : i.malformed = none) : ∃ t, exec i s = .next t := by
  by_cases hup : startsUp i = true
  · exact exec_start_next s hup
  by_cases hall : commandParts i = Part.all
  · obtain ⟨u, hexec⟩ := exec_acting s (Bool.eq_false_iff.mpr hup) hall
    exact ⟨_, hexec.trans (apply_ite Host.Outcome.next _ _ _).symm⟩
  cases hr : receives i with
  | some n =>
    obtain ⟨u, hexec⟩ := exec_receiving s hr
    exact ⟨_, hexec.trans (apply_ite Host.Outcome.next _ _ _).symm⟩
  | none =>
    obtain ⟨u, hexec⟩ := exec_active s hall hr
    rw [h, stopOr] at hexec
    exact ⟨_, hexec.trans (apply_ite Host.Outcome.next _ _ _).symm⟩

theorem exec_malformed {i : Instr} {why : String} (s : State) (h : i.malformed = some why) : exec i s = .fault (.malformed why) := by
  obtain ⟨hall, hr⟩ := commandParts_of_malformed h
  obtain ⟨u, hexec⟩ := exec_active s hall hr
  rw [hexec, h, stopOr]

/-! ### The queue and the factory's data stand -/

/-- `t` has the queue of `s` and its factory data in the vault. -/
def State.Untouched (s t : State) : Prop := t.pending = s.pending ∧ t.vault.factory = s.vault.factory

section
variable (s u : State)

theorem State.untouched_self : s.Untouched s := ⟨rfl, rfl⟩

theorem State.keep_untouched : s.Untouched (s.keep u) := ⟨rfl, rfl⟩

theorem State.settle_untouched : s.Untouched (s.settle u) := by
  unfold State.settle
  split <;> exact s.keep_untouched _

theorem State.only_untouched (c : List Part) : s.Untouched (s.only u c) := by
  refine ⟨rfl, ?_⟩
  simp only [State.only, State.keep]
  split <;> rfl

theorem State.afterReset_untouched (por : Bool) (n : Nat) : s.Untouched (s.afterReset por n) := by
  cases por <;> exact ⟨rfl, rfl⟩

theorem State.ite_untouched {c : Prop} [Decidable c] {s u v : State} (hu : s.Untouched u) (hv : s.Untouched v) : s.Untouched (if c then u else v) := by
  split
  · exact hu
  · exact hv

end

/-- Where a gate lets a command act, the gate keeps the queue and the factory's data. -/
theorem next_ite_untouched {c : Prop} [Decidable c] {s t u : State} (hu : s.Untouched u)
    (h : (if c then .next u else .next s : Host.Outcome State Fault Refusal) = .next t) : s.Untouched t := by
  rw [← apply_ite Host.Outcome.next] at h
  cases h
  exact State.ite_untouched hu s.untouched_self

theorem execPinReset_untouched {s t : State} (h : execPinReset s = .next t) : s.Untouched t := by
  unfold execPinReset at h
  cases h
  dsimp only
  split
  · exact ⟨rfl, rfl⟩
  · exact ⟨rfl, rfl⟩
  · exact State.afterReset_untouched { s with pw := { s.pw with rstnLow := true } } false 4

theorem exec_start_untouched {i : Instr} {s t : State} (hup : startsUp i = true) (h : exec i s = .next t) : s.Untouched t := by
  cases i
  case powerOnReset => cases h; exact s.keep_untouched _
  case brownOutReset => cases h; exact State.ite_untouched (s.afterReset_untouched false 2) s.untouched_self
  case pinReset => exact execPinReset_untouched h
  case thermalShutdown =>
    cases h
    exact State.ite_untouched (State.afterReset_untouched { s with pw := { s.pw with thermHold := true } } false 16)
      (State.ite_untouched ⟨rfl, rfl⟩ s.untouched_self)
  case supplyMonitor m v => cases h; exact State.ite_untouched (s.only_untouched (s.supply (s.pw.reading m v)) [.safe, .ban]) s.untouched_self
  case buckFault | buckRetry => exact next_ite_untouched (s.settle_untouched _) h
  case suppliesValid => cases h; exact State.ite_untouched (State.ite_untouched ⟨rfl, rfl⟩ ⟨rfl, rfl⟩) s.untouched_self
  case vaultRead => cases h; exact State.ite_untouched (s.keep_untouched _) s.untouched_self
  case strapLatch => cases h; exact State.ite_untouched ⟨rfl, rfl⟩ s.untouched_self
  case sentinelArm => cases h; exact State.ite_untouched (s.keep_untouched s.arm) s.untouched_self
  case wakePin => cases h; exact State.ite_untouched ⟨rfl, rfl⟩ s.untouched_self
  case wakeToneDetect p => cases p <;> (cases h; exact State.ite_untouched ⟨rfl, rfl⟩ s.untouched_self)
  case rstnWake => cases h; exact State.ite_untouched (State.ite_untouched ⟨rfl, rfl⟩ ⟨rfl, rfl⟩) s.untouched_self
  all_goals cases hup

theorem exec_untouched {i : Instr} {s t : State} (h : exec i s = .next t) : s.Untouched t := by
  by_cases hup : startsUp i = true
  · exact exec_start_untouched hup h
  by_cases hall : commandParts i = Part.all
  · obtain ⟨u, hexec⟩ := exec_acting s (Bool.eq_false_iff.mpr hup) hall
    exact next_ite_untouched (s.settle_untouched u) (hexec ▸ h)
  cases hr : receives i with
  | some n =>
    obtain ⟨u, hexec⟩ := exec_receiving s hr
    exact next_ite_untouched (s.only_untouched u _) (hexec ▸ h)
  | none =>
    obtain ⟨u, hexec⟩ := exec_active s hall hr
    rw [hexec] at h
    cases hm : i.malformed with
    | some why => rw [hm] at h; cases h
    | none => rw [hm] at h; exact next_ite_untouched (s.only_untouched u _) h

/-- Settles O2: a command completes unless its operands have no possible form (`exec_completes`, `exec_malformed`), and none of
them touches the queue (`exec_untouched`). -/
theorem commandsComplete : Obligations.CommandsComplete := by
  refine ⟨fun i s => ⟨fun hwf => exec_completes s (Option.isNone_iff_eq_none.mp hwf), fun why h => exec_malformed s h⟩, ?_⟩
  intro s c q hq hsafe
  rw [State.safeRun, hq, List.all_cons, Bool.and_eq_true] at hsafe
  obtain ⟨hc, hrest⟩ := hsafe
  obtain ⟨t, ht⟩ := exec_completes { s with pending := q } (Option.isNone_iff_eq_none.mp hc)
  have hpend : t.pending = q := (exec_untouched ht).1
  exact ⟨t, (step_cons hq).trans ht, hpend, by rw [State.safeRun, hpend]; exact hrest⟩

/-- Settles O3: `exec_untouched` for the command at the front of the queue. -/
theorem factoryDataStands : Obligations.FactoryDataStands := by
  intro s t h
  cases hq : s.pending with
  | nil => rw [step_nil hq] at h; cases h; rfl
  | cons c q =>
    rw [step_cons hq] at h
    exact (exec_untouched h).2

/-! ### The frame of every command -/

theorem Part.same_self (p : Part) (s : State) : p.same s s := by cases p <;> rfl

theorem Part.mem_all (p : Part) : p ∈ Part.all := by cases p <;> decide

/-- A part outside the gate stands. -/
theorem State.only_part (s u : State) {c : List Part} {p : Part} (hp : p ∉ c) : p.same s (s.only u c) := by
  cases p <;> simp [Part.same, State.only, hp]

/-- A command that does not act on everything changes its parts only, and not the power state. -/
theorem exec_frame {i : Instr} {s t : State} (hall : commandParts i ≠ Part.all) (h : exec i s = .next t) :
    (∀ p, p ∉ commandParts i → p.same s t) ∧ t.pw = s.pw := by
  have key {c : Prop} [Decidable c] {u : State}
      (h : (if c then .next (s.only u (commandParts i)) else .next s : Host.Outcome State Fault Refusal) = .next t) :
      (∀ p, p ∉ commandParts i → p.same s t) ∧ t.pw = s.pw := by
    split at h
    · cases h; exact ⟨fun p hp => s.only_part u hp, rfl⟩
    · cases h; exact ⟨fun p _ => p.same_self s, rfl⟩
  cases hr : receives i with
  | some n =>
    obtain ⟨u, hexec⟩ := exec_receiving s hr
    exact key (hexec ▸ h)
  | none =>
    obtain ⟨u, hexec⟩ := exec_active s hall hr
    rw [hexec] at h
    cases hm : i.malformed with
    | some why => rw [hm] at h; cases h
    | none => rw [hm] at h; exact key h

/-- Settles O7: `exec_frame` for a command with parts of its own, and `exec_untouched` for every command. -/
theorem commandFrame : Obligations.CommandFrame := by
  intro i s t h
  obtain ⟨hpend, hfac⟩ := exec_untouched h
  by_cases hall : commandParts i = Part.all
  · exact ⟨fun p hp => absurd (hall ▸ p.mem_all) hp, hpend, hfac, fun hne => absurd hall hne⟩
  · obtain ⟨hframe, hpw⟩ := exec_frame hall h
    exact ⟨hframe, hpend, hfac, fun _ => hpw⟩

end Sys2Proof.Machine
end
-- ==== Sys2Proof/Proofs/EventSummary.lean ====
section
/-! SUPPORT. TEST.EVTSUM (R468): the bits of a sum of powers of two, and the words that the events are formed from. -/
namespace Sys2Proof.Machine

/-- The sum of the powers of two that `c` picks below `n`. -/
def pickedPowers (c : Nat → Bool) (n : Nat) : Nat := ((List.range n).map fun i => if c i then 2 ^ i else 0).sum

section
variable (c : Nat → Bool)

theorem pickedPowers_succ (n : Nat) : pickedPowers c (n + 1) = pickedPowers c n + if c n then 2 ^ n else 0 := by
  simp [pickedPowers, List.range_succ]

theorem pickedPowers_lt (n : Nat) : pickedPowers c n < 2 ^ n := by
  induction n with
  | zero => simp [pickedPowers]
  | succ n ih =>
    rw [pickedPowers_succ, Nat.pow_succ]
    split <;> omega

theorem pickedPowers_testBit (n j : Nat) : (pickedPowers c n).testBit j = (decide (j < n) && c j) := by
  induction n with
  | zero => simp [pickedPowers]
  | succ n ih =>
    have hlt : pickedPowers c n < 2 ^ n := pickedPowers_lt c n
    rw [pickedPowers_succ]
    cases hc : c n with
    | false =>
      rw [if_neg (by decide), Nat.add_zero, ih]
      rcases Nat.lt_trichotomy j n with hj | rfl | hj
      · simp [hj, Nat.lt_succ_of_lt hj]
      · simp [hc]
      · simp [Nat.not_lt.mpr hj.le, Nat.not_lt.mpr hj]
    | true =>
      rw [if_pos rfl, Nat.add_comm]
      rcases Nat.lt_trichotomy j n with hj | rfl | hj
      · rw [Nat.testBit_two_pow_add_gt hj, ih]
        simp [hj, Nat.lt_succ_of_lt hj]
      · rw [Nat.testBit_two_pow_add_eq, Nat.testBit_lt_two_pow hlt]
        simp [hc]
      · have hbound : 2 ^ n + pickedPowers c n < 2 ^ j :=
          calc 2 ^ n + pickedPowers c n < 2 ^ (n + 1) := by rw [Nat.pow_succ]; omega
            _ ≤ 2 ^ j := Nat.pow_le_pow_right (by decide) hj
        rw [Nat.testBit_lt_two_pow hbound]
        simp [Nat.not_lt.mpr hj]

end

/-- Two words share a bit just where their conjunction is not zero. -/
theorem and_ne_zero_iff_any (x y : Word) : x &&& y ≠ 0 ↔ (List.range 16).any (fun b => x.getLsbD b && y.getLsbD b) = true := by
  constructor
  · intro h
    by_contra hnone
    refine h (BitVec.eq_of_getLsbD_eq fun i hi => ?_)
    have hall : ∀ b < 16, x.getLsbD b = true → y.getLsbD b = false := by simpa using hnone
    rw [BitVec.getLsbD_and]
    cases hx : x.getLsbD i with
    | false => simp
    | true => simp [hall i hi hx]
  · intro h hzero
    obtain ⟨b, -, hb⟩ := List.any_eq_true.mp h
    have hbit : (x &&& y).getLsbD b = false := by rw [hzero]; exact BitVec.getLsbD_zero
    rw [BitVec.getLsbD_and, hb] at hbit
    cases hbit

/-- Page `p` has an event with its enable bit, and it is not page 0x1F. -/
def State.pageEvent (s : State) (p : Nat) : Bool := decide (p < 31 ∧ s.reg (linear p 3) &&& s.reg (linear p 4) ≠ 0)

theorem State.pageEvent_eq_any (s : State) {p : Nat} (hp : p < 32) : s.pageEvent p =
    (decide (p ≠ 31) && (List.range 16).any fun b => (s.reg (linear p 3)).getLsbD b && (s.reg (linear p 4)).getLsbD b) := by
  rw [State.pageEvent, Bool.decide_and, decide_eq_decide.mpr (show p < 31 ↔ p ≠ 31 by omega)]
  congr 1
  rw [Bool.eq_iff_iff, decide_eq_true_eq]
  exact and_ne_zero_iff_any _ _

theorem State.evtSum_eq (s : State) (half : Nat) : s.evtSum half = pickedPowers (fun i => s.pageEvent (16 * half + i)) 16 := by
  simp only [State.evtSum, pickedPowers, State.pageEvent, decide_eq_true_eq]

/-- Settles O52: a word of EVTSUM is the sum of the powers of two of its pages (`pickedPowers_testBit`). -/
theorem eventSummary : Obligations.EventSummary := by
  intro s p hp hst
  have hhalf : p / 16 < 2 := by omega
  have hformed : s.formedWord (linear 0x1F (0x08 + p / 16) / 64) (linear 0x1F (0x08 + p / 16) % 64) = some (s.evtSum (p / 16)) := by
    rw [linear_div _ (by omega), linear_mod _ (by omega)]
    simp only [State.formedWord, Nat.add_sub_cancel_left]
    exact if_pos (by omega)
  have hpage : 16 * (p / 16) + p % 16 = p := Nat.div_add_mod p 16
  have hmod : p % 16 < 16 := Nat.mod_lt p (by decide)
  rw [State.readWord_formed hst hformed, BitVec.getLsbD_ofNat, State.evtSum_eq, pickedPowers_testBit, hpage, State.pageEvent_eq_any s hp]
  simp [hmod]

end Sys2Proof.Machine
end
-- ==== Sys2Proof/Proofs/Answers.lean ====
section
/-! SUPPORT. What becomes of a command slot (R354 to R359): executed, rejected, answered again from the cache, or dropped for want of
room in Q3. -/
namespace Sys2Proof.Machine

/-! ### The cases of a command slot -/

section
variable {s : State} {op n : Nat} {c : Cmd} {a : Bool} {e : CacheEnt} {run : State → State × List Byte}

/-- A command slot whose number the cache holds is a duplicate, or reuses a number (R357, R358). -/
theorem State.command_of_cached (hup : s.linkUp c.port = true) (hfr : s.framed c.port = true) (haddr : Cmd.addressed c op = true)
    (hcrc : c.crcOk = true) (hver : c.ver = 1#4) (hfind : (s.cache c.port).find? (fun e => e.tid == c.tid.toNat) = some e) :
    s.command op c n a run = if e.crc = crc32 (Cmd.payload c) then s.duplicate c.port e else s.perform op c 8 n a run := by
  have h1 : ¬ (s.linkUp c.port = false ∨ s.framed c.port = false ∨ Cmd.addressed c op = false) := by simp [hup, hfr, haddr]
  have h2 : ¬ (c.crcOk = false ∨ c.ver ≠ 1#4) := by simp [hcrc, hver]
  simp only [State.command, if_neg h1, if_neg h2, hfind]

/-- A command that would be answered finds no room for it (R359). -/
theorem State.perform_full {st : Nat} (hsil : Cmd.silent c = false) (hans : st ≠ 0 ∨ a = true)
    (hroom : s.qRoom 3 (8 + if st = 0 then n else 0) = false) : s.perform op c st n a run = s.q3Full := by
  have hanswers : (!Cmd.silent c && (st != 0 || a)) = true := by simpa [hsil] using hans
  simp only [State.perform, hanswers, hroom, Bool.not_false, Bool.and_self, if_true]

theorem State.duplicate_full {p : Port} {r : List Byte} (hresp : e.resp = some r) (hroom : s.qRoom 3 r.length = false) :
    s.duplicate p e = s.q3Full := by
  simp only [State.duplicate, hresp, hroom, if_true]

end

theorem State.q3Full_without (s : State) (c : List Part) : s.q3Full.without c = s.without c := by
  rw [State.q3Full, State.evt_without, State.inc_without]

/-- A transaction is its command slot behind the gate of a running device; where that leaves every part alone, it ends there. -/
theorem exec_transaction {s : State} {i : Instr} {op n : Nat} {c : Cmd} {a : Bool} (hact : s.pw.phase = .active)
    (hstay : s.pw.leave = none) (htr : transaction i = some (op, c, n, a)) {t : State} (ht : ∀ c, t.without c = s.without c)
    (hcmd : ∀ run, s.command op c n a run = t) : exec i s = .next t := by
  have gated (run : State → State × List Byte) (ps : List Part) : whenActive ps s (fun s => s.command op c n a run) = .next t := by
    rw [whenActive_next hact (by rw [hcmd]; exact ht ps), hcmd]
  have acting (run : State → State × List Byte) : whenActing s (fun s => s.command op c n a run) = .next t := by
    rw [whenActing_active s _ hact, hcmd, State.settle_of_without hstay (ht [])]
  cases i
  case read | countOff | ping | rateSet | plantTime => cases htr; exact gated _ _
  case write | writeMask | bcastWrite => cases htr; exact acting _
  all_goals cases htr

/-- Settles O48: an answer without room in Q3 is the case `State.perform_full` or `State.duplicate_full`, whatever the command does. -/
theorem noRoomForResponse : Obligations.NoRoomForResponse := by
  refine ⟨fun s i c op n a hact hstay htr harr hsil hok hrej => ?_,
    fun s i c op n a e r hact hstay htr hup hfr haddr hcrc hver hfind hsame hresp hroom => ?_,
    fun s i c op n a e hact hstay htr hup hfr haddr hcrc hver hfind hother hsil hroom => ?_⟩
  · refine exec_transaction hact hstay htr s.q3Full_without fun run => ?_
    rw [State.command_of_arrives harr]
    by_cases hst : s.cmdStatus op c = 0
    · obtain ⟨hans, hroom⟩ := hok hst
      exact State.perform_full hsil (.inr hans) (by rw [if_pos hst]; exact hroom)
    · exact State.perform_full hsil (.inl hst) (by rw [if_neg hst]; exact hrej hst)
  · refine exec_transaction hact hstay htr s.q3Full_without fun run => ?_
    rw [State.command_of_cached hup hfr haddr hcrc hver hfind, if_pos hsame, State.duplicate_full hresp hroom]
    rfl
  · refine exec_transaction hact hstay htr s.q3Full_without fun run => ?_
    rw [State.command_of_cached hup hfr haddr hcrc hver hfind, if_neg hother]
    exact State.perform_full hsil (.inl (by decide)) hroom

/-! ### Answers -/

section
variable (s : State)

theorem State.append_newest (q : Nat) (bytes : List Byte) (up dn fixed : Bool) : (s.append q bytes up dn fixed).newest q = some bytes := by
  simp [State.append, State.newest, State.setQueue]

theorem State.respond_newest (p : Port) (bytes : List Byte) : (s.respond p bytes).newest 3 = some bytes := s.append_newest 3 bytes _ _ _

/-- The answer of a command to its landing, and its entry in the port's cache. -/
def State.answered (c : Cmd) (op st : Nat) : State :=
  (s.respond c.port (Cmd.respHead c op st)).enter c.port ⟨c.tid.toNat, crc32 (Cmd.payload c), some (Cmd.respHead c op st)⟩

theorem State.enter_eq (p : Port) (e : CacheEnt) : ∃ x : Xact, x.queues = s.xact.queues ∧ s.enter p e = { s with xact := x } := by
  exact ⟨(s.enter p e).xact, by cases p <;> rfl, by cases p <;> rfl⟩

/-- An answer stands in Q3, and touches nothing else but the cache. -/
theorem State.answered_eq (c : Cmd) (op st : Nat) : ∃ x : Xact, (look x.queues 3).blocks.getLast?.map Block.bytes = some (Cmd.respHead c op st) ∧
    s.answered c op st = { s with xact := x } := by
  obtain ⟨x, hq, hx⟩ := (s.respond c.port (Cmd.respHead c op st)).enter_eq c.port ⟨c.tid.toNat, crc32 (Cmd.payload c), some (Cmd.respHead c op st)⟩
  exact ⟨x, by rw [hq]; exact s.respond_newest c.port _, hx⟩

end

section
variable {s : State} {op : Nat} {c : Cmd} {run : State → State × List Byte}

theorem State.cmdStatus_le : s.cmdStatus op c ≤ 7 := by
  unfold State.cmdStatus
  split_ifs <;> decide

/-- A WRITE, READ or WRITE-MASK is always answered: NORESP would be one of its flags (R352). -/
theorem Cmd.not_silent_of_status (hop : within 1 3 op = true) (h : s.cmdStatus op c = 0) : Cmd.silent c = false := by
  have hflags : Cmd.badFlags c op = false := by
    unfold State.cmdStatus at h
    split_ifs at h
    all_goals exact Bool.eq_false_iff.mpr ‹¬ Cmd.badFlags c op = true›
  have hbcast : c.flags.getLsbD 0 = false := by
    simp only [Cmd.badFlags, hop, Bool.and_true, Bool.or_eq_false_iff] at hflags
    exact hflags.1.2
  rw [Cmd.silent, hbcast, Bool.false_and]

/-- A command without data in its answer, executed. -/
theorem State.perform_executed (hsil : Cmd.silent c = false) (hroom : s.qRoom 3 8 = true) (hdata : (run s).2 = []) :
    s.perform op c 0 0 true run = ((run s).1.inc XACT.CMDCNT).answered c op 0 := by
  simp [State.perform, State.answered, hsil, hroom, hdata]

/-- A broadcast that nobody answers, executed. -/
theorem State.perform_silent (hsil : Cmd.silent c = true) : s.perform op c 0 0 true run =
    ((run s).1.inc XACT.CMDCNT).enter c.port ⟨c.tid.toNat, crc32 (Cmd.payload c), none⟩ := by
  simp [State.perform, hsil]

theorem State.perform_rejected {st n : Nat} {a : Bool} (hst : st ≠ 0) (h8 : st ≠ 8) (hsil : Cmd.silent c = false) (hroom : s.qRoom 3 8 = true) :
    s.perform op c st n a run = (s.reject op st c).answered c op st := by
  simp [State.perform, State.answered, hst, h8, hsil, hroom]

theorem State.duplicate_answered {p : Port} {e : CacheEnt} {r : List Byte} (hresp : e.resp = some r) (hroom : s.qRoom 3 r.length = true) :
    s.duplicate p e = ((s.inc XACT.DUPCNT).evt XACT.EVT.DUP).respond p (patch r 4 [r.getD 4 0 ||| 1#8]) := by
  simp [State.duplicate, hresp, hroom]

end

/-- What a rejection leaves in the registers (R354). -/
theorem State.reject_shows (s : State) {op st : Nat} (hop : op < 256) (hst : st < 256) (c : Cmd) :
    (s.reject op st c).get XACT.REJCNT = min (s.get XACT.REJCNT + 1) 65535 ∧ (s.reject op st c).get XACT.LASTREJ = st + 256 * op ∧
    (s.reject op st c).get XACT.LASTREJTID = c.tid.toNat ∧ (s.reject op st c).bit XACT.EVT.REJECT = true := by
  simp only [State.reject, State.occur_get, State.occur_bit]
  refine ⟨?_, ?_, ?_, State.bit_evt _ _ _ _ (by decide)⟩
  · rw [State.evt, State.get_set_ne _ _ _ _ rfl rfl, State.get_set_ne _ _ _ _ rfl rfl, State.get_set_ne _ _ _ _ rfl rfl, State.inc,
      State.get_set _ _ _ rfl]
    exact Nat.mod_eq_of_lt (show min _ 65535 < 65536 by omega)
  · rw [State.evt, State.get_set_ne _ _ _ _ rfl rfl, State.get_set_ne _ _ _ _ rfl rfl, State.get_set _ _ _ rfl]
    exact Nat.mod_eq_of_lt (show _ < 65536 by omega)
  · rw [State.evt, State.get_set_ne _ _ _ _ rfl rfl, State.get_set _ _ _ rfl]
    exact Nat.mod_eq_of_lt c.tid.isLt

theorem State.reject_bal (s : State) (op st : Nat) (c : Cmd) : (s.reject op st c).bal = s.bal := by simp [State.reject, State.evt]
theorem State.reject_safe (s : State) (op st : Nat) (c : Cmd) : (s.reject op st c).safe = s.safe := by simp [State.reject, State.evt]

/-- A command that does not leave ACTIVE: its end differs from its meaning in the power state, the queue and the vault only. -/
theorem whenActing_stays {s : State} {k : State → State} (hact : s.pw.phase = .active) (hl : (k s).pw.leave = none) :
    ∃ t, whenActing s k = .next t ∧ t.regs = (k s).regs ∧ t.bal = (k s).bal ∧ t.imp = (k s).imp ∧ t.safe = (k s).safe ∧ t.xact = (k s).xact ∧
      t.pending = s.pending := by
  rw [whenActing_active s k hact, State.settle_stay s (k s) hl]
  exact ⟨_, rfl, rfl, rfl, rfl, rfl, rfl, rfl⟩

/-- A command slot that ends in an answer. -/
theorem exec_answered {s u : State} {op st : Nat} {c : Cmd} {run : State → State × List Byte} (hact : s.pw.phase = .active)
    (hcmd : s.command op c 0 true run = u.answered c op st) (hl : u.pw.leave = none) :
    ∃ t, whenActing s (fun s => s.command op c 0 true run) = .next t ∧ t.newest 3 = some (Cmd.respHead c op st) ∧
      (∀ a, t.reg a = u.reg a) ∧ t.bal = u.bal ∧ t.imp = u.imp ∧ t.safe = u.safe ∧ t.pending = s.pending := by
  obtain ⟨x, hlast, hx⟩ := u.answered_eq c op st
  rw [hx] at hcmd
  obtain ⟨t, ht, hregs, hbal, himp, hsafe, hxact, hpend⟩ := whenActing_stays (k := fun s => s.command op c 0 true run) hact (by rw [hcmd]; exact hl)
  rw [hcmd] at hregs hbal himp hsafe hxact
  exact ⟨t, ht, by rw [State.newest, hxact]; exact hlast, fun a => congrArg (fun m => mapGet resetWord m a) hregs, hbal, himp, hsafe, hpend⟩

/-- Settles O47: the effect of each command is the model's (`State.runWrite`, `State.runMask`), and the rest of its course is the answer
(`exec_answered`) or none at all. -/
theorem writesStore : Obligations.WritesStore := by
  refine ⟨fun s u c hact harr hst hroom hu hl => ?_, fun s u c hact harr hst hroom hu hl => ?_, fun s u c hact harr hst hsil hu hl => ?_,
    fun s c e r hact hstay hup hfr haddr hcrc hver hfind hsame hresp hroom => ?_, fun s c hact hstay harr hst hroom hsil => ?_⟩
  · have hcmd : s.command 2 c 0 true (fun s => s.runWrite c) = (u.inc XACT.CMDCNT).answered c 2 0 := by
      rw [State.command_of_arrives harr, hst, State.perform_executed (Cmd.not_silent_of_status (by decide) hst) hroom rfl, hu]
      rfl
    exact exec_answered hact hcmd hl
  · have hcmd : s.command 3 c 0 true (fun s => s.runMask c) = (u.inc XACT.CMDCNT).answered c 3 0 := by
      rw [State.command_of_arrives harr, hst, State.perform_executed (Cmd.not_silent_of_status (by decide) hst) hroom rfl, hu]
      rfl
    obtain ⟨t, ht, hnew, hreg, -⟩ := exec_answered hact hcmd hl
    exact ⟨t, ht, hnew, hreg⟩
  · obtain ⟨x, hq, hx⟩ := (u.inc XACT.CMDCNT).enter_eq c.port ⟨c.tid.toNat, crc32 (Cmd.payload c), none⟩
    have hcmd : s.command 4 c 0 true (fun s => s.runWrite c) = { u.inc XACT.CMDCNT with xact := x } := by
      rw [State.command_of_arrives harr, hst, State.perform_silent hsil, ← hx, hu]
      rfl
    obtain ⟨t, ht, hregs, -, -, -, hxact, -⟩ :=
      whenActing_stays (k := fun s => s.command 4 c 0 true (fun s => s.runWrite c)) hact (by rw [hcmd]; exact hl)
    rw [hcmd] at hregs hxact
    exact ⟨t, ht, fun a => congrArg (fun m => mapGet resetWord m a) hregs, by rw [hxact]; exact congrArg (look · 3) hq⟩
  · have hcmd : s.command 2 c 0 true (fun s => s.runWrite c) =
        ((s.inc XACT.DUPCNT).evt XACT.EVT.DUP).respond c.port (patch r 4 [r.getD 4 0 ||| 1#8]) := by
      rw [State.command_of_cached hup hfr haddr hcrc hver hfind, if_pos hsame, State.duplicate_answered hresp hroom]
    obtain ⟨t, ht, hregs, -, -, -, hxact, -⟩ :=
      whenActing_stays (k := fun s => s.command 2 c 0 true (fun s => s.runWrite c)) hact (by rw [hcmd]; exact hstay)
    rw [hcmd] at hregs hxact
    refine ⟨t, ht, ?_, fun a => congrArg (fun m => mapGet resetWord m a) hregs⟩
    rw [State.newest, hxact]
    exact State.respond_newest _ c.port _
  · have hle : s.cmdStatus 2 c ≤ 7 := State.cmdStatus_le
    have hcmd : s.command 2 c 0 true (fun s => s.runWrite c) = (s.reject 2 (s.cmdStatus 2 c) c).answered c 2 (s.cmdStatus 2 c) := by
      rw [State.command_of_arrives harr, State.perform_rejected hst (by omega) hsil hroom]
    obtain ⟨t, ht, hnew, hreg, hbal, -, hsafe, -⟩ := exec_answered hact hcmd hstay
    obtain ⟨hcount, hlast, htid, hev⟩ := s.reject_shows (op := 2) (by decide) (show s.cmdStatus 2 c < 256 by omega) c
    have hget (f : Fld) : t.get f = (s.reject 2 (s.cmdStatus 2 c) c).get f := by rw [State.get, State.get, hreg]
    have hbit (f : Fld) : t.bit f = (s.reject 2 (s.cmdStatus 2 c) c).bit f := by rw [State.bit, State.bit, hget]
    exact ⟨t, ht, hnew, (hget _).trans hcount, by rw [hget, hlast], (hget _).trans htid, (hbit _).trans hev,
      hbal.trans (s.reject_bal ..), hsafe.trans (s.reject_safe ..)⟩

end Sys2Proof.Machine
end
-- ==== Sys2Proof/Proofs/BanisterFields.lean ====
section
/-! SUPPORT. What the permit, a cause of lock-out and the end of a lock-out leave of the banister's fields and edges (R274, R277, R292). -/
namespace Sys2Proof.Machine

/-- The fields that follow the permit and the heartbeat gate (R284, R286, R292, R298). -/
def permitFlds : List Fld := [SAFE.STATUS.HBFWD, SAFE.STATUS.HBIN, BAN.STATUS.HBOUT, BAN.STATUS.PERMIT, BAN.STATUS.HSCMD, BAN.STATUS.LSCMD,
  BAN.STATUS.NEXTSW, BAN.TESTRES.DISC, BAN.DISCCNT, BAN.EVT.TESTDISC]

/-- A field that shares no bit with those. -/
def Fld.offPermit (g : Fld) : Bool := permitFlds.all (fun f => f.ok && f.apart g)

/-- The banister's record of edges, without what follows the permit. -/
def Ban.edges (b : Ban) : Ban := { b with down := .quiet, closedAt := none, test := .none }

section
variable {b c : Ban} (h : b.edges = c.edges)
include h

theorem Ban.hbLast_of_edges : b.hbLast = c.hbLast := (congrArg Ban.hbLast h :)
theorem Ban.hbN_of_edges : b.hbN = c.hbN := (congrArg Ban.hbN h :)
theorem Ban.ackFirst_of_edges : b.ackFirst = c.ackFirst := (congrArg Ban.ackFirst h :)

end

section
variable (s : State) {g : Fld}

theorem State.set_offPermit (hg : g.offPermit = true) {f : Fld} (hf : f ∈ permitFlds) (v : Nat) : (s.set f v).get g = s.get g := by
  have hfg : (f.ok && f.apart g) = true := List.all_eq_true.mp hg f hf
  rw [Bool.and_eq_true] at hfg
  exact State.get_set_ne s f g v hfg.1 hfg.2

section
variable (hg : g.offPermit = true)
include hg

theorem State.hbGate_field : s.hbGate.get g = s.get g := by
  simp (disch := decide) only [State.hbGate, State.setB, State.get_withBan, State.set_offPermit _ hg]

theorem State.testDemand_field : s.testDemand.get g = s.get g := by
  cases ht : s.ban.test <;> simp (disch := decide) only [State.testDemand, ht, State.testDiscard, State.nextSw, State.setB, State.evt, State.inc,
    State.get_ite, State.get_withBan, State.set_offPermit _ hg, ite_self]

theorem State.permitUpdate_field (t : Nat) : (s.permitUpdate t).get g = s.get g := by
  simp (disch := decide) only [State.permitUpdate, State.closeAll, State.openAll, State.setB, State.get_ite, State.get_withBan,
    State.testDemand_field _ hg, State.hbGate_field _ hg, State.set_offPermit _ hg, ite_self]

/-- A cause of lock-out reaches the banister's page through the permit alone. -/
theorem State.lockCause_field (hp : g.addr / 64 = 0x16) (bit info t : Nat) (ev : Bool) : (s.lockCause bit info t ev).get g = s.get g := by
  rw [State.lockCause_noted, State.permitUpdate_field _ hg]
  exact State.get_of_pageWords (s.lockNoted_pageWords bit info t ev (by decide) (by decide)) hp

theorem State.trip_field (hp : g.addr / 64 = 0x16) (k : Nat) (sen : Bool) (index : Nat) (fast : Bool) (t : Nat) :
    (s.trip k sen index fast t).get g = s.get g := by
  rw [State.trip, State.lockCause_field _ hg hp, State.cond_get]

end

theorem State.testDemand_edges : s.testDemand.ban.edges = s.ban.edges := by
  cases ht : s.ban.test <;> simp [State.testDemand, ht, State.testDiscard, State.nextSw, apply_ite State.ban, State.evt, Ban.edges]

theorem State.permitUpdate_edges (t : Nat) : (s.permitUpdate t).ban.edges = s.ban.edges := by
  have hdemand : (s.hbGate.setB BAN.STATUS.PERMIT s.permitNow).testDemand.ban.edges = s.ban.edges := State.testDemand_edges _
  unfold State.permitUpdate
  dsimp only
  split
  · rfl
  · split
    · exact hdemand
    · rfl

theorem State.lockCause_edges (bit info t : Nat) (ev : Bool) : (s.lockCause bit info t ev).ban.edges = s.ban.edges := by
  rw [State.lockCause_noted, State.permitUpdate_edges, State.lockNoted_ban]

theorem State.trip_edges (k : Nat) (sen : Bool) (index : Nat) (fast : Bool) (t : Nat) : (s.trip k sen index fast t).ban.edges = s.ban.edges := by
  rw [State.trip, State.lockCause_edges, State.cond_ban]

/-- PERMIT shows the permit (R292). -/
theorem State.permitUpdate_shows (t : Nat) : (s.permitUpdate t).bit BAN.STATUS.PERMIT = s.permitNow := by
  have hset : (s.hbGate.setB BAN.STATUS.PERMIT s.permitNow).bit BAN.STATUS.PERMIT = s.permitNow := State.bit_setB _ _ _ _ _ (by decide)
  have hclose (u : State) : (u.closeAll t).bit BAN.STATUS.PERMIT = u.bit BAN.STATUS.PERMIT :=
    (State.bit_set_ne _ BAN.STATUS.LSCMD _ _ rfl rfl).trans (State.bit_set_ne u BAN.STATUS.HSCMD _ _ rfl rfl)
  unfold State.permitUpdate
  dsimp only
  split
  · rw [hclose]; exact hset
  · split
    · rw [State.openAll_permit, State.testDemand_permit, hset]
    · exact hset

/-! ### The end of a lock-out -/

theorem State.lockExit_field (hg : g.offPermit = true) (hp : g.addr / 64 = 0x16) (t : Nat) : (s.lockExit t).get g = s.get g := by
  have hpage (u : State) (h : u.pageWords 0x16 = s.pageWords 0x16) : (u.permitUpdate t).get g = s.get g :=
    (State.permitUpdate_field _ hg t).trans (State.get_of_pageWords h hp)
  unfold State.lockExit
  split
  · rfl
  · dsimp only
    split
    · refine hpage _ ?_
      simp (disch := decide) only [State.withSafe_pageWords, State.cond_pageWords, State.setB_pageWords, State.inc_pageWords,
        State.evt_pageWords, State.set_pageWords]
    · rfl

theorem State.lockExit_edges (t : Nat) : (s.lockExit t).ban.edges = s.ban.edges := by
  unfold State.lockExit
  split
  · rfl
  · dsimp only
    split
    · rw [State.permitUpdate_edges]
      simp [State.inc, State.evt]
    · rfl

end
end Sys2Proof.Machine
end
-- ==== Sys2Proof/Proofs/BanisterEdges.lean ====
section
/-! SUPPORT. Edges at the banister's receivers (R285 to R290): heartbeat accepted, lost and back, acknowledge bursts. -/
namespace Sys2Proof.Machine

theorem whenReceiving_active {s : State} (c : List Part) (t : Nat) (k : State → State) (h : s.pw.phase = .active) :
    whenReceiving c t s k = .next (s.only (k s) c) := by
  simp [whenReceiving, State.powered, h]

theorem State.only_ban (s t : State) {c : List Part} (hc : Part.ban ∈ c) : (s.only t c).ban = t.ban := by simp [State.only, hc]

/-! ### Heartbeat -/

section
variable (s : State) (t : Nat) {g : Fld}

theorem State.hbAccept_field (hg : g.offPermit = true) (hst : BAN.STATUS.HBSTABLE.apart g = true) : (s.hbAccept t).get g = s.get g := by
  simp only [State.hbAccept, State.permitUpdate_field _ hg, State.get_ite, State.setB, State.get_set_ne _ _ _ _ rfl hst,
    State.get_withBan, ite_self]

theorem State.hbAccept_stable (h : 7 ≤ s.ban.hbN) : (s.hbAccept t).bit BAN.STATUS.HBSTABLE = true := by
  have hn : 8 ≤ s.ban.hbN + 1 := by omega
  rw [State.bit, State.hbAccept, State.permitUpdate_field _ (by decide), if_pos hn]
  exact State.bit_setB _ _ _ _ _ (by decide)

theorem State.hbAccept_edges : (s.hbAccept t).ban.edges = Ban.edges { s.ban with hbLast := t, hbN := s.ban.hbN + 1 } := by
  rw [State.hbAccept, State.permitUpdate_edges]
  split <;> rfl

theorem State.hbRepeat_get : (s.hbRepeat t).get g = s.get g := by
  unfold State.hbRepeat
  split <;> rfl

theorem State.hbRepeat_last : (s.hbRepeat t).ban.hbLast = s.ban.hbLast ∧ (s.hbRepeat t).ban.hbN = s.ban.hbN := by
  unfold State.hbRepeat
  split <;> exact ⟨rfl, rfl⟩

theorem State.hbRepeat_edge (h : (s.hbRepeat t).ban.down = .repeating) : (s.hbRepeat t).ban.downEdge = some t := by
  unfold State.hbRepeat at h ⊢
  split
  · rfl
  · rename_i hd
    rw [if_neg hd] at h
    exact absurd h hd

/-- The first edge shows the heartbeat present (R285). -/
theorem State.hbFirst_present : (s.hbFirst t).bit BAN.STATUS.HBPRES = true := by
  have hcond (u : State) : (if u.holds 7 then u.cond 7 false else u).get BAN.STATUS.HBPRES = u.get BAN.STATUS.HBPRES := by
    rw [State.get_ite, State.cond_get, ite_self]
  have hset : (s.setB BAN.STATUS.HBPRES true).get BAN.STATUS.HBPRES = 1 := State.get_set _ _ _ rfl
  have hpage (u : State) : u.causes.get BAN.STATUS.HBPRES = u.get BAN.STATUS.HBPRES :=
    State.get_of_pageWords (u.causes_pageWords (by decide) (by decide)) rfl
  simp (disch := decide) only [State.bit, State.hbFirst, State.lockExit_field, State.hbAccept_field, hpage, hcond]
  rw [State.get_withBan, State.setB, State.get_set_ne _ _ _ _ rfl rfl, State.evt, State.get_set_ne _ _ _ _ rfl rfl, hset]
  rfl

theorem State.causes_ban : s.causes.ban = s.ban := by
  simp [State.causes, apply_ite State.ban]

theorem State.hbFirst_edges : (s.hbFirst t).ban.edges = Ban.edges { s.ban with hbLast := t, hbN := 1 } := by
  rw [State.hbFirst, State.lockExit_edges, State.hbAccept_edges, State.causes_ban]
  split
  · rw [State.cond_ban]; rfl
  · rfl

theorem State.hbEdge_first (h : s.bit BAN.STATUS.HBPRES = false) : s.hbEdge t = (s.hbFirst t).hbRepeat t := by
  simp [State.hbEdge, h]

theorem State.hbEdge_accepted (h : s.bit BAN.STATUS.HBPRES = true) (hlo : s.ban.hbLast + 3000 ≤ t) (hhi : t ≤ s.ban.hbLast + 5000) :
    s.hbEdge t = ((s.set BAN.HBPER ((t - s.ban.hbLast) / 100)).hbAccept t).hbRepeat t := by
  have hlate : ¬ s.ban.hbLast + 16000 ≤ t := by omega
  have hd : 3000 ≤ t - s.ban.hbLast ∧ t - s.ban.hbLast ≤ 5000 := by omega
  simp [State.hbEdge, h, hlate, hd]

/-! ### The loss of the heartbeat -/

/-- The registers of a heartbeat that was present, and its loss. -/
def State.hbGone : State :=
  { (((s.setB BAN.STATUS.HBPRES false).setB BAN.STATUS.HBSTABLE false).inc BAN.HBLOSSCNT).evt BAN.EVT.HBLOST with ban := { s.ban with hbN := 0 } }

variable {s t}

theorem State.hbLoss_present (hpres : s.bit BAN.STATUS.HBPRES = true) (ht : s.ban.hbLast + 16000 ≤ t) : s.hbLoss t =
    (if s.safe.armed && s.hbGone.hasSf8 && !s.holds 7 then s.hbGone.trip 7 false 0 false t else s.hbGone).permitUpdate t := by
  simp only [State.hbLoss, Nat.not_lt.mpr ht, hpres, if_true, if_false]
  rfl

theorem State.hbLoss_field (hpres : s.bit BAN.STATUS.HBPRES = true) (ht : s.ban.hbLast + 16000 ≤ t) (hg : g.offPermit = true)
    (hp : g.addr / 64 = 0x16) : (s.hbLoss t).get g = s.hbGone.get g := by
  rw [State.hbLoss_present hpres ht, State.permitUpdate_field _ hg, State.get_ite, State.trip_field _ hg hp, ite_self]

theorem State.hbGone_stable : s.hbGone.bit BAN.STATUS.HBSTABLE = false := by
  have hset : (s.setB BAN.STATUS.HBPRES false |>.setB BAN.STATUS.HBSTABLE false).bit BAN.STATUS.HBSTABLE = false :=
    State.bit_setB _ _ _ _ _ (by decide)
  rw [← hset]
  exact (State.bit_set_ne _ _ _ _ rfl rfl).trans (State.bit_set_ne _ _ _ _ rfl rfl)

theorem State.hbGone_present : s.hbGone.bit BAN.STATUS.HBPRES = false := by
  have hset : (s.setB BAN.STATUS.HBPRES false).bit BAN.STATUS.HBPRES = false := State.bit_setB _ _ _ _ _ (by decide)
  rw [← hset]
  exact (State.bit_set_ne _ _ _ _ rfl rfl).trans ((State.bit_set_ne _ _ _ _ rfl rfl).trans (State.bit_set_ne _ _ _ _ rfl rfl))

theorem State.hbGone_count : s.hbGone.get BAN.HBLOSSCNT = min (s.get BAN.HBLOSSCNT + 1) 65535 := by
  have hset : (((s.setB BAN.STATUS.HBPRES false).setB BAN.STATUS.HBSTABLE false).inc BAN.HBLOSSCNT).get BAN.HBLOSSCNT =
      min (s.get BAN.HBLOSSCNT + 1) 65535 := by
    rw [State.inc, State.get_set _ _ _ rfl, State.setB, State.get_set_ne _ _ _ _ rfl rfl, State.setB, State.get_set_ne _ _ _ _ rfl rfl]
    exact Nat.mod_eq_of_lt (show min _ 65535 < 65536 by omega)
  rw [← hset]
  exact State.get_set_ne _ _ _ _ rfl rfl

theorem State.hbGone_head : s.hbGone.isHead = s.isHead := by
  have hrole : s.hbGone.get BAN.ROLE.BROLE = s.get BAN.ROLE.BROLE :=
    (State.get_set_ne _ _ _ _ rfl rfl).trans ((State.get_set_ne _ _ _ _ rfl rfl).trans
      ((State.get_set_ne _ _ _ _ rfl rfl).trans (State.get_set_ne _ _ _ _ rfl rfl)))
  rw [State.isHead, State.isHead, hrole]

/-- Without a heartbeat a device that is no head has no permit (R292). -/
theorem State.permitNow_of_unstable {u : State} (hst : u.bit BAN.STATUS.HBSTABLE = false) (hh : u.isHead = false) : u.permitNow = false := by
  simp [State.permitNow, hst, hh]

theorem State.permitUpdate_locked_bit (u : State) (e : Nat) : (u.permitUpdate e).locked = u.locked := by
  rw [State.locked, State.locked, State.bit, State.bit, State.permitUpdate_get _ (by decide)]

theorem State.permitUpdate_holds (u : State) (e i : Nat) : (u.permitUpdate e).holds i = u.holds i := by
  rw [State.holds, State.holds, State.permitUpdate_condNow]

/-- The loss locks out a device that is no head (R260, R285). -/
theorem State.hbLoss_locks (hpres : s.bit BAN.STATUS.HBPRES = true) (ht : s.ban.hbLast + 16000 ≤ t) (hhead : s.isHead = false)
    (harm : s.safe.armed = true) (h7 : s.holds 7 = false) : (s.hbLoss t).locked = true ∧ (s.hbLoss t).holds 7 = true := by
  have hsf8 : s.hbGone.hasSf8 = true := by rw [State.hasSf8, State.hbGone_head, hhead]; rfl
  have htrip : (s.safe.armed && s.hbGone.hasSf8 && !s.holds 7) = true := by simp [harm, hsf8, h7]
  rw [State.hbLoss_present hpres ht, if_pos htrip, State.permitUpdate_locked_bit, State.permitUpdate_holds]
  refine ⟨State.lockCause_locked _ _ _ _ _, ?_⟩
  rw [State.trip, State.lockCause_holds _ _ _ _ _ (by decide), State.holds_cond _ _ _ _ (by decide), if_pos rfl]

theorem State.hbLoss_permit (hpres : s.bit BAN.STATUS.HBPRES = true) (ht : s.ban.hbLast + 16000 ≤ t) (hhead : s.isHead = false) :
    (s.hbLoss t).bit BAN.STATUS.PERMIT = false := by
  have hfield {g : Fld} (hg : g.offPermit = true) (hp : g.addr / 64 = 0x16) (c : Prop) [Decidable c] :
      (if c then s.hbGone.trip 7 false 0 false t else s.hbGone).get g = s.hbGone.get g := by
    rw [State.get_ite, State.trip_field _ hg hp, ite_self]
  rw [State.hbLoss_present hpres ht, State.permitUpdate_shows]
  apply State.permitNow_of_unstable
  · rw [State.bit, hfield (by decide) rfl]
    exact State.hbGone_stable
  · rw [State.isHead, hfield (by decide) rfl]
    exact State.hbGone_head.trans hhead

theorem State.hbLoss_count (hpres : s.bit BAN.STATUS.HBPRES = true) (ht : s.ban.hbLast + 16000 ≤ t) : (s.hbLoss t).ban.hbN = 0 := by
  have hedges : (s.hbLoss t).ban.edges = s.hbGone.ban.edges := by
    rw [State.hbLoss_present hpres ht, State.permitUpdate_edges]
    split
    · exact State.trip_edges _ _ _ _ _ _
    · rfl
  exact Ban.hbN_of_edges hedges

end

/-! ### Acknowledge bursts -/

section
variable {s : State} {t f : Nat}

theorem State.ackStatus_get (u : State) (e : Nat) {g : Fld} (h1 : BAN.ACKQMS.apart g = true) (h2 : BAN.STATUS.ACKQUIET.apart g = true)
    (h3 : BAN.STATUS.ACKIN.apart g = true) : (u.ackStatus e).get g = u.get g := by
  rw [State.ackStatus, State.setB, State.get_set_ne _ _ _ _ rfl h3, State.setB, State.get_set_ne _ _ _ _ rfl h2, State.get_set_ne _ _ _ _ rfl h1]

theorem State.ackStatus_ban (u : State) (e : Nat) : (u.ackStatus e).ban = u.ban := (rfl)
theorem State.ackStatus_safe (u : State) (e : Nat) : (u.ackStatus e).safe = u.safe := (rfl)

/-- The burst in progress is over; what it was, is not judged yet (R289). -/
def State.ackOver (s : State) (f : Nat) : State :=
  let ta := s.ban.ackLast + 64000
  let s := { s with ban := { s.ban with ackFirst := none, ackUnquiet := false, ackHeld := false, quietFrom := ta } }
  (s.set BAN.ACKDUR (min ((ta - f) / 1000000) 65535)).ackStatus ta

theorem State.ackOver_get (s : State) (f : Nat) {g : Fld} (h1 : BAN.ACKQMS.apart g = true) (h2 : BAN.STATUS.ACKQUIET.apart g = true)
    (h3 : BAN.STATUS.ACKIN.apart g = true) (h4 : BAN.ACKDUR.apart g = true) : (s.ackOver f).get g = s.get g := by
  rw [State.ackOver, State.ackStatus_get _ _ h1 h2 h3, State.get_set_ne _ _ _ _ rfl h4]
  rfl

theorem State.ackOver_safe (s : State) (f : Nat) : (s.ackOver f).safe = s.safe := by
  rw [State.ackOver, State.ackStatus_safe, State.set_safe]

theorem State.ackOver_ban (s : State) (f : Nat) : (s.ackOver f).ban =
    { s.ban with ackFirst := none, ackUnquiet := false, ackHeld := false, quietFrom := s.ban.ackLast + 64000 } := by
  rw [State.ackOver, State.ackStatus_ban, State.set_ban]

theorem State.ackEnd_open (hf : s.ban.ackFirst = some f) (ht : t < s.ban.ackLast + 64000) : s.ackEnd t = s := by
  simp [State.ackEnd, hf, ht]

theorem State.ackEnd_none (hf : s.ban.ackFirst = none) : s.ackEnd t = s := by
  simp [State.ackEnd, hf]

theorem State.ackEnd_short (hf : s.ban.ackFirst = some f) (hh : s.ban.ackHeld = false) (ht : s.ban.ackLast + 64000 ≤ t)
    (hd : s.ban.ackLast + 64000 < f + 200000000) : s.ackEnd t = ((s.ackOver f).evt BAN.EVT.ACKSHORT).inc BAN.ACKREJCNT := by
  have h1 : ¬ 3000000000 ≤ s.ban.ackLast + 64000 - f := by omega
  have h2 : s.ban.ackLast + 64000 - f < 200000000 := by omega
  simp only [State.ackEnd, hf, hh, Nat.not_lt.mpr ht, if_false, h1, h2, if_true, Bool.false_eq_true]
  rfl

theorem State.ackEnd_valid (hf : s.ban.ackFirst = some f) (hh : s.ban.ackHeld = false) (hq : s.ban.ackUnquiet = false)
    (ht : s.ban.ackLast + 64000 ≤ t) (hlo : f + 200000000 ≤ s.ban.ackLast + 64000) (hhi : s.ban.ackLast + 64000 < f + 3000000000) :
    s.ackEnd t = (s.ackOver f).ackValid (s.ban.ackLast + 64000) := by
  have h1 : ¬ 3000000000 ≤ s.ban.ackLast + 64000 - f := by omega
  have h2 : ¬ s.ban.ackLast + 64000 - f < 200000000 := by omega
  simp only [State.ackEnd, hf, hh, hq, Nat.not_lt.mpr ht, if_false, h1, h2, Bool.false_eq_true]
  rfl

/-- The verdict on a valid burst changes no other field of the banister's page than the permit's. -/
theorem State.ackValid_field (u : State) (e : Nat) {g : Fld} (hg : g.offPermit = true) (hp : g.addr / 64 = 0x16) :
    (u.ackValid e).get g = ((u.evt BAN.EVT.ACKVALID).inc BAN.ACKVCNT).get g := by
  have hearly (v : State) : (v.evt SAFE.EVT.ACKEARLY).get g = v.get g :=
    State.get_of_pageWords (v.evt_pageWords (by decide)) hp
  simp only [State.ackValid, State.get_ite, State.lockExit_field _ hg hp, State.get_withSafe, hearly, ite_self]

theorem State.ackValid_edges (u : State) (e : Nat) : (u.ackValid e).ban.edges = u.ban.edges := by
  unfold State.ackValid
  dsimp only
  split
  · rfl
  · split
    · exact (State.lockExit_edges _ e).trans rfl
    · rfl

theorem State.ackValid_unlocked (u : State) (e : Nat) (h : u.locked = false) : (u.ackValid e).safe = u.safe := by
  have hl : ((u.evt BAN.EVT.ACKVALID).inc BAN.ACKVCNT).locked = false := by
    rw [← h]
    exact (State.bit_set_ne _ _ _ _ rfl rfl).trans (State.bit_set_ne _ _ _ _ rfl rfl)
  simp only [State.ackValid, hl, true_or, if_true]
  rfl

end

/-! ### The commands -/

section
variable {s : State} {e f : Nat}

theorem exec_heartbeatEdge_eq (t : Nat) (s : State) : exec (.heartbeatEdge t) s = whenReceiving [.safe, .ban] t s fun s => s.hbEdge t := (rfl)
theorem exec_heartbeatLoss_eq (t : Nat) (s : State) : exec (.heartbeatLoss t) s = whenReceiving [.safe, .ban] t s fun s => s.hbLoss t := (rfl)
theorem exec_ackEdge_eq (t : Nat) (s : State) : exec (.ackEdge t) s = whenReceiving [.safe, .ban] t s fun s => s.ackEdge t := (rfl)
theorem exec_ackBurstEnd_eq (t : Nat) (s : State) : exec (.ackBurstEnd t) s = whenReceiving [.safe, .ban] t s fun s => s.ackEnd t := (rfl)
theorem exec_ackHeld_eq (t : Nat) (s : State) : exec (.ackHeld t) s = whenReceiving [.ban] t s fun s => s.ackHold t := (rfl)
theorem exec_ackQuiet_eq (t : Nat) (s : State) : exec (.ackQuiet t) s = whenReceiving [] t s fun s => s.ackQuiet t := (rfl)

/-- A command of the banister's receivers ends where its meaning does, in the safety and the banister part. -/
theorem receiving_banister {k : State → State} {t : Nat} (hact : s.pw.phase = .active) : ∃ u, whenReceiving [.safe, .ban] t s k = .next u ∧
    u.ban = (k s).ban ∧ u.safe = (k s).safe ∧ (∀ g, u.get g = (k s).get g) ∧ ∀ g, u.bit g = (k s).bit g :=
  ⟨_, whenReceiving_active _ t k hact, State.only_ban _ _ (by decide), State.only_safe _ _ (by decide), fun _ => rfl, fun _ => rfl⟩

theorem heartbeat_first (hact : s.pw.phase = .active) (hpres : s.bit BAN.STATUS.HBPRES = false) :
    ∃ t, exec (.heartbeatEdge e) s = .next t ∧ t.bit BAN.STATUS.HBPRES = true ∧ t.ban.hbLast = e ∧ t.ban.hbN = 1 := by
  obtain ⟨t, ht, hban, -, -, hbit⟩ := receiving_banister (k := fun s => s.hbEdge e) (t := e) hact
  rw [s.hbEdge_first e hpres] at hban hbit
  obtain ⟨hlast, hn⟩ := (s.hbFirst e).hbRepeat_last e
  have hedges := s.hbFirst_edges e
  refine ⟨t, (exec_heartbeatEdge_eq e s).trans ht, ?_, ?_, ?_⟩
  · rw [hbit, State.bit, State.hbRepeat_get]
    exact s.hbFirst_present e
  · rw [hban, hlast]
    exact Ban.hbLast_of_edges hedges
  · rw [hban, hn]
    exact Ban.hbN_of_edges hedges

theorem heartbeat_accepted (hact : s.pw.phase = .active) (hpres : s.bit BAN.STATUS.HBPRES = true) (hlo : s.ban.hbLast + 3000 ≤ e)
    (hhi : e ≤ s.ban.hbLast + 5000) : ∃ t, exec (.heartbeatEdge e) s = .next t ∧ t.bit BAN.STATUS.HBPRES = true ∧
    t.get BAN.HBPER = (e - s.ban.hbLast) / 100 ∧ t.ban.hbLast = e ∧ t.ban.hbN = s.ban.hbN + 1 ∧
    (t.ban.down = .repeating → t.ban.downEdge = some e) ∧ (7 ≤ s.ban.hbN → t.bit BAN.STATUS.HBSTABLE = true) := by
  obtain ⟨t, ht, hban, -, hget, hbit⟩ := receiving_banister (k := fun s => s.hbEdge e) (t := e) hact
  rw [s.hbEdge_accepted e hpres hlo hhi] at hban hget hbit
  generalize hu : s.set BAN.HBPER ((e - s.ban.hbLast) / 100) = u at hban hget hbit
  have huban : u.ban = s.ban := by rw [← hu, State.set_ban]
  obtain ⟨hlast, hn⟩ := (u.hbAccept e).hbRepeat_last e
  have hedges := u.hbAccept_edges e
  refine ⟨t, (exec_heartbeatEdge_eq e s).trans ht, ?_, ?_, ?_, ?_, fun hdown => ?_, fun h7 => ?_⟩
  · rw [hbit, State.bit, State.hbRepeat_get, State.hbAccept_field _ _ (by decide) rfl, ← hu, State.get_set_ne _ _ _ _ rfl rfl]
    exact hpres
  · rw [hget, State.hbRepeat_get, State.hbAccept_field _ _ (by decide) rfl, ← hu, State.get_set _ _ _ rfl]
    exact Nat.mod_eq_of_lt (show _ < 65536 by omega)
  · rw [hban, hlast]
    exact Ban.hbLast_of_edges hedges
  · rw [hban, hn, ← huban]
    exact Ban.hbN_of_edges hedges
  · rw [hban] at hdown ⊢
    exact State.hbRepeat_edge _ e hdown
  · rw [hbit, State.bit, State.hbRepeat_get]
    exact u.hbAccept_stable e (by rw [huban]; exact h7)

theorem heartbeat_lost (hact : s.pw.phase = .active) (hpres : s.bit BAN.STATUS.HBPRES = true) (he : s.ban.hbLast + 16000 ≤ e) :
    ∃ t, exec (.heartbeatLoss e) s = .next t ∧ t.bit BAN.STATUS.HBPRES = false ∧ t.bit BAN.STATUS.HBSTABLE = false ∧
    t.ban.hbN = 0 ∧ t.get BAN.HBLOSSCNT = min (s.get BAN.HBLOSSCNT + 1) 65535 ∧
    (s.isHead = false → s.safe.armed = true → s.holds 7 = false → t.locked = true ∧ t.holds 7 = true) ∧
    (s.isHead = false → t.bit BAN.STATUS.PERMIT = false) := by
  have hban : (s.only (s.hbLoss e) [.safe, .ban]).ban = (s.hbLoss e).ban := State.only_ban _ _ (by decide)
  refine ⟨_, (exec_heartbeatLoss_eq e s).trans (whenReceiving_active _ e _ hact), ?_, ?_, ?_, ?_,
    fun hhead harm h7 => State.hbLoss_locks hpres he hhead harm h7, fun hhead => State.hbLoss_permit hpres he hhead⟩
  · rw [State.only_bit, State.bit, State.hbLoss_field hpres he (by decide) rfl]
    exact State.hbGone_present
  · rw [State.only_bit, State.bit, State.hbLoss_field hpres he (by decide) rfl]
    exact State.hbGone_stable
  · rw [hban, State.hbLoss_count hpres he]
  · rw [State.only_get, State.hbLoss_field hpres he (by decide) rfl, State.hbGone_count]

/-- A receiver's command whose condition does not hold leaves the state as it is. -/
theorem receiving_same {c : List Part} {k : State → State} {t : Nat} (hact : s.pw.phase = .active) (h : k s = s) :
    whenReceiving c t s k = .next s := by
  rw [whenReceiving_active c t k hact, h, State.only_same]

/-- The burst that the edge at `t` opens (R287, R289). -/
def Ban.burst (b : Ban) (t : Nat) (unquiet : Bool) : Ban :=
  { b with ackFirst := some t, ackLast := t, upEdge := some t, ackUnquiet := unquiet, ackHeld := false }

theorem State.ackEdge_opens (hf : s.ban.ackFirst = none) : ∃ u, s.ackEdge e = u ∧ u.ban = s.ban.burst e (decide (s.quietNs e < 1000000000)) ∧
    u.safe = s.safe ∧ u.get BAN.STATUS.PERMIT = s.get BAN.STATUS.PERMIT := by
  refine ⟨_, rfl, ?_⟩
  simp only [State.ackEdge, State.ackEnd_none hf, hf]
  generalize decide (s.quietNs e < 1000000000) = unq
  have hpermit : (({ s with ban := s.ban.burst e unq } : State).ackStatus e).get BAN.STATUS.PERMIT = s.get BAN.STATUS.PERMIT :=
    State.ackStatus_get _ e rfl rfl rfl
  cases unq
  · exact ⟨rfl, rfl, hpermit⟩
  · exact ⟨State.evt_ban _ _, State.evt_safe _ _, (State.get_set_ne _ _ _ _ rfl rfl).trans hpermit⟩

theorem State.ackEdge_goesOn (hf : s.ban.ackFirst = some f) (hlo : s.ban.ackLast + 12000 ≤ e) (hhi : e ≤ s.ban.ackLast + 20000) :
    s.ackEdge e = { s with ban := { s.ban with ackLast := e, upEdge := some e } } := by
  have hopen : e < s.ban.ackLast + 64000 := by omega
  have hd : 12000 ≤ e - s.ban.ackLast ∧ e - s.ban.ackLast ≤ 20000 := by omega
  simp only [State.ackEdge, State.ackEnd_open hf hopen, hf, hd, and_self, if_true]

theorem burst_short (hact : s.pw.phase = .active) (hf : s.ban.ackFirst = some f) (hh : s.ban.ackHeld = false)
    (ht : s.ban.ackLast + 64000 ≤ e) (hd : s.ban.ackLast + 64000 < f + 200000000) : ∃ t, exec (.ackBurstEnd e) s = .next t ∧
    t.ban.ackFirst = none ∧ t.ban.quietFrom = s.ban.ackLast + 64000 ∧ t.bit BAN.EVT.ACKSHORT = true ∧
    t.get BAN.ACKREJCNT = min (s.get BAN.ACKREJCNT + 1) 65535 ∧ t.safe = s.safe ∧ t.locked = s.locked := by
  obtain ⟨t, hexec, hban, hsafe, hget, hbit⟩ := receiving_banister (k := fun s => s.ackEnd e) (t := e) hact
  rw [State.ackEnd_short hf hh ht hd] at hban hsafe hget hbit
  refine ⟨t, (exec_ackBurstEnd_eq e s).trans hexec, ?_, ?_, ?_, ?_,
    hsafe.trans ?_, ?_⟩
  · rw [hban, State.inc_ban, State.evt_ban, s.ackOver_ban]
  · rw [hban, State.inc_ban, State.evt_ban, s.ackOver_ban]
  · rw [hbit, State.inc, State.bit_set_ne _ _ _ _ rfl rfl]
    exact State.bit_evt _ _ _ _ (by decide)
  · rw [hget, State.inc, State.get_set _ _ _ rfl, State.evt, State.get_set_ne _ _ _ _ rfl rfl, s.ackOver_get f rfl rfl rfl rfl]
    exact Nat.mod_eq_of_lt (show min _ 65535 < 65536 by omega)
  · rw [State.inc_safe, State.evt_safe, s.ackOver_safe]
  · rw [State.locked, hbit, State.inc, State.bit_set_ne _ _ _ _ rfl rfl, State.evt, State.bit_set_ne _ _ _ _ rfl rfl, State.bit,
      s.ackOver_get f rfl rfl rfl rfl]
    rfl

theorem burst_valid (hact : s.pw.phase = .active) (hf : s.ban.ackFirst = some f) (hh : s.ban.ackHeld = false)
    (hq : s.ban.ackUnquiet = false) (ht : s.ban.ackLast + 64000 ≤ e) (hlo : f + 200000000 ≤ s.ban.ackLast + 64000)
    (hhi : s.ban.ackLast + 64000 < f + 3000000000) : ∃ t, exec (.ackBurstEnd e) s = .next t ∧ t.ban.ackFirst = none ∧
    t.bit BAN.EVT.ACKVALID = true ∧ t.get BAN.ACKVCNT = min (s.get BAN.ACKVCNT + 1) 65535 ∧ (s.locked = false → t.safe = s.safe) := by
  obtain ⟨t, hexec, hban, hsafe, hget, hbit⟩ := receiving_banister (k := fun s => s.ackEnd e) (t := e) hact
  rw [State.ackEnd_valid hf hh hq ht hlo hhi] at hban hsafe hget hbit
  have hedges := (s.ackOver f).ackValid_edges (s.ban.ackLast + 64000)
  refine ⟨t, (exec_ackBurstEnd_eq e s).trans hexec, ?_, ?_, ?_, fun hl => ?_⟩
  · have hfirst : ((s.ackOver f).ackValid (s.ban.ackLast + 64000)).ban.ackFirst = (s.ackOver f).ban.ackFirst :=
      Ban.ackFirst_of_edges hedges
    rw [hban, hfirst, s.ackOver_ban]
  · rw [hbit, State.bit, State.ackValid_field _ _ (by decide) rfl, State.inc, State.get_set_ne _ _ _ _ rfl rfl]
    exact State.bit_evt _ _ _ _ (by decide)
  · rw [hget, State.ackValid_field _ _ (by decide) rfl, State.inc, State.get_set _ _ _ rfl, State.evt, State.get_set_ne _ _ _ _ rfl rfl,
      s.ackOver_get f rfl rfl rfl rfl]
    exact Nat.mod_eq_of_lt (show min _ 65535 < 65536 by omega)
  · have hover : (s.ackOver f).locked = false := by
      rw [State.locked, State.bit, s.ackOver_get f rfl rfl rfl rfl]
      exact hl
    rw [hsafe, State.ackValid_unlocked _ _ hover, s.ackOver_safe]

theorem burst_held (hact : s.pw.phase = .active) (hf : s.ban.ackFirst = some f) (hh : s.ban.ackHeld = false) (ht : f + 3000000000 ≤ e) :
    ∃ t, exec (.ackHeld e) s = .next t ∧ t.ban = { s.ban with ackHeld := true } ∧ t.holds 9 = true ∧
    t.bit BAN.STATUS.HELDLIVE = true ∧ t.bit BAN.EVT.ACKHELD = true := by
  have hnot : ¬ (e < f + 3000000000 ∨ s.ban.ackHeld = true) := by simp [hh, ht]
  have hhold : s.ackHold e = ((((({ s with ban := { s.ban with ackHeld := true } } : State).cond 9 true).setB BAN.STATUS.HELDLIVE true).evt
      BAN.EVT.ACKHELD).inc BAN.ACKREJCNT) := by
    simp only [State.ackHold, hf, if_neg hnot]
  refine ⟨_, (exec_ackHeld_eq e s).trans (whenReceiving_active _ e _ hact), ?_, ?_, ?_, ?_⟩ <;> rw [hhold]
  · rw [State.only_ban _ _ (by decide), State.inc_ban, State.evt_ban, State.setB_ban, State.cond_ban]
  · rw [State.holds, State.only_condNow, State.inc_condNow, State.evt_condNow, State.setB_condNow]
    exact (State.holds_cond _ 9 9 true (by decide)).trans (if_pos rfl)
  · rw [State.only_bit, State.inc, State.bit_set_ne _ _ _ _ rfl rfl, State.evt, State.bit_set_ne _ _ _ _ rfl rfl]
    exact State.bit_setB _ _ _ _ _ (by decide)
  · rw [State.only_bit, State.inc, State.bit_set_ne _ _ _ _ rfl rfl]
    exact State.bit_evt _ _ _ _ (by decide)

theorem line_quiet (hact : s.pw.phase = .active) (hf : s.ban.ackFirst = none) (hq : 1000000000 ≤ s.quietNs e) :
    ∃ t, exec (.ackQuiet e) s = .next t ∧ t.holds 9 = false ∧ t.bit BAN.STATUS.HELDLIVE = false ∧ t.ban = s.ban := by
  have hnot : ¬ (s.ban.ackFirst.isSome = true ∨ s.quietNs e < 1000000000) := by simp [hf, hq]
  refine ⟨_, (exec_ackQuiet_eq e s).trans (whenReceiving_active _ e _ hact), ?_, ?_, rfl⟩ <;>
    rw [State.ackQuiet, if_neg hnot]
  · exact (State.holds_cond _ 9 9 false (by decide)).trans (if_pos rfl)
  · rw [State.only_bit, State.bit, State.ackStatus_get _ _ rfl rfl rfl]
    exact State.bit_setB _ _ _ _ _ (by decide)

end

/-- Settles O40, clause by clause: the permit and the lock-out that an edge brings leave the receivers' own fields and record alone
(`State.permitUpdate_field`, `State.permitUpdate_edges`). -/
theorem banisterEdges : Obligations.BanisterEdges := by
  refine ⟨fun s e hact hpres => heartbeat_first hact hpres, fun s e hact hpres hlo hhi => heartbeat_accepted hact hpres hlo hhi,
    fun s e hact hpres he => heartbeat_lost hact hpres he, fun s e hact he => (exec_heartbeatLoss_eq e s).trans (receiving_same hact (if_pos he)), fun s e hact hf => ?_,
    fun s e f hact hf hlo hhi => ?_, fun s e f hact hf hh ht hd => burst_short hact hf hh ht hd,
    fun s e f hact hf hh hq ht hlo hhi => burst_valid hact hf hh hq ht hlo hhi, fun s e f hact hf hh ht => burst_held hact hf hh ht,
    fun s e hact hf hq => line_quiet hact hf hq⟩
  · obtain ⟨u, hu, huban, husafe, hpermit⟩ := State.ackEdge_opens (e := e) hf
    obtain ⟨t, ht, hban, hsafe, hget, -⟩ := receiving_banister (k := fun s => s.ackEdge e) (t := e) hact
    rw [hu] at hban hsafe hget
    rw [huban] at hban
    refine ⟨t, (exec_ackEdge_eq e s).trans ht, ?_, ?_, ?_, ?_, hsafe.trans husafe, ?_⟩
    · rw [hban]; rfl
    · rw [hban]; rfl
    · rw [hban]; rfl
    · rw [hban]; rfl
    · rw [State.bit, State.bit, hget, hpermit]
  · rw [exec_ackEdge_eq, whenReceiving_active _ e _ hact, State.ackEdge_goesOn hf hlo hhi]
    exact congrArg Host.Outcome.next (State.only_of_without (State.withBan_without s (by decide) _))

end Sys2Proof.Machine
end
-- ==== Sys2Proof/Proofs/OutputTests.lean ====
section
/-! SUPPORT. The output supply, off-pulse tests and the stage check (R293 to R300). -/
namespace Sys2Proof.Machine

/-! ### The verdict of a failure (R295, R299) -/

section
variable (s : State)

theorem State.openAll_get {g : Fld} (hh : BAN.STATUS.HSCMD.apart g = true) (hl : BAN.STATUS.LSCMD.apart g = true) :
    s.openAll.get g = s.get g :=
  (State.get_set_ne _ BAN.STATUS.LSCMD _ _ rfl hl).trans (State.get_set_ne s BAN.STATUS.HSCMD _ _ rfl hh)

/-- A device in lock-out without a test in progress leaves the next switch as it is. -/
theorem State.permitUpdate_nextSw (hl : s.locked = true) (h : s.ban.test = .none) (t : Nat) :
    (s.permitUpdate t).bit BAN.STATUS.NEXTSW = s.bit BAN.STATUS.NEXTSW := by
  have hoff : s.permitOff.bit BAN.STATUS.NEXTSW = s.bit BAN.STATUS.NEXTSW := by
    rw [State.permitOff, State.setB, State.bit_set_ne _ _ _ _ rfl rfl, State.hbGate_bit s rfl rfl rfl]
  rw [State.permitUpdate_locked hl, State.testDemand_none _ (show s.permitOff.ban.test = .none from h)]
  split
  · rw [← hoff, State.bit, State.bit, State.openAll_get _ rfl rfl]
  · exact hoff

theorem State.lockCause_nextSw (h : s.ban.test = .none) (bit info t : Nat) (ev : Bool) :
    (s.lockCause bit info t ev).bit BAN.STATUS.NEXTSW = s.bit BAN.STATUS.NEXTSW := by
  rw [State.lockCause_noted, State.permitUpdate_nextSw _ (s.lockNoted_locked bit info t ev) (by rw [s.lockNoted_ban, h]),
    s.lockNoted_output bit info t ev rfl]

theorem State.nextSw_toggles (h : s.get BAN.ROLE.MODE = 1) : s.nextSw.bit BAN.STATUS.NEXTSW = !s.bit BAN.STATUS.NEXTSW := by
  rw [State.nextSw, if_pos h]
  exact State.bit_setB _ _ _ _ _ (by decide)

theorem State.nextSw_keeps {g : Fld} (h : BAN.STATUS.NEXTSW.apart g = true) : s.nextSw.get g = s.get g := by
  rw [State.nextSw, State.get_ite, State.setB, State.get_set_ne _ _ _ _ rfl h, ite_self]

theorem State.nextSw_ban : s.nextSw.ban = s.ban := by
  rw [State.nextSw, apply_ite State.ban, State.setB_ban, ite_self]

/-- The failure of a test shows FAIL. -/
theorem State.outFail_fail (h : s.ban.test ≠ .none) : s.outFail.bit BAN.TESTRES.FAIL = true := by
  have hset (u : State) : (u.set BAN.TESTRES.FAIL 1).get BAN.TESTRES.FAIL = 1 := State.get_set _ _ _ rfl
  have hverdict : (s.failLive.failVerdict s.ban.test).get BAN.TESTRES.FAIL = 1 := by
    cases ht : s.ban.test with
    | none => exact absurd ht h
    | check => exact hset _
    | opening _ | passed _ | reclosing _ => exact (State.nextSw_keeps _ rfl).trans (hset _)
  rw [State.outFail_eq, State.bit, State.lockCause_field _ (by decide) rfl, State.failOpen, State.openAll_get _ rfl rfl, State.get_withBan,
    hverdict]
  rfl

/-- In mode 01 the verdict on a switch leaves the next test to the other (R295). -/
theorem State.outFail_nextSw {sw : Bool} (ht : s.ban.test = .opening sw ∨ s.ban.test = .reclosing sw) (hm : s.get BAN.ROLE.MODE = 1) :
    s.outFail.bit BAN.STATUS.NEXTSW = !s.bit BAN.STATUS.NEXTSW := by
  have hlive {g : Fld} (h1 : BAN.STATUS.OUTLIVE.apart g = true) (h2 : BAN.EVT.TESTFAIL.apart g = true)
      (h3 : BAN.TESTRES.FAIL.apart g = true) : (s.failLive.set BAN.TESTRES.FAIL 1).get g = s.get g := by
    rw [State.get_set_ne _ _ _ _ rfl h3, State.failLive, State.evt, State.get_set_ne _ _ _ _ rfl h2, State.setB,
      State.get_set_ne _ _ _ _ rfl h1, State.cond_get]
  have hverdict : s.failLive.failVerdict s.ban.test = (s.failLive.set BAN.TESTRES.FAIL 1).nextSw := by
    rcases ht with ht | ht <;> rw [ht] <;> rfl
  rw [State.outFail_eq, hverdict, State.lockCause_nextSw _ rfl, State.failOpen, State.bit, State.openAll_get _ rfl rfl, State.get_withBan]
  refine (State.nextSw_toggles _ ((hlive rfl rfl rfl).trans hm)).trans ?_
  rw [State.bit, State.bit, hlive rfl rfl rfl]

end

/-! ### Commands that end where their meaning does -/

section
variable {s : State}

theorem exec_ovsChange_eq (mV : Nat) (s : State) : exec (.ovsChange mV) s = whenActive [.ban] s fun s => s.ovs mV := (rfl)
theorem exec_offPulseStart_eq (s : State) : exec .offPulseStart s = whenActive [.ban] s fun s => s.pulseStart := (rfl)
theorem exec_offPulsePass_eq (fall : Fin 101) (s : State) : exec (.offPulsePass fall) s =
    whenActive [.ban] s fun s => s.pulsePass fall.val := (rfl)
theorem exec_stageCheckPhase_eq (ph : Fin 3) (ok : Bool) (s : State) : exec (.stageCheckPhase ph ok) s =
    whenActive [.safe, .ban] s fun s => s.stageCheck ph.val ok := (rfl)

theorem exec_offPulseReclose_eq (s : State) : exec .offPulseReclose s = whenActive [.ban] s fun s => match s.ban.test with
    | .passed sw => ({ s with ban := { s.ban with test := .reclosing sw, closedAt := some (s.nowNs + 900000) } }).setB
        (if sw then BAN.STATUS.LSCMD else BAN.STATUS.HSCMD) true
    | _ => s := (rfl)
theorem exec_recloseCheckEnd_eq (ok : Bool) (s : State) : exec (.recloseCheckEnd ok) s = whenActive [.safe, .ban] s fun s =>
    match s.ban.test with
    | .reclosing _ => if ok then ({ s with ban := { s.ban with test := .none } }).nextSw else s.outFail
    | _ => s := (rfl)

/-! ### The output supply (R293) -/

theorem State.set_getAll (s : State) (f : Fld) (v : Nat) (h : f.ok = true) (hv : v < 2 ^ f.w) : (s.set f v).get f = v := by
  rw [State.get_set _ _ _ h, Nat.mod_eq_of_lt hv]

theorem ovs_high {mV : Nat} (hact : s.pw.phase = .active) (h : 17000 < mV) : ∃ t, exec (.ovsChange mV) s = .next t ∧
    t.bit BAN.STATUS.OVSOK = true ∧ t.bit BAN.ROLE.USED = true ∧ t.get BAN.VOVS = min (mV / 10) 65535 := by
  have hovs : ∃ e, s.ovs mV = (((s.set BAN.VOVS (min (mV / 10) 65535)).setB BAN.STATUS.OVSOK true).setB BAN.ROLE.USED true).permitUpdate e :=
    ⟨_, by rw [State.ovs]; exact if_pos h⟩
  obtain ⟨e, he⟩ := hovs
  refine ⟨_, (exec_ovsChange_eq mV s).trans (whenActive_active _ s _ hact), ?_, ?_, ?_⟩ <;> rw [he]
  · rw [State.only_bit, State.bit, State.permitUpdate_field _ (by decide), State.setB, State.get_set_ne _ _ _ _ rfl rfl]
    exact State.bit_setB _ _ _ _ _ (by decide)
  · rw [State.only_bit, State.bit, State.permitUpdate_field _ (by decide)]
    exact State.bit_setB _ _ _ _ _ (by decide)
  · rw [State.only_get, State.permitUpdate_field _ (by decide), State.setB, State.get_set_ne _ _ _ _ rfl rfl, State.setB,
      State.get_set_ne _ _ _ _ rfl rfl, State.set_getAll _ _ _ rfl (show min _ 65535 < 65536 by omega)]

/-- What a test in progress makes of a supply that is too low (R298). -/
def State.ovsEnds (s : State) : State :=
  match s.ban.test with
  | .none => s
  | .check => s.testDiscard.openAll
  | _ => if s.testDiscard.bit BAN.STATUS.PERMIT then s.testDiscard.closeAll s.testDiscard.eventNs else s.testDiscard

theorem State.ovsEnds_get (u : State) {g : Fld} (hh : BAN.STATUS.HSCMD.apart g = true) (hl : BAN.STATUS.LSCMD.apart g = true)
    (hd : BAN.TESTRES.DISC.apart g = true) (hc : BAN.DISCCNT.apart g = true) (he : BAN.EVT.TESTDISC.apart g = true) :
    u.ovsEnds.get g = u.get g := by
  have hdisc : u.testDiscard.get g = u.get g := by
    rw [State.testDiscard, State.evt, State.get_set_ne _ _ _ _ rfl he, State.inc, State.get_set_ne _ _ _ _ rfl hc, State.get_set_ne _ _ _ _ rfl hd]
    rfl
  have hclose (v : State) (t : Nat) : (v.closeAll t).get g = v.get g :=
    (State.get_set_ne _ BAN.STATUS.LSCMD _ _ rfl hl).trans (State.get_set_ne v BAN.STATUS.HSCMD _ _ rfl hh)
  cases ht : u.ban.test <;> simp only [State.ovsEnds, ht, State.openAll_get _ hh hl, State.get_ite, hclose, hdisc, ite_self]

theorem State.ovs_low {mV : Nat} (h : mV < 16000) : s.ovs mV =
    (if (s.set BAN.VOVS (min (mV / 10) 65535)).stageChecks ||
        ((s.set BAN.VOVS (min (mV / 10) 65535)).bit BAN.ROLE.USED && decide (1600 ≤ s.get BAN.VOVS))
      then (s.set BAN.VOVS (min (mV / 10) 65535)).evt BAN.EVT.OVSLOW else s.set BAN.VOVS (min (mV / 10) 65535)).ovsEnds.setB
      BAN.STATUS.OVSOK false := by
  have h1 : ¬ 17000 < mV := by omega
  simp only [State.ovs, h1, h, if_true, if_false]
  rfl

theorem ovs_falls {mV : Nat} (hact : s.pw.phase = .active) (h : mV < 16000) : ∃ t, exec (.ovsChange mV) s = .next t ∧
    t.bit BAN.STATUS.OVSOK = false ∧ t.bit BAN.ROLE.USED = s.bit BAN.ROLE.USED ∧ t.get BAN.VOVS = mV / 10 ∧
    (s.bit BAN.ROLE.USED = true → 1600 ≤ s.get BAN.VOVS → t.bit BAN.EVT.OVSLOW = true) := by
  have hmin : min (mV / 10) 65535 = mV / 10 := by omega
  have hused : (s.set BAN.VOVS (mV / 10)).get BAN.ROLE.USED = s.get BAN.ROLE.USED := State.get_set_ne _ _ _ _ rfl rfl
  refine ⟨_, (exec_ovsChange_eq mV s).trans (whenActive_active _ s _ hact), ?_, ?_, ?_, fun hu hv => ?_⟩ <;> rw [State.ovs_low h, hmin]
  · exact State.bit_setB _ _ _ _ _ (by decide)
  · rw [State.only_bit, State.bit, State.setB, State.get_set_ne _ _ _ _ rfl rfl, State.ovsEnds_get _ rfl rfl rfl rfl rfl, State.get_ite,
      State.evt, State.get_set_ne _ BAN.EVT.OVSLOW _ _ rfl rfl, ite_self, hused]
    rfl
  · rw [State.only_get, State.setB, State.get_set_ne _ _ _ _ rfl rfl, State.ovsEnds_get _ rfl rfl rfl rfl rfl, State.get_ite,
      State.evt, State.get_set_ne _ BAN.EVT.OVSLOW _ _ rfl rfl, ite_self, State.set_getAll _ _ _ rfl (show mV / 10 < 65536 by omega)]
  · have hu' : (s.set BAN.VOVS (mV / 10)).bit BAN.ROLE.USED = true := by
      rw [State.bit, hused]
      exact hu
    rw [State.only_bit, State.bit, State.setB, State.get_set_ne _ _ _ _ rfl rfl, State.ovsEnds_get _ rfl rfl rfl rfl rfl,
      if_pos (by simp [hu', hv])]
    exact State.bit_evt _ _ _ _ (by decide)

theorem State.ovs_between {mV : Nat} (hlo : 16000 ≤ mV) (hhi : mV ≤ 17000) : s.ovs mV = s.set BAN.VOVS (min (mV / 10) 65535) := by
  simp only [State.ovs, Nat.not_lt.mpr hhi, Nat.not_lt.mpr hlo, if_false]

/-! ### The off-pulse test (R295, R296) -/

/-- A value of two whole words reads as its low 32 bits (R6). -/
theorem State.get2_set2_low (u : State) {f : Fld} (v : Nat) (hlo : f.lo = 0) (hw : f.w = 16) : (u.set2 f v).get2 f = v % 2 ^ 32 := by
  have hok : f.ok = true := by simp [Fld.ok, hlo, hw]
  have hne : (f.plus 1).apart f = true := by simp [Fld.apart, Fld.addr, Fld.plus, linear]
  have hlow : (u.set2 f v).get f = v % 2 ^ 16 := by
    rw [State.set2, State.get_set_ne _ (f.plus 1) _ _ hok hne, State.get_set _ _ _ hok, hw]
  have hhigh : (u.set2 f v).get (f.plus 1) = v / 65536 % 2 ^ 16 := by
    rw [State.set2, State.get_set _ (f.plus 1) _ hok, Fld.plus, hw]
  rw [State.get2, hlow, hhigh]
  omega

theorem State.testBegin_get (u : State) (r : Nat) {g : Fld} (h1 : BAN.TESTRES.word.apart g = true) (h2 : BAN.TESTSTN0.apart g = true)
    (h3 : (BAN.TESTSTN0.plus 1).apart g = true) : (u.testBegin r).get g = u.get g := by
  rw [State.testBegin, State.get_set2_ne _ _ rfl h2 h3, State.get_set_ne _ _ _ _ rfl h1]

/-- The command of the switch under test. -/
def testedCmd : Bool → Fld
  | true => BAN.STATUS.LSCMD
  | false => BAN.STATUS.HSCMD

theorem testedCmd_eq (sw : Bool) : (if sw then BAN.STATUS.LSCMD else BAN.STATUS.HSCMD) = testedCmd sw := by cases sw <;> rfl

theorem State.bit_withBan (u : State) (x : Ban) (g : Fld) : ({ u with ban := x } : State).bit g = u.bit g := (rfl)
theorem State.get2_withBan (u : State) (x : Ban) (g : Fld) : ({ u with ban := x } : State).get2 g = u.get2 g := (rfl)
theorem State.testBegin_ban (u : State) (r : Nat) : (u.testBegin r).ban = u.ban := (rfl)
theorem State.testBegin_tm (u : State) (r : Nat) : (u.testBegin r).tm = u.tm := (rfl)

/-- A ready stage opens the switch under test. -/
def State.pulseOpens (s : State) (sw : Bool) : State :=
  let s := s.testBegin ((if sw then 1 else 0) + 0xFF00)
  ({ s with ban := { s.ban with test := .opening sw } }).setB (testedCmd sw) false

theorem State.pulseStart_ready {c0 : Nat} {sw : Bool} (htt : s.testTread = true)
    (hm : (s.get BAN.ROLE.MODE = 1 ∧ sw = s.bit BAN.STATUS.NEXTSW) ∨ (s.get BAN.ROLE.MODE = 2 ∧ sw = false))
    (hp : s.bit BAN.STATUS.PERMIT = true) (hok : s.bit BAN.STATUS.OVSOK = true) (hc : s.ban.closedAt = some c0)
    (hc0 : c0 + 1000000 ≤ s.nowNs + 750000) : s.pulseStart = s.pulseOpens sw := by
  rcases hm with ⟨hm, rfl⟩ | ⟨hm, rfl⟩ <;> simp [State.pulseStart, State.pulseOpens, testedCmd, htt, hm, hp, hok, hc, hc0, testedCmd_eq]

theorem State.pulseOpens_get2 (s : State) (sw : Bool) : (s.pulseOpens sw).get2 BAN.TESTSTN0 = s.tm.stn % 2 ^ 32 := by
  have hstn : (s.testBegin ((if sw then 1 else 0) + 0xFF00)).get2 BAN.TESTSTN0 = s.tm.stn % 2 ^ 32 := State.get2_set2_low _ _ rfl rfl
  rw [← hstn, State.pulseOpens]
  generalize s.testBegin ((if sw then 1 else 0) + 0xFF00) = u
  cases sw <;> rw [testedCmd, State.setB, State.get2_set_ne _ _ rfl rfl rfl, State.get2_withBan]

/-- Of the two switches the test opens the one it tests. -/
theorem State.pulseOpens_cmd (s : State) (sw : Bool) :
    (s.pulseOpens sw).bit BAN.STATUS.HSCMD = (if sw then s.bit BAN.STATUS.HSCMD else false) ∧
    (s.pulseOpens sw).bit BAN.STATUS.LSCMD = (if sw then false else s.bit BAN.STATUS.LSCMD) := by
  have hbegin (r : Nat) {g : Fld} (h1 : BAN.TESTRES.word.apart g = true) (h2 : BAN.TESTSTN0.apart g = true)
      (h3 : (BAN.TESTSTN0.plus 1).apart g = true) : (s.testBegin r).bit g = s.bit g := by
    rw [State.bit, State.bit, s.testBegin_get r h1 h2 h3]
  rw [State.pulseOpens]
  generalize (if sw then 1 else 0) + 0xFF00 = r
  cases sw
  · refine ⟨State.bit_setB _ _ _ _ _ (by decide), ?_⟩
    rw [testedCmd, State.setB, State.bit_set_ne _ _ _ _ rfl rfl, State.bit_withBan, hbegin r rfl rfl rfl]
    rfl
  · refine ⟨?_, State.bit_setB _ _ _ _ _ (by decide)⟩
    rw [testedCmd, State.setB, State.bit_set_ne _ _ _ _ rfl rfl, State.bit_withBan, hbegin r rfl rfl rfl]
    rfl

theorem State.pulseOpens_ban (s : State) (sw : Bool) : (s.pulseOpens sw).ban = { s.ban with test := .opening sw } := by
  rw [State.pulseOpens, State.setB_ban, State.testBegin_ban]

theorem pulse_starts {c0 : Nat} {sw : Bool} (hact : s.pw.phase = .active) (htt : s.testTread = true)
    (hm : (s.get BAN.ROLE.MODE = 1 ∧ sw = s.bit BAN.STATUS.NEXTSW) ∨ (s.get BAN.ROLE.MODE = 2 ∧ sw = false))
    (hp : s.bit BAN.STATUS.PERMIT = true) (hok : s.bit BAN.STATUS.OVSOK = true) (hc : s.ban.closedAt = some c0)
    (hc0 : c0 + 1000000 ≤ s.nowNs + 750000) : ∃ t, exec .offPulseStart s = .next t ∧ t.ban = { s.ban with test := .opening sw } ∧
    t.bit BAN.STATUS.HSCMD = (if sw then s.bit BAN.STATUS.HSCMD else false) ∧
    t.bit BAN.STATUS.LSCMD = (if sw then false else s.bit BAN.STATUS.LSCMD) ∧ t.get2 BAN.TESTSTN0 = s.tm.stn % 2 ^ 32 := by
  obtain ⟨hhs, hls⟩ := s.pulseOpens_cmd sw
  refine ⟨_, (exec_offPulseStart_eq s).trans (whenActive_active _ s _ hact), ?_⟩
  rw [State.pulseStart_ready htt hm hp hok hc hc0, State.only_ban _ _ (by decide), s.pulseOpens_ban, State.only_bit, State.only_bit, hhs, hls,
    State.get2, State.only_get, State.only_get]
  exact ⟨rfl, rfl, rfl, s.pulseOpens_get2 sw⟩

/-- PASS with its fall time (R296). -/
def State.passShown (s : State) (fall : Nat) : State := ((s.set BAN.TESTRES.PASS 1).set BAN.TESTRES.FALL fall).inc BAN.TESTCNT

theorem State.passShown_fallMax (s : State) (fall : Nat) : (s.passShown fall).get BAN.FALLMAX = s.get BAN.FALLMAX := by
  rw [State.passShown, State.inc, State.get_set_ne _ _ _ _ rfl rfl, State.get_set_ne _ _ _ _ rfl rfl, State.get_set_ne _ _ _ _ rfl rfl]

theorem State.passShown_fields (s : State) {fall : Nat} (h : fall < 256) : (s.passShown fall).bit BAN.TESTRES.PASS = true ∧
    (s.passShown fall).get BAN.TESTRES.FALL = fall ∧ (s.passShown fall).get BAN.TESTCNT = min (s.get BAN.TESTCNT + 1) 65535 := by
  refine ⟨?_, ?_, ?_⟩
  · rw [State.passShown, State.inc, State.bit_set_ne _ _ _ _ rfl rfl, State.bit_set_ne _ _ _ _ rfl rfl]
    exact State.bit_evt _ 0x16 0x0F 1 (by decide)
  · rw [State.passShown, State.inc, State.get_set_ne _ _ _ _ rfl rfl, State.set_getAll _ _ _ rfl h]
  · rw [State.passShown, State.inc, State.set_getAll _ _ _ rfl (show min _ 65535 < 65536 by omega), State.get_set_ne _ _ _ _ rfl rfl,
      State.get_set_ne _ _ _ _ rfl rfl]
    rfl

theorem State.pulsePass_opening {sw : Bool} {fall : Nat} (ht : s.ban.test = .opening sw) : s.pulsePass fall =
    { (s.passShown fall).set BAN.FALLMAX (max (s.get BAN.FALLMAX) fall) with ban := { s.ban with test := .passed sw } } := by
  rw [← s.passShown_fallMax fall]
  simp only [State.pulsePass, ht]
  rfl

theorem pulse_passes {sw : Bool} {fall : Fin 101} (hact : s.pw.phase = .active) (ht : s.ban.test = .opening sw) :
    ∃ t, exec (.offPulsePass fall) s = .next t ∧ t.ban = { s.ban with test := .passed sw } ∧ t.bit BAN.TESTRES.PASS = true ∧
    t.get BAN.TESTRES.FALL = fall.val ∧ t.get BAN.TESTCNT = min (s.get BAN.TESTCNT + 1) 65535 ∧
    t.get BAN.FALLMAX = max (s.get BAN.FALLMAX) fall.val := by
  have hfall : fall.val < 101 := fall.isLt
  have hold : s.get BAN.FALLMAX < 65536 := fieldOf_lt _ _ _
  obtain ⟨hpass, hfallTime, hcount⟩ := s.passShown_fields (show fall.val < 256 by omega)
  refine ⟨_, (exec_offPulsePass_eq fall s).trans (whenActive_active _ s _ hact), ?_⟩
  rw [State.pulsePass_opening ht]
  refine ⟨State.only_ban _ _ (by decide), ?_, ?_, ?_, ?_⟩
  · rw [State.only_bit, State.bit_withBan, State.bit_set_ne _ _ _ _ rfl rfl, hpass]
  · rw [State.only_get, State.get_withBan, State.get_set_ne _ _ _ _ rfl rfl, hfallTime]
  · rw [State.only_get, State.get_withBan, State.get_set_ne _ _ _ _ rfl rfl, hcount]
  · rw [State.only_get, State.get_withBan, State.set_getAll _ _ _ rfl (show max _ _ < 65536 by omega)]

/-- A command of the banister that ends in a readback failure. -/
theorem fails_output {k : State → State} {u : State} (hact : s.pw.phase = .active) (hk : k s = u.outFail) :
    ∃ t, whenActive [.safe, .ban] s k = .next t ∧ t.locked = true ∧ t.holds 10 = true ∧ t.ban.test = .none ∧
    t.bit BAN.STATUS.HSCMD = false ∧ t.bit BAN.STATUS.LSCMD = false ∧ t.bit BAN.STATUS.PERMIT = false ∧ ∀ g, t.bit g = u.outFail.bit g := by
  obtain ⟨hlocked, hpermit⟩ := u.outFail_locked
  obtain ⟨hhs, hls⟩ := u.outFail_open
  refine ⟨_, whenActive_active _ s k hact, ?_⟩
  rw [hk]
  exact ⟨hlocked, u.outFail_holds, (congrArg Ban.test (State.only_ban _ _ (by decide))).trans u.outFail_noTest, hhs, hls, hpermit, fun _ => rfl⟩

theorem pulse_fails {sw : Bool} (hact : s.pw.phase = .active) (ht : s.ban.test = .opening sw) : ∃ t, exec .offPulseFail s = .next t ∧
    t.locked = true ∧ t.holds 10 = true ∧ t.ban.test = .none ∧ t.bit BAN.STATUS.HSCMD = false ∧ t.bit BAN.STATUS.LSCMD = false ∧
    (s.get BAN.ROLE.MODE = 1 → t.bit BAN.STATUS.NEXTSW = !s.bit BAN.STATUS.NEXTSW) := by
  obtain ⟨t, hexec, hl, h10, htest, hhs, hls, -, hbit⟩ := fails_output (u := s.inc BAN.TESTCNT)
    (k := fun s => match s.ban.test with | .opening _ => (s.inc BAN.TESTCNT).outFail | _ => s) hact (by simp only [ht])
  refine ⟨t, hexec, hl, h10, htest, hhs, hls, fun hm => ?_⟩
  have hmode : (s.inc BAN.TESTCNT).get BAN.ROLE.MODE = 1 := by rw [State.inc, State.get_set_ne _ _ _ _ rfl rfl, hm]
  rw [hbit, State.outFail_nextSw (s.inc BAN.TESTCNT) (.inl ht) hmode, State.inc, State.bit_set_ne _ _ _ _ rfl rfl]

theorem pulse_recloses {sw : Bool} (hact : s.pw.phase = .active) (ht : s.ban.test = .passed sw) : exec .offPulseReclose s =
    .next (({ s with ban := { s.ban with test := .reclosing sw, closedAt := some (s.nowNs + 900000) } }).setB
      (if sw then BAN.STATUS.LSCMD else BAN.STATUS.HSCMD) true) := by
  refine ((exec_offPulseReclose_eq s).trans (whenActive_active _ s _ hact)).trans ?_
  simp only [ht]
  exact congrArg Host.Outcome.next (State.only_of_without ((State.setB_without _ _ _ _).trans (State.withBan_without s (by decide) _)))

theorem reclose_passes {sw : Bool} (hact : s.pw.phase = .active) (ht : s.ban.test = .reclosing sw) (hm : s.get BAN.ROLE.MODE = 1) :
    ∃ t, exec (.recloseCheckEnd true) s = .next t ∧ t.ban = { s.ban with test := .none } ∧
    t.bit BAN.STATUS.NEXTSW = !s.bit BAN.STATUS.NEXTSW := by
  refine ⟨_, (exec_recloseCheckEnd_eq true s).trans (whenActive_active _ s _ hact), ?_⟩
  simp only [ht, if_true]
  refine ⟨?_, State.nextSw_toggles { s with ban := { s.ban with test := .none } } hm⟩
  rw [State.only_ban _ _ (by decide), State.nextSw_ban]

theorem reclose_fails {sw : Bool} (hact : s.pw.phase = .active) (ht : s.ban.test = .reclosing sw) :
    ∃ t, exec (.recloseCheckEnd false) s = .next t ∧ t.locked = true ∧ t.ban.test = .none ∧ t.bit BAN.STATUS.HSCMD = false := by
  obtain ⟨t, hexec, hl, -, htest, hhs, -⟩ := fails_output (u := s)
    (k := fun s => match s.ban.test with
      | .reclosing _ => if false then ({ s with ban := { s.ban with test := .none } }).nextSw else s.outFail | _ => s) hact
    (by simp only [ht, Bool.false_eq_true, if_false])
  exact ⟨t, hexec, hl, htest, hhs⟩

/-! ### The stage check (R300) -/

/-- The first phase: the high side as the mode wants it, the check in progress. -/
def State.checkBegun (s : State) : State :=
  ({ s.testBegin 0xFF20 with ban := { s.ban with test := .check } } : State).setB BAN.STATUS.HSCMD (s.get BAN.ROLE.MODE != 2)

/-- The second phase: high side open, low side closed. -/
def State.checkSwapped (s : State) : State := (s.setB BAN.STATUS.HSCMD false).setB BAN.STATUS.LSCMD true

section
variable (htt : s.testTread = true) (hmay : s.stageMay = true) (hp : s.bit BAN.STATUS.PERMIT = false) (hm : s.get BAN.ROLE.MODE ≠ 3)
include htt hmay hp hm

theorem State.stageCheck_first (ok : Bool) : s.stageCheck 0 ok =
    if ok then (if s.get BAN.ROLE.MODE = 2 then s.checkBegun.checkPassed else s.checkBegun) else s.checkBegun.outFail := by
  have hnot : ¬ (s.testTread = false ∨ s.stageMay = false ∨ s.bit BAN.STATUS.PERMIT = true ∨ s.get BAN.ROLE.MODE = 3) := by
    simp [htt, hmay, hp, hm]
  simp only [State.stageCheck, if_neg hnot]
  cases ok <;> rfl

theorem State.stageCheck_second (ht : s.ban.test = .check) (ok : Bool) : s.stageCheck 1 ok =
    if ok then s.checkSwapped else s.checkSwapped.outFail := by
  have hnot : ¬ (s.testTread = false ∨ s.stageMay = false ∨ s.bit BAN.STATUS.PERMIT = true ∨ s.get BAN.ROLE.MODE = 3) := by
    simp [htt, hmay, hp, hm]
  simp only [State.stageCheck, if_neg hnot, ht, ne_eq, not_true_eq_false, if_false]
  rfl

theorem State.stageCheck_third (ht : s.ban.test = .check) (ok : Bool) : s.stageCheck 2 ok = s.openAll.checkPassed := by
  have hnot : ¬ (s.testTread = false ∨ s.stageMay = false ∨ s.bit BAN.STATUS.PERMIT = true ∨ s.get BAN.ROLE.MODE = 3) := by
    simp [htt, hmay, hp, hm]
  simp only [State.stageCheck, if_neg hnot, ht, ne_eq, not_true_eq_false, if_false]

end

/-- What PASS of a check shows, and what it leaves of the switches. -/
theorem State.checkPassed_shows (u : State) : u.checkPassed.holds 10 = false ∧ u.checkPassed.bit BAN.TESTRES.PASS = true ∧
    u.checkPassed.ban = { u.ban with test := .none } ∧ u.checkPassed.bit BAN.STATUS.HSCMD = u.bit BAN.STATUS.HSCMD ∧
    u.checkPassed.bit BAN.STATUS.LSCMD = u.bit BAN.STATUS.LSCMD := by
  have hpage (v : State) {g : Fld} (hg : g.addr / 64 = 0x16) : v.causes.bit g = v.bit g :=
    State.bit_of_pageWords (v.causes_pageWords (by decide) (by decide)) hg
  refine ⟨?_, ?_, ?_, ?_, ?_⟩
  · rw [State.checkPassed, State.holds, State.causes_condNow, State.setB_condNow]
    exact (State.holds_cond _ 10 10 false (by decide)).trans (if_pos rfl)
  · rw [State.checkPassed, hpage _ rfl, State.setB, State.bit_set_ne _ _ _ _ rfl rfl, State.cond_bit]
    exact State.bit_evt _ 0x16 0x0F 1 (by decide)
  · rw [State.checkPassed, State.causes_ban, State.setB_ban, State.cond_ban, State.set_ban]
  · rw [State.checkPassed, hpage _ rfl, State.setB, State.bit_set_ne _ _ _ _ rfl rfl, State.cond_bit, State.bit_set_ne _ _ _ _ rfl rfl,
      State.bit_withBan]
  · rw [State.checkPassed, hpage _ rfl, State.setB, State.bit_set_ne _ _ _ _ rfl rfl, State.cond_bit, State.bit_set_ne _ _ _ _ rfl rfl,
      State.bit_withBan]

theorem State.checkBegun_ban (u : State) : u.checkBegun.ban = { u.ban with test := .check } := by rw [State.checkBegun, State.setB_ban]

theorem State.checkBegun_low (u : State) : u.checkBegun.bit BAN.STATUS.LSCMD = u.bit BAN.STATUS.LSCMD := by
  rw [State.checkBegun, State.setB, State.bit_set_ne _ _ _ _ rfl rfl, State.bit_withBan, State.bit, u.testBegin_get _ rfl rfl rfl]
  rfl

theorem State.checkBegun_high (u : State) : u.checkBegun.bit BAN.STATUS.HSCMD = (u.get BAN.ROLE.MODE != 2) :=
  State.bit_setB _ _ _ _ _ (by decide)

theorem State.checkSwapped_shows (u : State) : u.checkSwapped.ban = u.ban ∧ u.checkSwapped.bit BAN.STATUS.HSCMD = false ∧
    u.checkSwapped.bit BAN.STATUS.LSCMD = true := by
  refine ⟨by rw [State.checkSwapped, State.setB_ban, State.setB_ban], ?_, State.bit_setB _ _ _ _ _ (by decide)⟩
  rw [State.checkSwapped, State.setB, State.bit_set_ne _ _ _ _ rfl rfl]
  exact State.bit_setB _ _ _ _ _ (by decide)

section
variable (hact : s.pw.phase = .active) (htt : s.testTread = true) (hmay : s.stageMay = true) (hp : s.bit BAN.STATUS.PERMIT = false)
include hact htt hmay hp

theorem check_begins (hm : s.get BAN.ROLE.MODE ≤ 1) : ∃ t, exec (.stageCheckPhase 0 true) s = .next t ∧
    t.ban = { s.ban with test := .check } ∧ t.bit BAN.STATUS.HSCMD = true := by
  have hmode : s.stageCheck 0 true = s.checkBegun := by
    rw [State.stageCheck_first htt hmay hp (by omega), if_pos rfl, if_neg (by omega)]
  refine ⟨_, (exec_stageCheckPhase_eq 0 true s).trans (whenActive_active _ s _ hact), ?_⟩
  rw [show (0 : Fin 3).val = 0 from rfl, hmode, State.only_ban _ _ (by decide), s.checkBegun_ban, State.only_bit, s.checkBegun_high]
  exact ⟨rfl, bne_iff_ne.mpr (by omega)⟩

theorem check_swaps (hm : s.get BAN.ROLE.MODE ≤ 1) (ht : s.ban.test = .check) : ∃ t, exec (.stageCheckPhase 1 true) s = .next t ∧
    t.ban = s.ban ∧ t.bit BAN.STATUS.HSCMD = false ∧ t.bit BAN.STATUS.LSCMD = true := by
  refine ⟨_, (exec_stageCheckPhase_eq 1 true s).trans (whenActive_active _ s _ hact), ?_⟩
  rw [show (1 : Fin 3).val = 1 from rfl, State.stageCheck_second htt hmay hp (by omega) ht, if_pos rfl, State.only_ban _ _ (by decide),
    State.only_bit, State.only_bit]
  exact s.checkSwapped_shows

theorem check_passes (ok : Bool) (hm : s.get BAN.ROLE.MODE ≤ 1) (ht : s.ban.test = .check) :
    ∃ t, exec (.stageCheckPhase 2 ok) s = .next t ∧ t.ban.test = .none ∧ t.bit BAN.STATUS.HSCMD = false ∧
    t.bit BAN.STATUS.LSCMD = false ∧ t.holds 10 = false ∧ t.bit BAN.TESTRES.PASS = true := by
  obtain ⟨h10, hpass, hban, hhs, hls⟩ := s.openAll.checkPassed_shows
  obtain ⟨hhs', hls'⟩ := s.openAll_open
  refine ⟨_, (exec_stageCheckPhase_eq 2 ok s).trans (whenActive_active _ s _ hact), ?_⟩
  rw [show (2 : Fin 3).val = 2 from rfl, State.stageCheck_third htt hmay hp (by omega) ht, State.only_ban _ _ (by decide), hban,
    State.only_bit, State.only_bit, State.only_bit]
  exact ⟨rfl, hhs.trans hhs', hls.trans hls', h10, hpass⟩

theorem check_fails {ph : Fin 3} (hm : s.get BAN.ROLE.MODE ≠ 3) (hph : ph.val = 0 ∨ (ph.val = 1 ∧ s.ban.test = .check)) :
    ∃ t, exec (.stageCheckPhase ph false) s = .next t ∧ t.locked = true ∧ t.ban.test = .none ∧ t.holds 10 = true ∧
    t.bit BAN.STATUS.HSCMD = false ∧ t.bit BAN.STATUS.LSCMD = false ∧ t.bit BAN.TESTRES.FAIL = true ∧ t.bit BAN.STATUS.PERMIT = false := by
  have hfail : ∃ u : State, s.stageCheck ph.val false = u.outFail ∧ u.ban.test = .check := by
    rcases hph with h0 | ⟨h1, ht⟩
    · exact ⟨s.checkBegun, by rw [h0, State.stageCheck_first htt hmay hp hm, if_neg Bool.false_ne_true], by rw [s.checkBegun_ban]⟩
    · exact ⟨s.checkSwapped, by rw [h1, State.stageCheck_second htt hmay hp hm ht, if_neg Bool.false_ne_true],
        by rw [s.checkSwapped_shows.1, ht]⟩
  obtain ⟨u, hu, htest⟩ := hfail
  obtain ⟨t, hexec, hl, h10, hnone, hhs, hls, hpermit, hbit⟩ := fails_output (k := fun s => s.stageCheck ph.val false) hact hu
  refine ⟨t, (exec_stageCheckPhase_eq ph false s).trans hexec, hl, hnone, h10, hhs, hls, ?_, hpermit⟩
  rw [hbit]
  exact u.outFail_fail (by rw [htest]; decide)

/-- In mode 10 the first phase is the whole check. -/
theorem check_passes_at_once (hm : s.get BAN.ROLE.MODE = 2) : ∃ t, exec (.stageCheckPhase 0 true) s = .next t ∧
    t.ban = { s.ban with test := .none } ∧ t.bit BAN.STATUS.HSCMD = false ∧ t.bit BAN.STATUS.LSCMD = s.bit BAN.STATUS.LSCMD ∧
    t.holds 10 = false ∧ t.bit BAN.TESTRES.PASS = true := by
  have hmode : s.stageCheck 0 true = s.checkBegun.checkPassed := by
    rw [State.stageCheck_first htt hmay hp (by omega), if_pos rfl, if_pos hm]
  obtain ⟨h10, hpass, hban, hhs, hls⟩ := s.checkBegun.checkPassed_shows
  have hhigh : s.checkBegun.bit BAN.STATUS.HSCMD = false := by rw [s.checkBegun_high, hm]; rfl
  refine ⟨_, (exec_stageCheckPhase_eq 0 true s).trans (whenActive_active _ s _ hact), ?_⟩
  rw [show (0 : Fin 3).val = 0 from rfl, hmode, State.only_ban _ _ (by decide), hban, s.checkBegun_ban,
    State.only_bit, State.only_bit, State.only_bit]
  exact ⟨rfl, hhs.trans hhigh, hls.trans s.checkBegun_low, h10, hpass⟩

end

/-- Without its conditions no phase runs. -/
theorem State.stageCheck_idle {ph : Fin 3} {ok : Bool} (h : s.testTread = false ∨ s.stageMay = false ∨ s.bit BAN.STATUS.PERMIT = true ∨
    s.get BAN.ROLE.MODE = 3 ∨ (ph.val ≠ 0 ∧ s.ban.test ≠ .check)) : s.stageCheck ph.val ok = s := by
  by_cases hno : s.testTread = false ∨ s.stageMay = false ∨ s.bit BAN.STATUS.PERMIT = true ∨ s.get BAN.ROLE.MODE = 3
  · exact if_pos hno
  · obtain ⟨hph, ht⟩ : ph.val ≠ 0 ∧ s.ban.test ≠ .check := by tauto
    obtain ⟨n, hn⟩ := ph
    obtain rfl | rfl : n = 1 ∨ n = 2 := by
      have hn0 : n ≠ 0 := hph
      omega
    · exact (if_neg hno).trans (if_pos ht)
    · exact (if_neg hno).trans (if_pos ht)

end

/-- Settles O41, clause by clause: each command is its meaning (`State.ovs_low`, `State.pulseStart_ready`, `State.stageCheck_first`), and a
failed test or check ends as every readback failure does (`fails_output`). -/
theorem outputTests : Obligations.OutputTests := by
  refine ⟨fun s mV hact h => ovs_high hact h, fun s mV hact h => ovs_falls hact h, fun s mV hact hlo hhi => ?_,
    fun s c0 sw hact htt hused hm hp hok hc hc0 => pulse_starts hact htt hm hp hok hc hc0, fun s hact htt => ?_,
    fun s sw fall hact ht => pulse_passes hact ht, fun s sw hact ht => pulse_fails hact ht, fun s sw hact ht => pulse_recloses hact ht,
    fun s sw hact ht hm => reclose_passes hact ht hm, fun s sw hact ht => reclose_fails hact ht,
    fun s hact htt hmay hp hm => check_begins hact htt hmay hp hm, fun s hact htt hmay hp hm ht => check_swaps hact htt hmay hp hm ht,
    fun s ok hact htt hmay hp hm ht => check_passes hact htt hmay hp ok hm ht,
    fun s ph hact htt hmay hp hm hph => check_fails hact htt hmay hp hm hph,
    fun s hact htt hmay hp hm => check_passes_at_once hact htt hmay hp hm,
    fun s ph ok hact hno => (exec_stageCheckPhase_eq ph ok s).trans (whenActive_same hact (State.stageCheck_idle hno))⟩
  · rw [exec_ovsChange_eq, whenActive_next hact (by rw [State.ovs_between hlo hhi, State.set_without]), State.ovs_between hlo hhi]
  · exact (exec_offPulseStart_eq s).trans (whenActive_same hact (if_pos (.inl htt)))

end Sys2Proof.Machine
end
-- ==== Sys2Proof/Proofs/Collector.lean ====
section
/-! SUPPORT. The fault collector: vectors of 64 sources, a collection, its clears and the classes (R302 to R310). -/
namespace Sys2Proof.Machine

/-! ### Vectors of 64 sources -/

/-- The four words of a vector. -/
def vecFlds (f : Fld) : List Fld := [f, f.plus 1, f.plus 2, (f.plus 2).plus 1]

theorem no63_lt (v : Nat) : no63 v < 2 ^ 63 := Nat.mod_lt _ (by decide)

/-- The bits a mask leaves out of a vector. -/
theorem testBit_outside {x i : Nat} (hx : x < 2 ^ 64) (hi : i < 64) : (2 ^ 64 - 1 - x).testBit i = !x.testBit i := by
  rw [show 2 ^ 64 - 1 - x = 2 ^ 64 - (x + 1) by omega, Nat.testBit_two_pow_sub_succ hx]
  simp [hi]

/-- A notice with its number is posted, or the newest waiting one takes it in (R309). -/
def State.noticeSent (s : State) (seq new : Nat) (up dn : Bool) : State :=
  if s.qRoom 0 40 then (s.append 0 (s.notice seq 0 new) up dn (up || dn)).inc FAULT.NOTECNT
  else
    let q := look s.xact.queues 0
    match q.blocks.reverse with
    | [] => s
    | b :: l => ((s.setQueue 0 { q with blocks := l.reverse ++ [s.mergeInto b seq new up dn] }).inc FAULT.MERGECNT).evt FAULT.EVT.MERGE

section
variable (s : State) {f : Fld}

theorem State.postNotice_eq (new : Nat) : s.postNotice new =
    (s.set FAULT.NSEQ (if s.get FAULT.NSEQ = 65535 then 1 else s.get FAULT.NSEQ + 1)).noticeSent
      (if s.get FAULT.NSEQ = 65535 then 1 else s.get FAULT.NSEQ + 1) new (s.qualifies .upTx) (s.qualifies .dnTx) := (rfl)

theorem State.vec_lt (hf : f.w = 16) : s.vec f < 2 ^ 64 := by
  have h0 : s.get f < 2 ^ f.w := fieldOf_lt _ _ _
  have h1 : s.get (f.plus 1) < 2 ^ f.w := fieldOf_lt _ _ _
  have h2 : s.get (f.plus 2) < 2 ^ f.w := fieldOf_lt _ _ _
  have h3 : s.get ((f.plus 2).plus 1) < 2 ^ f.w := fieldOf_lt _ _ _
  rw [hf] at h0 h1 h2 h3
  rw [State.vec, State.get2, State.get2]
  omega

theorem State.vec_of_gets {t : State} (h : ∀ g ∈ vecFlds f, t.get g = s.get g) : t.vec f = s.vec f := by
  rw [State.vec, State.vec, State.get2, State.get2, State.get2, State.get2, h f (by simp [vecFlds]), h (f.plus 1) (by simp [vecFlds]),
    h (f.plus 2) (by simp [vecFlds]), h ((f.plus 2).plus 1) (by simp [vecFlds])]

/-- A vector reads as it was stored, in its 64 bits. -/
theorem State.vec_setVec (hlo : f.lo = 0) (hw : f.w = 16) {v : Nat} (hv : v < 2 ^ 64) : (s.setVec f v).vec f = v := by
  have hok : (f.plus 2).ok = true := by simp [Fld.ok, Fld.plus, hlo, hw]
  have hne (a b : Nat) (hab : a ≠ b) : (f.plus a).apart (f.plus b) = true := by simp [Fld.apart, Fld.addr, Fld.plus, linear, hab]
  have hlow : (s.setVec f v).get2 f = v % 2 ^ 32 := by
    rw [State.setVec, State.get2, State.get_set2_ne (g := f) _ _ hok (hne 2 0 (by decide)) (hne 3 0 (by decide)),
      State.get_set2_ne _ _ hok (hne 2 1 (by decide)) (hne 3 1 (by decide)), ← State.get2, State.get2_set2_low _ _ hlo hw]
  rw [State.vec, hlow, State.setVec, State.get2_set2_low _ (f := f.plus 2) _ hlo hw]
  omega

theorem State.get_setVec_ne {g : Fld} (v : Nat) (hok : f.ok = true) (hg : ∀ a ∈ vecFlds f, a.apart g = true) :
    (s.setVec f v).get g = s.get g := by
  have h2 : (f.plus 2).ok = true := hok
  rw [State.setVec, State.get_set2_ne _ _ h2 (hg _ (by simp [vecFlds])) (hg _ (by simp [vecFlds])),
    State.get_set2_ne _ _ hok (hg _ (by simp [vecFlds])) (hg _ (by simp [vecFlds]))]

/-! ### What the report of a collection leaves of the page -/

/-- The words that ERR, the notices and the cause CLASS show. -/
def reportFlds : List Fld := [FAULT.STATUS.PULSE, FAULT.STATUS.ERRLOW, FAULT.STATUS.ANYLIVE, FAULT.STATUS.ANYSTICKY, FAULT.STATUS.CLASSCAUSE,
  FAULT.ERRCTL.SWLEVEL, FAULT.NSEQ, FAULT.NOTECNT, FAULT.MERGECNT, FAULT.EVT.MERGE]

/-- A field of the page apart from these. -/
def Fld.offReport (g : Fld) : Bool := g.addr / 64 == 0x17 && reportFlds.all fun f => f.apart g

variable {g : Fld} (hg : g.offReport = true)
include hg

theorem Fld.offReport_page : g.addr / 64 = 0x17 := by simp_all [Fld.offReport]

theorem State.get_set_report {a : Fld} (ha : a ∈ reportFlds) (v : Nat) : (s.set a v).get g = s.get g := by
  have hok : ∀ f ∈ reportFlds, f.ok = true := by decide
  simp only [Fld.offReport, Bool.and_eq_true, List.all_eq_true] at hg
  exact State.get_set_ne _ _ _ _ (hok a ha) (hg.2 a ha)

theorem State.errStatus_field : s.errStatus.get g = s.get g := by
  simp (disch := decide) only [State.errStatus, State.setB, State.get_set_report _ hg]

theorem State.errPulse_field : s.errPulse.get g = s.get g := by
  have hcol (c : Collector) : ({ s with col := c } : State).get g = s.get g := rfl
  simp (disch := decide) only [State.errPulse, State.get_ite, State.setB, State.get_set_report _ hg, hcol, ite_self]

theorem State.classCause_field (t : Nat) : (s.classCause t).get g = s.get g := by
  have hp := Fld.offReport_page hg
  have hlock (u : State) : (u.lockCause 11 0 t true).get g = u.get g :=
    State.get_of_pageWords (u.lockCause_pageWords (by decide) (by decide) (by decide) _ _ _ _) hp
  have hcauses (u : State) : u.causes.get g = u.get g := State.get_of_pageWords (u.causes_pageWords (by decide) (by decide)) hp
  simp (disch := decide) only [State.classCause, State.get_ite, hlock, hcauses, State.setB, State.get_set_report _ hg, State.get_withSafe,
    ite_self]

theorem State.noticeSent_field (seq new : Nat) (up dn : Bool) : (s.noticeSent seq new up dn).get g = s.get g := by
  have hq (u : State) (x : Queue) : (u.setQueue 0 x).get g = u.get g := rfl
  unfold State.noticeSent
  split
  · exact State.get_set_report _ hg (show FAULT.NOTECNT ∈ reportFlds by decide) _
  · dsimp only
    split
    · rfl
    · rw [State.evt, State.get_set_report _ hg (by decide), State.inc, State.get_set_report _ hg (by decide), hq]

theorem State.postNotice_field (new : Nat) : (s.postNotice new).get g = s.get g := by
  rw [State.postNotice_eq, State.noticeSent_field _ hg, State.get_set_report _ hg (by decide)]

end

/-! ### A collection (R302, R303, R307) -/

section
variable (s : State)

/-- The classes of a collection stand in the collector's part alone. -/
theorem State.applyClasses_col : s.applyClasses = { s with col := s.applyClasses.col } := by
  have h : ({ s.applyClasses with col := s.col } : State) = { s with col := s.col } :=
    forEach_keeps (fun u => ({ u with col := s.col } : State)) _ _ (fun i _ u => by dsimp only; split <;> rfl) s
  exact congrArg (fun u : State => { u with col := s.applyClasses.col }) h

/-- The bits as a collection stores them; the occurrences of the next interval begin. -/
def State.bitsStored (s : State) (new : Nat) : State :=
  { (s.setVec FAULT.STICKY0 (s.vec FAULT.STICKY0 ||| new)).setVec FAULT.LIVE0 (no63 (s.condNow ||| s.evented).toNat) with
    occurred := s.condNow, evented := 0 }

theorem State.collectBits_eq (new : Nat) : s.collectBits new = match lowest new with
    | none => s.bitsStored new
    | some i => if decide (s.vec FAULT.STICKY0 = 0) then ((s.bitsStored new).evt FAULT.EVT.NEW).set FAULT.FIRST (64 + i)
      else (s.bitsStored new).evt FAULT.EVT.NEW := (rfl)

theorem State.collectBits_none {new : Nat} (h : lowest new = none) : s.collectBits new = s.bitsStored new := by
  rw [State.collectBits_eq, h]

theorem State.collectBits_some {new i : Nat} (h : lowest new = some i) : s.collectBits new =
    if s.vec FAULT.STICKY0 = 0 then ((s.bitsStored new).evt FAULT.EVT.NEW).set FAULT.FIRST (64 + i) else (s.bitsStored new).evt FAULT.EVT.NEW := by
  simp only [State.collectBits_eq, h, decide_eq_true_eq]

/-- Of the bits as stored FIRST and NEW change nothing else. -/
theorem State.collectBits_field (new : Nat) {g : Fld} (hn : FAULT.EVT.NEW.apart g = true) (hf : FAULT.FIRST.apart g = true) :
    (s.collectBits new).get g = (s.bitsStored new).get g := by
  cases h : lowest new with
  | none => rw [s.collectBits_none h]
  | some i => rw [s.collectBits_some h, State.get_ite, State.get_set_ne _ _ _ _ rfl hf, State.evt, State.get_set_ne _ _ _ _ rfl hn, ite_self]

theorem State.bitsStored_field (new : Nat) {g : Fld} (hs : ∀ a ∈ vecFlds FAULT.STICKY0, a.apart g = true)
    (hl : ∀ a ∈ vecFlds FAULT.LIVE0, a.apart g = true) : (s.bitsStored new).get g = s.get g :=
  (State.get_setVec_ne _ _ rfl hl).trans (State.get_setVec_ne _ _ rfl hs)

theorem State.newlySet_lt : s.newlySet < 2 ^ 63 := lt_of_le_of_lt Nat.and_le_left (no63_lt _)

/-- What is newly set joins what is set already. -/
theorem State.sticky_or_newlySet : s.vec FAULT.STICKY0 ||| s.newlySet = s.vec FAULT.STICKY0 ||| no63 s.occurred.toNat := by
  refine Nat.eq_of_testBit_eq fun i => ?_
  by_cases hi : i < 64
  · simp only [State.newlySet, Nat.testBit_or, Nat.testBit_and, testBit_outside (s.vec_lt (f := FAULT.STICKY0) rfl) hi]
    cases (s.vec FAULT.STICKY0).testBit i <;> simp
  · have h63 : (no63 s.occurred.toNat).testBit i = false :=
      Nat.testBit_lt_two_pow (lt_of_lt_of_le (no63_lt _) (Nat.pow_le_pow_right (by decide) (by omega)))
    simp [State.newlySet, h63]

theorem State.bitsStored_vecs : (s.bitsStored s.newlySet).vec FAULT.STICKY0 = (s.vec FAULT.STICKY0 ||| no63 s.occurred.toNat) ∧
    (s.bitsStored s.newlySet).vec FAULT.LIVE0 = no63 (s.condNow ||| s.evented).toNat := by
  have hnew : s.newlySet < 2 ^ 64 := lt_trans s.newlySet_lt (by decide)
  have hall : s.vec FAULT.STICKY0 ||| no63 s.occurred.toNat < 2 ^ 64 := Nat.or_lt_two_pow (s.vec_lt rfl) (lt_trans (no63_lt _) (by decide))
  have hlive (u : State) {v : Nat} : (u.setVec FAULT.LIVE0 v).vec FAULT.STICKY0 = u.vec FAULT.STICKY0 :=
    State.vec_of_gets _ fun g hg => State.get_setVec_ne _ _ rfl (by revert g; decide)
  have hstore (u : State) (o e : BitVec 64) (f : Fld) : ({ u with occurred := o, evented := e } : State).vec f = u.vec f := rfl
  rw [State.bitsStored, s.sticky_or_newlySet]
  constructor
  · exact (hstore _ _ _ FAULT.STICKY0).trans ((hlive _).trans (State.vec_setVec _ rfl rfl hall))
  · exact (hstore _ _ _ FAULT.LIVE0).trans (State.vec_setVec _ rfl rfl (lt_trans (no63_lt _) (by decide)))

/-- A collection leaves its page but for the bits and its report as it was. -/
theorem State.collect_field {g : Fld} (hg : g.offReport = true) :
    s.collect.get g = (s.applyClasses.collectBits s.applyClasses.newlySet).get g := by
  simp only [State.collect, State.get_ite, State.postNotice_field _ hg, State.classCause_field _ hg, State.errStatus_field _ hg,
    State.errPulse_field _ hg, ite_self]

end

end Sys2Proof.Machine
end
-- ==== Sys2Proof/Proofs/FaultCollector.lean ====
section
/-! SUPPORT. What a collection, the end of an ERR pulse, the clears and a class write leave in the registers (R302 to R310). -/
namespace Sys2Proof.Machine

/-! ### The sources that had an event -/

section
variable (s : State)

theorem State.causes_evented : s.causes.evented = s.evented := by simp [State.causes, apply_ite State.evented]

theorem State.permitUpdate_evented (t : Nat) : (s.permitUpdate t).evented = s.evented := by
  have htest (u : State) : u.testDemand.evented = u.evented := by
    cases ht : u.ban.test <;> simp [State.testDemand, ht, State.testDiscard, State.nextSw, apply_ite State.evented]
  simp [State.permitUpdate, State.closeAll, State.openAll, State.hbGate, apply_ite State.evented, htest]

theorem State.lockCause_evented (bit info t : Nat) (ev : Bool) : (s.lockCause bit info t ev).evented = s.evented := by
  have hcond (u : State) (i : Nat) (b : Bool) : (u.cond i b).evented = u.evented := by cases b <;> rfl
  have hclear (u : State) (f : Fld) (n : Nat) : (u.clearV f n).evented = u.evented :=
    forEach_keeps State.evented (fun i s => s.setV f i false) _ (fun _ _ _ => rfl) u
  have hclock (u : State) : (u.lockClock bit).evented = u.evented := by unfold State.lockClock; split <;> rfl
  have hbegin (u : State) : (u.lockBegin bit info t).evented = u.evented := by
    simp only [State.lockBegin, hcond, hclear]
    rfl
  have hadd (u : State) : (u.lockAdd bit info ev).evented = u.evented := by
    simp only [State.lockAdd, State.set_evented, apply_ite State.evented, State.set3_evented, ite_self]
  simp only [State.lockCause_eq, State.lockShow, State.permitUpdate_evented, State.causes_evented, apply_ite State.evented,
    State.set_evented, hadd, hbegin, hclock, State.evt_evented, ite_self]

theorem State.classCause_evented (t : Nat) : (s.classCause t).evented = s.evented := by
  simp only [State.classCause, apply_ite State.evented, State.lockCause_evented, State.causes_evented, State.setB_evented, ite_self]

theorem State.postNotice_evented (new : Nat) : (s.postNotice new).evented = s.evented := by
  rw [State.postNotice_eq, ← State.set_evented s FAULT.NSEQ (if s.get FAULT.NSEQ = 65535 then 1 else s.get FAULT.NSEQ + 1)]
  generalize s.set FAULT.NSEQ _ = u
  unfold State.noticeSent
  split
  · rfl
  · dsimp only
    split <;> rfl

theorem State.collectBits_evented (new : Nat) : (s.collectBits new).evented = 0 := by
  rw [State.collectBits_eq]
  split
  · rfl
  · split <;> rfl

/-- A collection begins a new interval: no source has had an event in it. -/
theorem State.collect_evented : s.collect.evented = 0 := by
  simp only [State.collect, apply_ite State.evented, State.postNotice_evented, State.classCause_evented, State.errStatus, State.errPulse,
    State.setB_evented, State.collectBits_evented, ite_self]

/-! ### The collection -/

theorem State.collect_vecs : s.collect.vec FAULT.STICKY0 = (s.vec FAULT.STICKY0 ||| no63 s.occurred.toNat) ∧
    s.collect.vec FAULT.LIVE0 = no63 (s.condNow ||| s.evented).toNat := by
  obtain ⟨hsticky, hlive⟩ := s.applyClasses.bitsStored_vecs
  rw [s.applyClasses_col] at hsticky hlive
  have hvec (f : Fld) (hr : ∀ g ∈ vecFlds f, g.offReport = true) (hn : ∀ g ∈ vecFlds f, FAULT.EVT.NEW.apart g = true)
      (hf : ∀ g ∈ vecFlds f, FAULT.FIRST.apart g = true) :
      s.collect.vec f = (s.applyClasses.bitsStored s.applyClasses.newlySet).vec f :=
    State.vec_of_gets _ fun g hg => (s.collect_field (hr g hg)).trans (State.collectBits_field _ _ (hn g hg) (hf g hg))
  rw [hvec FAULT.STICKY0 (by decide) (by decide) (by decide), hvec FAULT.LIVE0 (by decide) (by decide) (by decide), s.applyClasses_col]
  exact ⟨hsticky, hlive⟩

/-- The source that was the first to be set shows in FIRST. -/
theorem State.collect_first (h0 : s.vec FAULT.STICKY0 = 0) {i : Nat} (hi : lowest (no63 s.occurred.toNat) = some i) :
    s.collect.get FAULT.FIRST = 64 + i ∧ s.collect.bit FAULT.EVT.NEW = true := by
  have hlt : i < 64 := List.mem_range.mp (List.mem_of_find?_eq_some hi)
  have hempty (u : State) (h : u.vec FAULT.STICKY0 = 0) (ho : u.occurred = s.occurred) : u.collectBits u.newlySet =
      ((u.bitsStored u.newlySet).evt FAULT.EVT.NEW).set FAULT.FIRST (64 + i) := by
    have hnew : u.newlySet = no63 s.occurred.toNat := by
      rw [State.newlySet, h, ho]
      exact Nat.and_two_pow_sub_one_of_lt_two_pow (n := 64) (lt_trans (no63_lt _) (by decide))
    rw [State.collectBits_some (i := i) _ (by rw [hnew, hi]), if_pos h]
  have hbits := hempty s.applyClasses (by rw [s.applyClasses_col]; exact h0) (by rw [s.applyClasses_col])
  rw [State.bit, s.collect_field (g := FAULT.FIRST) rfl, s.collect_field (g := FAULT.EVT.NEW) rfl, hbits,
    State.set_getAll _ _ _ rfl (show 64 + i < 65536 by omega), State.get_set_ne _ _ _ _ rfl rfl]
  exact ⟨rfl, State.bit_evt _ _ _ _ (by decide)⟩

/-- FIRST stays while a sticky bit is set. -/
theorem State.collect_first_stays (h0 : s.vec FAULT.STICKY0 ≠ 0) : s.collect.get FAULT.FIRST = s.get FAULT.FIRST := by
  have hkeep (u : State) (h : u.vec FAULT.STICKY0 ≠ 0) : (u.collectBits u.newlySet).get FAULT.FIRST = u.get FAULT.FIRST := by
    cases hl : lowest u.newlySet with
    | none => rw [u.collectBits_none hl, State.bitsStored_field _ _ (by decide) (by decide)]
    | some i => rw [u.collectBits_some hl, if_neg h, State.evt, State.get_set_ne _ _ _ _ rfl rfl,
        State.bitsStored_field _ _ (by decide) (by decide)]
  rw [s.collect_field (g := FAULT.FIRST) rfl, hkeep _ (by rw [s.applyClasses_col]; exact h0), s.applyClasses_col]
  rfl

end

/-! ### The end of an ERR pulse (R310) -/

section
variable (s : State)

theorem exec_faultCollection_eq : exec .faultCollection s =
    whenActive [.xact, .safe, .ban, .col] s fun s => if s.tm.tread = 0 then s else s.collect := (rfl)
theorem exec_errPulseEnd_eq : exec .errPulseEnd s = whenActive [.col] s fun s => s.pulseEnd := (rfl)
theorem exec_stickyClear_eq (w : Fin 4) (v : Word) : exec (.stickyClear w v) s =
    whenActive [.safe, .ban, .col] s fun s => s.writeBegin.stickyClear w.val v := (rfl)
theorem exec_clrall_eq : exec .clrall s = whenActive [.safe, .ban, .col] s fun s => s.clrAll := (rfl)
theorem exec_classWrite_eq (w : Fin 8) (v : Word) : exec (.classWrite w v) s =
    whenActive [] s fun s => if s.guardArmed then s.wlock else s.classStore w.val v := (rfl)

theorem State.only_col (t : State) {c : List Part} (hc : Part.col ∈ c) : (s.only t c).col = t.col := by simp [State.only, hc]
theorem State.only_vec (t : State) (c : List Part) (f : Fld) : (s.only t c).vec f = t.vec f := (rfl)

theorem State.pulseEnd_over {e : Nat} (h : s.col.pulseEnd = some e) (he : e ≤ s.tm.ltc) :
    s.pulseEnd = ({ s with col := { s.col with pulseEnd := none } } : State).errStatus := by
  simp only [State.pulseEnd, h, he, if_true]

theorem State.pulseEnd_runs {e : Nat} (h : s.col.pulseEnd = some e) (he : s.tm.ltc < e) : s.pulseEnd = s := by
  simp only [State.pulseEnd, h, Nat.not_le.mpr he, if_false]

theorem State.errStatus_col : s.errStatus.col = s.col := by simp [State.errStatus]

/-- PULSE and ERRLOW once no pulse runs. -/
theorem State.errStatus_quiet (h : s.col.pulseEnd = none) : s.errStatus.bit FAULT.STATUS.PULSE = false ∧
    s.errStatus.bit FAULT.STATUS.ERRLOW = s.bit FAULT.ERRCTL.SWLEVEL := by
  simp only [State.errStatus, h, Option.isSome_none, Bool.false_or]
  constructor
  · rw [State.setB, State.bit_set_ne _ _ _ _ rfl rfl, State.setB, State.bit_set_ne _ _ _ _ rfl rfl, State.setB, State.bit_set_ne _ _ _ _ rfl rfl]
    exact State.bit_setB _ _ _ _ _ (by decide)
  · rw [State.setB, State.bit_set_ne _ _ _ _ rfl rfl, State.setB, State.bit_set_ne _ _ _ _ rfl rfl]
    exact State.bit_setB _ _ _ _ _ (by decide)

theorem pulse_ends {e : Nat} (hact : s.pw.phase = .active) (h : s.col.pulseEnd = some e) (he : e ≤ s.tm.ltc) :
    ∃ t, exec .errPulseEnd s = .next t ∧ t.col = { s.col with pulseEnd := none } ∧ t.bit FAULT.STATUS.PULSE = false ∧
    t.bit FAULT.STATUS.ERRLOW = s.bit FAULT.ERRCTL.SWLEVEL ∧ t.vec FAULT.STICKY0 = s.vec FAULT.STICKY0 := by
  obtain ⟨hpulse, hlow⟩ := ({ s with col := { s.col with pulseEnd := none } } : State).errStatus_quiet rfl
  refine ⟨_, (exec_errPulseEnd_eq s).trans (whenActive_active _ s _ hact), ?_⟩
  rw [s.pulseEnd_over h he, State.only_col _ _ (by decide), State.errStatus_col, State.only_bit, State.only_bit, hpulse, hlow, State.only_vec]
  refine ⟨rfl, rfl, rfl, State.vec_of_gets _ fun g hg => ?_⟩
  rw [State.errStatus_field _ (by revert g; decide)]
  rfl

/-! ### Clears (R304) -/

/-- The sticky bits that a clear of `v` leaves. -/
def State.stickyLeft (s : State) (v : Nat) : Nat :=
  s.vec FAULT.STICKY0 &&& (2 ^ 64 - 1 - (v &&& (2 ^ 64 - 1 - s.vec FAULT.LIVE0)))

theorem State.stickyDrop_eq (v : Nat) : s.stickyDrop v =
    ((((s.setVec FAULT.STICKY0 (s.stickyLeft v)).errStatus).classCause s.collectNs), v &&& s.vec FAULT.LIVE0 &&& s.vec FAULT.STICKY0) := (rfl)

/-- A clear takes a sticky bit away just where it is asked for and the live bit is 0. -/
theorem State.stickyLeft_testBit (v : Nat) {i : Nat} (hi : i < 64) : (s.stickyLeft v).testBit i =
    ((s.vec FAULT.STICKY0).testBit i && !(v.testBit i && !(s.vec FAULT.LIVE0).testBit i)) := by
  have hlive : s.vec FAULT.LIVE0 < 2 ^ 64 := s.vec_lt rfl
  have hout : v &&& (2 ^ 64 - 1 - s.vec FAULT.LIVE0) < 2 ^ 64 := lt_of_le_of_lt Nat.and_le_right (by omega)
  rw [State.stickyLeft, Nat.testBit_and, testBit_outside hout hi, Nat.testBit_and, testBit_outside hlive hi]

theorem State.stickyDrop_field (v : Nat) {g : Fld} (hg : g.offReport = true) (hs : ∀ a ∈ vecFlds FAULT.STICKY0, a.apart g = true) :
    (s.stickyDrop v).1.get g = s.get g := by
  rw [State.stickyDrop_eq, State.classCause_field _ hg, State.errStatus_field _ hg, State.get_setVec_ne _ _ rfl hs]

theorem State.stickyDrop_live (v : Nat) : (s.stickyDrop v).1.vec FAULT.LIVE0 = s.vec FAULT.LIVE0 :=
  State.vec_of_gets _ fun g hg => s.stickyDrop_field v (by revert g; decide) (by revert g; decide)

theorem State.stickyDrop_sticky (v : Nat) : (s.stickyDrop v).1.vec FAULT.STICKY0 = s.stickyLeft v := by
  have hlt : s.stickyLeft v < 2 ^ 64 := lt_of_le_of_lt Nat.and_le_left (s.vec_lt rfl)
  rw [← State.vec_setVec s (f := FAULT.STICKY0) rfl rfl hlt, State.stickyDrop_eq]
  refine State.vec_of_gets _ fun g hg => ?_
  rw [State.classCause_field _ (by revert g; decide), State.errStatus_field _ (by revert g; decide)]

theorem State.col_of_without {s t : State} {c : List Part} (hc : Part.col ∉ c) (h : t.without c = s.without c) : t.col = s.col := by
  rw [← State.only_of_without h]
  simp [State.only, hc]

theorem State.stickyDrop_col (v : Nat) : (s.stickyDrop v).1.col = s.col :=
  State.col_of_without (c := [.safe, .ban]) (by decide) (State.stickyDrop_without s (by decide) (by decide) v)

/-- The vector that a write of ones to a STICKY word asks to clear. -/
def asked (w : Nat) (v : Word) : Nat := no63 (v.toNat * 2 ^ (16 * w))

theorem asked_testBit (w : Nat) (v : Word) (i : Nat) (hw : w < 4) : (asked w v).testBit i =
    (decide (i ≠ 63 ∧ i / 16 = w) && v.getLsbD (i % 16)) := by
  have hv : ∀ j, 16 ≤ j → v.getLsbD j = false := fun j hj => BitVec.getLsbD_of_ge v j hj
  rw [asked, no63, Nat.testBit_mod_two_pow, Nat.testBit_mul_two_pow, BitVec.testBit_toNat]
  rcases lt_trichotomy (i / 16) w with h | rfl | h
  · simp [show ¬ 16 * w ≤ i by omega, show i / 16 ≠ w by omega]
  · rw [show i - 16 * (i / 16) = i % 16 by omega, decide_eq_true (show 16 * (i / 16) ≤ i by omega)]
    simp only [Bool.true_and, and_true]
    congr 1
    exact decide_eq_decide.mpr (by omega)
  · rw [hv (i - 16 * w) (by omega)]
    simp [show i / 16 ≠ w by omega]

theorem State.stickyClear_none {w : Nat} {v : Word} (h : lowest (asked w v &&& s.vec FAULT.LIVE0 &&& s.vec FAULT.STICKY0) = none) :
    s.stickyClear w v = (s.stickyDrop (asked w v)).1 := by
  have hl : lowest (s.stickyDrop (no63 (v.toNat * 2 ^ (16 * w)))).2 = none := h
  simp only [State.stickyClear, hl]
  rfl

theorem State.stickyClear_some {w i : Nat} {v : Word} (h : lowest (asked w v &&& s.vec FAULT.LIVE0 &&& s.vec FAULT.STICKY0) = some i)
    (hc : s.col.clrLow = none) : s.stickyClear w v = (({ (s.stickyDrop (asked w v)).1 with
      col := { (s.stickyDrop (asked w v)).1.col with clrLow := some i } } : State).evt FAULT.EVT.CLRREJ).set FAULT.CLRREJIDX (64 + i) := by
  have hl : lowest (s.stickyDrop (no63 (v.toNat * 2 ^ (16 * w)))).2 = some i := h
  have hnone : (s.stickyDrop (no63 (v.toNat * 2 ^ (16 * w)))).1.col.clrLow = none := by rw [State.stickyDrop_col, hc]
  simp only [State.stickyClear, hl, hnone]
  rfl

/-- A write of ones drops the bits, and shows the lowest one that stays because its source is live. -/
theorem State.stickyClear_shows (w : Nat) (v : Word) (hc : s.col.clrLow = none) :
    (s.stickyClear w v).vec FAULT.LIVE0 = s.vec FAULT.LIVE0 ∧ (s.stickyClear w v).vec FAULT.STICKY0 = s.stickyLeft (asked w v) ∧
    ∀ i, lowest (asked w v &&& s.vec FAULT.LIVE0 &&& s.vec FAULT.STICKY0) = some i →
      (s.stickyClear w v).bit FAULT.EVT.CLRREJ = true ∧ (s.stickyClear w v).get FAULT.CLRREJIDX = 64 + i := by
  cases h : lowest (asked w v &&& s.vec FAULT.LIVE0 &&& s.vec FAULT.STICKY0) with
  | none =>
    rw [s.stickyClear_none h]
    exact ⟨s.stickyDrop_live _, s.stickyDrop_sticky _, fun i hi => absurd hi (by simp)⟩
  | some j =>
    have hlt : j < 64 := List.mem_range.mp (List.mem_of_find?_eq_some h)
    have hvec (u : State) (x : Collector) (f : Fld) (he : ∀ g ∈ vecFlds f, FAULT.EVT.CLRREJ.apart g = true)
        (hx : ∀ g ∈ vecFlds f, FAULT.CLRREJIDX.apart g = true) :
        ((({ u with col := x } : State).evt FAULT.EVT.CLRREJ).set FAULT.CLRREJIDX (64 + j)).vec f = u.vec f :=
      State.vec_of_gets _ fun g hg => (State.get_set_ne _ _ _ _ rfl (hx g hg)).trans (State.get_set_ne _ _ _ _ rfl (he g hg))
    rw [s.stickyClear_some h hc, hvec _ _ _ (by decide) (by decide), hvec _ _ _ (by decide) (by decide)]
    refine ⟨s.stickyDrop_live _, s.stickyDrop_sticky _, fun i hi => ?_⟩
    obtain rfl : j = i := by simpa using hi
    rw [State.bit_set_ne _ _ _ _ rfl rfl, State.set_getAll _ _ _ rfl (show 64 + j < 65536 by omega)]
    exact ⟨State.bit_evt _ _ _ _ (by decide), rfl⟩

/-! ### Class writes (R305) -/

/-- A masked word has the new bits where its mask has ones. -/
theorem fieldOf_masked {r v m : Word} {lo w : Nat} (h : ∀ j < w, m.getLsbD (lo + j) = true) :
    fieldOf ((r &&& ~~~m) ||| (v &&& m)) lo w = fieldOf v lo w := by
  refine Nat.eq_of_testBit_eq fun j => ?_
  rw [fieldOf, fieldOf, Nat.testBit_mod_two_pow, Nat.testBit_mod_two_pow, Nat.testBit_div_two_pow, Nat.testBit_div_two_pow,
    BitVec.testBit_toNat, BitVec.testBit_toNat]
  by_cases hj : j < w
  · have hm := h j hj
    rw [Nat.add_comm] at hm
    simp [hm]
  · simp [hj]

/-- And the old ones where it has zeros. -/
theorem fieldOf_unmasked {r v m : Word} {lo w : Nat} (h : ∀ j < w, m.getLsbD (lo + j) = false) (hw : lo + w ≤ 16) :
    fieldOf ((r &&& ~~~m) ||| (v &&& m)) lo w = fieldOf r lo w := by
  refine Nat.eq_of_testBit_eq fun j => ?_
  rw [fieldOf, fieldOf, Nat.testBit_mod_two_pow, Nat.testBit_mod_two_pow, Nat.testBit_div_two_pow, Nat.testBit_div_two_pow,
    BitVec.testBit_toNat, BitVec.testBit_toNat]
  by_cases hj : j < w
  · have hm := h j hj
    rw [Nat.add_comm] at hm
    have h16 : j + lo < 16 := by omega
    simp only [BitVec.getLsbD_or, BitVec.getLsbD_and, BitVec.getLsbD_not, hm, h16, decide_true, Bool.not_false, Bool.and_true,
      Bool.and_false, Bool.or_false]
  · simp [hj]

theorem classFld_addr (i : Nat) : (classFld i).addr = (FAULT.CLASS0.plus (i / 8)).addr := (rfl)

/-- The word of a class store. -/
theorem State.classStore_open {v : Word} (hl : s.locked = false) (w : Nat) : s.classStore w v = s.setReg (FAULT.CLASS0.plus w).addr
    ((s.reg (FAULT.CLASS0.plus w).addr &&& ~~~BitVec.ofNat 16 (classMask w)) ||| (v &&& BitVec.ofNat 16 (classMask w))) := by
  rw [State.classStore, hl, Bool.false_and, if_neg Bool.false_ne_true]

/-- The classes of sources 12 to 62 are written. -/
theorem State.classStore_stores {v : Word} (hl : s.locked = false) {i : Nat} (hlo : 12 ≤ i) (hhi : i ≤ 62) :
    (s.classStore (i / 8) v).get (classFld i) = fieldOf v (i % 8 * 2) 2 := by
  have hmask : ∀ i : Fin 63, 12 ≤ i.val → ∀ j < 2, (BitVec.ofNat 16 (classMask (i.val / 8))).getLsbD (i.val % 8 * 2 + j) = true := by decide
  rw [s.classStore_open hl, State.get, classFld_addr, State.reg_setReg_self]
  exact fieldOf_masked (hmask ⟨i, by omega⟩ hlo)

/-- Those of sources 0 to 11 never are. -/
theorem State.classStore_keeps {v : Word} (hl : s.locked = false) (w : Nat) {i : Nat} (hi : i < 12) :
    (s.classStore w v).get (classFld i) = s.get (classFld i) := by
  have hmask : ∀ i : Fin 12, ∀ j < 2, (BitVec.ofNat 16 (classMask (i.val / 8))).getLsbD (i.val % 8 * 2 + j) = false := by decide
  rw [s.classStore_open hl, State.get, State.get, classFld_addr]
  by_cases hw : i / 8 = w
  · subst hw
    rw [State.reg_setReg_self]
    refine fieldOf_unmasked (hmask ⟨i, hi⟩) ?_
    change i % 8 * 2 + 2 ≤ 16
    omega
  · rw [State.reg_setReg_ne]
    simp only [Fld.addr, Fld.plus, linear]
    omega

end

/-- Settles O42: a collection stores the occurrences and its report leaves them alone (`State.collect_vecs`), a clear leaves the bits of live
sources (`State.stickyLeft_testBit`), and a class word is stored under its mask (`State.classStore_open`). -/
theorem faultCollector : Obligations.FaultCollector := by
  refine ⟨fun s hact htread => ?_, fun s hact h0 => ?_, fun s e hact h he => pulse_ends s hact h he, fun s e hact h he => ?_,
    fun s w v hact => ?_, fun s hact => ?_, fun s w v hact harm hl => ?_, fun s w v hact harm hl hlow => ?_⟩
  · refine ⟨_, (exec_faultCollection_eq s).trans (whenActive_active _ s _ hact), ?_⟩
    rw [if_neg (by omega), State.only_vec, State.only_vec, State.only_evented, State.only_get, State.only_bit]
    exact ⟨s.collect_vecs.1, s.collect_vecs.2, s.collect_evented, fun h i hi => s.collect_first h hi, fun h => s.collect_first_stays h⟩
  · exact (exec_faultCollection_eq s).trans (whenActive_same hact (if_pos h0))
  · exact (exec_errPulseEnd_eq s).trans (whenActive_same hact (s.pulseEnd_runs h he))
  · obtain ⟨hlive, hsticky, hrej⟩ := s.writeBegin.stickyClear_shows w.val v rfl
    refine ⟨_, (exec_stickyClear_eq s w v).trans (whenActive_active _ s _ hact), hlive, fun i hi => ?_, hrej⟩
    rw [State.only_vec, hsticky, State.stickyLeft_testBit _ _ hi, asked_testBit _ _ _ w.isLt]
    rfl
  · refine ⟨_, (exec_clrall_eq s).trans (whenActive_active _ s _ hact), ?_⟩
    rw [State.clrAll, State.only_vec, State.stickyDrop_live, State.only_bit, State.only_get, State.bit, State.bit,
      s.stickyDrop_field _ (g := FAULT.EVT.CLRREJ) rfl (by decide), s.stickyDrop_field _ (g := FAULT.CLRREJIDX) rfl (by decide), State.only_vec,
      State.stickyDrop_sticky]
    refine ⟨rfl, rfl, rfl, fun i hi => ?_⟩
    rw [s.stickyLeft_testBit _ (by omega), Nat.testBit_two_pow_sub_one, decide_eq_true hi, Bool.true_and, Bool.not_not]
  · refine ⟨_, (exec_classWrite_eq s w v).trans (whenActive_active _ s _ hact), ?_⟩
    rw [harm, if_neg Bool.false_ne_true]
    refine ⟨fun i hlo hhi hw => ?_, fun i hi => s.classStore_keeps hl w.val hi, fun a ha => ?_⟩
    · rw [State.only_get, ← hw, s.classStore_stores hl hlo hhi]
    · rw [State.only_reg, s.classStore_open hl, State.reg_setReg_ne _ _ _ _ ha]
  · have hstore : (if s.guardArmed then s.wlock else s.classStore w.val v) = s.evt FAULT.EVT.CFGREJ := by
      rw [harm, if_neg Bool.false_ne_true, State.classStore, hl, hlow, Bool.true_and, if_pos rfl]
    rw [exec_classWrite_eq, whenActive_next hact (by rw [hstore, State.evt_without]), hstore]

end Sys2Proof.Machine
end
-- ==== Sys2Proof/Proofs/ArmedGuard.lean ====
section
/-! SUPPORT. The armed configuration guard and the read-only fields it leaves (R8, R439, R440). -/
namespace Sys2Proof.Machine

section
variable {s : State}

/-- A gated command whose meaning is known, and stays within its parts. -/
theorem whenActive_becomes {c : List Part} {k : State → State} {t : State} (hact : s.pw.phase = .active) (h : k s = t)
    (ht : t.without c = s.without c) : whenActive c s k = .next t :=
  (whenActive_next hact (by rw [h, ht])).trans (congrArg Host.Outcome.next h)

theorem exec_cfgOpen_eq (key : Byte) (s : State) : exec (.cfgOpen key) s = whenActive [] s fun s => s.cfgKeyed key State.cfgOpen := (rfl)
theorem exec_userTrimWrite_eq (v : Word) (s : State) : exec (.userTrimWrite v) s =
    whenActive [.staged, .cal] s fun s => if s.guardArmed && s.cfgClass (linear 0x11 0x0C) then s.wlock else s.trimWrite v := (rfl)

/-! ### A write while the guard is armed -/

theorem State.writeWord_locked {a : Nat} {v : Word} (ha : a < 2048) (harm : s.guardArmed = true) (hc : s.cfgClass a = true) :
    s.writeWord a v = s.lockedWrite a v := by
  simp only [State.writeWord, Nat.not_le.mpr ha, if_false, harm, hc, Bool.and_self, if_true]

/-- A write of CFG-class data shows in WLOCK and nowhere else. -/
theorem write_is_locked {a : Fin 2048} {v : Word} (hact : s.pw.phase = .active) (hstay : s.pw.leave = none) (harm : s.guardArmed = true)
    (hc : s.cfgClass a.val = true) (hn : a.val ≠ FAULT.ERRCTL.MINW.addr) : exec (.registerWrite a v) s = .next s.writeBegin.wlock := by
  have hw : s.writeBegin.writeWord a.val v = s.writeBegin.wlock :=
    (State.writeWord_locked (s := s.writeBegin) a.isLt harm hc).trans (if_neg hn)
  rw [exec_write_of_without (c := []) hact hstay a v (by rw [hw, State.wlock, State.evt_without]), hw]

/-- The data that R440 names are CFG-class data. -/
theorem State.cfgClass_of {a : Nat} (h : cfgMask a ≠ 0 ∨ a = linear 0x06 0x0D ∨ (a = linear 0x14 0x0C ∧ s.get IMPWIN.SEL.CLASS = 1) ∨
    (linear 0x11 0x09 ≤ a ∧ a ≤ linear 0x11 0x0C ∧ s.get { CALWIN.SEL with lo := 8, w := 4 } = 7 ∧ s.get { CALWIN.SEL with w := 6 } ≤ 37)) :
    s.cfgClass a = true := by
  rcases h with h | h | ⟨h, hsel⟩ | ⟨hlo, hhi, hset, hch⟩
  · rw [State.cfgClass, bne_iff_ne.mpr h]
    rfl
  · simp [State.cfgClass, h]
  · simp [State.cfgClass, h, hsel]
  · simp [State.cfgClass, hlo, hhi, hset, hch]

/-! ### ERRCTL: of its bits only SWLEVEL is outside the class (R310, R440) -/

/-- ERRCTL as a locked write leaves it. -/
theorem State.lockedErrctl_get (v : Word) {g : Fld} (hg : g.addr = FAULT.ERRCTL.MINW.addr) : (s.lockedWrite FAULT.ERRCTL.MINW.addr v).get g =
    fieldOf ((s.reg FAULT.ERRCTL.MINW.addr &&& ~~~0x100#16) ||| (v &&& 0x100#16)) g.lo g.w := by
  have hstatus (u : State) : u.errStatus.reg FAULT.ERRCTL.MINW.addr = u.reg FAULT.ERRCTL.MINW.addr := by
    simp (disch := decide) only [State.errStatus, State.setB, State.reg_set_ne]
  rw [State.lockedWrite, if_pos rfl, State.get, hg, hstatus, State.store, State.reg_setReg_self, State.wlock, State.evt,
    State.reg_set_ne _ _ _ _ (by decide)]

theorem fieldOf_bit (v : Word) (i : Nat) : fieldOf v i 1 = if v.getLsbD i then 1 else 0 := by
  rw [fieldOf, ← BitVec.testBit_toNat, Nat.testBit_eq_decide_div_mod_eq, Nat.pow_one]
  have h2 : v.toNat / 2 ^ i % 2 < 2 := Nat.mod_lt _ (by decide)
  by_cases h : v.toNat / 2 ^ i % 2 = 1
  · simp [h]
  · simp only [h, decide_false, Bool.false_eq_true, if_false]
    omega

theorem errctl_is_written {a : Fin 2048} {v : Word} (hact : s.pw.phase = .active) (hstay : s.pw.leave = none) (harm : s.guardArmed = true)
    (ha : a.val = FAULT.ERRCTL.MINW.addr) : ∃ t, exec (.registerWrite a v) s = .next t ∧ t.get FAULT.ERRCTL.MINW = s.get FAULT.ERRCTL.MINW ∧
    t.bit FAULT.ERRCTL.LATCH = s.bit FAULT.ERRCTL.LATCH ∧ t.bit FAULT.ERRCTL.SWLEVEL = v.getLsbD 8 ∧ t.bit CFGGUARD.EVT.WLOCK = true := by
  have hclass : s.writeBegin.cfgClass a.val = true := State.cfgClass_of (.inl (by rw [ha]; decide))
  have hw : s.writeBegin.writeWord a.val v = s.writeBegin.lockedWrite FAULT.ERRCTL.MINW.addr v := by
    rw [State.writeWord_locked (s := s.writeBegin) a.isLt harm hclass, ha]
  have hwithout : (s.writeBegin.lockedWrite FAULT.ERRCTL.MINW.addr v).without [] = s.writeBegin.without [] := by
    rw [State.lockedWrite, if_pos rfl, State.errStatus_without, State.store, State.setReg_without, State.wlock, State.evt_without]
  refine ⟨_, exec_write_of_without (c := []) hact hstay a v (by rw [hw, hwithout]), ?_⟩
  rw [hw]
  refine ⟨?_, ?_, ?_, ?_⟩
  · rw [State.lockedErrctl_get (g := FAULT.ERRCTL.MINW) v rfl, fieldOf_unmasked (by decide) (by decide)]
    rfl
  · rw [State.bit, State.lockedErrctl_get (g := FAULT.ERRCTL.LATCH) v rfl, fieldOf_unmasked (by decide) (by decide)]
    rfl
  · rw [State.bit, State.lockedErrctl_get (g := FAULT.ERRCTL.SWLEVEL) v rfl, fieldOf_masked (by decide), fieldOf_bit]
    cases v.getLsbD 8 <;> rfl
  · have hreg : (s.writeBegin.lockedWrite FAULT.ERRCTL.MINW.addr v).reg CFGGUARD.EVT.WLOCK.addr = s.writeBegin.wlock.reg CFGGUARD.EVT.WLOCK.addr := by
      rw [State.lockedWrite, if_pos rfl, State.store]
      simp (disch := decide) only [State.errStatus, State.setB, State.reg_set_ne, State.reg_setReg_ne]
    rw [State.bit, State.get, hreg]
    exact State.bit_evt s.writeBegin _ _ _ (by decide)

/-! ### OPEN and COUNT -/

/-- OPEN ends ARMED; what is locked stays locked. -/
theorem opens (hact : s.pw.phase = .active) : ∃ t, exec (.cfgOpen 0xA5) s = .next t ∧ t.get CFGGUARD.STATUS.STATE = 0 ∧
    t.guardArmed = false ∧ t.rwLocked = s.rwLocked := by
  have hstate : (s.set CFGGUARD.STATUS.STATE 0).get CFGGUARD.STATUS.STATE = 0 := State.get_set _ _ _ rfl
  refine ⟨s.set CFGGUARD.STATUS.STATE 0, (exec_cfgOpen_eq _ s).trans (whenActive_becomes hact (if_pos rfl) (State.set_without _ _ _ _)), hstate, ?_, State.bit_set_ne _ _ _ _ rfl rfl⟩
  rw [State.guardArmed, hstate]
  rfl

theorem count_stays {a : Fin 2048} {v : Word} (hact : s.pw.phase = .active) (hstay : s.pw.leave = none) (harm : s.guardArmed = false)
    (hrw : s.rwLocked = true) (ha : a.val = CELLCFG.COUNT.COUNT.addr) : exec (.registerWrite a v) s = .next s.writeBegin := by
  have hw : s.writeBegin.writeWord a.val v = s.writeBegin := by
    have hopen : s.writeBegin.guardArmed = false := harm
    have hbody : s.writeBegin.bodyWrite 0x07 0x08 v = s.writeBegin.countWrite v := rfl
    have hcount : s.writeBegin.countWrite v = s.writeBegin := if_pos hrw
    rw [ha]
    simp only [State.writeWord, hopen, Bool.false_and]
    exact hbody.trans hcount
  rw [exec_write_of_without (c := []) hact hstay a v (by rw [hw]), hw]

end

/-- Settles O11: a locked write is WLOCK (`write_is_locked`), but for the one word with bits outside the class (`errctl_is_written`). -/
theorem armedGuardRefuses : Obligations.ArmedGuardRefuses := by
  refine ⟨fun s a v hact hstay harm hc hn => ⟨_, write_is_locked hact hstay harm hc hn, fun _ => rfl, fun p hp => ?_⟩,
    fun s a h => State.cfgClass_of h, fun s a v hact hstay harm ha => errctl_is_written hact hstay harm ha, fun s w v hact harm => ?_,
    fun s v hact harm hsel => ?_, fun s v hact harm hset hch => ?_, fun s hact => opens hact,
    fun s a v hact hstay harm hrw ha => count_stays hact hstay harm hrw ha⟩
  · cases p
    case col => exact absurd rfl hp
    all_goals exact rfl
  · have hk : (if s.guardArmed then s.wlock else s.classStore w.val v) = s.evt CFGGUARD.EVT.WLOCK := if_pos harm
    exact (exec_classWrite_eq s w v).trans (whenActive_becomes hact hk (State.evt_without _ _ _))
  · have hclass : s.cfgClass (linear 0x14 0x0C) = true := State.cfgClass_of (.inr (.inr (.inl ⟨rfl, hsel⟩)))
    have hk : (if s.guardArmed && s.cfgClass (linear 0x14 0x0C) then s.wlock else s.tofsLoad v) = s.evt CFGGUARD.EVT.WLOCK :=
      if_pos (by rw [harm, hclass]; rfl)
    exact (exec_tofsWrite_eq v s).trans (whenActive_becomes hact hk (State.evt_without _ _ _))
  · have hclass : s.cfgClass (linear 0x11 0x0C) = true := State.cfgClass_of (.inr (.inr (.inr ⟨by decide, by decide, hset, hch⟩)))
    have hk : (if s.guardArmed && s.cfgClass (linear 0x11 0x0C) then s.wlock else s.trimWrite v) = s.evt CFGGUARD.EVT.WLOCK :=
      if_pos (by rw [harm, hclass]; rfl)
    exact (exec_userTrimWrite_eq v s).trans (whenActive_becomes hact hk (State.evt_without _ _ _))

end Sys2Proof.Machine
end
-- ==== Sys2Proof/Proofs/ConfigLoads.lean ====
section
/-! SUPPORT. What a loaded configuration changes beside the guard's own part (R63, R441, R443). -/
namespace Sys2Proof.Machine

/-- The parts that follow a change of CFG words. -/
def followParts : List Part := [.held, .cells, .curr, .cal, .bal, .xact, .aux, .imp, .safe, .ban, .col, .link, .gal, .tip]

section
variable (s : State)

theorem State.qFit_without {c : List Part} (h : Part.xact ∈ c) (q : Nat) : (s.qFit q).without c = s.without c := s.makeRoom_without h _ q 0

theorem State.laneOff_without {c : List Part} (hb : Part.bal ∈ c) (hi : Part.imp ∈ c) (k : Nat) : (s.laneOff k).without c = s.without c := by
  rw [State.laneOff, State.impStatus_without, State.excTrim_without _ hb, State.setLane_without _ hi]

theorem State.balOff_without (c : List Part) (n : Nat) : (s.balOff n).without c = s.without c := by
  rw [State.balOff, State.set_without, State.set_without]

theorem State.tempsNone_without {c : List Part} (h : Part.imp ∈ c) : s.tempsNone.without c = s.without c := by
  unfold State.tempsNone
  split
  · rfl
  · exact (State.impNewer_without _).trans (s.withImp_without h _)

theorem State.fault31_without {c : List Part} (h : Part.imp ∈ c) : s.fault31.without c = s.without c := by
  simp only [State.fault31, State.ite_without, State.tempsNone_without _ h, State.setB_without, State.cond_without, ite_self]

theorem State.fineStatus_without (c : List Part) : s.fineStatus.without c = s.without c := by
  simp only [State.fineStatus, State.set2_without, State.setB_without]

theorem State.galStatus_without (c : List Part) : s.galStatus.without c = s.without c := by
  simp only [State.galStatus, State.setB_without, State.set_without]

theorem State.classesDirect_without {c : List Part} (h : Part.col ∈ c) : s.classesDirect.without c = s.without c :=
  State.forEach_without c _ _ (fun _ _ u => u.withCol_without h _) s

theorem State.classGone_without {c : List Part} (h : Part.safe ∈ c) : s.classGone.without c = s.without c := by
  rw [State.classGone, State.ite_without, State.causes_without _ h, State.setB_without, State.withSafe_without _ h, ite_self]

theorem State.eyeEval_without (c : List Part) : s.eyeEval.without c = s.without c := by
  simp only [State.eyeEval, State.healthStatus, State.set_without, State.cond_without, State.ite_without, State.healthSet_without, ite_self]

theorem State.crcEval_without (c : List Part) : s.crcEval.without c = s.without c := by
  rw [State.crcEval, State.setB_without, State.cond_without]

theorem State.currWords_without (c : List Part) : s.currWords.without c = s.without c := by
  rw [State.currWords, State.set2_without, State.set2_without]

theorem State.subEnd_without (c : List Part) : s.subEnd.without c = s.without c := by
  rw [State.subEnd, State.ite_without, State.evt_without, State.cond_without, ite_self]

theorem State.currStatus_without (c : List Part) : s.currStatus.without c = s.without c := by
  simp only [State.currStatus, State.setB_without]

/-! ### What follows changed words -/

/-- Queues that are off discard, the others drop to fit. -/
def State.queuesFollow (s : State) : State :=
  forEach (List.range 64) (fun (q : Nat) (s : State) => if s.qEnabled q then s.qFit q else s.discardWaiting q)
    { s with held := s.heldOther, cells := { s.cells with finePend := none }, xact := { s.xact with depthUse := [] } }

/-- The fine chains and both current channels restart where their settings changed. -/
def State.chainsFollow (s old : State) : State :=
  let s := if s.reg CELLCFG.FINE.OSR.addr = old.useReg CELLCFG.FINE.OSR.addr ∧ s.count = old.count then s
    else (({ s with curr := { s.curr with own := [] } }).restartAll (s.absClk 0)).impAbort false
  let s := if s.get CURR.CSCFG.GAINA = old.used CURR.CSCFG.GAINA ∧ s.bit CURR.CTRL.CSAEN = old.usedB CURR.CTRL.CSAEN then s else s.restartChain 36 (s.absClk 0) false
  if s.get CURR.CSCFG.GAINB = old.used CURR.CSCFG.GAINB ∧ s.bit CURR.CTRL.CSBEN = old.usedB CURR.CTRL.CSBEN then s else s.restartChain 37 (s.absClk 0) false

/-- Lanes that are off end, and an auxiliary pass whose PERIOD changed counts anew. -/
def State.lanesFollow (s old : State) : State :=
  forEach [Conv.a, Conv.b] (fun (c : Conv) (s : State) =>
    if s.get (c.fld AUXA.PERIOD) = old.get (c.fld AUXA.PERIOD) then s else s.setConv c { s.conv c with regrid := true })
    (forEach (List.range 8) (fun (k : Nat) (s : State) => if s.laneEn k then s else s.laneOff k) s)

/-- The epoch, the modes of the switches and the impedance offsets follow. -/
def State.modesFollow (s old : State) : State :=
  let s := if s.get GAL.EPOCH = old.get GAL.EPOCH ∨ s.tm.tread = 0 then s else s.setGal { s.gal with epochUse := some old.epochMin }
  let s := if s.extFet = old.extFet then s else forEach ((List.range 36).map (· + 1)) (fun (n : Nat) (s : State) => s.balOff n) { s with bal := { s.bal with pend := [] } }
  let s := if s.imp.tofs = old.imp.tofs then s else s.impNewer
  if s.get { IMP.TCFG.TLANE with w := 8 } = old.get { IMP.TCFG.TLANE with w := 8 } then s else s.tempsNone

/-- Every status word follows. -/
def State.statusFollow (s : State) : State :=
  ((((((((((s.classesDirect.classGone.fineStatus).portsAdopt.linkStatus.eyeEval.crcEval).planEval).errStatus).galStatus).fault28).fault31).excTrim s.newestClk).impStatus).currWords).subEnd.currStatus

theorem State.cfgApplied_eq (old : State) : s.cfgApplied old =
    ((((s.queuesFollow).chainsFollow old).lanesFollow old).modesFollow old).statusFollow := (rfl)

theorem State.queuesFollow_without : s.queuesFollow.without followParts = s.without followParts := by
  refine (State.forEach_without _ _ _ (fun q _ u => ?_) _).trans ?_
  · rw [State.ite_without, State.qFit_without _ (by decide), State.discardWaiting_without _ (by decide), ite_self]
  · exact (State.withXact_without _ (by decide) _).trans ((State.withCells_without _ (by decide) _).trans (State.withHeld_without s (by decide) _))

theorem State.chainsFollow_without (old : State) : (s.chainsFollow old).without followParts = s.without followParts := by
  simp (disch := decide) only [State.chainsFollow, State.ite_without, State.restartChain_without, State.impAbort_without,
    State.restartAll_without, State.withCurr_without, ite_self]

theorem State.lanesFollow_without (old : State) : (s.lanesFollow old).without followParts = s.without followParts := by
  refine (State.forEach_without _ _ _ (fun c _ u => ?_) _).trans (State.forEach_without _ _ _ (fun k _ u => ?_) _)
  · rw [State.ite_without, State.setConv_without _ (by decide), ite_self]
  · rw [State.ite_without, State.laneOff_without _ (by decide) (by decide), ite_self]

theorem State.modesFollow_without (old : State) : (s.modesFollow old).without followParts = s.without followParts := by
  have hoff (u : State) : (forEach ((List.range 36).map (· + 1)) (fun (n : Nat) (s : State) => s.balOff n) u).without followParts =
      u.without followParts := State.forEach_without _ _ _ (fun n _ v => v.balOff_without _ n) u
  simp (disch := decide) only [State.modesFollow, State.ite_without, State.tempsNone_without, State.impNewer_without, hoff,
    State.withBal_without, State.setGal_without, ite_self]

theorem State.statusFollow_without : s.statusFollow.without followParts = s.without followParts := by
  simp (disch := decide) only [State.statusFollow, State.currStatus_without, State.subEnd_without, State.currWords_without,
    State.impStatus_without, State.excTrim_without, State.fault31_without, State.fault28_without, State.galStatus_without,
    State.errStatus_without, State.planEval_without, State.crcEval_without, State.eyeEval_without, State.linkStatus_without,
    State.portsAdopt_without, State.fineStatus_without, State.classGone_without, State.classesDirect_without]

/-- Changed words have no effect on the guard's part, nor on what is neither a measurement nor a command in progress. -/
theorem State.cfgApplied_without (old : State) : (s.cfgApplied old).without followParts = s.without followParts := by
  rw [State.cfgApplied_eq, State.statusFollow_without, State.modesFollow_without, State.lanesFollow_without, State.chainsFollow_without,
    State.queuesFollow_without]

end

end Sys2Proof.Machine
end
-- ==== Sys2Proof/Proofs/ConfigGuard.lean ====
section
/-! SUPPORT. The commands of the configuration guard, its check and the load of a persisted image (R439 to R443). -/
namespace Sys2Proof.Machine

section
variable (s : State)

/-! ### The check value (R438) -/

/-- The guard's own page is not part of the stream. -/
theorem cfgAddrs_page {a : Nat} (h : a ∈ cfgAddrs) : a / 64 ≠ 2 := fun hp => by
  have hmask : cfgMask a = 0 := by rw [cfgMask, hp]; rfl
  simp [cfgAddrs, hmask] at h

theorem State.cfgCheck_of {s t : State} (hw : t.cfgWords = s.cfgWords) (hx : t.xact = s.xact) (hc : t.cal = s.cal) (hi : t.imp = s.imp) :
    t.cfgCheck = s.cfgCheck := by
  have hdepth : t.qDepth = s.qDepth := funext fun q => by rw [State.qDepth, State.qDepth, hx]
  rw [State.cfgCheck, State.cfgCheck, State.cfgStream, State.cfgStream, hw, hdepth, hc, hi]

theorem State.cfgCheck_occur (i : Nat) : (s.occur i).cfgCheck = s.cfgCheck :=
  State.cfgCheck_of (List.map_inj_left.mpr fun _ _ => rfl) (State.occur_xact _ _) (State.occur_cal _ _) (State.occur_imp _ _)

theorem State.cfgCheck_withCfg (x : Cfg) : ({ s with cfg := x } : State).cfgCheck = s.cfgCheck :=
  State.cfgCheck_of (List.map_inj_left.mpr fun _ _ => rfl) rfl rfl rfl

theorem State.cfgCheck_set {f : Fld} (hf : f.addr / 64 = 2) (v : Nat) : (s.set f v).cfgCheck = s.cfgCheck :=
  State.cfgCheck_of (List.map_inj_left.mpr fun a ha => by rw [State.reg_set_ne s f v a fun e => cfgAddrs_page ha (by rw [e, hf])])
    (State.set_xact _ _ _) (State.set_cal _ _ _) (State.set_imp _ _ _)

/-! ### Arming and defaulting (R439, R441) -/

/-- What a defaulting that begins shows. -/
theorem State.cfgDefault_shows : s.cfgDefault.get CFGGUARD.STATUS.STATE = 2 ∧ s.cfgDefault.rwLocked = true ∧ s.cfgDefault.cfg.defPend = true ∧
    s.cfgDefault.bit CFGGUARD.EVT.DEFAULT = true ∧ s.cfgDefault.get CFGGUARD.DEFCNT = min (s.get CFGGUARD.DEFCNT + 1) 65535 ∧
    s.cfgDefault.occurred.getLsbD 56 = true ∧ s.cfgDefault.cfgCheck = s.cfgCheck := by
  have hoccur (u : State) (g : Fld) : (u.occur 56).get g = u.get g := rfl
  have hpend (g : Fld) : ({ s with cfg := { s.cfg with defPend := true } } : State).get g = s.get g := rfl
  refine ⟨?_, ?_, rfl, ?_, ?_, ?_, ?_⟩
  · rw [State.cfgDefault, hoccur, State.evt, State.get_set_ne _ _ _ _ rfl rfl, State.inc, State.get_set_ne _ _ _ _ rfl rfl, State.setB,
      State.get_set_ne _ _ _ _ rfl rfl, State.set_getAll _ _ _ rfl (by decide)]
  · rw [State.rwLocked, State.bit, State.cfgDefault, hoccur, State.evt, State.get_set_ne _ _ _ _ rfl rfl, State.inc,
      State.get_set_ne _ _ _ _ rfl rfl]
    exact State.bit_setB _ _ _ _ _ (by decide)
  · rw [State.bit, State.cfgDefault, hoccur]
    exact State.bit_evt _ _ _ _ (by decide)
  · rw [State.cfgDefault, hoccur, State.evt, State.get_set_ne _ _ _ _ rfl rfl, State.inc, State.set_getAll _ _ _ rfl
      (show min _ 65535 < 65536 by omega), State.setB, State.get_set_ne _ _ _ _ rfl rfl, State.get_set_ne _ _ _ _ rfl rfl, hpend]
    rfl
  · rw [State.cfgDefault, State.occur]
    simp
  · rw [State.cfgDefault, State.cfgCheck_occur, State.evt, State.cfgCheck_set _ rfl, State.inc, State.cfgCheck_set _ rfl, State.setB,
      State.cfgCheck_set _ rfl, State.cfgCheck_set _ rfl, State.cfgCheck_withCfg]

theorem State.cfgArm_eq : s.cfgArm = if s.get2 CFGGUARD.CRC0 = s.cfgCheck
    then ((s.setB CFGGUARD.STATUS.RWLOCK true).set CFGGUARD.STATUS.STATE 1).evt CFGGUARD.EVT.ARMED
    else (s.setB CFGGUARD.STATUS.RWLOCK true).cfgDefault := by
  have hcrc : (s.setB CFGGUARD.STATUS.RWLOCK true).get2 CFGGUARD.CRC0 = s.get2 CFGGUARD.CRC0 := State.get2_set_ne _ _ rfl rfl rfl
  have hcheck : (s.setB CFGGUARD.STATUS.RWLOCK true).cfgCheck = s.cfgCheck := s.cfgCheck_set rfl _
  rw [State.cfgArm, hcrc, hcheck]

theorem State.cfgKeyed_right (k : State → State) : s.cfgKeyed 0xA5 k = k s := if_pos rfl
theorem State.cfgKeyed_wrong {key : Byte} (h : key ≠ 0xA5) (k : State → State) : s.cfgKeyed key k = s.evt CFGGUARD.EVT.KEYREJ := if_neg h

theorem State.only_cfg (t : State) {c : List Part} (hc : Part.cfg ∈ c) : (s.only t c).cfg = t.cfg := by simp [State.only, hc]
theorem State.cfg_of_without {t : State} {c : List Part} (hc : Part.cfg ∉ c) (h : t.without c = s.without c) : t.cfg = s.cfg := by
  rw [← State.only_of_without h]
  simp [State.only, hc]

theorem exec_cfgArm_eq (key : Byte) : exec (.cfgArm key) s = whenActive [.cfg] s fun s => s.cfgKeyed key State.cfgArm := (rfl)
theorem exec_persist_eq (key : Byte) : exec (.persist key) s = whenActive [.cal, .safe, .cfg] s fun s => s.cfgKeyed key State.persist := (rfl)
theorem exec_unpersist_eq (key : Byte) : exec (.unpersist key) s =
    whenActive [.cal, .safe, .cfg] s fun s => s.cfgKeyed key State.unpersist := (rfl)
theorem exec_cfgGuardCheck_eq : exec .cfgGuardCheck s = whenActive [.cfg] s fun s => s.cfgRecheck := (rfl)

variable {s}

theorem wrong_key {key : Byte} (hact : s.pw.phase = .active) (h : key ≠ 0xA5) : exec (.cfgArm key) s = .next (s.evt CFGGUARD.EVT.KEYREJ) ∧
    exec (.cfgOpen key) s = .next (s.evt CFGGUARD.EVT.KEYREJ) ∧ exec (.persist key) s = .next (s.evt CFGGUARD.EVT.KEYREJ) ∧
    exec (.unpersist key) s = .next (s.evt CFGGUARD.EVT.KEYREJ) := by
  have hrej {c : List Part} (k : State → State) : whenActive c s (fun s => s.cfgKeyed key k) = .next (s.evt CFGGUARD.EVT.KEYREJ) :=
    whenActive_becomes hact (s.cfgKeyed_wrong h k) (State.evt_without _ _ _)
  exact ⟨hrej _, hrej _, hrej _, hrej _⟩

theorem arm_defaults (hact : s.pw.phase = .active) (h : s.get2 CFGGUARD.CRC0 ≠ s.cfgCheck) : ∃ t, exec (.cfgArm 0xA5) s = .next t ∧
    t.get CFGGUARD.STATUS.STATE = 2 ∧ t.rwLocked = true ∧ t.cfg.defPend = true ∧ t.bit CFGGUARD.EVT.DEFAULT = true ∧
    t.get CFGGUARD.DEFCNT = min (s.get CFGGUARD.DEFCNT + 1) 65535 ∧ t.occurred.getLsbD 56 = true ∧ t.cfgCheck = s.cfgCheck := by
  obtain ⟨hstate, hlock, hpend, hevt, hcnt, hocc, hcheck⟩ := (s.setB CFGGUARD.STATUS.RWLOCK true).cfgDefault_shows
  have harm : s.cfgKeyed 0xA5 State.cfgArm = (s.setB CFGGUARD.STATUS.RWLOCK true).cfgDefault := by
    rw [s.cfgKeyed_right, s.cfgArm_eq, if_neg h]
  have hwithout : (s.cfgKeyed 0xA5 State.cfgArm).without [.cfg] = s.without [.cfg] := s.cfgKeyed_right _ ▸ s.cfgArm_without (by decide)
  refine ⟨_, (exec_cfgArm_eq s _).trans (whenActive_becomes hact harm (harm ▸ hwithout)), hstate, hlock, hpend, hevt, ?_, hocc, ?_⟩
  · rw [hcnt, State.setB, State.get_set_ne _ _ _ _ rfl rfl]
  · rw [hcheck, State.setB, State.cfgCheck_set _ rfl]

theorem recheck_defaults (hact : s.pw.phase = .active) (harm : s.guardArmed = true) (htread : s.tm.ltc % 16 = 0)
    (h : s.get2 CFGGUARD.CRC0 ≠ s.cfgCheck) : ∃ t, exec .cfgGuardCheck s = .next t ∧ t.get CFGGUARD.STATUS.STATE = 2 ∧
    t.cfg.defPend = true ∧ t.occurred.getLsbD 56 = true := by
  obtain ⟨hstate, -, hpend, -, -, hocc, -⟩ := s.cfgDefault_shows
  refine ⟨_, (exec_cfgGuardCheck_eq s).trans (whenActive_active _ s _ hact), ?_⟩
  rw [State.cfgRecheck, harm, decide_eq_true htread, decide_eq_true h, Bool.and_self, Bool.and_self, if_pos rfl, State.only_get,
    State.only_cfg _ _ (by decide), State.only_occurred]
  exact ⟨hstate, hpend, hocc⟩

theorem State.cfgRecheck_idle (h : s.guardArmed = false ∨ s.tm.ltc % 16 ≠ 0 ∨ s.get2 CFGGUARD.CRC0 = s.cfgCheck) : s.cfgRecheck = s := by
  rcases h with h | h | h <;> simp [State.cfgRecheck, h]

/-! ### The load of an image (R63, R443) -/

variable (s)

/-- The integrations of the cells that follow balancing are marked. -/
def State.dutyMarks (s : State) : State :=
  if s.excRuns then forEach s.excCells (fun (c : Nat) (s : State) =>
    let s := if s.followsBal (c + 1) then s.markInteg c false else s
    if s.excOff then s.markInteg c true else s) s else s

theorem State.dutyLimit_eq : ∃ (x : Bal) (f : State → Nat → Bool), s.dutyLimit = if s.bal.riser ≠ 0 then s else
    ((forEach ((List.range 36).map (· + 1)) (fun (n : Nat) (u : State) => u.setB (dutyFld n 12 1) (f u n)) { s with bal := x }).dutyMarks).impStatus :=
  ⟨_, _, rfl⟩

theorem State.dutyMarks_without {c : List Part} (h : Part.imp ∈ c) : s.dutyMarks.without c = s.without c := by
  have hmarks (u : State) : (forEach s.excCells (fun (c : Nat) (s : State) =>
      let s := if s.followsBal (c + 1) then s.markInteg c false else s
      if s.excOff then s.markInteg c true else s) u).without c = u.without c :=
    State.forEach_without c _ _ (fun n _ v => by simp only [State.ite_without, State.markInteg_without _ h, ite_self]) u
  rw [State.dutyMarks, State.ite_without, hmarks, ite_self]

theorem State.dutyLimit_without {c : List Part} (hb : Part.bal ∈ c) (hi : Part.imp ∈ c) : s.dutyLimit.without c = s.without c := by
  obtain ⟨x, f, hx⟩ := s.dutyLimit_eq
  rw [hx]
  split
  · rfl
  · rw [State.impStatus_without, State.dutyMarks_without _ hi]
    exact (State.forEach_without c _ _ (fun n _ u => u.setB_without _ _ _) _).trans (s.withBal_without hb _)

theorem State.tblLimit_without {c : List Part} (hb : Part.bal ∈ c) (hi : Part.imp ∈ c) (l : List Nat) :
    (s.tblLimit l).without c = s.without c := by
  rw [State.tblLimit, State.ite_without, State.dutyLimit_without _ hb hi, State.derate, State.derateJudge_without, State.setB_without,
    State.set_without, ite_self]

theorem State.edgeChange_without {c : List Part} (h : Part.gal ∈ c) (t : Nat) : (s.edgeChange t).without c = s.without c := by
  simp only [State.edgeChange, State.ite_without, State.galStatus_without, State.setGal_without _ h, ite_self]

theorem State.tblFollow_without {c : List Part} (hg : Part.gal ∈ c) (hi : Part.imp ∈ c) (t : Nat) : (s.tblFollow t).without c = s.without c := by
  rw [State.tblFollow, State.fault31_without _ hi, State.fineStatus_without, State.edgeChange_without _ hg, State.cond_without]

theorem State.tblNew_without {c : List Part} (hg : Part.gal ∈ c) (hi : Part.imp ∈ c) (t : Nat) : (s.tblNew t).without c = s.without c := by
  rw [State.tblNew, State.ite_without, State.tempsNone_without _ hi, State.tblFollow_without _ hg hi, ite_self]

theorem State.setLimits_without {c : List Part} (h : Part.safe ∈ c) (l : List Word) : (s.setLimits l).without c = s.without c := by
  refine (State.copyCands_without _).trans ((State.withSafe_without _ h _).trans ((State.setB_without _ _ _ _).trans ?_))
  exact State.forEach_without c _ _ (fun p _ u => u.setReg_without _ _ _) s

theorem State.safeLoad_without {c : List Part} (h : Part.safe ∈ c) (l : List Word) : (s.safeLoad l).without c = s.without c := by
  have hwords (u : State) : (forEach (l.take 10).zipIdx (fun (p : Word × Nat) (s : State) => s.setReg (SAFE.NEWOVLIM.plus p.2).addr p.1) u).without c =
      u.without c := State.forEach_without c _ _ (fun p _ v => v.setReg_without _ _ _) u
  simp only [State.safeLoad, State.ite_without, State.withSafe_without _ h, State.evt_without, State.setLimits_without _ h,
    State.copyCands_without, State.set_without, hwords, ite_self]

theorem State.tipAuto_without {c : List Part} (h : Part.tip ∈ c) (was : Bool) : (s.tipAuto was).without c = s.without c := by
  simp only [State.tipAuto, State.ite_without, State.tipNext_without _ h, State.tipOp_without _ h, State.setTip_without _ h, ite_self]

/-- The CFG words of an image. -/
def State.imageWords (s : State) (i : CfgImage) : State :=
  forEach cfgAddrs (fun (a : Nat) (s : State) => s.setReg a ((s.reg a &&& ~~~cfgMask a) ||| (look i.words a &&& cfgMask a))) s

/-- The user trims of an image. -/
def State.imageTrims (s : State) (i : CfgImage) : State :=
  forEach (List.range 38) (fun (ch : Nat) (s : State) => s.trimTo ch (look i.trims ch).1 (look i.trims ch).2) s

/-- The queue depths and impedance offsets of an image. -/
def State.imageDepths (s : State) (i : CfgImage) : State :=
  { s with xact := { s.xact with depth := (List.range 64).foldl (fun (m : SMap (Option Nat)) q => put m q (some (look i.depths q))) [] },
           imp := { s.imp with tofs := i.tofs } }

/-- The first tread of the ramps of all trims. -/
def State.rampsBegun (s : State) : State :=
  { s with cal := { s.cal with trims := (List.range 38).foldl (fun (m : SMap Ramp) ch => adj m ch Ramp.step) s.cal.trims } }

/-- The valid tables of an image in their slots. -/
def State.tablesPut (s : State) (i : CfgImage) : State :=
  forEach i.tables (fun (e : Nat × List Word) (s : State) => if tblValid e.1 e.2 then s.tblPut e.1 e.2 else s) s

/-- What follows the tables of an image; an invalid one is fault 57's event. -/
def State.tablesFollow (s : State) (i : CfgImage) : State :=
  forEach i.tables (fun (e : Nat × List Word) (s : State) => if tblValid e.1 e.2 then s.tblNew e.1 else s.occur 57) s

/-- All of an image but its check word. -/
def State.imageUsed (s : State) (i : CfgImage) : State :=
  (((((((s.imageWords i).imageDepths i).imageTrims i).rampsBegun.tablesPut i).cfgApplied s).cfgTread.tablesFollow i).tblLimit
    (i.tables.map (·.1))).safeLoad i.safe

/-- The guard's state after a load: the image's, or a defaulting. -/
def State.imageJudged (s : State) (i : CfgImage) : State :=
  if s.cfgCheck ≠ i.check then s.cfgDefault
  else if i.arm then ((((s.set CFGGUARD.STATUS.STATE 1).setB CFGGUARD.STATUS.RWLOCK true).set2 CFGGUARD.CRC0 i.check).evt CFGGUARD.EVT.ARMED)
  else s

theorem State.cfgLoad_eq (i : CfgImage) : s.cfgLoad i =
    (((s.imageUsed i).setB SYS.STATUS.CFGLOAD true).setB CFGGUARD.STATUS.PLOADED true).imageJudged i := by
  unfold State.imageJudged State.imageUsed State.tablesFollow State.tablesPut State.rampsBegun State.imageTrims State.imageDepths
    State.imageWords State.cfgLoad
  rfl

theorem State.imageWords_cfg (i : CfgImage) : (s.imageWords i).cfg = s.cfg := by
  rw [State.imageWords]
  exact forEach_keeps State.cfg _ _ (fun _ _ _ => State.setReg_cfg _ _ _) s

theorem State.imageTrims_cfg (i : CfgImage) : (s.imageTrims i).cfg = s.cfg :=
  forEach_keeps State.cfg _ _ (fun _ _ u => State.cfg_of_without u (c := [.cal]) (by decide) (u.trimTo_without (by decide) _ _ _)) s

theorem State.imageDepths_cfg (i : CfgImage) : (s.imageDepths i).cfg = s.cfg := by
  have hkeep (x : Xact) (y : Imp) : ({ s with xact := x, imp := y } : State).cfg = s.cfg := rfl
  exact hkeep _ _

theorem State.rampsBegun_cfg : s.rampsBegun.cfg = s.cfg := by
  have hkeep (x : Cal) : ({ s with cal := x } : State).cfg = s.cfg := rfl
  exact hkeep _

theorem State.cfgTread_image : s.cfgTread.cfg.image = s.cfg.image := by
  have hkeep (n : Nat) : ({ s with cfg := { s.cfg with calcNow := n } } : State).cfg.image = s.cfg.image := rfl
  exact hkeep _

theorem State.tablesPut_image (i : CfgImage) : (s.tablesPut i).cfg.image = s.cfg.image :=
  forEach_keeps (fun v : State => v.cfg.image) _ _ (fun e _ v => by split <;> rfl) s

theorem State.tablesFollow_cfg (i : CfgImage) : (s.tablesFollow i).cfg = s.cfg :=
  State.cfg_of_without s (c := [.gal, .imp]) (by decide) (State.forEach_without _ _ _ (fun e _ v => by
    rw [State.ite_without, State.tblNew_without _ (by decide) (by decide), State.occur_without, ite_self]) s)

theorem State.cfgApplied_cfg (old : State) : (s.cfgApplied old).cfg = s.cfg :=
  State.cfg_of_without s (by decide) (s.cfgApplied_without old)

theorem State.safeLoad_cfg (l : List Word) : (s.safeLoad l).cfg = s.cfg :=
  State.cfg_of_without s (c := [.safe]) (by decide) (s.safeLoad_without (by decide) l)

theorem State.tblLimit_cfg (l : List Nat) : (s.tblLimit l).cfg = s.cfg :=
  State.cfg_of_without s (c := [.bal, .imp]) (by decide) (s.tblLimit_without (by decide) (by decide) l)

/-- A load leaves alone what tells whether an image waits. -/
theorem State.imageUsed_image (i : CfgImage) : (s.imageUsed i).cfg.image = s.cfg.image := by
  rw [State.imageUsed, State.safeLoad_cfg, State.tblLimit_cfg, State.tablesFollow_cfg, State.cfgTread_image, State.cfgApplied_cfg,
    State.tablesPut_image, State.rampsBegun_cfg, State.imageTrims_cfg, State.imageDepths_cfg, State.imageWords_cfg]

/-- The judgement of a loaded image leaves its marks. -/
theorem State.imageJudged_marks (i : CfgImage) : (s.imageJudged i).cfg.image = s.cfg.image ∧
    (s.imageJudged i).bit SYS.STATUS.CFGLOAD = s.bit SYS.STATUS.CFGLOAD ∧
    (s.imageJudged i).bit CFGGUARD.STATUS.PLOADED = s.bit CFGGUARD.STATUS.PLOADED := by
  have hoccur (u : State) (g : Fld) : (u.occur 56).bit g = u.bit g := rfl
  have hpend (g : Fld) : ({ s with cfg := { s.cfg with defPend := true } } : State).bit g = s.bit g := rfl
  have hdefault (g : Fld) (h1 : CFGGUARD.EVT.DEFAULT.apart g = true) (h2 : CFGGUARD.DEFCNT.apart g = true)
      (h3 : CFGGUARD.STATUS.RWLOCK.apart g = true) (h4 : CFGGUARD.STATUS.STATE.apart g = true) : s.cfgDefault.bit g = s.bit g := by
    rw [State.cfgDefault, hoccur, State.evt, State.bit_set_ne _ _ _ _ rfl h1, State.inc, State.bit_set_ne _ _ _ _ rfl h2, State.setB,
      State.bit_set_ne _ _ _ _ rfl h3, State.bit_set_ne _ _ _ _ rfl h4, hpend]
  have harm (g : Fld) (h1 : CFGGUARD.EVT.ARMED.apart g = true) (h2 : CFGGUARD.CRC0.apart g = true) (h2' : (CFGGUARD.CRC0.plus 1).apart g = true)
      (h3 : CFGGUARD.STATUS.RWLOCK.apart g = true) (h4 : CFGGUARD.STATUS.STATE.apart g = true) :
      ((((s.set CFGGUARD.STATUS.STATE 1).setB CFGGUARD.STATUS.RWLOCK true).set2 CFGGUARD.CRC0 i.check).evt CFGGUARD.EVT.ARMED).bit g = s.bit g := by
    rw [State.evt, State.bit_set_ne _ _ _ _ rfl h1, State.bit, State.get_set2_ne _ _ rfl h2 h2', ← State.bit, State.setB,
      State.bit_set_ne _ _ _ _ rfl h3, State.bit_set_ne _ _ _ _ rfl h4]
  rw [State.imageJudged]
  split
  · exact ⟨rfl, hdefault _ rfl rfl rfl rfl, hdefault _ rfl rfl rfl rfl⟩
  · split
    · exact ⟨rfl, harm _ rfl rfl rfl rfl rfl, harm _ rfl rfl rfl rfl rfl⟩
    · exact ⟨rfl, rfl, rfl⟩

theorem State.cfgLoad_marks (i : CfgImage) : (s.cfgLoad i).cfg.image = s.cfg.image ∧ (s.cfgLoad i).bit SYS.STATUS.CFGLOAD = true ∧
    (s.cfgLoad i).bit CFGGUARD.STATUS.PLOADED = true := by
  obtain ⟨himage, hload, hloaded⟩ := (((s.imageUsed i).setB SYS.STATUS.CFGLOAD true).setB CFGGUARD.STATUS.PLOADED true).imageJudged_marks i
  rw [State.cfgLoad_eq, himage, hload, hloaded, State.setB_cfg, State.setB_cfg, State.imageUsed_image]
  refine ⟨rfl, ?_, State.bit_setB _ _ _ _ _ (by decide)⟩
  rw [State.setB, State.bit_set_ne _ _ _ _ rfl rfl]
  exact State.bit_setB _ _ _ _ _ (by decide)

/-! ### The command CONFIG_LOAD -/

theorem State.tipNext_pageWords {p : Nat} (h : 0x1A ≠ p) : s.tipNext.pageWords p = s.pageWords p := by
  simp only [State.tipNext, State.tipSearch, State.tipPoll, State.ite_pageWords, State.tipOp_pageWords _ h, State.setTip_pageWords, ite_self]

theorem State.tipAuto_pageWords {p : Nat} (h : 0x1A ≠ p) (was : Bool) : (s.tipAuto was).pageWords p = s.pageWords p := by
  simp only [State.tipAuto, State.ite_pageWords, State.tipNext_pageWords _ h, State.tipOp_pageWords _ h, State.setTip_pageWords, ite_self]

/-- The parts a load acts on. -/
def loadParts : List Part := [.held, .cells, .curr, .cal, .bal, .xact, .aux, .imp, .safe, .col, .link, .gal, .cfg, .tip]

/-- An image is taken up once. -/
def State.imageTaken (s : State) : State := { s with cfg := { s.cfg with image := none } }

theorem exec_configLoad_eq (ok : Bool) : exec (.configLoad ok) s = whenActive loadParts s fun s => match s.cfg.image with
    | some i => if s.cfg.imageDone && decide (1 ≤ s.tm.tread) then
        if ok then (s.imageTaken.cfgLoad i).tipAuto (s.imageTaken.usedB TIPOL.CFG.AUTOSEARCH) else s.imageTaken
      else s
    | none => s := (rfl)

theorem exec_configLoad_due {i : CfgImage} (hact : s.pw.phase = .active) (hi : s.cfg.image = some i) (hdone : s.cfg.imageDone = true)
    (ht : 1 ≤ s.tm.tread) (ok : Bool) : exec (.configLoad ok) s =
    .next (s.only (if ok then (s.imageTaken.cfgLoad i).tipAuto (s.imageTaken.usedB TIPOL.CFG.AUTOSEARCH) else s.imageTaken) loadParts) := by
  simp only [exec_configLoad_eq, whenActive_active _ s _ hact, hi, hdone, ht, decide_true, Bool.and_self, if_true]

theorem load_takes {i : CfgImage} (hact : s.pw.phase = .active) (hi : s.cfg.image = some i) (hdone : s.cfg.imageDone = true)
    (ht : 1 ≤ s.tm.tread) : exec (.configLoad false) s = .next { s with cfg := { s.cfg with image := none } } ∧
    ∃ t, exec (.configLoad true) s = .next t ∧ t.cfg.image = none ∧ t.bit SYS.STATUS.CFGLOAD = true ∧
      t.bit CFGGUARD.STATUS.PLOADED = true := by
  obtain ⟨himage, hload, hloaded⟩ := s.imageTaken.cfgLoad_marks i
  constructor
  · rw [exec_configLoad_due s hact hi hdone ht, if_neg Bool.false_ne_true]
    exact congrArg Host.Outcome.next (State.only_of_without (s.withCfg_without (by decide) _))
  · refine ⟨_, exec_configLoad_due s hact hi hdone ht true, ?_⟩
    have hcfg (u : State) (b : Bool) : (u.tipAuto b).cfg = u.cfg :=
      State.cfg_of_without u (c := [.tip]) (by decide) (u.tipAuto_without (by decide) b)
    rw [if_pos rfl, State.only_cfg _ _ (by decide), hcfg, himage, State.only_bit, State.only_bit,
      State.bit_of_pageWords (State.tipAuto_pageWords _ (by decide) _) (f := SYS.STATUS.CFGLOAD) rfl, hload,
      State.bit_of_pageWords (State.tipAuto_pageWords _ (by decide) _) (f := CFGGUARD.STATUS.PLOADED) rfl, hloaded]
    exact ⟨rfl, rfl, rfl⟩

end

/-- Settles O59: the keyed commands answer with their meaning (`State.cfgArm_eq`), and a load leaves its marks whatever its image holds
(`State.cfgLoad_marks`). -/
theorem configGuard : Obligations.ConfigGuard := by
  refine ⟨fun s key hact h => wrong_key hact h, fun s hact h => ?_, fun s hact h => arm_defaults hact h, fun s hact => ?_,
    fun s hact harm htread h => recheck_defaults hact harm htread h, fun s hact h => ?_, fun s hact => ?_, fun s hact => ?_,
    fun s i hact hi hdone ht => load_takes s hact hi hdone ht⟩
  · have harm : s.cfgKeyed 0xA5 State.cfgArm = ((s.setB CFGGUARD.STATUS.RWLOCK true).set CFGGUARD.STATUS.STATE 1).evt CFGGUARD.EVT.ARMED := by
      rw [s.cfgKeyed_right, s.cfgArm_eq, if_pos h]
    exact (exec_cfgArm_eq s _).trans (whenActive_becomes hact harm (by rw [State.evt_without, State.set_without, State.setB_without]))
  · exact (exec_cfgOpen_eq _ s).trans (whenActive_becomes hact (s.cfgKeyed_right _) (State.set_without _ _ _ _))
  · exact (exec_cfgGuardCheck_eq s).trans (whenActive_same hact (State.cfgRecheck_idle h))
  · exact (exec_persist_eq s _).trans (whenActive_becomes hact (s.cfgKeyed_right _) (s.persist_without (by decide) (by decide)))
  · exact (exec_unpersist_eq s _).trans (whenActive_becomes hact (s.cfgKeyed_right _) (s.unpersist_without (by decide) (by decide)))

end Sys2Proof.Machine
end
-- ==== Sys2Proof/Proofs/LifeView.lean ====
section
/-! SUPPORT. What the work of the flash leaves of the life cycle in the vault (R416, R418, R451 to R453). -/
namespace Sys2Proof.Machine

/-- The life cycle as a commit reads it, and the mark of a pending wipe. -/
def State.lifeView (s : State) : (Nat × Nat × Nat × Nat × Option Nat × Nat) × Bool :=
  ((s.vault.life, s.vault.segment, s.vault.segLtc, s.vault.guard, s.cfg.target, s.tm.ltc), s.vault.wipe)

section
variable (s : State)

theorem State.lifeView_of_without {t : State} (h : t.without [.fl] = s.without [.fl]) : t.lifeView = s.lifeView := by
  rw [State.lifeView, State.lifeView, State.vault_of_without (by decide) h, State.cfg_of_without s (by decide) h,
    ← State.only_of_without h]
  rfl

theorem State.ite_lifeView (p : Prop) [Decidable p] (t : State) : (if p then s else t).lifeView = if p then s.lifeView else t.lifeView :=
  apply_ite State.lifeView p s t
theorem State.setFl_lifeView (f : Flash) : (s.setFl f).lifeView = s.lifeView := (rfl)
theorem State.set_lifeView (f : Fld) (v : Nat) : (s.set f v).lifeView = s.lifeView := (rfl)
theorem State.inc_lifeView (f : Fld) : (s.inc f).lifeView = s.lifeView := (rfl)
theorem State.evt_lifeView (f : Fld) : (s.evt f).lifeView = s.lifeView := (rfl)
theorem State.occur_lifeView (i : Nat) : (s.occur i).lifeView = s.lifeView := (rfl)
theorem State.tick_lifeView : s.tick.lifeView = s.lifeView := (rfl)
theorem State.uncarry_lifeView : s.uncarry.lifeView = s.lifeView := (rfl)
theorem State.recBegin_lifeView (d : Draft) : (s.recBegin d).lifeView = s.lifeView := (rfl)
theorem State.copyBegin_lifeView (k : Nat) (fix : Bool) : (s.copyBegin k fix).lifeView = s.lifeView := (rfl)
theorem State.placeAt_lifeView (r : Record) : (s.placeAt r).lifeView = s.lifeView := (rfl)
theorem State.flStatus_lifeView : s.flStatus.lifeView = s.lifeView := s.lifeView_of_without s.flStatus_without
theorem State.fault44_lifeView : s.fault44.lifeView = s.lifeView := s.lifeView_of_without s.fault44_without
theorem State.tombWrite_lifeView : s.tombWrite.lifeView = s.lifeView := by rw [State.tombWrite, State.flStatus_lifeView]; rfl

theorem State.progNext_lifeView : s.progNext.lifeView = s.lifeView := by
  simp only [State.progNext, State.ite_lifeView, State.setFl_lifeView, ite_self]

theorem State.draftNext_lifeView (d : Draft) (l : List Draft) : (s.draftNext d l).lifeView = s.lifeView := by
  simp only [State.draftNext, State.ite_lifeView, State.occur_lifeView, State.progNext_lifeView, State.recBegin_lifeView,
    State.tick_lifeView, State.setFl_lifeView, ite_self]

/-! ### Failure -/

theorem State.flAbort_lifeView : s.flAbort.lifeView = s.lifeView := by
  unfold State.flAbort
  rw [State.setFl_lifeView]
  split <;> exact s.uncarry_lifeView

theorem State.flFail_lifeView : s.flFail.lifeView = s.lifeView := by
  simp only [State.flFail, State.ite_lifeView, State.flStatus_lifeView, State.fault44_lifeView, State.tombWrite_lifeView,
    State.set_lifeView, State.setFl_lifeView, State.flAbort_lifeView, State.evt_lifeView, ite_self]

theorem State.failCheck_lifeView : s.failCheck.lifeView = s.lifeView := by
  simp only [State.failCheck, State.ite_lifeView, State.flFail_lifeView, ite_self]

theorem State.retireNow_lifeView (q : Nat) : (s.retireNow q).lifeView = s.lifeView := by
  rw [State.retireNow, State.failCheck_lifeView, State.occur_lifeView, State.evt_lifeView, State.inc_lifeView, State.setFl_lifeView]

theorem State.retire_lifeView (q : Nat) : (s.retire q).lifeView = s.lifeView := by
  simp only [State.retire, State.ite_lifeView, State.setFl_lifeView, ite_self]

theorem State.tidyNext_lifeView : s.tidyNext.lifeView = s.lifeView := by
  unfold State.tidyNext
  split
  · split <;> simp only [State.progNext_lifeView, State.copyBegin_lifeView, State.retireNow_lifeView]
  · dsimp only
    split
    · split <;> simp only [State.ite_lifeView, State.progNext_lifeView, State.copyBegin_lifeView, State.retireNow_lifeView,
        State.setFl_lifeView, ite_self]
    · split <;> simp only [State.progNext_lifeView, State.copyBegin_lifeView, State.setFl_lifeView]

/-- Whatever the flash does next, the life cycle stands. -/
theorem State.opNext_lifeView : s.opNext.lifeView = s.lifeView := by
  cases hw : s.fl.wait <;> simp only [State.opNext, hw, State.ite_lifeView, State.flStatus_lifeView, State.progNext_lifeView,
    State.setFl_lifeView, State.draftNext_lifeView, State.tidyNext_lifeView, ite_self]

/-! ### The end of an operation -/

theorem State.keepLists_lifeView (d : Draft) (r : Record) : (s.keepLists d r).lifeView = s.lifeView := by
  have hbegun (u : State) : (u.setBegun d r).lifeView = u.lifeView := by unfold State.setBegun; split <;> rfl
  have hdone (u : State) : (u.setDone d r).lifeView = u.lifeView := by
    unfold State.setDone
    split
    · simp only [State.ite_lifeView, State.setFl_lifeView, ite_self]
    · rfl
  have hend (u : State) : (if d.setLen ≠ 39 then u else if d.setIdx = 0 then u.setBegun d r else
      if d.setIdx = 38 then u.setDone d r else u).lifeView = u.lifeView := by
    simp only [State.ite_lifeView, hbegun, hdone, ite_self]
  unfold State.keepLists
  refine (hend _).trans ?_
  split <;> simp only [State.ite_lifeView, State.setFl_lifeView, ite_self]

theorem State.recordDone_lifeView (r : Record) (d : Draft) (errs : Nat) : (s.recordDone r d errs).lifeView = s.lifeView := by
  simp only [State.recordDone, State.ite_lifeView, State.retire_lifeView, State.evt_lifeView, State.inc_lifeView,
    State.keepLists_lifeView, State.setFl_lifeView, State.placeAt_lifeView, State.set_lifeView, ite_self]

theorem State.copyDone_lifeView (r : Record) (k : Nat) (fix : Bool) (errs : Nat) : (s.copyDone r k fix errs).lifeView = s.lifeView := by
  simp only [State.copyDone, State.ite_lifeView, State.retire_lifeView, State.occur_lifeView, State.evt_lifeView, State.inc_lifeView,
    State.setFl_lifeView, State.placeAt_lifeView, ite_self]

theorem State.pageDone_lifeView (n : Nat) (e : OpEnd) : (s.pageDone n e).lifeView = s.lifeView := by
  cases e with
  | ok c =>
    have hweak : (if 3 ≤ c then s.setFl { s.fl with weak := true } else s).lifeView = s.lifeView := by
      simp only [State.ite_lifeView, State.setFl_lifeView, ite_self]
    simp only [State.pageDone]
    split
    · rw [State.setFl_lifeView, hweak]
    · split
      · rw [State.recordDone_lifeView, hweak]
      · rw [State.copyDone_lifeView, hweak]
      · exact hweak
  | failed =>
    simp only [State.pageDone]
    split
    · rw [State.recBegin_lifeView, State.uncarry_lifeView, State.retire_lifeView]
    · rw [State.setFl_lifeView, State.retire_lifeView]

theorem State.anchorDone_lifeView (ok : Bool) : (s.anchorDone ok).lifeView = s.lifeView := by
  rw [State.anchorDone, State.failCheck_lifeView, State.setFl_lifeView]

theorem State.eraseDone_lifeView : s.eraseDone.lifeView = s.lifeView := by
  have hwear (u : State) : u.flWear.lifeView = u.lifeView := u.lifeView_of_without (u.healthSet_without _ _ _ _)
  have hset2 (u : State) (f : Fld) (v : Nat) : (u.set2 f v).lifeView = u.lifeView := rfl
  simp only [State.eraseDone, hwear, State.ite_lifeView, hset2, State.setFl_lifeView, ite_self]

theorem State.persistDone_lifeView (toVault ok : Bool) : (s.persistDone toVault ok).lifeView = s.lifeView := by
  unfold State.persistDone
  split
  · rfl
  · simp only [State.ite_lifeView, State.evt_lifeView, ite_self]
    rfl

theorem State.slotWritten_lifeView (sl : CalSlot) (ok : Bool) : (s.slotWritten sl false ok).lifeView = s.lifeView := by
  cases ok
  · rw [State.slotWritten_failed, State.persistDone_lifeView, State.evt_lifeView]
  · rw [State.slotWritten_ok, State.persistDone_lifeView]
    rfl

/-- The end of a slot commit takes the mark of a pending wipe back where it succeeds (R454), and leaves the rest of the life cycle. -/
theorem State.slotDone_lifeView {sl : CalSlot} {p : Option (Option CfgImage)} (hnew : s.fl.slotNew = some (sl, p)) (ok : Bool) :
    (s.slotDone ok).lifeView = (s.lifeView.1, s.vault.wipe && !ok) := by
  have hslot : ((s.slotClosing p).writeSlot sl false ok).lifeView = s.lifeView := by
    rcases (s.slotClosing p).writeSlot_flash sl ok with h | h <;> rw [h] <;> rfl
  have hwritten := (State.slotWritten_lifeView _ sl ok).trans hslot
  have hwipe (u : State) (q : Option (Option CfgImage)) (b : Bool) :
      ({ u with cfg := { u.cfg with persist := q }, vault := { u.vault with wipe := b } } : State).lifeView = (u.lifeView.1, b) := rfl
  rw [State.slotDone_eq hnew]
  dsimp only
  have hw : (((s.slotClosing p).writeSlot sl false ok).slotWritten sl false ok).vault.wipe = s.vault.wipe := congrArg Prod.snd hwritten
  rw [hwipe, hwritten, hw]

theorem State.slotDone_life (ok : Bool) : (s.slotDone ok).lifeView.1 = s.lifeView.1 := by
  cases hn : s.fl.slotNew with
  | none => simp only [State.slotDone, hn]
  | some x => rw [s.slotDone_lifeView hn]

/-- The end of an operation leaves the life cycle. -/
theorem State.opDone_life (e : OpEnd) : (s.opDone e).lifeView.1 = s.lifeView.1 := by
  unfold State.opDone
  dsimp only
  split
  · rw [State.flStatus_lifeView, State.setFl_lifeView]
  · rw [State.opNext_lifeView]
    split
    · rfl
    · rw [State.pageDone_lifeView]; rfl
  · split
    · rw [State.flStatus_lifeView, State.setFl_lifeView]
    · rw [State.opNext_lifeView]
      split
      · rw [State.anchorDone_lifeView]; rfl
      · simp only [State.ite_lifeView, State.eraseDone_lifeView, State.retire_lifeView, State.setFl_lifeView, ite_self]
      · rw [State.slotDone_life]; rfl
      · rfl

end

end Sys2Proof.Machine
end
-- ==== Sys2Proof/Proofs/LifeCycle.lean ====
section
/-! SUPPORT. The commit of the life cycle: its refusals, its flush and its end (R451 to R453). -/
namespace Sys2Proof.Machine

/-! ### The end of a commit -/

/-- The transition stands in the vault, with the wipe still to come (R453). -/
def State.lifeStored (s : State) (g : Nat) (v : Vault) : State :=
  { s with vault := { s.vault with
      life := g, segment := if v.life = 3 then v.segment + 1 else v.segment, wipe := true, lifeLtc := s.tm.ltc,
      segLtc := if g = 1 then s.tm.ltc else v.segLtc, guard := if g = 1 then 0 else v.guard, lifeDone := true } }

/-- The slot commit without an image, which ends the wipe (R453, R454). -/
def State.wipeBegun (s : State) : State :=
  let s := s.flAbort.slotBegin true
  ({ s with pw := { s.pw with closing := some .wipe } }).flStatus

section
variable {s u : State} {g : Nat}

theorem State.lifeFinish_eq (h : u.cfg.target = some g) : u.lifeFinish =
    if u.flState = 1 then (u.vaultClose.lifeStored g u.vault).wipeBegun else (u.vaultClose.lifeStored g u.vault).leave (.reset 8) := by
  have hfl : (u.vaultClose.lifeStored g u.vault).flState = u.flState :=
    State.get_of_pageWords (u.vaultClose_pageWords (p := 0x19) (by decide)) (f := FLASH.STATUS.STATE) rfl
  rw [State.lifeFinish, h, ← hfl]
  rfl

theorem State.closingEnd_life (h : u.pw.closing = some .life) : u.closingEnd = u.lifeFinish := by
  simp only [State.closingEnd, h]

theorem State.settle_reset_vault (hl : u.pw.leave = none) (c : Nat) : (s.settle (u.leave (.reset c))).vault = (s.keep u).vault := by
  have hvault : (u.leave (.reset c)).vault = u.vault := State.leave_vault _ _
  rw [State.settle_leave s _ (.reset c) (by rw [State.leave_pw hl]), State.left_reset]
  generalize u.leave (.reset c) = v at hvault
  rw [State.keep, State.keep, ← hvault]
  rfl

/-- What a reset at the end of a commit leaves (R453). -/
def State.CommitEnds (t : State) (life segment segLtc guard : Nat) (was : Vault) (causes : Nat) : Prop :=
  t.vault.life = life ∧ t.vault.segment = segment ∧ t.vault.segLtc = segLtc ∧ t.vault.guard = guard ∧ t.vault.lifeDone = true ∧ t.Cleared ∧
    t.vault.factory = was.factory ∧ t.pw.phase = .off ∧ t.pw.causes = causes ∧ t.vault.wipe = true

/-- Without a READY flash the reset comes at once. -/
theorem life_resets (s : State) (hl : u.pw.leave = none) (ht : u.cfg.target = some g) (hf : u.flState ≠ 1) :
    (s.settle u.lifeFinish).CommitEnds g (if u.vault.life = 3 then u.vault.segment + 1 else u.vault.segment)
      (if g = 1 then u.tm.ltc else u.vault.segLtc) (if g = 1 then 0 else u.vault.guard) s.vault (u.pw.causes ||| 8) := by
  have hpw : (u.vaultClose.lifeStored g u.vault).pw = u.pw := u.vaultClose_pw
  have hltc : u.vaultClose.tm.ltc = u.tm.ltc := by
    simp only [State.vaultClose, State.vaultRing, State.ringWrite, apply_ite State.tm, apply_ite Time.ltc]
    simp [State.ringRetire]
  obtain ⟨hcl, hph, hcauses, -⟩ := State.settle_reset (s := s) (u := u.vaultClose.lifeStored g u.vault) (by rw [hpw, hl]) 8
  have hvault := State.settle_reset_vault (s := s) (u := u.vaultClose.lifeStored g u.vault) (by rw [hpw, hl]) 8
  rw [State.lifeFinish_eq ht, if_neg hf]
  rw [hpw] at hcauses
  refine ⟨?_, ?_, ?_, ?_, ?_, hcl, ?_, hph, hcauses, ?_⟩ <;> rw [hvault]
  · rfl
  · rfl
  · rw [← hltc]
    rfl
  · rfl
  · rfl
  · rfl
  · rfl

end

/-! ### The slot commit that ends a wipe -/

theorem State.flStatus_flState (s : State) : s.flStatus.flState = s.flState := by
  simp only [State.flStatus, State.flState, State.setB, State.get_set2_ne _ _ (show FLASH.HEADSEQ0.ok = true from rfl)
    (show FLASH.HEADSEQ0.apart FLASH.STATUS.STATE = true from rfl) (show (FLASH.HEADSEQ0.plus 1).apart FLASH.STATUS.STATE = true from rfl)]
  rw [State.get_set_ne _ _ _ _ rfl rfl, State.get_set2_ne _ _ rfl rfl rfl, State.get_set_ne _ _ _ _ rfl rfl, State.get_set_ne _ _ _ _ rfl rfl,
    State.get_set_ne _ _ _ _ rfl rfl, State.get_set_ne _ _ _ _ rfl rfl, State.get_set_ne _ _ _ _ rfl rfl]

theorem State.flAbort_kept (s : State) : s.flAbort.vault = s.vault ∧ s.flAbort.pw = s.pw ∧ s.flAbort.regs = s.regs := by
  unfold State.flAbort
  dsimp only
  split <;> exact ⟨rfl, rfl, rfl⟩

theorem State.slotBegin_kept (s : State) (ok : Bool) : (s.slotBegin ok).pw = s.pw ∧ (s.slotBegin ok).regs = s.regs := by
  rw [State.slotBegin, ← State.flashContent]
  rcases s.writeSlot_flash s.flashContent false with h | h <;> rw [h] <;> exact ⟨rfl, rfl⟩

theorem State.wipeBegun_begins (s : State) : s.wipeBegun.vault = s.vault ∧ s.wipeBegun.pw = { s.pw with closing := some .wipe } ∧
    s.wipeBegun.fl.op = some (.slot true) ∧ s.wipeBegun.fl.slotNew.isSome = true ∧ s.wipeBegun.cal.commitDue = false ∧
    s.wipeBegun.flState = s.flState := by
  obtain ⟨hvault, hpw, hregs⟩ := s.flAbort_kept
  obtain ⟨hpw', hregs'⟩ := s.flAbort.slotBegin_kept true
  obtain ⟨hcal, hop, hnew, -, hvault'⟩ := s.flAbort.slotBegin_begins true
  have hstatus (x : State) : x.flStatus.vault = x.vault ∧ x.flStatus.pw = x.pw ∧ x.flStatus.fl = x.fl ∧ x.flStatus.cal = x.cal :=
    ⟨State.vault_of_without (c := []) (by decide) x.flStatus_without, State.pw_of_without (State.flStatus_without (c := []) x),
      State.fl_of_without (c := []) (by decide) x.flStatus_without, State.cal_of_without (c := []) (by decide) x.flStatus_without⟩
  have hclose (x : State) (p : Power) : ({ x with pw := p } : State).vault = x.vault ∧ ({ x with pw := p } : State).fl = x.fl ∧
      ({ x with pw := p } : State).cal = x.cal ∧ ({ x with pw := p } : State).flState = x.flState := ⟨rfl, rfl, rfl, rfl⟩
  have hstate : (s.flAbort.slotBegin true).flState = s.flState := by
    rw [State.flState, State.flState, State.get, State.get, State.reg, State.reg, hregs', hregs]
  rw [State.wipeBegun, State.flStatus_flState]
  obtain ⟨h1, h2, h3, h4⟩ := hstatus { s.flAbort.slotBegin true with pw := { (s.flAbort.slotBegin true).pw with closing := some .wipe } }
  obtain ⟨g1, g2, g3, g4⟩ := hclose (s.flAbort.slotBegin true) { (s.flAbort.slotBegin true).pw with closing := some .wipe }
  rw [h1, h2, h3, h4, g1, g2, g3, g4, hvault', hvault, hop, hnew, hcal, hstate, hpw', hpw]
  exact ⟨rfl, rfl, rfl, rfl, rfl, rfl⟩

section
variable {s u : State} {g : Nat}

/-- With a READY flash the slot commit without an image begins. -/
theorem life_wipes (s : State) (hl : u.pw.leave = none) (hph : u.pw.phase = s.pw.phase) (ht : u.cfg.target = some g) (hf : u.flState = 1) :
    (s.settle u.lifeFinish).vault.life = g ∧ (s.settle u.lifeFinish).vault.wipe = true ∧ (s.settle u.lifeFinish).vault.lifeDone = true ∧
    (s.settle u.lifeFinish).pw = { u.pw with closing := some .wipe } ∧ (s.settle u.lifeFinish).fl.op = some (.slot true) ∧
    (s.settle u.lifeFinish).fl.slotNew.isSome = true ∧ (s.settle u.lifeFinish).cal.commitDue = false ∧ (s.settle u.lifeFinish).flState = 1 := by
  obtain ⟨hvault, hpw, hop, hnew, hdue, hstate⟩ := (u.vaultClose.lifeStored g u.vault).wipeBegun_begins
  have hstored : (u.vaultClose.lifeStored g u.vault).pw = u.pw := u.vaultClose_pw
  have hfl : (u.vaultClose.lifeStored g u.vault).flState = u.flState :=
    State.get_of_pageWords (u.vaultClose_pageWords (p := 0x19) (by decide)) (f := FLASH.STATUS.STATE) rfl
  have hkeep (x : State) : (s.keep x).vault.life = x.vault.life ∧ (s.keep x).vault.wipe = x.vault.wipe ∧
      (s.keep x).vault.lifeDone = x.vault.lifeDone ∧ (s.keep x).pw = x.pw ∧ (s.keep x).fl = x.fl ∧ (s.keep x).cal = x.cal ∧
      (s.keep x).flState = x.flState := ⟨rfl, rfl, rfl, rfl, rfl, rfl, rfl⟩
  rw [hstored] at hpw
  rw [State.lifeFinish_eq ht, if_pos hf, State.settle_keep (by rw [hpw, hl]) (by rw [hpw, hph])]
  obtain ⟨h1, h2, h3, h4, h5, h6, h7⟩ := hkeep (u.vaultClose.lifeStored g u.vault).wipeBegun
  rw [h1, h2, h3, h4, h5, h6, h7, hvault, hpw, hop, hnew, hdue, hstate, hfl, hf]
  exact ⟨rfl, rfl, rfl, rfl, rfl, rfl, rfl, rfl⟩

/-! ### Refusals and acceptance (R452) -/

/-- Why a commit is refused, in the order of R452. -/
theorem State.lifeRefusal_eq (v : Word) : s.lifeRefusal v =
    if lifeOk s.life (s.get { LIFE.TARGET with w := 2 }) s.vault.segment = false then some 3
    else if s.get { LIFE.TARGET with w := 2 } = 3 ∧ (s.bit BAN.STATUS.HSCMD = true ∨ s.bit BAN.STATUS.LSCMD = true) then some 4
    else if (match s.cfg.armAt with | some a => decide (s.tm.tread < a + 10) | none => false) = false then some 5
    else if v ≠ 0x5AC3#16 then some 6 else none := (rfl)

/-- The output is open where the commit asks for it. -/
theorem open_for_retired (h : g = 3 → s.bit BAN.STATUS.HSCMD = false ∧ s.bit BAN.STATUS.LSCMD = false) :
    ¬ (g = 3 ∧ (s.bit BAN.STATUS.HSCMD = true ∨ s.bit BAN.STATUS.LSCMD = true)) := by
  rintro ⟨hg, ho⟩
  obtain ⟨hhs, hls⟩ := h hg
  simp [hhs, hls] at ho

section
variable (hg : g = s.get { LIFE.TARGET with w := 2 }) (hok : lifeOk s.life g s.vault.segment = true)
  (hopen : g = 3 → s.bit BAN.STATUS.HSCMD = false ∧ s.bit BAN.STATUS.LSCMD = false)
include hg hok hopen

theorem State.lifeRefusal_unarmed (v : Word) (harm : ∀ a, s.cfg.armAt = some a → a + 10 ≤ s.tm.tread) : s.lifeRefusal v = some 5 := by
  have hno : (match s.cfg.armAt with | some a => decide (s.tm.tread < a + 10) | none => false) = false := by
    cases h : s.cfg.armAt with
    | none => rfl
    | some a => exact decide_eq_false (by have := harm a h; omega)
  rw [State.lifeRefusal_eq, ← hg, if_neg (by simp [hok]), if_neg (open_for_retired hopen), if_pos hno]

variable {a : Nat} (harm : s.cfg.armAt = some a) (ht : s.tm.tread < a + 10)
include harm ht

theorem State.lifeRefusal_armed (v : Word) : s.lifeRefusal v = if v ≠ 0x5AC3#16 then some 6 else none := by
  have hyes : (match s.cfg.armAt with | some a => decide (s.tm.tread < a + 10) | none => false) = true := by
    rw [harm]
    exact decide_eq_true ht
  rw [State.lifeRefusal_eq, ← hg, if_neg (by simp [hok]), if_neg (open_for_retired hopen), if_neg (by simp [hyes])]

end

/-- A refused commit ends the arm and shows why. -/
theorem commit_refused {v : Word} {k : Nat} (hact : s.pw.phase = .active) (hl : s.pw.leave = none) (hb : s.bit LIFE.STATUS.BUSY = false)
    (hk : s.lifeRefusal v = some k) (hk8 : k < 8) : ∃ t, exec (.lifeCommit v) s = .next t ∧ t.get LIFE.RESULT = k ∧ t.bit LIFE.EVT.REJ = true ∧
    t.cfg.armAt = none ∧ t.vault = s.vault ∧ t.pw = s.pw := by
  have hcommit : s.lifeCommit v = (s.lifeDisarm.set LIFE.RESULT k).evt LIFE.EVT.REJ := by
    simp only [State.lifeCommit, hb, hk, Bool.false_eq_true, if_false]
  have hwithout : ((s.lifeDisarm.set LIFE.RESULT k).evt LIFE.EVT.REJ).without [.cfg] = s.without [.cfg] := by
    rw [State.evt_without, State.set_without, State.lifeDisarm, State.setB_without]
    exact s.withCfg_without (by decide) _
  refine ⟨_, (whenActing_active s (fun s => s.lifeCommit v) hact).trans (congrArg Host.Outcome.next
    ((congrArg s.settle hcommit).trans (State.settle_of_without hl hwithout))), ?_, State.bit_evt _ _ _ _ (by decide), rfl, rfl, rfl⟩
  rw [State.evt, State.get_set_ne _ _ _ _ rfl rfl, State.set_getAll _ _ _ rfl (lt_of_lt_of_le hk8 (by decide))]

/-! ### Acceptance -/

/-- An accepted commit: no arm any more, its target, BUSY. -/
def State.commitNoted (s : State) (g : Nat) : State :=
  ({ s.lifeDisarm with cfg := { s.lifeDisarm.cfg with target := some g } }).setB LIFE.STATUS.BUSY true

theorem State.lifeCommit_accepted {v : Word} (hb : s.bit LIFE.STATUS.BUSY = false) (hk : s.lifeRefusal v = none) :
    s.lifeCommit v = if s.pw.closing.isSome then s else (s.commitNoted (s.get { LIFE.TARGET with w := 2 })).closeBegin .life
      (s.get { LIFE.TARGET with w := 2 } == 3) := by
  simp only [State.lifeCommit, hb, hk, Bool.false_eq_true, if_false]
  rfl

theorem State.commitNoted_flState (g : Nat) : (s.commitNoted g).flState = s.flState :=
  (State.get_set_ne _ LIFE.STATUS.BUSY _ _ rfl rfl).trans (State.get_set_ne _ LIFE.STATUS.ARMED _ _ rfl rfl)

/-- A draft of a flush comes before every other. -/
theorem insDraft_closing {d : Draft} (hd : d.closing = true) (l : List Draft) : ∃ e k, insDraft d l = e :: k ∧ e.closing = true := by
  cases l with
  | nil => exact ⟨d, [], rfl, hd⟩
  | cons e l =>
    rw [insDraft]
    split
    · exact ⟨d, e :: l, rfl, hd⟩
    · next h =>
      refine ⟨e, insDraft d l, rfl, ?_⟩
      by_contra he
      exact h (by simp [hd, he])

theorem foldl_insDraft_closing {ds : List Draft} (hds : ∀ d ∈ ds, d.closing = true) (hne : ds ≠ []) (l : List Draft) :
    ∃ e k, ds.foldl (fun l d => insDraft d l) l = e :: k ∧ e.closing = true := by
  induction ds generalizing l with
  | nil => exact absurd rfl hne
  | cons d ds ih =>
    by_cases h : ds = []
    · subst h
      exact insDraft_closing (hds d (by simp)) l
    · exact ih (fun e he => hds e (by simp [he])) h (insDraft d l)

/-- The first draft that waits is one of a flush. -/
def State.FlushFirst (s : State) : Prop := ∃ d l, s.fl.wait = d :: l ∧ d.closing = true

theorem State.handOne_flushFirst (s : State) (h : s.FlushFirst) {d : Draft} (hd : d.closing = true) : (s.handOne d).FlushFirst := by
  unfold State.handOne
  split
  · exact h
  · rw [hd, Bool.true_or, if_pos rfl]
    exact insDraft_closing hd s.fl.wait

theorem State.handSeal_flushFirst (s : State) (h : s.FlushFirst) (cls flags rank : Nat) : (s.handSeal cls flags rank true).FlushFirst := by
  unfold State.handSeal
  split
  · exact h
  · exact s.handOne_flushFirst h rfl

/-- The drafts of a totals set (R408). -/
def State.setDrafts (s : State) (flags cls rank : Nat) (closing : Bool) (id : Nat) : List Draft :=
  (List.range 39).map fun i => { type := if i = 0 then 1 else if i ≤ 36 then 2 else if i = 37 then 3 else 4, flags := flags, setIdx := i, setLen := 39, cls := cls, epochNo := s.gal.img.epochNo, payload := s.setPayload i, isSeal := false, closing := closing, setId := id, tread := s.tm.tread, rank := rank }

theorem State.setDrafts_closing (flags cls rank id : Nat) : ∀ d ∈ s.setDrafts flags cls rank true id, d.closing = true := by
  intro d hd
  obtain ⟨i, -, rfl⟩ := List.mem_map.1 hd
  rfl

theorem State.setDrafts_ne (flags cls rank id : Nat) (b : Bool) : s.setDrafts flags cls rank b id ≠ [] := by
  rw [State.setDrafts, Ne, List.map_eq_nil_iff, List.range_eq_nil]
  decide

theorem State.handSet_closing (h : s.flState = 1) (flags cls rank : Nat) (segend : Bool) :
    s.handSet flags cls rank true segend = s.setFl { s.fl with
      setNo := s.fl.setNo + 1, headNext := false, openSets := put s.fl.openSets (s.fl.setNo + 1) (some (s.setContent cls segend)),
      wait := (s.setDrafts flags cls rank true (s.fl.setNo + 1)).foldl (fun l d => insDraft d l) s.fl.wait, flush := s.fl.flush + 39 } := by
  rw [State.handSet, if_neg (by simp [h]), if_neg (by simp), State.setDrafts]
  rfl

theorem State.handSet_flushFirst (s : State) (h : s.flState = 1) (flags cls rank : Nat) (segend : Bool) :
    (s.handSet flags cls rank true segend).FlushFirst := by
  have hwait (a : Nat) (b : Bool) (o : SMap (Option GalSet)) (w : List Draft) (n : Nat) :
      (s.setFl { s.fl with setNo := a, headNext := b, openSets := o, wait := w, flush := n }).fl.wait = w := rfl
  rw [State.handSet_closing h, State.FlushFirst, hwait]
  exact foldl_insDraft_closing (s.setDrafts_closing flags cls rank _) (s.setDrafts_ne flags cls rank _ true) _

/-- A gallery flush puts its drafts first (R390, R412). -/
theorem State.galFlush_flushFirst (s : State) (h : s.flState = 1) (segend : Bool) : (s.galFlush segend).FlushFirst := by
  have hof {x y : State} (he : y.fl.wait = x.fl.wait) (hx : x.FlushFirst) : y.FlushFirst := by
    rw [State.FlushFirst, he]
    exact hx
  have hfl {x y : State} (he : y.fl = x.fl) (hx : x.FlushFirst) : y.FlushFirst := hof (congrArg Flash.wait he) hx
  have hite {p : Prop} [Decidable p] {x y : State} (he : y.fl.wait = x.fl.wait) (hx : x.FlushFirst) : (if p then y else x).FlushFirst := by
    split
    · exact hof he hx
    · exact hx
  have hite' {p : Prop} [Decidable p] {x y : State} (he : y.fl.wait = x.fl.wait) (hx : x.FlushFirst) : (if p then x else y).FlushFirst := by
    split
    · exact hx
    · exact hof he hx
  have hhanded (x : State) (hx : x.flState = 1) : (if segend then (x.handSet 9 2 1 true true).handSeal 2 9 2 true
      else (x.handSet 1 0 1 true false).handSeal 0 1 2 true).FlushFirst := by
    split
    · exact State.handSeal_flushFirst _ (x.handSet_flushFirst hx _ _ _ _) _ _ _
    · exact State.handSeal_flushFirst _ (x.handSet_flushFirst hx _ _ _ _) _ _ _
  have hgal (x : State) (g : Gal) : (x.setGal g).fl = x.fl := rfl
  have hpend (x : State) : (x.setFl { x.fl with anchDue := true }).fl.wait = x.fl.wait := rfl
  have hstate (x : State) (g : Gal) (f : Flash) : ((x.setGal g).setFl f).flState = x.flState ∧ (x.setFl f).flState = x.flState := ⟨rfl, rfl⟩
  unfold State.galFlush
  refine hfl (State.fl_of_without (c := []) (by decide) (State.flStatus_without _)) ?_
  refine hfl (State.fl_of_without (c := []) (by decide) (State.galNewer_without _)) ?_
  refine hite' (congrArg Flash.wait (hgal _ _)) (hite (congrArg Flash.wait (State.fl_of_without (c := [.gal]) (by decide) (State.xfer_without _ (by decide))))
    (hite (hpend _) (hhanded _ ?_)))
  split
  · exact ((hstate s s.gal _).2).trans h
  · exact ((hstate s _ _).1).trans h

theorem State.opNext_closing (h : s.FlushFirst) : s.opNext.without [.tm, .fl] = s.without [.tm, .fl] := by
  obtain ⟨d, l, hw, hd⟩ := h
  simp only [State.opNext, hw, hd, true_or, if_true, State.ite_without, State.flStatus_without,
    State.progNext_without (c := [.tm, .fl]) _ (by decide), State.setFl_without (c := [.tm, .fl]) _ (by decide),
    State.draftNext_without (c := [.tm, .fl]) _ (by decide) (by decide), ite_self]

/-- With a READY flash an accepted commit only begins its flush (R453). -/
theorem commit_flushes (h : u.flState = 1) (segend : Bool) :
    (u.closeBegin .life segend).pw = { u.pw with closing := some .life } ∧ (u.closeBegin .life segend).cfg = u.cfg ∧
    (u.closeBegin .life segend).vault = u.vault ∧ (u.closeBegin .life segend).bit LIFE.STATUS.BUSY = u.bit LIFE.STATUS.BUSY := by
  have hnoted : (u.closeNoted .life).flState = 1 := h
  have hn : (((u.closeNoted .life).galFlush segend).opNext).without [.tm, .fl, .gal] = (u.closeNoted .life).without [.tm, .fl, .gal] :=
    (State.without_mono (c := [.tm, .fl]) (by decide) (State.opNext_closing (State.galFlush_flushFirst _ hnoted segend))).trans
      (State.galFlush_without _ (by decide) (by decide) segend)
  have hkeep (x : State) (p : Power) : ({ x with pw := p } : State).cfg = x.cfg ∧ ({ x with pw := p } : State).vault = x.vault ∧
      ({ x with pw := p } : State).bit LIFE.STATUS.BUSY = x.bit LIFE.STATUS.BUSY ∧ ({ x with pw := p } : State).pw = p := ⟨rfl, rfl, rfl, rfl⟩
  rw [State.closeBegin_ready h]
  obtain ⟨h1, h2, h3, h4⟩ := hkeep ((u.closeNoted .life).galFlush segend).opNext (u.closeNoted .life).pw
  rw [h1, h2, h3, h4]
  refine ⟨rfl, ?_, ?_, ?_⟩
  · exact State.cfg_of_without (s := u.closeNoted .life) (c := [.tm, .fl, .gal]) (by decide) hn
  · exact State.vault_of_without (s := u.closeNoted .life) (c := [.tm, .fl, .gal]) (by decide) hn
  · exact State.bit_of_pageWords ((State.opNext_pageWords _ (by decide)).trans (State.galFlush_pageWords _ (by decide) (by decide) segend)) rfl


end

end Sys2Proof.Machine
end
-- ==== Sys2Proof/Proofs/LifeCommits.lean ====
section
/-! SUPPORT. The commands that begin, end and refuse a life-cycle commit (R451 to R453). -/
namespace Sys2Proof.Machine

/-- The vault that a commit's transition leaves, and the reset that follows it. -/
def State.CommitFrom (t s : State) (g : Nat) : Prop :=
  t.CommitEnds g (if s.vault.life = 3 then s.vault.segment + 1 else s.vault.segment) (if g = 1 then s.tm.ltc else s.vault.segLtc)
    (if g = 1 then 0 else s.vault.guard) s.vault (s.pw.causes ||| 8)

section
variable {s u : State} {g : Nat} (hact : s.pw.phase = .active) (hl : s.pw.leave = none)
include hl

/-- A state that differs from `s` in nothing a commit reads. -/
theorem life_resets_from (hview : u.lifeView.1 = s.lifeView.1) (hpw : u.pw = { s.pw with closing := some .life })
    (ht : s.cfg.target = some g) (hf : u.flState ≠ 1) : (s.settle u.closingEnd).CommitFrom s g := by
  simp only [State.lifeView, Prod.mk.injEq] at hview
  obtain ⟨hlife, hseg, hltc, hguard, htarget, htime⟩ := hview
  have hends := life_resets (s := s) (u := u) (g := g) (by rw [hpw, hl]) (by rw [htarget, ht]) hf
  rw [State.closingEnd_life (by rw [hpw])]
  rw [hlife, hseg, hltc, hguard, htime, hpw] at hends
  exact hends

theorem life_wipes_from (htarget : u.cfg.target = some g) (hpw : u.pw = { s.pw with closing := some .life })
    (hf : u.flState = 1) :
    (s.settle u.closingEnd).vault.life = g ∧ (s.settle u.closingEnd).vault.wipe = true ∧ (s.settle u.closingEnd).vault.lifeDone = true ∧
    (s.settle u.closingEnd).pw = { s.pw with closing := some .wipe } ∧ (s.settle u.closingEnd).fl.op = some (.slot true) ∧
    (s.settle u.closingEnd).fl.slotNew.isSome = true ∧ (s.settle u.closingEnd).cal.commitDue = false ∧ (s.settle u.closingEnd).flState = 1 := by
  have hends := life_wipes (u := u) (g := g) s (by rw [hpw, hl]) (by rw [hpw]) htarget hf
  rw [State.closingEnd_life (by rw [hpw])]
  rw [hpw] at hends
  exact hends

include hact

/-! ### The commit command -/

section
variable (hc : s.pw.closing = none) (hb : s.bit LIFE.STATUS.BUSY = false) (hg : g = s.get { LIFE.TARGET with w := 2 })
  {v : Word} (hk : s.lifeRefusal v = none)
include hc hb hg hk

omit hl in
theorem exec_lifeCommit_begins : exec (.lifeCommit v) s = .next (s.settle ((s.commitNoted g).closeBegin .life (g == 3))) := by
  have hbegin : s.lifeCommit v = (s.commitNoted g).closeBegin .life (g == 3) := by
    rw [State.lifeCommit_accepted hb hk, hc, hg]
    rfl
  exact (whenActing_active s (fun s => s.lifeCommit v) hact).trans (congrArg Host.Outcome.next (congrArg s.settle hbegin))

theorem commit_resets (hf : s.flState ≠ 1) : ∃ t, exec (.lifeCommit v) s = .next t ∧ t.CommitFrom s g := by
  have hnoted : (s.commitNoted g).flState ≠ 1 := by rwa [State.commitNoted_flState]
  have hflag : ((s.commitNoted g).closeNoted .life).flState ≠ 1 := hnoted
  have hends := life_resets (s := s) (u := (s.commitNoted g).closeNoted .life) (g := g) hl rfl hflag
  refine ⟨_, exec_lifeCommit_begins hact hc hb hg hk, ?_⟩
  rw [State.closeBegin_none hnoted, State.closingEnd_life rfl]
  exact hends

theorem commit_waits (hf : s.flState = 1) : ∃ t, exec (.lifeCommit v) s = .next t ∧ t.pw = { s.pw with closing := some .life } ∧
    t.cfg.target = some g ∧ t.cfg.armAt = none ∧ t.bit LIFE.STATUS.BUSY = true ∧ t.vault = s.vault := by
  obtain ⟨hpw, hcfg, hvault, hbusy⟩ := commit_flushes (u := s.commitNoted g) ((State.commitNoted_flState g).trans hf) (g == 3)
  have hkeep (x : State) : (s.keep x).pw = x.pw ∧ (s.keep x).cfg = x.cfg ∧ (s.keep x).bit LIFE.STATUS.BUSY = x.bit LIFE.STATUS.BUSY ∧
      (x.vault = s.vault → (s.keep x).vault = s.vault) := by
    refine ⟨rfl, rfl, rfl, fun h => ?_⟩
    rw [State.keep, ← h]
  obtain ⟨kpw, kcfg, kbusy, kvault⟩ := hkeep ((s.commitNoted g).closeBegin .life (g == 3))
  refine ⟨_, exec_lifeCommit_begins hact hc hb hg hk, ?_⟩
  rw [State.settle_keep (by rw [hpw]; exact hl) (by rw [hpw]; rfl), kpw, kcfg, kbusy, hpw, hcfg, hbusy]
  exact ⟨rfl, rfl, rfl, State.bit_setB _ 0x1E 0x02 1 true (by decide), kvault hvault⟩

end

/-! ### The end of the flush and of the slot commit -/

section
variable (ht : s.cfg.target = some g)
include ht

section
variable (hc : s.pw.closing = some .life)
include hc

theorem opDone_resets (e : OpEnd) (hf : (s.opDone e).flState ≠ 1) : ∃ t, exec (.flashOpDone e) s = .next t ∧ t.CommitFrom s g := by
  have hover : (s.opDone e).flushOver = true := by simp [State.flushOver, hf]
  have hpw : (s.opDone e).pw = { s.pw with closing := some .life } := by rw [State.pw_of_without (s.opDone_without e), ← hc]
  refine ⟨_, (exec_flashOpDone_eq s e).trans (whenActing_active s _ hact), ?_⟩
  rw [if_pos hover]
  exact life_resets_from hl (s.opDone_life e) hpw ht hf

theorem timeout_resets (hf : s.flState ≠ 1) : ∃ t, exec .closingFlushTimeout s = .next t ∧ t.CommitFrom s g :=
  ⟨_, (exec_closingFlushTimeout_eq s).trans (whenActing_active s _ hact), life_resets_from hl rfl (by rw [← hc]) ht hf⟩

theorem opDone_wipes (e : OpEnd) (hover : (s.opDone e).flushOver = true) (hf : (s.opDone e).flState = 1) :
    ∃ t, exec (.flashOpDone e) s = .next t ∧ t.vault.life = g ∧ t.vault.wipe = true ∧ t.vault.lifeDone = true ∧
    t.pw = { s.pw with closing := some .wipe } ∧ t.fl.op = some (.slot true) ∧ t.fl.slotNew.isSome = true ∧ t.cal.commitDue = false ∧
    t.flState = 1 := by
  have hpw : (s.opDone e).pw = { s.pw with closing := some .life } := by rw [State.pw_of_without (s.opDone_without e), ← hc]
  have htarget : (s.opDone e).cfg.target = s.cfg.target := congrArg (fun x => x.2.2.2.2.1) (s.opDone_life e)
  refine ⟨_, (exec_flashOpDone_eq s e).trans (whenActing_active s _ hact), ?_⟩
  rw [if_pos hover]
  exact life_wipes_from hl (htarget.trans ht) hpw hf

theorem timeout_wipes (hf : s.flState = 1) : ∃ t, exec .closingFlushTimeout s = .next t ∧ t.vault.life = g ∧ t.vault.wipe = true ∧
    t.pw = { s.pw with closing := some .wipe } ∧ t.fl.op = some (.slot true) := by
  obtain ⟨hlife, hwipe, -, hpw, hop, -⟩ := life_wipes_from (u := s) hl ht (by rw [← hc]) hf
  exact ⟨_, (exec_closingFlushTimeout_eq s).trans (whenActing_active s _ hact), hlife, hwipe, hpw, hop⟩

end
end

/-- The slot commit's end ends the wipe and resets the device. -/
theorem wipe_ends {c : Nat} {sl : CalSlot} {p : Option (Option CfgImage)} (hc : s.pw.closing = some .wipe)
    (hop : s.fl.op = some (.slot true)) (hnew : s.fl.slotNew = some (sl, p)) : ∃ t, exec (.flashOpDone (.ok c)) s = .next t ∧
    t.vault.wipe = false ∧ t.vault.life = s.vault.life ∧ t.Cleared ∧ t.pw.phase = .off ∧ t.pw.causes = s.pw.causes ||| 8 := by
  have hdone : s.opDone (.ok c) = (s.opOver.slotDone true).opNext := State.opDone_slot hop (.inl (by simp)) (by simp)
  have hview : (s.opDone (.ok c)).lifeView = (s.lifeView.1, false) := by
    rw [hdone, State.opNext_lifeView, State.slotDone_lifeView (s := s.opOver) hnew true, Bool.not_true, Bool.and_false]
    rfl
  have hnone : (s.opOver.slotDone true).fl.slotNew = none := (State.slotDone_ok (s := s.opOver) hnew).2.2.2.1
  have hslots := State.opNext_slots hnone
  simp only [State.slots, Flash.slots, Prod.mk.injEq] at hslots
  obtain ⟨-, -, -, -, -, -, hnext⟩ := hslots
  have hpw : (s.opDone (.ok c)).pw = s.pw := State.pw_of_without (s.opDone_without _)
  have hover : (s.opDone (.ok c)).flushOver = true := by
    rw [State.flushOver, hpw, hc]
    simp
  have hend : (s.opDone (.ok c)).closingEnd = (s.opDone (.ok c)).leave (.reset 8) := by
    rw [State.closingEnd, hpw, hc]
    have : (s.opDone (.ok c)).fl.slotNew = none := by rw [hdone, hnext, hnone]
    simp [this]
  have hleave : (s.opDone (.ok c)).pw.leave = none := by rw [hpw, hl]
  obtain ⟨hcl, hph, hcauses, -⟩ := State.settle_reset (s := s) hleave 8
  have hvault := State.settle_reset_vault (s := s) hleave 8
  refine ⟨_, (exec_flashOpDone_eq s _).trans (whenActing_active s _ hact), ?_⟩
  rw [if_pos hover, hend, hcauses, hvault, hpw]
  exact ⟨congrArg Prod.snd hview, congrArg (fun x => x.1.1) hview, hcl, hph, rfl⟩

/-! ### Commits without an effect -/

theorem commit_same {v : Word} (h : s.lifeCommit v = s) : exec (.lifeCommit v) s = .next s :=
  (whenActing_active s (fun s => s.lifeCommit v) hact).trans
    (congrArg Host.Outcome.next ((congrArg s.settle h).trans (State.settle_plain _ _ hl rfl rfl rfl)))

end

/-- The transitions that R452 permits. -/
theorem lifeOk_iff (now target n : Nat) : lifeOk now target n = true ↔
    (now = 0 ∧ target = 1) ∨ (now = 1 ∧ target = 2) ∨ (now = 2 ∧ target = 3) ∨ (now = 3 ∧ target = 1 ∧ n < 2) := by
  simp only [lifeOk]
  simp
  omega

end Sys2Proof.Machine
end
-- ==== Sys2Proof/Proofs/Tables.lean ====
section
/-! SUPPORT. The tables: staged words, checks, adoption and recheck (R445, R446). -/
namespace Sys2Proof.Machine

/-! ### What the consequences of a new table leave -/

/-- The page of the tables and fault 57. -/
def State.tblView (s : State) : List Word × Bool := (s.pageWords 0x1C, s.holds 57)

section
variable (s : State)

theorem State.set_tblView {f : Fld} (hf : f.addr / 64 ≠ 0x1C) (v : Nat) : (s.set f v).tblView = s.tblView :=
  Prod.ext (s.set_pageWords hf v) rfl
theorem State.setB_tblView {f : Fld} (hf : f.addr / 64 ≠ 0x1C) (b : Bool) : (s.setB f b).tblView = s.tblView := s.set_tblView hf _
theorem State.evt_tblView {f : Fld} (hf : f.addr / 64 ≠ 0x1C) : (s.evt f).tblView = s.tblView := s.set_tblView hf _
theorem State.set2_tblView {f : Fld} (hf : f.addr / 64 ≠ 0x1C) (hg : (f.plus 1).addr / 64 ≠ 0x1C) (v : Nat) :
    (s.set2 f v).tblView = s.tblView := Prod.ext (s.set2_pageWords hf hg v) rfl
theorem State.cond_tblView {i : Nat} (hi : i < 64) (h : i ≠ 57) (b : Bool) : (s.cond i b).tblView = s.tblView :=
  Prod.ext (s.cond_pageWords i b) ((s.holds_cond i 57 b hi).trans (if_neg (Ne.symm h)))
theorem State.setGal_tblView (g : Gal) : (s.setGal g).tblView = s.tblView := (rfl)
theorem State.setLane_tblView (k : Nat) (l : ImpLane) : (s.setLane k l).tblView = s.tblView := (rfl)
theorem State.ite_tblView (c : Prop) [Decidable c] (t : State) : (if c then s else t).tblView = if c then s.tblView else t.tblView :=
  apply_ite State.tblView c s t

theorem State.galStatus_tblView : s.galStatus.tblView = s.tblView := by
  simp (disch := decide) only [State.galStatus, State.setB_tblView, State.set_tblView]

theorem State.edgeChange_tblView (t : Nat) : (s.edgeChange t).tblView = s.tblView := by
  simp only [State.edgeChange, State.ite_tblView, State.galStatus_tblView, State.setGal_tblView, ite_self]

theorem State.fineStatus_tblView : s.fineStatus.tblView = s.tblView := by
  simp (disch := decide) only [State.fineStatus, State.setB_tblView, State.set2_tblView]

theorem State.tempsNone_tblView : s.tempsNone.tblView = s.tblView := by
  have himg (i : Imp) : ({ s with imp := i } : State).tblView = s.tblView := rfl
  simp (disch := decide) only [State.tempsNone, State.impNewer, State.ite_tblView, State.set_tblView, himg, ite_self]

theorem State.fault31_tblView : s.fault31.tblView = s.tblView := by
  simp (disch := decide) only [State.fault31, State.ite_tblView, State.tempsNone_tblView, State.setB_tblView, State.cond_tblView, ite_self]

theorem State.markInteg_tblView (c : Nat) (susp : Bool) : (s.markInteg c susp).tblView = s.tblView := by
  refine (forEach_keeps State.tblView _ _ (fun k _ u => ?_) _).trans ?_
  · dsimp only
    split
    · rw [State.ite_tblView, State.setLane_tblView, ite_self]
    · rfl
  · rw [State.ite_tblView, State.evt_tblView _ (by decide), ite_self]

theorem State.impStatus_tblView : s.impStatus.tblView = s.tblView := by
  simp (disch := decide) only [State.impStatus, State.setB_tblView]
  refine forEach_keeps State.tblView _ _ (fun k hk u => u.set_tblView ?_ _) s
  have : ∀ k ∈ List.range 8, (laneFld IMP.LANEkSTAT.word k).addr / 64 ≠ 0x1C := by decide
  exact this k hk

theorem State.derate_tblView : s.derate.tblView = s.tblView := by
  simp (disch := decide) only [State.derate, State.derateJudge, State.setB_tblView, State.set_tblView, State.cond_tblView]

theorem State.dutyMarks_tblView : s.dutyMarks.tblView = s.tblView := by
  rw [State.dutyMarks, State.ite_tblView, forEach_keeps State.tblView _ _ (fun c _ u => by
    simp only [State.ite_tblView, State.markInteg_tblView, ite_self]) s, ite_self]

theorem State.dutyLimit_tblView : s.dutyLimit.tblView = s.tblView := by
  obtain ⟨x, f, hx⟩ := s.dutyLimit_eq
  have hduty : ∀ n ∈ (List.range 36).map (· + 1), (dutyFld n 12 1).addr / 64 ≠ 0x1C := by decide
  have hbal : ({ s with bal := x } : State).tblView = s.tblView := rfl
  rw [hx]
  split
  · rfl
  · rw [State.impStatus_tblView, State.dutyMarks_tblView]
    exact (forEach_keeps State.tblView _ _ (fun n hn u => u.setB_tblView (hduty n hn) _) _).trans hbal

theorem State.tblLimit_tblView (l : List Nat) : (s.tblLimit l).tblView = s.tblView := by
  rw [State.tblLimit, State.ite_tblView, State.dutyLimit_tblView, State.derate_tblView, ite_self]

/-- A table that changed shows in fault 57 alone (R445). -/
theorem State.tblFollow_tblView (t : Nat) : (s.tblFollow t).tblView =
    (s.pageWords 0x1C, (List.range 8).any (fun k => look s.cfg.tblState k == .bad)) := by
  rw [State.tblFollow, State.fault31_tblView, State.fineStatus_tblView, State.edgeChange_tblView]
  exact Prod.ext (s.cond_pageWords _ _) ((s.holds_cond 57 57 _ (by decide)).trans (if_pos rfl))

end

/-! ### Staged words and selection -/

section
variable {s : State} (hact : s.pw.phase = .active)

/-- A word that is not the default leaves a map that is not empty. -/
theorem put_isEmpty {α : Type} [Inhabited α] [DecidableEq α] (m : SMap α) (k : Nat) {v : α} (hv : v ≠ default) :
    (put m k v).isEmpty = false := by
  cases hm : put m k v with
  | cons e l => rfl
  | nil =>
    have h := look_put_self m k v
    rw [hm] at h
    exact absurd h.symm hv

theorem State.tblStatus_get {f : Fld} (h : TABLE.STATUS.ADOPTPEND.apart f = true) (h' : TABLE.STATUS.STAGED.apart f = true) :
    s.tblStatus.get f = s.get f := by
  rw [State.tblStatus, State.setB, State.get_set_ne _ _ _ _ rfl h, State.setB, State.get_set_ne _ _ _ _ rfl h']

theorem State.tblStatus_staged : s.tblStatus.bit TABLE.STATUS.STAGED = !s.cfg.stage.isEmpty := by
  rw [State.tblStatus, State.setB, State.bit_set_ne _ _ _ _ rfl rfl, State.bit_setB _ _ _ _ _ (by decide)]

theorem State.tblStatus_cfg : s.tblStatus.cfg = s.cfg := (rfl)

theorem exec_tdataAccess_eq (wr : Option Word) (s : State) : exec (.tdataAccess wr) s = whenActive [.cfg] s fun s => s.tdata wr := (rfl)
theorem exec_tselWrite_eq (v : Word) (s : State) : exec (.tselWrite v) s = whenActive [.cfg] s fun s => s.tselWrite v := (rfl)
theorem exec_tableCheck_eq (s : State) : exec .tableCheck s = whenActive [.cfg] s fun s => s.tblCheck := (rfl)
theorem exec_tableDel_eq (s : State) : exec .tableDel s = whenActive [.cfg] s fun s => s.tblDel := (rfl)
theorem exec_tableAdopt_eq (s : State) : exec .tableAdopt s = whenActive [.bal, .imp, .gal, .cfg] s fun s => s.tblAdopt := (rfl)
theorem exec_tableRecheck_eq (bad : List (Fin 7)) (s : State) : exec (.tableRecheck bad) s =
    whenActive [.bal, .imp, .gal, .cfg] s fun s => s.tblRecheck bad := (rfl)
theorem exec_lifeArm_eq (w : Word) (s : State) : exec (.lifeArm w) s = whenActive [.cfg] s fun s => s.lifeArm w := (rfl)
theorem exec_lifeArmExpire_eq (s : State) : exec .lifeArmExpire s = whenActive [.cfg] s fun s =>
    s.when (match s.cfg.armAt with | some a => decide (a + 10 ≤ s.tm.tread) | none => false) State.lifeDisarm := (rfl)
theorem exec_certdataRead_eq (s : State) : exec .certdataRead s = whenActive [] s fun s => s.certAdvance := (rfl)

theorem State.tblUse_cfg (k : Nat) (l : List Word) : (s.tblUse k l).cfg = (s.tblPut k l).cfg :=
  State.cfg_of_without _ (c := [.gal, .imp]) (by decide) (State.tblNew_without _ (by decide) (by decide) k)

theorem State.tblDrop_cfg (k : Nat) (st : TblState) : (s.tblDrop k st).cfg =
    { s.cfg with tblState := put s.cfg.tblState k st, tblPts := put s.cfg.tblPts k [], tblRaw := put s.cfg.tblRaw k [] } :=
  State.cfg_of_without _ (c := [.gal, .imp]) (by decide) (State.tblFollow_without _ (by decide) (by decide) k)

theorem State.bit_of_tblView {t : State} (h : t.tblView = s.tblView) {f : Fld} (hf : f.addr / 64 = 0x1C) : t.bit f = s.bit f :=
  State.bit_of_pageWords (congrArg Prod.fst h) hf

section
include hact

theorem tdata_stages (hp : s.tptr ≤ 67) (v : Word) : ∃ t, exec (.tdataAccess (some v)) s = .next t ∧
    look t.cfg.stage s.tptr = some v ∧ (∀ i, i ≠ s.tptr → look t.cfg.stage i = look s.cfg.stage i) ∧ t.tptr = s.tptr + 1 ∧
    t.bit TABLE.STATUS.STAGED = true ∧ t.cfg.tblRaw = s.cfg.tblRaw := by
  have hstage : s.tdata (some v) = (({ s with cfg := { s.cfg with stage := put s.cfg.stage s.tptr (some v) } } : State).set
      { TABLE.TPTR with w := 7 } (s.tptr + 1)).tblStatus := if_neg (Nat.not_lt.2 hp)
  have hptr := (State.tblStatus_get (s := ({ s with cfg := { s.cfg with stage := put s.cfg.stage s.tptr (some v) } } : State).set
    { TABLE.TPTR with w := 7 } (s.tptr + 1)) rfl rfl).trans (State.set_getAll _ { TABLE.TPTR with w := 7 } _ rfl (lt_of_le_of_lt (Nat.succ_le_succ hp) (by decide)))
  refine ⟨_, (exec_tdataAccess_eq _ s).trans (whenActive_becomes hact hstage ?_), look_put_self s.cfg.stage s.tptr (some v),
    fun i hi => look_put_ne s.cfg.stage s.tptr i (some v) hi, hptr, ?_, rfl⟩
  · rw [State.tblStatus_without, State.set_without, s.withCfg_without (by decide)]
  · rw [State.tblStatus_staged]
    exact congrArg (!·) (put_isEmpty s.cfg.stage s.tptr (v := some v) nofun)

theorem tdata_reads (hp : s.tptr ≤ 67) : ∃ t, exec (.tdataAccess none) s = .next t ∧ t.cfg = s.cfg ∧ t.tptr = s.tptr + 1 := by
  have hread : s.tdata none = (s.set { TABLE.TPTR with w := 7 } (s.tptr + 1)).tblStatus := if_neg (Nat.not_lt.2 hp)
  refine ⟨_, (exec_tdataAccess_eq _ s).trans (whenActive_becomes hact hread ?_), rfl,
    (State.tblStatus_get rfl rfl).trans (State.set_getAll _ { TABLE.TPTR with w := 7 } _ rfl (lt_of_le_of_lt (Nat.succ_le_succ hp) (by decide)))⟩
  rw [State.tblStatus_without, State.set_without]

theorem tdata_ends (hp : 67 < s.tptr) (wr : Option Word) : exec (.tdataAccess wr) s = .next (s.evt TABLE.EVT.CFGREJ) :=
  (exec_tdataAccess_eq wr s).trans (whenActive_becomes hact (if_pos hp) (State.evt_without _ _ _))

theorem tsel_selects {v : Word} (hv : v.toNat % 8 ≠ 0) : ∃ t, exec (.tselWrite v) s = .next t ∧ t.tsel = v.toNat % 8 ∧
    t.cfg = { s.cfg with stage := [] } ∧ t.bit TABLE.STATUS.STAGED = false := by
  refine ⟨_, (exec_tselWrite_eq v s).trans (whenActive_becomes hact (if_neg hv) ?_),
    (State.tblStatus_get rfl rfl).trans (State.set_getAll _ { TABLE.TSEL with w := 3 } _ rfl (Nat.mod_lt _ (by decide))), rfl,
    State.tblStatus_staged⟩
  rw [State.tblStatus_without, State.set_without, s.withCfg_without (by decide)]

theorem tsel_none {v : Word} (hv : v.toNat % 8 = 0) : exec (.tselWrite v) s = .next (s.evt TABLE.EVT.CFGREJ) :=
  (exec_tselWrite_eq v s).trans (whenActive_becomes hact (if_pos hv) (State.evt_without _ _ _))

/-! ### Check and deletion -/

theorem table_checked {l : List Word} (hl : l = (List.range 68).map (fun i => (look s.cfg.stage i).getD 0)) :
    ∃ t, exec .tableCheck s = .next t ∧ t.cfg.stage = [] ∧ t.cfg.tblRaw = s.cfg.tblRaw ∧
    (tblValid s.tsel l = true → look t.cfg.adopt s.tsel = some l ∧ t.cfg.adoptAt = s.tm.tread) ∧
    (tblValid s.tsel l = false → t.cfg.adopt = s.cfg.adopt ∧ t.bit TABLE.EVT.REFUSE = true) := by
  have hcheck : s.tblCheck = if tblValid s.tsel l then
      ({ s with cfg := { s.cfg with stage := [], adopt := put s.cfg.adopt s.tsel (some l), adoptAt := s.tm.tread } }).tblStatus
      else (({ s with cfg := { s.cfg with stage := [] } }).evt TABLE.EVT.REFUSE).tblStatus := by
    rw [State.tblCheck, ← hl]
  cases hv : tblValid s.tsel l with
  | true =>
    rw [hv, if_pos rfl] at hcheck
    refine ⟨_, (exec_tableCheck_eq s).trans (whenActive_becomes hact hcheck ?_), rfl, rfl, fun _ => ⟨look_put_self s.cfg.adopt s.tsel (some l), rfl⟩, nofun⟩
    rw [State.tblStatus_without, s.withCfg_without (by decide)]
  | false =>
    rw [hv, if_neg (by decide)] at hcheck
    refine ⟨_, (exec_tableCheck_eq s).trans (whenActive_becomes hact hcheck ?_), rfl, rfl, nofun, fun _ => ⟨rfl, ?_⟩⟩
    · rw [State.tblStatus_without, State.evt_without, s.withCfg_without (by decide)]
    · rw [State.bit, State.tblStatus_get rfl rfl]
      exact State.bit_evt _ _ _ _ (by decide)

theorem table_deleted : ∃ t, exec .tableDel s = .next t ∧ look t.cfg.del s.tsel = true ∧
    look t.cfg.adopt s.tsel = none ∧ t.cfg.tblState = s.cfg.tblState := by
  refine ⟨_, (exec_tableDel_eq s).trans (whenActive_becomes hact rfl ?_), look_put_self s.cfg.del s.tsel true,
    look_put_self s.cfg.adopt s.tsel none, rfl⟩
  rw [State.tblDel, State.tblStatus_without, s.withCfg_without (by decide)]

/-! ### Adoption and recheck -/

theorem table_adopted {k : Nat} {l : List Word} (hl : s.cfg.adopt = [(k, some l)]) (ht : s.cfg.adoptAt < s.tm.tread) :
    ∃ t, exec .tableAdopt s = .next t ∧ look t.cfg.tblState k = .valid ∧ look t.cfg.tblRaw k = l ∧
    look t.cfg.tblPts k = tblPoints l ∧ t.cfg.adopt = [] ∧ t.bit TABLE.EVT.ADOPT = true := by
  have hadopt : s.tblAdopt = (((({ s with cfg := { s.cfg with adopt := [] } } : State).tblUse k l).evt TABLE.EVT.ADOPT).tblStatus).tblLimit [k] := by
    rw [State.tblAdopt, if_neg (Nat.not_le.2 ht), hl]
    rfl
  have hcfg : s.tblAdopt.cfg = { s.cfg with adopt := [], tblState := put s.cfg.tblState k .valid, tblPts := put s.cfg.tblPts k (tblPoints l), tblRaw := put s.cfg.tblRaw k l } := by
    rw [hadopt, State.tblLimit_cfg, State.tblStatus_cfg]
    exact State.tblUse_cfg (s := { s with cfg := { s.cfg with adopt := [] } }) k l
  refine ⟨_, (exec_tableAdopt_eq s).trans (whenActive_active _ s _ hact), ?_⟩
  rw [State.only_cfg _ _ (by decide), hcfg, State.only_bit, hadopt, State.bit_of_tblView (State.tblLimit_tblView _ _) rfl, State.bit,
    State.tblStatus_get rfl rfl]
  exact ⟨look_put_self s.cfg.tblState k .valid, look_put_self s.cfg.tblRaw k l, look_put_self s.cfg.tblPts k (tblPoints l), rfl, State.bit_evt _ _ _ _ (by decide)⟩

theorem adoption_waits (ht : s.tm.tread ≤ s.cfg.adoptAt) : exec .tableAdopt s = .next s :=
  (exec_tableAdopt_eq s).trans (whenActive_same hact (if_pos ht))

theorem table_rechecked {k : Fin 7} (hl : s.tm.ltc % 16 = 0) (hk : look s.cfg.tblState (k.val + 1) = .valid) :
    ∃ t, exec (.tableRecheck [k]) s = .next t ∧ look t.cfg.tblState (k.val + 1) = .bad ∧ t.holds 57 = true ∧
    t.bit TABLE.EVT.BAD = true ∧ look t.cfg.tblPts (k.val + 1) = [] := by
  have hcheck : s.tblRecheck [k] = ((s.tblDrop (k.val + 1) .bad).evt TABLE.EVT.BAD).tblLimit [k.val + 1] := by
    rw [State.tblRecheck, if_neg (by simp [hl])]
    simp only [List.map_cons, List.map_nil, List.filter_cons, hk, decide_true, if_true, List.filter_nil]
    rfl
  have hcfg : (s.tblRecheck [k]).cfg = { s.cfg with tblState := put s.cfg.tblState (k.val + 1) .bad, tblPts := put s.cfg.tblPts (k.val + 1) [], tblRaw := put s.cfg.tblRaw (k.val + 1) [] } := by
    rw [hcheck, State.tblLimit_cfg]
    exact State.tblDrop_cfg _ _
  have hfault : (s.tblRecheck [k]).holds 57 = true := by
    rw [hcheck]
    refine (congrArg Prod.snd (State.tblLimit_tblView _ _)).trans ?_
    refine (congrArg Prod.snd (State.tblFollow_tblView _ _)).trans ?_
    rw [List.any_eq_true]
    exact ⟨k.val + 1, List.mem_range.2 (by omega), by rw [look_put_self]; rfl⟩
  have hbad : (s.tblRecheck [k]).bit TABLE.EVT.BAD = true := by
    rw [hcheck, State.bit_of_tblView (State.tblLimit_tblView _ _) rfl]
    exact State.bit_evt _ _ _ _ (by decide)
  refine ⟨_, (exec_tableRecheck_eq _ s).trans (whenActive_active _ s _ hact), ?_⟩
  rw [State.only_cfg _ _ (by decide), hcfg, State.only_bit, hbad, State.holds, State.only_condNow, ← State.holds, hfault]
  exact ⟨look_put_self s.cfg.tblState _ .bad, rfl, rfl, look_put_self s.cfg.tblPts _ []⟩

theorem recheck_waits (hl : s.tm.ltc % 16 ≠ 0) (bad : List (Fin 7)) : exec (.tableRecheck bad) s = .next s :=
  (exec_tableRecheck_eq bad s).trans (whenActive_same hact (if_pos hl))

/-! ### Arm and certificate window -/

theorem lifeArm_right {w : Word} (hw : s.armNumber w = s.vault.fnum) : exec (.lifeArm w) s =
    .next ((({ s with cfg := { s.cfg with armAt := some s.tm.tread } }).setB LIFE.STATUS.ARMED true).evt LIFE.EVT.ARM) := by
  refine (exec_lifeArm_eq w s).trans (whenActive_becomes hact (if_pos hw) ?_)
  rw [State.evt_without, State.setB_without, s.withCfg_without (by decide)]

theorem lifeArm_wrong {w : Word} (hw : s.armNumber w ≠ s.vault.fnum) : exec (.lifeArm w) s = .next ((s.set LIFE.RESULT 2).evt LIFE.EVT.REJ) := by
  refine (exec_lifeArm_eq w s).trans (whenActive_becomes hact (if_neg hw) ?_)
  rw [State.evt_without, State.set_without]

theorem arm_expires {a : Nat} (ha : s.cfg.armAt = some a) : exec .lifeArmExpire s =
    .next (if a + 10 ≤ s.tm.tread then ({ s with cfg := { s.cfg with armAt := none } }).setB LIFE.STATUS.ARMED false else s) := by
  have hexp : s.when (match s.cfg.armAt with | some a => decide (a + 10 ≤ s.tm.tread) | none => false) State.lifeDisarm =
      if a + 10 ≤ s.tm.tread then ({ s with cfg := { s.cfg with armAt := none } }).setB LIFE.STATUS.ARMED false else s := by
    simp only [State.when, ha, decide_eq_true_eq]
    rfl
  refine (exec_lifeArmExpire_eq s).trans (whenActive_becomes hact hexp ?_)
  rw [State.ite_without, State.setB_without, s.withCfg_without (by decide), ite_self]

theorem certdata_advances : exec .certdataRead s =
    .next (s.set { IDENT.CERTPTR with w := 9 } (s.get { IDENT.CERTPTR with w := 9 } + 1)) :=
  (exec_certdataRead_eq s).trans (whenActive_becomes hact rfl (State.set_without _ _ _ _))

end

end

end Sys2Proof.Machine
end
-- ==== Sys2Proof/Proofs/TablesAndLife.lean ====
section
/-! Tables, the life cycle and the certificate window (R445, R446, R451 to R455). -/
namespace Sys2Proof.Machine

/-- Settles O60: a table command's effect is a change of the table part and of its own page; a commit that is accepted runs its flush
first where the flash is READY, and the end of the closing step is one transition in the vault followed by a reset or a slot commit. -/
theorem tablesAndLife : Obligations.TablesAndLife := by
  unfold Obligations.TablesAndLife
  refine ⟨fun s v hact hp => tdata_stages hact hp v, fun s hact hp => tdata_reads hact hp, fun s wr hact hp => tdata_ends hact hp wr,
    fun s v hact hv => tsel_selects hact hv, fun s v hact hv => tsel_none hact hv, fun s l hact hl => table_checked hact hl,
    fun s hact => table_deleted hact, fun s k l hact hl ht => table_adopted hact hl ht, fun s hact ht => adoption_waits hact ht,
    fun s k hact hl hk => table_rechecked hact hl hk, fun s bad hact hl => recheck_waits hact hl bad, fun s w hact hw => lifeArm_right hact hw,
    fun s w hact hw => lifeArm_wrong hact hw, fun s a hact ha => arm_expires hact ha, ?accepted, ?notPermitted,
    fun s hact => certdata_advances hact, ?waits, ?flashLost, fun s e g hact hl hc ht hover hf => opDone_wipes hact hl ht hc e hover hf,
    fun s g hact hl hc ht hf => timeout_wipes hact hl ht hc hf, fun s c sl p hact hl hc hop hnew => wipe_ends hact hl hc hop hnew,
    ?timeout, ?outputClosed, ?notArmed, ?noKey, ?busy, ?closing, lifeOk_iff⟩
  case accepted =>
    intro s a g hact hl hc hb hg hok hopen harm ht hf
    exact commit_resets hact hl hc hb hg (State.lifeRefusal_armed hg hok hopen harm ht _) hf
  case notPermitted =>
    intro s v hact hl hb hok
    exact commit_refused hact hl hb (by rw [State.lifeRefusal_eq, if_pos hok]) (by decide)
  case waits =>
    intro s a g hact hl hc hb hg hok hopen harm ht hf
    exact commit_waits hact hl hc hb hg (State.lifeRefusal_armed hg hok hopen harm ht _) hf
  case flashLost =>
    intro s e g hact hl hc ht hf
    obtain ⟨t, hnext, hlife, hseg, hltc, hguard, hdone, hcl, hfactory, hph, hcauses, -⟩ := opDone_resets hact hl ht hc e hf
    exact ⟨t, hnext, hlife, hseg, hltc, hguard, hdone, hcl, hfactory, hph, hcauses⟩
  case timeout =>
    intro s g hact hl hc ht hf
    obtain ⟨t, hnext, hlife, hseg, hltc, hguard, hdone, hcl, hfactory, hph, hcauses, -⟩ := timeout_resets hact hl ht hc hf
    exact ⟨t, hnext, hlife, hseg, hltc, hguard, hdone, hcl, hfactory, hph, hcauses⟩
  case outputClosed =>
    intro s v hact hl hb htarget hlife hclosed
    have hok : lifeOk s.life 3 s.vault.segment = true := (lifeOk_iff _ _ _).2 (.inr (.inr (.inl ⟨hlife, rfl⟩)))
    refine commit_refused hact hl hb ?_ (by decide)
    rw [State.lifeRefusal_eq, htarget, if_neg (by rw [hok]; decide), if_pos ⟨rfl, hclosed⟩]
  case notArmed =>
    intro s v g hact hl hb hg hok hopen harm
    exact commit_refused hact hl hb (State.lifeRefusal_unarmed hg hok hopen v harm) (by decide)
  case noKey =>
    intro s v a g hact hl hb hg hok hopen harm ht hv
    exact commit_refused hact hl hb ((State.lifeRefusal_armed hg hok hopen harm ht v).trans (if_pos hv)) (by decide)
  case busy =>
    intro s v hact hl hb
    exact commit_same hact hl (by rw [State.lifeCommit, if_pos hb])
  case closing =>
    intro s a g hact hl hc hb hg hok hopen harm ht
    exact commit_same hact hl ((State.lifeCommit_accepted hb (State.lifeRefusal_armed hg hok hopen harm ht _)).trans (if_pos hc))

end Sys2Proof.Machine
end
-- ==== Sys2Proof/Proofs/LinkKept.lean ====
section
/-! SUPPORT. What the operations of the link leave alone: each reads and writes its port, and little beside it (R320 to R341). -/
namespace Sys2Proof.Machine

section
variable (s : State) {c : List Part}

theorem State.eyeNew_without (h : Part.link ∈ c) (lane r w : Nat) : (s.eyeNew lane r w).without c = s.without c := by
  simp only [State.eyeNew, State.eyeEval_without, State.healthSet_without, State.ite_without, State.withLink_without _ h, ite_self]

theorem State.eyeSet_without (h : Part.link ∈ c) (lane w : Nat) : (s.eyeSet lane w).without c = s.without c := s.eyeNew_without h _ _ _

theorem State.useRate_without (h : Part.link ∈ c) (r : Nat) : (s.useRate r).without c = s.without c := by
  simp only [State.useRate, State.ite_without, State.withLink_without _ h, ite_self]

theorem State.fault42_without (b : Bool) : (s.fault42 b).without c = s.without c := by
  rw [State.fault42, State.setB_without, State.cond_without]

theorem State.setBank_without (h : Part.xact ∈ c) (b : Nat) (ev : Bool) : (s.setBank b ev).without c = s.without c := by
  simp only [State.setBank, State.planEval_without _ h, State.fault42_without, State.ite_without, State.evt_without,
    State.withXact_without _ h, State.set_without, ite_self]

theorem State.takeBank_without (h : Part.xact ∈ c) (b : Nat) : (s.takeBank b).without c = s.without c := by
  simp only [State.takeBank, State.ite_without, State.setBank_without _ h, State.fault42_without, State.withXact_without _ h, ite_self]

theorem State.rsDisarm_without : s.rsDisarm.without c = s.without c := by
  rw [State.rsDisarm, State.setB_without, State.set_without]

theorem State.portRates_without (h : Part.link ∈ c) (a : Announce) (p : Port) : (s.portRates a p).without c = s.without c := by
  rw [State.portRates, State.linkStatus_without, State.set_without, State.setPort_without _ h, State.toT0_without _ h]

theorem State.ratesShown_without (hx : Part.xact ∈ c) (a : Announce) (old : Nat) : (s.ratesShown a old).without c = s.without c := by
  simp only [State.ratesShown, State.eyeEval_without, State.planEval_without _ hx, State.setBank_without _ hx, State.ite_without,
    State.occur_without, State.rsDisarm_without, State.evt_without, State.setB_without, ite_self]

theorem State.ratesBegin_without (h : Part.link ∈ c) (a : Announce) : (s.ratesBegin a).without c = s.without c := by
  refine (State.forEach_without c _ _ (fun p _ v => ?_) _).trans ?_
  · rw [State.ite_without, State.portRates_without _ h, ite_self]
  · rw [State.useRate_without _ h, State.withLink_without _ h]

theorem State.rateGo_without (h : Part.link ∈ c) (hx : Part.xact ∈ c) (a : Announce) : (s.rateGo a).without c = s.without c := by
  rw [State.rateGo_eq, State.ratesShown_without _ hx, State.ratesBegin_without _ h]

theorem State.integBegin_without (hb : Part.bal ∈ c) (hi : Part.imp ∈ c) (k : Nat) : (s.integBegin k).without c = s.without c := by
  rw [State.integBegin, State.impStatus_without, State.beginInteg_without _ hb hi]

theorem State.announce_without (h : Part.link ∈ c) (m : Mark) : (s.announce m).without c = s.without c := by
  simp only [State.announce, State.ite_without, State.evt_without, State.setB_without, State.withLink_without _ h, ite_self]

end

end Sys2Proof.Machine
end
-- ==== Sys2Proof/Proofs/MarkAccepted.lean ====
section
/-! O18. Marks on a port in link-up: one that is valid on the source port, and one whose CRC is wrong (R320, R326, R334). -/
namespace Sys2Proof.Machine

theorem exec_tmkRx_eq (p : Port) (m : Mark) (clean : Bool) (crc : Word) (tArr : Int) (s : State) : exec (.tmkRx p m clean crc tArr) s =
    whenActive [.tm, .cells, .bal, .xact, .aux, .imp, .safe, .link] s fun s => s.tmkRx p m clean crc tArr := (rfl)

/-! ### The tread that a mark numbers -/

/-- Whether the tread has its mark, how many had none, and the tread's number. -/
def State.markView (s : State) : Bool × Nat × Nat := (s.tm.marked, s.tm.misses, s.tm.stn)

section
variable {s t : State} (c : List Part)

theorem State.markView_of (hc : Part.tm ∉ c) (h : t.without c = s.without c) : t.markView = s.markView := by
  rw [State.markView, State.markView, State.tm_of_without hc h]

end

section
variable (s : State)

theorem State.ite_markView (p : Prop) [Decidable p] (t : State) : (if p then s else t).markView = if p then s.markView else t.markView :=
  apply_ite State.markView p s t

theorem State.ptApply_markView : s.ptApply.markView = s.markView := by
  have htime (u : State) (a b : Nat) (d : Bool) : ({ u with tm := { u.tm with ptSec := a, ptMs := b, stepMark := d } } : State).markView =
      u.markView := rfl
  rw [State.ptApply, htime]
  refine State.markView_of [] (by decide) ?_
  simp only [State.evt_without, State.setB_without, State.ite_without, State.set_without, State.inc_without, ite_self]

/-- A jump leaves the number that it jumps to. -/
theorem State.takeStn_markView (n : Nat) : (s.takeStn n).markView = (s.tm.marked, s.tm.misses, n) := by
  have hstn : (({ s with tm := { s.tm with stn := n } } : State).setB TIME.STATUS.STNVALID true).markView = (s.tm.marked, s.tm.misses, n) := rfl
  have hbegin (u : State) (k : Nat) : (u.integBegin k).markView = u.markView :=
    State.markView_of [.bal, .imp] (by decide) (u.integBegin_without (by decide) (by decide) k)
  have hrate (u : State) (a : Announce) : (u.rateGo a).markView = u.markView :=
    State.markView_of [.link, .xact] (by decide) (u.rateGo_without (by decide) (by decide) a)
  have hdisarm (u : State) : u.rsDisarm.markView = u.markView := State.markView_of [] (by decide) u.rsDisarm_without
  have hrestart (u : State) : u.restartNow.markView = u.markView :=
    State.markView_of [.cells, .aux] (by decide) (u.restartNow_without (by decide) (by decide))
  have habort (u : State) : ((u.evt TIME.EVT.STNJUMP).impAbort false).markView = u.markView :=
    State.markView_of [.bal, .imp] (by decide) ((State.impAbort_without _ (by decide) (by decide) false).trans (State.evt_without _ _ _))
  rw [State.takeStn, State.ite_markView, hstn, State.ite_markView, hdisarm, ite_self]
  split
  · rfl
  · split
    on_goal 1 => rw [State.ite_markView, hrate, ite_self]
    all_goals
      refine (forEach_keeps State.markView _ _ (fun k _ u => ?_) _).trans ?_
      · split
        · rw [State.ite_markView, hbegin, ite_self]
        · rfl
      · simp only [State.ite_markView, State.ptApply_markView, hrestart, habort, ite_self, hstn]

theorem State.aligned_without (b : Bool) (c : List Part) : (s.aligned b).without c = s.without c := by
  simp only [State.aligned, State.ite_without, State.evt_without, State.cond_without, State.setB_without, ite_self]

theorem State.phase_markView (e : Int) : (s.phase e).markView = s.markView := by
  have haligned (b : Bool) (v : Int) : ((s.setS TIME.PHASE v).aligned b).markView = s.markView :=
    State.markView_of [] (by decide) ((State.aligned_without _ b []).trans (State.set_without _ _ _ _))
  have hstep (u : State) (a : Option Int) (b d : Int) : ({ u with tm := { u.tm with stepPend := a, phaseLeft := b, adjust := d } } : State).markView =
      u.markView := rfl
  simp only [State.phase, State.ite_markView, hstep, haligned, ite_self]

theorem State.lock_without (c : List Part) : s.lock.without c = s.without c := by
  simp only [State.lock, State.healthStatus, State.ite_without, State.set_without, State.cond_without, State.healthSet_without,
    State.tick_without, State.setB_without, ite_self]

/-- An accepted mark marks its tread. -/
theorem State.markEnds_markView : s.markEnds.markView = (true, 0, s.tm.stn) := by
  have hgone : (if s.safe.commOut then ({ s with safe := { s.safe with commOut := false } }).sfGone else s).tm = s.tm :=
    State.tm_of_without (c := [.safe]) (by decide) (by rw [State.ite_without, State.sfGone_without _ (by decide), State.withSafe_without _ (by decide), ite_self])
  have hmarked (u : State) : (({ u with tm := { u.tm with marked := true, misses := 0 } }).setB TIME.STATUS.HOLDOVER false).markView =
      (true, 0, u.tm.stn) := rfl
  rw [State.markEnds, State.markView_of [] (by decide) (State.lock_without _ []), hmarked, hgone]

theorem State.markTaken_markView (p : Port) (m : Mark) (t : Int) :
    (s.markTaken p m t).markView = (s.tm.marked, s.tm.misses, m.stn.toNat) := by
  have heye : (if m.reyeValid && look s.link.eyeNow (2 + p.no) != some m.reye.toNat then s.eyeSet (2 + p.no) m.reye.toNat else s).markView =
      s.markView := by
    rw [State.ite_markView, State.markView_of [.link] (by decide) (s.eyeSet_without (by decide) _ _), ite_self]
  rw [State.markTaken, State.markView_of [.xact] (by decide) (State.takeBank_without _ (by decide) _), State.takeStn_markView]
  have hview (e : Int) := (State.phase_markView (if m.reyeValid && look s.link.eyeNow (2 + p.no) != some m.reye.toNat then s.eyeSet (2 + p.no) m.reye.toNat else s) e).trans heye
  exact congrArg (fun v : Bool × Nat × Nat => (v.1, v.2.1, m.stn.toNat)) (hview _)

theorem State.accepted_markView (p : Port) (m : Mark) (t : Int) : (s.accepted p m t).markView = (true, 0, m.stn.toNat) := by
  have heq : s.accepted p m t = (match s.markEnds.pw.closing with
      | some (.sleep .commLoss) => s.markEnds.abortNoted
      | _ => s.markEnds).markTaken p m t := rfl
  have hends := s.markEnds_markView
  rw [State.markView, Prod.mk.injEq, Prod.mk.injEq] at hends
  obtain ⟨hmarked, hmisses, -⟩ := hends
  rw [heq, State.markTaken_markView]
  split
  · exact congrArg₂ (fun a b => (a, b, m.stn.toNat)) hmarked hmisses
  · rw [hmarked, hmisses]

/-- A valid mark on the source port is accepted. -/
theorem State.validMark_markView {p : Port} (hs : s.source? = some p) (m : Mark) (t : Int) :
    (s.validMark p m t).markView = (true, 0, m.stn.toNat) := by
  have hseen : (s.markSeen p m).source? = some p := (State.source?_of_pageWords (s.markSeen_pageWords p m)).trans hs
  have hfirst : (s.markSeen p m).firstSource p = s.markSeen p m := if_pos (by rw [hseen]; rfl)
  have heq : s.validMark p m t = ((s.markSeen p m).accepted p m t).announce m := by
    rw [State.validMark_eq, hfirst]
    exact congrArg (State.announce · m) (if_pos hseen)
  rw [heq, State.markView_of [.link] (by decide) (State.announce_without _ (by decide) m), State.accepted_markView]

/-! ### A mark with a wrong CRC -/

/-- The mark goes on where the port forwards (R321, R325). -/
def State.markPassed (p : Port) (m : Mark) (crc : Word) (s : State) : State := if s.forwards p then (s.idlComp p).relay p m crc else s

/-- What a mark whose CRC is wrong leaves (R325, R326). -/
theorem State.markArrives_wrong {crc : Word} {p : Port} {m : Mark} (h : crc ≠ markCrc m) (t : Int) :
    (s.markArrives p m crc t).tm = s.tm ∧
    ∀ a, a ≠ (fwdFld p).addr → a ≠ LINK.FRMERR.addr → a ≠ LINK.EVT.FRAMING.addr → (s.markArrives p m crc t).reg a = s.reg a := by
  have hport (u : State) (x : LinkPort) : (u.setPort p x).tm = u.tm ∧ ∀ a, (u.setPort p x).reg a = u.reg a := by cases p <;> exact ⟨rfl, fun _ => rfl⟩
  have hrelay (u : State) : (u.relay p m crc).tm = u.tm ∧ ∀ a, (u.relay p m crc).reg a = u.reg a := ⟨rfl, fun _ => rfl⟩
  have hearly : (s.earlyTmk p t).tm = s.tm ∧ ∀ a, a ≠ LINK.FRMERR.addr → a ≠ LINK.EVT.FRAMING.addr → (s.earlyTmk p t).reg a = s.reg a := by
    have hreport (b : Bool) : (if b then (s.inc LINK.FRMERR).evt LINK.EVT.FRAMING else s).tm = s.tm ∧ ∀ a, a ≠ LINK.FRMERR.addr →
        a ≠ LINK.EVT.FRAMING.addr → (if b then (s.inc LINK.FRMERR).evt LINK.EVT.FRAMING else s).reg a = s.reg a := by
      cases b
      · exact ⟨rfl, fun _ _ _ => rfl⟩
      · exact ⟨rfl, fun a h1 h2 => (State.reg_set_ne _ _ _ _ h2).trans (State.reg_set_ne _ _ _ _ h1)⟩
    exact ⟨(hport _ _).1.trans (hreport _).1, fun a h1 h2 => ((hport _ _).2 a).trans ((hreport _).2 a h1 h2)⟩
  have hcomp (u : State) : (u.idlComp p).tm = u.tm ∧ ∀ a, a ≠ (fwdFld p).addr → (u.idlComp p).reg a = u.reg a := by
    unfold State.idlComp
    split
    · exact ⟨rfl, fun _ _ => rfl⟩
    · exact ⟨rfl, fun a ha => State.reg_set_ne _ _ _ _ ha⟩
  have hpass (u : State) : (u.markPassed p m crc).tm = u.tm ∧ ∀ a, a ≠ (fwdFld p).addr → (u.markPassed p m crc).reg a = u.reg a := by
    unfold State.markPassed
    split
    · exact ⟨(hrelay _).1.trans (hcomp u).1, fun a ha => ((hrelay _).2 a).trans ((hcomp u).2 a ha)⟩
    · exact ⟨rfl, fun _ _ => rfl⟩
  obtain ⟨y, hy⟩ : ∃ y, s.markArrives p m crc t = State.markPassed p m crc (if crc == markCrc m then
      ((s.earlyTmk p t).setPort p y).set (pstat p LINK.UPSTAT.LORIG) m.origin.toNat else (s.earlyTmk p t).setPort p y) := ⟨_, rfl⟩
  rw [if_neg (by simpa using h)] at hy
  rw [hy]
  exact ⟨(hpass _).1.trans ((hport _ _).1.trans hearly.1), fun a h1 h2 h3 => ((hpass _).2 a h1).trans (((hport _ _).2 a).trans (hearly.2 a h2 h3))⟩

end

/-- Settles O18: what an accepted mark does after it has marked its tread leaves the mark and the number; a wrong CRC leaves framing and
compensation alone to change. -/
theorem markAccepted : Obligations.MarkAccepted := by
  refine ⟨fun s p m tArr hact hup hr ho hs => ?_, fun s p m clean crc tArr hact hup hcrc => ?_, fun s p m clean crc tArr hact hup => ?_⟩
  · have hview := s.markArrives_acceptView p m (markCrc m) tArr
    simp only [State.acceptView, Prod.mk.injEq] at hview
    obtain ⟨-, htime, hrate⟩ := hview
    have heq : s.tmkRx p m true (markCrc m) tArr = (s.markArrives p m (markCrc m) tArr).validMark p m tArr := by
      rw [State.tmkRx_eq, if_neg (by simp [hup]), if_pos (by simp [hrate, hr, ho])]
    have hmark := State.validMark_markView (s.markArrives p m (markCrc m) tArr) ((State.source?_of_pageWords htime).trans hs) m tArr
    rw [← heq, State.markView, Prod.mk.injEq, Prod.mk.injEq] at hmark
    refine ⟨_, (exec_tmkRx_eq p m true (markCrc m) tArr s).trans (whenActive_active _ s _ hact), ?_⟩
    rw [State.only_tm _ _ (by decide)]
    exact hmark
  · obtain ⟨htm, hreg⟩ := s.markArrives_wrong (p := p) hcrc tArr
    have heq : s.tmkRx p m clean crc tArr = s.markArrives p m crc tArr := by
      rw [State.tmkRx_eq, if_neg (by simp [hup]), if_neg (by simp [hcrc])]
    refine ⟨_, (exec_tmkRx_eq p m clean crc tArr s).trans (whenActive_active _ s _ hact), ?_⟩
    rw [State.only_tm _ _ (by decide), heq]
    exact ⟨htm, fun a h1 h2 h3 => (State.only_reg ..).trans (hreg a h1 h2 h3)⟩
  · exact (exec_tmkRx_eq p m clean crc tArr s).trans (whenActive_same hact (by rw [State.tmkRx_eq, if_pos hup]))

end Sys2Proof.Machine
end
-- ==== Sys2Proof/Proofs/LinkPorts.lean ====
section
/-! SUPPORT. A port as the training reads and writes it: its state, its rate and its counts (R328 to R332). -/
namespace Sys2Proof.Machine

theorem Port.other_ne (p : Port) : p.other ≠ p := by cases p <;> decide
theorem Port.other_other (p : Port) : p.other.other = p := by cases p <;> rfl

/-- State, rate and counts of a port. -/
def State.portView (s : State) (p : Port) : Nat × Nat × LinkPort := (s.pState p, s.pRateOf p, s.port p)

/-- The line rate and the eye records. -/
def Link.eyes (l : Link) : Nat × SMap (Option Nat) × SMap (Option Nat) := (l.rate, l.eyeNow, l.eyeFull)

/-- What LINK_STATUS shows of both ports (R322, R341). -/
def linkFlags : List Fld := [LINK.STATUS.UPLINK, LINK.STATUS.DNLINK, LINK.DNSTAT.ORIG, LINK.UPSTAT.ORIG]

section
variable {s t : State} {p : Port} {a b : Nat} {x : LinkPort}

theorem State.portView_iff : s.portView p = (a, b, x) ↔ s.pState p = a ∧ s.pRateOf p = b ∧ s.port p = x := by
  rw [State.portView, Prod.mk.injEq, Prod.mk.injEq]

theorem State.pState_of_portView (h : s.portView p = t.portView p) : s.pState p = t.pState p := congrArg (·.1) h
theorem State.pRateOf_of_portView (h : s.portView p = t.portView p) : s.pRateOf p = t.pRateOf p := congrArg (·.2.1) h
theorem State.port_of_portView (h : s.portView p = t.portView p) : s.port p = t.port p := congrArg (·.2.2) h
theorem State.linkUp_of_portView (h : s.portView p = t.portView p) : s.linkUp p = t.linkUp p := by
  rw [State.linkUp, State.linkUp, State.pState_of_portView h]

theorem State.portView_of (hp : t.pageWords 4 = s.pageWords 4) (hl : t.port p = s.port p) : t.portView p = s.portView p := by
  rw [State.portView, State.portView, State.pState, State.pRateOf, State.get_of_pageWords hp (by cases p <;> rfl),
    State.get_of_pageWords hp (by cases p <;> rfl), hl]
  rfl

end

section
variable (s : State) (p q : Port)

theorem State.port_of_link {s t : State} (h : t.link = s.link) : t.port q = s.port q := by cases q <;> simp only [State.port.eq_def, h]

/-! ### Counts -/

theorem State.setPort_portView (x : LinkPort) : (s.setPort p x).portView p = (s.pState p, s.pRateOf p, x) := by cases p <;> rfl
theorem State.setPort_portView_other (x : LinkPort) : (s.setPort p x).portView p.other = s.portView p.other := by cases p <;> rfl
theorem State.setPort_get (x : LinkPort) (f : Fld) : (s.setPort p x).get f = s.get f := by cases p <;> rfl
theorem State.setPort_eyes (x : LinkPort) : (s.setPort p x).link.eyes = s.link.eyes := by cases p <;> rfl
theorem State.port_setPort (x : LinkPort) : (s.setPort p x).port p = x := by cases p <;> rfl

/-! ### Register fields -/

theorem State.set_portView {f : Fld} (hok : f.ok = true) (hs : f.apart (pstat q LINK.UPSTAT.STATE) = true)
    (hr : f.apart (pstat q LINK.UPSTAT.RATE) = true) (v : Nat) : (s.set f v).portView q = s.portView q := by
  rw [State.portView, State.portView, State.pState, State.pRateOf, State.get_set_ne _ _ _ _ hok hs, State.get_set_ne _ _ _ _ hok hr]
  cases q <;> rfl

theorem State.setState_portView {n : Nat} (hn : n < 8) : (s.set (pstat p LINK.UPSTAT.STATE) n).portView p = (n, s.pRateOf p, s.port p) := by
  refine State.portView_iff.2 ⟨State.set_getAll _ _ _ ?_ ?_, State.get_set_ne _ _ _ _ ?_ ?_, ?_⟩ <;> cases p <;> first | rfl | exact hn
theorem State.setState_portView_other (n : Nat) : (s.set (pstat p LINK.UPSTAT.STATE) n).portView p.other = s.portView p.other := by
  cases p <;> exact s.set_portView _ (by decide) (by decide) (by decide) n
theorem State.setRate_portView {n : Nat} (hn : n < 4) : (s.set (pstat p LINK.UPSTAT.RATE) n).portView p = (s.pState p, n, s.port p) := by
  refine State.portView_iff.2 ⟨State.get_set_ne _ _ _ _ ?_ ?_, State.set_getAll _ _ _ ?_ ?_, ?_⟩ <;> cases p <;> first | rfl | exact hn
theorem State.setRate_portView_other (n : Nat) : (s.set (pstat p LINK.UPSTAT.RATE) n).portView p.other = s.portView p.other := by
  cases p <;> exact s.set_portView _ (by decide) (by decide) (by decide) n

theorem State.linkStatus_get {f : Fld} (h : linkFlags.all (fun g => g.apart f) = true) : s.linkStatus.get f = s.get f := by
  have hcond (u : State) (i : Nat) (b : Bool) : (u.cond i b).get f = u.get f := by cases b <;> rfl
  simp only [linkFlags, List.all_cons, List.all_nil, Bool.and_true, Bool.and_eq_true] at h
  obtain ⟨h1, h2, h3, h4⟩ := h
  simp only [State.linkStatus, State.setB, State.get_set_ne _ _ _ _ (show LINK.UPSTAT.ORIG.ok = true from rfl) h4,
    State.get_set_ne _ _ _ _ (show LINK.DNSTAT.ORIG.ok = true from rfl) h3, hcond,
    State.get_set_ne _ _ _ _ (show LINK.STATUS.DNLINK.ok = true from rfl) h2, State.get_set_ne _ _ _ _ (show LINK.STATUS.UPLINK.ok = true from rfl) h1]

theorem State.linkStatus_link : s.linkStatus.link = s.link := State.link_of_without (c := []) (by decide) s.linkStatus_without

theorem State.linkStatus_portView : s.linkStatus.portView q = s.portView q := by
  have hport : s.linkStatus.port q = s.port q := State.port_of_link q s.linkStatus_link
  rw [State.portView, State.portView, State.pState, State.pRateOf, State.linkStatus_get _ (by cases q <;> decide),
    State.linkStatus_get _ (by cases q <;> decide), hport]
  rfl

/-! ### Moves of the training -/

theorem State.inc_portView {f : Fld} (hok : f.ok = true) (hs : f.apart (pstat q LINK.UPSTAT.STATE) = true)
    (hr : f.apart (pstat q LINK.UPSTAT.RATE) = true) : (s.inc f).portView q = s.portView q := s.set_portView q hok hs hr _

/-- A port that begins T0 (R328, R332). -/
theorem State.toT0_portView {r : Nat} (hr : r < 4) (u : Bool) : ∃ x, (s.toT0 p r u).portView p = (pT0, r, x) ∧ x.fromUp = u ∧
    x.full = (s.port p).full ∧ x.peer = none := by
  have htries (v : State) : (v.inc (pstat p LINK.UPSTAT.TRIES)).portView p = v.portView p := by
    cases p <;> exact v.inc_portView _ (by decide) (by decide) (by decide)
  have hbegun : (((s.set (pstat p LINK.UPSTAT.STATE) pT0).set (pstat p LINK.UPSTAT.RATE) r).inc (pstat p LINK.UPSTAT.TRIES)).portView p =
      (pT0, r, s.port p) := by
    obtain ⟨hst, -, hx⟩ := State.portView_iff.1 (s.setState_portView p (show pT0 < 8 by decide))
    rw [htries, State.setRate_portView _ _ hr, hst, hx]
  obtain ⟨hst, hrate, hx⟩ := State.portView_iff.1 hbegun
  refine ⟨_, ((State.linkStatus_portView _ p).trans (State.setPort_portView _ p _)).trans (by rw [hst, hrate]), rfl, ?_, rfl⟩
  have hfull := congrArg LinkPort.full hx
  exact hfull

theorem State.toT0_portView_other (r : Nat) (u : Bool) : (s.toT0 p r u).portView p.other = s.portView p.other := by
  have htries (v : State) : (v.inc (pstat p LINK.UPSTAT.TRIES)).portView p.other = v.portView p.other := by
    cases p <;> exact v.inc_portView _ (by decide) (by decide) (by decide)
  rw [State.toT0, State.linkStatus_portView, State.setPort_portView_other, htries, State.setRate_portView_other, State.setState_portView_other]

/-- The fields that the start of T0 writes. -/
def toT0Flags (p : Port) : List Fld := [pstat p LINK.UPSTAT.STATE, pstat p LINK.UPSTAT.RATE, pstat p LINK.UPSTAT.TRIES] ++ linkFlags

theorem State.toT0_get {f : Fld} (h : (toT0Flags p).all (fun g => g.apart f) = true) (r : Nat) (u : Bool) : (s.toT0 p r u).get f = s.get f := by
  rw [toT0Flags, List.all_append, Bool.and_eq_true] at h
  obtain ⟨hp, hflags⟩ := h
  simp only [List.all_cons, List.all_nil, Bool.and_true, Bool.and_eq_true] at hp
  obtain ⟨h1, h2, h3⟩ := hp
  rw [State.toT0, State.linkStatus_get _ hflags, State.setPort_get, State.inc, State.get_set_ne _ _ _ _ (by cases p <;> rfl) h3,
    State.get_set_ne _ _ _ _ (by cases p <;> rfl) h2, State.get_set_ne _ _ _ _ (by cases p <;> rfl) h1]

theorem State.toT0_eyes (r : Nat) (u : Bool) : (s.toT0 p r u).link.eyes = s.link.eyes := by
  rw [State.toT0, State.linkStatus_link, State.setPort_eyes]
  rfl

theorem State.toListen_portView : (s.toListen p).portView p = (pListen, 0, s.port p) := by
  obtain ⟨hst, -, hx⟩ := State.portView_iff.1 (s.setState_portView p (show pListen < 8 by decide))
  rw [State.toListen, State.linkStatus_portView, State.setRate_portView _ _ (by decide), hst, hx]

theorem State.toListen_portView_other : (s.toListen p).portView p.other = s.portView p.other := by
  rw [State.toListen, State.linkStatus_portView, State.setRate_portView_other, State.setState_portView_other]

theorem State.toListen_link : (s.toListen p).link = s.link := State.linkStatus_link _

section
variable {s p}

theorem State.phaseOf_eq {n : Nat} (h : s.pState p = n) (hn : n ≠ pRate) : s.phaseOf p = n := by
  rw [State.phaseOf, if_neg (by rwa [h]), h]

/-- A training but a rate tread moves on. -/
theorem State.toPhase_portView (h : s.pState p ≠ pRate) {n : Nat} (hn : n < 8) : (s.toPhase p n).portView p = (n, s.pRateOf p, s.port p) := by
  rw [State.toPhase, if_neg h, State.setState_portView _ _ hn]

theorem State.toPhase_portView_other (h : s.pState p ≠ pRate) (n : Nat) : (s.toPhase p n).portView p.other = s.portView p.other := by
  rw [State.toPhase, if_neg h, State.setState_portView_other]

theorem State.toT2_eq (h : s.pState p ≠ pRate) : ∃ x, s.toT2 p = (s.setPort p x).set (pstat p LINK.UPSTAT.STATE) pT2 ∧
    x.echoes = 0 ∧ x.probes = 0 ∧ x.full = (s.port p).full ∧ x.sweep = (s.port p).sweep := by
  refine ⟨LinkPort.probe { s.port p with probes := 0, echoes := 0, dSum := 0, prbOpen := [] }, ?_, rfl, rfl, rfl, rfl⟩
  · rw [State.toT2, State.toPhase, if_neg]
    rw [State.pState, State.setPort_get]
    exact h

end
end

end Sys2Proof.Machine
end
-- ==== Sys2Proof/Proofs/TrainingSteps.lean ====
section
/-! SUPPORT. Training of a port: detection, the eye sweep and the probes of the hop delay (R328 to R331). -/
namespace Sys2Proof.Machine

theorem exec_listenRateCycle_eq (p : Port) (s : State) : exec (.listenRateCycle p) s = whenActive [] s fun s =>
    if s.pState p = pListen then s.set (pstat p LINK.UPSTAT.RATE) ((s.pRateOf p + 1) % 3) else s := (rfl)
theorem exec_ts1Rx_eq (p : Port) (f : Byte) (ok : Bool) (s : State) : exec (.ts1Rx p f ok) s = whenActive [.link] s fun s => s.ts1 p f ok := (rfl)
theorem exec_trainingDetectDone_eq (p : Port) (s : State) : exec (.trainingDetectDone p) s = whenActive [.link] s fun s => s.detected p := (rfl)
theorem exec_trainingDetectTimeout_eq (p : Port) (s : State) : exec (.trainingDetectTimeout p) s = whenActive [] s fun s =>
    if s.pState p = pT0 ∧ (s.port p).fromUp = true then s.toListen p else s.replyEnd p := (rfl)
theorem exec_eyeSweepDone_eq (p : Port) (pos : List Bool) (h : pos.length = 64) (s : State) : exec (.eyeSweepDone p pos) s =
    whenActive [.link] s fun s => s.eyeSweep p pos := if_pos h
theorem exec_prbRx_eq (p : Port) (id : Byte) (res : Fin 1280) (s : State) : exec (.prbRx p id res) s =
    whenActive [.link] s fun s => s.prb p id.toNat res.val := (rfl)
theorem exec_echRx_eq (p : Port) (id : Byte) (res : Fin 1280) (rt : Nat) (s : State) : exec (.echRx p id res rt) s =
    whenActive [.link] s fun s => s.echo p id.toNat res.val rt := (rfl)
theorem exec_hopDelayDone_eq (p : Port) (s : State) : exec (.hopDelayDone p) s = whenActive [.link] s fun s => s.hopDone p := (rfl)

section
variable {s : State} {p : Port} (hact : s.pw.phase = .active)
include hact

/-! ### Listening and detection -/

theorem listen_cycles : exec (.listenRateCycle p) s =
    .next (if s.pState p = 1 then s.set (pstat p LINK.UPSTAT.RATE) ((s.pRateOf p + 1) % 3) else s) :=
  (exec_listenRateCycle_eq p s).trans (whenActive_becomes hact rfl (by rw [State.ite_without, State.set_without, ite_self]))

omit hact in
/-- TS1 on a listening port (R328, R330). -/
theorem State.ts1_listening {f : Byte} (h : s.pState p = 1) (hr : f.toNat % 4 < 3) : ∃ x, s.ts1 p f true =
    ((s.setB (pstat p LINK.UPSTAT.LOS) false).toT0 p (f.toNat % 4) false).setPort p x ∧ x.fromUp = false ∧
    x.full = ((s.port p).full || f.getLsbD 3) := by
  have hlos : (s.setB (pstat p LINK.UPSTAT.LOS) false).portView p = s.portView p := by
    cases p <;> exact s.set_portView _ (by decide) (by decide) (by decide) _
  obtain ⟨x, hx, hfrom, hfull, -⟩ := (s.setB (pstat p LINK.UPSTAT.LOS) false).toT0_portView p (show f.toNat % 4 < 4 by omega) false
  obtain ⟨hst, hrate, hport⟩ := State.portView_iff.1 hx
  have hphase := State.phaseOf_eq hst (by decide)
  have hnoRate : (pT0 != pRate) = true := rfl
  refine ⟨{ x with full := x.full || (f.getLsbD 3 && true), peer := some f }, ?_, hfrom, ?_⟩
  · rw [State.ts1, if_neg (by simp [h, pOff]; omega)]
    dsimp only
    rw [if_pos (show (s.setB (pstat p LINK.UPSTAT.LOS) false).pState p = pListen by rw [State.pState_of_portView hlos, h]; rfl),
      if_neg (by rw [hphase, hrate]; simp), hport, hst, hnoRate]
  · rw [Bool.and_true, hfull, State.port_of_portView hlos]

theorem ts1_answers {f : Byte} (h : s.pState p = 1) (hr : f.toNat % 4 < 3) : ∃ t, exec (.ts1Rx p f true) s = .next t ∧
    t.pState p = 2 ∧ t.pRateOf p = f.toNat % 4 ∧ (t.port p).fromUp = false ∧
    t.bit (pstat p LINK.UPSTAT.LOS) = false ∧ (t.port p).full = ((s.port p).full || f.getLsbD 3) ∧ t.pState p.other = s.pState p.other := by
  obtain ⟨x, heq, hfrom, hfull⟩ := State.ts1_listening h hr
  obtain ⟨y, hy, -⟩ := (s.setB (pstat p LINK.UPSTAT.LOS) false).toT0_portView p (show f.toNat % 4 < 4 by omega) false
  obtain ⟨hst, hrate, -⟩ := State.portView_iff.1 hy
  have hview := ((s.setB (pstat p LINK.UPSTAT.LOS) false).toT0 p (f.toNat % 4) false).setPort_portView p x
  obtain ⟨hst', hrate', hx⟩ := State.portView_iff.1 hview
  have hlos : (s.setB (pstat p LINK.UPSTAT.LOS) false).portView p.other = s.portView p.other := by
    cases p <;> exact s.set_portView _ (by decide) (by decide) (by decide) _
  refine ⟨_, (exec_ts1Rx_eq p f true s).trans (whenActive_becomes hact heq ?_), hst'.trans hst, hrate'.trans hrate, ?_, ?_, ?_, ?_⟩
  · rw [State.setPort_without _ (by decide), State.toT0_without _ (by decide), State.setB_without]
  · rw [hx, hfrom]
  · rw [State.bit, State.setPort_get, State.toT0_get _ _ (by cases p <;> decide), ← State.bit]
    cases p <;> exact State.bit_setB _ _ _ _ _ (by decide)
  · rw [hx, hfull]
  · exact State.pState_of_portView ((State.setPort_portView_other _ p x).trans ((State.toT0_portView_other _ p _ _).trans hlos))

theorem ts1_damaged (f : Byte) : exec (.ts1Rx p f false) s = .next s :=
  (exec_ts1Rx_eq p f false s).trans (whenActive_same hact (by rw [State.ts1, if_pos (.inl rfl)]))

omit hact in
/-- T0 ends (R328). -/
theorem State.detected_view (h : s.pState p = 2) : (s.detected p).portView p =
    (3, if (s.port p).full then 0 else s.pRateOf p, { s.port p with base := s.pRateOf p, sweep := 0 }) ∧
    (s.detected p).portView p.other = s.portView p.other := by
  have hst : (s.setPort p { s.port p with base := s.pRateOf p, sweep := 0 }).pState p ≠ pRate := by
    rw [State.pState, State.setPort_get, ← State.pState, h]
    decide
  have hview := State.toPhase_portView hst (n := pT1) (by decide)
  obtain ⟨-, hrate, hx⟩ := State.portView_iff.1 (s.setPort_portView p { s.port p with base := s.pRateOf p, sweep := 0 })
  rw [hrate, hx] at hview
  have hother := (State.toPhase_portView_other hst pT1).trans (s.setPort_portView_other p _)
  rw [State.detected, if_neg (by rw [State.phaseOf_eq h (by decide)]; decide), if_neg (by rw [h]; decide)]
  dsimp only
  split
  · obtain ⟨hst', -, hx'⟩ := State.portView_iff.1 hview
    rw [State.setRate_portView _ _ (by decide), State.setRate_portView_other, hst', hx']
    exact ⟨rfl, hother⟩
  · exact ⟨hview, hother⟩

omit hact in
theorem State.detected_without : (s.detected p).without [.link] = s.without [.link] := by
  simp only [State.detected, State.toT2, State.toPhase, State.ite_without, State.set_without, State.setPort_without (c := [.link]) _ (by decide),
    ite_self]

theorem detected_sweeps (h : s.pState p = 2) : ∃ t, exec (.trainingDetectDone p) s = .next t ∧ t.pState p = 3 ∧
    (t.port p).base = s.pRateOf p ∧ (t.port p).sweep = 0 ∧ t.pRateOf p = (if (s.port p).full then 0 else s.pRateOf p) ∧
    t.pState p.other = s.pState p.other := by
  obtain ⟨hview, hother⟩ := State.detected_view h
  obtain ⟨hst, hrate, hx⟩ := State.portView_iff.1 hview
  exact ⟨_, (exec_trainingDetectDone_eq p s).trans (whenActive_becomes hact rfl State.detected_without), hst, by rw [hx], by rw [hx], hrate,
    State.pState_of_portView hother⟩

/-! ### Detection that ends without a peer -/

theorem detect_listens (h : s.pState p = 2) (hfrom : (s.port p).fromUp = true) : ∃ t, exec (.trainingDetectTimeout p) s = .next t ∧
    t.pState p = 1 ∧ t.pRateOf p = 0 ∧ t.link = s.link := by
  obtain ⟨hst, hrate, -⟩ := State.portView_iff.1 (s.toListen_portView p)
  exact ⟨_, (exec_trainingDetectTimeout_eq p s).trans (whenActive_becomes hact (if_pos ⟨h, hfrom⟩) (State.toListen_without _ p)), hst, hrate,
    s.toListen_link p⟩

theorem detect_waits (h : s.pState p ≠ 2 ∨ ((s.port p).fromUp = false ∧ s.linkUp p.other = true)) :
    exec (.trainingDetectTimeout p) s = .next s := by
  refine (exec_trainingDetectTimeout_eq p s).trans (whenActive_same hact ?_)
  rcases h with h | ⟨hfrom, hup⟩
  · rw [if_neg (fun hc => h hc.1), State.replyEnd, if_neg (fun hc => h hc.1)]
  · rw [if_neg (fun hc => by rw [hfrom] at hc; exact Bool.false_ne_true hc.2), State.replyEnd,
      if_neg (fun hc => by rw [hup] at hc; exact Bool.false_ne_true hc.2.2.symm)]

theorem reply_listens (h : s.pState p = 2) (hfrom : (s.port p).fromUp = false) (hup : s.linkUp p.other = false) :
    ∃ t, exec (.trainingDetectTimeout p) s = .next t ∧ t.pState p = 1 ∧ t.pRateOf p = 0 ∧ t.pState p.other = s.pState p.other := by
  obtain ⟨hst, hrate, -⟩ := State.portView_iff.1 (s.toListen_portView p)
  have heq : (if s.pState p = pT0 ∧ (s.port p).fromUp = true then s.toListen p else s.replyEnd p) = s.toListen p := by
    rw [if_neg (fun hc => by rw [hfrom] at hc; exact Bool.false_ne_true hc.2), State.replyEnd, if_pos ⟨h, hfrom, hup⟩]
  exact ⟨_, (exec_trainingDetectTimeout_eq p s).trans (whenActive_becomes hact heq (State.toListen_without _ p)), hst, hrate,
    State.pState_of_portView (s.toListen_portView_other p)⟩

/-! ### Probes -/

theorem probe_answered (h : s.phaseOf p = 4) (id : Byte) (res : Fin 1280) : exec (.prbRx p id res) s = .next (s.setPort p { s.port p with
      probes := min ((s.port p).probes + 1) 128, ech := some (id.toNat, res.val), prbNext := ((s.port p).prbNext + 1) % 256,
      prbOpen := (s.port p).prbNext :: (s.port p).prbOpen.erase (s.port p).prbNext }) :=
  (exec_prbRx_eq p id res s).trans (whenActive_becomes hact (if_neg (by rw [h]; decide)) (State.setPort_without _ (by decide) _ _))

theorem echo_counts (h : s.phaseOf p = 4) (he : (s.port p).echoes < 128) {id : Byte} (hid : id.toNat ∈ (s.port p).prbOpen) (res : Fin 1280)
    (rt : Nat) : exec (.echRx p id res rt) s = .next (s.setPort p { s.port p with
      echoes := (s.port p).echoes + 1, dSum := (s.port p).dSum + ((rt : Int) - 81920 - (res.val : Int)),
      prbOpen := (s.port p).prbOpen.erase id.toNat }) :=
  (exec_echRx_eq p id res rt s).trans (whenActive_becomes hact (if_neg (by
    rw [h]
    simp [hid, pT2]
    omega)) (State.setPort_without _ (by decide) _ _))

theorem echo_unknown {id : Byte} (hid : id.toNat ∉ (s.port p).prbOpen) (res : Fin 1280) (rt : Nat) : exec (.echRx p id res rt) s = .next s :=
  (exec_echRx_eq p id res rt s).trans (whenActive_same hact (if_pos (.inr (.inr (by simpa using hid)))))

theorem hop_waits (h : (s.port p).echoes < 128 ∨ (s.port p).probes < 128) : exec (.hopDelayDone p) s = .next s :=
  (exec_hopDelayDone_eq p s).trans (whenActive_same hact (if_pos (.inr h)))

theorem hop_measured (h : s.pState p = 4) (he : 128 ≤ (s.port p).echoes) (hp : 128 ≤ (s.port p).probes) :
    ∃ t, exec (.hopDelayDone p) s = .next t ∧ t.pState p = 5 ∧ t.hopD p = twos 32 (roundRat ((s.port p).dSum / 256)) ∧ t.link = s.link := by
  have hst : ∀ v, (s.set2 (hopFld p) v).portView p = s.portView p := fun v => by
    cases p <;> exact (State.set_portView _ _ (by decide) (by decide) (by decide) _).trans (State.set_portView _ _ (by decide) (by decide) (by decide) _)
  have hdone : s.hopDone p = (s.set2 (hopFld p) (twos 32 (roundRat ((s.port p).dSum / 256)))).set (pstat p LINK.UPSTAT.STATE) pT3 := by
    rw [State.hopDone, if_neg (by rw [State.phaseOf_eq h (by decide)]; simp [pT2]; omega), State.toPhase, if_neg]
    rw [State.pState_of_portView (hst _), h]
    decide
  refine ⟨_, (exec_hopDelayDone_eq p s).trans (whenActive_becomes hact hdone ?_), ?_, ?_, rfl⟩
  · rw [State.set_without, State.set2, State.set_without, State.set_without]
  · exact (State.portView_iff.1 (State.setState_portView _ p (by decide))).1
  · have hok : (pstat p LINK.UPSTAT.STATE).ok = true := by cases p <;> rfl
    have hlow : (pstat p LINK.UPSTAT.STATE).apart (hopFld p) = true := by cases p <;> rfl
    have hhigh : (pstat p LINK.UPSTAT.STATE).apart ((hopFld p).plus 1) = true := by cases p <;> rfl
    rw [State.hopD, State.get2, State.get_set_ne _ _ _ _ hok hlow, State.get_set_ne _ _ _ _ hok hhigh, ← State.get2]
    exact State.get2_set2 _ _ (by cases p <;> rfl) (by cases p <;> rfl) (twos_lt _ _)

end

end Sys2Proof.Machine
end
-- ==== Sys2Proof/Proofs/EyeSweeps.lean ====
section
/-! SUPPORT. The eye records and the sweep of a training (R329, R330). -/
namespace Sys2Proof.Machine

section
variable (s : State)

/-! ### A new width -/

theorem State.eyeEval_pageWords {p : Nat} (h : 0x1B ≠ p) : s.eyeEval.pageWords p = s.pageWords p := by
  have hrec (n : Nat) : (s.healthSet { HEALTH.RATEREC with w := 2 } n (some hRATEREC)).pageWords p = s.pageWords p :=
    s.healthSet_pageWords _ _ _ h h (by rintro _ ⟨⟩; exact h)
  have hite : (if s.get { HEALTH.RATEREC with w := 2 } = ((List.range 3).find? s.rateOk).getD 3 then s
      else s.healthSet { HEALTH.RATEREC with w := 2 } (((List.range 3).find? s.rateOk).getD 3) (some hRATEREC)).pageWords p = s.pageWords p := by
    rw [State.ite_pageWords, hrec, ite_self]
  rw [State.eyeEval, State.healthStatus, State.set_pageWords _ (show (⟨0x1B, 0x02, 0, 4⟩ : Fld).addr / 64 ≠ p from h), State.cond_pageWords]
  exact hite

theorem State.eyeNew_pageWords {l : Nat} (hl : l < 4) (r w : Nat) : (s.eyeNew l r w).pageWords 4 = s.pageWords 4 := by
  have hpage : (HEALTH.EYEURX.plus l).addr / 64 ≠ 4 := by
    have : ∀ l < 4, (HEALTH.EYEURX.plus l).addr / 64 ≠ 4 := by decide
    exact this l hl
  rw [State.eyeNew, State.eyeEval_pageWords _ (by decide), State.healthSet_pageWords _ _ _ _ (by decide) hpage (by rintro _ ⟨⟩), State.ite_pageWords]
  exact ite_self _

/-- A new width at the rate in use is the monitor's; at any rate the ports stand. -/
theorem State.eyeNew_link (l r w : Nat) : (s.eyeNew l r w).link =
    if r = s.link.rate then { s.link with eyeNow := put s.link.eyeNow l (some w) } else s.link := by
  have heval (u : State) : u.eyeEval.link = u.link := State.link_of_without (c := []) (by decide) (u.eyeEval_without _)
  have hset (u : State) (f : Fld) (v : Nat) : (u.healthSet f v none).link = u.link :=
    State.link_of_without (c := []) (by decide) (State.healthSet_without u f v none _)
  rw [State.eyeNew, heval, hset]
  split <;> rfl

theorem State.eyeNew_portView {l : Nat} (hl : l < 4) (r w : Nat) (p : Port) : (s.eyeNew l r w).portView p = s.portView p := by
  refine State.portView_of (s.eyeNew_pageWords hl r w) ?_
  cases p <;> simp only [State.port.eq_def, State.eyeNew_link] <;> split <;> rfl

theorem State.healthSet_get {f g : Fld} (hf : f.ok = true) (h : f.apart g = true) (h0 : HEALTH.LTC0.apart g = true)
    (h1 : (HEALTH.LTC0.plus 1).apart g = true) (h2 : (HEALTH.LTC0.plus 2).apart g = true) (v : Nat) {ev : Option Fld}
    (he : ∀ e, ev = some e → e.ok = true ∧ e.apart g = true) : (s.healthSet f v ev).get g = s.get g := by
  have hset : ((s.set f v).set3 HEALTH.LTC0 s.tm.ltc).get g = s.get g := by
    rw [State.set3, State.get_set_ne _ _ _ _ rfl h2, State.set2, State.get_set_ne _ _ _ _ rfl h1, State.get_set_ne _ _ _ _ rfl h0,
      State.get_set_ne _ _ _ _ hf h]
  unfold State.healthSet
  dsimp only
  split
  · next e =>
    obtain ⟨hok, hne⟩ := he e rfl
    split
    · exact hset
    · rw [State.evt, State.get_set_ne _ _ _ _ hok hne, hset]
  · exact hset

/-- The HEALTH word of a lane after its sweep (R329). -/
theorem State.eyeNew_get {l : Nat} (hl : l < 2) (r w : Nat) :
    (s.eyeNew l r w).get (HEALTH.EYEURX.plus l) = (w + 64 * r + 256) % 65536 := by
  have hflds : ∀ l < 2, ({ HEALTH.RATEREC with w := 2 } : Fld).apart (HEALTH.EYEURX.plus l) = true ∧ HEALTH.LTC0.apart (HEALTH.EYEURX.plus l) = true ∧
      (HEALTH.LTC0.plus 1).apart (HEALTH.EYEURX.plus l) = true ∧ (HEALTH.LTC0.plus 2).apart (HEALTH.EYEURX.plus l) = true ∧
      hRATEREC.apart (HEALTH.EYEURX.plus l) = true ∧ (⟨0x1B, 0x02, 0, 4⟩ : Fld).apart (HEALTH.EYEURX.plus l) = true := by decide
  obtain ⟨hrec, h0, h1, h2, hevt, hstatus⟩ := hflds l hl
  have hcond (u : State) (i : Nat) (b : Bool) (f : Fld) : (u.cond i b).get f = u.get f := by cases b <;> rfl
  have heval (u : State) : u.eyeEval.get (HEALTH.EYEURX.plus l) = u.get (HEALTH.EYEURX.plus l) := by
    rw [State.eyeEval, State.healthStatus, State.get_set_ne _ _ _ _ rfl hstatus, hcond]
    split
    · rfl
    · exact State.healthSet_get _ rfl hrec h0 h1 h2 _ (by rintro _ ⟨⟩; exact ⟨rfl, hevt⟩)
  have hset (u : State) : (u.healthSet (HEALTH.EYEURX.plus l) (w + 64 * r + 256) none).get (HEALTH.EYEURX.plus l) = (w + 64 * r + 256) % 65536 := by
    rw [State.healthSet, State.set3, State.get_set_ne _ _ _ _ rfl h2, State.set2, State.get_set_ne _ _ _ _ rfl h1,
      State.get_set_ne _ _ _ _ rfl h0]
    exact State.get_set _ _ _ rfl
  rw [State.eyeNew, heval, hset]

/-! ### The sweep -/

theorem Port.no_lt (p : Port) : p.no < 2 := by cases p <;> decide

/-- The sweep has its width: the rate in use follows it where no other port is up. -/
def State.swept (s : State) (p : Port) (w : Nat) : State :=
  (if s.linkUp p.other then s else s.useRate (s.port p).base).setPort p
    (if s.pRateOf p = (s.port p).base then { s.port p with swept := some w } else s.port p)

theorem State.useRate_portView (r : Nat) (p : Port) : (s.useRate r).portView p = s.portView p := by
  unfold State.useRate
  split
  · rfl
  · cases p <;> rfl

theorem State.useRate_eyes (r : Nat) : (s.useRate r).link.eyes = if r = s.link.rate then s.link.eyes else (r, [], s.link.eyeFull) := by
  unfold State.useRate
  split <;> rfl

variable {s} {p : Port} {w : Nat}

theorem State.swept_portView : ∃ x, (s.swept p w).portView p = (s.pState p, s.pRateOf p, x) ∧ x.full = (s.port p).full ∧
    x.sweep = (s.port p).sweep ∧ x.base = (s.port p).base := by
  refine ⟨if s.pRateOf p = (s.port p).base then { s.port p with swept := some w } else s.port p, ?_, ?_⟩
  · have hrate : (if s.linkUp p.other then s else s.useRate (s.port p).base).portView p = s.portView p := by
      split
      · rfl
      · exact s.useRate_portView _ p
    rw [State.swept, State.setPort_portView, State.pState_of_portView hrate, State.pRateOf_of_portView hrate]
  · split <;> exact ⟨rfl, rfl, rfl⟩

theorem State.swept_eyeFull : (s.swept p w).link.eyeFull = s.link.eyeFull := by
  have hset := congrArg (·.2.2) (State.setPort_eyes (if s.linkUp p.other then s else s.useRate (s.port p).base) p
    (if s.pRateOf p = (s.port p).base then { s.port p with swept := some w } else s.port p))
  refine Eq.trans hset ?_
  split
  · rfl
  · refine (congrArg (·.2.2) (s.useRate_eyes _)).trans ?_
    split <;> rfl

/-- Where no other port is up, the rate in use is that of the sets found. -/
theorem State.swept_rate (h : s.linkUp p.other = false) : (s.swept p w).link.rate = (s.port p).base := by
  have hset := congrArg (·.1) (State.setPort_eyes (if s.linkUp p.other then s else s.useRate (s.port p).base) p
    (if s.pRateOf p = (s.port p).base then { s.port p with swept := some w } else s.port p))
  refine Eq.trans hset ?_
  rw [if_neg (by simp [h])]
  refine (congrArg (·.1) (s.useRate_eyes _)).trans ?_
  split
  · next he => exact he.symm
  · rfl

/-- A full training notes the width at its rate. -/
def State.sweepNoted (s : State) (p : Port) (w : Nat) : State :=
  ({ s.swept p w with link := { (s.swept p w).link with eyeFull := put s.link.eyeFull (4 * s.pRateOf p + p.no) (some w) } }).eyeNew p.no
    (s.pRateOf p) w

theorem State.sweepNoted_portView : (s.sweepNoted p w).portView p = (s.swept p w).portView p := by
  have hkeep (u : State) (m : SMap (Option Nat)) : ({ u with link := { u.link with eyeFull := m } } : State).portView p = u.portView p := by
    cases p <;> rfl
  rw [State.sweepNoted, State.eyeNew_portView _ (lt_trans (Port.no_lt p) (by decide)), hkeep]

theorem State.sweepNoted_look : look (s.sweepNoted p w).link.eyes.2.2 (4 * s.pRateOf p + p.no) = some w := by
  rw [State.sweepNoted, Link.eyes, State.eyeNew_link]
  split <;> exact look_put_self s.link.eyeFull _ (some w)

theorem State.eyeSweep_eq {pos : List Bool} (h : s.pState p = 3) : ∃ x, x.full = (s.port p).full ∧ x.sweep = (s.port p).sweep ∧
    x.base = (s.port p).base ∧ (s.swept p (eyeWidth pos)).portView p = (3, s.pRateOf p, x) ∧
    s.eyeSweep p pos = if x.full then
      (if 2 ≤ x.sweep then ((s.sweepNoted p (eyeWidth pos)).set (pstat p LINK.UPSTAT.RATE) x.base).toT2 p
       else ((s.sweepNoted p (eyeWidth pos)).setPort p { x with sweep := x.sweep + 1 }).set (pstat p LINK.UPSTAT.RATE) (x.sweep + 1))
      else ((s.swept p (eyeWidth pos)).eyeNew p.no (s.pRateOf p) (eyeWidth pos)).toT2 p := by
  obtain ⟨x, hx, hfull, hsweep, hbase⟩ := State.swept_portView (s := s) (p := p) (w := eyeWidth pos)
  refine ⟨x, hfull, hsweep, hbase, by rw [hx, h], ?_⟩
  have hport : x = if s.pRateOf p = (s.port p).base then { s.port p with swept := some (eyeWidth pos) } else s.port p :=
    ((State.portView_iff.1 hx).2.2.symm).trans (State.port_setPort _ p _)
  rw [State.sweepNoted, ← State.swept_eyeFull (s := s) (p := p) (w := eyeWidth pos), hport, State.eyeSweep, if_neg (by rw [h]; decide)]
  rfl

/-- T2 begins (R331). -/
theorem State.toT2_view (h : s.pState p ≠ pRate) : ∃ x, (s.toT2 p).portView p = (pT2, s.pRateOf p, x) ∧ x.echoes = 0 ∧ x.probes = 0 ∧
    (s.toT2 p).link.eyes = s.link.eyes ∧ ∀ f, (pstat p LINK.UPSTAT.STATE).apart f = true → (s.toT2 p).get f = s.get f := by
  obtain ⟨x, heq, hechoes, hprobes, -⟩ := State.toT2_eq h
  refine ⟨x, ?_, hechoes, hprobes, ?_, fun f hf => ?_⟩
  · obtain ⟨-, hrate, hx⟩ := State.portView_iff.1 (s.setPort_portView p x)
    rw [heq, State.setState_portView _ _ (by decide), hrate, hx]
  · rw [heq]
    exact s.setPort_eyes p x
  · rw [heq, State.get_set_ne _ _ _ _ (by cases p <;> rfl) hf, State.setPort_get]

section
variable {c : List Part} (hc : Part.link ∈ c)
include hc

theorem State.toPhase_without (n : Nat) : (s.toPhase p n).without c = s.without c := by
  rw [State.toPhase, State.ite_without, State.set_without, State.setPort_without _ hc, ite_self]

theorem State.toT2_without : (s.toT2 p).without c = s.without c := by
  rw [State.toT2, State.toPhase_without hc, State.setPort_without _ hc]

theorem State.swept_without : (s.swept p w).without c = s.without c := by
  rw [State.swept, State.setPort_without _ hc, State.ite_without, State.useRate_without _ hc, ite_self]

theorem State.eyeSweep_without (pos : List Bool) : (s.eyeSweep p pos).without c = s.without c := by
  by_cases h : s.pState p = 3
  · obtain ⟨x, -, -, -, -, heq⟩ := State.eyeSweep_eq (pos := pos) h
    simp only [heq, State.sweepNoted, State.toT2_without hc, State.ite_without, State.set_without, State.setPort_without _ hc,
      State.eyeNew_without _ hc, State.withLink_without _ hc, State.swept_without hc, ite_self]
  · rw [State.eyeSweep, if_pos (show s.pState p ≠ pT1 from h)]

end

section
variable (hact : s.pw.phase = .active) {pos : List Bool} (hpos : pos.length = 64)
include hact hpos

theorem exec_eyeSweepDone_next : exec (.eyeSweepDone p pos) s = .next (s.eyeSweep p pos) :=
  (exec_eyeSweepDone_eq p pos hpos s).trans (whenActive_becomes hact rfl (State.eyeSweep_without (by decide) pos))

variable (h : s.pState p = 3)
include h

/-- A sweep outside a full training (R329). -/
theorem sweep_short (hf : (s.port p).full = false) : ∃ t, exec (.eyeSweepDone p pos) s = .next t ∧ t.pState p = 4 ∧
    (t.port p).echoes = 0 ∧ (t.port p).probes = 0 ∧
    t.get (HEALTH.EYEURX.plus p.no) = (eyeWidth pos + 64 * s.pRateOf p + 256) % 65536 ∧
    (s.linkUp p.other = false → (s.port p).base = s.pRateOf p → look t.link.eyeNow p.no = some (eyeWidth pos)) := by
  obtain ⟨x, hfull, -, -, hview, heq⟩ := State.eyeSweep_eq (pos := pos) h
  rw [if_neg (by rw [hfull, hf]; decide)] at heq
  have hno : p.no < 4 := lt_trans (Port.no_lt p) (by decide)
  have hst := (State.pState_of_portView ((s.swept p (eyeWidth pos)).eyeNew_portView hno (s.pRateOf p) (eyeWidth pos) p)).trans
    (State.portView_iff.1 hview).1
  obtain ⟨y, hy, hechoes, hprobes, heyes, hget⟩ := State.toT2_view (by rw [hst]; decide)
  obtain ⟨hst', -, hport⟩ := State.portView_iff.1 hy
  have hapart : (pstat p LINK.UPSTAT.STATE).apart (HEALTH.EYEURX.plus p.no) = true := by cases p <;> rfl
  refine ⟨_, exec_eyeSweepDone_next hact hpos, ?_⟩
  rw [heq]
  refine ⟨hst', by rw [hport, hechoes], by rw [hport, hprobes], (hget _ hapart).trans (State.eyeNew_get _ (Port.no_lt p) _ _), fun hup hbase => ?_⟩
  refine (congrArg (look · p.no) (congrArg (·.2.1) heyes)).trans ?_
  rw [Link.eyes, State.eyeNew_link,
    if_pos (by rw [State.swept_rate hup, hbase])]
  exact look_put_self (s.swept p (eyeWidth pos)).link.eyeNow p.no (some (eyeWidth pos))

section
variable (hf : (s.port p).full = true)
include hf

/-- A sweep of a full training before its last rate (R330). -/
theorem sweep_continues (hw : (s.port p).sweep < 2) : ∃ t, exec (.eyeSweepDone p pos) s = .next t ∧ t.pState p = 3 ∧
    (t.port p).sweep = (s.port p).sweep + 1 ∧ t.pRateOf p = (s.port p).sweep + 1 ∧
    look t.link.eyeFull (4 * s.pRateOf p + p.no) = some (eyeWidth pos) := by
  obtain ⟨x, hfull, hsweep, -, hview, heq⟩ := State.eyeSweep_eq (pos := pos) h
  rw [if_pos (hfull.trans hf), if_neg (by omega)] at heq
  obtain ⟨hst, -, -⟩ := State.portView_iff.1 (State.sweepNoted_portView.trans hview)
  obtain ⟨hst', -, hx⟩ := State.portView_iff.1 ((s.sweepNoted p (eyeWidth pos)).setPort_portView p { x with sweep := x.sweep + 1 })
  have hset := State.setRate_portView ((s.sweepNoted p (eyeWidth pos)).setPort p { x with sweep := x.sweep + 1 }) p
    (show x.sweep + 1 < 4 by omega)
  obtain ⟨hst'', hrate, hport⟩ := State.portView_iff.1 hset
  refine ⟨_, exec_eyeSweepDone_next hact hpos, ?_⟩
  rw [heq, hst'', hrate, hport, hst', hx, hst, ← hsweep]
  refine ⟨rfl, rfl, rfl, ?_⟩
  exact (congrArg (look · _) (congrArg (·.2.2) (State.setPort_eyes _ p _))).trans State.sweepNoted_look

/-- The last sweep of a full training; T2 runs at the rate of the sets (R330). -/
theorem sweep_ends (hw : 2 ≤ (s.port p).sweep) : ∃ t, exec (.eyeSweepDone p pos) s = .next t ∧ t.pState p = 4 ∧
    t.pRateOf p = (s.port p).base % 4 ∧ look t.link.eyeFull (4 * s.pRateOf p + p.no) = some (eyeWidth pos) := by
  obtain ⟨x, hfull, hsweep, hbase, hview, heq⟩ := State.eyeSweep_eq (pos := pos) h
  rw [if_pos (hfull.trans hf), if_pos (by omega)] at heq
  obtain ⟨hst, -, -⟩ := State.portView_iff.1 (State.sweepNoted_portView.trans hview)
  have hapart : (pstat p LINK.UPSTAT.RATE).apart (pstat p LINK.UPSTAT.STATE) = true := by cases p <;> rfl
  have hok : (pstat p LINK.UPSTAT.RATE).ok = true := by cases p <;> rfl
  have hrate : ((s.sweepNoted p (eyeWidth pos)).set (pstat p LINK.UPSTAT.RATE) x.base).pRateOf p = x.base % 4 := by
    have hw : (pstat p LINK.UPSTAT.RATE).w = 2 := by cases p <;> rfl
    rw [State.pRateOf, State.get_set _ _ _ hok, hw]
    rfl
  have hst' : ((s.sweepNoted p (eyeWidth pos)).set (pstat p LINK.UPSTAT.RATE) x.base).pState p = 3 :=
    (State.get_set_ne _ _ _ _ hok hapart).trans hst
  obtain ⟨y, hy, -, -, heyes, -⟩ := State.toT2_view (by rw [hst']; decide)
  obtain ⟨hst'', hrate', -⟩ := State.portView_iff.1 hy
  have hkeep (u : State) (f : Fld) (v : Nat) : (u.set f v).link.eyes = u.link.eyes := rfl
  rw [hkeep] at heyes
  refine ⟨_, exec_eyeSweepDone_next hact hpos, ?_⟩
  rw [heq, hst'', hrate', hrate]
  refine ⟨rfl, by rw [hbase], ?_⟩
  exact (congrArg (look · _) (congrArg (·.2.2) heyes)).trans State.sweepNoted_look

end
end

end

end Sys2Proof.Machine
end
-- ==== Sys2Proof/Proofs/LinkTraining.lean ====
section
/-! O43. The end of a training: both hop delays compared, and the port in link-up (R328, R331). -/
namespace Sys2Proof.Machine

theorem exec_trainingReportDone_eq (p : Port) (f eye : Byte) (eyes : List Byte) (d : BitVec 32) (h : eyes.length = 3) (s : State) :
    exec (.trainingReportDone p f eye eyes d) s = whenActive [.xact, .link] s fun s => s.reportDone p f eye eyes d.toNat := if_pos h

/-- The event of a port that comes up. -/
def upEvt (p : Port) : Fld := match p with | .up => LINK.EVT.UPUP | .dn => LINK.EVT.DNUP

section
variable {s : State} {p : Port}

/-! ### A port comes up -/

theorem Port.eq_other {p q : Port} (h : q ≠ p) : q = p.other := by
  cases p <;> cases q <;> simp [Port.other] at h ⊢

theorem State.pRateOf_lt (s : State) (p : Port) : s.pRateOf p < 4 := by
  cases p <;> exact Nat.mod_lt _ (by decide)

/-- Where every port that is up runs at the line rate, nothing clashes. -/
theorem State.rateClash_same (h : ∀ q, s.linkUp q = true → s.pRateOf q = s.link.rate) : s.rateClash = s := by
  unfold State.rateClash
  split
  · rfl
  · next q _ =>
    have hrate : (if s.linkUp q then s.useRate (s.pRateOf q) else s) = s := by
      split
      · next hq => exact if_pos (h q hq)
      · rfl
    have hboth : ¬ ((s.linkUp .up && s.linkUp .dn && s.pRateOf .up != s.pRateOf .dn) = true) := by
      intro hc
      simp only [Bool.and_eq_true, bne_iff_ne] at hc
      exact hc.2 ((h _ hc.1.1).trans (h _ hc.1.2).symm)
    dsimp only
    rw [hrate, if_neg hboth]

/-- What a port that begins beside another leaves of that other. -/
theorem State.trainBeside_keeps : (s.trainBeside p.other).portView p = s.portView p ∧ (s.trainBeside p.other).link.eyes = s.link.eyes ∧
    (∀ f, (toT0Flags p.other).all (fun g => g.apart f) = true → (s.trainBeside p.other).get f = s.get f) ∧
    (s.pState p.other ≠ pListen → s.trainBeside p.other = s) ∧ (s.linkUp p.other = false → (s.trainBeside p.other).linkUp p.other = false) := by
  have hlt : s.pRateOf p.other.other < 4 := State.pRateOf_lt _ _
  unfold State.trainBeside
  split
  · next h =>
    have hlisten : s.pState p.other = pListen := by
      simp only [Bool.and_eq_true, beq_iff_eq] at h
      exact h.1.2
    have hview := s.toT0_portView_other p.other (s.pRateOf p.other.other) false
    obtain ⟨x, hx, -⟩ := s.toT0_portView p.other hlt false
    obtain ⟨hst, -, -⟩ := State.portView_iff.1 hx
    rw [Port.other_other] at hview ⊢
    refine ⟨hview, s.toT0_eyes _ _ _, fun f hf => s.toT0_get _ hf _ _, fun hn => absurd hlisten hn, fun _ => ?_⟩
    rw [Port.other_other] at hst
    rw [State.linkUp, hst]
    rfl
  · exact ⟨rfl, rfl, fun _ _ => rfl, fun _ => rfl, fun h => h⟩

/-- The counts of a port that has come up. -/
def LinkPort.cameUp (x : LinkPort) : LinkPort :=
  { x with full := false, own := true, wait := true, lost := false, tmkAt := none, cvRun := 0, noTmk := 0, tmk := false }

/-- A port in link-up before its rate is compared: its counts, its state and its event. -/
def State.upNoted (s : State) (p : Port) : State :=
  (((s.setPort p (s.port p).cameUp).set (pstat p LINK.UPSTAT.STATE) pUp).set (pstat p LINK.UPSTAT.TRIES) 0).evt (upEvt p)

theorem State.portUp_eq (s : State) (p : Port) : s.portUp p = (let u := s.upNoted p
    let v := if !u.linkUp p.other || u.source? == some p then u.useRate (u.pRateOf p) else u
    (v.rateClash.trainBeside p.other).linkStatus.planEval) := by cases p <;> rfl

theorem State.upNoted_portView : (s.upNoted p).portView p = (pUp, s.pRateOf p, (s.port p).cameUp) := by
  have htries (v : State) : ((v.set (pstat p LINK.UPSTAT.TRIES) 0).evt (upEvt p)).portView p = v.portView p := by
    cases p <;> exact (State.set_portView _ _ (by decide) (by decide) (by decide) _).trans (State.set_portView _ _ (by decide) (by decide) (by decide) _)
  obtain ⟨-, hrate, hx⟩ := State.portView_iff.1 (s.setPort_portView p (s.port p).cameUp)
  rw [State.upNoted, htries, State.setState_portView _ _ (by decide), hrate, hx]

theorem State.upNoted_portView_other : (s.upNoted p).portView p.other = s.portView p.other := by
  have htries (v : State) : ((v.set (pstat p LINK.UPSTAT.TRIES) 0).evt (upEvt p)).portView p.other = v.portView p.other := by
    cases p <;> exact (State.set_portView _ _ (by decide) (by decide) (by decide) _).trans (State.set_portView _ _ (by decide) (by decide) (by decide) _)
  rw [State.upNoted, htries, State.setState_portView_other, State.setPort_portView_other]

theorem State.upNoted_eyes : (s.upNoted p).link.eyes = s.link.eyes := s.setPort_eyes p _

theorem State.planEval_link : s.planEval.link = s.link := State.link_of_without (c := [.xact]) (by decide) (s.planEval_without (by decide))

theorem State.planEval_portView (q : Port) : s.planEval.portView q = s.portView q :=
  State.portView_of (s.planEval_pageWords (by decide)) (State.port_of_link q s.planEval_link)

/-- A port comes up beside one that is not, or that runs at its rate (R328). -/
theorem State.portUp_shows (h : s.linkUp p.other = false ∨ s.pRateOf p.other = s.pRateOf p ∧ s.link.rate = s.pRateOf p) :
    (s.portUp p).linkUp p = true ∧ (s.portUp p).linkUp p.other = s.linkUp p.other ∧ ((s.portUp p).port p).full = false ∧
    (s.portUp p).link.rate = s.pRateOf p ∧ (s.portUp p).bit (upEvt p) = true := by
  have hother := State.linkUp_of_portView (State.upNoted_portView_other (s := s) (p := p))
  have hotherRate := State.pRateOf_of_portView (State.upNoted_portView_other (s := s) (p := p))
  obtain ⟨hst, hrate, hx⟩ := State.portView_iff.1 (State.upNoted_portView (s := s) (p := p))
  have hueyes : (s.upNoted p).link.rate = s.link.rate := congrArg (·.1) (State.upNoted_eyes (s := s) (p := p))
  have huevt : (s.upNoted p).bit (upEvt p) = true := by cases p <;> exact State.bit_evt _ _ _ _ (by decide)
  rw [State.portUp_eq]
  generalize s.upNoted p = u at hother hotherRate hst hrate hx hueyes huevt
  obtain ⟨v, hv⟩ : ∃ v, v = if !u.linkUp p.other || u.source? == some p then u.useRate (u.pRateOf p) else u := ⟨_, rfl⟩
  have hview (q : Port) : v.portView q = u.portView q := by
    rw [hv]
    split
    · exact u.useRate_portView _ q
    · rfl
  have hvrate : v.link.rate = s.pRateOf p := by
    have huse : (u.useRate (u.pRateOf p)).link.rate = s.pRateOf p := by
      refine (congrArg (·.1) (u.useRate_eyes _)).trans ?_
      split
      · next he => exact he.symm.trans hrate
      · exact hrate
    rw [hv]
    split
    · exact huse
    · next hc =>
      rcases h with hup | ⟨-, hline⟩
      · simp [hother, hup] at hc
      · rw [hueyes, hline]
  have hsame : v.rateClash = v := State.rateClash_same fun q hq => by
    rw [State.linkUp_of_portView (hview q)] at hq
    rw [State.pRateOf_of_portView (hview q), hvrate]
    by_cases hqp : q = p
    · rw [hqp, hrate]
    · have hqo := Port.eq_other hqp
      rw [hqo, hother] at hq
      rcases h with hup | ⟨hsameRate, -⟩
      · exact absurd (hup.symm.trans hq) (by decide)
      · rw [hqo, hotherRate, hsameRate]
  have hvbit : v.get (upEvt p) = u.get (upEvt p) := by
    rw [hv]
    split
    · unfold State.useRate
      split <;> rfl
    · rfl
  obtain ⟨hkeep, heyes, hget, hidle, hdown⟩ := State.trainBeside_keeps (s := v) (p := p)
  dsimp only
  rw [← hv, hsame]
  have hfinal (q : Port) : (v.trainBeside p.other).linkStatus.planEval.portView q = (v.trainBeside p.other).portView q :=
    (State.planEval_portView q).trans (State.linkStatus_portView _ q)
  have hp := (hfinal p).trans (hkeep.trans (hview p))
  refine ⟨?_, ?_, ?_, ?_, ?_⟩
  · rw [State.linkUp_of_portView hp, State.linkUp, hst]
    rfl
  · rw [State.linkUp_of_portView (hfinal p.other)]
    cases hup : s.linkUp p.other with
    | false => exact hdown (by rw [State.linkUp_of_portView (hview _), hother, hup])
    | true =>
      have hvup : v.linkUp p.other = true := by rw [State.linkUp_of_portView (hview _), hother, hup]
      have hstate : v.pState p.other = pUp := by simpa [State.linkUp] using hvup
      rw [hidle (by rw [hstate]; decide), hvup]
  · rw [State.port_of_portView hp, hx]
    rfl
  · rw [State.planEval_link, State.linkStatus_link]
    exact (congrArg (·.1) heyes).trans hvrate
  · have hflags : (toT0Flags p.other).all (fun g => g.apart (upEvt p)) = true := by cases p <;> decide
    have hshown : linkFlags.all (fun g => g.apart (upEvt p)) = true := by cases p <;> decide
    rw [State.bit, State.get_of_pageWords (State.planEval_pageWords (p := 4) _ (by decide)) (by cases p <;> rfl), State.linkStatus_get _ hshown,
      hget _ hflags, hvbit]
    exact huevt

/-! ### The report of the other side -/

/-- The other side's eye records change nothing else. -/
theorem State.reportEyes_eq (eyes : List Byte) : ∃ m, s.reportEyes p eyes = { s with link := { s.link with eyeFull := m } } := by
  unfold State.reportEyes
  generalize eyes.zipIdx = l
  induction l generalizing s with
  | nil => exact ⟨s.link.eyeFull, rfl⟩
  | cons e l ih =>
    rw [forEach, List.foldl_cons, ← forEach]
    split
    · obtain ⟨m, hm⟩ := ih (s := { s with link := { s.link with eyeFull := put s.link.eyeFull (4 * e.2 + 2 + p.no) (some (e.1.toNat % 64)) } })
      exact ⟨m, hm⟩
    · exact ih

section
variable {f eye : Byte} {eyes : List Byte} {d : Nat}

theorem State.reportEyes_keeps : (∀ q, (s.reportEyes p eyes).portView q = s.portView q) ∧ (s.reportEyes p eyes).link.rate = s.link.rate := by
  obtain ⟨m, hm⟩ := State.reportEyes_eq (s := s) (p := p) eyes
  have hkeep (u : State) (m : SMap (Option Nat)) (q : Port) : ({ u with link := { u.link with eyeFull := m } } : State).portView q = u.portView q := by
    cases q <;> rfl
  rw [hm]
  exact ⟨hkeep s m, rfl⟩

theorem State.reportDone_up (h : s.pState p = 5) (hd : ((s.hopD p : Int) - d).natAbs ≤ 8) : s.reportDone p f eye eyes d =
    (((s.setPort p { s.port p with peer := some f }).reportEyes p eyes).portUp p).eyeNew (2 + p.no) (s.pRateOf p) (eye.toNat % 64) := by
  have hst (x : LinkPort) : (s.setPort p x).pState p = 5 := by rw [State.pState, State.setPort_get, ← State.pState, h]
  have hhop (x : LinkPort) : (s.setPort p x).hopD p = s.hopD p := by rw [State.hopD, State.get2, State.setPort_get, State.setPort_get]; rfl
  have hrate (x : LinkPort) : (s.setPort p x).pRateOf p = s.pRateOf p := by rw [State.pRateOf, State.setPort_get]; rfl
  rw [State.reportDone, if_neg (by rw [State.phaseOf_eq h (by decide)]; decide)]
  dsimp only
  rw [hhop, if_neg (by omega), hst, if_neg (by decide), hrate]

section
variable {c : List Part} (hl : Part.link ∈ c)
include hl

theorem State.rateClash_without : s.rateClash.without c = s.without c := by
  have huse (q : Port) : (if s.linkUp q then s.useRate (s.pRateOf q) else s).without c = s.without c := by
    rw [State.ite_without, State.useRate_without _ hl, ite_self]
  unfold State.rateClash
  split
  · rfl
  · dsimp only
    rw [State.ite_without, State.toT0_without _ hl, huse, ite_self]

theorem State.upNoted_without : (s.upNoted p).without c = s.without c := by
  rw [State.upNoted, State.evt_without, State.set_without, State.set_without, State.setPort_without _ hl]

theorem State.reportEyes_without (eyes : List Byte) : (s.reportEyes p eyes).without c = s.without c := by
  obtain ⟨m, hm⟩ := State.reportEyes_eq (s := s) (p := p) eyes
  rw [hm, State.withLink_without _ hl]

variable (hx : Part.xact ∈ c)
include hx

theorem State.portUp_without : (s.portUp p).without c = s.without c := by
  rw [State.portUp_eq]
  dsimp only
  rw [State.planEval_without _ hx, State.linkStatus_without, State.trainBeside_without _ hl, State.rateClash_without hl, State.ite_without,
    State.useRate_without _ hl, ite_self, State.upNoted_without hl]

theorem State.reportDone_without : (s.reportDone p f eye eyes d).without c = s.without c := by
  unfold State.reportDone
  split
  · rfl
  · dsimp only
    split
    · simp only [State.ite_without, State.toT2_without hl, State.toPhase_without hl, State.toT0_without _ hl, State.setPort_without _ hl,
        State.evt_without, ite_self]
    · rw [State.ite_without, State.toPhase_without hl, State.eyeNew_without _ hl, State.portUp_without hl hx, State.reportEyes_without hl,
        State.setPort_without _ hl, ite_self]

end

section
variable (hact : s.pw.phase = .active) {eyes : List Byte} (heyes : eyes.length = 3) (h : s.pState p = 5) (f eye : Byte) {d : BitVec 32}
include hact heyes h

/-- Both hop delays agree: the port is up (R328, R331). -/
theorem report_up (hd : ((s.hopD p : Int) - d.toNat).natAbs ≤ 8)
    (hother : s.linkUp p.other = false ∨ s.pRateOf p.other = s.pRateOf p ∧ s.link.rate = s.pRateOf p) :
    ∃ t, exec (.trainingReportDone p f eye eyes d) s = .next t ∧ t.linkUp p = true ∧ t.linkUp p.other = s.linkUp p.other ∧
    (t.port p).full = false ∧ t.link.rate = s.pRateOf p ∧ t.bit (upEvt p) = true ∧
    look t.link.eyeNow (2 + p.no) = some (eye.toNat % 64) := by
  have hnoted (q : Port) := (State.reportEyes_keeps (s := s.setPort p { s.port p with peer := some f }) (p := p) (eyes := eyes)).1 q
  have hrest := (State.reportEyes_keeps (s := s.setPort p { s.port p with peer := some f }) (p := p) (eyes := eyes)).2
  have hview : ∀ q, (s.setPort p { s.port p with peer := some f }).pState q = s.pState q ∧
      (s.setPort p { s.port p with peer := some f }).pRateOf q = s.pRateOf q := fun q => ⟨State.setPort_get .., State.setPort_get ..⟩
  have hrate : (s.setPort p { s.port p with peer := some f }).link.rate = s.link.rate := congrArg (·.1) (s.setPort_eyes p _)
  have hlup : ((s.setPort p { s.port p with peer := some f }).reportEyes p eyes).linkUp p.other = s.linkUp p.other := by
    rw [State.linkUp_of_portView (hnoted _), State.linkUp, (hview _).1, State.linkUp]
  have hrates (q : Port) : ((s.setPort p { s.port p with peer := some f }).reportEyes p eyes).pRateOf q = s.pRateOf q := by
    rw [State.pRateOf_of_portView (hnoted _), (hview _).2]
  have hshows := State.portUp_shows (s := (s.setPort p { s.port p with peer := some f }).reportEyes p eyes) (p := p) (by
    rw [hlup, hrates, hrates, hrest, hrate]
    exact hother)
  rw [hlup, hrates] at hshows
  obtain ⟨hup, hupOther, hfull, hline, hevt⟩ := hshows
  have heq := State.reportDone_up (p := p) (f := f) (eye := eye) (eyes := eyes) h hd
  generalize ((s.setPort p { s.port p with peer := some f }).reportEyes p eyes).portUp p = u at hup hupOther hfull hline hevt heq
  have hno : 2 + p.no < 4 := by have := Port.no_lt p; omega
  refine ⟨_, (exec_trainingReportDone_eq p f eye eyes d heyes s).trans
    (whenActive_becomes hact heq (heq ▸ State.reportDone_without (by decide) (by decide))), ?_, ?_, ?_, ?_, ?_, ?_⟩
  · rw [State.linkUp_of_portView (u.eyeNew_portView hno _ _ p), hup]
  · rw [State.linkUp_of_portView (u.eyeNew_portView hno _ _ p.other), hupOther]
  · rw [State.port_of_portView (u.eyeNew_portView hno _ _ p), hfull]
  · rw [State.eyeNew_link]
    split <;> exact hline
  · rw [State.bit_of_pageWords (u.eyeNew_pageWords hno _ _) (by cases p <;> rfl), hevt]
  · rw [State.eyeNew_link, if_pos hline.symm]
    exact look_put_self u.link.eyeNow _ (some (eye.toNat % 64))

/-- The hop delays differ: T2 again, or T0 (R331). -/
theorem report_repeats (hd : 8 < ((s.hopD p : Int) - d.toNat).natAbs) : ∃ t, exec (.trainingReportDone p f eye eyes d) s = .next t ∧
    t.bit LINK.EVT.HOPMIS = true ∧ t.pState p = (if (s.port p).repeats < 3 then 4 else 2) := by
  obtain ⟨u, hu⟩ : ∃ u, u = (s.setPort p { s.port p with peer := some f }).evt LINK.EVT.HOPMIS := ⟨_, rfl⟩
  have hview : u.portView p = (5, s.pRateOf p, { s.port p with peer := some f }) := by
    have hevt (v : State) : (v.evt LINK.EVT.HOPMIS).portView p = v.portView p := by
      cases p <;> exact State.set_portView _ _ (by decide) (by decide) (by decide) _
    rw [hu, hevt, State.setPort_portView, h]
  have hbit : u.get LINK.EVT.HOPMIS = 1 := by rw [hu, State.evt, State.set_getAll _ _ _ rfl (by decide)]
  obtain ⟨hst, -, -⟩ := State.portView_iff.1 hview
  have heq : s.reportDone p f eye eyes d.toNat = if (s.port p).repeats < 3 then
      (u.setPort p { { s.port p with peer := some f } with repeats := (s.port p).repeats + 1 }).toT2 p else u.toT0 p (u.pRateOf p) false := by
    have hhop (x : LinkPort) : (s.setPort p x).hopD p = s.hopD p := by rw [State.hopD, State.get2, State.setPort_get, State.setPort_get]; rfl
    have hport (x : LinkPort) : (s.setPort p x).port p = x := s.port_setPort p x
    rw [State.reportDone, if_neg (by rw [State.phaseOf_eq h (by decide)]; decide)]
    dsimp only
    rw [hhop, if_pos hd, ← hu, hport, if_neg (show ¬ u.pState p = pRate by rw [hst]; decide)]
  have hapart : (pstat p LINK.UPSTAT.STATE).apart LINK.EVT.HOPMIS = true := by cases p <;> rfl
  refine ⟨_, (exec_trainingReportDone_eq p f eye eyes d heyes s).trans
    (whenActive_becomes hact heq (heq ▸ State.reportDone_without (by decide) (by decide))), ?_⟩
  split
  · have hst' (x : LinkPort) : (u.setPort p x).pState p = 5 := by rw [State.pState, State.setPort_get, ← State.pState, hst]
    obtain ⟨x, hx, -, -, -, hget⟩ := State.toT2_view (s := u.setPort p { { s.port p with peer := some f } with repeats := (s.port p).repeats + 1 })
      (by rw [hst']; decide)
    exact ⟨by rw [State.bit, hget _ hapart, State.setPort_get, hbit]; rfl, (State.portView_iff.1 hx).1⟩
  · obtain ⟨x, hx, -⟩ := u.toT0_portView p (u.pRateOf_lt p) false
    exact ⟨by rw [State.bit, State.toT0_get _ _ (by cases p <;> decide), hbit]; rfl, (State.portView_iff.1 hx).1⟩

end

end

end

/-- Settles O43: every step of a training acts on its own port; a port that comes up leaves the other one's state. -/
theorem linkTraining : Obligations.LinkTraining := by
  unfold Obligations.LinkTraining
  refine ⟨fun s p hact => listen_cycles hact, fun s p f hact h hr => ts1_answers hact h hr, fun s p f hact => ts1_damaged hact f,
    fun s p hact h => detected_sweeps hact h, fun s p hact h hfrom => detect_listens hact h hfrom, fun s p hact h => detect_waits hact h,
    fun s p pos hact hpos h hf => sweep_short hact hpos h hf, fun s p pos hact hpos h hf hw => sweep_continues hact hpos h hf hw,
    fun s p pos hact hpos h hf hw => sweep_ends hact hpos h hf hw, fun s p id res hact h => probe_answered hact h id res,
    fun s p id res rt hact h he hid => echo_counts hact h he hid res rt, fun s p id res rt hact hid => echo_unknown hact hid res rt,
    fun s p hact h he hp => hop_measured hact h he hp, fun s p hact h => hop_waits hact h, ?alone,
    fun s p f eye eyes d hact heyes h hd => report_repeats hact heyes h f eye hd,
    fun s p hact h hfrom hup => reply_listens hact h hfrom hup, ?beside⟩
  case alone =>
    intro s p f eye eyes d hact heyes h hd hup
    obtain ⟨t, hnext, hp, hother, hfull, hline, hevt, heye⟩ := report_up hact heyes h f eye hd (.inl hup)
    exact ⟨t, hnext, hp, hother.trans hup, hfull, hline, by cases p <;> exact hevt, heye⟩
  case beside =>
    intro s p f eye eyes d hact heyes h hd hup hrate hline
    obtain ⟨t, hnext, hp, hother, hfull, hline', hevt, heye⟩ := report_up hact heyes h f eye hd (.inr ⟨hrate.symm, hline⟩)
    exact ⟨t, hnext, hp, hother.trans hup, hfull, hline'.trans hline.symm, by cases p <;> exact hevt, heye⟩

end Sys2Proof.Machine
end
-- ==== Sys2Proof/Proofs/LinkDowns.lean ====
section
/-! SUPPORT. A link that goes down, and its retraining (R316, R328, R332). -/
namespace Sys2Proof.Machine

theorem exec_linkDown_eq (p : Port) (why : DownCause) (s : State) : exec (.linkDown p why) s = whenActive [.link] s fun s => s.goDown p why := (rfl)
theorem exec_retrain_eq (p : Port) (s : State) : exec (.retrain p) s = whenActive [.link] s fun s => s.retrain p false := (rfl)
theorem exec_fullTraining_eq (p : Port) (s : State) : exec (.fullTraining p) s = whenActive [.link] s fun s => s.retrain p true := (rfl)
theorem exec_rateTreadTimeout_eq (p : Port) (s : State) : exec (.rateTreadTimeout p) s = whenActive [.link] s fun s => s.rateLate p := (rfl)

/-- The event of a port that goes down. -/
def downEvt (p : Port) : Fld := match p with | .up => LINK.EVT.UPDOWN | .dn => LINK.EVT.DNDOWN

/-- The fields that the start of a training writes, on either port. -/
def trainFlags : List Fld := toT0Flags .up ++ toT0Flags .dn

section
variable {s : State} {p : Port}

theorem toT0Flags_sub {f : Fld} (h : trainFlags.all (fun g => g.apart f) = true) (p : Port) : (toT0Flags p).all (fun g => g.apart f) = true := by
  rw [trainFlags, List.all_append, Bool.and_eq_true] at h
  obtain ⟨hup, hdn⟩ := h
  cases p
  · exact hup
  · exact hdn

theorem State.toListen_get {f : Fld} (h : (toT0Flags p).all (fun g => g.apart f) = true) : (s.toListen p).get f = s.get f := by
  rw [toT0Flags, List.all_append, Bool.and_eq_true] at h
  obtain ⟨hp, hflags⟩ := h
  simp only [List.all_cons, List.all_nil, Bool.and_true, Bool.and_eq_true] at hp
  obtain ⟨h1, h2, -⟩ := hp
  rw [State.toListen, State.linkStatus_get _ hflags, State.get_set_ne _ _ _ _ (by cases p <;> rfl) h2,
    State.get_set_ne _ _ _ _ (by cases p <;> rfl) h1]

/-- The other port of one that is no longer up changes only where it offered a training (R328). -/
theorem State.besideEnd_keeps : (s.besideEnd p).portView p = s.portView p ∧ (s.pState p.other ≠ pT0 → s.besideEnd p = s) ∧
    ∀ f, trainFlags.all (fun g => g.apart f) = true → (s.besideEnd p).get f = s.get f := by
  unfold State.besideEnd
  dsimp only
  split
  · next h =>
    have hview := s.toListen_portView_other p.other
    rw [Port.other_other] at hview
    exact ⟨hview, fun hn => absurd h.1 hn, fun f hf => State.toListen_get (toT0Flags_sub hf _)⟩
  · exact ⟨rfl, fun _ => rfl, fun _ _ => rfl⟩

/-- A port in link-up that goes down (R332). -/
theorem State.portDown_shows : ∃ x, (s.portDown p).portView p = (pT0, s.pRateOf p, x) ∧ x.fromUp = true ∧ x.full = (s.port p).full ∧
    (s.portDown p).bit (downEvt p) = true ∧ (s.portDown p).get LINK.DOWNCNT = min (s.get LINK.DOWNCNT + 1) 65535 ∧
    (s.portDown p).bit (pstat p LINK.UPSTAT.LOS) = s.bit (pstat p LINK.UPSTAT.LOS) ∧
    (s.pState p.other ≠ pT0 → (s.portDown p).pState p.other = s.pState p.other) := by
  obtain ⟨u, hu⟩ : ∃ u, u = (s.evt (downEvt p)).inc LINK.DOWNCNT := ⟨_, rfl⟩
  have heq : s.portDown p = (u.toT0 p (u.pRateOf p) true).besideEnd p := by
    rw [hu]
    cases p <;> rfl
  have hview (q : Port) : u.portView q = s.portView q := by
    rw [hu]
    cases p <;> cases q <;>
      exact (State.set_portView _ _ (by decide) (by decide) (by decide) _).trans (State.set_portView _ _ (by decide) (by decide) (by decide) _)
  have hevt : u.bit (downEvt p) = true := by
    rw [hu]
    cases p <;> exact (State.bit_set_ne _ _ _ _ rfl rfl).trans (State.bit_evt _ _ _ _ (by decide))
  have hcount : u.get LINK.DOWNCNT = min (s.get LINK.DOWNCNT + 1) 65535 := by
    rw [hu]
    refine (State.get_inc_saturates _ _ _).trans ?_
    rw [State.evt, State.get_set_ne _ _ _ _ (by cases p <;> rfl) (by cases p <;> rfl)]
  have hlos : u.bit (pstat p LINK.UPSTAT.LOS) = s.bit (pstat p LINK.UPSTAT.LOS) := by
    rw [hu]
    cases p <;> exact (State.bit_set_ne _ _ _ _ rfl rfl).trans (State.bit_set_ne _ _ _ _ rfl rfl)
  obtain ⟨x, hx, hfrom, hfull, -⟩ := u.toT0_portView p (u.pRateOf_lt p) true
  obtain ⟨hkeep, hidle, hget⟩ := State.besideEnd_keeps (s := u.toT0 p (u.pRateOf p) true) (p := p)
  have hother := u.toT0_portView_other p (u.pRateOf p) true
  have hbit (f : Fld) (hf : trainFlags.all (fun g => g.apart f) = true) : (s.portDown p).get f = u.get f := by
    rw [heq, hget f hf, State.toT0_get _ _ (toT0Flags_sub hf p)]
  refine ⟨x, ?_, hfrom, ?_, ?_, ?_, ?_, fun hn => ?_⟩
  · rw [heq, hkeep, hx, State.pRateOf_of_portView (hview p)]
  · rw [hfull, State.port_of_portView (hview p)]
  · rw [State.bit, hbit _ (by cases p <;> decide)]
    exact hevt
  · rw [hbit _ (by decide), hcount]
  · rw [State.bit, hbit _ (by cases p <;> decide)]
    exact hlos
  · rw [heq, hidle, State.pState_of_portView hother, State.pState_of_portView (hview _)]
    rwa [State.pState_of_portView hother, State.pState_of_portView (hview _)]

section
variable {c : List Part} (hl : Part.link ∈ c)
include hl

theorem State.portDown_without (s : State) (p : Port) : (s.portDown p).without c = s.without c := by
  rw [State.portDown.eq_def]
  dsimp only
  rw [State.besideEnd_without, State.toT0_without _ hl, State.inc_without]
  exact State.evt_without _ _ _

theorem State.goDown_without (why : DownCause) : (s.goDown p why).without c = s.without c := by
  have hshown (u : State) (b : Bool) : ((u.setB (pstat p LINK.UPSTAT.LOS) b).replyEnd p).without c = u.without c := by
    rw [State.replyEnd, State.ite_without, State.toListen_without, ite_self, State.setB_without]
  unfold State.goDown
  split
  · rfl
  · dsimp only
    rw [State.ite_without, State.portDown_without hl, ite_self]
    split
    · exact hshown s true
    · exact State.setB_without _ _ _ _
    · rfl

end

theorem State.setLos_portView (b : Bool) (q : Port) : (s.setB (pstat p LINK.UPSTAT.LOS) b).portView q = s.portView q := by
  cases p <;> cases q <;> exact State.set_portView _ _ (by decide) (by decide) (by decide) _

theorem State.setLos_los (b : Bool) : (s.setB (pstat p LINK.UPSTAT.LOS) b).bit (pstat p LINK.UPSTAT.LOS) = b := by
  cases p <;> exact State.bit_setB _ _ _ _ _ (by decide)

variable (hact : s.pw.phase = .active)
include hact

theorem exec_linkDown_next (why : DownCause) : exec (.linkDown p why) s = .next (s.goDown p why) :=
  (exec_linkDown_eq p why s).trans (whenActive_becomes hact rfl (State.goDown_without (by decide) why))

/-! ### Causes of a link-down -/

omit hact in
/-- What a cause does before the port goes down: its LOS bit. -/
theorem down_begins (hup : s.linkUp p = true) {why : DownCause} (hdue : s.downDue p why = true) : ∃ u : State, s.goDown p why = u.portDown p ∧
    (∀ q, u.portView q = s.portView q) ∧ u.get LINK.DOWNCNT = s.get LINK.DOWNCNT ∧
    (why = .los → u.bit (pstat p LINK.UPSTAT.LOS) = true) := by
  have hst : s.pState p = pUp := by simpa [State.linkUp] using hup
  have hon : s.pState p ≠ pOff := by rw [hst]; decide
  cases why with
  | los =>
    have hview := State.setLos_portView (s := s) (p := p) true
    have hreply : (s.setB (pstat p LINK.UPSTAT.LOS) true).replyEnd p = s.setB (pstat p LINK.UPSTAT.LOS) true :=
      if_neg (fun h => by rw [State.pState_of_portView (hview p), hst] at h; exact absurd h.1 (by decide))
    refine ⟨s.setB (pstat p LINK.UPSTAT.LOS) true, ?_, hview, State.get_set_ne _ _ _ _ (by cases p <;> rfl) (by cases p <;> rfl),
      fun _ => State.setLos_los true⟩
    rw [State.goDown.eq_def, if_neg hon]
    dsimp only
    rw [hreply, if_pos (by rw [State.linkUp_of_portView (hview p), hup]; rfl)]
  | signal => exact absurd hdue (by simp [State.downDue])
  | violations =>
    refine ⟨s, ?_, fun _ => rfl, rfl, nofun⟩
    rw [State.goDown.eq_def, if_neg hon]
    dsimp only
    rw [if_pos (by rw [hup, hdue]; rfl)]
  | noMarks =>
    refine ⟨s, ?_, fun _ => rfl, rfl, nofun⟩
    rw [State.goDown.eq_def, if_neg hon]
    dsimp only
    rw [if_pos (by rw [hup, hdue]; rfl)]

theorem link_down (hup : s.linkUp p = true) {why : DownCause} (hdue : s.downDue p why = true) :
    ∃ t, exec (.linkDown p why) s = .next t ∧ t.pState p = 2 ∧ t.pRateOf p = s.pRateOf p ∧ (t.port p).fromUp = true ∧
    t.bit (downEvt p) = true ∧ t.get LINK.DOWNCNT = min (s.get LINK.DOWNCNT + 1) 65535 ∧
    (why = .los → t.bit (pstat p LINK.UPSTAT.LOS) = true) ∧ (s.pState p.other ≠ 2 → t.pState p.other = s.pState p.other) := by
  obtain ⟨u, heq, hview, hcnt, hlos⟩ := down_begins hup hdue
  obtain ⟨x, hx, hfrom, -, hevt, hcount, hkept, hother⟩ := State.portDown_shows (s := u) (p := p)
  obtain ⟨hst, hrate, hport⟩ := State.portView_iff.1 hx
  refine ⟨_, exec_linkDown_next hact why, ?_⟩
  rw [heq, hst, hrate, hport, hevt, hcount, hkept, hcnt, State.pRateOf_of_portView (hview p)]
  refine ⟨rfl, rfl, hfrom, rfl, rfl, hlos, fun hn => ?_⟩
  rw [hother (by rwa [State.pState_of_portView (hview _)]), State.pState_of_portView (hview _)]

theorem down_idle {why : DownCause} (h : s.pState p = 0 ∨ (why ≠ .los ∧ why ≠ .signal ∧ (s.linkUp p = false ∨ s.downDue p why = false))) :
    exec (.linkDown p why) s = .next s := by
  have hsame : s.goDown p why = s := by
    by_cases h0 : s.pState p = 0
    · exact if_pos h0
    · obtain ⟨hlos, hsig, hno⟩ := h.resolve_left h0
      have hcond : ¬ ((s.linkUp p && s.downDue p why) = true) := by
        rcases hno with hn | hn <;> simp [hn]
      rw [State.goDown.eq_def, if_neg (show ¬ s.pState p = pOff from h0)]
      cases why with
      | los => exact absurd rfl hlos
      | signal => exact absurd rfl hsig
      | violations => exact if_neg hcond
      | noMarks => exact if_neg hcond
  exact (exec_linkDown_eq p why s).trans (whenActive_same hact hsame)

/-- On a port that is not up the loss of signal and its end only show (R316). -/
theorem los_shows (h0 : s.pState p ≠ 0) (hup : s.linkUp p = false) :
    (s.pState p ≠ 2 ∨ (s.port p).fromUp = true ∨ s.linkUp p.other = true →
      exec (.linkDown p .los) s = .next (s.setB (pstat p LINK.UPSTAT.LOS) true)) ∧
    exec (.linkDown p .signal) s = .next (s.setB (pstat p LINK.UPSTAT.LOS) false) := by
  have hdown (b : Bool) : (s.setB (pstat p LINK.UPSTAT.LOS) b).linkUp p = false := by
    rw [State.linkUp_of_portView (State.setLos_portView b p), hup]
  constructor
  · intro h
    have hreply : (s.setB (pstat p LINK.UPSTAT.LOS) true).replyEnd p = s.setB (pstat p LINK.UPSTAT.LOS) true := if_neg (by
      rw [State.pState_of_portView (State.setLos_portView true p), State.port_of_portView (State.setLos_portView true p),
        State.linkUp_of_portView (State.setLos_portView true p.other)]
      rintro ⟨h1, h2, h3⟩
      rcases h with h | h | h
      · exact h h1
      · exact absurd (h.symm.trans h2) (by decide)
      · exact absurd (h.symm.trans h3) (by decide))
    refine (exec_linkDown_next hact .los).trans (congrArg _ ?_)
    rw [State.goDown.eq_def, if_neg (show ¬ s.pState p = pOff from h0)]
    dsimp only
    rw [hreply, if_neg (by simp [hdown])]
  · refine (exec_linkDown_next hact .signal).trans (congrArg _ ?_)
    rw [State.goDown.eq_def, if_neg (show ¬ s.pState p = pOff from h0)]
    dsimp only
    rw [if_neg (by simp [hdown])]

/-- A training in reply to TS1 ends with the signal (R328). -/
theorem los_ends_reply (h : s.pState p = 2) (hfrom : (s.port p).fromUp = false) (hup : s.linkUp p.other = false) :
    ∃ t, exec (.linkDown p .los) s = .next t ∧ t.pState p = 1 ∧ t.bit (pstat p LINK.UPSTAT.LOS) = true ∧
    t.pState p.other = s.pState p.other ∧ t.get LINK.DOWNCNT = s.get LINK.DOWNCNT := by
  have hview := State.setLos_portView (s := s) (p := p) true
  obtain ⟨u, hu⟩ : ∃ u, u = s.setB (pstat p LINK.UPSTAT.LOS) true := ⟨_, rfl⟩
  have hlos : u.bit (pstat p LINK.UPSTAT.LOS) = true := by rw [hu]; exact State.setLos_los true
  have hcnt : u.get LINK.DOWNCNT = s.get LINK.DOWNCNT := by
    rw [hu]
    exact State.get_set_ne _ _ _ _ (by cases p <;> rfl) (by cases p <;> rfl)
  rw [← hu] at hview
  have hreply : u.replyEnd p = u.toListen p := if_pos (by
    rw [State.pState_of_portView (hview p), State.port_of_portView (hview p), State.linkUp_of_portView (hview p.other)]
    exact ⟨h, hfrom, hup⟩)
  obtain ⟨hst, -, -⟩ := State.portView_iff.1 (u.toListen_portView p)
  have heq : s.goDown p .los = u.toListen p := by
    rw [State.goDown.eq_def, if_neg (show ¬ s.pState p = pOff by rw [h]; decide)]
    dsimp only
    rw [← hu, hreply, if_neg (by simp [State.linkUp, hst, pListen, pUp])]
  refine ⟨_, exec_linkDown_next hact .los, ?_⟩
  rw [heq, hst, State.pState_of_portView (u.toListen_portView_other p), State.pState_of_portView (hview _), State.bit,
    State.toListen_get (by cases p <;> decide), State.toListen_get (by cases p <;> decide), hcnt]
  exact ⟨rfl, hlos, rfl, rfl⟩

/-! ### Retraining and late ports -/

omit hact in
theorem retrain_down (hup : s.linkUp p = true) (full : Bool) : (s.retrain p full).pState p = 2 ∧ (s.retrain p full).pRateOf p = s.pRateOf p ∧
    ((s.retrain p full).port p).full = ((s.port p).full || full) := by
  obtain ⟨x, hx, -, hfull, -⟩ := State.portDown_shows (s := s.setPort p { s.port p with full := (s.port p).full || full }) (p := p)
  obtain ⟨hst, hrate, hport⟩ := State.portView_iff.1 hx
  have heq : s.retrain p full = (s.setPort p { s.port p with full := (s.port p).full || full }).portDown p := if_neg (by simp [hup])
  rw [heq, hst, hrate, hport, hfull, State.port_setPort, State.pRateOf, State.setPort_get]
  exact ⟨rfl, rfl, rfl⟩

theorem retrains (hup : s.linkUp p = true) : ∃ t u, exec (.retrain p) s = .next t ∧
    exec (.fullTraining p) s = .next u ∧ t.pState p = 2 ∧ u.pState p = 2 ∧ (t.port p).full = (s.port p).full ∧
    (u.port p).full = true ∧ t.pRateOf p = s.pRateOf p ∧ u.pRateOf p = s.pRateOf p := by
  obtain ⟨hst, hrate, hfull⟩ := retrain_down hup false
  obtain ⟨hst', hrate', hfull'⟩ := retrain_down hup true
  exact ⟨_, _, (exec_retrain_eq p s).trans (whenActive_becomes hact rfl (State.retrain_without _ (by decide) _ false)),
    (exec_fullTraining_eq p s).trans (whenActive_becomes hact rfl (State.retrain_without _ (by decide) _ true)), hst, hst',
    hfull.trans (Bool.or_false _), hfull'.trans (Bool.or_true _), hrate, hrate'⟩

theorem rate_late {t0 : Nat} (h : s.pState p = 7) (ha : s.link.rateAt = some t0) (ht : t0 + 8 ≤ s.tm.tread) :
    ∃ t, exec (.rateTreadTimeout p) s = .next t ∧ t.pState p = 2 ∧ t.get LINK.DOWNCNT = min (s.get LINK.DOWNCNT + 1) 65535 := by
  obtain ⟨x, hx, -, -, -, hcount, -, -⟩ := State.portDown_shows (s := s) (p := p)
  have heq : s.rateLate p = s.portDown p := by
    simp only [State.rateLate, ha]
    exact if_pos (by simp [h, ht, pRate])
  exact ⟨_, (exec_rateTreadTimeout_eq p s).trans (whenActive_becomes hact heq (State.portDown_without (by decide) s p)),
    (State.portView_iff.1 hx).1, hcount⟩

theorem rate_inTime {t0 : Nat} (ha : s.link.rateAt = some t0) (ht : s.tm.tread < t0 + 8) : exec (.rateTreadTimeout p) s = .next s := by
  refine (exec_rateTreadTimeout_eq p s).trans (whenActive_same hact ?_)
  simp only [State.rateLate, ha]
  exact if_neg (by simp [Nat.not_le.2 ht])

end

end Sys2Proof.Machine
end
-- ==== Sys2Proof/Proofs/RateTreads.lean ====
section
/-! SUPPORT. Rate treads: a training that keeps its port's state 7 until it is done (R339). -/
namespace Sys2Proof.Machine

theorem exec_rateTreadDone_eq (p : Port) (f : Byte) (s : State) : exec (.rateTreadDone p f) s = whenActive [.xact, .link] s fun s => s.rateDone p f := (rfl)

section
variable {s : State} {p : Port}

/-- The phase of a rate tread stands in its counts. -/
theorem State.phaseOf_rate {n : Nat} (h : s.pState p = 7) (hn : (s.port p).rt = n) : s.phaseOf p = n := by
  rw [State.phaseOf, if_pos (show s.pState p = pRate from h), hn]

theorem State.toPhase_rate (h : s.pState p = 7) (n : Nat) : s.toPhase p n = s.setPort p { s.port p with rt := n } := if_pos h

section
variable (hact : s.pw.phase = .active) (h : s.pState p = 7)
include hact h

theorem rate_detected (hrt : (s.port p).rt = 2) : ∃ t, exec (.trainingDetectDone p) s = .next t ∧
    t.pState p = 7 ∧ (t.port p).rt = 4 ∧ (t.port p).echoes = 0 ∧ (t.port p).probes = 0 := by
  have hst (x : LinkPort) : (s.setPort p x).pState p = 7 := by rw [State.pState, State.setPort_get, ← State.pState, h]
  have heq : s.detected p = (s.setPort p (LinkPort.probe { s.port p with probes := 0, echoes := 0, dSum := 0, prbOpen := [] })).setPort p
      { LinkPort.probe { s.port p with probes := 0, echoes := 0, dSum := 0, prbOpen := [] } with rt := pT2 } := by
    rw [State.detected, if_neg (by rw [State.phaseOf_rate h hrt]; decide), if_pos (show s.pState p = pRate from h), State.toT2, State.toPhase_rate (hst _), State.port_setPort]
  refine ⟨_, (exec_trainingDetectDone_eq p s).trans (whenActive_becomes hact heq (heq ▸ State.detected_without)), ?_⟩
  rw [State.pState, State.setPort_get, ← State.pState, hst, State.port_setPort]
  exact ⟨rfl, rfl, rfl, rfl⟩

theorem rate_hop (hrt : (s.port p).rt = 4) (he : 128 ≤ (s.port p).echoes) (hp : 128 ≤ (s.port p).probes) :
    ∃ t, exec (.hopDelayDone p) s = .next t ∧ t.pState p = 7 ∧ (t.port p).rt = 5 ∧
    t.hopD p = twos 32 (roundRat ((s.port p).dSum / 256)) := by
  obtain ⟨u, hu⟩ : ∃ u, u = s.set2 (hopFld p) (twos 32 (roundRat ((s.port p).dSum / 256))) := ⟨_, rfl⟩
  have hview : u.portView p = s.portView p := by
    rw [hu]
    cases p <;> exact (State.set_portView _ _ (by decide) (by decide) (by decide) _).trans (State.set_portView _ _ (by decide) (by decide) (by decide) _)
  have heq : s.hopDone p = u.setPort p { u.port p with rt := pT3 } := by
    rw [State.hopDone, if_neg (by rw [State.phaseOf_rate h hrt]; simp [pT2]; omega)]
    dsimp only
    rw [← hu, State.toPhase_rate (by rw [State.pState_of_portView hview, h])]
  refine ⟨_, (exec_hopDelayDone_eq p s).trans (whenActive_becomes hact heq ?_), ?_, ?_, ?_⟩
  · rw [State.setPort_without _ (by decide), hu, State.set2, State.set_without, State.set_without]
  · rw [State.pState, State.setPort_get, ← State.pState, State.pState_of_portView hview, h]
  · rw [State.port_setPort]
    rfl
  · rw [State.hopD, State.get2, State.setPort_get, State.setPort_get, ← State.get2, hu]
    exact State.get2_set2 _ _ (by cases p <;> rfl) (by cases p <;> rfl) (twos_lt _ _)

theorem rate_reported {eyes : List Byte} (heyes : eyes.length = 3) (hrt : (s.port p).rt = 5) (f eye : Byte) {d : BitVec 32}
    (hd : ((s.hopD p : Int) - d.toNat).natAbs ≤ 8) : ∃ t, exec (.trainingReportDone p f eye eyes d) s = .next t ∧
    t.pState p = 7 ∧ (t.port p).rt = 6 ∧ t.link.eyeNow = s.link.eyeNow := by
  obtain ⟨u, hu⟩ : ∃ u, u = (s.setPort p { s.port p with peer := some f }).reportEyes p eyes := ⟨_, rfl⟩
  have hst (x : LinkPort) : (s.setPort p x).pState p = 7 := by rw [State.pState, State.setPort_get, ← State.pState, h]
  have hhop (x : LinkPort) : (s.setPort p x).hopD p = s.hopD p := by rw [State.hopD, State.get2, State.setPort_get, State.setPort_get]; rfl
  have hust : u.pState p = 7 := by
    rw [hu, State.pState_of_portView (State.reportEyes_keeps.1 p), hst]
  have huNow : u.link.eyeNow = s.link.eyeNow := by
    obtain ⟨m, hm⟩ := State.reportEyes_eq (s := s.setPort p { s.port p with peer := some f }) (p := p) eyes
    rw [hu, hm]
    exact congrArg (·.2.1) (s.setPort_eyes p _)
  have heq : s.reportDone p f eye eyes d.toNat = u.setPort p { u.port p with rt := pUp } := by
    rw [State.reportDone, if_neg (by rw [State.phaseOf_rate h hrt]; decide)]
    dsimp only
    rw [hhop, if_neg (by omega), hst, if_pos (show 7 = pRate from rfl), ← hu, State.toPhase_rate hust]
  refine ⟨_, (exec_trainingReportDone_eq p f eye eyes d heyes s).trans
    (whenActive_becomes hact heq (heq ▸ State.reportDone_without (by decide) (by decide))), ?_, ?_, ?_⟩
  · rw [State.pState, State.setPort_get, ← State.pState, hust]
  · rw [State.port_setPort]
    rfl
  · exact (congrArg (·.2.1) (u.setPort_eyes p _)).trans huNow

end

/-! ### The end of a rate tread -/

/-- Where the ports that are up run at one rate, a clash is none: the line rate may follow the source. -/
theorem State.rateClash_quiet (h : s.linkUp p.other = false ∨ s.pRateOf p = s.pRateOf p.other) : s.rateClash = s ∨
    ∃ r, s.rateClash = s.useRate r := by
  have hview (q : Port) (r : Nat) (b : Bool) : (if b then s.useRate r else s).portView q = s.portView q := by
    cases b
    · rfl
    · exact s.useRate_portView r q
  unfold State.rateClash
  split
  · exact .inl rfl
  · next q _ =>
    have hboth : ¬ (((if s.linkUp q then s.useRate (s.pRateOf q) else s).linkUp .up && (if s.linkUp q then s.useRate (s.pRateOf q) else s).linkUp .dn &&
        (if s.linkUp q then s.useRate (s.pRateOf q) else s).pRateOf .up != (if s.linkUp q then s.useRate (s.pRateOf q) else s).pRateOf .dn) = true) := by
      rw [State.linkUp_of_portView (hview _ _ _), State.linkUp_of_portView (hview _ _ _), State.pRateOf_of_portView (hview _ _ _),
        State.pRateOf_of_portView (hview _ _ _)]
      intro hc
      simp only [Bool.and_eq_true, bne_iff_ne] at hc
      obtain ⟨⟨hup, hdn⟩, hne⟩ := hc
      rcases h with hd | hr
      · cases p
        · exact absurd (hd.symm.trans hdn) (by decide)
        · exact absurd (hd.symm.trans hup) (by decide)
      · cases p
        · exact hne hr
        · exact hne hr.symm
    dsimp only
    rw [if_neg hboth]
    split
    · exact .inr ⟨_, rfl⟩
    · exact .inl rfl

theorem State.useRate_get (r : Nat) (f : Fld) : (s.useRate r).get f = s.get f := by
  unfold State.useRate
  split <;> rfl

theorem State.upNoted_get {f : Fld} (h : trainFlags.all (fun g => g.apart f) = true) (he : (upEvt p).apart f = true) :
    (s.upNoted p).get f = s.get f := by
  have hp := toT0Flags_sub h p
  rw [toT0Flags, List.all_append, Bool.and_eq_true] at hp
  obtain ⟨hp, -⟩ := hp
  simp only [List.all_cons, List.all_nil, Bool.and_true, Bool.and_eq_true] at hp
  obtain ⟨h1, -, h3⟩ := hp
  rw [State.upNoted, State.evt, State.get_set_ne _ _ _ _ (by cases p <;> rfl) he, State.get_set_ne _ _ _ _ (by cases p <;> rfl) h3,
    State.get_set_ne _ _ _ _ (by cases p <;> rfl) h1, State.setPort_get]

/-- A port comes up beside one that is not, or that runs at its rate; the words of the hop stand. -/
theorem State.portUp_keeps (h : s.linkUp p.other = false ∨ s.pRateOf p = s.pRateOf p.other) : (s.portUp p).linkUp p = true ∧
    ∀ f, f.addr / 64 = 4 → trainFlags.all (fun g => g.apart f) = true → (upEvt p).apart f = true → (s.portUp p).get f = s.get f := by
  have hother := State.upNoted_portView_other (s := s) (p := p)
  obtain ⟨hst, hrate, -⟩ := State.portView_iff.1 (State.upNoted_portView (s := s) (p := p))
  have hnoted (f : Fld) (hf : trainFlags.all (fun g => g.apart f) = true) (he : (upEvt p).apart f = true) := State.upNoted_get (s := s) hf he
  rw [State.portUp_eq]
  rw [← State.linkUp_of_portView hother, ← hrate, ← State.pRateOf_of_portView hother] at h
  generalize s.upNoted p = u at hst hrate hnoted h
  obtain ⟨v, hv⟩ : ∃ v, v = if !u.linkUp p.other || u.source? == some p then u.useRate (u.pRateOf p) else u := ⟨_, rfl⟩
  have hview (q : Port) : v.portView q = u.portView q ∧ ∀ f, v.get f = u.get f := by
    rw [hv]
    split
    · exact ⟨u.useRate_portView _ q, State.useRate_get _⟩
    · exact ⟨rfl, fun _ => rfl⟩
  have hclash (q : Port) : v.rateClash.portView q = v.portView q ∧ ∀ f, v.rateClash.get f = v.get f := by
    rcases State.rateClash_quiet (s := v) (p := p) (by
        rwa [State.linkUp_of_portView (hview _).1, State.pRateOf_of_portView (hview _).1, State.pRateOf_of_portView (hview _).1]) with hc | ⟨r, hc⟩
    · rw [hc]
      exact ⟨rfl, fun _ => rfl⟩
    · rw [hc]
      exact ⟨v.useRate_portView r q, State.useRate_get r⟩
  obtain ⟨hkeep, -, hget, -, -⟩ := State.trainBeside_keeps (s := v.rateClash) (p := p)
  dsimp only
  rw [← hv]
  constructor
  · rw [State.linkUp_of_portView ((State.planEval_portView p).trans ((State.linkStatus_portView _ p).trans
      (hkeep.trans ((hclash p).1.trans (hview p).1)))), State.linkUp, hst]
    rfl
  · intro f hp hf he
    have hflags := toT0Flags_sub hf p.other
    have hshown : linkFlags.all (fun g => g.apart f) = true := by
      rw [toT0Flags, List.all_append, Bool.and_eq_true] at hflags
      exact hflags.2
    rw [State.get_of_pageWords (State.planEval_pageWords (p := 4) _ (by decide)) hp, State.linkStatus_get _ hshown, hget f hflags,
      (hclash p).2 f, (hview p).2 f, hnoted f hf he]

section
variable (hact : s.pw.phase = .active)
include hact

theorem rate_done {f : Byte} (h : s.pState p = 7) (hrt : (s.port p).rt = 6) (hf : f.getLsbD 4 = true)
    (hother : s.linkUp p.other = false ∨ s.pRateOf p = s.pRateOf p.other) : ∃ t, exec (.rateTreadDone p f) s = .next t ∧
    t.linkUp p = true ∧ t.hopD p = s.hopD p := by
  obtain ⟨hup, hget⟩ := State.portUp_keeps hother
  have heq : s.rateDone p f = s.portUp p := if_pos ⟨h, hrt, hf⟩
  refine ⟨_, (exec_rateTreadDone_eq p f s).trans (whenActive_becomes hact heq (State.portUp_without (by decide) (by decide))), hup, ?_⟩
  have hlow : (s.portUp p).get (hopFld p) = s.get (hopFld p) := by cases p <;> exact hget _ rfl (by decide) (by decide)
  have hhigh : (s.portUp p).get ((hopFld p).plus 1) = s.get ((hopFld p).plus 1) := by cases p <;> exact hget _ rfl (by decide) (by decide)
  rw [State.hopD, State.hopD, State.get2, State.get2, hlow, hhigh]

theorem rate_undone {f : Byte} (h : s.pState p ≠ 7 ∨ (s.port p).rt ≠ 6 ∨ f.getLsbD 4 = false) : exec (.rateTreadDone p f) s = .next s := by
  refine (exec_rateTreadDone_eq p f s).trans (whenActive_same hact (if_neg ?_))
  rintro ⟨h1, h2, h3⟩
  rcases h with h | h | h
  · exact h h1
  · exact h h2
  · exact absurd (h.symm.trans h3) (by decide)

end

end

end Sys2Proof.Machine
end
-- ==== Sys2Proof/Proofs/RateChanges.lean ====
section
/-! SUPPORT. The eye monitor, the CRC window, and an announced change of rate and bank (R329, R338, R339, R341, R373, R376). -/
namespace Sys2Proof.Machine

theorem exec_eyeMonitor_eq (p : Port) (pos : List Bool) (h : pos.length = 64) (s : State) : exec (.eyeMonitor p pos) s =
    whenActive [.link] s fun s => if s.linkUp p then s.eyeSet p.no (eyeWidth pos) else s := if_pos h
theorem exec_crcWindowEnd_eq (s : State) : exec .crcWindowEnd s = whenActive [.link] s fun s => s.crcWindow := (rfl)
theorem exec_rateChange_eq (s : State) : exec .rateChange s = whenActive [.xact, .link] s fun s => s.rateChange := (rfl)
theorem exec_rateSetMissing_eq (s : State) : exec .rateSetMissing s = whenActive [] s fun s => s.rsMissing := (rfl)

section
variable {s : State}

/-- What is in use of a field depends on its word and on the words held. -/
theorem State.used_of_get {t : State} {f : Fld} (hheld : t.held = s.held) (h : t.get f = s.get f) : t.used f = s.used f := by
  rw [State.used, State.used, State.useReg, State.useReg, hheld]
  cases look s.held f.addr with
  | none => exact h
  | some w => rfl

/-! ### The monitor and the CRC window -/

section
variable (hact : s.pw.phase = .active)
include hact

section
variable {p : Port} {pos : List Bool} (hpos : pos.length = 64)
include hpos

theorem monitor_shows (hup : s.linkUp p = true) : ∃ t, exec (.eyeMonitor p pos) s = .next t ∧ look t.link.eyeNow p.no = some (eyeWidth pos) ∧
    t.get (HEALTH.EYEURX.plus p.no) = (eyeWidth pos + 64 * s.link.rate + 256) % 65536 := by
  refine ⟨_, (exec_eyeMonitor_eq p pos hpos s).trans (whenActive_becomes hact (if_pos hup) (s.eyeSet_without (by decide) _ _)), ?_,
    s.eyeNew_get (Port.no_lt p) _ _⟩
  rw [State.eyeSet, State.eyeNew_link, if_pos rfl]
  exact look_put_self s.link.eyeNow p.no (some (eyeWidth pos))

theorem monitor_down (hup : s.linkUp p = false) : exec (.eyeMonitor p pos) s = .next s :=
  (exec_eyeMonitor_eq p pos hpos s).trans (whenActive_same hact (if_neg (by simp [hup])))

end

/-- The counts of a window shown, with EVT.CRCLIM where one is above the limit. -/
def State.crcShown (s : State) : State :=
  let u := (s.set LINK.CRCUP s.link.up.errs).set LINK.CRCDN s.link.dn.errs
  if decide (u.used { LINK.CRCLIM with w := 10 } < s.link.up.errs ∨ u.used { LINK.CRCLIM with w := 10 } < s.link.dn.errs) then u.evt LINK.EVT.CRCLIM
  else u

omit hact in
theorem State.crcWindow_eq (ht : s.tm.ltc % 1000 = 0) (hw : s.link.window = true) : s.crcWindow = (let u := s.crcShown.crcEval
    { u with link := { u.link with window := true, up := { u.link.up with errs := 0 }, dn := { u.link.dn with errs := 0 } } }) := by
  simp only [State.crcWindow, ht, ne_eq, not_true, if_false, hw, if_true, Bool.true_and]
  rfl

omit hact in
theorem State.crcShown_get : s.crcShown.get LINK.CRCUP = s.link.up.errs % 65536 ∧ s.crcShown.get LINK.CRCDN = s.link.dn.errs % 65536 ∧
    s.crcShown.used { LINK.CRCLIM with w := 10 } = s.used { LINK.CRCLIM with w := 10 } := by
  have hset : ((s.set LINK.CRCUP s.link.up.errs).set LINK.CRCDN s.link.dn.errs).get LINK.CRCUP = s.link.up.errs % 65536 :=
    (State.get_set_ne _ _ _ _ rfl rfl).trans (State.get_set _ _ _ rfl)
  have hset' : ((s.set LINK.CRCUP s.link.up.errs).set LINK.CRCDN s.link.dn.errs).get LINK.CRCDN = s.link.dn.errs % 65536 :=
    State.get_set _ _ _ rfl
  have hlim : ((s.set LINK.CRCUP s.link.up.errs).set LINK.CRCDN s.link.dn.errs).used { LINK.CRCLIM with w := 10 } =
      s.used { LINK.CRCLIM with w := 10 } :=
    State.used_of_get rfl ((State.get_set_ne _ _ _ _ rfl rfl).trans (State.get_set_ne _ _ _ _ rfl rfl))
  have hevt (u : State) : (u.evt LINK.EVT.CRCLIM).get LINK.CRCUP = u.get LINK.CRCUP ∧ (u.evt LINK.EVT.CRCLIM).get LINK.CRCDN = u.get LINK.CRCDN ∧
      (u.evt LINK.EVT.CRCLIM).used { LINK.CRCLIM with w := 10 } = u.used { LINK.CRCLIM with w := 10 } :=
    ⟨State.get_set_ne _ _ _ _ rfl rfl, State.get_set_ne _ _ _ _ rfl rfl, State.used_of_get rfl (State.get_set_ne _ _ _ _ rfl rfl)⟩
  unfold State.crcShown
  dsimp only
  split
  · exact ⟨(hevt _).1.trans hset, (hevt _).2.1.trans hset', (hevt _).2.2.trans hlim⟩
  · exact ⟨hset, hset', hlim⟩

theorem crc_window (ht : s.tm.ltc % 1000 = 0) (hw : s.link.window = true) : ∃ t, exec .crcWindowEnd s = .next t ∧
    t.get LINK.CRCUP = s.link.up.errs % 65536 ∧ t.get LINK.CRCDN = s.link.dn.errs % 65536 ∧ t.link.up.errs = 0 ∧ t.link.dn.errs = 0 ∧
    t.holds 34 = decide (s.used { LINK.CRCLIM with w := 10 } < s.link.up.errs % 65536 ∨
      s.used { LINK.CRCLIM with w := 10 } < s.link.dn.errs % 65536) := by
  obtain ⟨hup, hdn, hlim⟩ := State.crcShown_get (s := s)
  have hcond (u : State) (b : Bool) (f : Fld) : (u.cond 34 b).get f = u.get f := by cases b <;> rfl
  have hclear (u : State) (l : Link) : ({ u with link := l } : State).get LINK.CRCUP = u.get LINK.CRCUP ∧
      ({ u with link := l } : State).get LINK.CRCDN = u.get LINK.CRCDN ∧ ({ u with link := l } : State).holds 34 = u.holds 34 := ⟨rfl, rfl, rfl⟩
  have hwithout : s.crcShown.without [.link] = s.without [.link] := by
    unfold State.crcShown
    dsimp only
    rw [State.ite_without, State.evt_without, State.set_without, State.set_without, ite_self]
  refine ⟨_, (exec_crcWindowEnd_eq s).trans (whenActive_becomes hact (State.crcWindow_eq ht hw) ?_), ?_, ?_, rfl, rfl, ?_⟩
  · exact (State.withLink_without _ (by decide) _).trans ((State.crcEval_without _ _).trans hwithout)
  · refine (hclear _ _).1.trans ?_
    rw [State.crcEval, State.setB, State.get_set_ne _ _ _ _ rfl rfl, hcond, hup]
  · refine (hclear _ _).2.1.trans ?_
    rw [State.crcEval, State.setB, State.get_set_ne _ _ _ _ rfl rfl, hcond, hdn]
  · refine (hclear _ _).2.2.trans ?_
    refine (State.holds_cond _ _ _ _ (by decide)).trans ((if_pos rfl).trans ?_)
    rw [hup, hdn, hlim]

theorem crc_waits (ht : s.tm.ltc % 1000 ≠ 0) : exec .crcWindowEnd s = .next s :=
  (exec_crcWindowEnd_eq s).trans (whenActive_same hact (if_pos ht))

end

/-! ### Banks -/

/-- LEAN and its reason shown (R372). -/
def State.leanShown (s : State) (why : Nat) (lean : Bool) : State :=
  ((s.set QUEUE.PLANSTAT.LEANWHY why).setB QUEUE.PLANSTAT.LEAN lean).setB QUEUE.STATUS.LEAN lean

theorem State.planEval_eq (s : State) : ∃ (why : Nat) (lean goes : Bool), s.planEval =
    if goes then (s.leanShown why lean).leanQ1 else s.leanShown why lean := ⟨_, _, _, rfl⟩

theorem State.planEval_active : s.planEval.activeBank = s.activeBank := by
  have hdrop (u : State) : (u.dropOne 1).get QUEUE.PLANSTAT.ACTIVE = u.get QUEUE.PLANSTAT.ACTIVE := by
    unfold State.dropOne
    dsimp only
    split
    · rfl
    · exact (State.get_set_ne _ _ _ _ rfl rfl).trans (State.get_set_ne _ _ _ _ rfl rfl)
  have hlean (u : State) : u.leanQ1.get QUEUE.PLANSTAT.ACTIVE = u.get QUEUE.PLANSTAT.ACTIVE :=
    forEach_keeps (fun v : State => v.get QUEUE.PLANSTAT.ACTIVE) _ _ (fun _ _ v => hdrop v) u
  have hshown (a : Nat) (b : Bool) : (s.leanShown a b).get QUEUE.PLANSTAT.ACTIVE = s.get QUEUE.PLANSTAT.ACTIVE :=
    (State.get_set_ne _ _ _ _ rfl rfl).trans ((State.get_set_ne _ _ _ _ rfl rfl).trans (State.get_set_ne _ _ _ _ rfl rfl))
  obtain ⟨a, b, c, heq⟩ := s.planEval_eq
  rw [State.activeBank, State.activeBank, heq]
  cases c
  · exact hshown a b
  · rw [if_pos rfl, hlean, hshown]

theorem State.planEval_holds (i : Nat) : s.planEval.holds i = s.holds i := by
  have hdrop (u : State) : (u.dropOne 1).holds i = u.holds i := by
    unfold State.dropOne
    dsimp only
    split <;> rfl
  have hlean (u : State) : u.leanQ1.holds i = u.holds i := forEach_keeps (fun v : State => v.holds i) _ _ (fun _ _ v => hdrop v) u
  have hshown (a : Nat) (b : Bool) : (s.leanShown a b).holds i = s.holds i := rfl
  obtain ⟨a, b, c, heq⟩ := s.planEval_eq
  rw [heq]
  cases c
  · exact hshown a b
  · rw [if_pos rfl, hlean, hshown]

/-- A bank is made active (R371, R373). -/
theorem State.setBank_shows {b : Nat} (hb : b < 2) (ev : Bool) : (s.setBank b ev).activeBank = b ∧ (s.setBank b ev).holds 42 = false := by
  have hcond (u : State) (c : Bool) (f : Fld) : (u.cond 42 c).get f = u.get f := by cases c <;> rfl
  have hfault (u : State) : (u.fault42 false).activeBank = u.activeBank ∧ (u.fault42 false).holds 42 = false := by
    refine ⟨(State.get_set_ne _ _ _ _ rfl rfl).trans (hcond _ _ _), ?_⟩
    exact (State.holds_cond u 42 42 false (by decide)).trans (if_pos rfl)
  have hset (u : State) (x : Xact) : ({ u.set QUEUE.PLANSTAT.ACTIVE b with xact := x } : State).activeBank = b := State.set_getAll u _ b rfl hb
  have hevt (u : State) (c : Bool) : (if c then u.evt QUEUE.EVT.BANKSW else u).activeBank = u.activeBank := by
    cases c
    · rfl
    · exact State.get_set_ne _ _ _ _ rfl rfl
  rw [State.setBank, State.planEval_active, State.planEval_holds]
  exact ⟨(hfault _).1.trans ((hevt _ _).trans (hset s _)), (hfault _).2⟩

/-! ### An announced change -/

theorem State.toT0_rest (p : Port) (r : Nat) (u : Bool) : (s.toT0 p r u).link.ann = s.link.ann ∧ (s.toT0 p r u).link.rateAt = s.link.rateAt ∧
    (s.toT0 p r u).link.rate = s.link.rate ∧ (s.toT0 p r u).held = s.held := by
  have hport (v : State) (x : LinkPort) : (v.setPort p x).link.ann = v.link.ann ∧ (v.setPort p x).link.rateAt = v.link.rateAt ∧
      (v.setPort p x).link.rate = v.link.rate ∧ (v.setPort p x).held = v.held := by cases p <;> exact ⟨rfl, rfl, rfl, rfl⟩
  have hheld (v : State) : v.linkStatus.held = v.held := State.held_of_without (c := []) (by decide) v.linkStatus_without
  rw [State.toT0, State.linkStatus_link, hheld]
  exact hport _ _

/-- A port that begins its rate tread (R339). -/
theorem State.portRates_shows (a : Announce) (p : Port) : (s.portRates a p).pState p = 7 ∧ (s.portRates a p).pRateOf p = a.rate % 4 ∧
    (s.portRates a p).portView p.other = s.portView p.other ∧ (s.portRates a p).link.ann = s.link.ann ∧
    (s.portRates a p).link.rateAt = s.link.rateAt ∧ (s.portRates a p).link.rate = s.link.rate ∧
    (∀ q, (s.portRates a p).portOn q = s.portOn q) := by
  obtain ⟨u, hu⟩ : ∃ u, u = s.toT0 p a.rate true := ⟨_, rfl⟩
  obtain ⟨hann, hat, hrate, hheld⟩ := State.toT0_rest (s := s) p a.rate true
  have hother := s.toT0_portView_other p a.rate true
  have hget (f : Fld) (hf : trainFlags.all (fun g => g.apart f) = true) := State.toT0_get s p (toT0Flags_sub hf p) a.rate true
  have hpr : u.pRateOf p = a.rate % 4 := by
    have hw : (pstat p LINK.UPSTAT.RATE).w = 2 := by cases p <;> rfl
    have hok : (pstat p LINK.UPSTAT.RATE).ok = true := by cases p <;> rfl
    have htries (v : State) : (v.inc (pstat p LINK.UPSTAT.TRIES)).portView p = v.portView p := by
      cases p <;> exact v.inc_portView _ (by decide) (by decide) (by decide)
    have hset : ((s.set (pstat p LINK.UPSTAT.STATE) pT0).set (pstat p LINK.UPSTAT.RATE) a.rate).pRateOf p = a.rate % 4 := by
      rw [State.pRateOf, State.get_set _ _ _ hok, hw]
      rfl
    rw [hu, State.toT0, State.pRateOf_of_portView (State.linkStatus_portView _ p), State.pRateOf, State.setPort_get, ← State.pRateOf,
      State.pRateOf_of_portView (htries _), hset]
  rw [← hu] at hann hat hrate hheld hother hget
  have hport (v : State) (x : LinkPort) : (v.setPort p x).link.ann = v.link.ann ∧ (v.setPort p x).link.rateAt = v.link.rateAt ∧
      (v.setPort p x).link.rate = v.link.rate ∧ (v.setPort p x).held = v.held := by cases p <;> exact ⟨rfl, rfl, rfl, rfl⟩
  obtain ⟨hann', hat', hrate', hheld'⟩ := hport u { u.port p with rt := pT0, full := false }
  have hstatus (v : State) : v.linkStatus.held = v.held := State.held_of_without (c := []) (by decide) v.linkStatus_without
  have hset (v : State) (f : Fld) (n : Nat) : (v.set f n).link = v.link ∧ (v.set f n).held = v.held := ⟨rfl, rfl⟩
  have hlast (v : State) (f : Fld) (hf : trainFlags.all (fun g => g.apart f) = true) :
      ((v.set (pstat p LINK.UPSTAT.STATE) pRate).linkStatus).get f = v.get f := by
    have h := toT0Flags_sub hf p
    rw [toT0Flags, List.all_append, Bool.and_eq_true] at h
    obtain ⟨hp, hflags⟩ := h
    simp only [List.all_cons, List.all_nil, Bool.and_true, Bool.and_eq_true] at hp
    rw [State.linkStatus_get _ hflags, State.get_set_ne _ _ _ _ (by cases p <;> rfl) hp.1]
  have heq : s.portRates a p = ((u.setPort p { u.port p with rt := pT0, full := false }).set (pstat p LINK.UPSTAT.STATE) pRate).linkStatus := by
    rw [hu]
    rfl
  have hview := State.setState_portView (u.setPort p { u.port p with rt := pT0, full := false }) p (show pRate < 8 by decide)
  obtain ⟨hst, hr, -⟩ := State.portView_iff.1 ((State.linkStatus_portView _ p).trans hview)
  rw [heq]
  refine ⟨hst, hr.trans ((State.setPort_get _ _ _ _).trans hpr), ?_, ?_, ?_, ?_, fun q => ?_⟩
  · rw [State.linkStatus_portView, State.setState_portView_other, State.setPort_portView_other, hother]
  · rw [State.linkStatus_link, (hset _ _ _).1, hann', hann]
  · rw [State.linkStatus_link, (hset _ _ _).1, hat', hat]
  · rw [State.linkStatus_link, (hset _ _ _).1, hrate', hrate]
  · have hused (f : Fld) (hf : trainFlags.all (fun g => g.apart f) = true) :
        (((u.setPort p { u.port p with rt := pT0, full := false }).set (pstat p LINK.UPSTAT.STATE) pRate).linkStatus).usedB f = s.usedB f := by
      rw [State.usedB, State.usedB, State.used_of_get (by rw [hstatus, (hset _ _ _).2, hheld', hheld]) ((hlast _ f hf).trans ((State.setPort_get _ _ _ _).trans (hget f hf)))]
    cases q
    · exact hused LINK.CFG.UPEN (by decide)
    · exact hused LINK.CFG.DNEN (by decide)

/-- The enabled ports begin their rate treads, one after the other. -/
theorem State.ratesBegin_shows (a : Announce) : (s.ratesBegin a).link.rate = a.rate ∧ (s.ratesBegin a).link.ann = none ∧
    (s.ratesBegin a).link.rateAt = some s.tm.tread ∧
    ∀ p, s.portOn p = true → (s.ratesBegin a).pState p = 7 ∧ (s.ratesBegin a).pRateOf p = a.rate % 4 := by
  obtain ⟨u, hu⟩ : ∃ u, u = ({ s with link := { s.link with ann := none, rateAt := some s.tm.tread } }).useRate a.rate := ⟨_, rfl⟩
  have hline : u.link.rate = a.rate ∧ u.link.ann = none ∧ u.link.rateAt = some s.tm.tread ∧ ∀ q, u.portOn q = s.portOn q := by
    rw [hu]
    unfold State.useRate
    split
    · next he => exact ⟨he.symm, rfl, rfl, fun q => by cases q <;> rfl⟩
    · exact ⟨rfl, rfl, rfl, fun q => by cases q <;> rfl⟩
  obtain ⟨hrate, hann, hat, hon⟩ := hline
  have hkeep (v : State) (p : Port) : (if v.portOn p then v.portRates a p else v).link.rate = v.link.rate ∧
      (if v.portOn p then v.portRates a p else v).link.ann = v.link.ann ∧ (if v.portOn p then v.portRates a p else v).link.rateAt = v.link.rateAt ∧
      (∀ q, (if v.portOn p then v.portRates a p else v).portOn q = v.portOn q) ∧
      (if v.portOn p then v.portRates a p else v).portView p.other = v.portView p.other ∧
      (v.portOn p = true → (if v.portOn p then v.portRates a p else v).pState p = 7 ∧
        (if v.portOn p then v.portRates a p else v).pRateOf p = a.rate % 4) := by
    obtain ⟨h1, h2, h3, h4, h5, h6, h7⟩ := v.portRates_shows a p
    split
    · exact ⟨h6, h4, h5, h7, h3, fun _ => ⟨h1, h2⟩⟩
    · next hn => exact ⟨rfl, rfl, rfl, fun _ => rfl, rfl, fun h => absurd h hn⟩
  have heq : s.ratesBegin a = (let v := if u.portOn .up then u.portRates a .up else u
      if v.portOn .dn then v.portRates a .dn else v) := by rw [hu]; rfl
  obtain ⟨r1, n1, t1, o1, -, s1⟩ := hkeep u .up
  obtain ⟨r2, n2, t2, -, w2, s2⟩ := hkeep (if u.portOn .up then u.portRates a .up else u) .dn
  dsimp only at heq
  rw [heq]
  refine ⟨by rw [r2, r1, hrate], by rw [n2, n1, hann], by rw [t2, t1, hat], fun p hp => ?_⟩
  cases p
  · obtain ⟨hst, hr⟩ := s1 (by rw [hon, hp])
    exact ⟨(State.pState_of_portView w2).trans hst, (State.pRateOf_of_portView w2).trans hr⟩
  · exact s2 (by rw [o1, hon, hp])

/-! ### What occurred stays until it is collected (R302) -/

theorem State.occur_keeps {i j : Nat} (h : s.occurred.getLsbD j = true) : (s.occur i).occurred.getLsbD j = true := by
  rw [State.occur, BitVec.getLsbD_or, h, Bool.true_or]

theorem State.cond_keeps {i j : Nat} {b : Bool} (h : s.occurred.getLsbD j = true) : (s.cond i b).occurred.getLsbD j = true := by
  cases b
  · exact h
  · rw [State.cond, if_pos rfl, BitVec.getLsbD_or, h, Bool.true_or]

theorem State.planEval_occurred {j : Nat} (h : s.occurred.getLsbD j = true) : s.planEval.occurred.getLsbD j = true := by
  have hdrop (u : State) (hu : u.occurred.getLsbD j = true) : (u.dropOne 1).occurred.getLsbD j = true := by
    unfold State.dropOne
    dsimp only
    split
    · exact hu
    · exact State.occur_keeps hu
  have hall (l : List Nat) (u : State) (hu : u.occurred.getLsbD j = true) :
      (forEach l (fun (_ : Nat) (s : State) => s.dropOne 1) u).occurred.getLsbD j = true := by
    induction l generalizing u with
    | nil => exact hu
    | cons x l ih => exact ih _ (hdrop u hu)
  have hlean (u : State) (hu : u.occurred.getLsbD j = true) : u.leanQ1.occurred.getLsbD j = true := by
    rw [State.leanQ1]
    exact hall _ u hu
  have hshown (a : Nat) (b : Bool) : (s.leanShown a b).occurred = s.occurred := rfl
  obtain ⟨a, b, c, heq⟩ := s.planEval_eq
  rw [heq]
  cases c
  · exact h
  · exact hlean _ (by rw [hshown, h])

theorem State.eyeEval_occurred {j : Nat} (h : s.occurred.getLsbD j = true) : s.eyeEval.occurred.getLsbD j = true := by
  have hset (f : Fld) (v : Nat) (e : Fld) : (s.healthSet f v (some e)).occurred = s.occurred := by
    unfold State.healthSet
    dsimp only
    split <;> rfl
  have hstatus (u : State) : u.healthStatus.occurred = u.occurred := rfl
  unfold State.eyeEval
  dsimp only
  rw [hstatus]
  refine State.cond_keeps ?_
  split
  · exact h
  · rw [hset, h]

theorem State.setBank_occurred {j : Nat} (h : s.occurred.getLsbD j = true) (b : Nat) (ev : Bool) : (s.setBank b ev).occurred.getLsbD j = true := by
  have hfault (u : State) : (u.fault42 false).occurred = u.occurred := rfl
  have hset (x : Xact) : ({ s.set QUEUE.PLANSTAT.ACTIVE b with xact := x } : State).occurred = s.occurred := rfl
  have hevt (u : State) (c : Bool) : (if c then u.evt QUEUE.EVT.BANKSW else u).occurred = u.occurred := by cases c <;> rfl
  rw [State.setBank]
  refine State.planEval_occurred ?_
  rw [hfault, hevt, hset, h]

/-- The rest of a rate change shows the ports as they stand (R339). -/
theorem State.ratesShown_shows (a : Announce) (old : Nat) : (s.ratesShown a old).link = s.link ∧ (∀ p, (s.ratesShown a old).portView p = s.portView p) ∧
    (s.ratesShown a old).activeBank = (if a.bank then 1 else 0) ∧ (s.ratesShown a old).bit LINK.EVT.RATECHG = true ∧
    (old < a.rate → (s.ratesShown a old).occurred.getLsbD 35 = true) := by
  have hb : (if a.bank then 1 else 0) < 2 := by split <;> decide
  obtain ⟨u, hu⟩ : ∃ u, u = (s.setB LINK.STATUS.RCHG false).evt LINK.EVT.RATECHG := ⟨_, rfl⟩
  have hevt : u.bit LINK.EVT.RATECHG = true := by rw [hu]; exact State.bit_evt _ _ _ _ (by decide)
  have huview (p : Port) : u.portView p = s.portView p := by
    rw [hu]
    cases p <;> exact (State.set_portView _ _ (by decide) (by decide) (by decide) _).trans (State.set_portView _ _ (by decide) (by decide) (by decide) _)
  have hulink : u.link = s.link := by rw [hu]; rfl
  obtain ⟨v, hv⟩ : ∃ v, v = (if u.get2 XACT.RSTN0 = a.t then u.rsDisarm else u) := ⟨_, rfl⟩
  obtain ⟨w, hw⟩ : ∃ w, w = (if old < a.rate then v.occur 35 else v) := ⟨_, rfl⟩
  have heq : s.ratesShown a old = (w.setBank (if a.bank then 1 else 0) true).planEval.eyeEval := by rw [hw, hv, hu]; rfl
  have hwithout : (s.ratesShown a old).without [.xact] = s.without [.xact] := s.ratesShown_without (by decide) a old
  have hpages : (s.ratesShown a old).pageWords 4 = u.pageWords 4 := by
    have hbank (x : State) (b : Nat) (ev : Bool) : (x.setBank b ev).pageWords 4 = x.pageWords 4 := by
      rw [State.setBank, State.planEval_pageWords _ (by decide), State.fault42, State.setB_pageWords _ (by decide), State.cond_pageWords,
        State.ite_pageWords, State.evt_pageWords _ (by decide), ite_self]
      exact State.set_pageWords _ (by decide) _
    have hdis (x : State) : x.rsDisarm.pageWords 4 = x.pageWords 4 :=
      (State.setB_pageWords _ (by decide) _).trans (State.set_pageWords _ (by decide) _)
    rw [heq, State.eyeEval_pageWords _ (by decide), State.planEval_pageWords _ (by decide), hbank, hw, State.ite_pageWords, State.occur_pageWords, ite_self, hv,
      State.ite_pageWords, hdis, ite_self]
  have hlink : (s.ratesShown a old).link = s.link := State.link_of_without (by decide) hwithout
  have hactive (x : State) : x.eyeEval.activeBank = x.activeBank :=
    State.get_of_pageWords (x.eyeEval_pageWords (p := 6) (by decide)) rfl
  refine ⟨hlink, fun p => ?_, ?_, ?_, fun hold => ?_⟩
  · exact (State.portView_of hpages (State.port_of_link p (hlink.trans hulink.symm))).trans (huview p)
  · rw [heq, hactive, State.planEval_active, (State.setBank_shows hb true).1]
  · rw [State.bit_of_pageWords hpages rfl, hevt]
  · rw [heq]
    refine State.eyeEval_occurred (State.planEval_occurred (State.setBank_occurred ?_ _ _))
    rw [hw, if_pos hold, State.occur, BitVec.getLsbD_or]
    simp

end

end Sys2Proof.Machine
end
-- ==== Sys2Proof/Proofs/LinkAndRateChanges.lean ====
section
/-! O44. Links going down, eyes, CRC windows and rate changes (R316, R328 to R332, R338, R339, R341, R373, R376). -/
namespace Sys2Proof.Machine

theorem exec_bankSwitch_eq (s : State) : exec .bankSwitch s = whenActive [.xact] s fun s => match s.xact.bankNext with
    | some b => s.setBank b true
    | none => s := (rfl)

section
variable {s : State}

theorem State.planEval_bankNext : s.planEval.xact.bankNext = s.xact.bankNext := by
  have hdrop (u : State) : (u.dropOne 1).xact.bankNext = u.xact.bankNext := by
    unfold State.dropOne
    dsimp only
    split <;> rfl
  have hlean (u : State) : u.leanQ1.xact.bankNext = u.xact.bankNext :=
    forEach_keeps (fun v : State => v.xact.bankNext) _ _ (fun _ _ v => hdrop v) u
  have hshown (a : Nat) (b : Bool) : (s.leanShown a b).xact = s.xact := rfl
  obtain ⟨a, b, c, heq⟩ := s.planEval_eq
  rw [heq]
  cases c
  · exact congrArg Xact.bankNext (hshown a b)
  · rw [if_pos rfl, hlean, hshown]

theorem State.setBank_bankNext (b : Nat) (ev : Bool) : (s.setBank b ev).xact.bankNext = none := by
  have hfault (u : State) : (u.fault42 false).xact = u.xact := rfl
  have hevt (u : State) (c : Bool) : (if c then u.evt QUEUE.EVT.BANKSW else u).xact = u.xact := by cases c <;> rfl
  rw [State.setBank, State.planEval_bankNext, hfault, hevt]

variable (hact : s.pw.phase = .active)
include hact

theorem rate_changes {a : Announce} (ha : s.link.ann = some a) (hr : s.reached a.t = true) : ∃ t, exec .rateChange s = .next t ∧
    t.link.rate = a.rate ∧ t.link.ann = none ∧ t.link.rateAt = some s.tm.tread ∧ t.activeBank = (if a.bank then 1 else 0) ∧
    t.bit LINK.EVT.RATECHG = true ∧ (∀ p, s.portOn p = true → t.pState p = 7 ∧ t.pRateOf p = a.rate % 4) ∧
    (s.link.rate < a.rate → t.occurred.getLsbD 35 = true) := by
  have heq : s.rateChange = (s.ratesBegin a).ratesShown a s.link.rate := by
    simp only [State.rateChange, ha, hr, if_true]
    rfl
  have hwithout : ((s.ratesBegin a).ratesShown a s.link.rate).without [.xact, .link] = s.without [.xact, .link] :=
    s.rateGo_without (by decide) (by decide) a
  obtain ⟨hrate, hann, hat, hports⟩ := State.ratesBegin_shows (s := s) a
  obtain ⟨hlink, hview, hbank, hevt, hocc⟩ := State.ratesShown_shows (s := s.ratesBegin a) a s.link.rate
  refine ⟨_, (exec_rateChange_eq s).trans (whenActive_becomes hact heq hwithout), ?_⟩
  rw [hlink]
  refine ⟨hrate, hann, hat, hbank, hevt, fun p hp => ?_, hocc⟩
  obtain ⟨hst, hr⟩ := hports p hp
  exact ⟨(State.pState_of_portView (hview p)).trans hst, (State.pRateOf_of_portView (hview p)).trans hr⟩

theorem rate_stays (h : ∀ a, s.link.ann = some a → s.reached a.t = false) : exec .rateChange s = .next s := by
  refine (exec_rateChange_eq s).trans (whenActive_same hact ?_)
  unfold State.rateChange
  split
  · rfl
  · next a ha => exact if_neg (by simp [h a ha])

theorem rate_missing (ha : s.rsArmed = true) (ht : (s.tm.stn + 1) % 4294967296 = s.get2 XACT.RSTN0) (hn : s.link.ann = none) :
    exec .rateSetMissing s = .next (s.evt XACT.EVT.RSMIS) :=
  (exec_rateSetMissing_eq s).trans (whenActive_becomes hact (if_pos (by simp [ha, ht, hn])) (State.evt_without _ _ _))

theorem bank_switches {b : Nat} (hn : s.xact.bankNext = some b) (hb : b < 2) : ∃ t, exec .bankSwitch s = .next t ∧
    t.activeBank = b ∧ t.xact.bankNext = none ∧ t.holds 42 = false := by
  obtain ⟨hactive, hfault⟩ := State.setBank_shows (s := s) hb true
  refine ⟨s.setBank b true, (exec_bankSwitch_eq s).trans (whenActive_becomes hact ?_ (s.setBank_without (by decide) b true)), hactive,
    State.setBank_bankNext b true, hfault⟩
  simp only [hn]

end

/-- Settles O44: a link that goes down begins T0 and leaves the other port, but for a training it only offered; a rate change begins the
rate tread of every enabled port before it shows. -/
theorem linkAndRateChanges : Obligations.LinkAndRateChanges := by
  unfold Obligations.LinkAndRateChanges
  refine ⟨?down, fun s p why hact h => down_idle hact h, fun s p hact h0 hup => los_shows hact h0 hup, fun s p hact hup => retrains hact hup,
    fun s p pos hact hpos hup => monitor_shows hact hpos hup, fun s p pos hact hpos hup => monitor_down hact hpos hup,
    fun s hact ht hw => crc_window hact ht hw, fun s hact ht => crc_waits hact ht, fun s a hact ha hr => rate_changes hact ha hr,
    fun s hact h => rate_stays hact h, fun s p hact h hrt => rate_detected hact h hrt, fun s p hact h hrt he hp => rate_hop hact h hrt he hp,
    fun s p f eye eyes d hact heyes h hrt hd => rate_reported hact h heyes hrt f eye hd,
    fun s p f hact h hrt hf hother => rate_done hact h hrt hf hother, fun s p f hact h => rate_undone hact h,
    fun s p t0 hact h ha ht => rate_late hact h ha ht, fun s p t0 hact ha ht => rate_inTime hact ha ht,
    fun s hact ha ht hn => rate_missing hact ha ht hn, fun s b hact hn hb => bank_switches hact hn hb,
    fun s p hact h hfrom hup => los_ends_reply hact h hfrom hup⟩
  case down =>
    intro s p why hact hup hdue
    obtain ⟨t, hnext, hst, hrate, hfrom, hevt, hcount, hlos, hother⟩ := link_down hact hup hdue
    exact ⟨t, hnext, hst, hrate, hfrom, by cases p <;> exact hevt, hcount, hlos, hother⟩

end Sys2Proof.Machine
end
-- ==== Sys2Proof/Proofs/SlotBytes.lean ====
section
/-! SUPPORT. The CRC of a slot that is passed on, and the bytes of one that carries a block (R324, R325, R362). -/
namespace Sys2Proof.Machine

/-! ### The CRC-32 is linear -/

theorem xor_xor_xor_right (a b c : BitVec 32) : (a ^^^ c) ^^^ (b ^^^ c) = a ^^^ b := by
  calc (a ^^^ c) ^^^ (b ^^^ c) = (a ^^^ b) ^^^ (c ^^^ c) := by ac_rfl
    _ = a ^^^ b := by rw [BitVec.xor_self, BitVec.xor_zero]

theorem xor_xor_beq (a b c : BitVec 32) : (a ^^^ (b ^^^ c) == c) = (a == b) := by
  rw [Bool.eq_iff_iff, beq_iff_eq, beq_iff_eq]
  constructor <;> intro h
  · calc a = (a ^^^ (b ^^^ c)) ^^^ (b ^^^ c) := by rw [BitVec.xor_assoc, BitVec.xor_self, BitVec.xor_zero]
      _ = b := by rw [h, BitVec.xor_comm b, ← BitVec.xor_assoc, BitVec.xor_self, BitVec.zero_xor]
  · rw [h, ← BitVec.xor_assoc, BitVec.xor_self, BitVec.zero_xor]

theorem crcBit_xor (a b : BitVec 32) : crcBit (a ^^^ b) = crcBit a ^^^ crcBit b := by
  unfold crcBit
  rw [BitVec.getLsbD_xor]
  cases a.getLsbD 0 <;> cases b.getLsbD 0 <;> simp only [BitVec.ushiftRight_xor_distrib, Bool.xor_self, Bool.xor_true, Bool.xor_false,
    Bool.not_false, if_true, if_false, Bool.false_eq_true]
  · ac_rfl
  · ac_rfl
  · exact (xor_xor_xor_right _ _ _).symm

theorem crcByte_xor (a b : BitVec 32) (x y : Byte) : crcByte (a ^^^ b) (x ^^^ y) = crcByte a x ^^^ crcByte b y := by
  have h : (x ^^^ y).zeroExtend 32 = x.zeroExtend 32 ^^^ y.zeroExtend 32 := BitVec.setWidth_xor
  have hswap : a ^^^ b ^^^ (x.zeroExtend 32 ^^^ y.zeroExtend 32) = (a ^^^ x.zeroExtend 32) ^^^ (b ^^^ y.zeroExtend 32) := by ac_rfl
  simp only [crcByte, h, hswap, crcBit_xor]

/-- Two byte strings of one length, from two registers: the registers differ by what the difference of the strings makes of theirs. -/
theorem foldl_crcByte_xor (a b : BitVec 32) (l m : List Byte) (h : l.length = m.length) :
    (List.zipWith (· ^^^ ·) l m).foldl crcByte (a ^^^ b) = l.foldl crcByte a ^^^ m.foldl crcByte b := by
  induction l generalizing a b m with
  | nil => cases m with
    | nil => rfl
    | cons y m => cases h
  | cons x l ih => cases m with
    | nil => cases h
    | cons y m =>
      simp only [List.zipWith_cons_cons, List.foldl_cons, crcByte_xor]
      exact ih _ _ m (by simpa using h)

theorem crc32_xor (l m : List Byte) (h : l.length = m.length) : crc32 l ^^^ crc32 m = crcDiff l m := by
  have hz : (List.zipWith (· ^^^ ·) l m).foldl crcByte 0 = _ := foldl_crcByte_xor 0xFFFFFFFF#32 0xFFFFFFFF#32 l m h
  rw [crcDiff, hz, crc32, crc32, xor_xor_xor_right]

/-! ### Slots passed on -/

theorem slotBytes_hop_length (x : Slot) (h : Byte) : (slotBytes x).length = (slotBytes { x with hop := h }).length := by
  simp only [slotBytes, List.length_append, List.length_cons, List.length_nil]

theorem forwarded_hop (x : Slot) : (forwarded x).hop = if slotCommand x then x.hop - 1 else x.hop := by
  rw [forwarded]; split_ifs <;> rfl

theorem forwarded_payload (x : Slot) : (forwarded x).payload = x.payload := by
  rw [forwarded]; split_ifs <;> rfl

/-- The CRC of a slot passed on is right just where it was right before (R325). -/
theorem forwarded_crcOk (x : Slot) : (forwarded x).crcOk = x.crcOk := by
  rw [forwarded]
  split_ifs
  · have hbytes := crc32_xor _ _ (slotBytes_hop_length x (x.hop - 1))
    show (x.crc ^^^ crcDiff (slotBytes x) _ == crc32 _) = (x.crc == crc32 _)
    rw [← hbytes]
    exact xor_xor_beq _ _ _
  · rfl

/-! ### Slots of the device's own -/

theorem slotSeal_crcOk (x : Slot) : (slotSeal x).crcOk = true := beq_self_eq_true _

/-- The bytes of a block that a slot takes stand at the front of its payload (R362). -/
theorem slotWith_payload (x : Slot) (q : Nat) (b : Block) :
    (slotWith x q b (min 128 (b.bytes.length - b.sent))).payload.take (min 128 (b.bytes.length - b.sent)) =
      (b.bytes.drop b.sent).take 128 := by
  simp [slotWith]

end Sys2Proof.Machine
end
-- ==== Sys2Proof/Proofs/OwnedSlots.lean ====
section
/-! SUPPORT. What the device sends in a slot of its own: a block's bytes, or IDLE (R325, R362, R364, R374). -/
namespace Sys2Proof.Machine

section
variable (s : State) {c : List Part}

theorem State.sendSlot_without (h : Part.link ∈ c) (l : Lane) (x : Slot) : (s.sendSlot l x).without c = s.without c :=
  State.withLink_without s h _

theorem State.sendSlot_shows (l : Lane) (x : Slot) : look (s.sendSlot l x).link.txSlot l.no = some x :=
  look_put_self s.link.txSlot l.no (some x)

theorem State.sendBlock_eq {q i : Nat} {b : Block} (h : (look s.xact.queues q).blocks[i]? = some b) (l : Lane) (lean : Bool) (head : Slot) :
    ∃ x, s.sendBlock q i l lean head =
      (s.setQueue q x).sendSlot l (slotSeal (slotWith head q b (min 128 (b.bytes.length - b.sent)))) := by
  unfold State.sendBlock
  dsimp only
  rw [h]
  exact ⟨_, rfl⟩

theorem State.sendBlock_without (hx : Part.xact ∈ c) (hl : Part.link ∈ c) (q i : Nat) (l : Lane) (lean : Bool) (head : Slot) :
    (s.sendBlock q i l lean head).without c = s.without c := by
  rcases hb : (look s.xact.queues q).blocks[i]? with _ | b
  · unfold State.sendBlock
    dsimp only
    rw [hb]
  · obtain ⟨x, heq⟩ := s.sendBlock_eq hb l lean head
    rw [heq, State.sendSlot_without _ hl, State.setQueue_without _ hx]

theorem State.fillSlot_without (hx : Part.xact ∈ c) (hl : Part.link ∈ c) (l : Lane) (slot : Nat) (stn : BitVec 32) :
    (s.fillSlot l slot stn).without c = s.without c := by
  unfold State.fillSlot
  dsimp only
  split
  · exact State.sendSlot_without _ hl _ _
  · split
    · rw [State.inc_without, State.sendBlock_without _ hx hl]
    · exact State.sendBlock_without _ hx hl _ _ _ _ _

theorem State.eccDrop_without (hx : Part.xact ∈ c) (q i : Nat) : (s.eccDrop q i).without c = s.without c := by
  rw [State.eccDrop, State.occur_without, State.evt_without, State.noteDrop_without _ hx, State.setQueue_without _ hx]

end

section
variable {s : State} {l : Lane} {slot : Nat} {stn : BitVec 32} {ecc : Bool}

theorem exec_ownedSlot_eq (l : Lane) (slot : Nat) (f : OwnedAt) (s : State) : exec (.ownedSlot l slot f) s =
    whenActive [.xact, .link] s fun s => s.ownedSlot l slot f.stn f.ecc := (rfl)

theorem State.owns_of_plan {q : Nat} (h : s.planQueue l slot stn.toNat = some q) : s.owns l slot stn.toNat = true := by
  simp [State.owns, h]

theorem State.owns_of_lean (h : s.leanSlot l slot stn.toNat = true) : s.owns l slot stn.toNat = true := by
  simp [State.owns, h]

theorem State.slotPick_plan {q : Nat} (hlean : s.leanSlot l slot stn.toNat = false) (hplan : s.planQueue l slot stn.toNat = some q) :
    s.slotPick l slot stn = (s.pick q l false).map (fun i => (q, i)) := by
  simp [State.slotPick, hlean, hplan]

theorem State.slotPick_lean (hlean : s.leanSlot l slot stn.toNat = true) : s.slotPick l slot stn = s.leanPick l := by
  simp [State.slotPick, hlean]

/-! ### What becomes of an owned slot -/

/-- IDLE goes out in a slot. -/
def State.sendIdle (s : State) (l : Lane) (slot : Nat) (stn : BitVec 32) : State := s.sendSlot l (slotSeal (s.slotHead l slot stn))

theorem State.fillSlot_idle (h : s.slotPick l slot stn = none) : s.fillSlot l slot stn = s.sendIdle l slot stn := by
  simp only [State.fillSlot, h]; rfl

theorem State.fillSlot_block {q i : Nat} (h : s.slotPick l slot stn = some (q, i)) : s.fillSlot l slot stn =
    if s.leanSlot l slot stn.toNat then (s.sendBlock q i l (s.leanSlot l slot stn.toNat) (s.slotHead l slot stn)).inc QUEUE.LEANCNT
    else s.sendBlock q i l (s.leanSlot l slot stn.toNat) (s.slotHead l slot stn) := by
  simp only [State.fillSlot, h]

section
variable (hup : s.linkUp l.port = true) (hin : slot < slotCount (s.pRateOf l.port))
include hup hin

/-- In a frame of its own, a slot that it does not own (R322). -/
theorem State.ownedSlot_unowned (hframe : s.makesFrame l = true) (howns : s.owns l slot stn.toNat = false) :
    s.ownedSlot l slot stn ecc = s.sendIdle l slot stn := by
  simp [State.ownedSlot, State.sendIdle, hup, hframe, howns, Nat.not_le.mpr hin]

theorem State.ownedSlot_empty (howns : s.owns l slot stn.toNat = true) (hpick : s.slotPick l slot stn = none) :
    s.ownedSlot l slot stn ecc = s.sendIdle l slot stn := by
  simp [State.ownedSlot, hup, howns, hpick, State.fillSlot_idle hpick, Nat.not_le.mpr hin]

theorem State.ownedSlot_ready {q i : Nat} (howns : s.owns l slot stn.toNat = true) (hpick : s.slotPick l slot stn = some (q, i)) :
    s.ownedSlot l slot stn ecc = if (s.port l.port.other).lost then (((s.sendIdle l slot stn).inc QUEUE.MISSCNT).evt QUEUE.EVT.MISS).occur 36
      else if ecc then (s.eccDrop q i).fillSlot l slot stn else s.fillSlot l slot stn := by
  simp [State.ownedSlot, State.sendIdle, hup, howns, hpick, Nat.not_le.mpr hin]

end

/-- IDLE is all that a slot changes (R364). -/
theorem exec_ownedSlot_idle (hact : s.pw.phase = .active) (h : s.ownedSlot l slot stn ecc = s.sendIdle l slot stn) :
    ∃ t x, exec (.ownedSlot l slot ⟨stn, ecc⟩) s = .next t ∧ look t.link.txSlot l.no = some x ∧ x.idle = true ∧ x.slot = slot ∧
      x.crcOk = true ∧ t.regs = s.regs ∧ t.xact = s.xact := by
  refine ⟨s.sendIdle l slot stn, _, (exec_ownedSlot_eq ..).trans (whenActive_becomes hact h (State.sendSlot_without s (by decide) _ _)),
    s.sendSlot_shows l _, rfl, rfl, slotSeal_crcOk _, rfl, rfl⟩

/-- The bytes of a block go out in a slot (R362). -/
theorem State.sendBlock_shows {q i : Nat} {b : Block} (h : (look s.xact.queues q).blocks[i]? = some b) (lean : Bool) :
    (s.sendBlock q i l lean (s.slotHead l slot stn)).regs = s.regs ∧
    ∃ x, look (s.sendBlock q i l lean (s.slotHead l slot stn)).link.txSlot l.no = some x ∧ x.idle = false ∧ x.slot = slot ∧
      x.queue.toNat = q % 64 ∧ x.qseq.toNat = b.seq % 65536 ∧ x.first = (b.sent == 0) ∧
      x.payload.take (min 128 (b.bytes.length - b.sent)) = (b.bytes.drop b.sent).take 128 ∧ x.crcOk = true := by
  obtain ⟨x, heq⟩ := s.sendBlock_eq h l lean (s.slotHead l slot stn)
  rw [heq]
  exact ⟨rfl, slotSeal (slotWith (s.slotHead l slot stn) q b (min 128 (b.bytes.length - b.sent))), State.sendSlot_shows _ l _, rfl, rfl, BitVec.toNat_ofNat .., BitVec.toNat_ofNat .., rfl, slotWith_payload (s.slotHead l slot stn) q b,
    slotSeal_crcOk (slotWith (s.slotHead l slot stn) q b _)⟩

theorem State.sendBlock_keeps (s : State) (q i : Nat) (l : Lane) (lean : Bool) (head : Slot) :
    (s.sendBlock q i l lean head).regs = s.regs ∧ (s.sendBlock q i l lean head).occurred = s.occurred := by
  unfold State.sendBlock
  dsimp only
  split <;> exact ⟨rfl, rfl⟩

/-- Filling a slot loses no event. -/
theorem State.fillSlot_keeps {j : Nat} (h : s.occurred.getLsbD j = true) (hecc : s.bit QUEUE.EVT.ECC = true) (l : Lane) (slot : Nat) (stn : BitVec 32) :
    (s.fillSlot l slot stn).occurred.getLsbD j = true ∧ (s.fillSlot l slot stn).bit QUEUE.EVT.ECC = true := by
  rcases hp : s.slotPick l slot stn with _ | ⟨q, i⟩
  · rw [State.fillSlot_idle hp]
    exact ⟨h, hecc⟩
  · rw [State.fillSlot_block hp]
    obtain ⟨hregs, hocc⟩ := s.sendBlock_keeps q i l (s.leanSlot l slot stn.toNat) (s.slotHead l slot stn)
    generalize s.sendBlock q i l (s.leanSlot l slot stn.toNat) (s.slotHead l slot stn) = t at hregs hocc
    have hbit : t.bit QUEUE.EVT.ECC = s.bit QUEUE.EVT.ECC := by simp only [State.bit, State.get, State.reg, hregs]
    split
    · exact ⟨by rw [State.inc_occurred, hocc, h], (by rw [State.bit, State.inc, State.get_set_ne _ _ _ _ rfl rfl]; exact hbit.trans hecc)⟩
    · exact ⟨by rw [hocc, h], hbit.trans hecc⟩

/-- A block that the memory lost is an event of its own (R312, R361). -/
theorem State.eccDrop_shows (s : State) (q i : Nat) : (s.eccDrop q i).occurred.getLsbD 43 = true ∧ (s.eccDrop q i).bit QUEUE.EVT.ECC = true := by
  rw [State.eccDrop]
  refine ⟨?_, State.bit_evt _ _ _ _ (by decide)⟩
  rw [State.occur, BitVec.getLsbD_or]
  simp

end

/-! ### What a lean slot serves first (R374) -/

/-- A block of Q1 that this lane's lean slots have begun goes on first. -/
theorem State.leanPick_started {s : State} {l : Lane} {i : Nat}
    (h : (look s.xact.queues 1).blocks.findIdx? (fun b => b.started && b.lane == some l && b.lean) = some i) : s.leanPick l = some (1, i) := by
  simp only [State.leanPick, h]

theorem State.leanPick_fresh {s : State} {l : Lane}
    (h : (look s.xact.queues 1).blocks.findIdx? (fun b => b.started && b.lane == some l && b.lean) = none) :
    s.leanPick l = ((s.pick 0 l true).map (fun i => (0, i))).or (((s.pick 3 l true).map (fun i => (3, i))).or ((s.pick 1 l true).map (fun i => (1, i)))) := by
  simp only [State.leanPick, h]

end Sys2Proof.Machine
end
-- ==== Sys2Proof/Proofs/Slots.lean ====
section
/-! O45. Slots that arrive, are passed on or are the device's own (R318, R322 to R326, R346, R352, R364, R374). -/
namespace Sys2Proof.Machine

/-! ### What arrives and what leaves -/

theorem exec_slotRx_eq (p : Port) (sos : Bool) (x : Slot) (s : State) : exec (.slotRx p sos x) s =
    whenActive [.xact, .link] s fun s => s.slotArrives p sos x := (rfl)

/-- Passing a slot on sends it, or does nothing. -/
theorem State.passSlot_eq (s : State) (p : Port) (slot : Nat) (y : Slot) :
    ∃ m, s.passSlot p slot y = { s with link := { s.link with txSlot := m } } := by
  unfold State.passSlot
  dsimp only
  split
  · exact ⟨_, rfl⟩
  · exact ⟨s.link.txSlot, rfl⟩

theorem State.passSlot_without (s : State) {c : List Part} (h : Part.link ∈ c) (p : Port) (slot : Nat) (y : Slot) :
    (s.passSlot p slot y).without c = s.without c := by
  obtain ⟨m, heq⟩ := s.passSlot_eq p slot y
  rw [heq, State.withLink_without s h]

/-- Counting an error of a port changes nothing that decides what it forwards and owns. -/
theorem State.setErrs_forwards (s : State) (p : Port) (n : Nat) (l : Lane) (slot stn : Nat) :
    (s.setPort p { s.port p with errs := n }).forwards p = s.forwards p ∧
    (s.setPort p { s.port p with errs := n }).owns l slot stn = s.owns l slot stn ∧
    (s.setPort p { s.port p with errs := n }).frameStn l = s.frameStn l := by
  cases p <;> cases l <;> exact ⟨rfl, rfl, rfl⟩

/-- A slot received in the frame counts its CRC and is passed on (R325). -/
theorem State.slotRx_whole {s : State} {p : Port} {x : Slot} (hup : s.linkUp p = true) (hlost : (s.port p).lost = false)
    (hin : x.slot < slotCount (s.pRateOf p)) : s.slotRx p true x =
      (if x.crcOk then s else s.setPort p { s.port p with errs := min ((s.port p).errs + 1) 65535 }).passSlot p x.slot (forwarded x) := by
  simp [State.slotRx, hup, hlost, Nat.not_le.mpr hin]

/-- A slot start that is missing or outside the frame loses the framing (R326). -/
def State.frameLoss (s : State) (p : Port) : State :=
  ((s.setPort p { s.port p with lost := true }).inc LINK.FRMERR).evt LINK.EVT.FRAMING

theorem State.slotRx_lost {s : State} {p : Port} {sos : Bool} {x : Slot} (hup : s.linkUp p = true) (hlost : (s.port p).lost = false)
    (h : sos = false ∨ slotCount (s.pRateOf p) ≤ x.slot) : s.slotRx p sos x = (s.frameLoss p).passSlot p x.slot x := by
  unfold State.slotRx
  dsimp only
  rw [if_neg (by rw [hup]; decide), if_neg (by rw [hlost]; decide), if_pos h]
  rfl

theorem State.frameLoss_without (s : State) {c : List Part} (h : Part.link ∈ c) (p : Port) : (s.frameLoss p).without c = s.without c := by
  rw [State.frameLoss, State.evt_without, State.inc_without, State.setPort_without _ h]

theorem State.frameLoss_shows (s : State) (p : Port) : ((s.frameLoss p).port p).lost = true ∧ (s.frameLoss p).bit LINK.EVT.FRAMING = true ∧
    (s.frameLoss p).get LINK.FRMERR = min (s.get LINK.FRMERR + 1) 65535 := by
  refine ⟨by cases p <;> rfl, State.bit_evt _ _ _ _ (by decide), ?_⟩
  have hset : (s.setPort p { s.port p with lost := true }).get LINK.FRMERR = s.get LINK.FRMERR := by cases p <;> rfl
  rw [State.frameLoss, State.evt, State.get_set_ne _ _ _ _ rfl rfl, ← hset]
  exact State.get_inc_saturates _ _ _

/-- Without framing no command is taken (R326). -/
theorem State.command_unframed {s : State} {c : Cmd} (h : s.framed c.port = false) (op n : Nat) (ans : Bool) (run : State → State × List Byte) :
    s.command op c n ans run = s := by
  simp [State.command, h]

theorem State.slotArrives_unframed {s t : State} {p : Port} {sos : Bool} {x : Slot} (h : s.slotRx p sos x = t) (hlost : (t.port p).lost = true) :
    s.slotArrives p sos x = t := by
  have hframed : t.framed p = false := by cases p <;> exact congrArg not hlost
  rw [State.slotArrives, h, State.command_unframed (c := slotCmd p x) hframed, ite_self]

/-- A slot start that is missing, or outside the frame, shows as a lost framing (R326). -/
theorem exec_slotRx_lost {s : State} {p : Port} {sos : Bool} {x : Slot} (hact : s.pw.phase = .active) (hup : s.linkUp p = true)
    (hlost : (s.port p).lost = false) (hout : sos = false ∨ slotCount (s.pRateOf p) ≤ x.slot) :
    ∃ t, exec (.slotRx p sos x) s = .next t ∧ (t.port p).lost = true ∧ t.bit LINK.EVT.FRAMING = true ∧
      t.get LINK.FRMERR = min (s.get LINK.FRMERR + 1) 65535 := by
  have hrx := State.slotRx_lost hup hlost hout
  obtain ⟨hl, hev, hcount⟩ := s.frameLoss_shows p
  obtain ⟨m, heq⟩ := (s.frameLoss p).passSlot_eq p x.slot x
  have hl' : (((s.frameLoss p).passSlot p x.slot x).port p).lost = true := by rw [heq]; cases p <;> exact hl
  refine ⟨_, (exec_slotRx_eq ..).trans (whenActive_becomes hact (State.slotArrives_unframed hrx hl') ?_), hl', ?_, ?_⟩
  · rw [State.passSlot_without _ (by decide), State.frameLoss_without s (by decide)]
  · rw [heq]; exact hev
  · rw [heq]; exact hcount

/-- A slot that the device does not own goes on, and counts where its CRC is wrong (R325). -/
theorem exec_slotRx_forwarded {s : State} {p : Port} {x : Slot} (hact : s.pw.phase = .active) (hfwd : s.forwards p = true)
    (hlost : (s.port p).lost = false) (hin : x.slot < slotCount (s.pRateOf p))
    (howns : s.owns p.other.lane x.slot (s.frameStn p.other.lane) = false) (hodd : oddCommand x = false) :
    ∃ t, exec (.slotRx p true x) s = .next t ∧ look t.link.txSlot p.other.lane.no = some (forwarded x) ∧
      (t.port p).errs = (if x.crcOk then (s.port p).errs else min ((s.port p).errs + 1) 65535) ∧ t.regs = s.regs := by
  have hup : s.linkUp p = true := by
    simp only [State.forwards, Bool.and_eq_true] at hfwd
    exact hfwd.1.1.1
  have hsends (u : State) (h : u.forwards p = s.forwards p ∧ u.owns p.other.lane x.slot (s.frameStn p.other.lane) =
      s.owns p.other.lane x.slot (s.frameStn p.other.lane) ∧ u.frameStn p.other.lane = s.frameStn p.other.lane) :
      u.passSlot p x.slot (forwarded x) = u.sendSlot p.other.lane (forwarded x) := by
    obtain ⟨hf, ho, hn⟩ := h
    simp only [State.passSlot, hn, hf, ho, hfwd, howns, Bool.not_false, Bool.and_self, if_true]
  have harrives : s.slotArrives p true x = s.slotRx p true x := by rw [State.slotArrives, hodd]; rfl
  have hrx := harrives.trans (State.slotRx_whole hup hlost hin)
  refine ⟨_, (exec_slotRx_eq ..).trans (whenActive_becomes hact hrx ?_), ?_⟩
  · rw [State.passSlot_without _ (by decide), State.ite_without, State.setPort_without _ (by decide), ite_self]
  · cases hcrc : x.crcOk
    · rw [if_neg (by decide), if_neg (by decide), hsends _ (s.setErrs_forwards p _ _ _ _)]
      exact ⟨State.sendSlot_shows _ _ _, by cases p <;> rfl, by cases p <;> rfl⟩
    · rw [if_pos rfl, if_pos rfl, hsends s ⟨rfl, rfl, rfl⟩]
      exact ⟨State.sendSlot_shows _ _ _, by cases p <;> rfl, rfl⟩

/-! ### Slots with an opcode that is not listed (R352) -/

theorem slotOp_lt (x : Slot) : slotOp x < 256 := (x.payload.getD 0 0#8).isLt

theorem oddCommand_op {x : Slot} (h : oddCommand x = true) : within 1 8 (slotOp x) = false := by
  simp only [oddCommand, Bool.and_eq_true, Bool.not_eq_true'] at h
  exact h.2

theorem State.cmdStatus_odd (s : State) {op : Nat} (h : within 1 8 op = false) (c : Cmd) : s.cmdStatus op c = 1 := by
  rw [State.cmdStatus, if_pos h]

/-- A command slot that arrives whole is passed on, and one with an opcode that is not listed is rejected with OPCODE (R352). -/
theorem State.slotArrives_odd {s : State} {p : Port} {x : Slot} (hlost : (s.port p).lost = false) (hin : x.slot < slotCount (s.pRateOf p))
    (hodd : oddCommand x = true) (harr : s.arrives (slotOp x) (slotCmd p x)) (hsil : Cmd.silent (slotCmd p x) = false)
    (hroom : s.qRoom 3 8 = true) : s.slotArrives p true x =
      ((s.passSlot p x.slot (forwarded x)).reject (slotOp x) 1 (slotCmd p x)).answered (slotCmd p x) (slotOp x) 1 := by
  have hup : s.linkUp p = true := harr.1
  have hcrc : x.crcOk = true := harr.2.2.2.1
  rw [State.slotArrives, State.slotRx_whole hup hlost hin, if_pos hcrc, if_pos hodd]
  obtain ⟨m, heq⟩ := s.passSlot_eq p x.slot (forwarded x)
  rw [heq]
  have harr' : ({ s with link := { s.link with txSlot := m } } : State).arrives (slotOp x) (slotCmd p x) := harr
  rw [State.command_of_arrives harr', State.cmdStatus_odd _ (oddCommand_op hodd)]
  exact State.perform_rejected (by decide) (by decide) hsil hroom

theorem State.reject_cmdcnt (s : State) (op st : Nat) (c : Cmd) : (s.reject op st c).get XACT.CMDCNT = s.get XACT.CMDCNT := by
  rw [State.reject, State.occur_get, State.evt, State.get_set_ne _ _ _ _ rfl rfl, State.get_set_ne _ _ _ _ rfl rfl,
    State.get_set_ne _ _ _ _ rfl rfl, State.inc, State.get_set_ne _ _ _ _ rfl rfl]

theorem State.reject_without (s : State) (c : List Part) (op st : Nat) (d : Cmd) : (s.reject op st d).without c = s.without c := (rfl)

theorem exec_slotRx_odd {s : State} {p : Port} {x : Slot} (hact : s.pw.phase = .active) (hlost : (s.port p).lost = false)
    (hin : x.slot < slotCount (s.pRateOf p)) (hodd : oddCommand x = true) (harr : s.arrives (slotOp x) (slotCmd p x))
    (hsil : Cmd.silent (slotCmd p x) = false) (hroom : s.qRoom 3 8 = true) :
    ∃ t, exec (.slotRx p true x) s = .next t ∧ t.newest 3 = some (Cmd.respHead (slotCmd p x) (slotOp x) 1) ∧
      t.get XACT.REJCNT = min (s.get XACT.REJCNT + 1) 65535 ∧ t.get XACT.LASTREJ = 1 + 256 * slotOp x ∧
      t.bit XACT.EVT.REJECT = true ∧ t.get XACT.CMDCNT = s.get XACT.CMDCNT := by
  obtain ⟨m, heq⟩ := s.passSlot_eq p x.slot (forwarded x)
  have hpass := s.passSlot_without (c := [.xact, .link]) (by decide) p x.slot (forwarded x)
  have hkeep (f : Fld) : (s.passSlot p x.slot (forwarded x)).get f = s.get f := by rw [heq]; rfl
  have hrej := State.slotArrives_odd hlost hin hodd harr hsil hroom
  generalize s.passSlot p x.slot (forwarded x) = u at hrej hkeep hpass
  obtain ⟨y, hnew, hy⟩ := (u.reject (slotOp x) 1 (slotCmd p x)).answered_eq (slotCmd p x) (slotOp x) 1
  obtain ⟨hcount, hlast, -, hev⟩ := u.reject_shows (slotOp_lt x) (show 1 < 256 by decide) (slotCmd p x)
  refine ⟨_, (exec_slotRx_eq ..).trans (whenActive_becomes hact (hrej.trans hy) ?_), hnew, ?_, hlast, hev, ?_⟩
  · rw [State.withXact_without _ (by decide), State.reject_without, hpass]
  · exact hcount.trans (by rw [hkeep])
  · exact (u.reject_cmdcnt _ _ _).trans (hkeep _)

/-- Settles O45: what each slot leaves is `exec_slotRx_lost`, `exec_slotRx_forwarded`, `exec_slotRx_odd` and `State.ownedSlot_ready`. -/
theorem slots : Obligations.Slots := by
  refine ⟨fun _ _ _ _ hact hup hlost hout => exec_slotRx_lost hact hup hlost hout,
    fun _ _ _ hact hfwd hlost hin howns hodd => exec_slotRx_forwarded hact hfwd hlost hin howns hodd,
    fun x => ⟨forwarded_hop x, forwarded_payload x, forwarded_crcOk x⟩,
    fun _ _ _ hact hlost hin hodd harr hsil hroom => exec_slotRx_odd hact hlost hin hodd harr hsil hroom,
    fun s l slot stn ecc hact hdown => ?_,
    fun s l slot q i stn b hact hup hlean hplan hpick hb hin hlost => ?_, fun s l slot q i stn hact hup hlean hplan hpick hin hlost => ?_,
    fun s l slot q i stn ecc hact hup hlean hplan hpick hin hlost => ?_, fun s l slot stn ecc hact hframe hup hin howns => ?_,
    fun s l slot q stn ecc hact hup hlean hplan hpick hin => ?_,
    fun s l slot q i stn b hact hup hlean hpick hb hin hlost => ?_, fun s l slot stn ecc hact hup hlean hpick hin => ?_,
    fun s l => ⟨fun i h => State.leanPick_started h, fun h => ⟨fun i h0 => ?_, fun i h0 h3 => ?_, fun h0 h3 => ?_⟩⟩⟩
  case refine_1 =>
    have h : s.ownedSlot l slot stn ecc = s := by simp [State.ownedSlot, hdown]
    exact (exec_ownedSlot_eq ..).trans (whenActive_same hact h)
  case refine_2 =>
    have hready := State.slotPick_plan hlean hplan
    rw [hpick] at hready
    have h := State.ownedSlot_ready (ecc := false) hup hin (State.owns_of_plan hplan) hready
    rw [hlost, if_neg (by decide), if_neg (by decide), State.fillSlot_block hready, hlean, if_neg (by decide)] at h
    obtain ⟨hregs, x, hx, hidle, -, hq, hseq, hfirst, hpay, hcrc⟩ := State.sendBlock_shows (stn := stn) (slot := slot) (l := l) hb false
    exact ⟨_, x, (exec_ownedSlot_eq ..).trans (whenActive_becomes hact h (State.sendBlock_without _ (by decide) (by decide) _ _ _ _ _)),
      hx, hidle, hq, hseq, hfirst, hpay, hcrc, hregs⟩
  case refine_3 =>
    have hready := State.slotPick_plan hlean hplan
    rw [hpick] at hready
    have h := State.ownedSlot_ready (ecc := true) hup hin (State.owns_of_plan hplan) hready
    rw [hlost, if_neg (by decide), if_pos rfl] at h
    obtain ⟨hocc, hev⟩ := s.eccDrop_shows q i
    refine ⟨_, (exec_ownedSlot_eq ..).trans (whenActive_becomes hact h ?_), State.fillSlot_keeps hocc hev l slot stn⟩
    rw [State.fillSlot_without _ (by decide) (by decide), State.eccDrop_without _ (by decide)]
  case refine_4 =>
    have hready := State.slotPick_plan hlean hplan
    rw [hpick] at hready
    have h := State.ownedSlot_ready (ecc := ecc) hup hin (State.owns_of_plan hplan) hready
    rw [hlost, if_pos rfl] at h
    refine ⟨_, _, (exec_ownedSlot_eq ..).trans (whenActive_becomes hact h ?_), s.sendSlot_shows l _, rfl, ?_, ?_, rfl⟩
    · rw [State.occur_without, State.evt_without, State.inc_without, State.sendIdle, State.sendSlot_without _ (by decide)]
    · rw [State.occur_get, State.evt, State.get_set_ne _ _ _ _ rfl rfl]
      exact State.get_inc_saturates _ _ _
    · rw [State.occur, BitVec.getLsbD_or]
      simp
  case refine_5 =>
    obtain ⟨t, x, h, hx, hidle, hslot, hcrc, hregs, hxact⟩ := exec_ownedSlot_idle hact (State.ownedSlot_unowned (ecc := ecc) hup hin hframe howns)
    exact ⟨t, x, h, hx, hidle, hslot, hcrc, hxact, hregs⟩
  case refine_6 =>
    have hready := State.slotPick_plan hlean hplan
    rw [hpick] at hready
    obtain ⟨t, x, h, hx, hidle, hslot, -, hregs, hxact⟩ :=
      exec_ownedSlot_idle hact (State.ownedSlot_empty (ecc := ecc) hup hin (State.owns_of_plan hplan) hready)
    exact ⟨t, x, h, hx, hidle, hslot, hregs, hxact⟩
  case refine_7 =>
    have hready := (State.slotPick_lean hlean).trans hpick
    have h := State.ownedSlot_ready (ecc := false) hup hin (State.owns_of_lean hlean) hready
    rw [hlost, if_neg (by decide), if_neg (by decide), State.fillSlot_block hready, hlean, if_pos rfl] at h
    obtain ⟨hregs, x, hx, hidle, hslot, hq, hseq, hfirst, hpay, hcrc⟩ := State.sendBlock_shows (stn := stn) (slot := slot) (l := l) hb true
    refine ⟨_, x, (exec_ownedSlot_eq ..).trans (whenActive_becomes hact h ?_), hx, hidle, hslot, hq, hseq, hfirst, hpay, hcrc, ?_⟩
    · rw [State.inc_without, State.sendBlock_without _ (by decide) (by decide)]
    · refine (State.get_inc_saturates _ _ _).trans ?_
      simp only [State.get, State.reg, hregs]
  case refine_8 =>
    obtain ⟨t, x, h, hx, hidle, hslot, -, hregs, hxact⟩ := exec_ownedSlot_idle hact
      (State.ownedSlot_empty (ecc := ecc) hup hin (State.owns_of_lean hlean) ((State.slotPick_lean hlean).trans hpick))
    exact ⟨t, x, h, hx, hidle, hslot, hregs, hxact⟩
  case refine_9 => rw [State.leanPick_fresh h, h0]; rfl
  case refine_10 => rw [State.leanPick_fresh h, h0, h3]; rfl
  case refine_11 => rw [State.leanPick_fresh h, h0, h3]; rfl

end Sys2Proof.Machine
end
-- ==== Sys2Proof/Proofs/GalleryFolds.lean ====
section
/-! SUPPORT. A fold of the gallery: whole seconds go into the histograms, the remainders stay (R389). -/
namespace Sys2Proof.Machine

/-! ### Tables without a repeated key -/

/-- A key at or below every key of a table reads as the default. -/
theorem look_of_le {m : SMap Nat} {b k : Nat} (h : mapWfFrom (fun _ => 0) (some b) m = true) (hk : k ≤ b) : look m k = 0 := by
  induction m generalizing b with
  | nil => rfl
  | cons e m ih =>
    obtain ⟨k', v⟩ := e
    simp only [mapWfFrom, Bool.and_eq_true, decide_eq_true_eq] at h
    obtain ⟨⟨hlt, -⟩, htail⟩ := h
    have hne : k' ≠ k := by omega
    exact (if_neg hne : look ((k', v) :: m) k = look m k).trans (ih htail (by omega))

theorem look_cons (k' v : Nat) (m : SMap Nat) (k : Nat) : look ((k', v) :: m) k = if k' = k then v else look m k := rfl

/-- The front entry of a table: its value is not the default, and its key stands in no later entry. -/
theorem mapWfFrom_cons {b : Option Nat} {k v : Nat} {m : SMap Nat} (h : mapWfFrom (fun _ => 0) b ((k, v) :: m) = true) :
    v ≠ 0 ∧ mapWfFrom (fun _ => 0) (some k) m = true ∧ look m k = 0 := by
  simp only [mapWfFrom, Bool.and_eq_true, decide_eq_true_eq] at h
  obtain ⟨⟨-, hv⟩, htail⟩ := h
  exact ⟨hv, htail, look_of_le htail le_rfl⟩

theorem look_foldSecs {secs treads : SMap Nat} {b : Option Nat} (hwf : mapWfFrom (fun _ => 0) b treads = true)
    (k : Nat) (hcap : look secs k ≤ 4294967295) : look (foldSecs secs treads) k = min (look secs k + look treads k / 1000) 4294967295 := by
  induction treads generalizing secs b with
  | nil =>
    have hnone : look ([] : SMap Nat) k = 0 := rfl
    rw [hnone, Nat.zero_div, Nat.add_zero, Nat.min_eq_left hcap]
    rfl
  | cons e m ih =>
    obtain ⟨k', v⟩ := e
    obtain ⟨-, htail, hnone⟩ := mapWfFrom_cons hwf
    have hstep : foldSecs secs ((k', v) :: m) = foldSecs (adj secs k' (fun u => min (u + v / 1000) 4294967295)) m := rfl
    rw [hstep, look_cons]
    by_cases hk : k' = k
    · subst hk
      have hlook : look (adj secs k' (fun u => min (u + v / 1000) 4294967295)) k' = min (look secs k' + v / 1000) 4294967295 := by
        rw [look_adj, if_pos rfl]
      rw [ih htail (by rw [hlook]; exact Nat.min_le_right _ _), hlook, hnone, if_pos rfl]
      omega
    · have hlook : look (adj secs k' (fun u => min (u + v / 1000) 4294967295)) k = look secs k := by
        rw [look_adj, if_neg (Ne.symm hk)]
      rw [ih htail (by rw [hlook]; exact hcap), hlook, if_neg hk]

theorem look_foldRem {treads : SMap Nat} (hwf : mapWf (fun _ => 0) treads = true) (k : Nat) : look (foldRem treads) k = look treads k % 1000 := by
  have hgen (m acc : SMap Nat) (b : Option Nat) (h : mapWfFrom (fun _ => 0) b m = true) :
      look (m.foldl (fun (m : SMap Nat) e => put m e.1 (e.2 % 1000)) acc) k = if look m k = 0 then look acc k else look m k % 1000 := by
    induction m generalizing acc b with
    | nil => rfl
    | cons e m ih =>
      obtain ⟨k', v⟩ := e
      obtain ⟨hv, htail, hnone⟩ := mapWfFrom_cons h
      rw [List.foldl_cons, ih _ _ htail, look_cons, look_put]
      by_cases hk : k' = k
      · subst hk
        rw [if_pos rfl, if_pos hnone, if_pos rfl, if_neg hv]
      · rw [if_neg (Ne.symm hk), if_neg hk]
  rw [foldRem, hgen treads [] none hwf]
  split
  · next h => rw [h]; rfl
  · rfl

/-! ### The end of an epoch -/

section
variable (s : State)

theorem State.only_gal (t : State) {c : List Part} (hc : Part.gal ∈ c) : (s.only t c).gal = t.gal := by simp [State.only, hc]

theorem State.xfer_gal : ∃ x, s.xfer.gal = { s.gal with xport := x } := by
  unfold State.xfer
  split
  · exact ⟨s.gal.xport, rfl⟩
  · exact ⟨_, rfl⟩

/-- No step of an exported image ends an event. -/
theorem State.xfer_event (h : s.bit GAL.EVT.FOLD = true) : s.xfer.bit GAL.EVT.FOLD = true := by
  unfold State.xfer
  split
  · rw [State.bit, State.evt, State.get_set_ne _ _ _ _ rfl rfl, State.inc, State.get_set_ne _ _ _ _ rfl rfl]
    exact h
  · rw [State.bit, State.setB, State.get_set_ne _ _ _ _ rfl rfl]
    exact h

theorem State.galNewer_event (h : s.bit GAL.EVT.FOLD = true) : s.galNewer.bit GAL.EVT.FOLD = true := by
  unfold State.galNewer
  split
  · rw [State.bit, State.setB, State.get_set_ne _ _ _ _ rfl rfl]
    exact h
  · exact h

theorem State.trendEpoch_without {c : List Part} (h : Part.imp ∈ c) : s.trendEpoch.without c = s.without c := by
  have hclear (u : State) : u.trendClear.without c = u.without c := State.withImp_without u h _
  unfold State.trendEpoch
  split
  · exact hclear s
  · rw [State.impStatus_without, State.impNewer_without, hclear, State.withImp_without _ h]

theorem State.trendEpoch_pageWords {p : Nat} (h : 0x13 ≠ p) (h' : 0x14 ≠ p) : s.trendEpoch.pageWords p = s.pageWords p := by
  have himp (u : State) (i : Imp) : ({ u with imp := i } : State).pageWords p = u.pageWords p := rfl
  have hclear (u : State) : u.trendClear.pageWords p = u.pageWords p := himp u _
  have hnewer (u : State) : u.impNewer.pageWords p = u.pageWords p := by
    simp (disch := simpa [Fld.addr, linear] using h') only [State.impNewer, State.ite_pageWords, State.set_pageWords, ite_self]
  unfold State.trendEpoch
  split
  · exact hclear s
  · rw [State.impStatus_pageWords _ h, hnewer, hclear, himp]

theorem State.handEpoch_without {c : List Part} (h : Part.fl ∈ c) : s.handEpoch.without c = s.without c := by
  unfold State.handEpoch
  split
  · rw [State.inc_without]
  · dsimp only
    split
    · rw [State.handSeal_without _ h, State.handSet_without _ h, State.setFl_without _ h, State.handSet_without _ h]
    · rw [State.handSet_without _ h]

theorem State.handEpoch_pageWords {p : Nat} (h : 0x19 ≠ p) : s.handEpoch.pageWords p = s.pageWords p := by
  unfold State.handEpoch
  split
  · rw [State.inc_pageWords _ (by simpa [Fld.addr, linear] using h)]
  · dsimp only
    split
    · rw [State.handSeal_pageWords _ h, State.handSet_pageWords _ h, State.setFl_pageWords, State.handSet_pageWords _ h]
    · rw [State.handSet_pageWords _ h]

/-- The fold of an epoch: the gallery's own part of it. -/
def State.foldNow : State := (s.setGal { s.gal.fold s.tm.ltc true with epochUse := none }).evt GAL.EVT.FOLD

/-- What an epoch's end hands on to an exported image. -/
def State.foldExport : State := (if s.bit { GAL.XFER with w := 1 } then s.xfer else s).galNewer

theorem State.foldExport_gal : ∃ x, s.foldExport.gal = { s.gal with xport := x } := by
  rw [State.foldExport, State.gal_of_without (c := []) (by decide) (State.galNewer_without _)]
  split
  · exact s.xfer_gal
  · exact ⟨s.gal.xport, rfl⟩

theorem State.foldExport_event (h : s.bit GAL.EVT.FOLD = true) : s.foldExport.bit GAL.EVT.FOLD = true := by
  rw [State.foldExport]
  refine State.galNewer_event _ ?_
  split
  · exact s.xfer_event h
  · exact h

/-- What an epoch's end hands on to the trends, the flash and an exported image changes nothing of the fold. -/
theorem State.foldRest_gal (u : State) : ∃ x, u.trendEpoch.handEpoch.foldExport.gal = { u.gal with xport := x } := by
  obtain ⟨x, hx⟩ := u.trendEpoch.handEpoch.foldExport_gal
  refine ⟨x, hx.trans ?_⟩
  rw [State.gal_of_without (c := [.fl]) (by decide) (State.handEpoch_without _ (by decide)),
    State.gal_of_without (c := [.imp]) (by decide) (State.trendEpoch_without _ (by decide))]

theorem State.foldRest_event (u : State) (h : u.bit GAL.EVT.FOLD = true) : u.trendEpoch.handEpoch.foldExport.bit GAL.EVT.FOLD = true := by
  refine State.foldExport_event _ ?_
  rw [State.bit_of_pageWords (State.handEpoch_pageWords _ (by decide)) rfl, State.bit_of_pageWords (u.trendEpoch_pageWords (by decide) (by decide)) rfl, h]

end

theorem exec_epochFold_eq (s : State) : exec .epochFold s = whenActive [.bal, .imp, .gal, .fl] s fun s =>
    if s.epochEnd = false ∨ s.life = 3 then s else s.foldNow.trendEpoch.handEpoch.foldExport := (rfl)

/-- An epoch's end folds the remainders (R389). -/
theorem exec_epochFold_folds {s : State} (hact : s.pw.phase = .active) (hend : s.epochEnd = true) (hlife : s.life ≠ 3) :
    ∃ t x, exec .epochFold s = .next t ∧ t.gal = { s.gal.fold s.tm.ltc true with epochUse := none, xport := x } ∧ t.bit GAL.EVT.FOLD = true := by
  have hnot : ¬ (s.epochEnd = false ∨ s.life = 3) := by simp [hend, hlife]
  obtain ⟨x, hx⟩ := s.foldNow.foldRest_gal
  refine ⟨_, x, (exec_epochFold_eq s).trans (whenActive_active _ s _ hact), ?_, ?_⟩
  · rw [if_neg hnot, State.only_gal _ _ (by decide), hx]
    rfl
  · rw [if_neg hnot, State.only_bit]
    exact State.foldRest_event _ (State.bit_evt _ _ _ _ (by decide))

end Sys2Proof.Machine
end
-- ==== Sys2Proof/Proofs/GalleryCells.lean ====
section
/-! SUPPORT. What one tread adds to the gallery: a count in the bins of each cell, and its extremes (R381 to R385). -/
namespace Sys2Proof.Machine

/-! ### What a count looks at -/

/-- A state as it stands while a tread is counted: nothing differs but the gallery, without its edges, and the event of a new extreme. -/
structure State.Counting (s u : State) : Prop where
  eq : u = { s with regs := u.regs, gal := u.gal }
  edges : u.gal.edges = s.gal.edges
  reg : ∀ a, a ≠ GAL.EVT.EXTREME.addr → u.reg a = s.reg a

namespace State.Counting
variable {s u v : State}

theorem refl (s : State) : s.Counting s := ⟨rfl, rfl, fun _ _ => rfl⟩

theorem trans (h : s.Counting u) (h' : u.Counting v) : s.Counting v := by
  refine ⟨?_, h'.edges.trans h.edges, fun a ha => (h'.reg a ha).trans (h.reg a ha)⟩
  rw [h'.eq]
  conv_lhs => rw [h.eq]

theorem cells (h : s.Counting u) : u.cells = s.cells := by rw [h.eq]
theorem imp (h : s.Counting u) : u.imp = s.imp := by rw [h.eq]
theorem fl (h : s.Counting u) : u.fl = s.fl := by rw [h.eq]

theorem edgesOf (h : s.Counting u) (k : Nat) : u.edgesOf k = s.edgesOf k := by rw [State.edgesOf, State.edgesOf, h.edges]

theorem extStamp (h : s.Counting u) (v : Int) (g : Bool) : u.extStamp v g = s.extStamp v g := by
  simp only [State.extStamp, h.cells]

theorem get (h : s.Counting u) {f : Fld} (hf : f.addr ≠ GAL.EVT.EXTREME.addr) : u.get f = s.get f := by
  rw [State.get, State.get, h.reg _ hf]

theorem rshunt (h : s.Counting u) : u.get2 CURR.RSHUNT0 = s.get2 CURR.RSHUNT0 := by
  rw [State.get2, State.get2, h.get (by decide), h.get (by decide)]

theorem irec (h : s.Counting u) : u.irec = s.irec := by
  rw [State.irec, State.irec, State.bit, State.bit, h.get (by decide), h.rshunt]

end State.Counting

theorem State.setGal_counting (s : State) {g : Gal} (h : g.edges = s.gal.edges) : s.Counting (s.setGal g) := ⟨rfl, h, fun _ _ => rfl⟩

theorem State.hourly_counting (s : State) (i : Nat) (up : Bool) (v : Int) : s.Counting (s.hourly i up v) := s.setGal_counting rfl

/-! ### Extremes (R385) -/

/-- An extreme stands against a value that is not strictly larger (`up`), or not strictly smaller. -/
def Extreme.stands (e : Extreme) (up : Bool) (v : Int) : Bool := e.has && (if up then decide (v ≤ e.v) else decide (e.v ≤ v))

/-- The extreme after a value. -/
def Extreme.next (e : Extreme) (up : Bool) (v : Int) (stamp : Extreme) : Extreme := if e.stands up v then e else stamp

theorem Extreme.next_up (e : Extreme) (v : Int) (x : Extreme) : e.next true v x = if e.has = true ∧ v ≤ e.v then e else x := by
  simp [Extreme.next, Extreme.stands]

theorem Extreme.next_down (e : Extreme) (v : Int) (x : Extreme) : e.next false v x = if e.has = true ∧ e.v ≤ v then e else x := by
  simp [Extreme.next, Extreme.stands]

section
variable (s : State) (i : Nat) (up : Bool) (v : Int) (g : Bool)

theorem State.extreme_stands (h : (look s.gal.img.ext i).stands up v = true) : s.extreme i up v g = s := if_pos h

theorem State.extreme_replaced (h : (look s.gal.img.ext i).stands up v = false) : s.extreme i up v g =
    (s.setGal { s.gal with img := { s.gal.img with ext := put s.gal.img.ext i (s.extStamp v g) } }).evt GAL.EVT.EXTREME :=
  if_neg (Bool.eq_false_iff.mp h)

theorem State.extreme_counting : s.Counting (s.extreme i up v g) := by
  cases h : (look s.gal.img.ext i).stands up v
  · rw [State.extreme_replaced _ _ _ _ _ h]
    exact ⟨rfl, rfl, fun a ha => State.reg_setReg_ne _ _ _ _ ha⟩
  · rw [State.extreme_stands _ _ _ _ _ h]
    exact .refl s

theorem State.extreme_gal : (s.extreme i up v g).gal = { s.gal with img := { s.gal.img with ext := (s.extreme i up v g).gal.img.ext } } := by
  cases h : (look s.gal.img.ext i).stands up v
  · rw [State.extreme_replaced _ _ _ _ _ h]; rfl
  · rw [State.extreme_stands _ _ _ _ _ h]

theorem State.extreme_ext (j : Nat) : look (s.extreme i up v g).gal.img.ext j =
    if j = i then (look s.gal.img.ext i).next up v (s.extStamp v g) else look s.gal.img.ext j := by
  cases h : (look s.gal.img.ext i).stands up v
  · rw [State.extreme_replaced _ _ _ _ _ h, Extreme.next, h, if_neg Bool.false_ne_true]
    exact look_put s.gal.img.ext i j (s.extStamp v g)
  · rw [State.extreme_stands _ _ _ _ _ h, Extreme.next, if_pos h]
    split
    · next hj => rw [hj]
    · rfl

theorem State.hourly_gal : (s.hourly i up v).gal = { s.gal with hour := (s.hourly i up v).gal.hour } := rfl

/-- A pair of extremes, the larger and the smaller, with the quantities of the hourly record. -/
def State.bothExtremes (s : State) (i : Nat) (v : Int) : State :=
  (((s.extreme i true v false).extreme (i + 1) false v false).hourly i true v).hourly (i + 1) false v

theorem State.bothExtremes_counting : s.Counting (s.bothExtremes i v) :=
  (((s.extreme_counting i true v false).trans (State.extreme_counting _ _ _ _ _)).trans (State.hourly_counting _ _ _ _)).trans
    (State.hourly_counting _ _ _ _)

theorem State.bothExtremes_gal : (s.bothExtremes i v).gal =
    { s.gal with hour := (s.bothExtremes i v).gal.hour, img := { s.gal.img with ext := (s.bothExtremes i v).gal.img.ext } } := by
  have h1 := s.extreme_gal i true v false
  have h2 := (s.extreme i true v false).extreme_gal (i + 1) false v false
  rw [h1] at h2
  rw [State.bothExtremes, State.hourly_gal, State.hourly_gal, h2]

theorem State.bothExtremes_ext (j : Nat) : look (s.bothExtremes i v).gal.img.ext j =
    if j = i then (look s.gal.img.ext i).next true v (s.extStamp v false)
    else if j = i + 1 then (look s.gal.img.ext (i + 1)).next false v (s.extStamp v false) else look s.gal.img.ext j := by
  have hstamp := (s.extreme_counting i true v false).extStamp v false
  have hext : (s.bothExtremes i v).gal.img.ext = ((s.extreme i true v false).extreme (i + 1) false v false).gal.img.ext := rfl
  rw [hext, State.extreme_ext, State.extreme_ext, State.extreme_ext, hstamp, if_neg (Nat.succ_ne_self i)]
  by_cases h : j = i
  · rw [if_pos h, if_pos h, if_neg (by omega)]
  · rw [if_neg h, if_neg h]

end

/-! ### One cell (R382, R383) -/

/-- The voltage of a cell is known. -/
def Res.binned (r : Res) : Bool := !(r.nbr || r.stale || (r.unc == 15 && !r.ovr))

/-- A value that may become an extreme is without flags. -/
def Res.clean (r : Res) : Bool := !(r.nbr || r.stale || r.ovr || r.bal || r.pls || r.unc == 15)

section
variable (s : State) (c : Nat)

/-- The voltage of a cell counts in bin `k` of the voltage histograms. -/
def State.voltIn (k : Nat) : Bool :=
  (look s.cells.snap c).binned && k == c * 64 + binOf (s.edgesOf 0) (((look s.cells.snap c).v + 300000) / 100)

/-- A cell's temperature is neither NONE nor OLD. -/
def State.tempKnown : Bool := (look s.imp.img.temps c).has && !(look s.imp.img.temps c).old

/-- The temperature of a cell counts in bin `k` of the temperature histograms. -/
def State.tempIn (k : Nat) : Bool := s.tempKnown c && k == c * 32 + binOf (s.edgesOf 1) (look s.imp.img.temps c).v

/-- The voltage of a cell, counted; `galVolt` without the extremes. -/
def State.voltBin : State :=
  if (look s.cells.snap c).binned then
    s.setGal { s.gal with rv := adj s.gal.rv (c * 64 + binOf (s.edgesOf 0) (((look s.cells.snap c).v + 300000) / 100)) (· + 1) }
  else s.setGal { s.gal with rUnV := s.gal.rUnV + 1 }

theorem State.galVolt_eq : s.galVolt c =
    if (look s.cells.snap c).clean then (s.voltBin c).bothExtremes (3 * c) (look s.cells.snap c).v else s.voltBin c := by
  unfold State.galVolt State.voltBin Res.clean Res.binned
  dsimp only
  cases ((look s.cells.snap c).nbr || (look s.cells.snap c).stale || ((look s.cells.snap c).unc == 15 && !(look s.cells.snap c).ovr)) <;>
    cases ((look s.cells.snap c).nbr || (look s.cells.snap c).stale || (look s.cells.snap c).ovr || (look s.cells.snap c).bal ||
      (look s.cells.snap c).pls || (look s.cells.snap c).unc == 15) <;> rfl

/-- The temperature of a cell, counted; `galTemp` without the extreme. -/
def State.tempBin : State :=
  s.setGal { s.gal with rt := adj s.gal.rt (c * 32 + binOf (s.edgesOf 1) (look s.imp.img.temps c).v) (· + 1) }

theorem State.galTemp_eq : s.galTemp c =
    if s.tempKnown c then
      ((s.tempBin c).extreme (3 * c + 2) true (look s.imp.img.temps c).v (look s.imp.tofs c).isNone).hourly (3 * c + 2) true (look s.imp.img.temps c).v
    else s.setGal { s.gal with rUnT := s.gal.rUnT + 1 } := rfl

/-! What each step leaves. -/

theorem look_adj_succ (m : SMap Nat) (k j : Nat) : look (adj m k (· + 1)) j = look m j + if j == k then 1 else 0 := by
  rw [look_adj]
  by_cases h : j = k
  · rw [if_pos h, if_pos (by simpa using h), h]
  · rw [if_neg h, if_neg (by simpa using h), Nat.add_zero]

theorem State.voltBin_counting : s.Counting (s.voltBin c) := by
  unfold State.voltBin
  split <;> exact s.setGal_counting rfl

theorem State.voltBin_gal : (s.voltBin c).gal = { s.gal with rv := (s.voltBin c).gal.rv, rUnV := (s.voltBin c).gal.rUnV } := by
  unfold State.voltBin
  split <;> rfl

theorem State.voltBin_rv (k : Nat) : look (s.voltBin c).gal.rv k = look s.gal.rv k + if s.voltIn c k then 1 else 0 := by
  unfold State.voltBin State.voltIn
  split
  · next h => rw [h, Bool.true_and]; exact look_adj_succ s.gal.rv _ k
  · next h => rw [Bool.eq_false_iff.mpr h]; rfl

theorem State.galVolt_counting : s.Counting (s.galVolt c) := by
  rw [State.galVolt_eq]
  split
  · exact (s.voltBin_counting c).trans (State.bothExtremes_counting _ _ _)
  · exact s.voltBin_counting c

theorem State.galVolt_gal : (s.galVolt c).gal = { s.gal with
    rv := (s.voltBin c).gal.rv, rUnV := (s.voltBin c).gal.rUnV, hour := (s.galVolt c).gal.hour,
    img := { s.gal.img with ext := (s.galVolt c).gal.img.ext } } := by
  rw [State.galVolt_eq]
  split
  · have h := (s.voltBin c).bothExtremes_gal (3 * c) (look s.cells.snap c).v
    rw [h, s.voltBin_gal c]
  · rw [s.voltBin_gal c]

theorem State.galTemp_counting : s.Counting (s.galTemp c) := by
  rw [State.galTemp_eq]
  split
  · exact (Counting.trans (s.setGal_counting rfl : s.Counting (s.tempBin c)) (State.extreme_counting _ _ _ _ _)).trans (State.hourly_counting _ _ _ _)
  · exact s.setGal_counting rfl

theorem State.galTemp_gal : (s.galTemp c).gal = { s.gal with
    rt := (s.galTemp c).gal.rt, rUnT := (s.galTemp c).gal.rUnT, hour := (s.galTemp c).gal.hour,
    img := { s.gal.img with ext := (s.galTemp c).gal.img.ext } } := by
  rw [State.galTemp_eq]
  split
  · rw [State.hourly_gal, State.extreme_gal]
    rfl
  · rfl

theorem State.galTemp_rt (k : Nat) : look (s.galTemp c).gal.rt k = look s.gal.rt k + if s.tempIn c k then 1 else 0 := by
  rw [State.galTemp_eq, State.tempIn]
  split
  · next h =>
    rw [h, Bool.true_and, State.hourly_gal, State.extreme_gal]
    exact look_adj_succ s.gal.rt _ k
  · next h => rw [Bool.eq_false_iff.mpr h]; rfl

theorem State.galTemp_rUnT : (s.galTemp c).gal.rUnT = s.gal.rUnT + if s.tempKnown c then 0 else 1 := by
  rw [State.galTemp_eq]
  split
  · rw [State.hourly_gal, State.extreme_gal]; rfl
  · rfl

/-- The extreme at a place of cell `c`, after the cell's values: the highest and the lowest voltage, the highest temperature. -/
def State.extNext (j : Nat) : Extreme :=
  let r := look s.cells.snap (j / 3)
  let e := look s.gal.img.ext j
  if j % 3 = 2 then
    if s.tempKnown (j / 3) then e.next true (look s.imp.img.temps (j / 3)).v (s.extStamp (look s.imp.img.temps (j / 3)).v (look s.imp.tofs (j / 3)).isNone) else e
  else if r.clean then e.next (j % 3 == 0) r.v (s.extStamp r.v false) else e

theorem State.galVolt_ext (j : Nat) : look (s.galVolt c).gal.img.ext j =
    if j = 3 * c ∨ j = 3 * c + 1 then s.extNext j else look s.gal.img.ext j := by
  have hbin : (s.voltBin c).gal.img = s.gal.img := by rw [s.voltBin_gal c]
  have hstamp := (s.voltBin_counting c).extStamp (look s.cells.snap c).v false
  have hplace (h : j = 3 * c ∨ j = 3 * c + 1) : j / 3 = c ∧ ¬ j % 3 = 2 := by omega
  rw [State.galVolt_eq, apply_ite State.gal, apply_ite Gal.img, apply_ite GalObj.ext, apply_ite (look · j), State.bothExtremes_ext, hbin, hstamp]
  by_cases h : j = 3 * c ∨ j = 3 * c + 1
  · obtain ⟨hc, h2⟩ := hplace h
    rw [if_pos h, State.extNext, hc, if_neg h2]
    rcases h with h | h
    · subst h
      have h0 : (3 * c % 3 == 0) = true := by simp
      rw [h0, if_pos rfl]
    · subst h
      have h0 : ((3 * c + 1) % 3 == 0) = false := by simp
      rw [h0, if_neg (show ¬ 3 * c + 1 = 3 * c by omega), if_pos rfl]
  · rw [if_neg h, if_neg (fun h' => h (.inl h')), if_neg (fun h' => h (.inr h')), ite_self]

theorem State.galTemp_ext (j : Nat) : look (s.galTemp c).gal.img.ext j = if j = 3 * c + 2 then s.extNext j else look s.gal.img.ext j := by
  have hplace (h : j = 3 * c + 2) : j / 3 = c ∧ j % 3 = 2 := by omega
  rw [State.galTemp_eq, apply_ite State.gal, apply_ite Gal.img, apply_ite GalObj.ext, apply_ite (look · j), State.hourly_gal]
  dsimp only
  rw [State.extreme_ext]
  by_cases h : j = 3 * c + 2
  · obtain ⟨hc, h2⟩ := hplace h
    rw [if_pos h, if_pos h, State.extNext, hc, if_pos h2, ← h]
    rfl
  · rw [if_neg h, if_neg h]
    exact ite_self _

end

end Sys2Proof.Machine
end
-- ==== Sys2Proof/Proofs/GalleryTreads.lean ====
section
/-! SUPPORT. One tread of the gallery, over every cell, the current and the die (R381, R384). -/
namespace Sys2Proof.Machine

/-! ### Every cell -/

/-- The gallery after the first `n` cells have been counted. -/
structure State.Counted (s : State) (n : Nat) (u : State) : Prop where
  counting : s.Counting u
  gal : u.gal = { s.gal with rv := u.gal.rv, rUnV := u.gal.rUnV, rt := u.gal.rt, rUnT := u.gal.rUnT, hour := u.gal.hour,
                             img := { s.gal.img with ext := u.gal.img.ext } }
  rv : ∀ k, look u.gal.rv k = look s.gal.rv k + (List.range n).countP fun c => s.voltIn c k
  rt : ∀ k, look u.gal.rt k = look s.gal.rt k + (List.range n).countP fun c => s.tempIn c k
  rUnT : u.gal.rUnT = s.gal.rUnT + (List.range n).countP fun c => !s.tempKnown c
  ext : ∀ j, look u.gal.img.ext j = if j < 3 * n then s.extNext j else look s.gal.img.ext j

namespace State.Counting
variable {s u : State} (h : s.Counting u)
include h

theorem voltIn (c k : Nat) : u.voltIn c k = s.voltIn c k := by simp only [State.voltIn, h.cells, h.edgesOf]
theorem tempKnown (c : Nat) : u.tempKnown c = s.tempKnown c := by simp only [State.tempKnown, h.imp]
theorem tempIn (c k : Nat) : u.tempIn c k = s.tempIn c k := by simp only [State.tempIn, h.tempKnown, h.imp, h.edgesOf]

theorem extNext {j : Nat} (hj : look u.gal.img.ext j = look s.gal.img.ext j) : u.extNext j = s.extNext j := by
  simp only [State.extNext, h.cells, h.imp, h.tempKnown, h.extStamp, hj]

end State.Counting

theorem countP_range_succ (p : Nat → Bool) (n : Nat) : (List.range (n + 1)).countP p = (List.range n).countP p + if p n then 1 else 0 := by
  rw [List.range_succ, List.countP_append, List.countP_singleton]

/-- One cell more. -/
theorem State.Counted.step {s u : State} {n : Nat} (h : s.Counted n u) : s.Counted (n + 1) ((u.galVolt n).galTemp n) := by
  have hv := h.counting.trans (u.galVolt_counting n)
  have hgal := (u.galVolt n).galTemp_gal n
  have hgalV := u.galVolt_gal n
  rw [hgalV, h.gal] at hgal
  refine ⟨hv.trans (State.galTemp_counting _ n), ?_, fun k => ?_, fun k => ?_, ?_, fun j => ?_⟩
  · rw [hgal]
  · rw [hgal]
    show look (u.voltBin n).gal.rv k = _
    rw [State.voltBin_rv, h.rv, h.counting.voltIn, countP_range_succ, Nat.add_assoc]
  · rw [State.galTemp_rt, hv.tempIn, countP_range_succ, ← Nat.add_assoc, ← h.rt, hgalV]
  · rw [State.galTemp_rUnT, hv.tempKnown, countP_range_succ, ← Nat.add_assoc, ← h.rUnT, hgalV]
    cases s.tempKnown n <;> rfl
  · have hold (hj : ¬ j < 3 * n) : look u.gal.img.ext j = look s.gal.img.ext j := by rw [h.ext, if_neg hj]
    rw [State.galTemp_ext, State.galVolt_ext]
    by_cases h2 : j = 3 * n + 2
    · have hnew : ¬ (j = 3 * n ∨ j = 3 * n + 1) := by omega
      have hold' : look (u.galVolt n).gal.img.ext j = look s.gal.img.ext j := by rw [State.galVolt_ext, if_neg hnew, hold (by omega)]
      rw [if_pos h2, if_pos (by omega), hv.extNext hold']
    · rw [if_neg h2]
      by_cases hnew : j = 3 * n ∨ j = 3 * n + 1
      · rw [if_pos hnew, if_pos (by omega), h.counting.extNext (hold (by omega))]
      · rw [if_neg hnew, h.ext]
        by_cases hj : j < 3 * n
        · rw [if_pos hj, if_pos (by omega)]
        · rw [if_neg hj, if_neg (by omega)]

/-- Every cell of the first `n`. -/
def State.galCells (s : State) (n : Nat) : State := forEach (List.range n) (fun (c : Nat) (s : State) => (s.galVolt c).galTemp c) s

theorem State.galCells_counted (s : State) (n : Nat) : s.Counted n (s.galCells n) := by
  induction n with
  | zero => exact ⟨.refl s, rfl, fun _ => rfl, fun _ => rfl, rfl, fun _ => rfl⟩
  | succ n ih =>
    have hsucc : s.galCells (n + 1) = ((s.galCells n).galVolt n).galTemp n := by
      rw [State.galCells, List.range_succ, forEach, List.foldl_append]
      rfl
    rw [hsucc]
    exact ih.step

/-! ### The current (R384) -/

section
variable (s : State)

/-- The measured current in mA, from the shunt's value. -/
def State.galAmps : Int := (look s.cells.snap 36).v * 200 / (s.get2 CURR.RSHUNT0 : Int)

/-- The charge of a tread, in the units of the remainders. -/
def State.galCharge : Rat := (((look s.cells.snap 36).v * 20000 : Int) : Rat) / (s.get2 CURR.RSHUNT0 : Rat)

/-- The current, counted; `galCurr` without the extremes. -/
def State.currBin : State :=
  s.setGal { s.gal with
    ri := adj s.gal.ri (binOf (s.edgesOf 2) s.galAmps) (· + 1),
    rChg := if 0 < s.galCharge then s.gal.rChg + s.galCharge else s.gal.rChg,
    rDis := if s.galCharge < 0 then s.gal.rDis - s.galCharge else s.gal.rDis,
    img := { s.gal.img with clip := s.gal.img.clip || (look s.cells.snap 36).ovr } }

theorem Res.flagged_eq (r : Res) : (r.ovr || r.stale || r.pls || r.nbr || r.bal || r.unc == 15) = !r.clean := by
  cases r
  simp only [Res.clean, Bool.not_not]
  ac_rfl

theorem State.galCurr_eq : s.galCurr = if s.irec = false then s
    else if (look s.cells.snap 36).clean then s.currBin.bothExtremes 108 s.galAmps else s.currBin := by
  unfold State.galCurr
  dsimp only
  rw [Res.flagged_eq]
  cases (look s.cells.snap 36).clean <;> rfl

theorem State.currBin_counting : s.Counting s.currBin := s.setGal_counting rfl

theorem State.galCurr_counting : s.Counting s.galCurr := by
  rw [State.galCurr_eq]
  split
  · exact .refl s
  · split
    · exact s.currBin_counting.trans (State.bothExtremes_counting _ _ _)
    · exact s.currBin_counting

theorem State.galCurr_unrecorded (h : s.irec = false) : s.galCurr = s := by rw [State.galCurr_eq, if_pos h]

theorem State.galCurr_gal (h : s.irec = true) : s.galCurr.gal = { s.currBin.gal with
    hour := s.galCurr.gal.hour, img := { s.currBin.gal.img with ext := s.galCurr.gal.img.ext } } := by
  rw [State.galCurr_eq, if_neg (by rw [h]; decide)]
  split
  · rw [State.bothExtremes_gal]
  · rfl

theorem State.galCurr_ext (h : s.irec = true) (j : Nat) : look s.galCurr.gal.img.ext j =
    if (look s.cells.snap 36).clean = true ∧ (j = 108 ∨ j = 109) then (look s.gal.img.ext j).next (j == 108) s.galAmps (s.extStamp s.galAmps false)
    else look s.gal.img.ext j := by
  have hstamp := s.currBin_counting.extStamp s.galAmps false
  have hsame : s.currBin.gal.img.ext = s.gal.img.ext := rfl
  rw [State.galCurr_eq, if_neg (by rw [h]; decide)]
  by_cases hc : (look s.cells.snap 36).clean = true
  · rw [if_pos hc, State.bothExtremes_ext, hstamp, hsame]
    by_cases h8 : j = 108
    · subst h8
      rw [if_pos rfl, if_pos ⟨hc, .inl rfl⟩]
      rfl
    · rw [if_neg h8]
      by_cases h9 : j = 109
      · subst h9
        rw [if_pos rfl, if_pos ⟨hc, .inr rfl⟩]
        rfl
      · rw [if_neg h9, if_neg (by simp [h8, h9])]
  · rw [if_neg hc, if_neg (by simp [hc]), hsame]

/-! ### The end of a tread's count -/

theorem State.galDie_counting : s.Counting s.galDie := s.setGal_counting rfl

theorem State.galDie_gal : s.galDie.gal = { s.gal with rd := s.galDie.gal.rd, hour := s.galDie.gal.hour } := rfl

theorem State.galDie_rd : look s.galDie.gal.rd (binOf (defEdges 1) s.cells.dieTemp) = look s.gal.rd (binOf (defEdges 1) s.cells.dieTemp) + 1 := by
  exact (look_adj_succ s.gal.rd _ _).trans (by simp)

/-- The state of a tread with every cell and the current counted. -/
def State.galMeasured : State := (s.galCells s.count).galCurr

theorem State.galMeasured_counting : s.Counting s.galMeasured := (s.galCells_counted s.count).counting.trans (State.galCurr_counting _)

theorem State.galCount_eq : s.galCount = s.galMeasured.galDie.galNewer.galStatus := (rfl)

theorem State.galCount_keeps : s.galCount.gal = s.galMeasured.galDie.gal ∧ s.galCount.fl = s.fl := by
  have hshown : s.galCount.gal = s.galMeasured.galDie.gal ∧ s.galCount.fl = s.galMeasured.galDie.fl := by
    rw [State.galCount_eq]
    generalize s.galMeasured.galDie = u
    unfold State.galNewer
    split <;> exact ⟨rfl, rfl⟩
  exact ⟨hshown.1, hshown.2.trans (s.galMeasured_counting.trans (State.galDie_counting _)).fl⟩

end

theorem State.only_fl (s t : State) {c : List Part} (hc : Part.fl ∈ c) : (s.only t c).fl = t.fl := by simp [State.only, hc]

theorem exec_galleryAccumulate_eq (s : State) : exec .galleryAccumulate s = whenActive [.bal, .gal, .fl] s State.accumulate := (rfl)

/-- A tread that is counted leaves the gallery as the count does (R381). -/
theorem exec_galleryAccumulate_counts {s : State} (hact : s.pw.phase = .active) (htread : 1 ≤ s.tm.tread) (hlife : s.life ≠ 3)
    (hrun : s.gal.stopped = false) (hclear : s.gal.clearAt = []) :
    ∃ t, exec .galleryAccumulate s = .next t ∧ t.gal = s.galMeasured.galDie.gal ∧ t.fl = s.fl := by
  have hcount : s.accumulate = s.galCount := by
    have h0 : ¬ (s.tm.tread = 0 ∨ s.life = 3) := not_or.mpr ⟨by omega, hlife⟩
    simp [State.accumulate, h0, State.galClearNow, hclear, hrun]
  obtain ⟨hgal, hfl⟩ := s.galCount_keeps
  refine ⟨_, (exec_galleryAccumulate_eq s).trans (whenActive_active _ s _ hact), ?_, ?_⟩
  · rw [hcount, State.only_gal _ _ (by decide), hgal]
  · rw [hcount, State.only_fl _ _ (by decide), hfl]

end Sys2Proof.Machine
end
-- ==== Sys2Proof/Proofs/GalleryCounts.lean ====
section
/-! O53. What a tread and an epoch leave in the gallery (R381 to R386, R389). -/
namespace Sys2Proof.Machine

/-! ### Bins -/

theorem binOf_lt {edges : List Int} (h : edges ≠ []) (u : Int) : binOf edges u < edges.length := by
  have hfilter := List.length_filter_le (fun e => decide (e ≤ u)) (edges.drop 1)
  have hpos := List.length_pos_iff.mpr h
  rw [List.length_drop] at hfilter
  unfold binOf
  omega

/-- Of cells of which at most one counts, that one counts once. -/
theorem countP_range_single {p : Nat → Bool} {c n : Nat} (hc : c < n) (h : ∀ d, p d = true → d = c) :
    (List.range n).countP p = if p c then 1 else 0 := by
  have hout (m : Nat) (hm : m ≤ c) : (List.range m).countP p = 0 := by
    rw [List.countP_eq_zero]
    intro d hd hp
    have := h d hp
    rw [List.mem_range] at hd
    omega
  induction n with
  | zero => omega
  | succ n ih =>
    rw [countP_range_succ]
    by_cases hn : c = n
    · rw [hout n (by omega), hn, Nat.zero_add]
    · have hpn : p n = false := Bool.eq_false_iff.mpr fun hp => hn (h n hp).symm
      rw [ih (by omega), hpn]
      rfl

section
variable {s : State} {c b : Nat}

theorem State.voltIn_count (hlen : (s.edgesOf 0).length = 64) (hc : c < s.count) (hb : b < 64) :
    (List.range s.count).countP (fun d => s.voltIn d (64 * c + b)) = if s.voltIn c (64 * c + b) then 1 else 0 := by
  refine countP_range_single hc fun d hd => ?_
  have hlt := binOf_lt (edges := s.edgesOf 0) (by intro h; simp [h] at hlen) (((look s.cells.snap d).v + 300000) / 100)
  simp only [State.voltIn, Bool.and_eq_true, beq_iff_eq] at hd
  omega

theorem State.tempIn_count (hlen : (s.edgesOf 1).length = 32) (hc : c < s.count) (hb : b < 32) :
    (List.range s.count).countP (fun d => s.tempIn d (32 * c + b)) = if s.tempIn c (32 * c + b) then 1 else 0 := by
  refine countP_range_single hc fun d hd => ?_
  have hlt := binOf_lt (edges := s.edgesOf 1) (by intro h; simp [h] at hlen) (look s.imp.img.temps d).v
  simp only [State.tempIn, Bool.and_eq_true, beq_iff_eq] at hd
  omega

end

/-! ### The gallery after a tread -/

section
variable (s : State)

/-- The current and the die count in places of their own. -/
theorem State.galMeasured_cells : s.galMeasured.galDie.gal.rv = (s.galCells s.count).gal.rv ∧
    s.galMeasured.galDie.gal.rt = (s.galCells s.count).gal.rt ∧ s.galMeasured.galDie.gal.rUnT = (s.galCells s.count).gal.rUnT ∧
    s.galMeasured.galDie.gal.img.hv = s.gal.img.hv ∧ s.galMeasured.gal.rd = s.gal.rd := by
  have h := (s.galCells_counted s.count).gal
  have hhv : (s.galCells s.count).gal.img.hv = s.gal.img.hv := by rw [h]
  have hrd : (s.galCells s.count).gal.rd = s.gal.rd := by rw [h]
  rw [State.galDie_gal, State.galMeasured]
  cases hrec : (s.galCells s.count).irec
  · rw [State.galCurr_unrecorded _ hrec]
    exact ⟨rfl, rfl, rfl, hhv, hrd⟩
  · rw [State.galCurr_gal _ hrec]
    exact ⟨rfl, rfl, rfl, hhv, hrd⟩

theorem State.galMeasured_ext {j : Nat} (hj : j < 108) : look s.galMeasured.galDie.gal.img.ext j =
    if j < 3 * s.count then s.extNext j else look s.gal.img.ext j := by
  rw [State.galDie_gal, State.galMeasured, ← (s.galCells_counted s.count).ext]
  cases hrec : (s.galCells s.count).irec
  · rw [State.galCurr_unrecorded _ hrec]
  · dsimp only
    rw [State.galCurr_ext _ hrec, if_neg (by omega)]

/-- Without a recorded current nothing of it counts (R380). -/
theorem State.galMeasured_unrecorded (h : s.irec = false) : s.galMeasured = s.galCells s.count :=
  State.galCurr_unrecorded _ ((s.galCells_counted s.count).counting.irec.trans h)

theorem State.galMeasured_recorded (h : s.irec = true) : s.galMeasured.galDie.gal.ri = s.currBin.gal.ri ∧
    s.galMeasured.galDie.gal.rChg = s.currBin.gal.rChg ∧ s.galMeasured.galDie.gal.rDis = s.currBin.gal.rDis ∧
    s.galMeasured.galDie.gal.img.clip = s.currBin.gal.img.clip := by
  have hcells := s.galCells_counted s.count
  have hgal := hcells.gal
  have hamps : (s.galCells s.count).galAmps = s.galAmps := by rw [State.galAmps, hcells.counting.cells, hcells.counting.rshunt]; rfl
  have hcharge : (s.galCells s.count).galCharge = s.galCharge := by rw [State.galCharge, hcells.counting.cells, hcells.counting.rshunt]; rfl
  rw [State.galDie_gal, State.galMeasured, State.galCurr_gal _ (hcells.counting.irec.trans h)]
  simp only [State.currBin, State.setGal, hamps, hcharge, hcells.counting.edgesOf, hcells.counting.cells]
  rw [hgal]
  exact ⟨rfl, rfl, rfl, rfl⟩

theorem State.galMeasured_currExt (hcount : s.count ≤ 36) {j : Nat} (hj : j = 108 ∨ j = 109) : look s.galMeasured.galDie.gal.img.ext j =
    if s.irec = true ∧ (look s.cells.snap 36).clean = true then (look s.gal.img.ext j).next (j == 108) s.galAmps (s.extStamp s.galAmps false)
    else look s.gal.img.ext j := by
  have hcells := s.galCells_counted s.count
  have hold : look (s.galCells s.count).gal.img.ext j = look s.gal.img.ext j := by rw [hcells.ext, if_neg (by omega)]
  have hamps : (s.galCells s.count).galAmps = s.galAmps := by rw [State.galAmps, hcells.counting.cells, hcells.counting.rshunt]; rfl
  rw [State.galDie_gal]
  dsimp only
  cases hrec : s.irec
  · rw [State.galMeasured_unrecorded _ hrec, hold, if_neg (by simp)]
  · rw [State.galMeasured, State.galCurr_ext _ (hcells.counting.irec.trans hrec), hold, hamps, hcells.counting.extStamp, hcells.counting.cells]
    simp only [hj, and_true, true_and]

end

/-- Settles O53: a tread adds what `State.galCells_counted` and `State.galCurr_gal` say, an epoch folds by `look_foldSecs` and `look_foldRem`. -/
theorem galleryCounts : Obligations.GalleryCounts := by
  refine ⟨fun s hact htread hlife hrun hclear hlen => ?_, fun s hact hidle => ?_, fun s hact hend hlife hwf hcap => ?_, fun s hact hidle => ?_,
    fun s hact htread hlife hrun hclear hlen hcount => ?_, fun s r sh i q hact htread hlife hrun hclear hrec hr hsh hi hq hcount => ?_,
    fun s hact htread hlife hrun hclear hrec hcount => ?_⟩
  case refine_1 =>
    obtain ⟨t, h, hgal, hfl⟩ := exec_galleryAccumulate_counts hact htread hlife hrun hclear
    obtain ⟨hrv, -, -, hhv, hrd⟩ := s.galMeasured_cells
    refine ⟨t, h, ?_, fun c hc r hr hnbr hstale hunc b hb => ?_, by rw [hgal, hhv], hfl⟩
    · have hdie := s.galMeasured.galDie_rd
      rw [s.galMeasured_counting.cells, hrd] at hdie
      rw [hgal, hdie]
    · have hbinned : (look s.cells.snap c).binned = true := by
        rw [← hr]
        rcases hunc with hunc | hovr
        · simp [Res.binned, hnbr, hstale, hunc]
        · simp [Res.binned, hnbr, hstale, hovr]
      rw [hgal, hrv, (s.galCells_counted _).rv, State.voltIn_count hlen hc hb, State.voltIn, hbinned, Bool.true_and, ← hr]
      congr 1
      refine if_congr ?_ rfl rfl
      rw [beq_iff_eq]
      omega
  case refine_2 =>
    refine (exec_galleryAccumulate_eq s).trans (whenActive_same hact ?_)
    rw [State.accumulate]
    rcases hidle with h | h | ⟨hstop, hclear⟩
    · rw [if_pos (.inl h)]
    · rw [if_pos (.inr h)]
    · simp [State.galClearNow, hclear, hstop]
  case refine_3 =>
    obtain ⟨t, x, h, hgal, hev⟩ := exec_epochFold_folds hact hend hlife
    refine ⟨t, h, by rw [hgal]; rfl, by rw [hgal]; rfl, hev, fun k => ⟨?_, ?_⟩, by rw [hgal]; rfl⟩
    · rw [hgal]; exact look_foldSecs hwf k (hcap k)
    · rw [hgal]; exact look_foldRem hwf k
  case refine_4 => exact (exec_epochFold_eq s).trans (whenActive_same hact (if_pos hidle))
  case refine_5 =>
    obtain ⟨t, h, hgal, -⟩ := exec_galleryAccumulate_counts hact htread hlife hrun hclear
    obtain ⟨-, hrt, hrUnT, -, -⟩ := s.galMeasured_cells
    have hext (c i : Nat) (hc : c < s.count) (hi : i < 3) : look t.gal.img.ext (3 * c + i) = s.extNext (3 * c + i) := by
      rw [hgal, s.galMeasured_ext (by omega), if_pos (by omega)]
    refine ⟨t, h, fun c hc x hx b hb => ?_, ?_, fun c hc x e hx he => ?_, fun c hc r e f hr he hf => ?_⟩
    · rw [hgal, hrt, (s.galCells_counted _).rt, State.tempIn_count hlen hc hb, State.tempIn, State.tempKnown, ← hx]
      congr 1
      refine if_congr ?_ rfl rfl
      simp only [Bool.and_eq_true, Bool.not_eq_true', beq_iff_eq, and_assoc]
      exact and_congr_right fun _ => and_congr_right fun _ => by omega
    · rw [hgal, hrUnT, (s.galCells_counted _).rUnT, List.countP_eq_length_filter]
      rfl
    · have hplace : (3 * c + 2) / 3 = c ∧ (3 * c + 2) % 3 = 2 := by omega
      rw [hext c 2 hc (by decide), State.extNext, hplace.1, if_pos hplace.2, State.tempKnown, ← hx, ← he, Extreme.next_up]
      cases x.has <;> cases x.old <;> simp
    · have hhigh : (3 * c) / 3 = c ∧ ¬ (3 * c) % 3 = 2 ∧ ((3 * c) % 3 == 0) = true := by simp
      have hlow : (3 * c + 1) / 3 = c ∧ ¬ (3 * c + 1) % 3 = 2 ∧ ((3 * c + 1) % 3 == 0) = false := by
        have hmod : (3 * c + 1) % 3 = 1 := by omega
        exact ⟨by omega, by omega, by rw [hmod]; rfl⟩
      have hflags : (r.nbr || r.stale || r.ovr || r.bal || r.pls || r.unc == 15) = !r.clean := (Bool.not_not _).symm
      have hfirst : look t.gal.img.ext (3 * c) = s.extNext (3 * c) := hext c 0 hc (by decide)
      rw [hext c 1 hc (by decide), hfirst, State.extNext, State.extNext, hhigh.1, hlow.1, if_neg hhigh.2.1,
        if_neg hlow.2.1, hhigh.2.2, hlow.2.2, ← hr, ← he, ← hf, Extreme.next_up, Extreme.next_down, hflags]
      cases r.clean
      · exact ⟨rfl, rfl⟩
      · exact ⟨rfl, rfl⟩
  case refine_6 =>
    obtain ⟨t, h, hgal, -⟩ := exec_galleryAccumulate_counts hact htread hlife hrun hclear
    obtain ⟨hri, hchg, hdis, hclip⟩ := s.galMeasured_recorded hrec
    have hamps : s.galAmps = i := by rw [State.galAmps, hi, hr, hsh]
    have hcharge : s.galCharge = q := by rw [State.galCharge, hq, hr, hsh]
    refine ⟨t, h, fun k => ?_, ?_, ?_, ?_, fun e f he hf => ?_⟩
    · rw [hgal, hri, ← hamps]
      refine (look_adj_succ s.gal.ri _ k).trans ?_
      simp only [beq_iff_eq]
    · rw [hgal, hchg, ← hcharge]
      show (if 0 < s.galCharge then _ else _) = _
      split
      · next hp => rw [max_eq_left hp.le]
      · next hp => rw [max_eq_right (not_lt.mp hp), add_zero]
    · rw [hgal, hdis, ← hcharge]
      show (if s.galCharge < 0 then _ else _) = _
      split
      · next hp => rw [max_eq_left (by linarith), sub_eq_add_neg]
      · next hp => rw [max_eq_right (by linarith), add_zero]
    · rw [hgal, hclip, hr]
      rfl
    · rw [hgal, s.galMeasured_currExt hcount (.inl rfl), s.galMeasured_currExt hcount (.inr rfl), hrec, hamps, ← hr, ← he, ← hf, Res.flagged_eq]
      cases r.clean
      · exact ⟨rfl, rfl⟩
      · exact ⟨e.next_up i _, f.next_down i _⟩
  case refine_7 =>
    obtain ⟨t, h, hgal, -⟩ := exec_galleryAccumulate_counts hact htread hlife hrun hclear
    have hcells := (s.galCells_counted s.count).gal
    have hcurr (j : Nat) (hj : j = 108 ∨ j = 109) : look t.gal.img.ext j = look s.gal.img.ext j := by
      rw [hgal, s.galMeasured_currExt hcount hj, if_neg (by simp [hrec])]
    refine ⟨t, h, ?_, ?_, ?_, hcurr 108 (.inl rfl), hcurr 109 (.inr rfl)⟩ <;>
      rw [hgal, State.galDie_gal, State.galMeasured_unrecorded _ hrec, hcells]

end Sys2Proof.Machine
end
-- ==== Sys2Proof/Proofs/GalleryAccess.lean ====
section
/-! O54. The gallery restored, its edges, its window, the exported image and its clear (R388, R391 to R398). -/
namespace Sys2Proof.Machine

/-! ### What the status words leave -/

section
variable (s : State)

theorem State.galStatus_gal : s.galStatus.gal = s.gal := State.gal_of_without (c := []) (by decide) (State.galStatus_without s [])

theorem State.galNewer_gal : s.galNewer.gal = s.gal := State.gal_of_without (c := []) (by decide) s.galNewer_without

/-- The fields of the status and segment words that follow the state of the edges, the segment and the exported image. -/
def galStatusFlds : List Fld :=
  [GAL.STATUS.DEFV, GAL.STATUS.DEFT, GAL.STATUS.DEFI, GAL.STATUS.EDGEMIS, GAL.STATUS.SEALED, GAL.STATUS.IREC, GAL.SEGMENT, GAL.STATUS.XBUSY]

theorem State.galStatus_get {f : Fld} (h : ∀ g ∈ galStatusFlds, g.apart f = true) : s.galStatus.get f = s.get f := by
  simp only [galStatusFlds, List.forall_mem_cons] at h
  obtain ⟨h1, h2, h3, h4, h5, h6, h7, h8, -⟩ := h
  simp only [State.galStatus, State.setB]
  rw [State.get_set_ne _ _ _ _ rfl h8, State.get_set_ne _ _ _ _ rfl h7, State.get_set_ne _ _ _ _ rfl h6, State.get_set_ne _ _ _ _ rfl h5,
    State.get_set_ne _ _ _ _ rfl h4, State.get_set_ne _ _ _ _ rfl h3, State.get_set_ne _ _ _ _ rfl h2, State.get_set_ne _ _ _ _ rfl h1]

theorem State.galNewer_get {f : Fld} (h : Fld.apart GAL.STATUS.NEWER f = true) : s.galNewer.get f = s.get f := by
  unfold State.galNewer
  split
  · exact State.get_set_ne _ _ _ _ rfl h
  · rfl

/-! ### The restore (R391) -/

/-- A histogram of the flash is taken over: outside COMMISSION, and in it with the edges in use (R388). -/
def State.sameEdges (g : GalSet) (k : Nat) : Bool := s.life != 1 || look g.edges k == look s.gal.edges k

/-- The totals of the flash as a start takes them over. -/
def State.oldTotals (g : GalSet) : GalObj :=
  { g.img with hv := if s.sameEdges g 0 then g.img.hv else [], ht := if s.sameEdges g 1 then g.img.ht else [],
               hi := if s.sameEdges g 2 then g.img.hi else [] }

/-- The gallery once the totals are taken over; the edges too from SERVICE on. -/
def State.restoredGal (g : GalSet) : Gal :=
  { s.gal with
    restored := true, img := (s.oldTotals g).plus s.gal.img, edges := if 2 ≤ s.life then g.edges else s.gal.edges }

theorem State.galRestore_skipped (h : s.gal.restored = true ∨ s.flState = 0) : s.galRestore = s := if_pos h

theorem State.galRestore_none (hold : s.gal.restored = false) (h0 : s.flState ≠ 0) (h : s.flState ≠ 1 ∨ s.restoreSet = none) :
    s.galRestore = ({ s with gal := { s.gal with restored := true } } : State).setB GAL.STATUS.NOHIST true := by
  have hset : (if s.flState = 1 then s.restoreSet else none) = none := by
    rcases h with h | h
    · exact if_neg h
    · rw [h, ite_self]
  have hset' : (if (s.setGal { s.gal with restored := true }).flState = 1 then (s.setGal { s.gal with restored := true }).restoreSet else none) = none := hset
  unfold State.galRestore
  rw [if_neg (by simp [hold, h0])]
  dsimp only
  rw [hset']
  rfl

theorem State.galRestore_takes {g : GalSet} (hold : s.gal.restored = false) (h1 : s.flState = 1) (h : s.restoreSet = some g) :
    ∃ i : Imp, s.galRestore =
      ((({ s with gal := s.restoredGal g, imp := i } : State).setB GAL.STATUS.RESTORED true).galNewer.galStatus).impNewer.impStatus := by
  have hset : (if (s.setGal { s.gal with restored := true }).flState = 1 then (s.setGal { s.gal with restored := true }).restoreSet else none) = some g :=
    (if_pos h1).trans h
  unfold State.galRestore
  rw [if_neg (by simp [hold, h1])]
  dsimp only
  rw [hset]
  exact ⟨_, rfl⟩

end

theorem exec_galleryRestore_eq (s : State) : exec .galleryRestore s = whenActive [.bal, .imp, .gal] s State.galRestore := (rfl)

/-- The newest totals of the flash are taken over once (R391). -/
theorem exec_galleryRestore_takes {s : State} {g : GalSet} (hact : s.pw.phase = .active) (hold : s.gal.restored = false) (h1 : s.flState = 1)
    (h : s.restoreSet = some g) : ∃ t, exec .galleryRestore s = .next t ∧ t.gal.img = (s.oldTotals g).plus s.gal.img ∧
      t.gal.edges = (if 2 ≤ s.life then g.edges else s.gal.edges) ∧ t.gal.restored = true ∧ t.bit GAL.STATUS.RESTORED = true := by
  obtain ⟨i, heq⟩ := s.galRestore_takes hold h1 h
  have hpage (u : State) : u.impNewer.impStatus.pageWords 0x18 = u.pageWords 0x18 := by
    have hnewer : u.impNewer.pageWords 0x18 = u.pageWords 0x18 := by
      simp (disch := decide) only [State.impNewer, State.ite_pageWords, State.set_pageWords, ite_self]
    rw [State.impStatus_pageWords _ (by decide), hnewer]
  have hgal (u : State) : u.impNewer.impStatus.gal = u.gal :=
    State.gal_of_without (c := []) (by decide) (by rw [State.impStatus_without, State.impNewer_without])
  have hshown : s.galRestore.gal = s.restoredGal g ∧ s.galRestore.bit GAL.STATUS.RESTORED = true := by
    rw [heq]
    refine ⟨?_, ?_⟩
    · rw [hgal, State.galStatus_gal, State.galNewer_gal]; rfl
    · rw [State.bit_of_pageWords (hpage _) rfl, State.bit, State.galStatus_get _ (by decide), State.galNewer_get _ (by decide)]
      exact State.bit_setB _ _ _ _ _ (by decide)
  obtain ⟨hg, hbit⟩ := hshown
  refine ⟨_, (exec_galleryRestore_eq s).trans (whenActive_active _ s _ hact), ?_, ?_, ?_, by rw [State.only_bit, hbit]⟩ <;>
    (rw [State.only_gal _ _ (by decide), hg]; rfl)

/-! ### Changed edges (R388) -/

section
variable {s : State} {k : Nat}

/-- The newest change of histogram `k` that is due. -/
def State.edgeDue (s : State) (k : Nat) : Option (Nat × Option (List Int)) := ((look s.gal.edgePend k).filter s.edgeIsDue).getLast?

theorem State.edgeTake_none (h : s.edgeDue k = none) : s.edgeTake k = s := by
  have h' : ((look s.gal.edgePend k).filter s.edgeIsDue).getLast? = none := h
  simp only [State.edgeTake, h']

theorem State.edgeTake_some {e : Nat × Option (List Int)} (h : s.edgeDue k = some e) : s.edgeTake k =
    s.setGal { s.gal.clearHist k with
      edges := put s.gal.edges k e.2, edgePend := put s.gal.edgePend k ((look s.gal.edgePend k).filter fun e => !s.edgeIsDue e) } := by
  have h' : ((look s.gal.edgePend k).filter s.edgeIsDue).getLast? = some e := h
  simp only [State.edgeTake, h']

theorem State.edgeTake_tm (s : State) (k : Nat) : (s.edgeTake k).tm = s.tm := by
  unfold State.edgeTake
  dsimp only
  split <;> rfl

/-- Adopting the edges of one histogram changes nothing of the others. -/
theorem State.edgeTake_other {b : Nat} (h : k ≠ b) (s : State) :
    look (s.edgeTake b).gal.edges k = look s.gal.edges k ∧ look (s.edgeTake b).gal.edgePend k = look s.gal.edgePend k := by
  rcases hd : s.edgeDue b with _ | e
  · rw [State.edgeTake_none hd]
    exact ⟨rfl, rfl⟩
  · rw [State.edgeTake_some hd]
    exact ⟨look_put_ne s.gal.edges b k _ h, look_put_ne s.gal.edgePend b k _ h⟩

/-- Histogram `k` and its remainders are empty. -/
def Gal.histEmpty (g : Gal) (k : Nat) : Prop :=
  (k = 0 → g.img.hv = [] ∧ g.rv = []) ∧ (k = 1 → g.img.ht = [] ∧ g.rt = []) ∧ (k = 2 → g.img.hi = [] ∧ g.ri = [])

theorem Gal.clearHist_empty (g : Gal) (k : Nat) : (g.clearHist k).histEmpty k := by
  refine ⟨?_, ?_, ?_⟩ <;> (intro h; subst h; exact ⟨rfl, rfl⟩)

theorem Gal.clearHist_keeps {g : Gal} (h : g.histEmpty k) (b : Nat) : (g.clearHist b).histEmpty k := by
  obtain ⟨h0, h1, h2⟩ := h
  unfold Gal.clearHist
  split
  · exact ⟨fun _ => ⟨rfl, rfl⟩, h1, h2⟩
  · exact ⟨h0, fun _ => ⟨rfl, rfl⟩, h2⟩
  · exact ⟨h0, h1, fun _ => ⟨rfl, rfl⟩⟩

theorem State.edgeTake_keepsEmpty (h : s.gal.histEmpty k) (b : Nat) : (s.edgeTake b).gal.histEmpty k := by
  rcases hd : s.edgeDue b with _ | e
  · rwa [State.edgeTake_none hd]
  · rw [State.edgeTake_some hd]
    exact Gal.clearHist_keeps h b

/-- Histogram `k` of `u` has adopted the change `e` of `s`, and what is not due yet still waits. -/
def State.adopted (s : State) (k : Nat) (e : Nat × Option (List Int)) (u : State) : Prop :=
  look u.gal.edges k = e.2 ∧ look u.gal.edgePend k = (look s.gal.edgePend k).filter (fun e => !s.edgeIsDue e) ∧ u.gal.histEmpty k

/-- In COMMISSION the newest change of each histogram that is due is adopted. -/
theorem State.edgeTakes_adopt {e : Nat × Option (List Int)} (hk : k < 3) (h : s.edgeDue k = some e) :
    s.adopted k e (forEach (List.range 3) (fun (k : Nat) (s : State) => s.edgeTake k) s) := by
  refine forEach_own (Q := s.adopted k e) (P := fun u : State => u.tm = s.tm ∧ look u.gal.edgePend k = look s.gal.edgePend k) (a := k) ?_ ?_ ?_
    List.nodup_range (List.mem_range.mpr hk) ⟨rfl, rfl⟩
  · rintro b hb u ⟨htm, hp⟩
    exact ⟨(u.edgeTake_tm b).trans htm, (State.edgeTake_other hb.symm u).2.trans hp⟩
  · rintro u ⟨htm, hp⟩
    have hdue : u.edgeIsDue = s.edgeIsDue := by funext e; rw [State.edgeIsDue, State.edgeIsDue, htm]
    have hu : u.edgeDue k = some e := by rw [State.edgeDue, hp, hdue]; exact h
    rw [State.edgeTake_some hu, hp, hdue]
    exact ⟨look_put_self u.gal.edges k _, look_put_self u.gal.edgePend k _, u.gal.clearHist_empty k⟩
  · rintro b hb u ⟨he, hp, hempty⟩
    obtain ⟨he', hp'⟩ := State.edgeTake_other hb.symm u
    exact ⟨he'.trans he, hp'.trans hp, State.edgeTake_keepsEmpty hempty b⟩

theorem State.edgeAdopt_idle (h : ∀ k < 3, ∀ e ∈ look s.gal.edgePend k, s.tm.tread ≤ e.1) : s.edgeAdopt = s := by
  refine if_pos ?_
  simp only [List.all_eq_true, List.mem_range, Bool.not_eq_true', List.any_eq_false, State.edgeIsDue, decide_eq_true_eq, not_lt]
  exact h

/-- Some change is due. -/
theorem State.edges_due {e : Nat × Option (List Int)} (hk : k < 3) (he : e ∈ look s.gal.edgePend k) (hdue : e.1 < s.tm.tread) :
    ¬ ((List.range 3).all fun k => !(look s.gal.edgePend k).any s.edgeIsDue) = true := by
  intro h
  have hnone := List.any_eq_false.mp (by simpa using List.all_eq_true.mp h k (List.mem_range.mpr hk)) e he
  exact hnone (decide_eq_true hdue)

end

theorem exec_edgeAdopt_eq (s : State) : exec .edgeAdopt s = whenActive [.bal, .gal] s State.edgeAdopt := (rfl)

/-- A change in COMMISSION is adopted, and the histogram begins anew (R388). -/
theorem exec_edgeAdopt_adopts {s : State} {k : Nat} {e : Nat × Option (List Int)} (hact : s.pw.phase = .active) (hlife : s.life = 1) (hk : k < 3)
    (h : s.edgeDue k = some e) : ∃ t, exec .edgeAdopt s = .next t ∧ look t.gal.edges k = e.2 ∧
      look t.gal.edgePend k = (look s.gal.edgePend k).filter (fun e => !s.edgeIsDue e) ∧ t.gal.histEmpty k ∧ t.bit GAL.EVT.EDGEADOPT = true := by
  have hin : e ∈ (look s.gal.edgePend k).filter s.edgeIsDue := List.mem_of_getLast? h
  obtain ⟨hmem, hdue⟩ := List.mem_filter.mp hin
  obtain ⟨hedges, hpend, hempty⟩ := State.edgeTakes_adopt hk h
  refine ⟨_, (exec_edgeAdopt_eq s).trans (whenActive_active _ s _ hact), ?_⟩
  rw [State.edgeAdopt, if_neg (State.edges_due hk hmem (of_decide_eq_true hdue)), if_neg (by rw [hlife]; decide), State.only_gal _ _ (by decide),
    State.galStatus_gal, State.galNewer_gal, State.only_bit, State.bit, State.galStatus_get _ (by decide), State.galNewer_get _ (by decide)]
  exact ⟨hedges, hpend, hempty, State.bit_evt _ _ _ _ (by decide)⟩

/-! ### The window, the exported image and the clear (R393 to R398) -/

section
variable {s : State}

theorem exec_galClear_eq (key : Byte) (s : State) : exec (.galClear key) s = whenActive [.gal] s fun s => s.galClear key := (rfl)
theorem exec_galFreeze_eq (on : Bool) (s : State) : exec (.galFreeze on) s = whenActive [.gal] s fun s => s.galFreeze on := (rfl)
theorem exec_galCursorAdvance_eq (s : State) : exec .galCursorAdvance s = whenActive [] s State.galAdvance := (rfl)
theorem exec_galXfer_eq (s : State) : exec .galXfer s = whenActive [.gal] s State.xfer := (rfl)
theorem exec_exportBlockPost_eq (s : State) : exec .exportBlockPost s = whenActive [.xact, .gal] s State.xferPost := (rfl)

theorem State.galFreeze_on (h : s.bit { GAL.CURSOR with lo := 15, w := 1 } = false) : s.galFreeze true =
    (({ s with gal := { s.gal with frozen := some s.galImg, frozenFlags := s.xferFlags } } : State).setB { GAL.CURSOR with lo := 15, w := 1 } true).setB
      GAL.STATUS.FROZEN true := by
  unfold State.galFreeze
  dsimp only
  rw [if_pos rfl, if_neg (by rw [h]; decide)]
  rfl

theorem State.galFreeze_off : s.galFreeze false =
    (((s.setGal { s.gal with frozen := none }).setB { GAL.CURSOR with lo := 15, w := 1 } false).setB GAL.STATUS.FROZEN false).setB
      GAL.STATUS.NEWER false := rfl

/-- A read in a class of histograms moves the cursor by four bins, and from the last bin of a cell to the next cell (R393). -/
theorem State.galAdvance_bins {cls b : Nat} (hcls : s.get { GAL.CURSOR with w := 3 } = cls) (hb : b = s.get { GAL.BIN with w := 6 })
    (h2 : cls ≠ 2) (h5 : cls ≠ 5) : s.galAdvance =
      if b + 4 < classBins cls then s.set { GAL.BIN with w := 6 } (b + 4)
      else if cls ≤ 2 then (s.set { GAL.BIN with w := 6 } 0).set { GAL.INDEX with w := 6 }
        (if s.get { GAL.INDEX with w := 6 } < s.count then s.get { GAL.INDEX with w := 6 } + 1 else 1)
      else s.set { GAL.BIN with w := 6 } 0 := by
  have hindex : (s.set { GAL.BIN with w := 6 } 0).get { GAL.INDEX with w := 6 } = s.get { GAL.INDEX with w := 6 } := State.get_set_ne _ _ _ _ rfl rfl
  have hcount : (s.set { GAL.BIN with w := 6 } 0).count = s.count := 
    State.used_of_get rfl (State.get_set_ne _ _ _ _ rfl rfl)
  unfold State.galAdvance
  dsimp only
  rw [hcls, if_neg (not_or.mpr ⟨h2, h5⟩), hindex, hcount]
  subst hb
  rfl

theorem State.xfer_taken (h : s.gal.xport = none) : s.xfer =
    (s.setGal { s.gal with xport := some { img := s.galImg, stn := s.tm.stn, ltc := s.tm.ltc, flags := s.xferFlags, next := 0 } }).setB
      GAL.STATUS.XBUSY true := if_neg (by rw [h]; decide)

theorem State.xferPost_waits (h : s.qRoom 52 448 = false) : s.xferPost = s := by
  rcases hx : s.gal.xport with _ | e
  · simp only [State.xferPost, hx]
  · simp only [State.xferPost, hx, h, or_true, if_true]

theorem State.xferPost_posts {e : GalExport} (hx : s.gal.xport = some e) (htread : 1 ≤ s.tm.tread) (hen : s.qEnabled 52 = true)
    (hroom : s.qRoom 52 448 = true) : s.xferPost =
      if 36 ≤ e.next then ((s.append 52 e.block true true true).setGal { s.gal with xport := none }).setB GAL.STATUS.XBUSY false
      else (s.append 52 e.block true true true).setGal { s.gal with xport := some { e with next := e.next + 1 } } := by
  have hgo : ¬ (s.tm.tread = 0 ∨ s.qEnabled 52 = false ∨ s.qRoom 52 448 = false) := by
    simp only [hen, hroom, Bool.true_eq_false, or_false]
    omega
  simp only [State.xferPost, hx, if_neg hgo]
  rfl

/-- A clear of an earlier tread takes place, with the gallery stopped alone (R398). -/
theorem exec_galleryAccumulate_clears {s : State} (hact : s.pw.phase = .active) (htread : 1 ≤ s.tm.tread) (hlife : s.life ≠ 3)
    (hstop : s.gal.stopped = true) {t0 : Nat} {l : List Nat} (hclear : s.gal.clearAt = t0 :: l) (hdue : t0 < s.tm.tread) :
    ∃ t, exec .galleryAccumulate s = .next t ∧
      t.gal = { s.gal.cleared with clearAt := l.filter fun t => decide (s.tm.tread ≤ t) } ∧
      t.bit GAL.EVT.CLEARED = true ∧ t.fl = { s.fl with clearNext := true } := by
  have h0 : ¬ (s.tm.tread = 0 ∨ s.life = 3) := not_or.mpr ⟨by omega, hlife⟩
  have hany : (s.gal.clearAt.any fun t => decide (t < s.tm.tread)) = true := by simp [hclear, hdue]
  have hrest : (s.gal.clearAt.filter fun t => decide (s.tm.tread ≤ t)) = l.filter fun t => decide (s.tm.tread ≤ t) := by
    rw [hclear, List.filter_cons, if_neg (by simpa using hdue)]
  have hnow : s.galClearNow.gal = { s.gal.cleared with clearAt := l.filter fun t => decide (s.tm.tread ≤ t) } ∧
      s.galClearNow.bit GAL.EVT.CLEARED = true ∧ s.galClearNow.fl = { s.fl with clearNext := true } := by
    rw [State.galClearNow, if_pos hany, State.galNewer_gal, hrest, State.bit, State.galNewer_get _ (by decide),
      State.fl_of_without (c := []) (by decide) (State.galNewer_without _)]
    exact ⟨rfl, State.bit_evt _ _ _ _ (by decide), rfl⟩
  obtain ⟨hgal, hev, hfl⟩ := hnow
  have hstill : s.galClearNow.gal.stopped = true := by rw [hgal]; exact hstop
  have hacc : s.accumulate = s.galClearNow := by
    rw [State.accumulate, if_neg h0]
    exact if_pos hstill
  refine ⟨_, (exec_galleryAccumulate_eq s).trans (whenActive_active _ s _ hact), ?_⟩
  rw [hacc, State.only_gal _ _ (by decide), State.only_bit, State.only_fl _ _ (by decide)]
  exact ⟨hgal, hev, hfl⟩

end

theorem State.oldTotals_of_ne_one {s : State} (g : GalSet) (h : s.life ≠ 1) : s.oldTotals g = g.img := by
  have hsame (k : Nat) : s.sameEdges g k = true := by simp [State.sameEdges, h]
  simp only [State.oldTotals, hsame, if_true]

/-- Settles O54: the restore is `exec_galleryRestore_takes`, changed edges `exec_edgeAdopt_adopts`, a clear `exec_galleryAccumulate_clears`. -/
theorem galleryAccess : Obligations.GalleryAccess := by
  refine ⟨fun s g hact hold h1 hset hlife => ?_, fun s hact hold h0 h => ?_, fun s hact h => ?_, fun s k t0 p hact hlife hk hpend hdue => ?_,
    fun s key hact => ?_, fun s hact h => ?_, fun s hact => ?_, fun s b hact hcls hb => ?_, fun s b i hact hcls hb hi => ?_, fun s hact h => ?_,
    fun s hact h => ?_, fun s e hact hx htread hen hroom => ?_, fun s hact h => ?_, fun s hact h => ?_,
    fun s k t0 t1 p q hact hlife hk hpend hdue hlater => ?_, fun s k e hact hlife hk he hdue => ?_,
    fun s t0 hact htread hlife hstop hclear hdue => ?_, fun s t0 t1 hact htread hlife hstop hclear hdue hlater => ?_,
    fun g => ⟨rfl, rfl, rfl, rfl, rfl, rfl, rfl, rfl, rfl, rfl⟩, fun s g o hact hold h1 hset hlife ho => ?_⟩
  case refine_1 =>
    obtain ⟨t, h, himg, hedges, hrest, hbit⟩ := exec_galleryRestore_takes hact hold h1 hset
    exact ⟨t, h, by rw [himg, State.oldTotals_of_ne_one g (by omega)], by rw [hedges, if_pos hlife], hrest, hbit⟩
  case refine_2 =>
    exact (exec_galleryRestore_eq s).trans (whenActive_becomes hact (s.galRestore_none hold h0 h)
      (by rw [State.setB_without]; exact s.setGal_without (by decide) _))
  case refine_3 => exact (exec_galleryRestore_eq s).trans (whenActive_same hact (s.galRestore_skipped h))
  case refine_4 =>
    have hd : s.edgeDue k = some (t0, p) := by simp [State.edgeDue, State.edgeIsDue, hpend, hdue]
    obtain ⟨t, h, hedges, hrest, ⟨h0, h1, h2⟩, hev⟩ := exec_edgeAdopt_adopts hact hlife hk hd
    exact ⟨t, h, hedges, by rw [hrest]; simp [hpend, State.edgeIsDue, hdue], h0, h1, h2, hev⟩
  case refine_5 => exact (exec_galClear_eq key s).trans (whenActive_becomes hact rfl (s.galClear_without (by decide) key))
  case refine_6 =>
    exact (exec_galFreeze_eq true s).trans (whenActive_becomes hact (State.galFreeze_on h)
      (by rw [State.setB_without, State.setB_without]; exact s.setGal_without (by decide) _))
  case refine_7 =>
    refine ⟨_, (exec_galFreeze_eq false s).trans (whenActive_becomes hact State.galFreeze_off ?_), rfl, ?_, State.bit_setB _ _ _ _ _ (by decide)⟩
    · rw [State.setB_without, State.setB_without, State.setB_without, State.setGal_without _ (by decide)]
    · rw [State.bit, State.setB, State.get_set_ne _ _ _ _ rfl rfl]
      exact State.bit_setB _ _ _ _ _ (by decide)
  case refine_8 =>
    have h := State.galAdvance_bins hcls hb (by decide) (by decide)
    rw [if_neg (show ¬ 3 ≤ 2 by decide)] at h
    refine (exec_galCursorAdvance_eq s).trans (whenActive_becomes hact (h.trans ?_) (State.set_without s _ _ _))
    exact (apply_ite (s.set { GAL.BIN with w := 6 }) _ _ _).symm
  case refine_9 =>
    have h := State.galAdvance_bins hcls hb (by decide) (by decide)
    rw [if_pos (show 0 ≤ 2 by decide), ← hi] at h
    refine (exec_galCursorAdvance_eq s).trans (whenActive_becomes hact h ?_)
    rw [State.ite_without, State.set_without, State.set_without, State.set_without, ite_self]
  case refine_10 =>
    refine ⟨_, _, (exec_galXfer_eq s).trans (whenActive_becomes hact (State.xfer_taken h) ?_), rfl, rfl, rfl, rfl, rfl, rfl,
      State.bit_setB _ _ _ _ _ (by decide)⟩
    rw [State.setB_without, State.setGal_without _ (by decide)]
  case refine_11 =>
    exact (exec_galXfer_eq s).trans (whenActive_becomes hact (if_pos h) (by rw [State.evt_without, State.inc_without]))
  case refine_12 =>
    have h := State.xferPost_posts hx htread hen hroom
    have happend : (s.append 52 e.block true true true).without [.xact, .gal] = s.without [.xact, .gal] :=
      s.setQueue_without (by decide) _ _
    by_cases hn : 36 ≤ e.next
    · rw [if_pos hn] at h
      refine ⟨_, (exec_exportBlockPost_eq s).trans (whenActive_becomes hact h ?_), s.append_newest 52 e.block true true true,
        by rw [if_neg (by omega)]; rfl, fun _ => State.bit_setB _ _ _ _ _ (by decide)⟩
      rw [State.setB_without, State.setGal_without _ (by decide), happend]
    · rw [if_neg hn] at h
      refine ⟨_, (exec_exportBlockPost_eq s).trans (whenActive_becomes hact h ?_), s.append_newest 52 e.block true true true,
        by rw [if_pos (by omega)]; rfl, fun h' => absurd h' hn⟩
      rw [State.setGal_without _ (by decide), happend]
  case refine_13 => exact (exec_exportBlockPost_eq s).trans (whenActive_same hact (State.xferPost_waits h))
  case refine_14 => exact (exec_edgeAdopt_eq s).trans (whenActive_same hact (State.edgeAdopt_idle h))
  case refine_15 =>
    have hd : s.edgeDue k = some (t0, p) := by simp [State.edgeDue, State.edgeIsDue, hpend, hdue, hlater]
    obtain ⟨t, h, hedges, hrest, -, -⟩ := exec_edgeAdopt_adopts hact hlife hk hd
    exact ⟨t, h, hedges, by rw [hrest]; simp [hpend, State.edgeIsDue, hdue, hlater]⟩
  case refine_16 =>
    refine ⟨_, (exec_edgeAdopt_eq s).trans (whenActive_active _ s _ hact), ?_⟩
    rw [State.edgeAdopt, if_neg (State.edges_due hk he hdue), if_pos hlife, State.only_gal _ _ (by decide), State.galStatus_gal]
    rfl
  case refine_17 => exact exec_galleryAccumulate_clears hact htread hlife hstop hclear hdue
  case refine_18 =>
    obtain ⟨t, h, hgal, -, -⟩ := exec_galleryAccumulate_clears hact htread hlife hstop hclear hdue
    exact ⟨t, h, by rw [hgal]; simp [hlater]⟩
  case refine_19 =>
    obtain ⟨t, h, himg, hedges, hrest, hbit⟩ := exec_galleryRestore_takes hact hold h1 hset
    refine ⟨t, h, ?_, by rw [hedges, if_neg (by omega)], hrest, hbit⟩
    have hsame (k : Nat) (m : SMap Nat) : (if s.sameEdges g k then m else []) =
        if s.life = 1 ∧ look g.edges k ≠ look s.gal.edges k then [] else m := by
      by_cases h' : s.life = 1 ∧ look g.edges k ≠ look s.gal.edges k
      · rw [if_pos h', if_neg (by simp [State.sameEdges, h'])]
      · rw [if_neg h', if_pos (by simpa [State.sameEdges, imp_iff_not_or] using h')]
    rw [himg, ho, State.oldTotals, hsame, hsame, hsame]

end Sys2Proof.Machine
end
-- ==== Sys2Proof/Proofs/FlashWrites.lean ====
section
/-! O56. A page that ends while the wipe of a life-cycle commit has no slot left to write (R412, R453, R454). -/
namespace Sys2Proof.Machine

/-- Page 2 of a record is under way in a READY flash, with the closing step that waits for the wipe's slot and no slot in writing. -/
def pageUnderWipe : State :=
  { State.reset.set FLASH.STATUS.STATE 1 with
    pw := { State.reset.pw with phase := .active, closing := some .wipe }
    fl := { State.reset.fl with op := some (.page 2), cur := some default, draft := some default } }

/-- The end of the page ends the wipe as well, and the device resets. -/
theorem pageUnderWipe_ends : exec (.flashOpDone (.ok 0)) pageUnderWipe =
    .next (pageUnderWipe.settle ((pageUnderWipe.opDone (.ok 0)).leave (.reset 8))) := by
  have hwipe : (pageUnderWipe.opDone (.ok 0)).pw.closing = some .wipe := by decide +kernel
  have hover : (pageUnderWipe.opDone (.ok 0)).flushOver = true := by simp [State.flushOver, hwipe]
  have hend : (pageUnderWipe.opDone (.ok 0)).closingEnd = (pageUnderWipe.opDone (.ok 0)).leave (.reset 8) := by
    rw [State.closingEnd, hwipe]
    exact if_pos (by decide +kernel)
  refine ((exec_flashOpDone_eq _ _).trans (whenActing_active pageUnderWipe _ rfl)).trans (congrArg (fun t => Host.Outcome.next (pageUnderWipe.settle t)) ?_)
  exact (if_pos hover).trans hend

/-- Refutes O56: the first page of a record does not follow the second when a wipe without a slot is the closing step; the first
clause lacks the premise, which later clauses have, that no closing step is under way. -/
theorem not_flashWrites : ¬ Obligations.FlashWrites := by
  intro h
  obtain ⟨hpage, _⟩ := h
  obtain ⟨t, hnext, hfl, _⟩ := hpage pageUnderWipe default default 0 rfl rfl (by decide +kernel) rfl rfl rfl rfl (by decide) (by decide)
  have ht : pageUnderWipe.settle ((pageUnderWipe.opDone (.ok 0)).leave (.reset 8)) = t :=
    Host.Outcome.next.inj (pageUnderWipe_ends.symm.trans hnext)
  obtain ⟨hcleared, -, -, -⟩ := State.settle_reset (s := pageUnderWipe) (u := pageUnderWipe.opDone (.ok 0)) (by decide +kernel) 8
  rw [ht] at hcleared
  have hnone : t.fl.op = none := by rw [hcleared.fl]; rfl
  have hsome : t.fl.op = some (.page 1) := by rw [hfl]
  exact absurd (hnone.symm.trans hsome) (by decide)

end Sys2Proof.Machine
end
-- ==== Sys2Proof/Proofs/FlashView.lean ====
section
/-! SUPPORT. What discovery and a format show of the flash, STATE, the JEDEC ID and FORMATNO, and what leaves them (R402, R403). -/
namespace Sys2Proof.Machine

/-- The fields of the flash that an end of discovery shows. -/
def foundFlds : List Fld := [FLASH.STATUS.STATE, FLASH.JEDECID0, FLASH.JEDECID0.plus 1, FLASH.FORMATNO]

/-- What these fields read. -/
def State.foundView (s : State) : List Nat := foundFlds.map s.get

section
variable {s t : State}

theorem State.flState_of_foundView (h : t.foundView = s.foundView) : t.flState = s.flState := by
  simp only [State.foundView, foundFlds, List.map_cons, List.cons.injEq] at h
  exact h.1

theorem State.jedec_of_foundView (h : t.foundView = s.foundView) : t.get2 FLASH.JEDECID0 = s.get2 FLASH.JEDECID0 := by
  simp only [State.foundView, foundFlds, List.map_cons, List.cons.injEq] at h
  obtain ⟨-, h0, h1, -⟩ := h
  rw [State.get2, State.get2, h0, h1]

theorem State.formatNo_of_foundView (h : t.foundView = s.foundView) : t.get FLASH.FORMATNO = s.get FLASH.FORMATNO := by
  simp only [State.foundView, foundFlds, List.map_cons, List.cons.injEq] at h
  exact h.2.2.2.1

theorem State.foundView_of_pageWords (h : t.pageWords 0x19 = s.pageWords 0x19) : t.foundView = s.foundView :=
  List.map_inj_left.mpr fun f hf => State.get_of_pageWords h (by revert f; decide)

theorem State.foundView_of_regs (h : t.regs = s.regs) : t.foundView = s.foundView :=
  List.map_inj_left.mpr fun f _ => by simp only [State.get, State.reg, h]

end

section
variable (s : State)

theorem State.set_foundView {f : Fld} (hf : f.ok = true) (h : ∀ g ∈ foundFlds, f.apart g = true) (v : Nat) : (s.set f v).foundView = s.foundView :=
  List.map_inj_left.mpr fun g hg => State.get_set_ne _ _ _ _ hf (h g hg)

theorem State.setB_foundView {f : Fld} (hf : f.ok = true) (h : ∀ g ∈ foundFlds, f.apart g = true) (b : Bool) :
    (s.setB f b).foundView = s.foundView := s.set_foundView hf h _
theorem State.evt_foundView {f : Fld} (hf : f.ok = true) (h : ∀ g ∈ foundFlds, f.apart g = true) : (s.evt f).foundView = s.foundView :=
  s.set_foundView hf h _

theorem State.set2_foundView {f : Fld} (hf : f.ok = true) (h : ∀ g ∈ foundFlds, f.apart g = true) (h1 : ∀ g ∈ foundFlds, (f.plus 1).apart g = true)
    (v : Nat) : (s.set2 f v).foundView = s.foundView := by
  have hf1 : (f.plus 1).ok = true := hf
  rw [State.set2, State.set_foundView _ hf1 h1, State.set_foundView _ hf h]

theorem State.setFl_foundView (f : Flash) : (s.setFl f).foundView = s.foundView := State.foundView_of_regs rfl
theorem State.ite_foundView (c : Prop) [Decidable c] (t : State) : (if c then s else t).foundView = if c then s.foundView else t.foundView :=
  apply_ite State.foundView c s t
theorem State.occur_foundView (i : Nat) : (s.occur i).foundView = s.foundView := State.foundView_of_regs rfl
theorem State.tick_foundView : s.tick.foundView = s.foundView := State.foundView_of_regs rfl
theorem State.recBegin_foundView (d : Draft) : (s.recBegin d).foundView = s.foundView := State.foundView_of_regs rfl
theorem State.copyBegin_foundView (k : Nat) (fix : Bool) : (s.copyBegin k fix).foundView = s.foundView := State.foundView_of_regs rfl
theorem State.fault44_foundView : s.fault44.foundView = s.foundView := State.foundView_of_pageWords (State.cond_pageWords _ _ _)
theorem State.flAbort_foundView : s.flAbort.foundView = s.foundView := State.foundView_of_regs s.flAbort_kept.2.2

theorem State.flStatus_foundView : s.flStatus.foundView = s.foundView := by
  rw [State.flStatus, State.set2_foundView _ rfl (by decide) (by decide), State.set_foundView _ rfl (by decide), State.set2_foundView _ rfl (by decide) (by decide),
    State.set_foundView _ rfl (by decide), State.setB_foundView _ rfl (by decide), State.setB_foundView _ rfl (by decide),
    State.setB_foundView _ rfl (by decide), State.setB_foundView _ rfl (by decide)]

theorem State.progNext_foundView : s.progNext.foundView = s.foundView := by
  simp only [State.progNext, State.ite_foundView, State.setFl_foundView, ite_self]

theorem State.draftNext_foundView (d : Draft) (l : List Draft) : (s.draftNext d l).foundView = s.foundView := by
  simp only [State.draftNext, State.ite_foundView, State.occur_foundView, State.progNext_foundView, State.recBegin_foundView,
    State.tick_foundView, State.setFl_foundView, ite_self]

/-- No sector is emptied: nothing that the flash does next can fail it. -/
def State.noTidy : Prop := s.fl.evac = [] ∧ s.fl.clean = false

theorem State.tidyNext_foundView (h : s.noTidy) : s.tidyNext.foundView = s.foundView := by
  obtain ⟨hevac, hclean⟩ := h
  simp only [State.tidyNext, hevac, hclean, Bool.false_eq_true, if_false]
  split
  · rw [State.progNext_foundView, State.copyBegin_foundView, State.setFl_foundView]
  · exact s.setFl_foundView _

theorem State.opNext_foundView (h : s.noTidy) : s.opNext.foundView = s.foundView := by
  have htidy : (if s.cal.commitDue then s else s.tidyNext).foundView = s.foundView := by
    rw [State.ite_foundView, s.tidyNext_foundView h, ite_self]
  unfold State.opNext
  split
  · exact s.flStatus_foundView
  · split
    · rw [State.flStatus_foundView, State.progNext_foundView]
    · split
      · rw [State.flStatus_foundView, State.setFl_foundView]
      · dsimp only
        split
        · rw [State.flStatus_foundView, State.ite_foundView, State.draftNext_foundView, htidy, ite_self]
        · rw [State.flStatus_foundView, htidy]

/-! ### Failure, readiness and what follows -/

theorem State.tombWrite_foundView : s.tombWrite.foundView = s.foundView := by
  rw [State.tombWrite]
  dsimp only
  rw [State.flStatus_foundView]
  exact State.foundView_of_regs rfl

/-- What a failure shows: nothing changes but STATE. -/
theorem State.flFail_foundView (h : s.flState ≠ 3) : s.flFail.foundView = (s.set FLASH.STATUS.STATE 3).foundView := by
  unfold State.flFail
  rw [if_neg h]
  dsimp only
  rw [State.flStatus_foundView, State.fault44_foundView, State.ite_foundView, State.tombWrite_foundView, ite_self,
    State.set_foundView _ rfl (by decide), State.setFl_foundView, State.flAbort_foundView, State.evt_foundView _ rfl (by decide)]

end

end Sys2Proof.Machine
end
-- ==== Sys2Proof/Proofs/FlashStarts.lean ====
section
/-! O55. Finding and formatting the flash (R400 to R403). -/
namespace Sys2Proof.Machine

/-! ### READY -/

section
variable (s : State)

/-- STATE becomes READY. -/
def State.readyState : State := (s.set FLASH.STATUS.STATE 1).setFl { s.fl with usable := true, late := 0, tombDue := false, ramLost := false }

/-- The scrub begins in the ring. -/
def State.readyScrub : State := if s.get FLASH.SCRUBPOS < 4 then s.set FLASH.SCRUBPOS (State.nextSector s.ringN s 3 / 8) else s

/-- The epochs that a recovery shows as missing (R418). -/
def State.missShown (reset : Bool) : Nat :=
  if reset then min 65535 ((s.tm.ltc - s.vault.tombLtc) / (s.epochMin * 60000)) else s.get FLASH.MISSEP

/-- A failure before it ends. -/
def State.readyRecover (was reset : Bool) : State :=
  if was then
    (({ s with vault := { s.vault with failOpen := false } }).set FLASH.MISSEP (s.missShown reset) |>.setFl
      { s.fl with missNext := s.missShown reset, lostNext := reset, headNext := true }).evt FLASH.EVT.RECOVER
  else s

theorem State.flReady_eq (reset : Bool) :
    s.flReady reset = (s.readyState.readyScrub.readyRecover (s.flState == 3 || s.vault.failOpen) reset).fault44.opNext := (rfl)

/-- What a READY flash keeps of the state before. -/
structure State.Readied (u : State) : Prop where
  found : u.foundView = (s.set FLASH.STATUS.STATE 1).foundView
  fl : ∃ m l h, u.fl = { s.readyState.fl with missNext := m, lostNext := l, headNext := h }
  seen : u.vault.flashSeen = s.vault.flashSeen
  cal : u.cal = s.cal

theorem State.readyScrub_readied : s.Readied s.readyState.readyScrub := by
  unfold State.readyScrub
  split
  · exact ⟨(s.readyState.set_foundView rfl (by decide) _).trans (State.setFl_foundView _ _), ⟨_, _, _, rfl⟩, rfl, rfl⟩
  · exact ⟨State.setFl_foundView _ _, ⟨_, _, _, rfl⟩, rfl, rfl⟩

theorem State.Readied.recover {u : State} (h : s.Readied u) (was reset : Bool) : s.Readied (u.readyRecover was reset) := by
  cases was
  · exact h
  · obtain ⟨hfound, ⟨m, l, hd, hfl⟩, hseen, hcal⟩ := h
    refine ⟨?_, ⟨u.missShown reset, reset, true, ?_⟩, hseen, hcal⟩
    · rw [State.readyRecover, if_pos rfl, State.evt_foundView _ rfl (by decide), State.setFl_foundView, State.set_foundView _ rfl (by decide)]
      exact (State.foundView_of_regs rfl).trans hfound
    · show ({ u.fl with missNext := u.missShown reset, lostNext := reset, headNext := true } : Flash) = _
      rw [hfl]

theorem State.fault44_keeps : s.fault44.fl = s.fl ∧ s.fault44.vault = s.vault ∧ s.fault44.cal = s.cal ∧ s.fault44.flState = s.flState := by
  refine ⟨?_, ?_, ?_, State.flState_of_foundView s.fault44_foundView⟩ <;>
    (unfold State.fault44 State.cond; split <;> rfl)

/-- A flash with no sector to empty shows READY, and nothing else is new (R402). -/
theorem State.flReady_foundView (h : s.noTidy) (reset : Bool) : (s.flReady reset).foundView = (s.set FLASH.STATUS.STATE 1).foundView := by
  have hr := State.Readied.recover s s.readyScrub_readied (s.flState == 3 || s.vault.failOpen) reset
  rw [State.flReady_eq]
  generalize s.readyState.readyScrub.readyRecover (s.flState == 3 || s.vault.failOpen) reset = u at hr
  obtain ⟨hfound, ⟨m, l, hd, hfl⟩, -, -⟩ := hr
  have htidy : u.fault44.noTidy := by
    rw [State.noTidy, u.fault44_keeps.1, hfl]
    exact h
  rw [State.opNext_foundView _ htidy, State.fault44_foundView, hfound]

/-! ### A format (R403) -/

/-- The sectors of the retirement bitmap. -/
def State.retiredCount : Nat := ((List.range s.ringN).filter (fun i => look s.fl.retired (4 + i))).length

/-- The registers of a format. -/
def State.formatShown : State :=
  ((s.set FLASH.FORMATNO s.formatNext).set FLASH.RETIRED s.retiredCount).set2 FLASH.MAXERASE0 ((s.fl.wear.map Prod.snd).foldl max 0)

/-- Whatever the flash did ends, and the part counts as seen. -/
def State.formatSeen : State := { s.formatShown.flAbort with vault := { s.vault with flashSeen := true } }

/-- The ring is empty, and both anchors are due. -/
def State.formatEmpty (ret : Nat) : State :=
  s.setFl { s.fl with
    anchDue := true, anchMore := true, erases := 0, ring := [], moved := [], next := 8 * s.firstSector, tail := s.firstSector, head := s.firstSector,
    erased := s.ringN - ret, newest := none, newestOf := [], tSets := [], xs := [], ss := [], ms := [], monthLtc := 0, sets := [] }

theorem State.flFormat_eq : s.flFormat = s.formatSeen.formatEmpty s.retiredCount := (rfl)

/-- What an abort leaves of the flash: nothing to do, and the retirement bitmap. -/
theorem State.flAbort_idle : s.flAbort.fl.op = none ∧ s.flAbort.fl.cur = none ∧ s.flAbort.fl.flush = 0 ∧ s.flAbort.noTidy ∧
    s.flAbort.fl.retired = s.fl.retired := by
  unfold State.flAbort State.noTidy
  dsimp only
  split <;> exact ⟨rfl, rfl, rfl, ⟨rfl, rfl⟩, rfl⟩

/-- The number after which a format looks for its own. -/
def State.formatBase : Nat := match newerAnchor s.fl.anchA s.fl.anchC with | some a => a.formatNo.toNat | none => s.get FLASH.FORMATNO

theorem State.formatNext_eq : s.formatNext =
    (((List.range 256).map (fun i => (s.formatBase + 1 + i) % 256)).find? (fun n => !s.formatsUsed.contains n)).getD ((s.formatBase + 1) % 256) := (rfl)

theorem State.formatNext_lt : s.formatNext < 256 := by
  rw [State.formatNext_eq]
  rcases h : ((List.range 256).map (fun i => (s.formatBase + 1 + i) % 256)).find? (fun n => !s.formatsUsed.contains n) with _ | n
  · exact Nat.mod_lt _ (show 0 < 256 by decide)
  · have hmem := List.mem_of_find?_eq_some h
    obtain ⟨i, -, rfl⟩ := List.mem_map.mp hmem
    exact Nat.mod_lt _ (show 0 < 256 by decide)

/-- A number that nothing carries is found while there is one (R403). -/
theorem State.formatNext_fresh {n : Nat} (hn : n < 256) (h : s.formatsUsed.contains n = false) : s.formatsUsed.contains s.formatNext = false := by
  rw [State.formatNext_eq]
  rcases hf : ((List.range 256).map (fun i => (s.formatBase + 1 + i) % 256)).find? (fun n => !s.formatsUsed.contains n) with _ | m
  · have hmem : n ∈ (List.range 256).map (fun i => (s.formatBase + 1 + i) % 256) :=
      List.mem_map.mpr ⟨(n + 255 * (s.formatBase + 1)) % 256, List.mem_range.mpr (Nat.mod_lt _ (by decide)), by omega⟩
    exact absurd (by simpa using h) (List.find?_eq_none.mp hf n hmem)
  · have hfree := List.find?_some hf
    rwa [Bool.not_eq_true'] at hfree

theorem State.formatShown_foundView : s.formatShown.foundView = (s.set FLASH.FORMATNO s.formatNext).foundView := by
  rw [State.formatShown, State.set2_foundView _ rfl (by decide) (by decide), State.set_foundView _ rfl (by decide)]

theorem State.flFormat_foundView : s.flFormat.foundView = (s.set FLASH.FORMATNO s.formatNext).foundView := by
  rw [State.flFormat_eq, State.formatEmpty, State.setFl_foundView, ← State.formatShown_foundView]
  exact (State.foundView_of_regs rfl).trans s.formatShown.flAbort_foundView

/-- A format leaves the flash nothing to do but the first anchor, then the second. -/
theorem State.flFormat_fl : s.flFormat.fl.op = none ∧ s.flFormat.fl.cur = none ∧ s.flFormat.fl.flush = 0 ∧ s.flFormat.noTidy ∧
    s.flFormat.fl.retired = s.fl.retired ∧ s.flFormat.fl.ring = [] ∧ s.flFormat.fl.newest = none ∧ s.flFormat.fl.anchDue = true ∧
    s.flFormat.fl.anchMore = true ∧ s.flFormat.vault.flashSeen = true := by
  have hshown : s.formatShown.fl.retired = s.fl.retired := rfl
  have h := s.formatShown.flAbort_idle
  rw [hshown] at h
  rw [State.flFormat_eq, State.formatSeen]
  generalize s.formatShown.flAbort = u at h
  obtain ⟨hop, hcur, hflush, htidy, hret⟩ := h
  exact ⟨hop, hcur, hflush, htidy, hret, rfl, rfl, rfl, rfl, rfl⟩

end

/-- With an anchor due, no record in progress and no flush under way, the anchor is written (R412). -/
theorem State.opNext_anchor {s : State} (hop : s.fl.op = none) (hstate : s.flState = 1) (hcur : s.fl.cur = none) (hdue : s.fl.anchDue = true)
    (hflush : s.fl.flush = 0) : s.opNext = (s.setFl { s.fl with op := some .anchor }).flStatus := by
  have h1 : ¬ (s.fl.op.isSome = true ∨ s.flState ≠ 1) := by simp [hop, hstate]
  have h2 : ¬ s.fl.cur.isSome = true := by simp [hcur]
  have h3 : (s.fl.anchDue && s.fl.flush == 0) = true := by simp [hdue, hflush]
  rw [State.opNext, if_neg h1, if_neg h2, if_pos h3]

theorem exec_format_eq (key : Byte) (s : State) : exec (.format key) s = whenActive [.tm, .cal, .cfg, .fl, .vault] s fun s => s.format key := (rfl)

theorem State.setState_flState (s : State) (v : Nat) (h : v < 4) : (s.set FLASH.STATUS.STATE v).flState = v := by
  rw [State.flState, State.get_set _ _ _ rfl]
  exact Nat.mod_eq_of_lt h

/-- A format of a part that may be formatted (R403, R412). -/
theorem State.formatted (s : State) (reset : Bool) : ((s.flFormat).flReady reset).flState = 1 ∧
    ((s.flFormat).flReady reset).get FLASH.FORMATNO = s.formatNext ∧ ((s.flFormat).flReady reset).fl.ring = [] ∧
    ((s.flFormat).flReady reset).fl.op = some .anchor ∧ ((s.flFormat).flReady reset).fl.anchMore = true ∧
    ((s.flFormat).flReady reset).fl.newest = none ∧ ((s.flFormat).flReady reset).fl.retired = s.fl.retired ∧
    ((s.flFormat).flReady reset).vault.flashSeen = true ∧ ((s.flFormat).flReady reset).holds 44 = false := by
  have hr := State.Readied.recover _ s.flFormat.readyScrub_readied (s.flFormat.flState == 3 || s.flFormat.vault.failOpen) reset
  obtain ⟨hop, hcur, hflush, -, hret, hring, hnew, hdue, hmore, hseen⟩ := s.flFormat_fl
  have hno : (s.flFormat.set FLASH.STATUS.STATE 1).get FLASH.FORMATNO = s.formatNext := by
    rw [State.get_set_ne _ _ _ _ rfl rfl, State.formatNo_of_foundView s.flFormat_foundView, State.get_set _ _ _ rfl]
    exact Nat.mod_eq_of_lt (Nat.lt_trans s.formatNext_lt (by decide))
  rw [State.flReady_eq]
  generalize s.flFormat.readyState.readyScrub.readyRecover (s.flFormat.flState == 3 || s.flFormat.vault.failOpen) reset = u at hr
  obtain ⟨hfound, ⟨m, l, hd, hfl⟩, hkeptSeen, -⟩ := hr
  obtain ⟨hfl4, hvault4, -, hstate4⟩ := u.fault44_keeps
  have hstate : u.flState = 1 := (State.flState_of_foundView hfound).trans (State.setState_flState _ 1 (by decide))
  have hholds : u.fault44.holds 44 = false := by
    rw [State.fault44, State.holds_cond _ _ _ _ (by decide), hstate]
    rfl
  have hflU : u.fault44.fl = u.fl := hfl4
  have hanchor : u.fault44.opNext = (u.fault44.setFl { u.fl with op := some .anchor }).flStatus := by
    rw [State.opNext_anchor (by rw [hflU, hfl]; exact hop) (hstate4.trans hstate) (by rw [hflU, hfl]; exact hcur) (by rw [hflU, hfl]; exact hdue)
      (by rw [hflU, hfl]; exact hflush), hflU]
  have hlast (x : State) : x.flStatus.fl = x.fl ∧ x.flStatus.vault = x.vault ∧ x.flStatus.condNow = x.condNow := ⟨rfl, rfl, rfl⟩
  have hview : u.fault44.opNext.foundView = (s.flFormat.set FLASH.STATUS.STATE 1).foundView := by
    rw [hanchor, State.flStatus_foundView, State.setFl_foundView, State.fault44_foundView, hfound]
  refine ⟨(State.flState_of_foundView hview).trans (State.setState_flState _ 1 (by decide)), (State.formatNo_of_foundView hview).trans hno, ?_⟩
  rw [hanchor, (hlast _).1, (hlast _).2.1, State.holds, (hlast _).2.2]
  refine ⟨?_, rfl, ?_, ?_, ?_, ?_, hholds⟩
  · show u.fl.ring = []; rw [hfl]; exact hring
  · show u.fl.anchMore = true; rw [hfl]; exact hmore
  · show u.fl.newest = none; rw [hfl]; exact hnew
  · show u.fl.retired = s.fl.retired; rw [hfl]; exact hret
  · show u.fault44.vault.flashSeen = true; rw [hvault4, hkeptSeen, hseen]

/-! ### Discovery (R401, R402) -/

section
variable (s : State)

/-- The records found, without those that no reader takes. -/
def soundFind (f : FlashFind) : FlashFind := { f with newest := f.newest.filter recSound }

/-- What discovery has read of the part. -/
def State.findRead (f : FlashFind) : State := if s.usedB FLASH.CFG.EN then s.set2 FLASH.JEDECID0 f.jedec.toNat else s

/-- The mode and the ring of a part that shows its table. -/
def State.findMode (f : FlashFind) : State :=
  if s.usedB FLASH.CFG.EN && f.sfdp then (s.set FLASH.MODE (s.flMode f)).set FLASH.RINGSEC (findRing f) else s

/-- At a start the time is resumed. -/
def State.findTime (f : FlashFind) (k : Nat) : State :=
  if s.tm.tread = 0 then s.ltcResume (match k, findAnchor f with | 1, some a => s.newestIn f a.formatNo | _, _ => none) else s

/-- STATE by the outcome. -/
def State.findEnds (f : FlashFind) (k : Nat) (wasOpen : Bool) : State :=
  match k, findAnchor f with
  | 1, some a => (s.flLoad f a).flReady true
  | 4, _ => (s.flFormat).flReady true
  | 3, _ => s.flFail.setFl { s.flFail.fl with ramLost := wasOpen }
  | _, _ => s.set FLASH.STATUS.STATE 2

theorem State.discovered_eq (f : FlashFind) : s.discovered f =
    ((((s.findRead (soundFind f)).findMode (soundFind f)).findTime (soundFind f) (s.findState (soundFind f))).findEnds (soundFind f)
      (s.findState (soundFind f)) s.vault.failOpen).fault44.flWear.flStatus := (rfl)

theorem State.findMode_foundView (f : FlashFind) : (s.findMode f).foundView = s.foundView := by
  unfold State.findMode
  split
  · rw [State.set_foundView _ rfl (by decide), State.set_foundView _ rfl (by decide)]
  · rfl

theorem State.ltcResume_foundView (r : Option Record) : (s.ltcResume r).foundView = s.foundView := by
  have hring (u : State) (hi : Nat) (closed : Bool) : (u.vaultRing hi closed).foundView = u.foundView := by
    refine State.foundView_of_pageWords ?_
    rw [State.vaultRing, State.ringWrite_pageWords _ (by decide), State.ringRetire, State.setB_pageWords _ (by decide)]
    rfl
  unfold State.ltcResume
  split
  · rfl
  · dsimp only
    rw [hring, State.foundView_of_pageWords (State.setB_pageWords _ (by decide) _), State.foundView_of_pageWords (State.setB_pageWords _ (by decide) _)]
    exact State.foundView_of_regs rfl

theorem State.findTime_foundView (f : FlashFind) (k : Nat) : (s.findTime f k).foundView = s.foundView := by
  unfold State.findTime
  split
  · exact s.ltcResume_foundView _
  · rfl

/-- What the anchor and the head say changes of these fields FORMATNO alone. -/
theorem State.flLoad_foundView (f : FlashFind) (a : Anchor) : (s.flLoad f a).foundView = (s.set FLASH.FORMATNO a.formatNo.toNat).foundView ∧
    (s.flLoad f a).noTidy := by
  refine ⟨?_, ⟨rfl, rfl⟩⟩
  have hshown (r n : Nat) : (((s.set FLASH.FORMATNO a.formatNo.toNat).set FLASH.RETIRED r).set2 FLASH.MAXERASE0 n).foundView =
      (s.set FLASH.FORMATNO a.formatNo.toNat).foundView := by
    rw [State.set2_foundView _ rfl (by decide) (by decide), State.set_foundView _ rfl (by decide)]
  rw [← hshown]
  exact State.foundView_of_regs rfl

/-- An end of discovery that began in `s`: STATE is `v`, and the JEDEC ID stands. -/
def State.EndsIn (t : State) (v : Nat) : Prop := t.flState = v ∧ t.get2 FLASH.JEDECID0 = s.get2 FLASH.JEDECID0

theorem State.EndsIn.congr {s t u : State} {v : Nat} (h : s.EndsIn t v) (hu : u.foundView = t.foundView) : s.EndsIn u v :=
  ⟨(State.flState_of_foundView hu).trans h.1, (State.jedec_of_foundView hu).trans h.2⟩

theorem State.jedec_set {f : Fld} (hf : f.ok = true) (h0 : f.apart FLASH.JEDECID0 = true) (h1 : f.apart (FLASH.JEDECID0.plus 1) = true) (v : Nat) :
    (s.set f v).get2 FLASH.JEDECID0 = s.get2 FLASH.JEDECID0 := by
  rw [State.get2, State.get2, State.get_set_ne _ _ _ _ hf h0, State.get_set_ne _ _ _ _ hf h1]

theorem State.setState_ends {v : Nat} (hv : v < 4) : s.EndsIn (s.set FLASH.STATUS.STATE v) v :=
  ⟨s.setState_flState v hv, s.jedec_set rfl rfl rfl v⟩

/-- A flash that becomes READY with nothing to empty, from a state that differs in FORMATNO alone. -/
theorem State.flReady_ends {t : State} {n : Nat} (h : t.foundView = (s.set FLASH.FORMATNO n).foundView) (htidy : t.noTidy) (reset : Bool) :
    s.EndsIn (t.flReady reset) 1 := by
  have hview := t.flReady_foundView htidy reset
  refine ⟨(State.flState_of_foundView hview).trans (t.setState_flState 1 (by decide)), (State.jedec_of_foundView hview).trans ?_⟩
  rw [State.jedec_set _ rfl rfl rfl, State.jedec_of_foundView h, State.jedec_set _ rfl rfl rfl]

theorem State.findEnds_anchor {f : FlashFind} {a : Anchor} (ha : findAnchor f = some a) (w : Bool) : s.EndsIn (s.findEnds f 1 w) 1 := by
  have heq : s.findEnds f 1 w = (s.flLoad f a).flReady true := by simp only [State.findEnds, ha]
  obtain ⟨hview, htidy⟩ := s.flLoad_foundView f a
  rw [heq]
  exact s.flReady_ends hview htidy true

theorem State.findEnds_format (f : FlashFind) (w : Bool) : s.EndsIn (s.findEnds f 4 w) 1 :=
  s.flReady_ends s.flFormat_foundView s.flFormat_fl.2.2.2.1 true

theorem State.findEnds_failed (h : s.flState ≠ 3) (f : FlashFind) (w : Bool) : s.EndsIn (s.findEnds f 3 w) 3 :=
  (s.setState_ends (by decide)).congr ((State.setFl_foundView _ _).trans (s.flFail_foundView h))

theorem State.findEnds_absent (f : FlashFind) (w : Bool) : s.EndsIn (s.findEnds f 2 w) 2 := s.setState_ends (by decide)

/-! What follows discovery is on other pages. -/

theorem State.set3_page19 {f : Fld} (hf : f.addr / 64 ≠ 0x19) (h1 : (f.plus 1).addr / 64 ≠ 0x19) (h2 : (f.plus 2).addr / 64 ≠ 0x19) (v : Nat) :
    (s.set3 f v).pageWords 0x19 = s.pageWords 0x19 := by
  rw [State.set3, State.set_pageWords _ h2, State.set2_pageWords _ hf h1]

theorem State.publishWch_page19 : s.publishWch.pageWords 0x19 = s.pageWords 0x19 := by
  rw [State.publishWch]
  dsimp only
  rw [State.set_pageWords _ (by decide)]
  refine State.forEach_pageWords _ _ _ fun ch hch u => ?_
  rw [List.mem_range] at hch
  refine State.healthSet_pageWords _ _ _ _ (by decide) ?_ ?_
  · simp only [Fld.addr, linear]
    omega
  · rintro e ⟨⟩
    decide

theorem State.flWear_foundView : s.flWear.foundView = s.foundView :=
  State.foundView_of_pageWords (State.healthSet_pageWords _ _ _ _ (by decide) (by decide) (by rintro _ ⟨⟩))

theorem State.applySlot_foundView (sl : CalSlot) (v r : Bool) : (s.applySlot sl v r).foundView = s.foundView := by
  refine State.foundView_of_pageWords ?_
  rw [State.applySlot]
  dsimp only
  rw [State.pimg_pageWords _ (by decide), State.publishWch_page19, State.set_pageWords _ (by decide), State.setB_pageWords _ (by decide),
    State.set2_pageWords _ (by decide) (by decide), State.set_pageWords _ (by decide), State.set3_page19 _ (by decide) (by decide) (by decide)]
  exact s.withCal_pageWords _

theorem State.galRestore_foundView : s.galRestore.foundView = s.foundView := by
  have hnewer (u : State) : u.impNewer.pageWords 0x19 = u.pageWords 0x19 := by
    simp (disch := decide) only [State.impNewer, State.ite_pageWords, State.set_pageWords, ite_self]
  have hgal (u : State) : u.galStatus.pageWords 0x19 = u.pageWords 0x19 := by
    simp (disch := decide) only [State.galStatus, State.setB_pageWords, State.set_pageWords]
  by_cases hskip : s.gal.restored = true ∨ s.flState = 0
  · rw [State.galRestore_skipped _ hskip]
  · obtain ⟨hold, h0⟩ := not_or.mp hskip
    by_cases hnone : s.flState ≠ 1 ∨ s.restoreSet = none
    · rw [State.galRestore_none _ (by simpa using hold) h0 hnone, State.foundView_of_pageWords (State.setB_pageWords _ (by decide) _)]
      exact State.foundView_of_regs rfl
    · obtain ⟨h1, hset⟩ := not_or.mp hnone
      obtain ⟨g, hg⟩ := Option.ne_none_iff_exists'.mp hset
      obtain ⟨i, heq⟩ := s.galRestore_takes (by simpa using hold) (not_not.mp h1) hg
      rw [heq]
      refine (State.foundView_of_pageWords ?_).trans (State.foundView_of_regs (t := { s with gal := s.restoredGal g, imp := i }) rfl)
      rw [State.impStatus_pageWords _ (by decide), hnewer, hgal, State.galNewer_pageWords _ (by decide), State.setB_pageWords _ (by decide)]

theorem State.afterDiscovery_foundView : s.afterDiscovery.foundView = s.foundView := by
  have hlast (u : State) (c : Cal) (g : Cfg) : (if u.vault.wipe then ({ u with cal := c } : State) else { u with cfg := g }).foundView = u.foundView := by
    split <;> exact State.foundView_of_regs rfl
  unfold State.afterDiscovery
  dsimp only
  split
  · refine (hlast _ _ _).trans ?_
    split
    · rw [State.applySlot_foundView]
      exact State.foundView_of_regs rfl
    · exact State.foundView_of_regs rfl
  · rw [State.galRestore_foundView]
    exact State.foundView_of_regs rfl

end

theorem exec_flashDiscovery_eq (s : State) : exec .flashDiscovery s =
    whenActive [.fl] s fun s => if s.flState = 0 then s.setFl { s.fl with step := min 6 (s.fl.step + 1) } else s := (rfl)
theorem exec_flashDiscoveryDone_eq (f : FlashFind) (s : State) : exec (.flashDiscoveryDone f) s =
    whenActive [.tm, .cal, .bal, .imp, .safe, .gal, .cfg, .fl, .vault] s fun s => s.when (s.flState == 0 && decide (s.findSteps f ≤ s.fl.step))
      fun s => (s.discovered f).afterDiscovery := (rfl)

/-- The outcome of a discovery, by what the part shows (R402). -/
theorem State.findEnds_shows {s u : State} (h0 : u.flState = 0) (f : FlashFind) (w : Bool) : u.EndsIn (u.findEnds f (s.findState f) w)
    (if s.usedB FLASH.CFG.EN = false then 2
     else if f.sfdp = false then (if f.idBlank = true ∧ s.vault.flashSeen = false then 2 else 3)
     else if findMeets f = true ∧ (f.anchorA.isSome = true ∨ f.anchorB.isSome = true ∨ f.ringErased = true) then 1 else 3) := by
  have hfail := u.findEnds_failed (by rw [h0]; decide) f w
  have hanchors : (findAnchor f).isSome = (f.anchorA.isSome || f.anchorB.isSome) := by
    unfold findAnchor
    cases f.anchorA <;> cases f.anchorB <;> rfl
  unfold State.findState
  by_cases hen : s.usedB FLASH.CFG.EN = false
  · rw [if_pos hen, if_pos hen]
    exact u.findEnds_absent f w
  rw [if_neg hen, if_neg hen]
  by_cases hsfdp : f.sfdp = false
  · rw [if_pos hsfdp, if_pos hsfdp]
    by_cases hblank : f.idBlank = true ∧ s.vault.flashSeen = false
    · rw [if_pos hblank, if_pos (by simp [hblank])]
      exact u.findEnds_absent f w
    · rw [if_neg hblank, if_neg (by simpa using hblank)]
      exact hfail
  rw [if_neg hsfdp, if_neg hsfdp]
  cases hmeets : findMeets f
  · rw [if_pos rfl, if_neg (by simp)]
    exact hfail
  rw [if_neg (by decide), hanchors]
  rcases ha : findAnchor f with _ | a
  · rw [ha] at hanchors
    have hnone : f.anchorA.isSome = false ∧ f.anchorB.isSome = false := by simpa using hanchors.symm
    rw [hnone.1, hnone.2]
    cases herased : f.ringErased
    · rw [if_neg (by decide), if_neg (by decide), if_neg (by simp)]
      exact hfail
    · rw [if_neg (by decide), if_pos rfl, if_pos (by simp)]
      exact u.findEnds_format f w
  · rw [ha] at hanchors
    have hsome : f.anchorA.isSome = true ∨ f.anchorB.isSome = true := by simpa using hanchors.symm
    rw [if_pos (by simpa using hsome), if_pos ⟨rfl, hsome.elim .inl fun h => .inr (.inl h)⟩]
    exact u.findEnds_anchor ha w

/-- Settles O55: the end of discovery is `State.findEnds_shows`, a format `State.formatted`. -/
theorem flashStarts : Obligations.FlashStarts := by
  refine ⟨fun s hact h0 => ?_, fun s f hact h0 hsteps => ?_, fun s f hact h => ?_, fun s key hact h => ?_, fun s hact hmay hstate => ?_,
    fun s n hn h => ⟨s.formatNext_fresh hn h, s.formatNext_lt⟩, fun s f => rfl⟩
  case refine_1 => exact (exec_flashDiscovery_eq s).trans (whenActive_becomes hact (if_pos h0) (s.setFl_without (by decide) _))
  case refine_2 =>
    have hgo : (s.flState == 0 && decide (s.findSteps f ≤ s.fl.step)) = true := by simp [h0, hsteps]
    have hread : (s.findRead (soundFind f)).flState = 0 ∧
        (s.usedB FLASH.CFG.EN = true → (s.findRead (soundFind f)).get2 FLASH.JEDECID0 = f.jedec.toNat) := by
      unfold State.findRead
      split
      · exact ⟨(State.get_set2_ne _ _ rfl rfl rfl).trans h0, fun _ => State.get2_set2 _ _ rfl rfl (Nat.lt_trans f.jedec.isLt (by decide))⟩
      · next h => exact ⟨h0, fun h' => absurd h' h⟩
    have hview := (State.findTime_foundView _ (soundFind f) (s.findState (soundFind f))).trans
      ((s.findRead (soundFind f)).findMode_foundView (soundFind f))
    have hdone : (s.discovered f).afterDiscovery.foundView = _ := (State.afterDiscovery_foundView _).trans (by
      rw [State.discovered_eq, State.flStatus_foundView, State.flWear_foundView, State.fault44_foundView])
    obtain ⟨hstate, hjedec⟩ := (State.findEnds_shows (s := s) ((State.flState_of_foundView hview).trans hread.1) (soundFind f) s.vault.failOpen).congr hdone
    refine ⟨_, (exec_flashDiscoveryDone_eq f s).trans (whenActive_active _ s _ hact), fun hen => ?_, ?_⟩
    · rw [State.when, if_pos hgo]
      exact hjedec.trans ((State.jedec_of_foundView hview).trans (hread.2 hen))
    · rw [State.when, if_pos hgo]
      exact hstate
  case refine_3 =>
    refine (exec_flashDiscoveryDone_eq f s).trans (whenActive_same hact (if_neg ?_))
    rcases h with h | h
    · simp [h]
    · simp [Nat.not_le.mpr h]
  case refine_4 =>
    have hrej : key ≠ 0xA5 ∨ ¬ (s.holds 44 = true ∨ (s.fl.anchAok = false ∧ s.fl.anchBok = false) ∨ s.life = 0) := by
      rcases h with h | ⟨h44, hok, hlife⟩
      · exact .inl h
      · refine .inr ?_
        rintro (h | ⟨hA, hB⟩ | h)
        · rw [h44] at h; cases h
        · rw [hA, hB] at hok; simp at hok
        · exact hlife h
    exact (exec_format_eq key s).trans (whenActive_becomes hact (if_pos hrej) (State.evt_without _ _ _))
  case refine_5 =>
    have hmay' : s.format 0xA5 = (s.flFormat).flReady s.fl.ramLost := by
      rw [State.format, if_neg, if_pos hstate]
      rintro (h | h)
      · exact h rfl
      · exact h (hmay.elim .inl fun h => .inr (h.elim .inr .inl))
    refine ⟨_, (exec_format_eq 0xA5 s).trans (whenActive_becomes hact hmay' ?_), s.formatted s.fl.ramLost⟩
    exact (State.flReady_without _ _).trans s.flFormat_without

end Sys2Proof.Machine
end
-- ==== Sys2Proof/Proofs/TipolView.lean ====
section
/-! SUPPORT. What the sensor bus does between its transactions: the words of its status, and the next operation (R423, R431, R433). -/
namespace Sys2Proof.Machine

/-! ### The status words -/

/-- A field of the bus's page that the status of the registry and of the operation in progress does not form. -/
def tipApart (f : Fld) : Bool :=
  f.addr / 64 == 0x1A && f.addr != TIPOL.MISSMAP0.addr && f.addr != TIPOL.MISSMAP1.addr &&
    [TIPOL.NODES, TIPOL.STATUS.SEARCHING, TIPOL.STATUS.POLLING, TIPOL.STATUS.FULL, TIPOL.STATUS.MISSLIVE].all fun g => g.apart f

section
variable (s : State)

/-- Some entry of the registry is missing. -/
def State.anyMissing : Bool := (List.range 32).any fun e => ((s.tipNode e).map TipNode.missing).getD false

/-- The words of the missing entries. -/
def State.missWords : State :=
  forEach (List.range 32) (fun (e : Nat) (u : State) => u.setV TIPOL.MISSMAP0 e (((s.tipNode e).map TipNode.missing).getD false)) s

/-- The counts and bits of the bus. -/
def State.busWords (any : Bool) : State :=
  ((((s.set TIPOL.NODES s.tipCount).setB TIPOL.STATUS.SEARCHING s.tip.search.isSome).setB TIPOL.STATUS.POLLING s.tip.polling).setB
    TIPOL.STATUS.FULL (s.tipCount == 32)).setB TIPOL.STATUS.MISSLIVE any

theorem State.tipStatus_eq : s.tipStatus = (s.missWords.busWords s.anyMissing).cond 50 s.anyMissing := (rfl)

theorem State.missWords_keeps {β : Type} (g : State → β) (h : ∀ (u : State) (f : Fld) (i : Nat) (b : Bool), g (u.setV f i b) = g u) :
    g s.missWords = g s := forEach_keeps g _ _ (fun _ _ u => h u _ _ _) s

theorem State.tipStatus_get {f : Fld} (h : tipApart f = true) : s.tipStatus.get f = s.get f := by
  simp only [tipApart, Bool.and_eq_true, List.all_cons, List.all_nil, bne_iff_ne] at h
  obtain ⟨⟨⟨-, hm0⟩, hm1⟩, h1, h2, h3, h4, h5, -⟩ := h
  have hmap : s.missWords.get f = s.get f := by
    refine forEach_keeps (fun u : State => u.get f) _ _ (fun e he u => ?_) s
    have hword : e / 16 = 0 ∨ e / 16 = 1 := by
      rw [List.mem_range] at he
      omega
    rw [State.setV, State.setB]
    refine State.get_set_ne _ _ _ _ (by simp [Fld.ok]; omega) ?_
    rcases hword with hw | hw <;> (rw [hw]; simp only [Fld.apart, Bool.or_eq_true, bne_iff_ne]; left)
    · exact fun h => hm0 h.symm
    · exact fun h => hm1 h.symm
  rw [State.tipStatus_eq, State.cond_get, State.busWords, State.setB, State.get_set_ne _ _ _ _ rfl h5, State.setB,
    State.get_set_ne _ _ _ _ rfl h4, State.setB, State.get_set_ne _ _ _ _ rfl h3, State.setB, State.get_set_ne _ _ _ _ rfl h2,
    State.get_set_ne _ _ _ _ rfl h1, hmap]

theorem State.tip_of_without {s t : State} {c : List Part} (hc : Part.tip ∉ c) (h : t.without c = s.without c) : t.tip = s.tip := by
  rw [← State.only_of_without h]
  simp [State.only, hc]

theorem State.only_tip (t : State) {c : List Part} (hc : Part.tip ∈ c) : (s.only t c).tip = t.tip := by simp [State.only, hc]

theorem State.tipStatus_tip : s.tipStatus.tip = s.tip := State.tip_of_without (c := []) (by decide) s.tipStatus_without
theorem State.tipStatus_tm : s.tipStatus.tm = s.tm := State.tm_of_without (c := []) (by decide) s.tipStatus_without

theorem State.tipStatus_holds {i : Nat} (hi : i ≠ 50) : s.tipStatus.holds i = s.holds i := by
  have hmap : s.missWords.holds i = s.holds i := s.missWords_keeps (fun u => u.holds i) fun _ _ _ _ => rfl
  have hbus (u : State) (any : Bool) : (u.busWords any).holds i = u.holds i := rfl
  rw [State.tipStatus_eq, State.holds_cond _ _ _ _ (by decide), if_neg hi, hbus, hmap]

theorem State.tipStatus_occurred {i : Nat} (h : s.occurred.getLsbD i = true) : s.tipStatus.occurred.getLsbD i = true := by
  have hmap : s.missWords.occurred = s.occurred := s.missWords_keeps (fun u => u.occurred) fun _ _ _ _ => rfl
  have hbus (u : State) (any : Bool) : (u.busWords any).occurred = u.occurred := rfl
  rw [State.tipStatus_eq]
  exact State.cond_keeps (by rw [hbus, hmap, h])

/-- What the status shows of the operation in progress and of the registry. -/
theorem State.tipStatus_shows : s.tipStatus.bit TIPOL.STATUS.SEARCHING = s.tip.search.isSome ∧ s.tipStatus.bit TIPOL.STATUS.POLLING = s.tip.polling ∧
    s.tipStatus.get TIPOL.NODES = s.tipCount % 65536 := by
  have htip : s.missWords.tip = s.tip := s.missWords_keeps (fun u => u.tip) fun _ _ _ _ => rfl
  have hcount : s.missWords.tipCount = s.tipCount := by simp only [State.tipCount, State.tipNode, htip]
  rw [State.tipStatus_eq, State.cond_bit, State.cond_bit, State.cond_get, State.busWords, hcount, htip]
  refine ⟨?_, ?_, ?_⟩
  · rw [State.bit, State.setB, State.get_set_ne _ _ _ _ rfl rfl, State.setB, State.get_set_ne _ _ _ _ rfl rfl, State.setB,
      State.get_set_ne _ _ _ _ rfl rfl]
    exact State.bit_setB _ _ _ _ _ (by decide)
  · rw [State.bit, State.setB, State.get_set_ne _ _ _ _ rfl rfl, State.setB, State.get_set_ne _ _ _ _ rfl rfl]
    exact State.bit_setB _ _ _ _ _ (by decide)
  · rw [State.setB, State.get_set_ne _ _ _ _ rfl rfl, State.setB, State.get_set_ne _ _ _ _ rfl rfl, State.setB, State.get_set_ne _ _ _ _ rfl rfl,
      State.setB, State.get_set_ne _ _ _ _ rfl rfl]
    exact State.get_set _ _ _ rfl

/-! ### The bus's next operation -/

/-- What stands through what the bus does between its transactions: the registry, the time and the words that are not of its status. -/
structure State.BusKeeps (u : State) : Prop where
  get : ∀ f, tipApart f = true → u.get f = s.get f
  nodes : u.tip.nodes = s.tip.nodes
  tm : u.tm = s.tm

theorem State.BusKeeps.refl : s.BusKeeps s := ⟨fun _ _ => rfl, rfl, rfl⟩

theorem State.BusKeeps.trans {s u v : State} (h : s.BusKeeps u) (h' : u.BusKeeps v) : s.BusKeeps v :=
  ⟨fun f hf => (h'.get f hf).trans (h.get f hf), h'.nodes.trans h.nodes, h'.tm.trans h.tm⟩

theorem State.BusKeeps.bit {s u : State} (h : s.BusKeeps u) {f : Fld} (hf : tipApart f = true) : u.bit f = s.bit f := by
  rw [State.bit, State.bit, h.get f hf]

theorem State.setTip_keeps {t : Tip} (h : t.nodes = s.tip.nodes) : s.BusKeeps (s.setTip t) := ⟨fun _ _ => rfl, h, rfl⟩

theorem State.tipOp_tip (o : TipOp) : (s.tipOp o).tip = { s.tip with op := o, called := false, answered := false, further := false } :=
  State.tipStatus_tip _

theorem State.tipOp_keeps (o : TipOp) : s.BusKeeps (s.tipOp o) :=
  ⟨fun _ hf => State.tipStatus_get _ hf, by rw [State.tipOp_tip], State.tipStatus_tm _⟩

theorem State.tipOp_holds {i : Nat} (hi : i ≠ 50) (o : TipOp) : (s.tipOp o).holds i = s.holds i := State.tipStatus_holds _ hi
theorem State.tipOp_occurred {i : Nat} (h : s.occurred.getLsbD i = true) (o : TipOp) : (s.tipOp o).occurred.getLsbD i = true :=
  State.tipStatus_occurred _ h

/-- The first branch of a search (R431). -/
def firstBranch : TipSearch := { stack := [], lv := 0, pre := [], tries := 0, first := true }

theorem State.tipSearch_eq : s.tipSearch = (s.setTip { s.tip with searchReq := false, search := some firstBranch }).tipOp .scan := (rfl)
theorem State.tipPoll_eq : s.tipPoll = (s.setTip { s.tip with pollReq := false, polling := true, todo := [] }).tipOp .latch := (rfl)

theorem State.setTip_tipOp_keeps {t : Tip} (h : t.nodes = s.tip.nodes) (o : TipOp) : s.BusKeeps ((s.setTip t).tipOp o) :=
  (s.setTip_keeps h).trans (State.tipOp_keeps _ o)

theorem State.tipSearch_keeps : s.BusKeeps s.tipSearch := by
  rw [State.tipSearch_eq]
  refine State.setTip_tipOp_keeps s ?_ _
  rfl

theorem State.tipPoll_keeps : s.BusKeeps s.tipPoll := by
  rw [State.tipPoll_eq]
  refine State.setTip_tipOp_keeps s ?_ _
  rfl

theorem State.setTip_holds (t : Tip) (i : Nat) : (s.setTip t).holds i = s.holds i := rfl
theorem State.setTip_occurred (t : Tip) : (s.setTip t).occurred = s.occurred := rfl

/-- A free bus goes to a requested search first, then to a due poll cycle. -/
theorem State.tipNext_cases : s.tipNext = s ∨ (s.tip.searchReq = true ∧ s.tipNext = s.tipSearch) ∨
    (s.tip.op = .idle ∧ s.tip.pollReq = true ∧ s.tipNext = s.tipPoll) := by
  unfold State.tipNext
  split
  · exact .inl rfl
  · split
    · next h => exact .inr (.inl ⟨h.1, rfl⟩)
    · split
      · next h => exact .inr (.inr ⟨h.1, h.2, rfl⟩)
      · exact .inl rfl

theorem State.tipNext_search (hon : s.tipOn = true) (hreq : s.tip.searchReq = true) (hnone : s.tip.search = none) (hidle : s.tip.op = .idle) :
    s.tipNext = s.tipSearch := by
  rw [State.tipNext, if_neg (by rw [hon]; decide), if_pos ⟨hreq, hnone, .inl hidle⟩]

theorem State.tipNext_poll (hon : s.tipOn = true) (hreq : s.tip.searchReq = false) (hidle : s.tip.op = .idle) (hpoll : s.tip.pollReq = true) :
    s.tipNext = s.tipPoll := by
  rw [State.tipNext, if_neg (by rw [hon]; decide), if_neg (by simp [hreq]), if_pos ⟨hidle, hpoll⟩]

theorem State.tipNext_keeps : s.BusKeeps s.tipNext := by
  rcases s.tipNext_cases with h | ⟨-, h⟩ | ⟨-, -, h⟩ <;> rw [h]
  · exact .refl s
  · exact s.tipSearch_keeps
  · exact s.tipPoll_keeps

theorem State.tipNext_holds {i : Nat} (hi : i ≠ 50) : s.tipNext.holds i = s.holds i := by
  rcases s.tipNext_cases with h | ⟨-, h⟩ | ⟨-, -, h⟩ <;> rw [h]
  · rw [State.tipSearch_eq, State.tipOp_holds _ hi, State.setTip_holds]
  · rw [State.tipPoll_eq, State.tipOp_holds _ hi, State.setTip_holds]

theorem State.tipNext_occurred {i : Nat} (hocc : s.occurred.getLsbD i = true) : s.tipNext.occurred.getLsbD i = true := by
  rcases s.tipNext_cases with h | ⟨-, h⟩ | ⟨-, -, h⟩ <;> rw [h]
  · exact hocc
  · rw [State.tipSearch_eq]
    exact State.tipOp_occurred _ (by rw [State.setTip_occurred, hocc]) _
  · rw [State.tipPoll_eq]
    exact State.tipOp_occurred _ (by rw [State.setTip_occurred, hocc]) _

end

end Sys2Proof.Machine
end
-- ==== Sys2Proof/Proofs/TipolReads.lean ====
section
/-! SUPPORT. The reads of a poll cycle: the registry entry, its record, and the channel that follows (R432 to R435). -/
namespace Sys2Proof.Machine

section
variable (s : State)

/-! ### The open block -/

theorem State.post_keeps (l : List Byte) : s.BusKeeps (s.post 53 l) ∧ (s.post 53 l).tip = s.tip := by
  have hwithout : (s.post 53 l).without [.xact] = s.without [.xact] := s.post_without (by decide) 53 l
  have hpage : (s.post 53 l).pageWords 0x1A = s.pageWords 0x1A := s.post_pageWords (by decide) (by decide) l
  have htip : (s.post 53 l).tip = s.tip := State.tip_of_without (by decide) hwithout
  refine ⟨⟨fun f hf => State.get_of_pageWords hpage ?_, by rw [htip], State.tm_of_without (by decide) hwithout⟩, htip⟩
  simp only [tipApart, Bool.and_eq_true, beq_iff_eq] at hf
  exact hf.1.1.1

/-- Closing the block takes its records and nothing else of the bus. -/
theorem State.tipClose_keeps : s.BusKeeps s.tipClose ∧ s.tipClose.tip = { s.tip with recs := s.tipClose.tip.recs } := by
  unfold State.tipClose
  split
  · exact ⟨.refl s, rfl⟩
  · obtain ⟨hkeeps, htip⟩ := (s.setTip { s.tip with recs := [] }).post_keeps s.tip.recs.flatten
    have hset : s.BusKeeps (s.setTip { s.tip with recs := [] }) := s.setTip_keeps rfl
    exact ⟨hset.trans hkeeps, by rw [htip]; rfl⟩

theorem State.tipAppend_keeps (b : List Byte) : s.BusKeeps (s.tipAppend b) ∧ (s.tipAppend b).tip = { s.tip with recs := (s.tipAppend b).tip.recs } := by
  have hset : s.BusKeeps (s.setTip { s.tip with recs := s.tip.recs ++ [b] }) := s.setTip_keeps rfl
  unfold State.tipAppend
  dsimp only
  split
  · obtain ⟨hkeeps, htip⟩ := (s.setTip { s.tip with recs := s.tip.recs ++ [b] }).tipClose_keeps
    exact ⟨hset.trans hkeeps, by rw [htip]; rfl⟩
  · exact ⟨hset, rfl⟩

/-! ### The entry that is read -/

theorem State.setNode_tip (e : Nat) (n : TipNode) : (s.setNode e n).tip = { s.tip with nodes := put s.tip.nodes e (some n) } :=
  State.tipStatus_tip _

theorem State.setNode_get (e : Nat) (n : TipNode) {f : Fld} (hf : tipApart f = true) : (s.setNode e n).get f = s.get f :=
  State.tipStatus_get _ hf

theorem State.setNode_tm (e : Nat) (n : TipNode) : (s.setNode e n).tm = s.tm := State.tipStatus_tm _

/-- The entry of channel `k`'s read. -/
def State.nodeAfter (e k : Nat) (r : TipRead) : TipNode := ((s.tipNode e).getD default).after (s.used { TIPOL.NMISS with w := 4 }) k r

/-- The counter, event and fault of a read. -/
def State.readCounted (r : TipRead) : State :=
  match r with
  | .valid _ _ => s
  | .crc _ => ((s.inc TIPOL.CRCCNT).evt TIPOL.EVT.CRC).occur 51
  | .none => s.inc TIPOL.NOREPCNT

/-- The event of an entry that goes missing. -/
def State.missingNoted (e k : Nat) (r : TipRead) (u : State) : State :=
  if (s.nodeAfter e k r).missing ∧ ((s.tipNode e).getD default).missing = false then u.evt TIPOL.EVT.MISSING else u

theorem State.tipRead_eq (e k : Nat) (r : TipRead) : s.tipRead e k r =
    ((s.missingNoted e k r (s.readCounted r)).tipAppend ((s.missingNoted e k r (s.readCounted r)).tipRecord e k r)).setNode e (s.nodeAfter e k r) := (rfl)

theorem State.missingNoted_tip (e k : Nat) (r : TipRead) (u : State) : (s.missingNoted e k r u).tip = u.tip ∧ (s.missingNoted e k r u).tm = u.tm := by
  unfold State.missingNoted
  split <;> exact ⟨rfl, rfl⟩

theorem State.readCounted_tip (r : TipRead) : (s.readCounted r).tip = s.tip ∧ (s.readCounted r).tm = s.tm := by cases r <;> exact ⟨rfl, rfl⟩

/-- A read changes its own entry alone, and the open block. -/
theorem State.tipRead_tip (e k : Nat) (r : TipRead) : (s.tipRead e k r).tm = s.tm ∧ (s.tipRead e k r).tip =
    { s.tip with recs := (s.tipRead e k r).tip.recs, nodes := put s.tip.nodes e (some (s.nodeAfter e k r)) } := by
  have hu : (s.missingNoted e k r (s.readCounted r)).tip = s.tip ∧ (s.missingNoted e k r (s.readCounted r)).tm = s.tm := by
    obtain ⟨h1, h2⟩ := s.missingNoted_tip e k r (s.readCounted r)
    obtain ⟨h3, h4⟩ := s.readCounted_tip r
    exact ⟨h1.trans h3, h2.trans h4⟩
  rw [State.tipRead_eq, State.setNode_tip, State.setNode_tm]
  generalize s.missingNoted e k r (s.readCounted r) = u at hu
  obtain ⟨htip, htm⟩ := hu
  obtain ⟨hkeeps, happend⟩ := u.tipAppend_keeps (u.tipRecord e k r)
  rw [htip] at happend
  refine ⟨hkeeps.tm.trans htm, ?_⟩
  rw [happend]

/-- A read that nobody answers is counted (R434). -/
theorem State.tipRead_norep (e k : Nat) : (s.tipRead e k .none).get TIPOL.NOREPCNT = min (s.get TIPOL.NOREPCNT + 1) 65535 := by
  have hu : (s.missingNoted e k .none (s.readCounted .none)).get TIPOL.NOREPCNT = min (s.get TIPOL.NOREPCNT + 1) 65535 := by
    have hinc : (s.inc TIPOL.NOREPCNT).get TIPOL.NOREPCNT = min (s.get TIPOL.NOREPCNT + 1) 65535 := State.get_inc_saturates _ _ _
    unfold State.missingNoted
    split
    · rw [State.evt, State.get_set_ne _ _ _ _ rfl rfl]
      exact hinc
    · exact hinc
  rw [State.tipRead_eq, State.setNode_get _ _ _ (by decide), (State.tipAppend_keeps _ _).1.get _ (by decide), hu]

/-! ### What follows a read -/

theorem State.tipOp_keeps_of {u : State} (h : s.BusKeeps u) (o : TipOp) : s.BusKeeps (u.tipOp o) := h.trans (u.tipOp_keeps o)

/-- The end of a poll cycle (R433). -/
theorem State.tipEntry_keeps (l : List Nat) : s.BusKeeps (State.tipEntry l s) := by
  induction l generalizing s with
  | nil =>
    have hset : s.BusKeeps (s.setTip { s.tip with polling := false, todo := [] }) := s.setTip_keeps rfl
    exact ((hset.trans (State.tipClose_keeps _).1).trans (State.tipOp_keeps _ _)).trans (State.tipNext_keeps _)
  | cons e l ih =>
    unfold State.tipEntry
    split
    · exact ih s
    · have hset : s.BusKeeps (s.setTip { s.tip with todo := l }) := s.setTip_keeps rfl
      exact hset.trans (State.tipOp_keeps _ _)

theorem State.tipReadDone_keeps : s.BusKeeps s.tipReadDone := by
  unfold State.tipReadDone
  split
  · exact s.tipSearch_keeps
  · exact s.tipEntry_keeps _

end

end Sys2Proof.Machine
end
-- ==== Sys2Proof/Proofs/TipolBus.lean ====
section
/-! O58. The sensor bus: calls, searches, polls and replies (R423, R425, R429, R431 to R434, R436). -/
namespace Sys2Proof.Machine

theorem exec_tipolCall_eq (answer high : Bool) (s : State) : exec (.tipolCall answer high) s =
    whenActive [.tip] s fun s => s.tipCall answer high := (rfl)
theorem exec_search_eq (s : State) : exec .search s = whenActive [.tip] s State.tipSearchReq := (rfl)
theorem exec_pollCycleStart_eq (s : State) : exec .pollCycleStart s =
    whenActive [.tip] s fun s => s.when (s.usedB TIPOL.CFG.POLLEN && decide (s.tip.pollLast + s.used TIPOL.PERIOD ≤ s.tm.tread))
      fun s => (s.setTip { s.tip with pollReq := true, pollLast := s.tm.tread }).tipNext := (rfl)
theorem exec_pollnow_eq (s : State) : exec .pollnow s = whenActive [.tip] s State.tipPollNow := (rfl)
theorem exec_convtWaitEnd_eq (s : State) : exec .convtWaitEnd s =
    whenActive [.xact, .tip] s fun s => s.when (s.tipOn && s.tip.op == .latch && s.tip.called && decide (s.tip.due ≤ s.tm.tread))
      fun s => State.tipEntry ((List.range 32).filter (fun e => (s.tipNode e).isSome)) s := (rfl)
theorem exec_tipolShortSample_eq (high : Bool) (s : State) : exec (.tipolShortSample high) s =
    whenActive [.tip] s fun s => s.when (s.usedB TIPOL.CFG.EN) (·.tipSample high) := (rfl)
theorem exec_clearreg_eq (s : State) : exec .clearreg s = whenActive [.xact, .tip] s State.tipClear := (rfl)
theorem exec_tipolReply_eq (f : TipolFrame) (s : State) : exec (.tipolReply f) s = whenActive [.xact, .tip] s fun s => s.tipReply f := (rfl)

/-! ### Replies (R429, R433, R434) -/

section
variable {s : State}

theorem State.tipReply_waits (f : TipolFrame) (h : s.tip.called = false ∨ s.tm.tread < s.tip.due ∨ s.tm.idle = true ∨ s.tipOn = false) :
    s.tipReply f = s := by
  refine if_pos ?_
  rcases h with h | h | h | h
  · exact .inl h
  · exact .inr (.inl h)
  · exact .inr (.inr (.inr h))
  · exact .inr (.inr (.inl h))

theorem State.tipReply_fetch {f : TipolFrame} {e k : Nat} {l : List Nat} (hon : s.tipOn = true) (hcalled : s.tip.called = true)
    (hrun : s.tm.idle = false) (hdue : s.tip.due ≤ s.tm.tread) (hop : s.tip.op = .fetch e (k :: l)) : s.tipReply f =
      if l = [] then (s.tipWindow.tipRead e k (tipDecode k f)).tipReadDone
      else (s.tipWindow.tipRead e k (tipDecode k f)).setTip { (s.tipWindow.tipRead e k (tipDecode k f)).tip with
        op := .fetch e l, further := true, due := (s.tipWindow.tipRead e k (tipDecode k f)).tm.tread + 3 } := by
  have hgo : ¬ (s.tip.called = false ∨ s.tm.tread < s.tip.due ∨ s.tipOn = false ∨ s.tm.idle = true) := by
    simp only [hcalled, hon, hrun, Bool.true_eq_false, Bool.false_eq_true, or_false, false_or, not_lt]
    exact hdue
  unfold State.tipReply
  rw [if_neg hgo]
  simp only [hop]

/-- A reply leaves its read in the registry, whatever the bus does then. -/
theorem State.tipReply_keeps {f : TipolFrame} {e k : Nat} {l : List Nat} (hon : s.tipOn = true) (hcalled : s.tip.called = true)
    (hrun : s.tm.idle = false) (hdue : s.tip.due ≤ s.tm.tread) (hop : s.tip.op = .fetch e (k :: l)) :
    (s.tipWindow.tipRead e k (tipDecode k f)).BusKeeps (s.tipReply f) := by
  rw [State.tipReply_fetch hon hcalled hrun hdue hop]
  split
  · exact State.tipReadDone_keeps _
  · exact State.setTip_keeps _ rfl

theorem State.tipReply_nodes {f : TipolFrame} {e k : Nat} {l : List Nat} (hon : s.tipOn = true) (hcalled : s.tip.called = true)
    (hrun : s.tm.idle = false) (hdue : s.tip.due ≤ s.tm.tread) (hop : s.tip.op = .fetch e (k :: l)) :
    (s.tipReply f).tip.nodes = put s.tip.nodes e (some (s.nodeAfter e k (tipDecode k f))) := by
  rw [(State.tipReply_keeps hon hcalled hrun hdue hop).nodes, (State.tipRead_tip _ e k _).2]
  rfl

end

/-! ### Searches (R431, R432) -/

section
variable (s : State)

/-- A search is over: its end is an event, and counts. -/
def State.searchEnded : State := ((s.setTip { s.tip with search := none }).evt TIPOL.EVT.SRCHDONE).inc TIPOL.SRCHCNT

theorem State.tipSearchEnd_eq : s.tipSearchEnd = (s.searchEnded.tipOp (if s.tip.polling then .latch else .idle)).tipNext := (rfl)

theorem State.searchEnded_shows : s.searchEnded.bit TIPOL.EVT.SRCHDONE = true ∧
    s.searchEnded.get TIPOL.SRCHCNT = min (s.get TIPOL.SRCHCNT + 1) 65535 := by
  have hcount : ((s.setTip { s.tip with search := none }).evt TIPOL.EVT.SRCHDONE).get TIPOL.SRCHCNT = s.get TIPOL.SRCHCNT :=
    State.get_set_ne _ _ _ _ rfl rfl
  refine ⟨?_, ?_⟩
  · rw [State.searchEnded, State.bit, State.inc, State.get_set_ne _ _ _ _ rfl rfl]
    exact State.bit_evt _ _ _ _ (by decide)
  · rw [State.searchEnded, ← hcount]
    exact State.get_inc_saturates _ _ _

theorem State.tipSearchEnd_keeps : s.searchEnded.BusKeeps s.tipSearchEnd := by
  rw [State.tipSearchEnd_eq]
  exact (State.tipOp_keeps _ _).trans (State.tipNext_keeps _)

/-- The end of a search (R431). -/
theorem State.tipSearchEnd_shows : s.tipSearchEnd.bit TIPOL.EVT.SRCHDONE = true ∧
    s.tipSearchEnd.get TIPOL.SRCHCNT = min (s.get TIPOL.SRCHCNT + 1) 65535 ∧ s.tipSearchEnd.tip.nodes = s.tip.nodes := by
  obtain ⟨hdone, hcount⟩ := s.searchEnded_shows
  exact ⟨(s.tipSearchEnd_keeps.bit (by decide)).trans hdone, (s.tipSearchEnd_keeps.get _ (by decide)).trans hcount, s.tipSearchEnd_keeps.nodes⟩

theorem State.tipNext_search_none (hnone : s.tip.search = none) (hreq : s.tip.searchReq = false) : s.tipNext.tip.search = none := by
  rcases s.tipNext_cases with h | ⟨h', -⟩ | ⟨-, -, h⟩
  · rw [h, hnone]
  · rw [hreq] at h'; cases h'
  · rw [h, State.tipPoll_eq, State.tipOp_tip]
    exact hnone

theorem State.tipSearchEnd_search (hreq : s.tip.searchReq = false) : s.tipSearchEnd.tip.search = none := by
  rw [State.tipSearchEnd_eq]
  refine State.tipNext_search_none _ ?_ ?_ <;> rw [State.tipOp_tip]
  · rfl
  · exact hreq

/-- A branch that fails is tried again, three times (R431). -/
theorem State.tipFail_again {x : TipSearch} (h : x.tries < 3) : (s.tipFail x).tip.search = some { x with tries := x.tries + 1 } ∧
    (s.tipFail x).tip.op = .scan ∧ (s.tipFail x).tip.called = false ∧ (s.tipFail x).get TIPOL.RETRYCNT = min (s.get TIPOL.RETRYCNT + 1) 65535 := by
  rw [State.tipFail, if_pos h]
  obtain ⟨u, hu⟩ : ∃ u, u = (s.setTip { s.tip with search := some { x with tries := x.tries + 1 } }).inc TIPOL.RETRYCNT := ⟨_, rfl⟩
  have hsearch : u.tip.search = some { x with tries := x.tries + 1 } := by rw [hu]; rfl
  have hcount : u.get TIPOL.RETRYCNT = min (s.get TIPOL.RETRYCNT + 1) 65535 := by rw [hu]; exact State.get_inc_saturates _ _ _
  rw [← hu, (u.tipOp_keeps .scan).get _ (by decide), State.tipOp_tip]
  exact ⟨hsearch, rfl, rfl, hcount⟩

/-- After the third time it is fault 49's event, and the search ends. -/
theorem State.tipFail_last {x : TipSearch} (h : 3 ≤ x.tries) : (s.tipFail x).occurred.getLsbD 49 = true ∧
    (s.tipFail x).bit TIPOL.EVT.SRCHFAIL = true ∧ (s.tipFail x).bit TIPOL.EVT.SRCHDONE = true := by
  rw [State.tipFail, if_neg (Nat.not_lt.mpr h)]
  obtain ⟨u, hu⟩ : ∃ u, u = (s.occur 49).evt TIPOL.EVT.SRCHFAIL := ⟨_, rfl⟩
  have hocc : u.occurred.getLsbD 49 = true := by
    rw [hu, State.evt_occurred, State.occur, BitVec.getLsbD_or]
    simp
  have hev : u.bit TIPOL.EVT.SRCHFAIL = true := by rw [hu]; exact State.bit_evt _ _ _ _ (by decide)
  rw [← hu]
  refine ⟨?_, (u.tipSearchEnd_keeps.bit (by decide)).trans ?_, u.tipSearchEnd_shows.1⟩
  · rw [State.tipSearchEnd_eq]
    refine State.tipNext_occurred _ (State.tipOp_occurred _ ?_ _)
    exact hocc
  · rw [State.searchEnded, State.bit, State.inc, State.get_set_ne _ _ _ _ rfl rfl, State.evt, State.get_set_ne _ _ _ _ rfl rfl]
    exact hev

/-- A new number takes the next free entry, and its information is read (R432). -/
theorem State.tipRegister_shows {num : Nat} (hnew : s.tipKnown num = false) (hfree : s.tipCount < 32) :
    (s.tipRegister num).tipNode s.tipCount = some { (default : TipNode) with num := num } ∧ (s.tipRegister num).tip.op = .info s.tipCount ∧
    (s.tipRegister num).bit TIPOL.EVT.FOUND = true := by
  rw [State.tipRegister, if_neg (by rw [hnew]; decide), if_neg (Nat.ne_of_lt hfree)]
  dsimp only
  generalize s.tipCount = e
  obtain ⟨u, hu⟩ : ∃ u, u = (s.setNode e { (default : TipNode) with num := num }).evt TIPOL.EVT.FOUND := ⟨_, rfl⟩
  have hnodes : u.tip.nodes = put s.tip.nodes e (some { (default : TipNode) with num := num }) := by
    have htip : u.tip = (s.setNode e { (default : TipNode) with num := num }).tip := by rw [hu, State.evt_tip]
    rw [htip, State.setNode_tip]
  have hev : u.bit TIPOL.EVT.FOUND = true := by rw [hu]; exact State.bit_evt _ _ _ _ (by decide)
  rw [← hu]
  refine ⟨?_, by rw [State.tipOp_tip], ((u.tipOp_keeps _).bit (by decide)).trans hev⟩
  rw [State.tipNode, State.tipOp_tip]
  dsimp only
  rw [hnodes]
  exact look_put_self s.tip.nodes e _

section
variable {s : State} {maps : List Word} {x : TipSearch}

theorem State.tipScanEnd_silent (hx : s.tip.search = some x) (hsilent : s.tip.answered = false) : s.tipScanEnd maps =
    if x.first then s.tipSearchEnd else s.tipFail x := by
  simp only [State.tipScanEnd, hx, hsilent, if_true]

theorem State.tipScanEnd_broken (hx : s.tip.search = some x) (hans : s.tip.answered = true)
    (hwalk : scanWalk x.lv x.pre maps 16 0 [] [] = none) : s.tipScanEnd maps = s.tipFail x := by
  simp only [State.tipScanEnd, hx, hans, Bool.true_eq_false, if_false, hwalk]

theorem State.tipScanEnd_found {num : List Nat} {new : List (Nat × List Nat)} (hx : s.tip.search = some x) (hans : s.tip.answered = true)
    (hwalk : scanWalk x.lv x.pre maps 16 0 [] [] = some (num, new)) (hok : numOk (nibbles num) = true) :
    ∃ u : State, u.tip.nodes = s.tip.nodes ∧ s.tipScanEnd maps = u.tipRegister (nibbles num) := by
  simp only [State.tipScanEnd, hx, hans, Bool.true_eq_false, if_false, hwalk, hok]
  refine ⟨_, ?_, rfl⟩
  show (if _ then s.occur 49 else s).tip.nodes = s.tip.nodes
  split <;> rfl

theorem State.scanOver_eq (hx : s.tip.search = some x) : s.scanOver maps =
    if s.tip.answered then decide (s.tip.due + scanWindows x maps ≤ s.tm.tread + 33) else decide (s.tip.due ≤ s.tm.tread) := by
  simp only [State.scanOver, hx]

theorem exec_searchTransactionEnd_eq (hmaps : maps.length ≤ 16) (s : State) : exec (.searchTransactionEnd maps) s =
    whenActive [.tip] s fun s => s.when (s.tipOn && s.tip.op == .scan && s.tip.called && s.scanOver maps) (·.tipWindow.tipScanEnd maps) :=
  if_neg (Nat.not_lt.mpr hmaps)

/-- A SCAN that can end does so. -/
theorem exec_searchTransactionEnd_ends (hact : s.pw.phase = .active) (hmaps : maps.length ≤ 16) (hon : s.tipOn = true) (hop : s.tip.op = .scan)
    (hcalled : s.tip.called = true) (hover : s.scanOver maps = true) : exec (.searchTransactionEnd maps) s =
      .next (s.only (s.tipWindow.tipScanEnd maps) [.tip]) := by
  have hgo : (s.tipOn && s.tip.op == .scan && s.tip.called && s.scanOver maps) = true := by simp [hon, hop, hcalled, hover]
  exact ((exec_searchTransactionEnd_eq hmaps s).trans (whenActive_active _ s _ hact)).trans (by rw [State.when, if_pos hgo])

end

end

/-! ### Calls and samples of the line (R425, R436) -/

section
variable {s : State} {answer : Bool}

theorem State.tipCall_none {high : Bool} (h : s.tip.op = .idle ∨ s.tip.called = true ∨ s.tip.winAt = some s.tm.tread ∨ s.tm.idle = true ∨ s.tipOn = false) :
    s.tipCall answer high = s := by
  refine if_pos ?_
  rcases h with h | h | h | h | h
  · exact .inr (.inl h)
  · exact .inr (.inr (.inl h))
  · exact .inr (.inr (.inr (.inl h)))
  · exact .inr (.inr (.inr (.inr h)))
  · exact .inl h

section
variable (hon : s.tipOn = true) (hop : s.tip.op ≠ .idle) (hcalled : s.tip.called = false) (hwin : s.tip.winAt ≠ some s.tm.tread) (hrun : s.tm.idle = false)
include hon hop hcalled hwin hrun

theorem State.tipCall_open : ¬ (s.tipOn = false ∨ s.tip.op = .idle ∨ s.tip.called = true ∨ s.tip.winAt = some s.tm.tread ∨ s.tm.idle = true) := by
  simp [hon, hop, hcalled, hwin, hrun]

theorem State.tipCall_high : s.tipCall answer true = { s with tip := { s.tip with
    winAt := some s.tm.tread, called := true, answered := answer,
    due := s.tm.tread + (s.setTip { s.tip with answered := answer }).tipSpan } } := by
  rw [State.tipCall, if_neg (State.tipCall_open hon hop hcalled hwin hrun), if_neg (by decide)]
  rfl

theorem State.tipCall_low (hlow : s.tip.low = 0) : s.tipCall answer false =
    { s with tip := { s.tip with winAt := some s.tm.tread, low := 1, high := 0 } } := by
  rw [State.tipCall, if_neg (State.tipCall_open hon hop hcalled hwin hrun), if_pos rfl]
  have hone : min 2 (s.tip.low + 1) = 1 := by rw [hlow]; rfl
  have hset : s.tipWindow.setTip { s.tipWindow.tip with low := min 2 (s.tip.low + 1), high := 0 } =
      { s with tip := { s.tip with winAt := some s.tm.tread, low := 1, high := 0 } } := by rw [hone]; rfl
  have hsample : s.tipWindow.tipSample false = s.tipWindow.setTip { s.tipWindow.tip with low := min 2 (s.tip.low + 1), high := 0 } := by
    have h2 : ¬ ((s.tipWindow.setTip { s.tipWindow.tip with low := min 2 (s.tip.low + 1), high := 0 }).tip.low = 2 ∧
        (s.tipWindow.setTip { s.tipWindow.tip with low := min 2 (s.tip.low + 1), high := 0 }).bit TIPOL.STATUS.SHORTLIVE = false) := by
      rw [hset]
      rintro ⟨h, -⟩
      exact absurd h (show (1 : Nat) ≠ 2 by decide)
    have h3 : ¬ ((s.tipWindow.setTip { s.tipWindow.tip with low := min 2 (s.tip.low + 1), high := 0 }).tip.high = 2 ∧
        (s.tipWindow.setTip { s.tipWindow.tip with low := min 2 (s.tip.low + 1), high := 0 }).bit TIPOL.STATUS.SHORTLIVE = true) := by
      rintro ⟨h, -⟩
      exact absurd h (show (0 : Nat) ≠ 2 by decide)
    exact (if_neg h2).trans (if_neg h3)
  rw [hsample, hset]

end

/-- Two low samples: fault 48, and whatever the bus did is abandoned (R436). -/
theorem State.tipSample_short (hlow : s.tip.low = 1) (hlive : s.bit TIPOL.STATUS.SHORTLIVE = false) : (s.tipSample false).holds 48 = true ∧
    (s.tipSample false).bit TIPOL.STATUS.SHORTLIVE = true ∧ (s.tipSample false).bit TIPOL.EVT.SHORT = true ∧
    (s.tipSample false).tip.op = .idle ∧ (s.tipSample false).tip.nodes = s.tip.nodes := by
  obtain ⟨u, hu⟩ : ∃ u, u = s.setTip { s.tip with low := min 2 (s.tip.low + 1), high := 0 } := ⟨_, rfl⟩
  have hlow2 : u.tip.low = 2 := by rw [hu]; show min 2 (s.tip.low + 1) = 2; rw [hlow]; rfl
  have hnodes : u.tip.nodes = s.tip.nodes := by rw [hu]; rfl
  have hlive' : u.bit TIPOL.STATUS.SHORTLIVE = false := by rw [hu]; exact hlive
  obtain ⟨v, hv⟩ : ∃ v, v = ((u.cond 48 true).setB TIPOL.STATUS.SHORTLIVE true).evt TIPOL.EVT.SHORT := ⟨_, rfl⟩
  have hsample : s.tipSample false = v.tipAbandon := by
    rw [hv, State.tipSample]
    simp only [Bool.false_eq_true, if_false]
    rw [← hu]
    exact if_pos ⟨hlow2, hlive'⟩
  have hvtip : v.tip = u.tip := by rw [hv]; rfl
  have hvlive : v.bit TIPOL.STATUS.SHORTLIVE = true := by
    rw [hv, State.bit, State.evt, State.get_set_ne _ _ _ _ rfl rfl]
    exact State.bit_setB _ _ _ _ _ (by decide)
  have hvev : v.bit TIPOL.EVT.SHORT = true := by rw [hv]; exact State.bit_evt _ _ _ _ (by decide)
  have hvholds : v.holds 48 = true := by
    rw [hv]
    exact (State.holds_cond u 48 48 true (by decide)).trans (if_pos rfl)
  have hkeeps (w : State) : w.BusKeeps w.tipAbandon := by
    rw [State.tipAbandon]
    refine State.setTip_tipOp_keeps w ?_ _
    rfl
  rw [hsample]
  refine ⟨?_, ((hkeeps v).bit (by decide)).trans hvlive, ((hkeeps v).bit (by decide)).trans hvev, ?_, ?_⟩
  · rw [State.tipAbandon, State.tipOp_holds _ (by decide), State.setTip_holds, hvholds]
  · rw [State.tipAbandon, State.tipOp_tip]
  · rw [(hkeeps v).nodes, hvtip, hnodes]

/-- Two high samples end fault 48. -/
theorem State.tipSample_end (hhigh : s.tip.high = 1) (hlive : s.bit TIPOL.STATUS.SHORTLIVE = true) : (s.tipSample true).holds 48 = false ∧
    (s.tipSample true).bit TIPOL.STATUS.SHORTLIVE = false := by
  obtain ⟨u, hu⟩ : ∃ u, u = s.setTip { s.tip with low := 0, high := min 2 (s.tip.high + 1) } := ⟨_, rfl⟩
  have hhigh2 : u.tip.high = 2 := by rw [hu]; show min 2 (s.tip.high + 1) = 2; rw [hhigh]; rfl
  have hlow : ¬ (u.tip.low = 2 ∧ u.bit TIPOL.STATUS.SHORTLIVE = false) := by
    rintro ⟨h, -⟩
    rw [hu] at h
    exact absurd h (show (0 : Nat) ≠ 2 by decide)
  have hlive' : u.bit TIPOL.STATUS.SHORTLIVE = true := by rw [hu]; exact hlive
  obtain ⟨v, hv⟩ : ∃ v, v = (u.cond 48 false).setB TIPOL.STATUS.SHORTLIVE false := ⟨_, rfl⟩
  have hsample : s.tipSample true = v.tipNext := by
    rw [hv, State.tipSample]
    simp only [if_true]
    rw [← hu]
    exact (if_neg hlow).trans (if_pos ⟨hhigh2, hlive'⟩)
  have hvlive : v.bit TIPOL.STATUS.SHORTLIVE = false := by rw [hv]; exact State.bit_setB _ _ _ _ _ (by decide)
  have hvholds : v.holds 48 = false := by
    rw [hv]
    exact (State.holds_cond u 48 48 false (by decide)).trans (if_pos rfl)
  rw [hsample]
  exact ⟨(v.tipNext_holds (by decide)).trans hvholds, (v.tipNext_keeps.bit (by decide)).trans hvlive⟩

end

end Sys2Proof.Machine
end
-- ==== Sys2Proof/Proofs/TipolClauses.lean ====
section
/-! O58, its clauses: the commands of the sensor bus. -/
namespace Sys2Proof.Machine

section
variable {s : State}

/-! ### Calls and the line (R425, R436) -/

theorem exec_tipolCall_high {answer : Bool} (hact : s.pw.phase = .active) (hon : s.tipOn = true) (hop : s.tip.op ≠ .idle)
    (hcalled : s.tip.called = false) (hwin : s.tip.winAt ≠ some s.tm.tread) (hrun : s.tm.idle = false) :
    exec (.tipolCall answer true) s = .next { s with tip := { s.tip with
      winAt := some s.tm.tread, called := true, answered := answer,
      due := s.tm.tread + (s.setTip { s.tip with answered := answer }).tipSpan } } := by
  rw [exec_tipolCall_eq]
  refine whenActive_becomes hact (State.tipCall_high hon hop hcalled hwin hrun) ?_
  exact State.setTip_without s (by decide) _

theorem exec_tipolCall_none {answer high : Bool} (hact : s.pw.phase = .active) (h : s.tip.op = .idle ∨ s.tip.called = true ∨
    s.tip.winAt = some s.tm.tread ∨ s.tm.idle = true ∨ s.tipOn = false) : exec (.tipolCall answer high) s = .next s := by
  rw [exec_tipolCall_eq]
  exact whenActive_same hact (State.tipCall_none h)

theorem exec_tipolCall_low {answer : Bool} (hact : s.pw.phase = .active) (hon : s.tipOn = true) (hop : s.tip.op ≠ .idle)
    (hcalled : s.tip.called = false) (hwin : s.tip.winAt ≠ some s.tm.tread) (hrun : s.tm.idle = false) (hlow : s.tip.low = 0) :
    exec (.tipolCall answer false) s = .next { s with tip := { s.tip with winAt := some s.tm.tread, low := 1, high := 0 } } := by
  rw [exec_tipolCall_eq]
  refine whenActive_becomes hact (State.tipCall_low hon hop hcalled hwin hrun hlow) ?_
  exact State.setTip_without s (by decide) _

/-- A sample of an enabled bus. -/
theorem exec_tipolShortSample_on {high : Bool} (hact : s.pw.phase = .active) (hen : s.usedB TIPOL.CFG.EN = true) :
    exec (.tipolShortSample high) s = .next (s.only (s.tipSample high) [.tip]) := by
  rw [exec_tipolShortSample_eq, whenActive_active _ _ _ hact, State.when, if_pos hen]

theorem State.only_holds (t : State) (c : List Part) (i : Nat) : (s.only t c).holds i = t.holds i := rfl

theorem exec_tipolShortSample_short (hact : s.pw.phase = .active) (hen : s.usedB TIPOL.CFG.EN = true) (hlow : s.tip.low = 1)
    (hlive : s.bit TIPOL.STATUS.SHORTLIVE = false) : ∃ t, exec (.tipolShortSample false) s = .next t ∧ t.holds 48 = true ∧
      t.bit TIPOL.STATUS.SHORTLIVE = true ∧ t.bit TIPOL.EVT.SHORT = true ∧ t.tip.op = .idle ∧ t.tip.nodes = s.tip.nodes := by
  refine ⟨_, exec_tipolShortSample_on hact hen, ?_⟩
  rw [State.only_holds, State.only_bit, State.only_bit, State.only_tip _ _ (by decide)]
  exact State.tipSample_short hlow hlive

theorem exec_tipolShortSample_end (hact : s.pw.phase = .active) (hen : s.usedB TIPOL.CFG.EN = true) (hhigh : s.tip.high = 1)
    (hlive : s.bit TIPOL.STATUS.SHORTLIVE = true) : ∃ t, exec (.tipolShortSample true) s = .next t ∧ t.holds 48 = false ∧
      t.bit TIPOL.STATUS.SHORTLIVE = false := by
  refine ⟨_, exec_tipolShortSample_on hact hen, ?_⟩
  rw [State.only_holds, State.only_bit]
  exact State.tipSample_end hhigh hlive

/-! ### Searches and poll cycles that take a free bus (R431, R433) -/

theorem State.tipSearch_shows : s.tipSearch.tip.op = .scan ∧ s.tipSearch.tip.search = some firstBranch ∧ s.tipSearch.tip.searchReq = false ∧
    s.tipSearch.bit TIPOL.STATUS.SEARCHING = true := by
  refine ⟨?_, ?_, ?_, ?_⟩
  · rw [State.tipSearch_eq, State.tipOp_tip]
  · rw [State.tipSearch_eq, State.tipOp_tip]; rfl
  · rw [State.tipSearch_eq, State.tipOp_tip]; rfl
  · rw [State.tipSearch_eq, State.tipOp, (State.tipStatus_shows _).1]; rfl

theorem State.tipPoll_shows : s.tipPoll.tip.op = .latch ∧ s.tipPoll.tip.polling = true ∧ s.tipPoll.tip.pollReq = false ∧
    s.tipPoll.tip.pollLast = s.tip.pollLast ∧ s.tipPoll.bit TIPOL.STATUS.POLLING = true := by
  refine ⟨?_, ?_, ?_, ?_, ?_⟩
  · rw [State.tipPoll_eq, State.tipOp_tip]
  · rw [State.tipPoll_eq, State.tipOp_tip]; rfl
  · rw [State.tipPoll_eq, State.tipOp_tip]; rfl
  · rw [State.tipPoll_eq, State.tipOp_tip]; rfl
  · rw [State.tipPoll_eq, State.tipOp, (State.tipStatus_shows _).2.1]; rfl

theorem exec_search_free (hact : s.pw.phase = .active) (hon : s.tipOn = true) (hop : s.tip.op = .idle) (hnone : s.tip.search = none) :
    ∃ t x, exec .search s = .next t ∧ t.tip.op = .scan ∧ t.tip.search = some x ∧ x.lv = 0 ∧ x.stack = [] ∧ x.first = true ∧
      t.tip.searchReq = false ∧ t.bit TIPOL.STATUS.SEARCHING = true ∧ t.tip.nodes = s.tip.nodes := by
  obtain ⟨u, hu⟩ : ∃ u, u = s.setTip { s.tip with searchReq := true } := ⟨_, rfl⟩
  have hnext : u.tipNext = u.tipSearch := by
    refine State.tipNext_search _ ?_ ?_ ?_ ?_ <;> rw [hu]
    · exact hon
    · rfl
    · exact hnone
    · exact hop
  have hreq : s.tipSearchReq = u.tipSearch := by rw [State.tipSearchReq, ← hu, hnext]
  have hnodes : u.tip.nodes = s.tip.nodes := by rw [hu]; rfl
  obtain ⟨hscan, hsearch, hdone, hshown⟩ := u.tipSearch_shows
  refine ⟨_, firstBranch, (exec_search_eq s).trans (whenActive_active _ s _ hact), ?_⟩
  rw [State.only_tip _ _ (by decide), State.only_bit, hreq]
  exact ⟨hscan, hsearch, rfl, rfl, rfl, hdone, hshown, u.tipSearch_keeps.nodes.trans hnodes⟩

/-- A cycle that is due on a free bus begins at its call. -/
theorem State.tipNext_requested {last : Nat} (hon : s.tipOn = true) (hop : s.tip.op = .idle) (hreq : s.tip.searchReq = false) :
    (s.setTip { s.tip with pollReq := true, pollLast := last }).tipNext = (s.setTip { s.tip with pollReq := true, pollLast := last }).tipPoll :=
  State.tipNext_poll _ hon hreq hop rfl

theorem exec_pollCycleStart_due (hact : s.pw.phase = .active) (hen : s.usedB TIPOL.CFG.POLLEN = true)
    (hdue : s.tip.pollLast + s.used TIPOL.PERIOD ≤ s.tm.tread) (hon : s.tipOn = true) (hop : s.tip.op = .idle) (hreq : s.tip.searchReq = false) :
    ∃ t, exec .pollCycleStart s = .next t ∧ t.tip.op = .latch ∧ t.tip.polling = true ∧ t.tip.pollReq = false ∧
      t.tip.pollLast = s.tm.tread ∧ t.bit TIPOL.STATUS.POLLING = true := by
  have hgo : (s.usedB TIPOL.CFG.POLLEN && decide (s.tip.pollLast + s.used TIPOL.PERIOD ≤ s.tm.tread)) = true := by simp [hen, hdue]
  refine ⟨_, (exec_pollCycleStart_eq s).trans (whenActive_active _ s _ hact), ?_⟩
  rw [State.only_tip _ _ (by decide), State.only_bit, State.when, if_pos hgo, State.tipNext_requested hon hop hreq]
  exact State.tipPoll_shows

theorem exec_pollCycleStart_early (hact : s.pw.phase = .active) (h : s.tm.tread < s.tip.pollLast + s.used TIPOL.PERIOD) :
    exec .pollCycleStart s = .next s := by
  have hno : ¬ (s.usedB TIPOL.CFG.POLLEN && decide (s.tip.pollLast + s.used TIPOL.PERIOD ≤ s.tm.tread)) = true := by
    simp only [Bool.and_eq_true, decide_eq_true_eq, not_and, not_le]
    exact fun _ => h
  rw [exec_pollCycleStart_eq]
  exact whenActive_same hact (if_neg hno)

theorem exec_pollnow_free (hact : s.pw.phase = .active) (hen : s.usedB TIPOL.CFG.POLLEN = true) (hon : s.tipOn = true) (hop : s.tip.op = .idle)
    (hreq : s.tip.searchReq = false) : ∃ t, exec .pollnow s = .next t ∧ t.tip.op = .latch ∧ t.tip.polling = true ∧
      t.tip.pollLast = s.tip.pollLast := by
  have hnow : s.tipPollNow = (s.setTip { s.tip with pollReq := true, pollLast := s.tip.pollLast }).tipPoll := by
    rw [State.tipPollNow, if_pos hen]
    exact State.tipNext_requested hon hop hreq
  refine ⟨_, (exec_pollnow_eq s).trans (whenActive_active _ s _ hact), ?_⟩
  rw [State.only_tip _ _ (by decide), hnow]
  obtain ⟨hlatch, hpolling, -, hlast, -⟩ := (s.setTip { s.tip with pollReq := true, pollLast := s.tip.pollLast }).tipPoll_shows
  exact ⟨hlatch, hpolling, hlast⟩

/-! ### The reads of a cycle (R433) -/

/-- The reads begin with the first entry that has a channel to read. -/
theorem State.tipEntry_cons {n : TipNode} {e k : Nat} {r l : List Nat} (hn : s.tipNode e = some n) (hpolled : n.polled = k :: r) :
    State.tipEntry (e :: l) s = (s.setTip { s.tip with todo := l }).tipOp (.fetch e (k :: r)) := by
  have h : ((s.tipNode e).map TipNode.polled).getD [] = k :: r := by rw [hn, Option.map_some, Option.getD_some, hpolled]
  unfold State.tipEntry
  simp only [h]

theorem exec_convtWaitEnd_reads {n : TipNode} {k : Nat} {l : List Nat} (hact : s.pw.phase = .active) (hon : s.tipOn = true)
    (hop : s.tip.op = .latch) (hcalled : s.tip.called = true) (hdue : s.tip.due ≤ s.tm.tread) (hn : s.tipNode 0 = some n)
    (hpolled : n.polled = k :: l) : ∃ t, exec .convtWaitEnd s = .next t ∧ t.tip.op = .fetch 0 (k :: l) ∧ t.tip.called = false ∧
      t.tip.nodes = s.tip.nodes := by
  have hgo : (s.tipOn && s.tip.op == .latch && s.tip.called && decide (s.tip.due ≤ s.tm.tread)) = true := by simp [hon, hop, hcalled, hdue]
  have hfirst : (List.range 32).filter (fun e => (s.tipNode e).isSome) =
      0 :: ((List.range 31).map Nat.succ).filter (fun e => (s.tipNode e).isSome) := by
    rw [List.range_succ_eq_map, List.filter_cons_of_pos (by rw [hn]; rfl)]
  refine ⟨_, (exec_convtWaitEnd_eq s).trans (whenActive_active _ s _ hact), ?_⟩
  rw [State.only_tip _ _ (by decide), State.when, if_pos hgo, hfirst, State.tipEntry_cons hn hpolled, State.tipOp_tip]
  exact ⟨rfl, rfl, rfl⟩

theorem exec_convtWaitEnd_waits (hact : s.pw.phase = .active) (h : s.tm.tread < s.tip.due) : exec .convtWaitEnd s = .next s := by
  have hno : ¬ (s.tipOn && s.tip.op == .latch && s.tip.called && decide (s.tip.due ≤ s.tm.tread)) = true := by
    simp only [Bool.and_eq_true, decide_eq_true_eq, not_and, not_le]
    exact fun _ => h
  rw [exec_convtWaitEnd_eq]
  exact whenActive_same hact (if_neg hno)

/-! ### Emptying the registry (R432, R437) -/

section
variable (s : State)

/-- A search in progress is ended first. -/
def State.clearedSearch : State := if s.tip.search.isSome then s.searchEnded else s

/-- Then a cycle in progress, with its open block. -/
def State.clearedPoll : State := if s.tip.polling then (s.setTip { s.tip with polling := false, todo := [] }).tipClose else s

theorem State.tipClear_eq : s.tipClear =
    ((s.clearedSearch.clearedPoll.setTip { s.clearedSearch.clearedPoll.tip with nodes := [] }).tipOp .idle).tipNext := (rfl)

theorem State.clearedSearch_tip : s.clearedSearch.tip.searchReq = s.tip.searchReq ∧ s.clearedSearch.tip.pollReq = s.tip.pollReq := by
  unfold State.clearedSearch
  split <;> exact ⟨rfl, rfl⟩

theorem State.clearedPoll_tip : s.clearedPoll.tip.searchReq = s.tip.searchReq ∧ s.clearedPoll.tip.pollReq = s.tip.pollReq ∧
    s.clearedPoll.tip.polling = false := by
  unfold State.clearedPoll
  split
  · rw [(State.tipClose_keeps _).2]
    exact ⟨rfl, rfl, rfl⟩
  · next h => exact ⟨rfl, rfl, by simpa using h⟩

theorem State.clearedPoll_keeps : s.BusKeeps s.clearedPoll := by
  unfold State.clearedPoll
  split
  · have hset : s.BusKeeps (s.setTip { s.tip with polling := false, todo := [] }) := s.setTip_keeps rfl
    exact hset.trans (State.tipClose_keeps _).1
  · exact .refl s

theorem State.tipCount_of_nodes (h : s.tip.nodes = []) : s.tipCount = 0 := by
  have hnone (e : Nat) : s.tipNode e = none := by rw [State.tipNode, h]; rfl
  simp [State.tipCount, hnone]

theorem State.tipOp_shows_nodes (o : TipOp) (h : s.tip.nodes = []) : (s.tipOp o).get TIPOL.NODES = 0 := by
  rw [State.tipOp, (State.tipStatus_shows _).2.2, State.tipCount_of_nodes]
  exact h

/-- What the bus does next leaves an empty registry shown as such. -/
theorem State.tipNext_shows_nodes (h : s.tip.nodes = []) (hshown : s.get TIPOL.NODES = 0) : s.tipNext.get TIPOL.NODES = 0 := by
  rcases s.tipNext_cases with hn | ⟨-, hn⟩ | ⟨-, -, hn⟩ <;> rw [hn]
  · exact hshown
  · rw [State.tipSearch_eq]
    refine State.tipOp_shows_nodes _ _ ?_
    exact h
  · rw [State.tipPoll_eq]
    refine State.tipOp_shows_nodes _ _ ?_
    exact h

theorem State.tipClear_nodes : s.tipClear.tip.nodes = [] ∧ s.tipClear.get TIPOL.NODES = 0 := by
  rw [State.tipClear_eq]
  generalize s.clearedSearch.clearedPoll = u
  have hnodes : ((u.setTip { u.tip with nodes := [] }).tipOp .idle).tip.nodes = [] := by rw [State.tipOp_tip]; rfl
  refine ⟨(State.tipNext_keeps _).nodes.trans hnodes, State.tipNext_shows_nodes _ hnodes ?_⟩
  exact State.tipOp_shows_nodes _ _ rfl

theorem State.tipNext_idle (hsearch : s.tip.searchReq = false) (hpoll : s.tip.pollReq = false) : s.tipNext = s := by
  rcases s.tipNext_cases with h | ⟨h, -⟩ | ⟨-, h, -⟩
  · exact h
  · rw [hsearch] at h; cases h
  · rw [hpoll] at h; cases h

theorem State.tipClear_idle (hsearch : s.tip.searchReq = false) (hpoll : s.tip.pollReq = false) :
    s.tipClear.tip.polling = false ∧ s.tipClear.tip.op = .idle := by
  obtain ⟨hs, hp⟩ := s.clearedSearch_tip
  obtain ⟨hs', hp', hpolling⟩ := s.clearedSearch.clearedPoll_tip
  rw [hs, hsearch] at hs'
  rw [hp, hpoll] at hp'
  rw [State.tipClear_eq]
  generalize s.clearedSearch.clearedPoll = u at hs' hp' hpolling
  have hnext : ((u.setTip { u.tip with nodes := [] }).tipOp .idle).tipNext = (u.setTip { u.tip with nodes := [] }).tipOp .idle := by
    refine State.tipNext_idle _ ?_ ?_ <;> rw [State.tipOp_tip]
    · exact hs'
    · exact hp'
  rw [hnext, State.tipOp_tip]
  exact ⟨hpolling, rfl⟩

theorem State.tipClear_counts (h : s.tip.search.isSome = true) : s.tipClear.get TIPOL.SRCHCNT = min (s.get TIPOL.SRCHCNT + 1) 65535 := by
  have hended : s.clearedSearch = s.searchEnded := by rw [State.clearedSearch, if_pos h]
  have hcleared (u : State) : ((u.setTip { u.tip with nodes := [] }).tipOp .idle).tipNext.get TIPOL.SRCHCNT = u.get TIPOL.SRCHCNT := by
    rw [(State.tipNext_keeps _).get _ (by decide), (State.tipOp_keeps _ _).get _ (by decide)]
    rfl
  rw [State.tipClear_eq, hcleared, (State.clearedPoll_keeps _).get _ (by decide), hended]
  exact s.searchEnded_shows.2

end

theorem exec_clearreg_empties (hact : s.pw.phase = .active) : ∃ t, exec .clearreg s = .next t ∧ t.tip.nodes = [] ∧ t.get TIPOL.NODES = 0 ∧
    (s.tip.searchReq = false → s.tip.pollReq = false → t.tip.polling = false ∧ t.tip.op = .idle) ∧
    (s.tip.search.isSome = true → t.get TIPOL.SRCHCNT = min (s.get TIPOL.SRCHCNT + 1) 65535) := by
  refine ⟨_, (exec_clearreg_eq s).trans (whenActive_active _ s _ hact), ?_⟩
  rw [State.only_tip _ _ (by decide), State.only_get, State.only_get]
  exact ⟨s.tipClear_nodes.1, s.tipClear_nodes.2, s.tipClear_idle, s.tipClear_counts⟩

/-! ### Replies (R429, R434) -/

theorem exec_tipolReply_waits {f : TipolFrame} (hact : s.pw.phase = .active) (h : s.tip.called = false ∨ s.tm.tread < s.tip.due ∨
    s.tm.idle = true ∨ s.tipOn = false) : exec (.tipolReply f) s = .next s := by
  rw [exec_tipolReply_eq]
  exact whenActive_same hact (State.tipReply_waits f h)

theorem exec_tipolReply_active (f : TipolFrame) (hact : s.pw.phase = .active) : exec (.tipolReply f) s = .next (s.only (s.tipReply f) [.xact, .tip]) :=
  (exec_tipolReply_eq f s).trans (whenActive_active _ s _ hact)

theorem State.only_tipNode (t : State) {c : List Part} (hc : Part.tip ∈ c) (e : Nat) : (s.only t c).tipNode e = t.tipNode e := by
  rw [State.tipNode, State.only_tip s t hc, State.tipNode]

section
variable {f : TipolFrame} {e k : Nat} {l : List Nat} {n : TipNode} (hact : s.pw.phase = .active) (hon : s.tipOn = true) (hcalled : s.tip.called = true)
  (hrun : s.tm.idle = false) (hdue : s.tip.due ≤ s.tm.tread) (hop : s.tip.op = .fetch e (k :: l))
include hon hcalled hrun hdue hop

/-- The entry that is read takes the read's outcome. -/
theorem State.tipReply_entry (hn : s.tipNode e = some n) :
    (s.tipReply f).tipNode e = some (n.after (s.used { TIPOL.NMISS with w := 4 }) k (tipDecode k f)) := by
  have hafter : s.nodeAfter e k (tipDecode k f) = n.after (s.used { TIPOL.NMISS with w := 4 }) k (tipDecode k f) := by
    rw [State.nodeAfter, hn, Option.getD_some]
  rw [State.tipNode, State.tipReply_nodes hon hcalled hrun hdue hop, ← hafter]
  exact look_put_self s.tip.nodes e _

theorem State.tipReply_others {x : Nat} (hx : x ≠ e) : (s.tipReply f).tipNode x = s.tipNode x := by
  rw [State.tipNode, State.tipReply_nodes hon hcalled hrun hdue hop]
  exact look_put_ne s.tip.nodes e x _ hx

include hact

theorem exec_tipolReply_valid {v tick : Nat} (hn : s.tipNode e = some n) (hread : tipDecode k f = .valid v tick) :
    ∃ t m, exec (.tipolReply f) s = .next t ∧ t.tipNode e = some m ∧ look m.vals k = ⟨v, true, false, false⟩ ∧ m.fails = 0 ∧
      m.missing = false ∧ m.tick = tick ∧ m.num = n.num ∧ (∀ x, x ≠ e → t.tipNode x = s.tipNode x) := by
  have hentry := State.tipReply_entry (f := f) hon hcalled hrun hdue hop hn
  rw [hread] at hentry
  refine ⟨_, _, exec_tipolReply_active f hact, (State.only_tipNode _ (by decide) e).trans hentry, ?_, rfl, rfl, rfl, rfl, fun x hx => ?_⟩
  · exact look_put_self n.vals k _
  · exact (State.only_tipNode _ (by decide) x).trans (State.tipReply_others hon hcalled hrun hdue hop hx)

theorem exec_tipolReply_none (hn : s.tipNode e = some n) (hedge : f.edge = false) :
    ∃ t m, exec (.tipolReply f) s = .next t ∧ t.tipNode e = some m ∧ m.fails = min 15 (n.fails + 1) ∧ (look m.vals k).norep = true ∧
      (look m.vals k).v = (look n.vals k).v ∧ t.get TIPOL.NOREPCNT = min (s.get TIPOL.NOREPCNT + 1) 65535 := by
  have hread : tipDecode k f = .none := by rw [tipDecode, if_pos hedge]
  have hentry := State.tipReply_entry (f := f) hon hcalled hrun hdue hop hn
  have hkeeps := State.tipReply_keeps (f := f) hon hcalled hrun hdue hop
  rw [hread] at hentry hkeeps
  have hvals := look_put_self n.vals k { look n.vals k with crc := false, norep := true }
  refine ⟨_, _, exec_tipolReply_active f hact, (State.only_tipNode _ (by decide) e).trans hentry, rfl, ?_, ?_, ?_⟩
  · exact congrArg TipVal.norep hvals
  · exact (congrArg TipVal.v hvals).trans rfl
  · rw [State.only_get, hkeeps.get _ (by decide), State.tipRead_norep]
    rfl

end

/-- A further channel of the entry follows without a call. -/
theorem exec_tipolReply_further {f : TipolFrame} {e k j : Nat} {l : List Nat} (hact : s.pw.phase = .active) (hon : s.tipOn = true)
    (hcalled : s.tip.called = true) (hrun : s.tm.idle = false) (hdue : s.tip.due ≤ s.tm.tread) (hop : s.tip.op = .fetch e (k :: j :: l)) :
    ∃ t, exec (.tipolReply f) s = .next t ∧ t.tip.op = .fetch e (j :: l) ∧ t.tip.further = true ∧ t.tip.due = s.tm.tread + 3 ∧
      t.tip.called = true ∧ t.tip.winAt = some s.tm.tread := by
  refine ⟨_, exec_tipolReply_active f hact, ?_⟩
  obtain ⟨htm, htip⟩ := s.tipWindow.tipRead_tip e k (tipDecode k f)
  rw [State.only_tip _ _ (by decide), State.tipReply_fetch hon hcalled hrun hdue hop, if_neg (by simp)]
  generalize s.tipWindow.tipRead e k (tipDecode k f) = u at htm htip
  have hu : u.tip.called = true ∧ u.tip.winAt = some s.tm.tread := by
    rw [htip]
    exact ⟨hcalled, rfl⟩
  refine ⟨rfl, rfl, ?_, hu.1, hu.2⟩
  show u.tm.tread + 3 = s.tm.tread + 3
  rw [htm]
  rfl

/-! ### The end of a search transaction (R431, R432) -/

section
variable {maps : List Word} {x : TipSearch}

theorem State.scanOver_silent (maps : List Word) (hdue : s.tip.due ≤ s.tm.tread) (hx : s.tip.search = some x)
    (hsilent : s.tip.answered = false) : s.scanOver maps = true := by
  rw [State.scanOver_eq hx, if_neg (by rw [hsilent]; decide)]
  exact decide_eq_true hdue

theorem State.tipScanEnd_fails (hx : s.tip.search = some x) (hsilent : s.tip.answered = false) (hfirst : x.first = false) :
    s.tipWindow.tipScanEnd maps = s.tipWindow.tipFail x := by
  rw [State.tipScanEnd_silent (s := s.tipWindow) (x := x) hx hsilent, if_neg (by rw [hfirst]; decide)]

section
variable (hact : s.pw.phase = .active) (hmaps : maps.length ≤ 16) (hon : s.tipOn = true)
  (hop : s.tip.op = .scan) (hcalled : s.tip.called = true)
include hact hmaps

theorem exec_searchTransactionEnd_waits (hwait : s.scanOver maps = false) : exec (.searchTransactionEnd maps) s = .next s := by
  rw [exec_searchTransactionEnd_eq hmaps]
  refine whenActive_same hact (if_neg ?_)
  rw [hwait, Bool.and_false]
  decide

include hon hop hcalled

/-- A branch whose SCAN fails is tried again. -/
theorem exec_searchTransactionEnd_again (hover : s.scanOver maps = true) (hfail : s.tipWindow.tipScanEnd maps = s.tipWindow.tipFail x)
    (htries : x.tries < 3) : ∃ t, exec (.searchTransactionEnd maps) s = .next t ∧ t.tip.search = some { x with tries := x.tries + 1 } ∧
      t.tip.op = .scan ∧ t.tip.called = false ∧ t.get TIPOL.RETRYCNT = min (s.get TIPOL.RETRYCNT + 1) 65535 := by
  refine ⟨_, exec_searchTransactionEnd_ends hact hmaps hon hop hcalled hover, ?_⟩
  rw [State.only_tip _ _ (by decide), State.only_get, hfail]
  exact s.tipWindow.tipFail_again htries

section
variable (hdue : s.tip.due ≤ s.tm.tread) (hx : s.tip.search = some x) (hsilent : s.tip.answered = false)
include hdue hx hsilent

theorem exec_searchTransactionEnd_empty (hfirst : x.first = true) (hreq : s.tip.searchReq = false) :
    ∃ t, exec (.searchTransactionEnd maps) s = .next t ∧ t.tip.search = none ∧ t.bit TIPOL.EVT.SRCHDONE = true ∧
      t.get TIPOL.SRCHCNT = min (s.get TIPOL.SRCHCNT + 1) 65535 ∧ t.tip.nodes = s.tip.nodes := by
  have hend : s.tipWindow.tipScanEnd maps = s.tipWindow.tipSearchEnd := by rw [State.tipScanEnd_silent (s := s.tipWindow) (x := x) hx hsilent, if_pos hfirst]
  refine ⟨_, exec_searchTransactionEnd_ends hact hmaps hon hop hcalled (State.scanOver_silent maps hdue hx hsilent), ?_⟩
  rw [State.only_tip _ _ (by decide), State.only_get, State.only_bit, hend]
  exact ⟨State.tipSearchEnd_search _ hreq, s.tipWindow.tipSearchEnd_shows⟩

theorem exec_searchTransactionEnd_fault (hfirst : x.first = false) (htries : 3 ≤ x.tries) :
    ∃ t, exec (.searchTransactionEnd maps) s = .next t ∧ t.occurred.getLsbD 49 = true ∧ t.bit TIPOL.EVT.SRCHFAIL = true ∧
      t.bit TIPOL.EVT.SRCHDONE = true := by
  refine ⟨_, exec_searchTransactionEnd_ends hact hmaps hon hop hcalled (State.scanOver_silent maps hdue hx hsilent), ?_⟩
  rw [State.only_occurred, State.only_bit, State.only_bit, State.tipScanEnd_fails hx hsilent hfirst]
  exact s.tipWindow.tipFail_last htries

end

theorem exec_searchTransactionEnd_found {num : List Nat} {new : List (Nat × List Nat)} (hover : s.scanOver maps = true)
    (hx : s.tip.search = some x) (hans : s.tip.answered = true) (hwalk : scanWalk x.lv x.pre maps 16 0 [] [] = some (num, new))
    (hok : numOk (nibbles num) = true) (hnew : s.tipKnown (nibbles num) = false) (hfree : s.tipCount < 32) :
    ∃ t m, exec (.searchTransactionEnd maps) s = .next t ∧ t.tipNode s.tipCount = some m ∧ m.num = nibbles num ∧ m.info = none ∧
      t.tip.op = .info s.tipCount ∧ t.bit TIPOL.EVT.FOUND = true := by
  obtain ⟨u, hnodes, hend⟩ := State.tipScanEnd_found (s := s.tipWindow) (x := x) hx hans hwalk hok
  have hsame : u.tip.nodes = s.tip.nodes := hnodes
  have hnode (e : Nat) : u.tipNode e = s.tipNode e := by rw [State.tipNode, hsame, State.tipNode]
  have hcount : u.tipCount = s.tipCount := by simp only [State.tipCount, hnode]
  have hknown : u.tipKnown (nibbles num) = s.tipKnown (nibbles num) := by simp only [State.tipKnown, hnode]
  obtain ⟨hentry, hinfo, hfound⟩ := u.tipRegister_shows (hknown.trans hnew) (hcount ▸ hfree)
  rw [hcount] at hentry hinfo
  refine ⟨_, { (default : TipNode) with num := nibbles num }, exec_searchTransactionEnd_ends hact hmaps hon hop hcalled hover, ?_⟩
  rw [State.only_tipNode _ (by decide), State.only_tip _ _ (by decide), State.only_bit, hend]
  exact ⟨hentry, rfl, rfl, hinfo, hfound⟩

end

end

end

/-- Settles O58, command by command. -/
theorem tipolBus : Obligations.TipolBus := by
  unfold Obligations.TipolBus
  refine ⟨?_, ?_, ?_, ?_, ?_, ?_, ?_, ?_, ?_, ?_, ?_, ?_, ?_, ?_, ?_, ?_, ?_, ?_, ?_, ?_, ?_, ?_, ?_⟩
  · intro s answer hact hon hop hcalled hwin hrun
    refine (exec_tipolCall_high hact hon hop hcalled hwin hrun).trans ?_
    simp only [State.tipSpan, State.setTip]
    cases s.tip.op <;> rfl
  · intro s answer high hact h
    exact exec_tipolCall_none hact h
  · intro s hact hon hop hnone
    exact exec_search_free hact hon hop hnone
  · intro s hact hen hdue hon hop hreq
    exact exec_pollCycleStart_due hact hen hdue hon hop hreq
  · intro s hact h
    exact exec_pollCycleStart_early hact h
  · intro s hact hen hon hop hreq
    exact exec_pollnow_free hact hen hon hop hreq
  · intro s n k l hact hon hop hcalled hdue hn hpolled
    exact exec_convtWaitEnd_reads hact hon hop hcalled hdue hn hpolled
  · intro s hact h
    exact exec_convtWaitEnd_waits hact h
  · intro s hact hen hlow hlive
    exact exec_tipolShortSample_short hact hen hlow hlive
  · intro s hact hen hhigh hlive
    exact exec_tipolShortSample_end hact hen hhigh hlive
  · intro s hact
    exact exec_clearreg_empties hact
  · intro s f e k v tick l n hact hon hcalled hrun hdue hop hn hread
    exact exec_tipolReply_valid hact hon hcalled hrun hdue hop hn hread
  · intro s f e k l n hact hon hcalled hrun hdue hop hn hedge
    exact exec_tipolReply_none hact hon hcalled hrun hdue hop hn hedge
  · intro s f hact h
    exact exec_tipolReply_waits hact h
  · intro s maps x hact hmaps hon hop hcalled hdue hx hsilent hfirst hreq
    exact exec_searchTransactionEnd_empty hact hmaps hon hop hcalled hdue hx hsilent hfirst hreq
  · intro s maps x hact hmaps hon hop hcalled hdue hx hsilent hfirst htries
    exact exec_searchTransactionEnd_again hact hmaps hon hop hcalled (State.scanOver_silent maps hdue hx hsilent)
      (State.tipScanEnd_fails hx hsilent hfirst) htries
  · intro s maps x hact hmaps hon hop hcalled hdue hx hsilent hfirst htries
    exact exec_searchTransactionEnd_fault hact hmaps hon hop hcalled hdue hx hsilent hfirst htries
  · intro s maps x num new hact hmaps hon hop hcalled hover hx hans hwalk hok hnew hfree
    exact exec_searchTransactionEnd_found hact hmaps hon hop hcalled hover hx hans hwalk hok hnew hfree
  · intro s maps hact hmaps hwait
    exact exec_searchTransactionEnd_waits hact hmaps hwait
  · intro s answer hact hon hop hcalled hwin hrun hlow
    exact exec_tipolCall_low hact hon hop hcalled hwin hrun hlow
  · intro s f e k j l hact hon hcalled hrun hdue hop
    exact exec_tipolReply_further hact hon hcalled hrun hdue hop
  · intro s maps x hact hmaps hon hop hcalled hover hx hans hwalk htries
    exact exec_searchTransactionEnd_again hact hmaps hon hop hcalled hover (State.tipScanEnd_broken hx hans hwalk) htries
  · intro s maps x hx
    exact State.scanOver_eq hx

end Sys2Proof.Machine
end
